-- ==== Sys2Proof/Word.lean ====
section
/-! DEFINITION. The word types of the machine and their plainest arithmetic (spec/00 R6, R12). -/

namespace Sys2Proof

/-- A byte of memory. -/
abbrev Byte := BitVec 8

/-- A 32-bit vector lane or word. -/
abbrev W32 := BitVec 32

/-- A 64-bit value: a scalar token, a frame register, a generic pointer. -/
abbrev W64 := BitVec 64

/-- Bits [hi:lo] of x, as a number (R12). -/
def bitsOf (x hi lo : Nat) : Nat := x / 2 ^ lo % 2 ^ (hi + 1 - lo)

end Sys2Proof
end

