-- ==== Sys2Proof/Syntax.lean ====
section
/-! DEFINITION. The abstract syntax of the steps: sources, targets and destinations of slot operations
(spec/07 R183 to R196), and `Instr`, one constructor per row of the opcode table. -/

namespace Sys2Proof

/-- A 6-bit source field (R192). Codes 0x2E and 0x2F are reserved and have no constructor. -/
inductive Src where
  | f (r : BitVec 5) | p (n : BitVec 2) | b (n : BitVec 2)
  | zero | tag | iter | lanes | quartz | privBase
  | lit (k : BitVec 3)
  | one | negOne | two | four | eight | sixteen | fOne | fHalf
  deriving DecidableEq, Repr

/-- The tag-ops of R186. Code 111 is reserved and has no constructor. -/
inductive TagOp where
  | same | next | exit | spawn | path0 | path1 | strip
  deriving DecidableEq, Repr

/-- A valid target word (R185, R189). -/
structure Target where
  bun : BitVec 5
  port : BitVec 2
  top : TagOp
  deriving DecidableEq, Repr

/-- A destination of the generic format (R184, R185): a latch, a frame register, two targets, or a target 0
with the latch flag of an invalid target 1. -/
inductive Dst where
  | latch (b : BitVec 2)
  | reg (r : BitVec 5)
  | targets (t0 t1 : Option Target)
  | targetLatch (t0 : Option Target) (b : BitVec 2)
  deriving DecidableEq, Repr

/-- The destination form of a generic operation without a result (R195). -/
abbrev noDst : Dst := .targets none none

/-- A value destination of the four-source format (R189). -/
inductive VDst where
  | latch (b : BitVec 2)
  | reg (r : BitVec 5)
  | target (t : Option Target)
  | none
  deriving DecidableEq, Repr

/-- A destination of the system format (R190). -/
inductive YDst where
  | none
  | reg (r : BitVec 5)
  | target (t : Option Target)
  deriving DecidableEq, Repr

/-- The type codes of R196. -/
inductive Ty where
  | i64 | i32 | i16 | i8 | n64 | n32 | n16 | n8
  | f32 | bf16 | f16 | e4m3 | e5m2 | e2m1 | a48 | i16x2
  deriving DecidableEq, Repr

/-- The maps of R197 to R200: VA and VB share one. -/
inductive SlotKind where
  | s | v | m | ld | sa | cp | sy
  deriving DecidableEq, Repr

/-- A name without its version: namespace, tensor and coordinates (R72). -/
structure TileName where
  ns : BitVec 12
  tensor : BitVec 20
  c0 : BitVec 12
  c1 : BitVec 12
  c2 : BitVec 12
  c3 : BitVec 12
  deriving DecidableEq, Repr

/-- What the platform estimates for a field at one grant interval (R410, R413), in power units: the engine work of the last
interval, and the power predicted for the next. -/
structure PowerInputs where
  engine : Nat
  predicted : Nat
  deriving DecidableEq, Repr

/-- How a sector came back from its stack (R122). -/
inductive SectorStatus where
  | good | crcBad | uncorrectable
  deriving DecidableEq, Repr

/-- The function of the host link that a register write addresses: a virtual function or physical function 0. -/
inductive HostFn where
  | vf (n : Nat)
  | pf
  deriving DecidableEq, Repr

/-- The kinds of name message that cross a span link (R379): those that go to a home, those that answer them, and those of the branch of a
tree that crosses the link. -/
inductive SpanKind where
  | reg | rearm | prune | claim | claimRel | retain | coll | publish | piece | rerequest
  | regReply | claimReply | ack | copy
  | flit | element | credit | detach
  deriving DecidableEq, Repr

/-- The name message that a span frame carries (R378, R379): the spec does not state the layout of its flit, so its contents are the
event's argument. `tile` is the logical tile of the sender or subscriber on its own module, `peer` its partition there. -/
structure SpanFlit where
  kind : SpanKind
  hi : BitVec 64
  lo : BitVec 64
  mask : BitVec 4 := 0
  next : Bool := false
  stream : Bool := false
  credit : Nat := 0
  tile : Nat := 0
  peer : BitVec 6 := 0
  frame : Option Nat := none
  taskId : BitVec 32 := 0
  slot : Nat := 0
  sect : Nat := 0
  index : Nat := 0
  origin : Nat := 0
  word : BitVec 64 := 0
  mode : BitVec 2 := 0
  bytes : List (BitVec 8) := []
  tick : BitVec 64 := 0
  late : Bool := false
  fallthrough : Bool := false
  reduction : Bool := false
  completion : Bool := false
  accepted : Bool := false
  overflow : Bool := false
  both : Bool := false
  /-- How many flits of the message follow: a tile takes one for each sector. -/
  left : Nat := 0
  deriving DecidableEq, Repr

/-- What a start finds in the hardware (R400): the units whose normal action fails and whose alternate fails, the physical tiles of
each field, 0 to 169, that fail their test, and the two copies of the controller and field firmware images; the detail codes of failures
(step, unit, code: R401), the alarms raised as steps begin (step, source: R405), and the step during which power is lost (R401). -/
structure BootInputs where
  normalFails : List (Nat × Nat)
  altFails : List (Nat × Nat)
  badTiles : List (Nat × Nat)
  ctlA : List (BitVec 8)
  ctlB : List (BitVec 8)
  fieldA : List (BitVec 8)
  fieldB : List (BitVec 8)
  details : List (Nat × Nat × BitVec 16) := []
  alarms : List (Nat × Nat) := []
  lostIn : Option Nat := none
  deriving DecidableEq, Repr

/-- A reading of a stack's own sensor, in 1/16 °C (R416), by the number of its rim agent. -/
structure StackReading where
  agent : Nat
  temp : BitVec 16
  deriving DecidableEq, Repr

/-- A write of word 2 of an entry of a subscription table (R373): the entry and the word as written. -/
structure SubWrite where
  index : Nat
  w2 : BitVec 64
  deriving DecidableEq, Repr

/-- One constructor per row of the opcode table (spec/opcode_table.json): 223 slot operations, then 143 events. -/
inductive Instr where
  | add (t : Ty) (a : Src) (b : Src) (d : Dst)
  | sub (t : Ty) (a : Src) (b : Src) (d : Dst)
  | mul (t : Ty) (a : Src) (b : Src) (d : Dst)
  | mulh (t : Ty) (a : Src) (b : Src) (d : Dst)
  | div (t : Ty) (a : Src) (b : Src) (d : Dst)
  | rem (t : Ty) (a : Src) (b : Src) (d : Dst)
  | absOp (t : Ty) (a : Src) (d : Dst)
  | andOp (t : Ty) (a : Src) (b : Src) (d : Dst)
  | orOp (t : Ty) (a : Src) (b : Src) (d : Dst)
  | xor (t : Ty) (a : Src) (b : Src) (d : Dst)
  | andn (t : Ty) (a : Src) (b : Src) (d : Dst)
  | shl (t : Ty) (a : Src) (b : Src) (d : Dst)
  | shr (t : Ty) (a : Src) (b : Src) (d : Dst)
  | sra (t : Ty) (a : Src) (b : Src) (d : Dst)
  | rol (t : Ty) (a : Src) (b : Src) (d : Dst)
  | min (t : Ty) (a : Src) (b : Src) (d : Dst)
  | max (t : Ty) (a : Src) (b : Src) (d : Dst)
  | clz (t : Ty) (a : Src) (d : Dst)
  | ctz (t : Ty) (a : Src) (d : Dst)
  | popc (t : Ty) (a : Src) (d : Dst)
  | brev (t : Ty) (a : Src) (d : Dst)
  | bfx (t : Ty) (a : Src) (b : Src) (d : Dst)
  | bfi (t : Ty) (a : Src) (b : Src) (c : Src) (d : Dst)
  | ceq (t : Ty) (a : Src) (b : Src) (d : Dst)
  | cne (t : Ty) (a : Src) (b : Src) (d : Dst)
  | clt (t : Ty) (a : Src) (b : Src) (d : Dst)
  | cle (t : Ty) (a : Src) (b : Src) (d : Dst)
  | sel (a : Src) (b : Src) (c : Src) (d : Dst)
  | mov (t : Ty) (a : Src) (d : Dst)
  | fadd (t : Ty) (a : Src) (b : Src) (d : Dst)
  | fsub (t : Ty) (a : Src) (b : Src) (d : Dst)
  | fmul (t : Ty) (a : Src) (b : Src) (d : Dst)
  | fma (t : Ty) (a : Src) (b : Src) (c : Src) (d : Dst)
  | fmin (t : Ty) (a : Src) (b : Src) (d : Dst)
  | fmax (t : Ty) (a : Src) (b : Src) (d : Dst)
  | fcmp (t : Ty) (a : Src) (b : Src) (d : Dst)
  | fcvt (t : Ty) (a : Src) (b : Src) (c : Src) (d : Dst)
  | fclass (t : Ty) (a : Src) (d : Dst)
  | adda (a : Src) (b : Src) (d : Dst)
  | spq (a : Src) (d : Dst)
  | spcvTooff (k : BitVec 2) (a : Src) (d : Dst)
  | spcvToptr (k : BitVec 2) (a : Src) (d : Dst)
  | mkwin (k : BitVec 2) (a : Src) (d : Dst)
  | nameh (a : Src) (b : Src) (c : Src) (d : Dst)
  | namel (a : Src) (b : Src) (c : Src) (d : Dst)
  | steer (a : Src) (b : Src) (d : Dst)
  | merge (d : Dst)
  | loop (a : Src) (b : Src) (c : Src) (d : Dst)
  | loopVec (a : Src) (b : Src) (c : Src) (d : Dst)
  | whileOp (a : Src) (c : Src) (d : Dst)
  | exitOp (a : Src) (b : Src) (d : Dst)
  | join (a : Src) (b : Src) (c : Src) (d : Dst)
  | goto (c : Src)
  | callb (a : Src) (b : Src) (c : Src) (d : Dst)
  | retb (a : Src) (b : Src) (d : Dst)
  | sink
  | gate (a : Src) (b : Src) (d : Dst)
  | tagq (k : BitVec 2) (a : Src) (d : Dst)
  | frameq (a : Src) (d : Dst)
  | qtime (a : Src) (d : Dst)
  | vadd (t : Ty) (a : Src) (b : Src) (d : Dst)
  | vsub (t : Ty) (a : Src) (b : Src) (d : Dst)
  | vmul (t : Ty) (a : Src) (b : Src) (d : Dst)
  | vfma (t : Ty) (a : Src) (b : Src) (c : Src) (d : Dst)
  | vfms (t : Ty) (a : Src) (b : Src) (c : Src) (d : Dst)
  | vfnma (t : Ty) (a : Src) (b : Src) (c : Src) (d : Dst)
  | vmin (t : Ty) (a : Src) (b : Src) (d : Dst)
  | vmax (t : Ty) (a : Src) (b : Src) (d : Dst)
  | vabs (t : Ty) (a : Src) (d : Dst)
  | vneg (t : Ty) (a : Src) (d : Dst)
  | vmulh (t : Ty) (a : Src) (b : Src) (d : Dst)
  | vclamp (t : Ty) (a : Src) (b : Src) (c : Src) (d : Dst)
  | vand (t : Ty) (a : Src) (b : Src) (d : Dst)
  | vor (t : Ty) (a : Src) (b : Src) (d : Dst)
  | vxor (t : Ty) (a : Src) (b : Src) (d : Dst)
  | vandn (t : Ty) (a : Src) (b : Src) (d : Dst)
  | vshl (t : Ty) (a : Src) (b : Src) (d : Dst)
  | vshr (t : Ty) (a : Src) (b : Src) (d : Dst)
  | vsra (t : Ty) (a : Src) (b : Src) (d : Dst)
  | vclz (t : Ty) (a : Src) (d : Dst)
  | vpopc (t : Ty) (a : Src) (d : Dst)
  | vceq (t : Ty) (a : Src) (b : Src) (d : Dst)
  | vcne (t : Ty) (a : Src) (b : Src) (d : Dst)
  | vclt (t : Ty) (a : Src) (b : Src) (d : Dst)
  | vcle (t : Ty) (a : Src) (b : Src) (d : Dst)
  | vcun (t : Ty) (a : Src) (b : Src) (d : Dst)
  | vsel (t : Ty) (a : Src) (b : Src) (c : Src) (d : Dst)
  | vclass (t : Ty) (a : Src) (d : Dst)
  | vcvt (t : Ty) (a : Src) (b : Src) (c : Src) (d : Dst)
  | vrndi (t : Ty) (a : Src) (b : Src) (d : Dst)
  | vcvti (t : Ty) (a : Src) (b : Src) (d : Dst)
  | vpack (t : Ty) (a : Src) (b : Src) (c : Src) (d : Dst)
  | vunpk (t : Ty) (a : Src) (b : Src) (d : Dst)
  | vqnt (a : Src) (b : Src) (d : Dst)
  | vdqnt (a : Src) (b : Src) (c : Src) (d : Dst)
  | vrcp (a : Src) (d : Dst)
  | vrsq (a : Src) (d : Dst)
  | vfexp (a : Src) (d : Dst)
  | vflog (a : Src) (d : Dst)
  | vscx (a : Src) (b : Src) (d : Dst)
  | vgetx (a : Src) (d : Dst)
  | vgetm (a : Src) (d : Dst)
  | vbcast (a : Src) (b : Src) (d : Dst)
  | vextr (a : Src) (b : Src) (d : Dst)
  | vperm (a : Src) (b : Src) (d : Dst)
  | vshfl (a : Src) (b : Src) (d : Dst)
  | vsum (t : Ty) (a : Src) (d : Dst)
  | vmaxr (t : Ty) (a : Src) (d : Dst)
  | vminr (t : Ty) (a : Src) (d : Dst)
  | vscan (t : Ty) (a : Src) (d : Dst)
  | viota (a : Src) (b : Src) (d : Dst)
  | vcmpr (a : Src) (b : Src) (d : Dst)
  | vrun (a : Src) (b : Src) (c : Src) (d : Dst)
  | mcfg (n : BitVec 3) (a : Src)
  | msrca (n : BitVec 3) (a : Src) (b : Src)
  | msrcb (n : BitVec 3) (a : Src) (b : Src)
  | marm (n : BitVec 3) (a : Src)
  | mdisarm (n : BitVec 3)
  | mzero (n : BitVec 3)
  | mloadc (n : BitVec 3) (a : Src) (b : Src)
  | mdrain (n : BitVec 3) (a : Src) (b : Src)
  | mscale (n : BitVec 3) (a : Src)
  | msort (k : BitVec 2) (a : Src) (b : Src) (d : Dst)
  | mstat (n : BitVec 3) (d : Dst)
  | tslotAlloc (a : Src) (b : Src)
  | tslotFree (a : Src)
  | tslotqNow (a : Src) (d : Dst)
  | tslotqFull (a : Src) (d : Dst)
  | tslotqEmpty (a : Src) (d : Dst)
  | tsetEmpty (a : Src)
  | tsetFull (a : Src)
  | tsetRow (a : Src) (b : Src) (c : Src)
  | tsetRowfull (a : Src) (b : Src) (c : Src)
  | ld (w : BitVec 2) (a : Src) (b : Src) (ord : Src) (v : VDst) (done : Option Target)
  | ldv (w : BitVec 2) (a : Src) (b : Src) (ord : Src) (v : VDst) (done : Option Target)
  | lds (w : BitVec 2) (a : Src) (b : Src) (ord : Src) (v : VDst) (done : Option Target)
  | ldx (w : BitVec 2) (a : Src) (b : Src) (ord : Src) (v : VDst) (done : Option Target)
  | ldag (w : BitVec 2) (a : Src) (b : Src) (ord : Src) (v : VDst) (done : Option Target)
  | ldq (w : BitVec 2) (a : Src) (b : Src) (ord : Src) (v : VDst) (done : Option Target)
  | ldacq (w : BitVec 2) (a : Src) (b : Src) (ord : Src) (v : VDst) (done : Option Target)
  | pref (rx : Bool) (a : Src) (b : Src) (ord : Src)
  | stashq (a : Src) (ord : Src) (v : VDst) (done : Option Target)
  | st (sc : BitVec 2) (w : BitVec 2) (a : Src) (b : Src) (e : Src) (ord : Src) (done : Option Target)
  | stv (sc : BitVec 2) (w : BitVec 2) (a : Src) (b : Src) (e : Src) (ord : Src) (done : Option Target)
  | sts (sc : BitVec 2) (w : BitVec 2) (a : Src) (b : Src) (e : Src) (ord : Src) (done : Option Target)
  | stx (sc : BitVec 2) (w : BitVec 2) (a : Src) (b : Src) (e : Src) (ord : Src) (done : Option Target)
  | stag (sc : BitVec 2) (w : BitVec 2) (a : Src) (b : Src) (e : Src) (ord : Src) (done : Option Target)
  | strel (sc : BitVec 2) (w : BitVec 2) (a : Src) (b : Src) (e : Src) (ord : Src) (done : Option Target)
  | aadd (sc : BitVec 2) (w : BitVec 2) (a : Src) (b : Src) (ord : Src) (v : VDst) (done : Option Target)
  | amin (sc : BitVec 2) (w : BitVec 2) (a : Src) (b : Src) (e : Src) (ord : Src) (v : VDst) (done : Option Target)
  | amax (sc : BitVec 2) (w : BitVec 2) (a : Src) (b : Src) (e : Src) (ord : Src) (v : VDst) (done : Option Target)
  | aand (sc : BitVec 2) (w : BitVec 2) (a : Src) (b : Src) (ord : Src) (v : VDst) (done : Option Target)
  | aor (sc : BitVec 2) (w : BitVec 2) (a : Src) (b : Src) (ord : Src) (v : VDst) (done : Option Target)
  | axor (sc : BitVec 2) (w : BitVec 2) (a : Src) (b : Src) (ord : Src) (v : VDst) (done : Option Target)
  | axchg (sc : BitVec 2) (w : BitVec 2) (a : Src) (b : Src) (ord : Src) (v : VDst) (done : Option Target)
  | acas (sc : BitVec 2) (w : BitVec 2) (a : Src) (b : Src) (e : Src) (ord : Src) (v : VDst) (done : Option Target)
  | afadd (sc : BitVec 2) (w : BitVec 2) (a : Src) (b : Src) (ord : Src) (v : VDst) (done : Option Target)
  | afadd2 (sc : BitVec 2) (w : BitVec 2) (a : Src) (b : Src) (e : Src) (ord : Src) (v : VDst) (done : Option Target)
  | aincw (sc : BitVec 2) (w : BitVec 2) (a : Src) (b : Src) (ord : Src) (v : VDst) (done : Option Target)
  | adecw (sc : BitVec 2) (w : BitVec 2) (a : Src) (b : Src) (ord : Src) (v : VDst) (done : Option Target)
  | drain (sc : BitVec 2) (ord : Src) (done : Option Target)
  | ordjoin (a : Src) (b : Src) (e : Src) (ord : Src) (done : Option Target)
  | pfence (sc : BitVec 2) (ord : Src) (done : Option Target)
  | flushsLine (sc : BitVec 2) (a : Src) (ord : Src) (done : Option Target)
  | flushsAll (sc : BitVec 2) (ord : Src) (done : Option Target)
  | invsLine (sc : BitVec 2) (a : Src) (ord : Src) (done : Option Target)
  | invsAll (sc : BitVec 2) (ord : Src) (done : Option Target)
  | pubt (a : Src) (b : Src) (e : Src) (ord : Src) (done : Option Target)
  | pubr (k : BitVec 2) (a : Src) (b : Src) (e : Src) (ord : Src) (done : Option Target)
  | subn (a : Src) (b : Src) (e : Src) (ord : Src) (done : Option Target)
  | subnAgain (a : Src) (b : Src) (e : Src) (ord : Src) (done : Option Target)
  | unsub (a : Src) (ord : Src) (done : Option Target)
  | claim (a : Src) (b : Src) (ord : Src) (done : Option Target)
  | retain (a : Src) (b : Src) (e : Src) (ord : Src) (done : Option Target)
  | sopen (a : Src) (b : Src) (e : Src) (ord : Src) (done : Option Target)
  | sclose (a : Src) (ord : Src) (done : Option Target)
  | spop (a : Src) (ord : Src) (v : VDst) (done : Option Target)
  | spopKeep (a : Src) (ord : Src) (v : VDst) (done : Option Target)
  | circ (a : Src) (b : Src) (e : Src) (ord : Src) (done : Option Target)
  | circrel (a : Src) (b : Src) (ord : Src) (done : Option Target)
  | coll (k : BitVec 2) (a : Src) (b : Src) (e : Src) (ord : Src) (done : Option Target)
  | copy (a : Src) (b : Src) (e : Src) (ord : Src) (v : VDst) (done : Option Target)
  | copyx (n : BitVec 3) (a : Src) (b : Src) (e : Src) (ord : Src) (v : VDst) (done : Option Target)
  | agcfg (n : BitVec 3) (a : Src) (ord : Src) (done : Option Target)
  | agfree (n : BitVec 3) (ord : Src) (done : Option Target)
  | wuntil (a : Src) (ord : Src) (y : YDst)
  | barc (a : Src) (b : Src) (ord : Src) (x : BitVec 8)
  | barcReset (a : Src) (b : Src) (ord : Src) (x : BitVec 8)
  | bara (sc : BitVec 2) (a : Src) (b : Src) (ord : Src) (x : BitVec 8)
  | barw (a : Src) (b : Src) (ord : Src) (x : BitVec 8) (y : YDst)
  | sigadd (sc : BitVec 2) (a : Src) (b : Src) (ord : Src)
  | sigwait (a : Src) (b : Src) (ord : Src) (y : YDst)
  | tspawn (a : Src) (ord : Src) (y : YDst)
  | tend (ord : Src)
  | trapRaise (a : Src) (ord : Src)
  | trapVec (a : Src) (ord : Src)
  | tretRetry (ord : Src)
  | tretSkip (ord : Src)
  | fmtw (a : Src) (ord : Src) (x : BitVec 5)
  | fmtr (ord : Src) (x : BitVec 5) (y : YDst)
  | trace (tag : BitVec 4) (a : Src) (b : Src) (ord : Src)
  | brk (tag : BitVec 4) (ord : Src)
  | pmodeDurable (ord : Src)
  | pmodeRestartable (ord : Src)
  | csrr (ord : Src) (x : BitVec 11) (y : YDst)
  | csrw (a : Src) (ord : Src) (x : BitVec 11)
  | tlbinvAll (a : Src) (b : Src) (ord : Src) (y : YDst)
  | tlbinvAsid (a : Src) (b : Src) (ord : Src) (y : YDst)
  | tlbinvPage (a : Src) (b : Src) (ord : Src) (y : YDst)
  | nsbind (a : Src) (ord : Src) (y : YDst)
  | parkStop (a : Src) (ord : Src) (y : YDst)
  | parkResume (a : Src) (ord : Src) (y : YDst)
  | frkill (a : Src) (b : Src) (ord : Src) (y : YDst)
  | tmove (a : Src) (b : Src) (ord : Src) (y : YDst)
  | preemptStop (a : Src) (b : Src) (ord : Src) (y : YDst)
  | preemptResume (a : Src) (b : Src) (ord : Src) (y : YDst)
  | routew (a : Src) (b : Src) (ord : Src) (y : YDst)
  | slateqRec (a : Src) (ord : Src) (y : YDst)
  | slateqSector (a : Src) (ord : Src) (y : YDst)
  | slateqDrec (a : Src) (ord : Src) (y : YDst)
  | watchArrive (sig : Bool) (a : Src) (b : Src) (ord : Src) (x : BitVec 8) (y : YDst)
  | watchLast (sig : Bool) (a : Src) (b : Src) (ord : Src) (x : BitVec 8) (y : YDst)
  | watchFlip (sig : Bool) (a : Src) (b : Src) (ord : Src) (x : BitVec 8) (y : YDst)
  | tokenArrival (t : Nat)
  | holdingQueueDrain (t : Nat)
  | bundleIssue (t : Nat)
  | trapEntry (t : Nat) (f : Nat)
  | abortFaultRecord (t : Nat) (f : Nat)
  | instancePromotion (t : Nat) (i : Nat)
  | bundleFinish (t : Nat) (i : Nat)
  | blockCommit (t : Nat) (i : Nat)
  | deferredReplacementCommit (t : Nat) (i : Nat)
  | loopSpawn (t : Nat) (l : Nat)
  | loopContinuation (t : Nat) (l : Nat)
  | tagDeadlockCheck (t : Nat)
  | throttleEvent (t : Nat)
  | tspawnAtHub (m : Nat) (taskId : BitVec 32)
  | taskPlacement (field : Nat) (taskId : BitVec 32) (t : Nat)
  | tileDelivery (m : Nat)
  | activation (t : Nat)
  | taskReserving (t : Nat) (taskId : BitVec 32)
  | frameEndDone (t : Nat) (f : Nat)
  | moveComplete (t : Nat) (taskId : BitVec 32)
  | powerGrant (field : Nat) (inp : PowerInputs)
  | railCurrentSample (field : Nat) (units : BitVec 10)
  | matrixFiringStart (t : Nat)
  | kStep (t : Nat)
  | matrixFiringEnd (t : Nat)
  | matrixJobDone (t : Nat) (acc : Nat)
  | msortPass (t : Nat)
  | loadReply (m : Nat)
  | doneTokenFire (t : Nat) (f : Nat) (i : Nat)
  | drainWaitEnd (t : Nat) (i : Nat)
  | pfenceWaitEnd (t : Nat) (i : Nat)
  | stashFlushDone (t : Nat) (i : Nat)
  | wuntilTick (t : Nat) (i : Nat)
  | copyComplete (t : Nat) (i : Nat)
  | spopDelivery (t : Nat) (i : Nat)
  | tslotqWaitDelivery (t : Nat) (i : Nat)
  | claimReply (m : Nat)
  | taskidReply (m : Nat)
  | registrationAtRouter (m : Nat)
  | pruneAtRouter (m : Nat)
  | publishFlitAtRouter (m : Nat)
  | registrationAtHome (m : Nat)
  | pruneAtHome (m : Nat)
  | directoryIngressRetry (t : Nat) (i : Nat)
  | publishAtHome (m : Nat)
  | claimAtHome (m : Nat)
  | retainAtHome (m : Nat)
  | retentionExpiry (t : Nat) (name : TileName) (ver : BitVec 16)
  | collAtHome (m : Nat)
  | partialAtHome (m : Nat)
  | partialRetry (t : Nat) (i : Nat)
  | partialUnregisteredDrop (t : Nat) (i : Nat)
  | registrationReply (m : Nat)
  | fetchAtRim (m : Nat)
  | fetchPublish (agent : Nat) (i : Nat)
  | streamElementAtRouter (m : Nat)
  | creditReturn (m : Nat)
  | branchstallExpiry (t : Nat) (i : Nat)
  | detachNotice (m : Nat)
  | unicastRerequest (m : Nat)
  | circAtRouter (m : Nat)
  | circrelAtRouter (m : Nat)
  | circIdleExpiry (t : Nat) (i : Nat)
  | requestAtHome (m : Nat)
  | probeAckAtHome (m : Nat)
  | writebackAtHome (m : Nat)
  | atomicAtHome (m : Nat)
  | fillReply (m : Nat)
  | rxGrant (m : Nat)
  | probeDown (m : Nat)
  | probeInv (m : Nat)
  | pageWalk (t : Nat) (i : Nat) (stall : BitVec 32)
  | hbmSectorReply (m : Nat) (st : SectorStatus)
  | pageMigration (src : Nat) (dst : Nat)
  | migrationForward (agent : Nat) (i : Nat)
  | barcAtBarrier (m : Nat)
  | baraAtBarrier (m : Nat)
  | barwAtBarrier (m : Nat)
  | sigaddAtHome (m : Nat)
  | sigwaitAtHome (m : Nat)
  | persistEpochStart (t : Nat)
  | dRecordWritten (t : Nat)
  | cDomainPowerLoss (t : Nat) (torn : Option Nat)
  | cDomainRevival (t : Nat)
  | replayStallTimeout (t : Nat) (f : Nat)
  | fieldPowerLoss (field : Nat)
  | fieldRevivalResend (t : Nat) (field : Nat)
  | preemptMarkerEffect (t : Nat) (f : Nat)
  | parkIssueCutoff (t : Nat) (f : Nat)
  | frameRestore (t : Nat) (i : Nat)
  | frameWatchdogExpiry (t : Nat) (f : Nat)
  | tileWatchdogExpiry (t : Nat)
  | thermalLevelRise (field : Nat) (temp : BitVec 16)
  | criticalRailRemoval (field : Nat)
  | thermalLevelFall (field : Nat) (temp : BitVec 16)
  | spineSwitch (t : Nat)
  | moduleStart (inp : BootInputs)
  | svnminUpdate (record : List (BitVec 8))
  | securityAlarm (source : BitVec 3) (random : List (BitVec 8))
  | spdmGetVersion (req : List (BitVec 8))
  | spdmGetCapabilities (req : List (BitVec 8))
  | spdmNegotiateAlgorithms (req : List (BitVec 8))
  | spdmGetDigests (req : List (BitVec 8))
  | spdmGetCertificate (req : List (BitVec 8))
  | spdmChallenge (req : List (BitVec 8))
  | spdmGetMeasurements (req : List (BitVec 8)) (index : BitVec 8) (signed : Bool)
  | bar4Read (p : Nat) (off : BitVec 64) (len : Nat)
  | bar4Write (p : Nat) (off : BitVec 64) (bytes : List (BitVec 8))
  | publishHeaderPayload (p : Nat) (slot : BitVec 4) (w0 : BitVec 64) (w1 : BitVec 64) (w2 : BitVec 64) (w3 : BitVec 64)
  | publishHeaderGlobal (p : Nat) (slot : BitVec 4) (w0 : BitVec 64) (w1 : BitVec 64) (w2 : BitVec 64) (w3 : BitVec 64)
  | hxresMapped (p : Nat) (stall : BitVec 32)
  | hxresDeclined (p : Nat) (stall : BitVec 32)
  | hptedataWrite (p : Nat) (data : BitVec 64)
  | htlbinvAsid (p : Nat)
  | htlbinvPage (p : Nat) (va : BitVec 64)
  | hsubArm (p : Nat) (entry : Nat) (w2 : BitVec 64)
  | hsubWithdraw (p : Nat) (entry : SubWrite)
  | hsubciWrite (p : Nat) (entry : Nat) (ci : BitVec 32)
  | hostDelivery (p : Nat) (i : Nat)
  | hpctlCreate (p : Nat)
  | hpctlDestroy (p : Nat)
  | hdstepArm (p : Nat) (w : BitVec 64)
  | hdstepDisarm (p : Nat)
  | hjclr (entry : BitVec 16)
  | registerWrite (fn : HostFn) (off : Nat) (size : Nat) (data : BitVec 64)
  | functionLevelReset (p : Nat)
  | loaderLaunch (p : Nat) (ids : List (BitVec 32))
  | spanFrameReceive (link : Nat) (header : BitVec 96) (crcOk : Bool) (flit : Option SpanFlit)
  | spanReplay (link : Nat)
  | spanLinkDown (link : Nat)
  | spanPublishDrop (link : Nat) (i : Nat)
  | tokenSampleEject (t : Nat) (i : Nat)
  | counterSnapshot (p : Nat)
  | lifeStorePersist (field : Nat)
  | lifeSample (field : Nat) (temp : BitVec 16) (microvolt : Nat)
  | fieldPowerReturn (field : Nat)
  | spanLinkUp (link : Nat)
  | hbmAccessAtRim (m : Nat) (crcOk : Bool)
  | stackSelfRefresh (agent : StackReading)
  | supervisorOperationComplete (t : Nat) (i : Nat)
  | nameOperationAcknowledgement (m : Nat)
  | claimReleaseAtHome (m : Nat)
  | nameEntryRelease (t : Nat) (name : TileName)
  deriving DecidableEq, Repr

end Sys2Proof
end

