-- ==== Sys2Proof/Machine/State.lean ====
section
/-! DEFINITION. The state of the module as plain data, the reasons a step can stop, and the state after reset.
Docstrings name the rule of spec/ that gives each piece. Sequences are lists in the order the rule gives;
`AMap` is a list of (number, value) pairs in rising order of the number. -/

namespace Sys2Proof.Machine

/-- A sparse table: pairs in strictly rising order of the key. -/
abbrev AMap (α : Type) := List (Nat × α)

/-- Byte memory: strictly rising addresses, no entry equal to 0, what an unlisted address reads as. -/
abbrev Memory := List Host.Cell

/-- Raised by exec for an event that names a unit the module does not have (a tile at or above 10,240, a field at or
above 64, a function, agent or link beyond its count: R1). Safe: no such unit exists, so nothing can happen there. -/
inductive Fault where
  | noSuchUnit
  deriving DecidableEq, Repr

/-- Raised by an arm of exec whose instruction has no meaning yet. Safe: the run stops. -/
inductive Refusal where
  | notModelled (mnemonic : String)
  deriving DecidableEq, Repr

/-! ### Tokens, instances, bundle instances (spec/01, spec/02) -/

/-- The value of a token (R53). A vector token lists its active lanes: its length is the run's length. -/
inductive Val where
  | scalar (x : W64)
  | vector (base : W32) (lanes : List W32)
  | order
  deriving DecidableEq, Repr

/-- The cause codes of R344. -/
inductive Cause where
  | illop | illbun | illsrc | frwdepth | pathovf | tagx | promise | idxbound | agbound | scrforeign | winfault
  | align | xlate | prot | atomrst | barovr | sublapse | matcfg | fmtcfg | priv | revdiv | trapsw | brk | wdog
  | slotcfg | stream | namecfg
  deriving DecidableEq, Repr

/-- Where a fault is raised: the tag of the instance, its block and bundle. -/
structure Site where
  inst : Nat
  p : BitVec 8
  pd : Nat
  block : Nat
  bun : Nat
  deriving DecidableEq, Repr

/-- Where an access comes from: its instance, slot and lane; slot 8 where it names none (R203, R381). -/
structure At where
  site : Site := ⟨0, 0, 0, 0, 0⟩
  slot : Nat := 8
  lane : Nat := 0
  deriving DecidableEq, Repr

/-- A fault with its cause words and the TRAPADDR and lane it reports (R343, R381, R382). -/
structure FaultInfo where
  cause : Cause
  cw1 : W64 := 0
  cw2 : W64 := 0
  cw3 : W64 := 0
  cw4 : W64 := 0
  addr : W64 := 0
  lane : Nat := 0
  slot : Nat := 8
  deriving DecidableEq, Repr

/-- A token that waits in the matching store or travels inside the tile (R53, R58): its tag, its port and, when it
is matched by run, the loop identity that takes the place of the instance number. `used` marks the lanes a scalar or
order token of a vector instance has served (R59); `chain` names the firings of its instance whose buffered stores are
ordered before it (R30); `cycle` and `src` say when it was put into delivery and by what: 0 and 1 the PEs, 2 to 6 the ingress ports
N, E, S, W, local (R57); `line` is its line of the vector operand buffer, which its parts share (R58, R60). -/
structure Tok where
  frame : Nat
  inst : Nat
  p : BitVec 8
  pd : Nat
  bun : Nat
  port : Nat
  val : Val
  loopKey : Option Nat := none
  block : Nat := 0
  used : BitVec 32 := 0
  chain : List Nat := []
  cycle : Nat := 0
  src : Nat := 6
  line : Nat := 0
  deriving DecidableEq, Repr

/-- A complete operand set (R56, R58): the ports it took, the port that formed it under rule 1, its run (R251), the
cycle in which it became COMPLETE, its promotion count (R39), whether a trap keeps it (R35), the stores ordered before it
(R30), whether it is promoted, and the lines of the vector operand buffer it holds (R60). -/
structure OpSet where
  frame : Nat
  inst : Nat
  p : BitVec 8
  pd : Nat
  bun : Nat
  block : Nat
  ports : AMap Val
  formed : Nat
  base : W32
  len : Nat
  piece : Bool
  cycle : Nat
  count : Nat
  kept : Bool := false
  chain : List Nat := []
  promoted : Bool := false
  lines : List Nat := []
  deriving DecidableEq, Repr

/-- Where a late or held token goes: an instance of a loop's next iteration, a continuation, a call's return
(R61, R64, R65, R242). -/
inductive Ctx where
  | root
  | iter (loop : Nat) (k : Nat)
  | call (id : Nat)
  deriving DecidableEq, Repr

/-- A token held until commit, or fired after it (R28, R61, R65). -/
structure HeldTok where
  top : TagOp
  bun : Nat
  port : Nat
  val : Val
  /-- The bundle instance that produced it, by the number of its issue, and its slot: tokens of one bundle instance keep the order of
  their slots (R187). -/
  fid : Nat := 0
  slot : Nat := 0
  deriving DecidableEq, Repr

/-- A token that fires after its producer's commit (R65, R133, R296): the producing instance and its context. -/
structure Late where
  frame : Nat
  inst : Nat
  ctx : Ctx
  tok : HeldTok
  deriving DecidableEq, Repr

/-- The terminal operations (R201). -/
inductive Term where
  | exit | sink | goto (block : Nat) | retb | tend
  deriving DecidableEq, Repr

/-- A loop or call that takes effect at commit (R62, R66, R242). -/
inductive Spawn where
  | loop (vec : Bool) (t : Nat) (w : W64) (body cont : Nat) (p : BitVec 8) (pd : Nat) (bun : Nat)
  | whileLoop (body cont : Nat) (p : BitVec 8) (pd : Nat) (bun : Nat)
  | call (callee ret : Nat) (p : BitVec 8) (pd : Nat) (bun : Nat)
  deriving DecidableEq, Repr

/-- One lane of a buffered store: its place in the instance's run, the pointer, the width in bytes and the data
(R303). -/
structure StLane where
  lane : Nat
  ptr : W64
  wb : Nat
  data : W64
  deriving DecidableEq, Repr

/-- A firing of a store slot operation in its entry of the store buffer (R30): the bundle, its lanes, the scope, whether
it is a release (STREL), its done token and the firing. -/
structure BufStore where
  bun : Nat
  lanes : List StLane
  scope : BitVec 2
  release : Bool
  done : Option HeldTok
  fire : Nat := 0
  p : BitVec 8 := 0
  pd : Nat := 0
  deriving DecidableEq, Repr

/-- A frame-register write waiting for commit (R31, R32): bundle, slot, register, value, and the path of the firing. -/
structure FWrite where
  bun : Nat
  slot : Nat
  reg : Nat
  val : W64
  p : BitVec 8 := 0
  pd : Nat := 0
  deriving DecidableEq, Repr

/-- The effects that wait for the commit of their block instance (R274, R296, R312, R347), one constructor for each
kind of operation; the operands stand in `Eff`. -/
inductive EffOp where
  | atomic (op : Nat) (w : Nat) (scope : BitVec 2)
  | pubt | pubr (mode : BitVec 2) | subn | subnAgain | unsub | claim | retain | sopen | sclose | spop (keep : Bool)
  | circ | circrel | coll (mode : BitVec 2) | copy (row : Option Nat) | agcfg (n : Nat) | agfree (n : Nat)
  | barc (reset : Bool) (k : Nat) | bara (scope : BitVec 2) (k : Nat) | sigadd (scope : BitVec 2) | tspawn
  | trapVec | tret (skip : Bool) | fmtw (n : Nat) | trace (tag : BitVec 4) | brk (tag : BitVec 4) | pmode (durable : Bool)
  | mcfg (n : Nat) | msrca (n : Nat) | msrcb (n : Nat) | marm (n : Nat) | mdisarm (n : Nat) | mzero (n : Nat)
  | mloadc (n : Nat) | mdrain (n : Nat) | mscale (n : Nat)
  | tslotAlloc | tslotFree | tsetEmpty | tsetFull | tsetRow | tsetRowfull
  | csrw (x : BitVec 11) | tlbinv (kind : BitVec 2) | nsbind | park (resume : Bool) | frkill | tmove
  | preempt (resume : Bool) | routew | slateq (kind : BitVec 2) | watch (kind : BitVec 2) (sig : Bool) (k : Nat)
  deriving DecidableEq, Repr

/-- A buffered effect: its bundle, slot and path, its operands as read at issue, the bytes it read (records, descriptors),
for a copy its promise, issue tick and the first slower spine since (`mark`), and the register and tokens that report it. -/
structure Eff where
  bun : Nat
  slot : Nat
  op : EffOp
  p : BitVec 8 := 0
  pd : Nat := 0
  a : W64 := 0
  b : W64 := 0
  e : W64 := 0
  base : Nat := 0
  lanes : List W32 := []
  bytes : List Byte := []
  tick : W64 := 0
  mark : Option Nat := none
  reg : Option Nat := none
  val : Option HeldTok := none
  done : Option HeldTok := none
  deriving DecidableEq, Repr

/-- A live instance (R51) with what it holds until commit (R28 to R32). `anc` lists ITER and RUNBASE of its ancestors
from depth 0 (R148, R167). `ordinal` is that of its depth-0 ancestor
(R148, R167); `entry` marks the frame's entry instance (R337), and `ran` one of whose bundle instances is FINISHED (R36). -/
structure Inst where
  frame : Nat
  gen : Nat
  ppath : BitVec 8
  ppd : Nat
  tt : Bool
  iter : W32
  runBase : W32
  runLen : Nat
  loopId : Nat
  depth : Nat
  block : Nat
  parent : Nat
  ctx : Ctx
  anc : List (W32 × W32)
  entry : Bool
  ordinal : Nat
  stores : List BufStore
  fwrites : List FWrite
  effs : List Eff
  held : List HeldTok
  flags : BitVec 6
  term : Option Term
  spawn : Option Spawn
  issuedSpawn : Bool
  issuedTerm : Bool
  issuedTret : Bool
  finished : Bool
  ran : Bool := false
  deriving DecidableEq, Repr

/-- A running loop (R62 to R66), held by the frame until its continuation is entered. `heldNext` holds next tokens for iterations still to be
spawned and the carry-out; `sentNext` every next token of a counted loop's iterations that an exit can still make the last. -/
structure Loop where
  frame : Nat
  vec : Bool
  isWhile : Bool
  trip : Nat
  window : Nat
  body : Nat
  cont : Nat
  loopId : Nat
  depth : Nat
  ppath : BitVec 8
  ppd : Nat
  iter : W32
  runBase : W32
  runLen : Nat
  outer : Nat
  outPpath : BitVec 8
  outPpd : Nat
  parent : Nat
  ctx : Ctx
  anc : List (W32 × W32)
  tt : Bool
  ordinal : Nat
  next : Nat
  live : List (Nat × Nat)
  committed : List Nat
  exitK : Option Nat
  heldNext : List (Nat × HeldTok)
  exits : List (Nat × HeldTok)
  spawnToks : List HeldTok
  late : Nat
  lateToks : List (Nat × HeldTok)
  left : List (Nat × Nat)
  lastSpawn : Option Nat := none
  sentNext : List (Nat × HeldTok) := []
  deriving DecidableEq, Repr

/-- A call in progress (R242): the caller's kept fields, the return block, the exit tokens held for it and, once it
has returned, the return instance. -/
structure Call where
  frame : Nat
  ret : Nat
  depth : Nat
  iter : W32
  runBase : W32
  runLen : Nat
  loopId : Nat
  parent : Nat
  ppath : BitVec 8
  ppd : Nat
  cpath : BitVec 8
  cpd : Nat
  ctx : Ctx
  anc : List (W32 × W32)
  tt : Bool
  ordinal : Nat
  held : List HeldTok
  returned : Option Nat
  ended : Bool
  late : Nat
  deriving DecidableEq, Repr

/-- An element of a load: its pointer, its width in bytes, the bytes forwarded from buffered stores (R30) and its value
once bound. -/
structure LoadEl where
  ptr : W64
  wb : Nat
  fwd : AMap Byte
  val : Option W64
  deriving DecidableEq, Repr

/-- A wait of an issued bundle instance (R296, R312, R286, R290). A load lists its elements, with the base of a vector
value. -/
inductive Wait where
  | load (els : List LoadEl) (vec : Option W32)
  | drain (scope : BitVec 2) (upto : Nat)
  | pfence (scope : BitVec 2) (target : Nat) (upto : Nat)
  | flush (scope : BitVec 2) (ids : List Nat)
  | spop (base : Nat) (open_ : Nat)
  | wuntil (tick : W64) (copies : List Nat)
  | barw
  | sigwait
  | tslotq (slot : Nat) (full : Bool) (seen : Bool)
  | msort (kind : BitVec 2) (keys : List W32) (passes : Nat) (t0 t1 : Option Target)
  deriving DecidableEq, Repr

/-- Where a slot's result goes: to a latch, a frame register, tokens, or nowhere. -/
structure Dest where
  latch : Option Nat := none
  reg : Option Nat := none
  toks : List Target := []
  deriving DecidableEq, Repr

/-- A pending wait with its identity, its slot, the destinations of its value and its order token, whether its token is
counted as due (R50), and, to ask again after a power loss (R310), whether a load is LDACQ and what a stash operation acts on: the
line, or none for all, and whether it invalidates; `upto` is the newest commit of the stores in the sectors that it wrote back (R308). -/
structure PWait where
  id : Nat
  slot : Nat
  wait : Wait
  dst : Dest
  done : Dest
  due : Bool := false
  acq : Bool := false
  line : Option (Option W64 × Bool) := none
  judged : Option (Option FaultInfo) := none
  upto : Nat := 0
  deriving DecidableEq, Repr

/-- A token that a slot of an issued bundle instance has produced: its slot and its rank within the slot (R187). -/
structure OutTok where
  slot : Nat
  rank : Nat
  tok : HeldTok
  deriving DecidableEq, Repr

/-- A task record (R15) with its subscription entries (R219), and the words its code name resolves to. -/
structure Task where
  arg1 : W64 := 0
  arg0 : W64 := 0
  donelo : W64 := 0
  donehi : W64 := 0
  codelo : W64 := 0
  codehi : W64 := 0
  codekb : Nat := 0
  scrkb : Nat := 0
  privkb : Nat := 0
  stashu : Nat := 0
  entry : Nat := 0
  taskId : BitVec 32 := 0
  stage : Nat := 0
  prio : Nat := 0
  depcnt : Nat := 0
  subcnt : Nat := 0
  doneen : Bool := false
  subs : List (W64 × W64 × W64) := []
  deriving DecidableEq, Repr

/-- The states of a frame (R26). -/
inductive FrameSt where
  | free | active | trapped | ending | parked
  deriving DecidableEq, Repr

/-- An open stream of a frame (R323, R324); `cut` notes a detach notice that came while its frame was parked (R90), `open_` is its
number among the frame's openings (R325), `lost` counts the credits that emptyings by firings left unreturned, and `spent` lists the elements a firing used up before the SPOP that
delivered them committed (R363). -/
structure Stream where
  base : Nat
  depth : Nat
  name : TileName
  v0 : BitVec 16
  cursor : Nat
  next : Nat
  detached : Bool
  keptSlots : List (Nat × Option Late)
  cut : Bool := false
  open_ : Nat := 0
  lost : Nat := 0
  spent : List Nat := []
  deriving DecidableEq, Repr

/-- A claim the frame committed: its name and, once answered, whether it was granted (R316, R317). -/
structure Claim where
  name : TileName
  answer : Option Bool
  seq : Nat := 0
  deriving DecidableEq, Repr

/-- The progress of parking a frame (R389): no marker, marker on its way, marker applied at a cycle, issue cut off. -/
inductive ParkSt where
  | none
  | asked
  | marked (cycle : Nat)
  | cutoff
  deriving DecidableEq, Repr

/-- A frame (R25, R246, R343): registers, CSRs, local names and layout. -/
structure Frame where
  st : FrameSt := .free
  regs : AMap W64 := []
  task : Task := {}
  key : BitVec 20 := 0
  part : Nat := 0
  trapv : W64 := 0
  trapcause : W64 := 0
  traptag : W64 := 0
  trapaddr : W64 := 0
  trapslot : W64 := 0
  pmode : Bool := false
  pmodeNow : Bool := false
  fpflags : BitVec 6 := 0
  fs : AMap W64 := []
  fsWas : AMap (Nat × W64) := []
  ags : AMap Nat := []
  accs : AMap Nat := []
  slots : AMap Nat := []
  codeBase : Nat := 0
  privBase : Nat := 0
  scrBase : Nat := 0
  stashBase : Nat := 0
  streams : List Stream := []
  opened : Nat := 0
  claims : List Claim := []
  published : List (TileName × BitVec 16 × Nat) := []
  ord0 : Nat := 0
  spawnOrd : Nat := 0
  watch : Nat := 0
  park : ParkSt := .none
  parkWhy : Nat := 0
  abortRec : Option (List W64) := none
  entrySeq : Nat := 0
  deriving DecidableEq, Repr

/-- What a memory request asks of a home (R102, R103, R110, R137, R138, R333). -/
inductive HomeOp where
  | fill (rx : Bool)
  | rx
  | load
  | write
  | atomic (op : Nat)
  | sigadd
  | sigwait
  deriving DecidableEq, Repr

/-- A request that leaves the tile when every slot of its bundle has been performed (R34, R296): a load of `size`
bytes at a global address or a field-shared one, through the stash or at the home; a prefetch; a barrier or signal
wait; a stash flush or invalidation. -/
inductive Send where
  | load (ptr : W64) (size : Nat) (acq : Bool) (wait lane : Nat)
  | pref (ptr : W64) (rx : Bool)
  | barw (ptr : W64) (k : Nat) (phase : Nat) (wait : Nat)
  | sigwait (ptr : W64) (threshold : W64) (wait : Nat)
  | flush (line : Option W64) (inv : Bool) (wait : Nat)
  deriving DecidableEq, Repr

/-- A bundle instance being issued or ISSUED (R36): its operand set, its bundle, the slots still to perform, the
latches (each with the slot that wrote it), and what it will deliver or buffer. `active` marks the one that the next steps perform. -/
structure Issue where
  active : Bool := false
  id : Nat := 0
  tile : Nat := 0
  pe : Nat := 0
  set : OpSet := ⟨0, 0, 0, 0, 0, 0, [], 0, 0, 0, false, 0, 0, false, [], false, []⟩
  frame : Frame := {}
  inst : Nat := 0
  bundle : BitVec 512 := 0
  tick : W64 := 0
  tag : W64 := 0
  todo : List Nat := []
  slot : Nat := 0
  latches : AMap (Nat × Val) := []
  toks : List OutTok := []
  fwrites : List FWrite := []
  stores : List BufStore := []
  effs : List Eff := []
  flags : BitVec 6 := 0
  term : Option Term := none
  spawn : Option Spawn := none
  tret : Bool := false
  waits : List PWait := []
  withheld : Bool := false
  fault : Option FaultInfo := none
  sends : List Send := []
  seen : Nat := 0
  deriving DecidableEq, Repr

/-! ### Task unit, tile slots, matrix array, engines (spec/01, spec/11, spec/13) -/

/-- The states of a placed task (R19). -/
inductive TaskSt where
  | waiting | moving | ready | parked (why : Nat)
  deriving DecidableEq, Repr

/-- A task placed on a tile: its record, its state, its physical slots, the code copy it names, the tick it entered
the ready queue, the tick since which it has been passed over (R24), the other tile of a move, the registrations still to be
acknowledged, and whether the code's is one of them (R22). -/
structure Placed where
  task : Task
  st : TaskSt
  slots : List Nat
  codeSat : Bool
  entered : Nat
  passed : Option Nat
  reserving : Bool
  moveTo : Option Nat
  acks : Nat
  codeReg : Bool := false
  deriving DecidableEq, Repr

/-- A code copy of the tile (R16): the name and version, its area, and whether it has been delivered. -/
structure CodeCopy where
  name : TileName
  ver : BitVec 16
  base : Nat
  size : Nat
  resident : Bool
  deriving DecidableEq, Repr

/-- One section of a tile slot (R77, R78): the concrete name, the version its subscription resolved to, and what it
holds. -/
structure Section where
  name : TileName
  resolved : Option (BitVec 16)
  ver : Option (BitVec 16)
  filled : Bool
  deriving DecidableEq, Repr

/-- The subscription a slot carries (R77, R319, R323). -/
inductive SubKind where
  | task | subn | stream
  deriving DecidableEq, Repr

structure SlotSub where
  kind : SubKind
  hi : W64
  lo : W64
  mask : BitVec 4
  next : Bool
  satisfied : Bool
  deriving DecidableEq, Repr

/-- A physical tile slot that is mapped (R288): the frame or task that owns it, its area, its subscription and
contents, the version and format slot of the last delivery (R290), and the rules that have used it since it became full (R280). -/
structure Slot where
  frame : Option Nat
  taskId : BitVec 32
  localIx : Nat
  base : Nat
  off : Nat
  size : Nat
  sub : Option SlotSub
  sections : List Section
  full : Bool
  ver : BitVec 16
  fs : BitVec 5
  inUse : Nat
  usedBy : List Nat
  emptyAsked : Bool
  byTask : Bool
  deriving DecidableEq, Repr

/-- A job of an accumulator's queue (R274): its operation and operands (for MCFG also its mode, 1 for integer: R173), the place that
committed it, and for a drain what its block instance gives stochastic rounding (R167, R283). -/
structure Job where
  op : EffOp
  a : W64
  b : W64
  site : Site
  sr : List Byte
  deriving DecidableEq, Repr

/-- The state of an accumulator (R278). -/
inductive AccSt where
  | empty | accum | busy
  deriving DecidableEq, Repr

/-- A source of a rule: its two descriptor words (R276) and the firings since it was set (R280). -/
structure MSrc where
  w0 : W64
  w1 : W64
  count : Nat
  deriving DecidableEq, Repr

/-- A physical accumulator and its rule (R272 to R287); elements are 48-bit patterns in row order. While the job at the head of the
queue is in progress, `work` keeps the state before it and the format slot read at its start (R278, R283). -/
structure Acc where
  frame : Option Nat := none
  name : Nat := 0
  conf : Option W64 := none
  integer : Bool := false
  elems : AMap (BitVec 48) := []
  st : AccSt := .empty
  left : Nat := 0
  fired : Nat := 0
  srcA : Option MSrc := none
  srcB : Option MSrc := none
  flags : BitVec 6 := 0
  jobs : List Job := []
  armed : Site := ⟨0, 0, 0, 0, 0⟩
  work : Option (AccSt × W64) := none
  deriving DecidableEq, Repr

/-- What the array is doing (R279): idle, or a firing of an accumulator with its K-steps done and still to do, whether
the accumulator was EMPTY at its start, the cost of a K-step, and the format slots it read. -/
inductive ArrayOp where
  | idle
  | firing (acc : Nat) (done left : Nat) (first : Bool) (units : Nat) (fsa fsb : W64)
  deriving DecidableEq, Repr

/-- An affine generator's descriptor (R118). -/
structure Gen where
  base : W64
  ndim : Nat
  esize : Nat
  cnt : List Nat
  str : List Int
  deriving DecidableEq, Repr

/-- A physical generator: the frame it is reserved for and its descriptor once committed (R329). -/
structure AgUnit where
  frame : Nat
  gen : Option Gen
  deriving DecidableEq, Repr

/-- A copy transfer of the tile that has not completed (R326 to R330): rows (source, destination, length), the bytes read
so far, the requests outstanding, the promise, the first tick after its issue at which the tile's spine slowed, and the number
that its writes are answered under. -/
structure Copy where
  id : Nat
  frame : Nat
  rows : List (W64 × W64 × Nat)
  promise : W64
  issueTick : W64
  reading : Bool
  data : AMap (List Byte)
  left : Nat
  done : Option Late
  slowed : Option Nat
  stalled : Bool
  at_ : At
  wid : Nat := 0
  deriving DecidableEq, Repr

/-- The state of a sector of a stash line (R104). -/
inductive SecSt where
  | i | p | v | d
  deriving DecidableEq, Repr

/-- A sector of a stash line (R104, R105): its state and data; while its fill is awaited the bytes to merge, whether one of them was
stored in place, the loads that wait and the FLUSHS and INVS that act when it lands: whether one invalidates, issue, wait, number (R308). -/
structure StSector where
  st : SecSt
  data : List Byte
  merge : AMap Byte
  loads : List (Nat × Nat × Nat)
  wrote : Bool := false
  flush : List (Bool × Nat × Nat × Nat) := []
  deriving DecidableEq, Repr

/-- A stash line (R104, R105): the frame, the line address, the permission (0 none, 1 RS, 2 RX), its sectors, the use
order, a probe held for a fill (R106): whether it downgrades, its home, the frames it names; and whether a STREL went around it (R303). -/
structure StLine where
  frame : Nat
  va : Nat
  perm : Nat
  sectors : List StSector
  used : Nat
  probe : Option (Bool × Nat × Nat)
  strel : Bool := false
  deriving DecidableEq, Repr

/-- Where a committed store or atomic is (R132, R137): held back in its tile, sent to its home, sent there with its
sector, in its frame's RX stash sector, waiting there for the sector's fill, or regenerated in a replay after it had been
sent (R148). -/
inductive PendAt where
  | held | sent | pushed | stash | merging | again
  deriving DecidableEq, Repr

/-- A home-slice store or atomic that its frame committed (R132, R133, R136): its outbound sequence number, commit,
scope, place, how many before it belong to the same store slot operation, whether it has been applied at its home, the home and the epoch its slate had begun by then (R147), and
the tokens that fire when it is performed at its scope, the hash of its message (R148), and whether it is an atomic, whose tokens come
back from its home (R305). -/
structure Pend where
  frame : Nat
  oseq : Nat
  commit : Nat
  scope : BitVec 2
  global : Bool
  va : Nat
  place : PendAt
  span : Nat
  performed : Bool
  homeDur : Option (Nat × Nat)
  done : Option Late
  val : Option Late
  result : W64
  hash : W64
  rmw : Bool := false
  deriving DecidableEq, Repr

/-! ### Messages (spec/03 to spec/05) -/

/-- The senders and receivers of messages; a span agent stands for a tile u of the far module. -/
inductive Agent where
  | tile (n : Nat)
  | hub (f : Nat)
  | rim (a : Nat)
  | gateway (p : Nat)
  | span (l : Nat) (u : Nat)
  deriving DecidableEq, Repr

/-- The classes of messages (R80, R106, R107, R115): messages of one class between one sender and one receiver
arrive in the order sent. -/
inductive Cls where
  | request | reply | writeback | nameData | nameCtl | probe | sup
  deriving DecidableEq, Repr

/-- Where the answer to a memory request goes at the requester. -/
inductive Ret where
  | none
  | load (issue wait lane : Nat)
  | fill
  | rx
  | pend (oseq : Nat)
  | copyRead (id row off : Nat)
  | copyWrite (id : Nat)
  | hostRead (id off : Nat)
  | hostWrite
  | capture (slot sec : Nat)
  | fetch (id sec : Nat)
  | wait (issue wait : Nat)
  | flush (issue wait id : Nat)
  | back (va upto : Nat) (flush : Option (Nat × Nat × Nat))
  deriving DecidableEq, Repr

/-- A memory request to a home: a global line address (or a local field-shared address when `fsh`), the bytes, and
the identity of its sender (R132, R138); `pref` marks a prefetch (R302). -/
structure HomeReq where
  op : HomeOp
  part : Nat
  fsh : Bool
  addr : Nat
  size : Nat
  data : List Byte := []
  b : W64 := 0
  d : W64 := 0
  sender : Agent
  frame : Nat := 0
  oseq : Nat := 0
  taskId : BitVec 32 := 0
  resent : Bool := false
  at_ : At := {}
  ret : Ret := .none
  pref : Bool := false
  deriving DecidableEq, Repr

/-- What a barrier message does (R332, R353). -/
inductive BarOp where
  | barc (count : Nat) (reset : Bool)
  | bara (phase : Nat)
  | barw (phase : Nat) (issue wait : Nat)
  deriving DecidableEq, Repr

/-- The messages of the name plane and its replies (R78 to R93, R311 to R325). -/
inductive NameOp where
  | reg | rearm | prune | regReply | claim | claimReply | claimRel | retain | coll | circ | circrel
  | publish | flit | copy | piece | ack | element | credit | detach | rerequest | fetch
  | taskReply
  deriving DecidableEq, Repr

/-- One name-plane message. The fields a kind does not use hold their defaults: the tile name and mask, the version
or its mode, the subscriber (agent, frame or task, slot, section), the router it is at and those still to visit, the
port it came in by, the operand word, the data, whether a flit or copy carries a stream element too (R79), the token it reports, the routers it has left and, where it is marked, its source,
its birth tick and its log of hops (R423), whether it is a stream element that waits for a branch to take it (R89), and whether its sender
sends it again after a field revival (R399). -/
structure NameMsg where
  name : TileName := ⟨0, 0, 0, 0, 0, 0⟩
  mask : BitVec 4 := 0
  ver : BitVec 16 := 0
  next : Bool := false
  stream : Bool := false
  credit : Nat := 0
  who : Agent := .tile 0
  frame : Option Nat := none
  taskId : BitVec 32 := 0
  slot : Nat := 0
  sect : Nat := 0
  router : Nat := 0
  path : List Nat := []
  port : Nat := 4
  overflow : Bool := false
  word : W64 := 0
  mode : BitVec 2 := 0
  index : Nat := 0
  bytes : List Byte := []
  tick : W64 := 0
  late : Bool := false
  fallthrough : Bool := false
  reduction : Bool := false
  completion : Bool := false
  device : Bool := false
  both : Bool := false
  trace : Bool := false
  accepted : Bool := false
  origin : Nat := 0
  oseq : Nat := 0
  /-- The number of a message that is no numbered effect, among those of its tile: 0 for none (R399). -/
  nseq : Nat := 0
  hops : Nat := 0
  trail : Option (Nat × Nat × List (Nat × Nat)) := none
  waits : Bool := false
  resent : Bool := false
  deriving DecidableEq, Repr

/-- The contents of a message. A sector on its way between a home and a rim agent carries its CRC-32C (R121). -/
inductive Body where
  | home (r : HomeReq)
  | homeReply (r : HomeReq) (data : List Byte) (val : W64)
  | probe (down : Bool) (va : Nat) (frame : Nat)
  | probeAck (va : Nat) (frame : Nat) (data : List (Nat × List Byte)) (upto : Nat) (kept : Bool)
  | writeback (va : Nat) (frame : Nat) (data : List (Nat × List Byte)) (keep : Bool) (upto : Nat)
      (flush : Option (Nat × Nat × Nat))
  | wbAck (frame : Nat) (va : Nat) (upto : Nat) (flush : Option (Nat × Nat × Nat))
  | hbm (write : Bool) (pa : Nat) (data : List Byte) (va : Nat) (part : Nat) (taskId : BitVec 32) (frame : Nat)
      (tile : Nat) (path : Nat) (tries : Nat) (crc : BitVec 32)
  | hbmReply (pa : Nat) (data : List Byte) (va : Nat) (part : Nat) (tries : Nat) (crc : BitVec 32)
  | bar (k : Nat) (op : BarOp) (frame : Nat) (oseq : Nat) (taskId : BitVec 32)
  | name (op : NameOp) (m : NameMsg)
  | spawn (task : Task) (creator : BitVec 32) (ordinal : Nat) (frame : Nat) (oseq : Nat)
  | sup (op : EffOp) (a b : W64)
  deriving DecidableEq, Repr

/-- A message in flight. -/
structure Msg where
  src : Agent
  dst : Agent
  cls : Cls
  body : Body
  birth : Nat := 0
  sampled : Bool := false
  deriving DecidableEq, Repr

/-- A message its tile holds back until the writes it releases are performed (R137, R140, R316, R332). -/
structure Held where
  msg : Msg
  frame : Nat
  oseq : Nat
  upto : Nat
  scope : BitVec 2
  needClaims : Option (TileName × Nat)
  deriving DecidableEq, Repr

/-- What a supervisor operation whose effect is not complete waits for (R348, R349, R350). -/
inductive SupWait where
  | parked (l : List (Nat × BitVec 32))
  | preempted (l : List (Nat × BitVec 32))
  | restored (l : List (Nat × BitVec 32))
  | ended (tile frame : Nat) (taskId : BitVec 32)
  | moved (taskId : BitVec 32) (dst : Nat)
  | accesses (part : Nat) (tick : Nat)
  deriving DecidableEq, Repr

/-- A supervisor operation in progress, with the token or register that takes its status (R347), and for a durable frame the key and
slot under which the status is logged. -/
structure SupPend where
  wait : SupWait
  val : Option Late
  reg : Option Nat := none
  key : Option (Nat × Nat) := none
  deriving DecidableEq, Repr

/-! ### A tile's C domain -/

/-- A load whose bundle instance was discarded with requests still out: its issue and wait, its instance, and the replies
to come; the last one drops its token (R49, R50). Issue 0 stands for a store or atomic, named by its outbound number, whose frame a power
loss took. -/
structure Orphan where
  issue : Nat
  wait : Nat
  inst : Nat
  left : Nat
  deriving DecidableEq, Repr

/-- The compute domain of a tile: everything a C-domain power loss takes (spec/01, spec/02, spec/05, spec/11). `fence` notes a PFENCE
issued since the last epoch began (R147). -/
structure CDom where
  scratch : Memory := []
  areas : List (Nat × Nat) := []
  frames : AMap Frame := []
  insts : AMap Inst := []
  gens : AMap Nat := []
  due : AMap Nat := []
  toks : List Tok := []
  sets : List OpSet := []
  arrivals : List Tok := []
  holding : List Tok := []
  issued : List Issue := []
  orphans : List Orphan := []
  lineCtr : Nat := 1
  loops : AMap Loop := []
  calls : AMap Call := []
  pendCommit : List Nat := []
  trapEntries : List Nat := []
  placed : List Placed := []
  codes : List CodeCopy := []
  slots : AMap Slot := []
  accs : AMap Acc := []
  array : ArrayOp := .idle
  arrayDue : Nat := 0
  ags : AMap AgUnit := []
  copies : List Copy := []
  horizon : W64 := 0
  stash : List StLine := []
  rxAsked : List (Nat × Nat) := []
  pend : List Pend := []
  outq : List Held := []
  awaited : AMap (Nat × Option Late) := []
  sups : AMap SupPend := []
  commitSeq : Nat := 0
  fence : Bool := false
  oseq : Nat := 0
  nextId : Nat := 1
  lag : BitVec 32 := 22000
  tagLow : Nat := 512
  tagCrit : Nat := 64
  throttleTick : Nat := 0
  deadTick : Nat := 0
  bucket : Nat := 0
  debits : Nat := 0
  dbgctl : W64 := 0
  tracectl : W64 := 0
  branchstall : Nat := 16384
  spinesel : BitVec 3 := 0
  spine : Nat := 0
  srseed : AMap W64 := []
  health : Bool := false
  cycle : Nat := 0
  phase : Nat := 0
  peCycle : Nat := 0
  peUsed : Nat := 0
  tileWatch : Nat := 0
  useTick : Nat := 0
  deriving DecidableEq, Repr

/-! ### A tile's N domain -/

/-- The directory state of a home line (R109). -/
inductive Dir where
  | u
  | s (copies : List (Nat × Nat))
  | mask (fields : BitVec 64)
  | x (tile frame : Nat)
  deriving DecidableEq, Repr

/-- A sector of a home line (R102). -/
structure HSector where
  valid : Bool := false
  dirty : Bool := false
  data : List Byte := []
  deriving DecidableEq, Repr

/-- A home line (R102, R109): its tag, sectors, use order, directory, the request being served with the
acknowledgements it awaits, the requests queued behind it, whether it is being evicted, the sectors asked for, and its way. -/
structure HLine where
  va : Nat
  part : Nat
  sectors : List HSector
  dir : Dir
  busy : Option HomeReq
  acks : List (Nat × Nat)
  queue : List HomeReq
  victim : Bool
  reading : List Nat
  way : Nat := 0
  deriving DecidableEq, Repr

/-- A leaf held by a TLB (R114). -/
structure TlbEntry where
  asid : BitVec 16
  base : Nat
  size : Nat
  pa : Nat
  w : Bool
  r : Bool
  deriving DecidableEq, Repr

/-- A home access that needs a walk, or a stalled page with its queue (R113 to R116, R123). -/
structure Walk where
  page : Nat
  part : Nat
  va : Nat
  write : Bool
  kind : Nat
  taskId : BitVec 32
  tile : Nat
  frame : Nat
  data : List Byte
  stall : Option (BitVec 32)
  reason : Nat := 0
  deriving DecidableEq, Repr

/-- An entry of the name-match table (R79); `cnt` and `cr` are in port order N, E, S, W, local. `most` is the greatest FIFO
depth registered through a port, `sent` lists the elements whose credit has not come back through a port, `due` those for
which no credit has gone upstream, with the router they came from (R88, R89). -/
structure Nmt where
  stream : Bool
  circ : Bool
  mask : BitVec 4
  name : TileName
  cnt : List Nat
  det : List Bool
  circLeft : Nat
  circIdle : Nat
  circTick : Nat
  cr : List Nat
  most : List Nat
  sent : List (Nat × BitVec 16)
  due : List (BitVec 16 × Nat)
  deriving DecidableEq, Repr

/-- A stream element held at a router for a branch without credit (R89, R90). -/
structure HeldElem where
  msg : NameMsg
  port : Nat
  since : Nat
  deriving DecidableEq, Repr

/-- A retained version at a name's home (R81, R86). -/
structure Retained where
  ver : BitVec 16
  bytes : List Byte
  accepted : Nat
  expected : Nat
  time : Nat
  delivered : Nat
  fallthrough : Bool
  reduction : Bool
  order : Nat
  deriving DecidableEq, Repr

/-- A subscriber record at a name's home (R81): the registration with its resolved version, and the elements that a unicast
stream has asked for and not yet been sent. -/
structure SubRec where
  reg : NameMsg
  resolved : Option (BitVec 16)
  overflow : Bool
  detached : Bool
  served : Bool
  wants : List (BitVec 16)
  deriving DecidableEq, Repr

/-- A reduction at its home (R92, R93). -/
structure Red where
  ver : BitVec 16
  n : Nat
  mode : BitVec 2
  size : Nat
  next : Nat
  acc : List Byte
  heldParts : List (Nat × List Byte)
  deriving DecidableEq, Repr

/-- A name entry of the directory (R81 to R87). -/
structure NameEntry where
  name : TileName
  claim : Option (BitVec 32)
  claimFar : Bool := false
  newest : Option (BitVec 16)
  map : BitVec 64
  retained : List Retained
  subs : List SubRec
  reds : List Red
  fetching : List (BitVec 16)
  keptRetain : List (BitVec 16 × W64)
  touched : Nat
  deriving DecidableEq, Repr

/-- A barrier (R331) with its waiters: phase, tile, issue, wait. -/
structure Barrier where
  count : Nat := 0
  phase : Nat := 0
  arr : Nat := 0
  early : Nat := 0
  waiters : List (Nat × Nat × Nat × Nat) := []
  deriving DecidableEq, Repr

/-- A watchpoint (R353): on barrier K or on a signal word; what takes its value is as in a supervisor operation in progress. -/
structure Watchpoint where
  sig : Bool
  k : Nat
  addr : Nat
  fsh : Bool
  ptr : W64
  kind : BitVec 2
  threshold : W64
  late : Option Late
  requester : Nat
  reg : Option Nat := none
  key : Option (Nat × Nat) := none
  armed : Option (Nat × Nat) := none
  deriving DecidableEq, Repr

/-- The kept result of the last atomic, or barrier message, applied from a sender (R138, R332). -/
structure Kept where
  oseq : Nat
  result : W64
  deriving DecidableEq, Repr

/-- A refused partial at its sender, with the tick of its first and of its last refusal (R92). -/
structure Retry where
  msg : Msg
  first : Nat
  last : Nat
  deriving DecidableEq, Repr

/-- The network and home domain of a tile: what a C-domain loss leaves in place (R95, R143). `homeOrd` is the tick, the cycle and the
rank of the last message its directory applied (R82). -/
structure NDom where
  fshared : Memory := []
  lines : List HLine := []
  kept : AMap Kept := []
  keptBar : AMap Kept := []
  tlb : List TlbEntry := []
  walks : List Walk := []
  waitReq : List HomeReq := []
  nmt : List Nmt := []
  heldElems : List HeldElem := []
  names : List NameEntry := []
  ingress : List Msg := []
  retries : List Retry := []
  barriers : AMap Barrier := []
  sigwaits : List HomeReq := []
  watches : List Watchpoint := []
  routes : AMap W64 := []
  fences : AMap (Nat × W64) := []
  heldDeliveries : List (BitVec 32 × NameMsg) := []
  samples : List Msg := []
  sampleCount : Nat := 0
  homeOrd : Nat × Nat × Nat := (0, 0, 0)
  applied : AMap Nat := []
  /-- The last number given to a message that is no numbered effect (R399). -/
  nameSeq : Nat := 0
  /-- Messages that the directory has taken since D and that nothing acknowledges (R399). -/
  taken : List Msg := []
  deriving DecidableEq, Repr

/-- What a replay has done with a logged reading (R248): taken it, as an ordinary run did when it logged it; not yet taken it; ended
without taking it. -/
inductive ReadSt where
  | taken | awaited | dead
  deriving DecidableEq, Repr

/-- An entry of the inbound log (R148): a delivery with the commits of the commit log that were made before it, or a reading under
its replay key. -/
inductive LogEntry where
  | delivery (m : Msg) (after : Nat)
  | reading (key : Nat) (slot field : Nat) (value : W64) (st : ReadSt)
  deriving DecidableEq, Repr

/-- A task that ran or waited on a tile when it was lost (R395): its frame, where it had one. -/
structure Again where
  task : Task
  st : TaskSt
  moveTo : Option Nat
  frame : Option (Nat × Frame)
  deriving DecidableEq, Repr

/-- The image of a parked frame (R390): its number, the frame, what the tile held for it, what parked it, whether a
restore has been asked for and the tick since which it has found no room (R393), and the words of the record of one that aborts (R383). -/
structure Image where
  num : Nat
  fr : Frame
  dom : CDom
  why : Nat
  asked : Bool
  passed : Option Nat := none
  abortRec : Option (List W64) := none
  deriving DecidableEq, Repr

/-- A persist epoch (R144): its target commit with the state as of it, the sectors it writes, the lengths of the logs as of the target,
and what D will not pass of the inbound log (by place) and of the outbound log where a replay is still to come to it. -/
structure Epoch where
  seq : Nat
  c : CDom
  n : NDom
  sectors : List Nat
  inLen : Nat
  comLen : Nat
  outLen : Nat
  stays : List Nat
  outStays : List (Nat × Nat × W64)
  deriving DecidableEq, Repr

/-- The slate of a tile (R143 to R153, R397, R398): the two D records (none: torn or never written) and which of them are torn, the state as of
D, the epoch being written, the slot sequence numbers of shadowed sectors (none: torn), the three logs with the commits that D has
passed, H, the revival record and the one a revival under way is to write, the tasks it is to fire again, what a C domain without power
held, and the images of parked frames. -/
structure Slate where
  d0 : Option Nat := none
  d1 : Option Nat := none
  /-- Bit r: D record r is torn. -/
  tornRec : Nat := 0
  snap : Option CDom := none
  snapN : Option NDom := none
  target : Option Epoch := none
  lastEpoch : Nat := 0
  epochs : Nat := 0
  epochsDone : Nat := 0
  oldest : Option Nat := none
  sectors : AMap (Option Nat × Option Nat) := []
  inlog : List LogEntry := []
  inBytes : Nat := 0
  commitlog : List (Nat × Nat) := []
  comBase : Nat := 0
  outlog : List (Nat × Nat × W64) := []
  supWaits : AMap SupWait := []
  h : Nat := 0
  record : AMap W64 := []
  draft : AMap W64 := []
  again : List Again := []
  replayLeft : List (Nat × Nat) := []
  replaySince : Nat := 0
  replaying : Bool := false
  lost : Option CDom := none
  images : List Image := []
  deriving DecidableEq, Repr

/-- A tile: its compute domain, its network and home domain, its slate, and whether its C domain is powered. -/
structure Tile where
  c : CDom := {}
  n : NDom := {}
  slate : Slate := {}
  powered : Bool := true
  deriving DecidableEq, Repr

/-! ### Field hubs, rim agents, partitions, host, controller -/

/-- A task held by a field hub's placement queue (R19, R20). -/
structure Queued where
  task : Task
  part : Nat
  creator : BitVec 32
  ordinal : Nat
  deriving DecidableEq, Repr

/-- A field hub (R20, R98, R113, R114, R410 to R416, R427): its placement queue, key counter and keys in use, its
TLB, carry, the last two rail samples with the tick of the last, the intervals since ballast went over the cap, the total of its last
interval, the thresholds in force, thermal level and temperature, life store, and whether the field is powered,
excluded or critical. `crit` is the tick the level became critical; `lost` holds the requests that the field had taken and not
answered when it lost power, until their senders send them again (R399). `physical` is the physical tile of each logical tile of the
field, in order (R3, R400). -/
structure Hub where
  queue : List Queued := []
  keyCtr : Nat := 0
  keys : List (BitVec 20) := []
  pairs : List (BitVec 32 × Nat × BitVec 32) := []
  tlb : List TlbEntry := []
  carry : Nat := 0
  samples : List Nat := []
  railTick : Nat := 0
  slewLow : Nat := 0
  load : Nat := 0
  thresholds : Nat × Nat × Nat := (95, 105, 115)
  ballast : Nat := 0
  grantTick : Nat := 0
  level : Nat := 0
  temp : BitVec 16 := 0
  life : AMap Nat := []
  lifePersisted : AMap Nat := []
  persistTick : Nat := 0
  powered : Bool := true
  excluded : Bool := false
  crit : Option Nat := none
  railsOff : Bool := false
  lost : List Msg := []
  sampleTick : Nat := 0
  physical : List Nat := []
  deriving DecidableEq, Repr

/-- A fetch a rim agent serves (R87). -/
structure Fetch where
  id : Nat
  msg : NameMsg
  part : Nat
  home : Nat
  data : AMap (List Byte)
  left : Nat
  failed : Option W64
  deriving DecidableEq, Repr

/-- A rim agent (R111, R117, R121, R122): a blocked page with its destination, the TLBINV for the move (its partition and tick), the
accesses queued for the page, its fetches and the number of the next, the writes of WB publishes it makes, and the condition of its stack. -/
structure Rim where
  mig : Option (Nat × Nat) := none
  inv : Option (Nat × Nat) := none
  queue : List Msg := []
  fetches : List Fetch := []
  nextFetch : Nat := 0
  walks : List Walk := []
  selfRefresh : Bool := false
  excluded : Bool := false
  conservative : Bool := false
  deriving DecidableEq, Repr

/-- A namespace binding (R75). -/
structure Binding where
  kind : BitVec 2 := 0
  wb : Bool := false
  hgm : BitVec 4 := 0
  fs : BitVec 5 := 0
  tilesec : Nat := 0
  tensor : BitVec 20 := 0
  ns : BitVec 12 := 0
  ext : List Nat := []
  vbase : Nat := 0
  rows : Nat := 0
  rowb : Nat := 0
  rowp : Nat := 0
  tstr : List Nat := []
  retn : Nat := 0
  rett : Nat := 0
  deriving DecidableEq, Repr

/-- Where a task was last activated (R381): its tile, frame, stage, entry block and the tag of its entry instance. -/
structure Ran where
  tile : Nat
  frame : Nat
  stage : Nat
  block : Nat
  tag : W64
  deriving DecidableEq, Repr

/-- A partition (R74, R75, R101, R115, R354, R377, R406, R407, R422 to R424); `quota` is what its creation recorded of QBASE and QSIZE,
`ran` lists the tasks that have run (R381). -/
structure Partition where
  fields : BitVec 64 := 0
  st : Nat := 0
  err : BitVec 8 := 0
  asidReg : BitVec 16 := 0
  qbase : BitVec 32 := 0
  qsize : BitVec 32 := 0
  quota : Nat × Nat := (0, 0)
  wdlim : BitVec 32 := 1100000000
  cap : BitVec 16 := 0
  asid : BitVec 16 := 0
  ptroot : W64 := 0
  counters : AMap W64 := []
  hdctl : W64 := 0
  hdstep : Option (Nat × Nat) := none
  spanNs : AMap W64 := []
  bindings : List Binding := []
  nextLaunch : Nat := 0
  launches : List (BitVec 16 × List Byte) := []
  launchSeen : List (BitVec 16) := []
  loader : List (Nat × List Byte) := []
  stalls : List (BitVec 32) := []
  taskIds : List (BitVec 32) := []
  ran : AMap Ran := []
  snapTick : Nat := 0
  deriving DecidableEq, Repr

/-- A host subscription table entry (R373, R374): its words, whether it is armed or being withdrawn, its delivery number with that
at its last arming, the answers to prunes still to come, the stream elements asked for, and whether word 1 has been
written since; `hi` and `lo` are the name words it was armed with, `gen` counts its armings. -/
structure HostSub where
  w0 : W64 := 0
  w1 : W64 := 0
  w2 : W64 := 0
  w3 : W64 := 0
  armed : Bool := false
  closing : Bool := false
  count : Nat := 0
  base : Nat := 0
  left : Nat := 0
  asked : Nat := 0
  w1Written : Bool := false
  hi : W64 := 0
  lo : W64 := 0
  gen : Nat := 0
  deriving DecidableEq, Repr

/-- A header being captured from memory (R371): its slot, its name words, the sectors read and those left. -/
structure Capture where
  slot : Nat
  hi : W64
  lo : W64
  data : AMap (List Byte)
  left : Nat
  deriving DecidableEq, Repr

/-- A host access that takes its turn behind earlier ones of its function (R142, R371): a BAR4 write or read, or a publish header. -/
inductive Posted where
  | write (va : Nat) (bytes : List Byte)
  | read (va : Nat) (len : Nat)
  | header (slot : Nat) (w0 w1 w2 w3 : W64)
  deriving DecidableEq, Repr

/-- A BAR4 read in progress (R142): its number and address, the pieces that have come, those left, and whether one was refused. -/
structure HostRead where
  id : Nat
  va : Nat
  data : AMap (List Byte) := []
  left : Nat
  bad : Bool := false
  deriving DecidableEq, Repr

/-- A virtual function (R368 to R375, R380): its registers and tables, the accesses that wait their turn with the write under way (the
answers it awaits, the write itself while its sectors are only asked for, whether one was refused), the reads under way, the headers that
wait with the launches each waits for, captures, completed reads, the tick of the last HTLBINV, and the headers it has taken
with the one that each busy publish slot holds. -/
structure Vf where
  enabled : Bool := false
  hstat : W64 := 0
  busy : BitVec 16 := 0
  err : BitVec 16 := 0
  pteaddr : W64 := 0
  b4base : W64 := 0
  payload : Memory := []
  headers : List (List (BitVec 16) × Nat × W64 × W64 × W64 × W64) := []
  captures : List Capture := []
  subs : AMap HostSub := []
  ci : AMap W64 := []
  posted : List Posted := []
  b4left : Nat := 0
  b4write : Option (Nat × List Byte) := none
  b4bad : Bool := false
  b4reads : List HostRead := []
  b4next : Nat := 0
  reads : List (Nat × List Byte × Bool) := []
  invTick : Option Nat := none
  invWait : List (BitVec 2 × Nat) := []
  msixTable : Memory := []
  uses : Nat := 0
  slotUse : AMap Nat := []
  deriving DecidableEq, Repr

/-- The module registers of physical function 0 (R406, R426). -/
structure Pf where
  tilecap : BitVec 16 := 2050
  slew : BitVec 16 := 40
  warn : BitVec 8 := 95
  thr : BitVec 8 := 105
  crit : BitVec 8 := 115
  leak : AMap W64 := []
  lifesel : W64 := 0
  msixTable : Memory := []
  deriving DecidableEq, Repr

/-- A slot of the secure region (R403, R405): the identity and attestation key pairs of manufacture, or the bytes that an erasure wrote over
it, and whether the CRC of its sectors is valid. -/
inductive SecureSlot where
  | keys
  | wiped (bytes : List Byte) (crcOk : Bool)
  deriving DecidableEq, Repr

/-- The module controller (R400 to R405, R427): the secure region in its two slots, whether an alarm has taken the compute rails; `vca`, `certs` and `meas` are the transcripts of the SPDM connection, of its certificates and of its measurements. -/
structure Ctl where
  started : Bool := false
  halted : Bool := false
  linkUp : Bool := false
  journal : AMap W64 := []
  alarms : BitVec 5 := 0
  erasePending : Bool := false
  secureA : SecureSlot := .keys
  secureB : SecureSlot := .keys
  alarmOff : Bool := false
  svnmin : BitVec 32 := 0
  ctlDigest : List Byte := []
  fieldDigests : AMap (List Byte) := []
  verifyFails : Nat := 0
  version : Bool := false
  algorithms : Bool := false
  vca : List Byte := []
  certs : List Byte := []
  meas : List Byte := []
  response : List Byte := []
  replays : AMap Nat := []
  deriving DecidableEq, Repr

/-- A span link (R378, R379): whether it is up, the next SEQ to send, the highest SEQ received in order, the frames that are not
acknowledged, the messages that wait with the tick they came, the frames it has sent with their headers, for each of the two classes
the buffers freed since its last frame and those the far side has freed, and the bytes of a message of which flits are still to come. A
frame is a message and the number of its flit. -/
structure Span where
  up : Bool := false
  seq : BitVec 12 := 0
  ack : BitVec 12 := 4095
  replay : List (BitVec 12 × Msg × Nat) := []
  waiting : List (Msg × Nat) := []
  sent : List (BitVec 96 × Msg × Nat) := []
  freed : Nat × Nat := (0, 0)
  credits : Nat × Nat := (0, 0)
  parts : List Byte × List Byte := ([], [])
  deriving DecidableEq, Repr

/-- The whole module. `iss` is the bundle instance whose slots the next steps perform; `sched` the timing choices
still to be taken (ticks to wait, then the event); `freeCtr` the counter of free values. -/
structure State where
  quartz : Nat
  hbm : Memory
  hostMem : Memory
  msix : List (Nat × Nat)
  net : List Msg
  iss : Issue
  sched : List (Nat × Instr)
  freeCtr : Nat
  tiles : AMap Tile
  hubs : AMap Hub
  rims : AMap Rim
  parts : AMap Partition
  vfs : AMap Vf
  pf : Pf
  ctl : Ctl
  spans : AMap Span
  deriving DecidableEq, Repr

/-- The module right after a cold start of every domain, before MODULE_START runs (R10, R40, R69, R145, R354, R406). -/
def State.reset : State where
  quartz := 0
  hbm := []
  hostMem := []
  msix := []
  net := []
  iss := {}
  sched := []
  freeCtr := 0
  tiles := []
  hubs := []
  rims := []
  parts := []
  vfs := []
  pf := {}
  ctl := {}
  spans := []

end Sys2Proof.Machine
end

