-- ==== Sys2Proof/Config.lean ====
section
/-! DEFINITION. What an implementation fixes and the spec leaves open, as constants without a body: nothing can be
proved about their values (log entries 4 to 6 and 9: DESIGN CHOICE, safe). The capacities of R1 stand here as numbers. -/

namespace Sys2Proof.Config

/-- The free value number n: a value the spec does not state (log entry 4: DESIGN CHOICE, safe). -/
opaque freeValue : Nat → W64

/-- The OFF that SPOP gives of a placement slot, whose area lies outside the frame's scratch data area; no rule states it (log 125: DESIGN
CHOICE, safe). -/
opaque placedOffset : Nat → BitVec 20

/-- What a latch reads as after a GATE that delivers nothing to it, by GATE's operand and the latch's value before (R239; log entry 4: DESIGN
CHOICE, safe). -/
opaque gateLatch : Machine.Val → Option Machine.Val → W64

/-- The port on the edge of the grid to which attachment n of the rim agents goes: agent a has attachments 13a to 13a + 12 (R1, R87;
log entry 5: DESIGN CHOICE, safe). -/
opaque rimPort : Nat → Nat

/-- The turn list that boot builds for a source, a destination and a plane (R351, R400; log entry 5: DESIGN CHOICE, safe). -/
opaque bootRoute : Nat → Nat → Nat → W64

/-- The 64-bit hash of the message of an outbound effect: the message's layout is not stated (R148; log entry 9: DESIGN CHOICE, safe). -/
opaque effectHash : Machine.Body → W64

/-- The hash of a replay key, whose bytes are not stated (R382; log entry 9: DESIGN CHOICE, safe). -/
opaque replayKeyHash : Nat → W64

/-- The secret halves of the identity and the attestation key pair, of 57 bytes each (R403; log entry 6: DESIGN CHOICE, safe). -/
opaque identityKey : List Byte
opaque attestationKey : List Byte

/-- The size of a slot of the secure region in bytes, and byte i of the random bytes that erasure n writes over it (R403, R405; log entry 6:
DESIGN CHOICE, safe). -/
opaque secureBytes : Nat
opaque secureRandom : Nat → Nat → Byte

/-- The measurements that belong to the trusted computing base, for a summary of them alone (R403; log entry 6: DESIGN CHOICE, safe). -/
opaque spdmTcb : Nat → Bool

/-- What one step of a rail's 10-bit current converter stands for, in power units for each millivolt of the rail (R412; log entry 6: DESIGN
CHOICE, safe). -/
opaque railUnit : Nat

/-- The four key hashes fused in the controller and their revocation fuses (R402; log entry 6: DESIGN CHOICE, safe). -/
opaque keyHash : Nat → List Byte
opaque keyRevoked : Nat → Bool

/-- The erase policy fuse (R404; log entry 6: DESIGN CHOICE, safe). -/
opaque erasePolicy : BitVec 2

/-- The fused leakage entries (R406; log entry 6: DESIGN CHOICE, safe). -/
opaque fusedLeak : Nat → BitVec 16

/-- The controller bedrock image, the certificate chain and the SPDM identity data (R403; log entry 6: DESIGN CHOICE, safe). -/
opaque bedrock : List Byte
opaque certChain : List Byte
opaque spdmNonce : Nat → List Byte

/-- The body of an SPDM answer whose contents the spec does not state, by code and request (R403; log entry 6: DESIGN CHOICE, safe). -/
opaque spdmBody : Nat → List Byte → List Byte

/-- The detail code of a boot step that failed (R401): step, unit, start (log entry 4: DESIGN CHOICE, safe). -/
opaque bootDetail : Nat → Nat → Nat → BitVec 16

/-- Capacities of R1. -/
def numFields : Nat := 64
def tilesPerField : Nat := 160
def physPerField : Nat := 170
def numTiles : Nat := 10240
def numPhysical : Nat := numFields * physPerField
def numRims : Nat := 32
def rimRouters : Nat := 13
def numSpans : Nat := 16
def scratchBytes : Nat := 786432
def instEntries : Nat := 4096
def storeEntries : Nat := 4096
def bufferLines : Nat := 2048
def holdingEntries : Nat := 256

end Sys2Proof.Config
end

