-- ==== Sys2Proof/WellFormed.lean ====
section
/-! DEFINITION. Well-formedness of an instruction: the conditions R191, R196, R201, R235, R252, R294 and R311
put on type codes, modifier values, destinations and tag-ops. -/

namespace Sys2Proof

namespace TyMask
/-- Types 0 to 7 (R224). -/
def int : Ty → Bool | .i64 | .i32 | .i16 | .i8 | .n64 | .n32 | .n16 | .n8 => true | _ => false
/-- Types 0 to 3 (R225, ABS). -/
def sint : Ty → Bool | .i64 | .i32 | .i16 | .i8 => true | _ => false
/-- Types 0 and 4 (R225, BFX and BFI). -/
def w64 : Ty → Bool | .i64 | .n64 => true | _ => false
/-- f32, bf16, f16 and a48 (R229). -/
def farith : Ty → Bool | .f32 | .bf16 | .f16 | .a48 => true | _ => false
/-- Codes 8 to 12 and 14 (R229, FCMP). -/
def fcmp : Ty → Bool | .f32 | .bf16 | .f16 | .e4m3 | .e5m2 | .a48 => true | _ => false
/-- Codes 0 to 14 (R229, FCVT). -/
def fcvt : Ty → Bool | .i16x2 => false | _ => true
/-- Codes 8 to 14 (R229, FCLASS). -/
def fclass : Ty → Bool | .f32 | .bf16 | .f16 | .e4m3 | .e5m2 | .e2m1 | .a48 => true | _ => false
/-- The integer lane types (R253). -/
def vint : Ty → Bool | .i32 | .i16 | .i8 | .n32 | .n16 | .n8 | .i16x2 => true | _ => false
/-- The floating lane types (R253). -/
def vfloat : Ty → Bool | .f32 | .bf16 | .f16 => true | _ => false
/-- Integer and floating lane types. -/
def vif (t : Ty) : Bool := vint t || vfloat t
/-- The signed integer lane types and the floating ones (R254, VABS and VNEG). -/
def vsf : Ty → Bool | .i32 | .i16 | .i8 | .i16x2 | .f32 | .bf16 | .f16 => true | _ => false
/-- Codes 1 to 3 and 5 to 10 (R259). -/
def vif0 : Ty → Bool
  | .i32 | .i16 | .i8 | .n32 | .n16 | .n8 | .f32 | .bf16 | .f16 => true | _ => false
/-- f32 and i32 (R260, VCVTI). -/
def vcvti : Ty → Bool | .f32 | .i32 => true | _ => false
/-- The forms of VPACK (R261). -/
def vpack : Ty → Bool
  | .f32 | .i8 | .n8 | .e4m3 | .e5m2 | .i16 | .n16 | .e2m1 => true | _ => false
/-- The element types of VUNPK (R262). -/
def vunpk : Ty → Bool
  | .i8 | .n8 | .e4m3 | .e5m2 | .i16 | .n16 | .bf16 | .f16 | .e2m1 => true | _ => false
/-- The types of the lane-ordered reductions (R267). -/
def vred : Ty → Bool | .i32 | .i16 | .i8 | .n32 | .n16 | .n8 | .f32 => true | _ => false
end TyMask

/-- The condition p on the tag-op of a target, when it is valid. -/
def tops (p : TagOp → Bool) : Option Target → Bool
  | none => true
  | some t => p t.top

namespace TopOk
/-- Every tag-op but spawn (R201). -/
def noSpawn : TagOp → Bool | .spawn => false | _ => true
def steer : TagOp → Bool | .path0 | .path1 => true | _ => false
def merge : TagOp → Bool | .strip => true | _ => false
def exit : TagOp → Bool | .same | .next | .exit => true | _ => false
def retb : TagOp → Bool | .exit => true | _ => false
def spawnSame : TagOp → Bool | .spawn | .same => true | _ => false
def query : TagOp → Bool | .same | .path0 | .path1 | .strip => true | _ => false
end TopOk

namespace DstOk
/-- A destination of two targets whose tag-ops all meet p, with no latch flag (R235). -/
def tgts (p : TagOp → Bool) : Dst → Bool
  | .targets a b => tops p a && tops p b
  | _ => false
/-- Any destination; targets without spawn (R184, R201). -/
def any : Dst → Bool
  | .targets a b => tops TopOk.noSpawn a && tops TopOk.noSpawn b
  | .targetLatch a _ => tops TopOk.noSpawn a
  | _ => true
/-- A vector result: no frame register (R252). -/
def vec : Dst → Bool
  | .reg _ => false
  | d => any d
/-- A vector result whose target 1 takes no latch flag (R263, R266). -/
def vecNoFlag : Dst → Bool
  | .reg _ | .targetLatch _ _ => false
  | d => any d
def steer : Dst → Bool := tgts TopOk.steer
def merge : Dst → Bool := tgts TopOk.merge
def exit : Dst → Bool := tgts TopOk.exit
def retb : Dst → Bool := tgts TopOk.retb
def spawnSame : Dst → Bool := tgts TopOk.spawnSame
/-- Targets only, without spawn (R273). -/
def tgtOnly : Dst → Bool := tgts TopOk.noSpawn
/-- GATE and JOIN: any kind, no latch flag, no spawn (R235). -/
def flow : Dst → Bool
  | .targetLatch _ _ => false
  | d => any d
/-- TAGQ, FRAMEQ and QTIME (R235). -/
def query : Dst → Bool
  | .targets a b => tops TopOk.query a && tops TopOk.query b
  | .targetLatch _ _ => false
  | _ => true
/-- MSTAT and TSLOTQ now (R273). -/
def query2 : Dst → Bool := any
end DstOk

namespace VDstOk
/-- A scalar value delivered before commit (R295); VK 11 discards it (R189; log 106: DESIGN CHOICE, unsafe). -/
def scalar : VDst → Bool
  | .target t => tops TopOk.noSpawn t
  | _ => true
/-- A vector value: no frame register (R295). -/
def vector : VDst → Bool
  | .reg _ => false
  | d => scalar d
/-- The old value of an atomic: a target or nothing (R295). -/
def atomic : VDst → Bool
  | .latch _ | .reg _ => false
  | d => scalar d
end VDstOk

namespace YDstOk
/-- An order token (R311). -/
def order : YDst → Bool
  | .reg _ => false
  | .none => true
  | .target t => tops TopOk.noSpawn t
/-- A value (R311, R341): YK 00 is not among its destinations (log 106: DESIGN CHOICE, unsafe). -/
def value : YDst → Bool
  | .none => false
  | .reg _ => true
  | .target t => tops TopOk.noSpawn t
/-- The TASKID of TSPAWN (R335). -/
def taskid : YDst → Bool := order
end YDstOk

/-- A done target carries no spawn (R201, R295). -/
def doneOk (t : Option Target) : Bool := tops TopOk.noSpawn t

/-- Any width; widths 8 to 32; the widths of atomics; width 32 (R294, R304). -/
def wAny (_ : BitVec 2) : Bool := true
def w32 (w : BitVec 2) : Bool := w != 3
def wAtom (w : BitVec 2) : Bool := w == 2 || w == 3
def wOnly32 (w : BitVec 2) : Bool := w == 2

/-- The compacting forms of VPACK use source A only (R261). -/
def packOk (t : Ty) (b c : Src) : Bool := t == .f32 || (b == .zero && c == .zero)

/-- What an encoding of the instruction must meet besides its fields' widths (R185, R191, R196, R201,
R235, R252, R294, R311). An event row has no encoding and no condition. -/
def Instr.wellFormed : Instr → Bool
  | .add t _ _ d => TyMask.int t && DstOk.any d
  | .sub t _ _ d => TyMask.int t && DstOk.any d
  | .mul t _ _ d => TyMask.int t && DstOk.any d
  | .mulh t _ _ d => TyMask.int t && DstOk.any d
  | .div t _ _ d => TyMask.int t && DstOk.any d
  | .rem t _ _ d => TyMask.int t && DstOk.any d
  | .absOp t _ d => TyMask.sint t && DstOk.any d
  | .andOp t _ _ d => TyMask.int t && DstOk.any d
  | .orOp t _ _ d => TyMask.int t && DstOk.any d
  | .xor t _ _ d => TyMask.int t && DstOk.any d
  | .andn t _ _ d => TyMask.int t && DstOk.any d
  | .shl t _ _ d => TyMask.int t && DstOk.any d
  | .shr t _ _ d => TyMask.int t && DstOk.any d
  | .sra t _ _ d => TyMask.int t && DstOk.any d
  | .rol t _ _ d => TyMask.int t && DstOk.any d
  | .min t _ _ d => TyMask.int t && DstOk.any d
  | .max t _ _ d => TyMask.int t && DstOk.any d
  | .clz t _ d => TyMask.int t && DstOk.any d
  | .ctz t _ d => TyMask.int t && DstOk.any d
  | .popc t _ d => TyMask.int t && DstOk.any d
  | .brev t _ d => TyMask.int t && DstOk.any d
  | .bfx t _ _ d => TyMask.w64 t && DstOk.any d
  | .bfi t _ _ _ d => TyMask.w64 t && DstOk.any d
  | .ceq t _ _ d => TyMask.int t && DstOk.any d
  | .cne t _ _ d => TyMask.int t && DstOk.any d
  | .clt t _ _ d => TyMask.int t && DstOk.any d
  | .cle t _ _ d => TyMask.int t && DstOk.any d
  | .sel _ _ _ d => DstOk.any d
  | .mov t _ d => TyMask.int t && DstOk.any d
  | .fadd t _ _ d => TyMask.farith t && DstOk.any d
  | .fsub t _ _ d => TyMask.farith t && DstOk.any d
  | .fmul t _ _ d => TyMask.farith t && DstOk.any d
  | .fma t _ _ _ d => TyMask.farith t && DstOk.any d
  | .fmin t _ _ d => TyMask.farith t && DstOk.any d
  | .fmax t _ _ d => TyMask.farith t && DstOk.any d
  | .fcmp t _ _ d => TyMask.fcmp t && DstOk.any d
  | .fcvt t _ _ _ d => TyMask.fcvt t && DstOk.any d
  | .fclass t _ d => TyMask.fclass t && DstOk.any d
  | .adda _ _ d => DstOk.any d
  | .spq _ d => DstOk.any d
  | .spcvTooff _ _ d => DstOk.any d
  | .spcvToptr _ _ d => DstOk.any d
  | .mkwin _ _ d => DstOk.any d
  | .nameh _ _ _ d => DstOk.any d
  | .namel _ _ _ d => DstOk.any d
  | .steer _ _ d => DstOk.steer d
  | .merge d => DstOk.merge d
  | .loop _ _ _ d => DstOk.spawnSame d
  | .loopVec _ _ _ d => DstOk.spawnSame d
  | .whileOp _ _ d => DstOk.spawnSame d
  | .exitOp _ _ d => DstOk.exit d
  | .join _ _ _ d => DstOk.flow d
  | .goto _ => true
  | .callb _ _ _ d => DstOk.spawnSame d
  | .retb _ _ d => DstOk.retb d
  | .sink => true
  | .gate _ _ d => DstOk.flow d
  | .tagq k _ d => k != 3 && DstOk.query d
  | .frameq _ d => DstOk.query d
  | .qtime _ d => DstOk.query d
  | .vadd t _ _ d => TyMask.vif t && DstOk.vec d
  | .vsub t _ _ d => TyMask.vif t && DstOk.vec d
  | .vmul t _ _ d => TyMask.vif t && DstOk.vec d
  | .vfma t _ _ _ d => TyMask.vfloat t && DstOk.vec d
  | .vfms t _ _ _ d => TyMask.vfloat t && DstOk.vec d
  | .vfnma t _ _ _ d => TyMask.vfloat t && DstOk.vec d
  | .vmin t _ _ d => TyMask.vif t && DstOk.vec d
  | .vmax t _ _ d => TyMask.vif t && DstOk.vec d
  | .vabs t _ d => TyMask.vsf t && DstOk.vec d
  | .vneg t _ d => TyMask.vsf t && DstOk.vec d
  | .vmulh t _ _ d => TyMask.vint t && DstOk.vec d
  | .vclamp t _ _ _ d => TyMask.vif t && DstOk.vec d
  | .vand t _ _ d => TyMask.vint t && DstOk.vec d
  | .vor t _ _ d => TyMask.vint t && DstOk.vec d
  | .vxor t _ _ d => TyMask.vint t && DstOk.vec d
  | .vandn t _ _ d => TyMask.vint t && DstOk.vec d
  | .vshl t _ _ d => TyMask.vint t && DstOk.vec d
  | .vshr t _ _ d => TyMask.vint t && DstOk.vec d
  | .vsra t _ _ d => TyMask.vint t && DstOk.vec d
  | .vclz t _ d => TyMask.vint t && DstOk.vec d
  | .vpopc t _ d => TyMask.vint t && DstOk.vec d
  | .vceq t _ _ d => TyMask.vif t && DstOk.vec d
  | .vcne t _ _ d => TyMask.vif t && DstOk.vec d
  | .vclt t _ _ d => TyMask.vif t && DstOk.vec d
  | .vcle t _ _ d => TyMask.vif t && DstOk.vec d
  | .vcun t _ _ d => TyMask.vfloat t && DstOk.vec d
  | .vsel t _ _ _ d => TyMask.vif t && DstOk.vec d
  | .vclass t _ d => TyMask.vfloat t && DstOk.vec d
  | .vcvt t _ _ _ d => TyMask.vif0 t && DstOk.vec d
  | .vrndi t _ _ d => TyMask.vfloat t && DstOk.vec d
  | .vcvti t _ _ d => TyMask.vcvti t && DstOk.vec d
  | .vpack t _ b c d => TyMask.vpack t && DstOk.vec d && packOk t b c
  | .vunpk t _ _ d => TyMask.vunpk t && DstOk.vec d
  | .vqnt _ _ d => DstOk.vecNoFlag d
  | .vdqnt _ _ _ d => DstOk.vec d
  | .vrcp _ d => DstOk.vec d
  | .vrsq _ d => DstOk.vec d
  | .vfexp _ d => DstOk.vec d
  | .vflog _ d => DstOk.vec d
  | .vscx _ _ d => DstOk.vec d
  | .vgetx _ d => DstOk.vec d
  | .vgetm _ d => DstOk.vec d
  | .vbcast _ _ d => DstOk.vec d
  | .vextr _ _ d => DstOk.any d
  | .vperm _ _ d => DstOk.vec d
  | .vshfl _ _ d => DstOk.vec d
  | .vsum t _ d => TyMask.vred t && DstOk.any d
  | .vmaxr t _ d => TyMask.vred t && DstOk.any d
  | .vminr t _ d => TyMask.vred t && DstOk.any d
  | .vscan t _ d => TyMask.vred t && DstOk.vec d
  | .viota _ _ d => DstOk.vec d
  | .vcmpr _ _ d => DstOk.vecNoFlag d
  | .vrun _ _ _ d => DstOk.vec d
  | .mcfg _ _ => true
  | .msrca _ _ _ => true
  | .msrcb _ _ _ => true
  | .marm _ _ => true
  | .mdisarm _ => true
  | .mzero _ => true
  | .mloadc _ _ _ => true
  | .mdrain _ _ _ => true
  | .mscale _ _ => true
  | .msort k _ _ d => k != 3 && DstOk.tgtOnly d
  | .mstat _ d => DstOk.query2 d
  | .tslotAlloc _ _ => true
  | .tslotFree _ => true
  | .tslotqNow _ d => DstOk.query2 d
  | .tslotqFull _ d => DstOk.tgtOnly d
  | .tslotqEmpty _ d => DstOk.tgtOnly d
  | .tsetEmpty _ => true
  | .tsetFull _ => true
  | .tsetRow _ _ _ => true
  | .tsetRowfull _ _ _ => true
  | .ld _ _ _ _ v done => VDstOk.scalar v && doneOk done
  | .ldv w _ _ _ v done => w != 3 && VDstOk.vector v && doneOk done
  | .lds w _ _ _ v done => w != 3 && VDstOk.vector v && doneOk done
  | .ldx w _ _ _ v done => w != 3 && VDstOk.vector v && doneOk done
  | .ldag w _ _ _ v done => w != 3 && VDstOk.vector v && doneOk done
  | .ldq w _ _ _ v done => w != 3 && VDstOk.scalar v && doneOk done
  | .ldacq _ _ _ _ v done => VDstOk.scalar v && doneOk done
  | .pref _ _ _ _ => true
  | .stashq _ _ v done => VDstOk.scalar v && doneOk done
  | .st _ _ _ _ _ _ done => doneOk done
  | .stv _ w _ _ _ _ done => w != 3 && doneOk done
  | .sts _ w _ _ _ _ done => w != 3 && doneOk done
  | .stx _ w _ _ _ _ done => w != 3 && doneOk done
  | .stag _ w _ _ _ _ done => w != 3 && doneOk done
  | .strel _ _ _ _ _ _ done => doneOk done
  | .aadd _ w _ _ _ v done => wAtom w && VDstOk.atomic v && doneOk done
  | .amin _ w _ _ _ _ v done => wAtom w && VDstOk.atomic v && doneOk done
  | .amax _ w _ _ _ _ v done => wAtom w && VDstOk.atomic v && doneOk done
  | .aand _ w _ _ _ v done => wAtom w && VDstOk.atomic v && doneOk done
  | .aor _ w _ _ _ v done => wAtom w && VDstOk.atomic v && doneOk done
  | .axor _ w _ _ _ v done => wAtom w && VDstOk.atomic v && doneOk done
  | .axchg _ w _ _ _ v done => wAtom w && VDstOk.atomic v && doneOk done
  | .acas _ w _ _ _ _ v done => wAtom w && VDstOk.atomic v && doneOk done
  | .afadd _ w _ _ _ v done => wAtom w && VDstOk.atomic v && doneOk done
  | .afadd2 _ w _ _ _ _ v done => w == 2 && VDstOk.atomic v && doneOk done
  | .aincw _ w _ _ _ v done => wAtom w && VDstOk.atomic v && doneOk done
  | .adecw _ w _ _ _ v done => wAtom w && VDstOk.atomic v && doneOk done
  | .drain _ _ done => doneOk done
  | .ordjoin _ _ _ _ done => doneOk done
  | .pfence sc _ done => sc != 3 && doneOk done
  | .flushsLine _ _ _ done => doneOk done
  | .flushsAll _ _ done => doneOk done
  | .invsLine _ _ _ done => doneOk done
  | .invsAll _ _ done => doneOk done
  | .pubt _ _ _ _ done => doneOk done
  | .pubr k _ _ _ _ done => k != 3 && doneOk done
  | .subn _ _ _ _ done => doneOk done
  | .subnAgain _ _ _ _ done => doneOk done
  | .unsub _ _ done => doneOk done
  | .claim _ _ _ done => doneOk done
  | .retain _ _ _ _ done => doneOk done
  | .sopen _ _ _ _ done => doneOk done
  | .sclose _ _ done => doneOk done
  | .spop _ _ v done => VDstOk.scalar v && doneOk done
  | .spopKeep _ _ v done => VDstOk.scalar v && doneOk done
  | .circ _ _ _ _ done => doneOk done
  | .circrel _ _ _ done => doneOk done
  | .coll k _ _ _ _ done => k != 3 && doneOk done
  | .copy _ _ _ _ v done => VDstOk.scalar v && doneOk done
  | .copyx _ _ _ _ _ v done => VDstOk.scalar v && doneOk done
  | .agcfg _ _ _ done => doneOk done
  | .agfree _ _ done => doneOk done
  | .wuntil _ _ y => YDstOk.order y
  | .barc _ _ _ _ => true
  | .barcReset _ _ _ _ => true
  | .bara _ _ _ _ _ => true
  | .barw _ _ _ _ y => YDstOk.order y
  | .sigadd _ _ _ _ => true
  | .sigwait _ _ _ y => YDstOk.order y
  | .tspawn _ _ y => YDstOk.taskid y
  | .tend _ => true
  | .trapRaise _ _ => true
  | .trapVec _ _ => true
  | .tretRetry _ => true
  | .tretSkip _ => true
  | .fmtw _ _ _ => true
  | .fmtr _ _ y => YDstOk.value y
  | .trace _ _ _ _ => true
  | .brk _ _ => true
  | .pmodeDurable _ => true
  | .pmodeRestartable _ => true
  | .csrr _ _ y => YDstOk.value y
  | .csrw _ _ _ => true
  | .tlbinvAll _ b _ y => b == .zero && YDstOk.order y
  | .tlbinvAsid _ b _ y => b == .zero && YDstOk.order y
  | .tlbinvPage _ _ _ y => YDstOk.order y
  | .nsbind _ _ y => YDstOk.value y
  | .parkStop _ _ y => YDstOk.value y
  | .parkResume _ _ y => YDstOk.value y
  | .frkill _ _ _ y => YDstOk.value y
  | .tmove _ _ _ y => YDstOk.value y
  | .preemptStop _ _ _ y => YDstOk.value y
  | .preemptResume _ _ _ y => YDstOk.value y
  | .routew _ _ _ y => YDstOk.value y
  | .slateqRec _ _ y => YDstOk.value y
  | .slateqSector _ _ y => YDstOk.value y
  | .slateqDrec _ _ y => YDstOk.value y
  | .watchArrive _ _ b _ _ y => b == .zero && YDstOk.value y
  | .watchLast sig _ b _ _ y => (sig || b == .zero) && YDstOk.value y
  | .watchFlip sig _ b _ _ y => !sig && b == .zero && YDstOk.value y
  | .tokenArrival _ => true
  | .holdingQueueDrain _ => true
  | .bundleIssue _ => true
  | .trapEntry _ _ => true
  | .abortFaultRecord _ _ => true
  | .instancePromotion _ _ => true
  | .bundleFinish _ _ => true
  | .blockCommit _ _ => true
  | .deferredReplacementCommit _ _ => true
  | .loopSpawn _ _ => true
  | .loopContinuation _ _ => true
  | .tagDeadlockCheck _ => true
  | .throttleEvent _ => true
  | .tspawnAtHub _ _ => true
  | .taskPlacement _ _ _ => true
  | .tileDelivery _ => true
  | .activation _ => true
  | .taskReserving _ _ => true
  | .frameEndDone _ _ => true
  | .moveComplete _ _ => true
  | .powerGrant _ _ => true
  | .railCurrentSample _ _ => true
  | .matrixFiringStart _ => true
  | .kStep _ => true
  | .matrixFiringEnd _ => true
  | .matrixJobDone _ _ => true
  | .msortPass _ => true
  | .loadReply _ => true
  | .doneTokenFire _ _ _ => true
  | .drainWaitEnd _ _ => true
  | .pfenceWaitEnd _ _ => true
  | .stashFlushDone _ _ => true
  | .wuntilTick _ _ => true
  | .copyComplete _ _ => true
  | .spopDelivery _ _ => true
  | .tslotqWaitDelivery _ _ => true
  | .claimReply _ => true
  | .taskidReply _ => true
  | .registrationAtRouter _ => true
  | .pruneAtRouter _ => true
  | .publishFlitAtRouter _ => true
  | .registrationAtHome _ => true
  | .pruneAtHome _ => true
  | .directoryIngressRetry _ _ => true
  | .publishAtHome _ => true
  | .claimAtHome _ => true
  | .retainAtHome _ => true
  | .retentionExpiry _ _ _ => true
  | .collAtHome _ => true
  | .partialAtHome _ => true
  | .partialRetry _ _ => true
  | .partialUnregisteredDrop _ _ => true
  | .registrationReply _ => true
  | .fetchAtRim _ => true
  | .fetchPublish _ _ => true
  | .streamElementAtRouter _ => true
  | .creditReturn _ => true
  | .branchstallExpiry _ _ => true
  | .detachNotice _ => true
  | .unicastRerequest _ => true
  | .circAtRouter _ => true
  | .circrelAtRouter _ => true
  | .circIdleExpiry _ _ => true
  | .requestAtHome _ => true
  | .probeAckAtHome _ => true
  | .writebackAtHome _ => true
  | .atomicAtHome _ => true
  | .fillReply _ => true
  | .rxGrant _ => true
  | .probeDown _ => true
  | .probeInv _ => true
  | .pageWalk _ _ _ => true
  | .hbmSectorReply _ _ => true
  | .pageMigration _ _ => true
  | .migrationForward _ _ => true
  | .barcAtBarrier _ => true
  | .baraAtBarrier _ => true
  | .barwAtBarrier _ => true
  | .sigaddAtHome _ => true
  | .sigwaitAtHome _ => true
  | .persistEpochStart _ => true
  | .dRecordWritten _ => true
  | .cDomainPowerLoss _ _ => true
  | .cDomainRevival _ => true
  | .replayStallTimeout _ _ => true
  | .fieldPowerLoss _ => true
  | .fieldRevivalResend _ _ => true
  | .preemptMarkerEffect _ _ => true
  | .parkIssueCutoff _ _ => true
  | .frameRestore _ _ => true
  | .frameWatchdogExpiry _ _ => true
  | .tileWatchdogExpiry _ => true
  | .thermalLevelRise _ _ => true
  | .criticalRailRemoval _ => true
  | .thermalLevelFall _ _ => true
  | .spineSwitch _ => true
  | .moduleStart _ => true
  | .svnminUpdate _ => true
  | .securityAlarm _ _ => true
  | .spdmGetVersion _ => true
  | .spdmGetCapabilities _ => true
  | .spdmNegotiateAlgorithms _ => true
  | .spdmGetDigests _ => true
  | .spdmGetCertificate _ => true
  | .spdmChallenge _ => true
  | .spdmGetMeasurements _ _ _ => true
  | .bar4Read _ _ _ => true
  | .bar4Write _ _ _ => true
  | .publishHeaderPayload _ _ _ _ _ _ => true
  | .publishHeaderGlobal _ _ _ _ _ _ => true
  | .hxresMapped _ _ => true
  | .hxresDeclined _ _ => true
  | .hptedataWrite _ _ => true
  | .htlbinvAsid _ => true
  | .htlbinvPage _ _ => true
  | .hsubArm _ _ _ => true
  | .hsubWithdraw _ _ => true
  | .hsubciWrite _ _ _ => true
  | .hostDelivery _ _ => true
  | .hpctlCreate _ => true
  | .hpctlDestroy _ => true
  | .hdstepArm _ _ => true
  | .hdstepDisarm _ => true
  | .hjclr _ => true
  | .registerWrite _ _ _ _ => true
  | .functionLevelReset _ => true
  | .loaderLaunch _ _ => true
  | .spanFrameReceive _ _ _ _ => true
  | .spanReplay _ => true
  | .spanLinkDown _ => true
  | .spanPublishDrop _ _ => true
  | .tokenSampleEject _ _ => true
  | .counterSnapshot _ => true
  | .lifeStorePersist _ => true
  | .lifeSample _ _ _ => true
  | .fieldPowerReturn _ => true
  | .spanLinkUp _ => true
  | .hbmAccessAtRim _ _ => true
  | .stackSelfRefresh _ => true
  | .supervisorOperationComplete _ _ => true
  | .nameOperationAcknowledgement _ => true
  | .claimReleaseAtHome _ => true
  | .nameEntryRelease _ _ => true

end Sys2Proof
end

