-- ==== Sys2Proof/Decode.lean ====
section
/-! DEFINITION. The decoder of the 60-bit slot words and of bundles, and after it an encoder from the same
tables (spec/07). Decoding answers an instruction, ILLOP (R202 orders 1 to 7) or ILLSRC (order 8). -/

namespace Sys2Proof

/-- The answer of the decoder: an instruction or the cause by which the word is refused (R202). -/
inductive Dec (α : Type) where
  | ok (a : α)
  | illOp
  | illSrc
  deriving DecidableEq, Repr

/-- A source code (R192); the reserved codes 0x2E and 0x2F give none. -/
def decSrc (c : BitVec 6) : Option Src :=
  if c.extractLsb' 5 1 = 0 then some (.f (c.extractLsb' 0 5))
  else if c.extractLsb' 3 3 = 0b110 then some (.lit (c.extractLsb' 0 3))
  else if c.extractLsb' 2 4 = 0b1000 then some (.p (c.extractLsb' 0 2))
  else if c.extractLsb' 2 4 = 0b1001 then some (.b (c.extractLsb' 0 2))
  else match c with
    | 0x28#6 => some .zero | 0x29#6 => some .tag | 0x2A#6 => some .iter | 0x2B#6 => some .lanes
    | 0x2C#6 => some .quartz | 0x2D#6 => some .privBase
    | 0x38#6 => some .one | 0x39#6 => some .negOne | 0x3A#6 => some .two | 0x3B#6 => some .four
    | 0x3C#6 => some .eight | 0x3D#6 => some .sixteen | 0x3E#6 => some .fOne | 0x3F#6 => some .fHalf
    | _ => none

def encSrc : Src → BitVec 6
  | .f r => 0#1 ++ r
  | .p n => 0b1000#4 ++ n
  | .b n => 0b1001#4 ++ n
  | .lit k => 0b110#3 ++ k
  | .zero => 0x28 | .tag => 0x29 | .iter => 0x2A | .lanes => 0x2B | .quartz => 0x2C | .privBase => 0x2D
  | .one => 0x38 | .negOne => 0x39 | .two => 0x3A | .four => 0x3B | .eight => 0x3C | .sixteen => 0x3D
  | .fOne => 0x3E | .fHalf => 0x3F

/-- A tag-op code (R186). -/
def decTop : BitVec 3 → Option TagOp
  | 0#3 => some .same | 1#3 => some .next | 2#3 => some .exit | 3#3 => some .spawn
  | 4#3 => some .path0 | 5#3 => some .path1 | 6#3 => some .strip | _ => none

def encTop : TagOp → BitVec 3
  | .same => 0 | .next => 1 | .exit => 2 | .spawn => 3 | .path0 => 4 | .path1 => 5 | .strip => 6

/-- A type code (R196). -/
def decTy : BitVec 4 → Ty
  | 0#4 => .i64 | 1#4 => .i32 | 2#4 => .i16 | 3#4 => .i8 | 4#4 => .n64 | 5#4 => .n32 | 6#4 => .n16
  | 7#4 => .n8 | 8#4 => .f32 | 9#4 => .bf16 | 10#4 => .f16 | 11#4 => .e4m3 | 12#4 => .e5m2
  | 13#4 => .e2m1 | 14#4 => .a48 | _ => .i16x2

def encTy : Ty → BitVec 4
  | .i64 => 0 | .i32 => 1 | .i16 => 2 | .i8 => 3 | .n64 => 4 | .n32 => 5 | .n16 => 6 | .n8 => 7
  | .f32 => 8 | .bf16 => 9 | .f16 => 10 | .e4m3 => 11 | .e5m2 => 12 | .e2m1 => 13 | .a48 => 14
  | .i16x2 => 15

/-- A short target word (R189): `some none` is the well-formed invalid word, `none` one that is not well formed. -/
def decShort (w : BitVec 11) : Option (Option Target) :=
  if w.extractLsb' 10 1 = 1 then
    match decTop (w.extractLsb' 0 3) with
    | some t => some (some ⟨w.extractLsb' 5 5, w.extractLsb' 3 2, t⟩)
    | none => none
  else if w = 0 then some none else none

def encShort : Option Target → BitVec 11
  | none => 0
  | some t => 1#1 ++ (t.bun ++ (t.port ++ encTop t.top))

/-- A target word whose flags must be zero: target 0 of the generic format, YD of the system format (R185, R190). -/
def decFull (w : BitVec 14) : Option (Option Target) :=
  if w.extractLsb' 0 3 = 0 then decShort (w.extractLsb' 3 11) else none

def encFull (t : Option Target) : BitVec 14 := encShort t ++ 0#3

/-- DST of the generic format under DK (R184, R185). -/
def decDst (dk : BitVec 2) (dst : BitVec 28) : Option Dst :=
  match dk with
  | 0#2 => if dst.extractLsb' 0 26 = 0 then some (.latch (dst.extractLsb' 26 2)) else none
  | 1#2 => if dst.extractLsb' 0 23 = 0 then some (.reg (dst.extractLsb' 23 5)) else none
  | 2#2 =>
    match decFull (dst.extractLsb' 14 14) with
    | none => none
    | some t0 =>
      if dst.extractLsb' 2 12 = 1 then some (.targetLatch t0 (dst.extractLsb' 0 2))
      else match decFull (dst.extractLsb' 0 14) with
        | none => none
        | some t1 => some (.targets t0 t1)
  | _ => none

def encDk : Dst → BitVec 2
  | .latch _ => 0 | .reg _ => 1 | .targets _ _ => 2 | .targetLatch _ _ => 2

def encDst : Dst → BitVec 28
  | .latch b => b ++ 0#26
  | .reg r => r ++ 0#23
  | .targets a b => encFull a ++ encFull b
  | .targetLatch a b => encFull a ++ (1#12 ++ b)

/-- VAL of the four-source format under VK (R189). -/
def decVDst (vk : BitVec 2) (val : BitVec 11) : Option VDst :=
  match vk with
  | 0#2 => if val.extractLsb' 0 9 = 0 then some (.latch (val.extractLsb' 9 2)) else none
  | 1#2 => if val.extractLsb' 0 6 = 0 then some (.reg (val.extractLsb' 6 5)) else none
  | 2#2 => match decShort val with | some t => some (.target t) | none => none
  | _ => if val = 0 then some .none else none

def encVk : VDst → BitVec 2
  | .latch _ => 0 | .reg _ => 1 | .target _ => 2 | .none => 3

def encVal : VDst → BitVec 11
  | .latch b => b ++ 0#9
  | .reg r => r ++ 0#6
  | .target t => encShort t
  | .none => 0

/-- YD of the system format under YK (R190). -/
def decYDst (yk : BitVec 2) (yd : BitVec 14) : Option YDst :=
  match yk with
  | 0#2 => if yd = 0 then some .none else none
  | 1#2 => if yd.extractLsb' 5 9 = 0 then some (.reg (yd.extractLsb' 0 5)) else none
  | 2#2 => match decFull yd with | some t => some (.target t) | none => none
  | _ => none

def encYk : YDst → BitVec 2
  | .none => 0 | .reg _ => 1 | .target _ => 2

def encYd : YDst → BitVec 14
  | .none => 0
  | .reg r => 0#9 ++ r
  | .target t => encFull t

/-- The generic slot format (R183). -/
structure RawG where
  op : BitVec 8
  mod : BitVec 4
  sa : BitVec 6
  sb : BitVec 6
  sc : BitVec 6
  dk : BitVec 2
  dst : BitVec 28
  deriving DecidableEq, Repr

/-- The four-source format (R188). -/
structure RawF where
  op : BitVec 8
  mod : BitVec 4
  sa : BitVec 6
  sb : BitVec 6
  sc : BitVec 6
  sd : BitVec 6
  vk : BitVec 2
  val : BitVec 11
  done : BitVec 11
  deriving DecidableEq, Repr

/-- The system format (R190). -/
structure RawY where
  op : BitVec 8
  mod : BitVec 4
  sa : BitVec 6
  sb : BitVec 6
  sc : BitVec 6
  x : BitVec 11
  res : BitVec 3
  yk : BitVec 2
  yd : BitVec 14
  deriving DecidableEq, Repr

def rawG (w : BitVec 60) : RawG :=
  ⟨w.extractLsb' 52 8, w.extractLsb' 48 4, w.extractLsb' 42 6, w.extractLsb' 36 6, w.extractLsb' 30 6,
   w.extractLsb' 28 2, w.extractLsb' 0 28⟩

def rawF (w : BitVec 60) : RawF :=
  ⟨w.extractLsb' 52 8, w.extractLsb' 48 4, w.extractLsb' 42 6, w.extractLsb' 36 6, w.extractLsb' 30 6,
   w.extractLsb' 24 6, w.extractLsb' 22 2, w.extractLsb' 11 11, w.extractLsb' 0 11⟩

def rawY (w : BitVec 60) : RawY :=
  ⟨w.extractLsb' 52 8, w.extractLsb' 48 4, w.extractLsb' 42 6, w.extractLsb' 36 6, w.extractLsb' 30 6,
   w.extractLsb' 19 11, w.extractLsb' 16 3, w.extractLsb' 14 2, w.extractLsb' 0 14⟩

def encG (op : BitVec 8) (mod : BitVec 4) (sa sb sc : BitVec 6) (d : Dst) : BitVec 60 :=
  op ++ (mod ++ (sa ++ (sb ++ (sc ++ (encDk d ++ encDst d)))))

def encF (op : BitVec 8) (mod : BitVec 4) (sa sb sc sd : BitVec 6) (v : VDst) (n : Option Target) : BitVec 60 :=
  op ++ (mod ++ (sa ++ (sb ++ (sc ++ (sd ++ (encVk v ++ (encVal v ++ encShort n)))))))

def encY (op : BitVec 8) (mod : BitVec 4) (sa sb sc : BitVec 6) (x : BitVec 11) (y : YDst) : BitVec 60 :=
  op ++ (mod ++ (sa ++ (sb ++ (sc ++ (x ++ (0#3 ++ (encYk y ++ encYd y)))))))

/-! The checks of one word, each refusing with ILLOP (R202 orders 2 to 7) or, for a reserved source, ILLSRC. -/

def need (c : Bool) (k : Dec Instr) : Dec Instr := if c then k else .illOp

def withTy (m : BitVec 4) (ok : Ty → Bool) (k : Ty → Dec Instr) : Dec Instr := need (ok (decTy m)) (k (decTy m))

def withN (m : BitVec 4) (k : BitVec 3 → Dec Instr) : Dec Instr :=
  need (m.extractLsb' 3 1 == 0) (k (m.extractLsb' 0 3))

def withKind (m : BitVec 4) (hi : BitVec 2) (no3 : Bool) (k : BitVec 2 → Dec Instr) : Dec Instr :=
  need (m.extractLsb' 2 2 == hi && !(no3 && m.extractLsb' 0 2 == 3)) (k (m.extractLsb' 0 2))

def withTag (m : BitVec 4) (k : BitVec 4 → Dec Instr) : Dec Instr := k m

def withBit (m : BitVec 4) (k : Bool → Dec Instr) : Dec Instr :=
  need (m.extractLsb' 1 3 == 0) (k (m.extractLsb' 0 1 == 1))

def withWidth (m : BitVec 4) (ok : BitVec 2 → Bool) (k : BitVec 2 → Dec Instr) : Dec Instr :=
  need (m.extractLsb' 2 2 == 0 && ok (m.extractLsb' 0 2)) (k (m.extractLsb' 0 2))

def withScopeWidth (m : BitVec 4) (ok : BitVec 2 → Bool) (k : BitVec 2 → BitVec 2 → Dec Instr) : Dec Instr :=
  need (ok (m.extractLsb' 0 2)) (k (m.extractLsb' 2 2) (m.extractLsb' 0 2))

def withScope (m : BitVec 4) (lo : BitVec 2) (no3 : Bool) (k : BitVec 2 → Dec Instr) : Dec Instr :=
  need (m.extractLsb' 0 2 == lo && !(no3 && m.extractLsb' 2 2 == 3)) (k (m.extractLsb' 2 2))

def withSig (m : BitVec 4) (lo : BitVec 2) (noSig : Bool) (k : Bool → Dec Instr) : Dec Instr :=
  need (m.extractLsb' 0 2 == lo && m.extractLsb' 3 1 == 0 && !(noSig && m.extractLsb' 2 1 == 1))
    (k (m.extractLsb' 2 1 == 1))

def withDst (dk : BitVec 2) (dst : BitVec 28) (ok : Dst → Bool) (k : Dst → Dec Instr) : Dec Instr :=
  match decDst dk dst with
  | some d => need (ok d) (k d)
  | none => .illOp

def withVDst (vk : BitVec 2) (val : BitVec 11) (ok : VDst → Bool) (k : VDst → Dec Instr) : Dec Instr :=
  match decVDst vk val with
  | some d => need (ok d) (k d)
  | none => .illOp

def withYDst (yk : BitVec 2) (yd : BitVec 14) (ok : YDst → Bool) (k : YDst → Dec Instr) : Dec Instr :=
  match decYDst yk yd with
  | some d => need (ok d) (k d)
  | none => .illOp

def withDone (w : BitVec 11) (k : Option Target → Dec Instr) : Dec Instr :=
  match decShort w with
  | some t => need (doneOk t) (k t)
  | none => .illOp

def withSrc (c : BitVec 6) (k : Src → Dec Instr) : Dec Instr :=
  match decSrc c with
  | some s => k s
  | none => .illSrc

def withX11 (x : BitVec 11) (k : BitVec 11 → Dec Instr) : Dec Instr := k x

def withX8 (x : BitVec 11) (k : BitVec 8 → Dec Instr) : Dec Instr :=
  need (x.extractLsb' 8 3 == 0) (k (x.extractLsb' 0 8))

def withX5 (x : BitVec 11) (k : BitVec 5 → Dec Instr) : Dec Instr :=
  need (x.extractLsb' 5 6 == 0) (k (x.extractLsb' 0 5))

/-- VPACK's unused sources in its compacting forms (R195, R261). -/
def packRaw (t : Ty) (sb sc : BitVec 6) : Bool := t == .f32 || (sb == 0x28 && sc == 0x28)

/-- The S map of R197 to R200, one arm per assigned opcode. -/
def decodeS (r : RawG) : Dec Instr :=
  match r.op with
  | 0x01#8 => withTy r.mod TyMask.int fun t => withDst r.dk r.dst DstOk.any fun d => need (r.sc == 0x28) <| withSrc r.sa fun a => withSrc r.sb fun b => .ok (.add t a b d)
  | 0x02#8 => withTy r.mod TyMask.int fun t => withDst r.dk r.dst DstOk.any fun d => need (r.sc == 0x28) <| withSrc r.sa fun a => withSrc r.sb fun b => .ok (.sub t a b d)
  | 0x03#8 => withTy r.mod TyMask.int fun t => withDst r.dk r.dst DstOk.any fun d => need (r.sc == 0x28) <| withSrc r.sa fun a => withSrc r.sb fun b => .ok (.mul t a b d)
  | 0x04#8 => withTy r.mod TyMask.int fun t => withDst r.dk r.dst DstOk.any fun d => need (r.sc == 0x28) <| withSrc r.sa fun a => withSrc r.sb fun b => .ok (.mulh t a b d)
  | 0x05#8 => withTy r.mod TyMask.int fun t => withDst r.dk r.dst DstOk.any fun d => need (r.sc == 0x28) <| withSrc r.sa fun a => withSrc r.sb fun b => .ok (.div t a b d)
  | 0x06#8 => withTy r.mod TyMask.int fun t => withDst r.dk r.dst DstOk.any fun d => need (r.sc == 0x28) <| withSrc r.sa fun a => withSrc r.sb fun b => .ok (.rem t a b d)
  | 0x07#8 => withTy r.mod TyMask.sint fun t => withDst r.dk r.dst DstOk.any fun d => need (r.sb == 0x28) <| need (r.sc == 0x28) <| withSrc r.sa fun a => .ok (.absOp t a d)
  | 0x08#8 => withTy r.mod TyMask.int fun t => withDst r.dk r.dst DstOk.any fun d => need (r.sc == 0x28) <| withSrc r.sa fun a => withSrc r.sb fun b => .ok (.andOp t a b d)
  | 0x09#8 => withTy r.mod TyMask.int fun t => withDst r.dk r.dst DstOk.any fun d => need (r.sc == 0x28) <| withSrc r.sa fun a => withSrc r.sb fun b => .ok (.orOp t a b d)
  | 0x0A#8 => withTy r.mod TyMask.int fun t => withDst r.dk r.dst DstOk.any fun d => need (r.sc == 0x28) <| withSrc r.sa fun a => withSrc r.sb fun b => .ok (.xor t a b d)
  | 0x0B#8 => withTy r.mod TyMask.int fun t => withDst r.dk r.dst DstOk.any fun d => need (r.sc == 0x28) <| withSrc r.sa fun a => withSrc r.sb fun b => .ok (.andn t a b d)
  | 0x0C#8 => withTy r.mod TyMask.int fun t => withDst r.dk r.dst DstOk.any fun d => need (r.sc == 0x28) <| withSrc r.sa fun a => withSrc r.sb fun b => .ok (.shl t a b d)
  | 0x0D#8 => withTy r.mod TyMask.int fun t => withDst r.dk r.dst DstOk.any fun d => need (r.sc == 0x28) <| withSrc r.sa fun a => withSrc r.sb fun b => .ok (.shr t a b d)
  | 0x0E#8 => withTy r.mod TyMask.int fun t => withDst r.dk r.dst DstOk.any fun d => need (r.sc == 0x28) <| withSrc r.sa fun a => withSrc r.sb fun b => .ok (.sra t a b d)
  | 0x0F#8 => withTy r.mod TyMask.int fun t => withDst r.dk r.dst DstOk.any fun d => need (r.sc == 0x28) <| withSrc r.sa fun a => withSrc r.sb fun b => .ok (.rol t a b d)
  | 0x10#8 => withTy r.mod TyMask.int fun t => withDst r.dk r.dst DstOk.any fun d => need (r.sc == 0x28) <| withSrc r.sa fun a => withSrc r.sb fun b => .ok (.min t a b d)
  | 0x11#8 => withTy r.mod TyMask.int fun t => withDst r.dk r.dst DstOk.any fun d => need (r.sc == 0x28) <| withSrc r.sa fun a => withSrc r.sb fun b => .ok (.max t a b d)
  | 0x12#8 => withTy r.mod TyMask.int fun t => withDst r.dk r.dst DstOk.any fun d => need (r.sb == 0x28) <| need (r.sc == 0x28) <| withSrc r.sa fun a => .ok (.clz t a d)
  | 0x13#8 => withTy r.mod TyMask.int fun t => withDst r.dk r.dst DstOk.any fun d => need (r.sb == 0x28) <| need (r.sc == 0x28) <| withSrc r.sa fun a => .ok (.ctz t a d)
  | 0x14#8 => withTy r.mod TyMask.int fun t => withDst r.dk r.dst DstOk.any fun d => need (r.sb == 0x28) <| need (r.sc == 0x28) <| withSrc r.sa fun a => .ok (.popc t a d)
  | 0x15#8 => withTy r.mod TyMask.int fun t => withDst r.dk r.dst DstOk.any fun d => need (r.sb == 0x28) <| need (r.sc == 0x28) <| withSrc r.sa fun a => .ok (.brev t a d)
  | 0x16#8 => withTy r.mod TyMask.w64 fun t => withDst r.dk r.dst DstOk.any fun d => need (r.sc == 0x28) <| withSrc r.sa fun a => withSrc r.sb fun b => .ok (.bfx t a b d)
  | 0x17#8 => withTy r.mod TyMask.w64 fun t => withDst r.dk r.dst DstOk.any fun d => withSrc r.sa fun a => withSrc r.sb fun b => withSrc r.sc fun c => .ok (.bfi t a b c d)
  | 0x18#8 => withTy r.mod TyMask.int fun t => withDst r.dk r.dst DstOk.any fun d => need (r.sc == 0x28) <| withSrc r.sa fun a => withSrc r.sb fun b => .ok (.ceq t a b d)
  | 0x19#8 => withTy r.mod TyMask.int fun t => withDst r.dk r.dst DstOk.any fun d => need (r.sc == 0x28) <| withSrc r.sa fun a => withSrc r.sb fun b => .ok (.cne t a b d)
  | 0x1A#8 => withTy r.mod TyMask.int fun t => withDst r.dk r.dst DstOk.any fun d => need (r.sc == 0x28) <| withSrc r.sa fun a => withSrc r.sb fun b => .ok (.clt t a b d)
  | 0x1B#8 => withTy r.mod TyMask.int fun t => withDst r.dk r.dst DstOk.any fun d => need (r.sc == 0x28) <| withSrc r.sa fun a => withSrc r.sb fun b => .ok (.cle t a b d)
  | 0x1C#8 => need (r.mod == 0) <| withDst r.dk r.dst DstOk.any fun d => withSrc r.sa fun a => withSrc r.sb fun b => withSrc r.sc fun c => .ok (.sel a b c d)
  | 0x1D#8 => withTy r.mod TyMask.int fun t => withDst r.dk r.dst DstOk.any fun d => need (r.sb == 0x28) <| need (r.sc == 0x28) <| withSrc r.sa fun a => .ok (.mov t a d)
  | 0x20#8 => withTy r.mod TyMask.farith fun t => withDst r.dk r.dst DstOk.any fun d => need (r.sc == 0x28) <| withSrc r.sa fun a => withSrc r.sb fun b => .ok (.fadd t a b d)
  | 0x21#8 => withTy r.mod TyMask.farith fun t => withDst r.dk r.dst DstOk.any fun d => need (r.sc == 0x28) <| withSrc r.sa fun a => withSrc r.sb fun b => .ok (.fsub t a b d)
  | 0x22#8 => withTy r.mod TyMask.farith fun t => withDst r.dk r.dst DstOk.any fun d => need (r.sc == 0x28) <| withSrc r.sa fun a => withSrc r.sb fun b => .ok (.fmul t a b d)
  | 0x23#8 => withTy r.mod TyMask.farith fun t => withDst r.dk r.dst DstOk.any fun d => withSrc r.sa fun a => withSrc r.sb fun b => withSrc r.sc fun c => .ok (.fma t a b c d)
  | 0x24#8 => withTy r.mod TyMask.farith fun t => withDst r.dk r.dst DstOk.any fun d => need (r.sc == 0x28) <| withSrc r.sa fun a => withSrc r.sb fun b => .ok (.fmin t a b d)
  | 0x25#8 => withTy r.mod TyMask.farith fun t => withDst r.dk r.dst DstOk.any fun d => need (r.sc == 0x28) <| withSrc r.sa fun a => withSrc r.sb fun b => .ok (.fmax t a b d)
  | 0x26#8 => withTy r.mod TyMask.fcmp fun t => withDst r.dk r.dst DstOk.any fun d => need (r.sc == 0x28) <| withSrc r.sa fun a => withSrc r.sb fun b => .ok (.fcmp t a b d)
  | 0x27#8 => withTy r.mod TyMask.fcvt fun t => withDst r.dk r.dst DstOk.any fun d => withSrc r.sa fun a => withSrc r.sb fun b => withSrc r.sc fun c => .ok (.fcvt t a b c d)
  | 0x28#8 => withTy r.mod TyMask.fclass fun t => withDst r.dk r.dst DstOk.any fun d => need (r.sb == 0x28) <| need (r.sc == 0x28) <| withSrc r.sa fun a => .ok (.fclass t a d)
  | 0x30#8 => need (r.mod == 0) <| withDst r.dk r.dst DstOk.any fun d => need (r.sc == 0x28) <| withSrc r.sa fun a => withSrc r.sb fun b => .ok (.adda a b d)
  | 0x31#8 => need (r.mod == 0) <| withDst r.dk r.dst DstOk.any fun d => need (r.sb == 0x28) <| need (r.sc == 0x28) <| withSrc r.sa fun a => .ok (.spq a d)
  | 0x32#8 =>
      if r.mod.extractLsb' 2 2 == 0 then withKind r.mod 0 false fun k => withDst r.dk r.dst DstOk.any fun d => need (r.sb == 0x28) <| need (r.sc == 0x28) <| withSrc r.sa fun a => .ok (.spcvTooff k a d)
      else withKind r.mod 1 false fun k => withDst r.dk r.dst DstOk.any fun d => need (r.sb == 0x28) <| need (r.sc == 0x28) <| withSrc r.sa fun a => .ok (.spcvToptr k a d)
  | 0x33#8 => withKind r.mod 0 false fun k => withDst r.dk r.dst DstOk.any fun d => need (r.sb == 0x28) <| need (r.sc == 0x28) <| withSrc r.sa fun a => .ok (.mkwin k a d)
  | 0x34#8 => need (r.mod == 0) <| withDst r.dk r.dst DstOk.any fun d => withSrc r.sa fun a => withSrc r.sb fun b => withSrc r.sc fun c => .ok (.nameh a b c d)
  | 0x35#8 => need (r.mod == 0) <| withDst r.dk r.dst DstOk.any fun d => withSrc r.sa fun a => withSrc r.sb fun b => withSrc r.sc fun c => .ok (.namel a b c d)
  | 0x40#8 => need (r.mod == 0) <| withDst r.dk r.dst DstOk.steer fun d => need (r.sc == 0x28) <| withSrc r.sa fun a => withSrc r.sb fun b => .ok (.steer a b d)
  | 0x41#8 => need (r.mod == 0) <| withDst r.dk r.dst DstOk.merge fun d => need (r.sa == 0x20) <| need (r.sb == 0x21) <| need (r.sc == 0x28) <| .ok (.merge d)
  | 0x42#8 =>
      if r.mod == 0 then need (r.mod == 0) <| withDst r.dk r.dst DstOk.spawnSame fun d => withSrc r.sa fun a => withSrc r.sb fun b => withSrc r.sc fun c => .ok (.loop a b c d)
      else need (r.mod == 1) <| withDst r.dk r.dst DstOk.spawnSame fun d => withSrc r.sa fun a => withSrc r.sb fun b => withSrc r.sc fun c => .ok (.loopVec a b c d)
  | 0x43#8 => need (r.mod == 0) <| withDst r.dk r.dst DstOk.spawnSame fun d => need (r.sb == 0x28) <| withSrc r.sa fun a => withSrc r.sc fun c => .ok (.whileOp a c d)
  | 0x44#8 => need (r.mod == 0) <| withDst r.dk r.dst DstOk.exit fun d => need (r.sc == 0x28) <| withSrc r.sa fun a => withSrc r.sb fun b => .ok (.exitOp a b d)
  | 0x45#8 => need (r.mod == 0) <| withDst r.dk r.dst DstOk.flow fun d => withSrc r.sa fun a => withSrc r.sb fun b => withSrc r.sc fun c => .ok (.join a b c d)
  | 0x46#8 => need (r.mod == 0) <| need (r.dk == 2 && r.dst == 0) <| need (r.sa == 0x28) <| need (r.sb == 0x28) <| withSrc r.sc fun c => .ok (.goto c)
  | 0x47#8 => need (r.mod == 0) <| withDst r.dk r.dst DstOk.spawnSame fun d => withSrc r.sa fun a => withSrc r.sb fun b => withSrc r.sc fun c => .ok (.callb a b c d)
  | 0x48#8 => need (r.mod == 0) <| withDst r.dk r.dst DstOk.retb fun d => need (r.sc == 0x28) <| withSrc r.sa fun a => withSrc r.sb fun b => .ok (.retb a b d)
  | 0x49#8 => need (r.mod == 0) <| need (r.dk == 2 && r.dst == 0) <| need (r.sa == 0x28) <| need (r.sb == 0x28) <| need (r.sc == 0x28) <| .ok (.sink)
  | 0x4A#8 => need (r.mod == 0) <| withDst r.dk r.dst DstOk.flow fun d => need (r.sc == 0x28) <| withSrc r.sa fun a => withSrc r.sb fun b => .ok (.gate a b d)
  | 0x4B#8 => withKind r.mod 0 true fun k => withDst r.dk r.dst DstOk.query fun d => need (r.sb == 0x28) <| need (r.sc == 0x28) <| withSrc r.sa fun a => .ok (.tagq k a d)
  | 0x4C#8 => need (r.mod == 0) <| withDst r.dk r.dst DstOk.query fun d => need (r.sb == 0x28) <| need (r.sc == 0x28) <| withSrc r.sa fun a => .ok (.frameq a d)
  | 0x4D#8 => need (r.mod == 0) <| withDst r.dk r.dst DstOk.query fun d => need (r.sb == 0x28) <| need (r.sc == 0x28) <| withSrc r.sa fun a => .ok (.qtime a d)
  | _ => .illOp

/-- The VA and VB map of R197 to R200, one arm per assigned opcode. -/
def decodeV (r : RawG) : Dec Instr :=
  match r.op with
  | 0x01#8 => withTy r.mod TyMask.vif fun t => withDst r.dk r.dst DstOk.vec fun d => need (r.sc == 0x28) <| withSrc r.sa fun a => withSrc r.sb fun b => .ok (.vadd t a b d)
  | 0x02#8 => withTy r.mod TyMask.vif fun t => withDst r.dk r.dst DstOk.vec fun d => need (r.sc == 0x28) <| withSrc r.sa fun a => withSrc r.sb fun b => .ok (.vsub t a b d)
  | 0x03#8 => withTy r.mod TyMask.vif fun t => withDst r.dk r.dst DstOk.vec fun d => need (r.sc == 0x28) <| withSrc r.sa fun a => withSrc r.sb fun b => .ok (.vmul t a b d)
  | 0x04#8 => withTy r.mod TyMask.vfloat fun t => withDst r.dk r.dst DstOk.vec fun d => withSrc r.sa fun a => withSrc r.sb fun b => withSrc r.sc fun c => .ok (.vfma t a b c d)
  | 0x05#8 => withTy r.mod TyMask.vfloat fun t => withDst r.dk r.dst DstOk.vec fun d => withSrc r.sa fun a => withSrc r.sb fun b => withSrc r.sc fun c => .ok (.vfms t a b c d)
  | 0x06#8 => withTy r.mod TyMask.vfloat fun t => withDst r.dk r.dst DstOk.vec fun d => withSrc r.sa fun a => withSrc r.sb fun b => withSrc r.sc fun c => .ok (.vfnma t a b c d)
  | 0x07#8 => withTy r.mod TyMask.vif fun t => withDst r.dk r.dst DstOk.vec fun d => need (r.sc == 0x28) <| withSrc r.sa fun a => withSrc r.sb fun b => .ok (.vmin t a b d)
  | 0x08#8 => withTy r.mod TyMask.vif fun t => withDst r.dk r.dst DstOk.vec fun d => need (r.sc == 0x28) <| withSrc r.sa fun a => withSrc r.sb fun b => .ok (.vmax t a b d)
  | 0x09#8 => withTy r.mod TyMask.vsf fun t => withDst r.dk r.dst DstOk.vec fun d => need (r.sb == 0x28) <| need (r.sc == 0x28) <| withSrc r.sa fun a => .ok (.vabs t a d)
  | 0x0A#8 => withTy r.mod TyMask.vsf fun t => withDst r.dk r.dst DstOk.vec fun d => need (r.sb == 0x28) <| need (r.sc == 0x28) <| withSrc r.sa fun a => .ok (.vneg t a d)
  | 0x0B#8 => withTy r.mod TyMask.vint fun t => withDst r.dk r.dst DstOk.vec fun d => need (r.sc == 0x28) <| withSrc r.sa fun a => withSrc r.sb fun b => .ok (.vmulh t a b d)
  | 0x0C#8 => withTy r.mod TyMask.vif fun t => withDst r.dk r.dst DstOk.vec fun d => withSrc r.sa fun a => withSrc r.sb fun b => withSrc r.sc fun c => .ok (.vclamp t a b c d)
  | 0x10#8 => withTy r.mod TyMask.vint fun t => withDst r.dk r.dst DstOk.vec fun d => need (r.sc == 0x28) <| withSrc r.sa fun a => withSrc r.sb fun b => .ok (.vand t a b d)
  | 0x11#8 => withTy r.mod TyMask.vint fun t => withDst r.dk r.dst DstOk.vec fun d => need (r.sc == 0x28) <| withSrc r.sa fun a => withSrc r.sb fun b => .ok (.vor t a b d)
  | 0x12#8 => withTy r.mod TyMask.vint fun t => withDst r.dk r.dst DstOk.vec fun d => need (r.sc == 0x28) <| withSrc r.sa fun a => withSrc r.sb fun b => .ok (.vxor t a b d)
  | 0x13#8 => withTy r.mod TyMask.vint fun t => withDst r.dk r.dst DstOk.vec fun d => need (r.sc == 0x28) <| withSrc r.sa fun a => withSrc r.sb fun b => .ok (.vandn t a b d)
  | 0x14#8 => withTy r.mod TyMask.vint fun t => withDst r.dk r.dst DstOk.vec fun d => need (r.sc == 0x28) <| withSrc r.sa fun a => withSrc r.sb fun b => .ok (.vshl t a b d)
  | 0x15#8 => withTy r.mod TyMask.vint fun t => withDst r.dk r.dst DstOk.vec fun d => need (r.sc == 0x28) <| withSrc r.sa fun a => withSrc r.sb fun b => .ok (.vshr t a b d)
  | 0x16#8 => withTy r.mod TyMask.vint fun t => withDst r.dk r.dst DstOk.vec fun d => need (r.sc == 0x28) <| withSrc r.sa fun a => withSrc r.sb fun b => .ok (.vsra t a b d)
  | 0x17#8 => withTy r.mod TyMask.vint fun t => withDst r.dk r.dst DstOk.vec fun d => need (r.sb == 0x28) <| need (r.sc == 0x28) <| withSrc r.sa fun a => .ok (.vclz t a d)
  | 0x18#8 => withTy r.mod TyMask.vint fun t => withDst r.dk r.dst DstOk.vec fun d => need (r.sb == 0x28) <| need (r.sc == 0x28) <| withSrc r.sa fun a => .ok (.vpopc t a d)
  | 0x20#8 => withTy r.mod TyMask.vif fun t => withDst r.dk r.dst DstOk.vec fun d => need (r.sc == 0x28) <| withSrc r.sa fun a => withSrc r.sb fun b => .ok (.vceq t a b d)
  | 0x21#8 => withTy r.mod TyMask.vif fun t => withDst r.dk r.dst DstOk.vec fun d => need (r.sc == 0x28) <| withSrc r.sa fun a => withSrc r.sb fun b => .ok (.vcne t a b d)
  | 0x22#8 => withTy r.mod TyMask.vif fun t => withDst r.dk r.dst DstOk.vec fun d => need (r.sc == 0x28) <| withSrc r.sa fun a => withSrc r.sb fun b => .ok (.vclt t a b d)
  | 0x23#8 => withTy r.mod TyMask.vif fun t => withDst r.dk r.dst DstOk.vec fun d => need (r.sc == 0x28) <| withSrc r.sa fun a => withSrc r.sb fun b => .ok (.vcle t a b d)
  | 0x24#8 => withTy r.mod TyMask.vfloat fun t => withDst r.dk r.dst DstOk.vec fun d => need (r.sc == 0x28) <| withSrc r.sa fun a => withSrc r.sb fun b => .ok (.vcun t a b d)
  | 0x25#8 => withTy r.mod TyMask.vif fun t => withDst r.dk r.dst DstOk.vec fun d => withSrc r.sa fun a => withSrc r.sb fun b => withSrc r.sc fun c => .ok (.vsel t a b c d)
  | 0x26#8 => withTy r.mod TyMask.vfloat fun t => withDst r.dk r.dst DstOk.vec fun d => need (r.sb == 0x28) <| need (r.sc == 0x28) <| withSrc r.sa fun a => .ok (.vclass t a d)
  | 0x30#8 => withTy r.mod TyMask.vif0 fun t => withDst r.dk r.dst DstOk.vec fun d => withSrc r.sa fun a => withSrc r.sb fun b => withSrc r.sc fun c => .ok (.vcvt t a b c d)
  | 0x31#8 => withTy r.mod TyMask.vfloat fun t => withDst r.dk r.dst DstOk.vec fun d => need (r.sc == 0x28) <| withSrc r.sa fun a => withSrc r.sb fun b => .ok (.vrndi t a b d)
  | 0x32#8 => withTy r.mod TyMask.vcvti fun t => withDst r.dk r.dst DstOk.vec fun d => need (r.sc == 0x28) <| withSrc r.sa fun a => withSrc r.sb fun b => .ok (.vcvti t a b d)
  | 0x33#8 => withTy r.mod TyMask.vpack fun t => withDst r.dk r.dst DstOk.vec fun d => need (packRaw t r.sb r.sc) <| withSrc r.sa fun a => withSrc r.sb fun b => withSrc r.sc fun c => .ok (.vpack t a b c d)
  | 0x34#8 => withTy r.mod TyMask.vunpk fun t => withDst r.dk r.dst DstOk.vec fun d => need (r.sc == 0x28) <| withSrc r.sa fun a => withSrc r.sb fun b => .ok (.vunpk t a b d)
  | 0x35#8 => need (r.mod == 8) <| withDst r.dk r.dst DstOk.vecNoFlag fun d => need (r.sc == 0x28) <| withSrc r.sa fun a => withSrc r.sb fun b => .ok (.vqnt a b d)
  | 0x36#8 => need (r.mod == 8) <| withDst r.dk r.dst DstOk.vec fun d => withSrc r.sa fun a => withSrc r.sb fun b => withSrc r.sc fun c => .ok (.vdqnt a b c d)
  | 0x40#8 => need (r.mod == 8) <| withDst r.dk r.dst DstOk.vec fun d => need (r.sb == 0x28) <| need (r.sc == 0x28) <| withSrc r.sa fun a => .ok (.vrcp a d)
  | 0x41#8 => need (r.mod == 8) <| withDst r.dk r.dst DstOk.vec fun d => need (r.sb == 0x28) <| need (r.sc == 0x28) <| withSrc r.sa fun a => .ok (.vrsq a d)
  | 0x42#8 => need (r.mod == 8) <| withDst r.dk r.dst DstOk.vec fun d => need (r.sb == 0x28) <| need (r.sc == 0x28) <| withSrc r.sa fun a => .ok (.vfexp a d)
  | 0x43#8 => need (r.mod == 8) <| withDst r.dk r.dst DstOk.vec fun d => need (r.sb == 0x28) <| need (r.sc == 0x28) <| withSrc r.sa fun a => .ok (.vflog a d)
  | 0x44#8 => need (r.mod == 8) <| withDst r.dk r.dst DstOk.vec fun d => need (r.sc == 0x28) <| withSrc r.sa fun a => withSrc r.sb fun b => .ok (.vscx a b d)
  | 0x45#8 => need (r.mod == 8) <| withDst r.dk r.dst DstOk.vec fun d => need (r.sb == 0x28) <| need (r.sc == 0x28) <| withSrc r.sa fun a => .ok (.vgetx a d)
  | 0x46#8 => need (r.mod == 8) <| withDst r.dk r.dst DstOk.vec fun d => need (r.sb == 0x28) <| need (r.sc == 0x28) <| withSrc r.sa fun a => .ok (.vgetm a d)
  | 0x50#8 => need (r.mod == 0) <| withDst r.dk r.dst DstOk.vec fun d => need (r.sc == 0x28) <| withSrc r.sa fun a => withSrc r.sb fun b => .ok (.vbcast a b d)
  | 0x51#8 => need (r.mod == 0) <| withDst r.dk r.dst DstOk.any fun d => need (r.sc == 0x28) <| withSrc r.sa fun a => withSrc r.sb fun b => .ok (.vextr a b d)
  | 0x52#8 => need (r.mod == 0) <| withDst r.dk r.dst DstOk.vec fun d => need (r.sc == 0x28) <| withSrc r.sa fun a => withSrc r.sb fun b => .ok (.vperm a b d)
  | 0x53#8 => need (r.mod == 0) <| withDst r.dk r.dst DstOk.vec fun d => need (r.sc == 0x28) <| withSrc r.sa fun a => withSrc r.sb fun b => .ok (.vshfl a b d)
  | 0x54#8 => withTy r.mod TyMask.vred fun t => withDst r.dk r.dst DstOk.any fun d => need (r.sb == 0x28) <| need (r.sc == 0x28) <| withSrc r.sa fun a => .ok (.vsum t a d)
  | 0x55#8 => withTy r.mod TyMask.vred fun t => withDst r.dk r.dst DstOk.any fun d => need (r.sb == 0x28) <| need (r.sc == 0x28) <| withSrc r.sa fun a => .ok (.vmaxr t a d)
  | 0x56#8 => withTy r.mod TyMask.vred fun t => withDst r.dk r.dst DstOk.any fun d => need (r.sb == 0x28) <| need (r.sc == 0x28) <| withSrc r.sa fun a => .ok (.vminr t a d)
  | 0x57#8 => withTy r.mod TyMask.vred fun t => withDst r.dk r.dst DstOk.vec fun d => need (r.sb == 0x28) <| need (r.sc == 0x28) <| withSrc r.sa fun a => .ok (.vscan t a d)
  | 0x58#8 => need (r.mod == 0) <| withDst r.dk r.dst DstOk.vec fun d => need (r.sc == 0x28) <| withSrc r.sa fun a => withSrc r.sb fun b => .ok (.viota a b d)
  | 0x59#8 => need (r.mod == 0) <| withDst r.dk r.dst DstOk.vecNoFlag fun d => need (r.sc == 0x28) <| withSrc r.sa fun a => withSrc r.sb fun b => .ok (.vcmpr a b d)
  | 0x5A#8 => need (r.mod == 0) <| withDst r.dk r.dst DstOk.vec fun d => withSrc r.sa fun a => withSrc r.sb fun b => withSrc r.sc fun c => .ok (.vrun a b c d)
  | _ => .illOp

/-- The M map of R197 to R200, one arm per assigned opcode. -/
def decodeM (r : RawG) : Dec Instr :=
  match r.op with
  | 0x01#8 => withN r.mod fun n => need (r.dk == 2 && r.dst == 0) <| need (r.sb == 0x28) <| need (r.sc == 0x28) <| withSrc r.sa fun a => .ok (.mcfg n a)
  | 0x02#8 => withN r.mod fun n => need (r.dk == 2 && r.dst == 0) <| need (r.sc == 0x28) <| withSrc r.sa fun a => withSrc r.sb fun b => .ok (.msrca n a b)
  | 0x03#8 => withN r.mod fun n => need (r.dk == 2 && r.dst == 0) <| need (r.sc == 0x28) <| withSrc r.sa fun a => withSrc r.sb fun b => .ok (.msrcb n a b)
  | 0x04#8 => withN r.mod fun n => need (r.dk == 2 && r.dst == 0) <| need (r.sb == 0x28) <| need (r.sc == 0x28) <| withSrc r.sa fun a => .ok (.marm n a)
  | 0x05#8 => withN r.mod fun n => need (r.dk == 2 && r.dst == 0) <| need (r.sa == 0x28) <| need (r.sb == 0x28) <| need (r.sc == 0x28) <| .ok (.mdisarm n)
  | 0x06#8 => withN r.mod fun n => need (r.dk == 2 && r.dst == 0) <| need (r.sa == 0x28) <| need (r.sb == 0x28) <| need (r.sc == 0x28) <| .ok (.mzero n)
  | 0x07#8 => withN r.mod fun n => need (r.dk == 2 && r.dst == 0) <| need (r.sc == 0x28) <| withSrc r.sa fun a => withSrc r.sb fun b => .ok (.mloadc n a b)
  | 0x08#8 => withN r.mod fun n => need (r.dk == 2 && r.dst == 0) <| need (r.sc == 0x28) <| withSrc r.sa fun a => withSrc r.sb fun b => .ok (.mdrain n a b)
  | 0x09#8 => withN r.mod fun n => need (r.dk == 2 && r.dst == 0) <| need (r.sb == 0x28) <| need (r.sc == 0x28) <| withSrc r.sa fun a => .ok (.mscale n a)
  | 0x0A#8 => withKind r.mod 0 true fun k => withDst r.dk r.dst DstOk.tgtOnly fun d => need (r.sc == 0x28) <| withSrc r.sa fun a => withSrc r.sb fun b => .ok (.msort k a b d)
  | 0x0B#8 => withN r.mod fun n => withDst r.dk r.dst DstOk.query2 fun d => need (r.sa == 0x28) <| need (r.sb == 0x28) <| need (r.sc == 0x28) <| .ok (.mstat n d)
  | 0x0C#8 =>
      if r.mod == 0 then need (r.mod == 0) <| need (r.dk == 2 && r.dst == 0) <| need (r.sc == 0x28) <| withSrc r.sa fun a => withSrc r.sb fun b => .ok (.tslotAlloc a b)
      else need (r.mod == 1) <| need (r.dk == 2 && r.dst == 0) <| need (r.sb == 0x28) <| need (r.sc == 0x28) <| withSrc r.sa fun a => .ok (.tslotFree a)
  | 0x0D#8 =>
      if r.mod == 0 then need (r.mod == 0) <| withDst r.dk r.dst DstOk.query2 fun d => need (r.sb == 0x28) <| need (r.sc == 0x28) <| withSrc r.sa fun a => .ok (.tslotqNow a d)
      else if r.mod == 1 then need (r.mod == 1) <| withDst r.dk r.dst DstOk.tgtOnly fun d => need (r.sb == 0x28) <| need (r.sc == 0x28) <| withSrc r.sa fun a => .ok (.tslotqFull a d)
      else need (r.mod == 2) <| withDst r.dk r.dst DstOk.tgtOnly fun d => need (r.sb == 0x28) <| need (r.sc == 0x28) <| withSrc r.sa fun a => .ok (.tslotqEmpty a d)
  | 0x0E#8 =>
      if r.mod == 0 then need (r.mod == 0) <| need (r.dk == 2 && r.dst == 0) <| need (r.sb == 0x28) <| need (r.sc == 0x28) <| withSrc r.sa fun a => .ok (.tsetEmpty a)
      else if r.mod == 1 then need (r.mod == 1) <| need (r.dk == 2 && r.dst == 0) <| need (r.sb == 0x28) <| need (r.sc == 0x28) <| withSrc r.sa fun a => .ok (.tsetFull a)
      else if r.mod == 2 then need (r.mod == 2) <| need (r.dk == 2 && r.dst == 0) <| withSrc r.sa fun a => withSrc r.sb fun b => withSrc r.sc fun c => .ok (.tsetRow a b c)
      else need (r.mod == 3) <| need (r.dk == 2 && r.dst == 0) <| withSrc r.sa fun a => withSrc r.sb fun b => withSrc r.sc fun c => .ok (.tsetRowfull a b c)
  | _ => .illOp

/-- The LD map of R197 to R200, one arm per assigned opcode. -/
def decodeL (r : RawF) : Dec Instr :=
  match r.op with
  | 0x01#8 => withWidth r.mod wAny fun w => withVDst r.vk r.val VDstOk.scalar fun v => withDone r.done fun done => need (r.sd == 0x28) <| withSrc r.sa fun a => withSrc r.sb fun b => withSrc r.sc fun ord => .ok (.ld w a b ord v done)
  | 0x02#8 => withWidth r.mod w32 fun w => withVDst r.vk r.val VDstOk.vector fun v => withDone r.done fun done => need (r.sd == 0x28) <| withSrc r.sa fun a => withSrc r.sb fun b => withSrc r.sc fun ord => .ok (.ldv w a b ord v done)
  | 0x03#8 => withWidth r.mod w32 fun w => withVDst r.vk r.val VDstOk.vector fun v => withDone r.done fun done => need (r.sd == 0x28) <| withSrc r.sa fun a => withSrc r.sb fun b => withSrc r.sc fun ord => .ok (.lds w a b ord v done)
  | 0x04#8 => withWidth r.mod w32 fun w => withVDst r.vk r.val VDstOk.vector fun v => withDone r.done fun done => need (r.sd == 0x28) <| withSrc r.sa fun a => withSrc r.sb fun b => withSrc r.sc fun ord => .ok (.ldx w a b ord v done)
  | 0x05#8 => withWidth r.mod w32 fun w => withVDst r.vk r.val VDstOk.vector fun v => withDone r.done fun done => need (r.sd == 0x28) <| withSrc r.sa fun a => withSrc r.sb fun b => withSrc r.sc fun ord => .ok (.ldag w a b ord v done)
  | 0x06#8 => withWidth r.mod w32 fun w => withVDst r.vk r.val VDstOk.scalar fun v => withDone r.done fun done => need (r.sd == 0x28) <| withSrc r.sa fun a => withSrc r.sb fun b => withSrc r.sc fun ord => .ok (.ldq w a b ord v done)
  | 0x07#8 => withWidth r.mod wAny fun w => withVDst r.vk r.val VDstOk.scalar fun v => withDone r.done fun done => need (r.sd == 0x28) <| withSrc r.sa fun a => withSrc r.sb fun b => withSrc r.sc fun ord => .ok (.ldacq w a b ord v done)
  | 0x08#8 => withBit r.mod fun rx => need (r.vk == 3 && r.val == 0) <| need (r.done == 0) <| need (r.sd == 0x28) <| withSrc r.sa fun a => withSrc r.sb fun b => withSrc r.sc fun ord => .ok (.pref rx a b ord)
  | 0x09#8 => need (r.mod == 0) <| withVDst r.vk r.val VDstOk.scalar fun v => withDone r.done fun done => need (r.sb == 0x28) <| need (r.sd == 0x28) <| withSrc r.sa fun a => withSrc r.sc fun ord => .ok (.stashq a ord v done)
  | _ => .illOp

/-- The SA map of R197 to R200, one arm per assigned opcode. -/
def decodeA (r : RawF) : Dec Instr :=
  match r.op with
  | 0x01#8 => withScopeWidth r.mod wAny fun sc w => need (r.vk == 3 && r.val == 0) <| withDone r.done fun done => withSrc r.sa fun a => withSrc r.sb fun b => withSrc r.sc fun ord => withSrc r.sd fun e => .ok (.st sc w a b e ord done)
  | 0x02#8 => withScopeWidth r.mod w32 fun sc w => need (r.vk == 3 && r.val == 0) <| withDone r.done fun done => withSrc r.sa fun a => withSrc r.sb fun b => withSrc r.sc fun ord => withSrc r.sd fun e => .ok (.stv sc w a b e ord done)
  | 0x03#8 => withScopeWidth r.mod w32 fun sc w => need (r.vk == 3 && r.val == 0) <| withDone r.done fun done => withSrc r.sa fun a => withSrc r.sb fun b => withSrc r.sc fun ord => withSrc r.sd fun e => .ok (.sts sc w a b e ord done)
  | 0x04#8 => withScopeWidth r.mod w32 fun sc w => need (r.vk == 3 && r.val == 0) <| withDone r.done fun done => withSrc r.sa fun a => withSrc r.sb fun b => withSrc r.sc fun ord => withSrc r.sd fun e => .ok (.stx sc w a b e ord done)
  | 0x05#8 => withScopeWidth r.mod w32 fun sc w => need (r.vk == 3 && r.val == 0) <| withDone r.done fun done => withSrc r.sa fun a => withSrc r.sb fun b => withSrc r.sc fun ord => withSrc r.sd fun e => .ok (.stag sc w a b e ord done)
  | 0x06#8 => withScopeWidth r.mod wAny fun sc w => need (r.vk == 3 && r.val == 0) <| withDone r.done fun done => withSrc r.sa fun a => withSrc r.sb fun b => withSrc r.sc fun ord => withSrc r.sd fun e => .ok (.strel sc w a b e ord done)
  | 0x10#8 => withScopeWidth r.mod wAtom fun sc w => withVDst r.vk r.val VDstOk.atomic fun v => withDone r.done fun done => need (r.sd == 0x28) <| withSrc r.sa fun a => withSrc r.sb fun b => withSrc r.sc fun ord => .ok (.aadd sc w a b ord v done)
  | 0x11#8 => withScopeWidth r.mod wAtom fun sc w => withVDst r.vk r.val VDstOk.atomic fun v => withDone r.done fun done => withSrc r.sa fun a => withSrc r.sb fun b => withSrc r.sc fun ord => withSrc r.sd fun e => .ok (.amin sc w a b e ord v done)
  | 0x12#8 => withScopeWidth r.mod wAtom fun sc w => withVDst r.vk r.val VDstOk.atomic fun v => withDone r.done fun done => withSrc r.sa fun a => withSrc r.sb fun b => withSrc r.sc fun ord => withSrc r.sd fun e => .ok (.amax sc w a b e ord v done)
  | 0x13#8 => withScopeWidth r.mod wAtom fun sc w => withVDst r.vk r.val VDstOk.atomic fun v => withDone r.done fun done => need (r.sd == 0x28) <| withSrc r.sa fun a => withSrc r.sb fun b => withSrc r.sc fun ord => .ok (.aand sc w a b ord v done)
  | 0x14#8 => withScopeWidth r.mod wAtom fun sc w => withVDst r.vk r.val VDstOk.atomic fun v => withDone r.done fun done => need (r.sd == 0x28) <| withSrc r.sa fun a => withSrc r.sb fun b => withSrc r.sc fun ord => .ok (.aor sc w a b ord v done)
  | 0x15#8 => withScopeWidth r.mod wAtom fun sc w => withVDst r.vk r.val VDstOk.atomic fun v => withDone r.done fun done => need (r.sd == 0x28) <| withSrc r.sa fun a => withSrc r.sb fun b => withSrc r.sc fun ord => .ok (.axor sc w a b ord v done)
  | 0x16#8 => withScopeWidth r.mod wAtom fun sc w => withVDst r.vk r.val VDstOk.atomic fun v => withDone r.done fun done => need (r.sd == 0x28) <| withSrc r.sa fun a => withSrc r.sb fun b => withSrc r.sc fun ord => .ok (.axchg sc w a b ord v done)
  | 0x17#8 => withScopeWidth r.mod wAtom fun sc w => withVDst r.vk r.val VDstOk.atomic fun v => withDone r.done fun done => withSrc r.sa fun a => withSrc r.sb fun b => withSrc r.sc fun ord => withSrc r.sd fun e => .ok (.acas sc w a b e ord v done)
  | 0x18#8 => withScopeWidth r.mod wAtom fun sc w => withVDst r.vk r.val VDstOk.atomic fun v => withDone r.done fun done => need (r.sd == 0x28) <| withSrc r.sa fun a => withSrc r.sb fun b => withSrc r.sc fun ord => .ok (.afadd sc w a b ord v done)
  | 0x19#8 => withScopeWidth r.mod wOnly32 fun sc w => withVDst r.vk r.val VDstOk.atomic fun v => withDone r.done fun done => withSrc r.sa fun a => withSrc r.sb fun b => withSrc r.sc fun ord => withSrc r.sd fun e => .ok (.afadd2 sc w a b e ord v done)
  | 0x1A#8 => withScopeWidth r.mod wAtom fun sc w => withVDst r.vk r.val VDstOk.atomic fun v => withDone r.done fun done => need (r.sd == 0x28) <| withSrc r.sa fun a => withSrc r.sb fun b => withSrc r.sc fun ord => .ok (.aincw sc w a b ord v done)
  | 0x1B#8 => withScopeWidth r.mod wAtom fun sc w => withVDst r.vk r.val VDstOk.atomic fun v => withDone r.done fun done => need (r.sd == 0x28) <| withSrc r.sa fun a => withSrc r.sb fun b => withSrc r.sc fun ord => .ok (.adecw sc w a b ord v done)
  | 0x20#8 => withScope r.mod 0 false fun sc => need (r.vk == 3 && r.val == 0) <| withDone r.done fun done => need (r.sa == 0x28) <| need (r.sb == 0x28) <| need (r.sd == 0x28) <| withSrc r.sc fun ord => .ok (.drain sc ord done)
  | 0x21#8 => need (r.mod == 0) <| need (r.vk == 3 && r.val == 0) <| withDone r.done fun done => withSrc r.sa fun a => withSrc r.sb fun b => withSrc r.sc fun ord => withSrc r.sd fun e => .ok (.ordjoin a b e ord done)
  | 0x22#8 => withScope r.mod 0 true fun sc => need (r.vk == 3 && r.val == 0) <| withDone r.done fun done => need (r.sa == 0x28) <| need (r.sb == 0x28) <| need (r.sd == 0x28) <| withSrc r.sc fun ord => .ok (.pfence sc ord done)
  | 0x23#8 =>
      if r.mod.extractLsb' 0 2 == 0 then withScope r.mod 0 false fun sc => need (r.vk == 3 && r.val == 0) <| withDone r.done fun done => need (r.sb == 0x28) <| need (r.sd == 0x28) <| withSrc r.sa fun a => withSrc r.sc fun ord => .ok (.flushsLine sc a ord done)
      else withScope r.mod 1 false fun sc => need (r.vk == 3 && r.val == 0) <| withDone r.done fun done => need (r.sa == 0x28) <| need (r.sb == 0x28) <| need (r.sd == 0x28) <| withSrc r.sc fun ord => .ok (.flushsAll sc ord done)
  | 0x24#8 =>
      if r.mod.extractLsb' 0 2 == 0 then withScope r.mod 0 false fun sc => need (r.vk == 3 && r.val == 0) <| withDone r.done fun done => need (r.sb == 0x28) <| need (r.sd == 0x28) <| withSrc r.sa fun a => withSrc r.sc fun ord => .ok (.invsLine sc a ord done)
      else withScope r.mod 1 false fun sc => need (r.vk == 3 && r.val == 0) <| withDone r.done fun done => need (r.sa == 0x28) <| need (r.sb == 0x28) <| need (r.sd == 0x28) <| withSrc r.sc fun ord => .ok (.invsAll sc ord done)
  | _ => .illOp

/-- The CP map of R197 to R200, one arm per assigned opcode. -/
def decodeC (r : RawF) : Dec Instr :=
  match r.op with
  | 0x01#8 => need (r.mod == 0) <| need (r.vk == 3 && r.val == 0) <| withDone r.done fun done => withSrc r.sa fun a => withSrc r.sb fun b => withSrc r.sc fun ord => withSrc r.sd fun e => .ok (.pubt a b e ord done)
  | 0x02#8 => withKind r.mod 0 true fun k => need (r.vk == 3 && r.val == 0) <| withDone r.done fun done => withSrc r.sa fun a => withSrc r.sb fun b => withSrc r.sc fun ord => withSrc r.sd fun e => .ok (.pubr k a b e ord done)
  | 0x03#8 =>
      if r.mod == 0 then need (r.mod == 0) <| need (r.vk == 3 && r.val == 0) <| withDone r.done fun done => withSrc r.sa fun a => withSrc r.sb fun b => withSrc r.sc fun ord => withSrc r.sd fun e => .ok (.subn a b e ord done)
      else need (r.mod == 1) <| need (r.vk == 3 && r.val == 0) <| withDone r.done fun done => withSrc r.sa fun a => withSrc r.sb fun b => withSrc r.sc fun ord => withSrc r.sd fun e => .ok (.subnAgain a b e ord done)
  | 0x04#8 => need (r.mod == 0) <| need (r.vk == 3 && r.val == 0) <| withDone r.done fun done => need (r.sb == 0x28) <| need (r.sd == 0x28) <| withSrc r.sa fun a => withSrc r.sc fun ord => .ok (.unsub a ord done)
  | 0x05#8 => need (r.mod == 0) <| need (r.vk == 3 && r.val == 0) <| withDone r.done fun done => need (r.sd == 0x28) <| withSrc r.sa fun a => withSrc r.sb fun b => withSrc r.sc fun ord => .ok (.claim a b ord done)
  | 0x06#8 => need (r.mod == 0) <| need (r.vk == 3 && r.val == 0) <| withDone r.done fun done => withSrc r.sa fun a => withSrc r.sb fun b => withSrc r.sc fun ord => withSrc r.sd fun e => .ok (.retain a b e ord done)
  | 0x07#8 => need (r.mod == 0) <| need (r.vk == 3 && r.val == 0) <| withDone r.done fun done => withSrc r.sa fun a => withSrc r.sb fun b => withSrc r.sc fun ord => withSrc r.sd fun e => .ok (.sopen a b e ord done)
  | 0x08#8 => need (r.mod == 0) <| need (r.vk == 3 && r.val == 0) <| withDone r.done fun done => need (r.sb == 0x28) <| need (r.sd == 0x28) <| withSrc r.sa fun a => withSrc r.sc fun ord => .ok (.sclose a ord done)
  | 0x09#8 =>
      if r.mod == 0 then need (r.mod == 0) <| withVDst r.vk r.val VDstOk.scalar fun v => withDone r.done fun done => need (r.sb == 0x28) <| need (r.sd == 0x28) <| withSrc r.sa fun a => withSrc r.sc fun ord => .ok (.spop a ord v done)
      else need (r.mod == 1) <| withVDst r.vk r.val VDstOk.scalar fun v => withDone r.done fun done => need (r.sb == 0x28) <| need (r.sd == 0x28) <| withSrc r.sa fun a => withSrc r.sc fun ord => .ok (.spopKeep a ord v done)
  | 0x0A#8 => need (r.mod == 0) <| need (r.vk == 3 && r.val == 0) <| withDone r.done fun done => withSrc r.sa fun a => withSrc r.sb fun b => withSrc r.sc fun ord => withSrc r.sd fun e => .ok (.circ a b e ord done)
  | 0x0B#8 => need (r.mod == 0) <| need (r.vk == 3 && r.val == 0) <| withDone r.done fun done => need (r.sd == 0x28) <| withSrc r.sa fun a => withSrc r.sb fun b => withSrc r.sc fun ord => .ok (.circrel a b ord done)
  | 0x0C#8 => withKind r.mod 0 true fun k => need (r.vk == 3 && r.val == 0) <| withDone r.done fun done => withSrc r.sa fun a => withSrc r.sb fun b => withSrc r.sc fun ord => withSrc r.sd fun e => .ok (.coll k a b e ord done)
  | 0x10#8 => need (r.mod == 0) <| withVDst r.vk r.val VDstOk.scalar fun v => withDone r.done fun done => withSrc r.sa fun a => withSrc r.sb fun b => withSrc r.sc fun ord => withSrc r.sd fun e => .ok (.copy a b e ord v done)
  | 0x11#8 => withN r.mod fun n => withVDst r.vk r.val VDstOk.scalar fun v => withDone r.done fun done => withSrc r.sa fun a => withSrc r.sb fun b => withSrc r.sc fun ord => withSrc r.sd fun e => .ok (.copyx n a b e ord v done)
  | 0x12#8 => withN r.mod fun n => need (r.vk == 3 && r.val == 0) <| withDone r.done fun done => need (r.sb == 0x28) <| need (r.sd == 0x28) <| withSrc r.sa fun a => withSrc r.sc fun ord => .ok (.agcfg n a ord done)
  | 0x13#8 => withN r.mod fun n => need (r.vk == 3 && r.val == 0) <| withDone r.done fun done => need (r.sa == 0x28) <| need (r.sb == 0x28) <| need (r.sd == 0x28) <| withSrc r.sc fun ord => .ok (.agfree n ord done)
  | _ => .illOp

/-- The SY map of R197 to R200, one arm per assigned opcode. X[7:0] of a WATCH on a signal word, whose K nothing uses, may hold any value
(log 60: DESIGN CHOICE, unsafe). -/
def decodeY (r : RawY) : Dec Instr :=
  match r.op with
  | 0x01#8 => need (r.mod == 0) <| need (r.res == 0) <| need (r.x == 0) <| withYDst r.yk r.yd YDstOk.order fun y => need (r.sb == 0x28) <| withSrc r.sa fun a => withSrc r.sc fun ord => .ok (.wuntil a ord y)
  | 0x02#8 =>
      if r.mod == 0 then need (r.mod == 0) <| need (r.res == 0) <| withX8 r.x fun x => need (r.yk == 0 && r.yd == 0) <| withSrc r.sa fun a => withSrc r.sb fun b => withSrc r.sc fun ord => .ok (.barc a b ord x)
      else need (r.mod == 1) <| need (r.res == 0) <| withX8 r.x fun x => need (r.yk == 0 && r.yd == 0) <| withSrc r.sa fun a => withSrc r.sb fun b => withSrc r.sc fun ord => .ok (.barcReset a b ord x)
  | 0x03#8 => withScope r.mod 0 false fun sc => need (r.res == 0) <| withX8 r.x fun x => need (r.yk == 0 && r.yd == 0) <| withSrc r.sa fun a => withSrc r.sb fun b => withSrc r.sc fun ord => .ok (.bara sc a b ord x)
  | 0x04#8 => need (r.mod == 0) <| need (r.res == 0) <| withX8 r.x fun x => withYDst r.yk r.yd YDstOk.order fun y => withSrc r.sa fun a => withSrc r.sb fun b => withSrc r.sc fun ord => .ok (.barw a b ord x y)
  | 0x05#8 => withScope r.mod 0 false fun sc => need (r.res == 0) <| need (r.x == 0) <| need (r.yk == 0 && r.yd == 0) <| withSrc r.sa fun a => withSrc r.sb fun b => withSrc r.sc fun ord => .ok (.sigadd sc a b ord)
  | 0x06#8 => need (r.mod == 0) <| need (r.res == 0) <| need (r.x == 0) <| withYDst r.yk r.yd YDstOk.order fun y => withSrc r.sa fun a => withSrc r.sb fun b => withSrc r.sc fun ord => .ok (.sigwait a b ord y)
  | 0x07#8 => need (r.mod == 0) <| need (r.res == 0) <| need (r.x == 0) <| withYDst r.yk r.yd YDstOk.taskid fun y => need (r.sb == 0x28) <| withSrc r.sa fun a => withSrc r.sc fun ord => .ok (.tspawn a ord y)
  | 0x08#8 => need (r.mod == 0) <| need (r.res == 0) <| need (r.x == 0) <| need (r.yk == 0 && r.yd == 0) <| need (r.sa == 0x28) <| need (r.sb == 0x28) <| withSrc r.sc fun ord => .ok (.tend ord)
  | 0x09#8 =>
      if r.mod == 0 then need (r.mod == 0) <| need (r.res == 0) <| need (r.x == 0) <| need (r.yk == 0 && r.yd == 0) <| need (r.sb == 0x28) <| withSrc r.sa fun a => withSrc r.sc fun ord => .ok (.trapRaise a ord)
      else need (r.mod == 1) <| need (r.res == 0) <| need (r.x == 0) <| need (r.yk == 0 && r.yd == 0) <| need (r.sb == 0x28) <| withSrc r.sa fun a => withSrc r.sc fun ord => .ok (.trapVec a ord)
  | 0x0A#8 =>
      if r.mod == 0 then need (r.mod == 0) <| need (r.res == 0) <| need (r.x == 0) <| need (r.yk == 0 && r.yd == 0) <| need (r.sa == 0x28) <| need (r.sb == 0x28) <| withSrc r.sc fun ord => .ok (.tretRetry ord)
      else need (r.mod == 1) <| need (r.res == 0) <| need (r.x == 0) <| need (r.yk == 0 && r.yd == 0) <| need (r.sa == 0x28) <| need (r.sb == 0x28) <| withSrc r.sc fun ord => .ok (.tretSkip ord)
  | 0x0B#8 => need (r.mod == 0) <| need (r.res == 0) <| withX5 r.x fun x => need (r.yk == 0 && r.yd == 0) <| need (r.sb == 0x28) <| withSrc r.sa fun a => withSrc r.sc fun ord => .ok (.fmtw a ord x)
  | 0x0C#8 => need (r.mod == 0) <| need (r.res == 0) <| withX5 r.x fun x => withYDst r.yk r.yd YDstOk.value fun y => need (r.sa == 0x28) <| need (r.sb == 0x28) <| withSrc r.sc fun ord => .ok (.fmtr ord x y)
  | 0x0D#8 => withTag r.mod fun tag => need (r.res == 0) <| need (r.x == 0) <| need (r.yk == 0 && r.yd == 0) <| withSrc r.sa fun a => withSrc r.sb fun b => withSrc r.sc fun ord => .ok (.trace tag a b ord)
  | 0x0E#8 => withTag r.mod fun tag => need (r.res == 0) <| need (r.x == 0) <| need (r.yk == 0 && r.yd == 0) <| need (r.sa == 0x28) <| need (r.sb == 0x28) <| withSrc r.sc fun ord => .ok (.brk tag ord)
  | 0x0F#8 =>
      if r.mod == 1 then need (r.mod == 1) <| need (r.res == 0) <| need (r.x == 0) <| need (r.yk == 0 && r.yd == 0) <| need (r.sa == 0x28) <| need (r.sb == 0x28) <| withSrc r.sc fun ord => .ok (.pmodeDurable ord)
      else need (r.mod == 0) <| need (r.res == 0) <| need (r.x == 0) <| need (r.yk == 0 && r.yd == 0) <| need (r.sa == 0x28) <| need (r.sb == 0x28) <| withSrc r.sc fun ord => .ok (.pmodeRestartable ord)
  | 0x40#8 => need (r.mod == 0) <| need (r.res == 0) <| withX11 r.x fun x => withYDst r.yk r.yd YDstOk.value fun y => need (r.sa == 0x28) <| need (r.sb == 0x28) <| withSrc r.sc fun ord => .ok (.csrr ord x y)
  | 0x41#8 => need (r.mod == 0) <| need (r.res == 0) <| withX11 r.x fun x => need (r.yk == 0 && r.yd == 0) <| need (r.sb == 0x28) <| withSrc r.sa fun a => withSrc r.sc fun ord => .ok (.csrw a ord x)
  | 0x42#8 =>
      if r.mod == 0 then need (r.mod == 0) <| need (r.res == 0) <| need (r.x == 0) <| withYDst r.yk r.yd YDstOk.order fun y => need (r.sb == 0x28) <| withSrc r.sa fun a => withSrc r.sc fun ord => .ok (.tlbinvAll a .zero ord y)
      else if r.mod == 1 then need (r.mod == 1) <| need (r.res == 0) <| need (r.x == 0) <| withYDst r.yk r.yd YDstOk.order fun y => need (r.sb == 0x28) <| withSrc r.sa fun a => withSrc r.sc fun ord => .ok (.tlbinvAsid a .zero ord y)
      else need (r.mod == 2) <| need (r.res == 0) <| need (r.x == 0) <| withYDst r.yk r.yd YDstOk.order fun y => withSrc r.sa fun a => withSrc r.sb fun b => withSrc r.sc fun ord => .ok (.tlbinvPage a b ord y)
  | 0x43#8 => need (r.mod == 0) <| need (r.res == 0) <| need (r.x == 0) <| withYDst r.yk r.yd YDstOk.value fun y => need (r.sb == 0x28) <| withSrc r.sa fun a => withSrc r.sc fun ord => .ok (.nsbind a ord y)
  | 0x44#8 =>
      if r.mod == 0 then need (r.mod == 0) <| need (r.res == 0) <| need (r.x == 0) <| withYDst r.yk r.yd YDstOk.value fun y => need (r.sb == 0x28) <| withSrc r.sa fun a => withSrc r.sc fun ord => .ok (.parkStop a ord y)
      else need (r.mod == 1) <| need (r.res == 0) <| need (r.x == 0) <| withYDst r.yk r.yd YDstOk.value fun y => need (r.sb == 0x28) <| withSrc r.sa fun a => withSrc r.sc fun ord => .ok (.parkResume a ord y)
  | 0x45#8 => need (r.mod == 0) <| need (r.res == 0) <| need (r.x == 0) <| withYDst r.yk r.yd YDstOk.value fun y => withSrc r.sa fun a => withSrc r.sb fun b => withSrc r.sc fun ord => .ok (.frkill a b ord y)
  | 0x46#8 => need (r.mod == 0) <| need (r.res == 0) <| need (r.x == 0) <| withYDst r.yk r.yd YDstOk.value fun y => withSrc r.sa fun a => withSrc r.sb fun b => withSrc r.sc fun ord => .ok (.tmove a b ord y)
  | 0x47#8 =>
      if r.mod == 0 then need (r.mod == 0) <| need (r.res == 0) <| need (r.x == 0) <| withYDst r.yk r.yd YDstOk.value fun y => withSrc r.sa fun a => withSrc r.sb fun b => withSrc r.sc fun ord => .ok (.preemptStop a b ord y)
      else need (r.mod == 1) <| need (r.res == 0) <| need (r.x == 0) <| withYDst r.yk r.yd YDstOk.value fun y => withSrc r.sa fun a => withSrc r.sb fun b => withSrc r.sc fun ord => .ok (.preemptResume a b ord y)
  | 0x48#8 => need (r.mod == 0) <| need (r.res == 0) <| need (r.x == 0) <| withYDst r.yk r.yd YDstOk.value fun y => withSrc r.sa fun a => withSrc r.sb fun b => withSrc r.sc fun ord => .ok (.routew a b ord y)
  | 0x49#8 =>
      if r.mod == 0 then need (r.mod == 0) <| need (r.res == 0) <| need (r.x == 0) <| withYDst r.yk r.yd YDstOk.value fun y => need (r.sb == 0x28) <| withSrc r.sa fun a => withSrc r.sc fun ord => .ok (.slateqRec a ord y)
      else if r.mod == 1 then need (r.mod == 1) <| need (r.res == 0) <| need (r.x == 0) <| withYDst r.yk r.yd YDstOk.value fun y => need (r.sb == 0x28) <| withSrc r.sa fun a => withSrc r.sc fun ord => .ok (.slateqSector a ord y)
      else need (r.mod == 2) <| need (r.res == 0) <| need (r.x == 0) <| withYDst r.yk r.yd YDstOk.value fun y => need (r.sb == 0x28) <| withSrc r.sa fun a => withSrc r.sc fun ord => .ok (.slateqDrec a ord y)
  | 0x4A#8 =>
      if r.mod.extractLsb' 0 2 == 0 then withSig r.mod 0 false fun sig => need (r.res == 0) <| withX8 r.x fun x => withYDst r.yk r.yd YDstOk.value fun y => need (r.sb == 0x28) <| withSrc r.sa fun a => withSrc r.sc fun ord => .ok (.watchArrive sig a .zero ord x y)
      else if r.mod.extractLsb' 0 2 == 1 then withSig r.mod 1 false fun sig => need (r.res == 0) <| withX8 r.x fun x => withYDst r.yk r.yd YDstOk.value fun y => need (sig || r.sb == 0x28) <| withSrc r.sa fun a => withSrc r.sb fun b => withSrc r.sc fun ord => .ok (.watchLast sig a b ord x y)
      else withSig r.mod 2 true fun sig => need (r.res == 0) <| withX8 r.x fun x => withYDst r.yk r.yd YDstOk.value fun y => need (r.sb == 0x28) <| withSrc r.sa fun a => withSrc r.sc fun ord => .ok (.watchFlip sig a .zero ord x y)
  | _ => .illOp

/-- The kind of map of slot k (R191). -/
def kindOfSlot (k : Nat) : SlotKind :=
  if k = 0 then .s else if k = 1 || k = 2 then .v else if k = 3 then .m else if k = 4 then .ld
  else if k = 5 then .sa else if k = 6 then .cp else .sy

/-- The decoder of a slot's 60-bit word. -/
def decodeSlot (k : SlotKind) (w : BitVec 60) : Dec Instr :=
  match k with
  | .s => decodeS (rawG w)
  | .v => decodeV (rawG w)
  | .m => decodeM (rawG w)
  | .ld => decodeL (rawF w)
  | .sa => decodeA (rawF w)
  | .cp => decodeC (rawF w)
  | .sy => decodeY (rawY w)

/-- The slot map and the 60-bit word of an instruction, from the same tables; none for an event row. -/
def encode : Instr → Option (SlotKind × BitVec 60)
  | .add t a b d => some (.s, encG 0x01 (encTy t) (encSrc a) (encSrc b) 0x28 d)
  | .sub t a b d => some (.s, encG 0x02 (encTy t) (encSrc a) (encSrc b) 0x28 d)
  | .mul t a b d => some (.s, encG 0x03 (encTy t) (encSrc a) (encSrc b) 0x28 d)
  | .mulh t a b d => some (.s, encG 0x04 (encTy t) (encSrc a) (encSrc b) 0x28 d)
  | .div t a b d => some (.s, encG 0x05 (encTy t) (encSrc a) (encSrc b) 0x28 d)
  | .rem t a b d => some (.s, encG 0x06 (encTy t) (encSrc a) (encSrc b) 0x28 d)
  | .absOp t a d => some (.s, encG 0x07 (encTy t) (encSrc a) 0x28 0x28 d)
  | .andOp t a b d => some (.s, encG 0x08 (encTy t) (encSrc a) (encSrc b) 0x28 d)
  | .orOp t a b d => some (.s, encG 0x09 (encTy t) (encSrc a) (encSrc b) 0x28 d)
  | .xor t a b d => some (.s, encG 0x0A (encTy t) (encSrc a) (encSrc b) 0x28 d)
  | .andn t a b d => some (.s, encG 0x0B (encTy t) (encSrc a) (encSrc b) 0x28 d)
  | .shl t a b d => some (.s, encG 0x0C (encTy t) (encSrc a) (encSrc b) 0x28 d)
  | .shr t a b d => some (.s, encG 0x0D (encTy t) (encSrc a) (encSrc b) 0x28 d)
  | .sra t a b d => some (.s, encG 0x0E (encTy t) (encSrc a) (encSrc b) 0x28 d)
  | .rol t a b d => some (.s, encG 0x0F (encTy t) (encSrc a) (encSrc b) 0x28 d)
  | .min t a b d => some (.s, encG 0x10 (encTy t) (encSrc a) (encSrc b) 0x28 d)
  | .max t a b d => some (.s, encG 0x11 (encTy t) (encSrc a) (encSrc b) 0x28 d)
  | .clz t a d => some (.s, encG 0x12 (encTy t) (encSrc a) 0x28 0x28 d)
  | .ctz t a d => some (.s, encG 0x13 (encTy t) (encSrc a) 0x28 0x28 d)
  | .popc t a d => some (.s, encG 0x14 (encTy t) (encSrc a) 0x28 0x28 d)
  | .brev t a d => some (.s, encG 0x15 (encTy t) (encSrc a) 0x28 0x28 d)
  | .bfx t a b d => some (.s, encG 0x16 (encTy t) (encSrc a) (encSrc b) 0x28 d)
  | .bfi t a b c d => some (.s, encG 0x17 (encTy t) (encSrc a) (encSrc b) (encSrc c) d)
  | .ceq t a b d => some (.s, encG 0x18 (encTy t) (encSrc a) (encSrc b) 0x28 d)
  | .cne t a b d => some (.s, encG 0x19 (encTy t) (encSrc a) (encSrc b) 0x28 d)
  | .clt t a b d => some (.s, encG 0x1A (encTy t) (encSrc a) (encSrc b) 0x28 d)
  | .cle t a b d => some (.s, encG 0x1B (encTy t) (encSrc a) (encSrc b) 0x28 d)
  | .sel a b c d => some (.s, encG 0x1C 0 (encSrc a) (encSrc b) (encSrc c) d)
  | .mov t a d => some (.s, encG 0x1D (encTy t) (encSrc a) 0x28 0x28 d)
  | .fadd t a b d => some (.s, encG 0x20 (encTy t) (encSrc a) (encSrc b) 0x28 d)
  | .fsub t a b d => some (.s, encG 0x21 (encTy t) (encSrc a) (encSrc b) 0x28 d)
  | .fmul t a b d => some (.s, encG 0x22 (encTy t) (encSrc a) (encSrc b) 0x28 d)
  | .fma t a b c d => some (.s, encG 0x23 (encTy t) (encSrc a) (encSrc b) (encSrc c) d)
  | .fmin t a b d => some (.s, encG 0x24 (encTy t) (encSrc a) (encSrc b) 0x28 d)
  | .fmax t a b d => some (.s, encG 0x25 (encTy t) (encSrc a) (encSrc b) 0x28 d)
  | .fcmp t a b d => some (.s, encG 0x26 (encTy t) (encSrc a) (encSrc b) 0x28 d)
  | .fcvt t a b c d => some (.s, encG 0x27 (encTy t) (encSrc a) (encSrc b) (encSrc c) d)
  | .fclass t a d => some (.s, encG 0x28 (encTy t) (encSrc a) 0x28 0x28 d)
  | .adda a b d => some (.s, encG 0x30 0 (encSrc a) (encSrc b) 0x28 d)
  | .spq a d => some (.s, encG 0x31 0 (encSrc a) 0x28 0x28 d)
  | .spcvTooff k a d => some (.s, encG 0x32 (0#2 ++ k) (encSrc a) 0x28 0x28 d)
  | .spcvToptr k a d => some (.s, encG 0x32 (1#2 ++ k) (encSrc a) 0x28 0x28 d)
  | .mkwin k a d => some (.s, encG 0x33 (0#2 ++ k) (encSrc a) 0x28 0x28 d)
  | .nameh a b c d => some (.s, encG 0x34 0 (encSrc a) (encSrc b) (encSrc c) d)
  | .namel a b c d => some (.s, encG 0x35 0 (encSrc a) (encSrc b) (encSrc c) d)
  | .steer a b d => some (.s, encG 0x40 0 (encSrc a) (encSrc b) 0x28 d)
  | .merge d => some (.s, encG 0x41 0 0x20 0x21 0x28 d)
  | .loop a b c d => some (.s, encG 0x42 0 (encSrc a) (encSrc b) (encSrc c) d)
  | .loopVec a b c d => some (.s, encG 0x42 1 (encSrc a) (encSrc b) (encSrc c) d)
  | .whileOp a c d => some (.s, encG 0x43 0 (encSrc a) 0x28 (encSrc c) d)
  | .exitOp a b d => some (.s, encG 0x44 0 (encSrc a) (encSrc b) 0x28 d)
  | .join a b c d => some (.s, encG 0x45 0 (encSrc a) (encSrc b) (encSrc c) d)
  | .goto c => some (.s, encG 0x46 0 0x28 0x28 (encSrc c) noDst)
  | .callb a b c d => some (.s, encG 0x47 0 (encSrc a) (encSrc b) (encSrc c) d)
  | .retb a b d => some (.s, encG 0x48 0 (encSrc a) (encSrc b) 0x28 d)
  | .sink => some (.s, encG 0x49 0 0x28 0x28 0x28 noDst)
  | .gate a b d => some (.s, encG 0x4A 0 (encSrc a) (encSrc b) 0x28 d)
  | .tagq k a d => some (.s, encG 0x4B (0#2 ++ k) (encSrc a) 0x28 0x28 d)
  | .frameq a d => some (.s, encG 0x4C 0 (encSrc a) 0x28 0x28 d)
  | .qtime a d => some (.s, encG 0x4D 0 (encSrc a) 0x28 0x28 d)
  | .vadd t a b d => some (.v, encG 0x01 (encTy t) (encSrc a) (encSrc b) 0x28 d)
  | .vsub t a b d => some (.v, encG 0x02 (encTy t) (encSrc a) (encSrc b) 0x28 d)
  | .vmul t a b d => some (.v, encG 0x03 (encTy t) (encSrc a) (encSrc b) 0x28 d)
  | .vfma t a b c d => some (.v, encG 0x04 (encTy t) (encSrc a) (encSrc b) (encSrc c) d)
  | .vfms t a b c d => some (.v, encG 0x05 (encTy t) (encSrc a) (encSrc b) (encSrc c) d)
  | .vfnma t a b c d => some (.v, encG 0x06 (encTy t) (encSrc a) (encSrc b) (encSrc c) d)
  | .vmin t a b d => some (.v, encG 0x07 (encTy t) (encSrc a) (encSrc b) 0x28 d)
  | .vmax t a b d => some (.v, encG 0x08 (encTy t) (encSrc a) (encSrc b) 0x28 d)
  | .vabs t a d => some (.v, encG 0x09 (encTy t) (encSrc a) 0x28 0x28 d)
  | .vneg t a d => some (.v, encG 0x0A (encTy t) (encSrc a) 0x28 0x28 d)
  | .vmulh t a b d => some (.v, encG 0x0B (encTy t) (encSrc a) (encSrc b) 0x28 d)
  | .vclamp t a b c d => some (.v, encG 0x0C (encTy t) (encSrc a) (encSrc b) (encSrc c) d)
  | .vand t a b d => some (.v, encG 0x10 (encTy t) (encSrc a) (encSrc b) 0x28 d)
  | .vor t a b d => some (.v, encG 0x11 (encTy t) (encSrc a) (encSrc b) 0x28 d)
  | .vxor t a b d => some (.v, encG 0x12 (encTy t) (encSrc a) (encSrc b) 0x28 d)
  | .vandn t a b d => some (.v, encG 0x13 (encTy t) (encSrc a) (encSrc b) 0x28 d)
  | .vshl t a b d => some (.v, encG 0x14 (encTy t) (encSrc a) (encSrc b) 0x28 d)
  | .vshr t a b d => some (.v, encG 0x15 (encTy t) (encSrc a) (encSrc b) 0x28 d)
  | .vsra t a b d => some (.v, encG 0x16 (encTy t) (encSrc a) (encSrc b) 0x28 d)
  | .vclz t a d => some (.v, encG 0x17 (encTy t) (encSrc a) 0x28 0x28 d)
  | .vpopc t a d => some (.v, encG 0x18 (encTy t) (encSrc a) 0x28 0x28 d)
  | .vceq t a b d => some (.v, encG 0x20 (encTy t) (encSrc a) (encSrc b) 0x28 d)
  | .vcne t a b d => some (.v, encG 0x21 (encTy t) (encSrc a) (encSrc b) 0x28 d)
  | .vclt t a b d => some (.v, encG 0x22 (encTy t) (encSrc a) (encSrc b) 0x28 d)
  | .vcle t a b d => some (.v, encG 0x23 (encTy t) (encSrc a) (encSrc b) 0x28 d)
  | .vcun t a b d => some (.v, encG 0x24 (encTy t) (encSrc a) (encSrc b) 0x28 d)
  | .vsel t a b c d => some (.v, encG 0x25 (encTy t) (encSrc a) (encSrc b) (encSrc c) d)
  | .vclass t a d => some (.v, encG 0x26 (encTy t) (encSrc a) 0x28 0x28 d)
  | .vcvt t a b c d => some (.v, encG 0x30 (encTy t) (encSrc a) (encSrc b) (encSrc c) d)
  | .vrndi t a b d => some (.v, encG 0x31 (encTy t) (encSrc a) (encSrc b) 0x28 d)
  | .vcvti t a b d => some (.v, encG 0x32 (encTy t) (encSrc a) (encSrc b) 0x28 d)
  | .vpack t a b c d => some (.v, encG 0x33 (encTy t) (encSrc a) (encSrc b) (encSrc c) d)
  | .vunpk t a b d => some (.v, encG 0x34 (encTy t) (encSrc a) (encSrc b) 0x28 d)
  | .vqnt a b d => some (.v, encG 0x35 8 (encSrc a) (encSrc b) 0x28 d)
  | .vdqnt a b c d => some (.v, encG 0x36 8 (encSrc a) (encSrc b) (encSrc c) d)
  | .vrcp a d => some (.v, encG 0x40 8 (encSrc a) 0x28 0x28 d)
  | .vrsq a d => some (.v, encG 0x41 8 (encSrc a) 0x28 0x28 d)
  | .vfexp a d => some (.v, encG 0x42 8 (encSrc a) 0x28 0x28 d)
  | .vflog a d => some (.v, encG 0x43 8 (encSrc a) 0x28 0x28 d)
  | .vscx a b d => some (.v, encG 0x44 8 (encSrc a) (encSrc b) 0x28 d)
  | .vgetx a d => some (.v, encG 0x45 8 (encSrc a) 0x28 0x28 d)
  | .vgetm a d => some (.v, encG 0x46 8 (encSrc a) 0x28 0x28 d)
  | .vbcast a b d => some (.v, encG 0x50 0 (encSrc a) (encSrc b) 0x28 d)
  | .vextr a b d => some (.v, encG 0x51 0 (encSrc a) (encSrc b) 0x28 d)
  | .vperm a b d => some (.v, encG 0x52 0 (encSrc a) (encSrc b) 0x28 d)
  | .vshfl a b d => some (.v, encG 0x53 0 (encSrc a) (encSrc b) 0x28 d)
  | .vsum t a d => some (.v, encG 0x54 (encTy t) (encSrc a) 0x28 0x28 d)
  | .vmaxr t a d => some (.v, encG 0x55 (encTy t) (encSrc a) 0x28 0x28 d)
  | .vminr t a d => some (.v, encG 0x56 (encTy t) (encSrc a) 0x28 0x28 d)
  | .vscan t a d => some (.v, encG 0x57 (encTy t) (encSrc a) 0x28 0x28 d)
  | .viota a b d => some (.v, encG 0x58 0 (encSrc a) (encSrc b) 0x28 d)
  | .vcmpr a b d => some (.v, encG 0x59 0 (encSrc a) (encSrc b) 0x28 d)
  | .vrun a b c d => some (.v, encG 0x5A 0 (encSrc a) (encSrc b) (encSrc c) d)
  | .mcfg n a => some (.m, encG 0x01 (0#1 ++ n) (encSrc a) 0x28 0x28 noDst)
  | .msrca n a b => some (.m, encG 0x02 (0#1 ++ n) (encSrc a) (encSrc b) 0x28 noDst)
  | .msrcb n a b => some (.m, encG 0x03 (0#1 ++ n) (encSrc a) (encSrc b) 0x28 noDst)
  | .marm n a => some (.m, encG 0x04 (0#1 ++ n) (encSrc a) 0x28 0x28 noDst)
  | .mdisarm n => some (.m, encG 0x05 (0#1 ++ n) 0x28 0x28 0x28 noDst)
  | .mzero n => some (.m, encG 0x06 (0#1 ++ n) 0x28 0x28 0x28 noDst)
  | .mloadc n a b => some (.m, encG 0x07 (0#1 ++ n) (encSrc a) (encSrc b) 0x28 noDst)
  | .mdrain n a b => some (.m, encG 0x08 (0#1 ++ n) (encSrc a) (encSrc b) 0x28 noDst)
  | .mscale n a => some (.m, encG 0x09 (0#1 ++ n) (encSrc a) 0x28 0x28 noDst)
  | .msort k a b d => some (.m, encG 0x0A (0#2 ++ k) (encSrc a) (encSrc b) 0x28 d)
  | .mstat n d => some (.m, encG 0x0B (0#1 ++ n) 0x28 0x28 0x28 d)
  | .tslotAlloc a b => some (.m, encG 0x0C 0 (encSrc a) (encSrc b) 0x28 noDst)
  | .tslotFree a => some (.m, encG 0x0C 1 (encSrc a) 0x28 0x28 noDst)
  | .tslotqNow a d => some (.m, encG 0x0D 0 (encSrc a) 0x28 0x28 d)
  | .tslotqFull a d => some (.m, encG 0x0D 1 (encSrc a) 0x28 0x28 d)
  | .tslotqEmpty a d => some (.m, encG 0x0D 2 (encSrc a) 0x28 0x28 d)
  | .tsetEmpty a => some (.m, encG 0x0E 0 (encSrc a) 0x28 0x28 noDst)
  | .tsetFull a => some (.m, encG 0x0E 1 (encSrc a) 0x28 0x28 noDst)
  | .tsetRow a b c => some (.m, encG 0x0E 2 (encSrc a) (encSrc b) (encSrc c) noDst)
  | .tsetRowfull a b c => some (.m, encG 0x0E 3 (encSrc a) (encSrc b) (encSrc c) noDst)
  | .ld w a b ord v done => some (.ld, encF 0x01 (0#2 ++ w) (encSrc a) (encSrc b) (encSrc ord) 0x28 v done)
  | .ldv w a b ord v done => some (.ld, encF 0x02 (0#2 ++ w) (encSrc a) (encSrc b) (encSrc ord) 0x28 v done)
  | .lds w a b ord v done => some (.ld, encF 0x03 (0#2 ++ w) (encSrc a) (encSrc b) (encSrc ord) 0x28 v done)
  | .ldx w a b ord v done => some (.ld, encF 0x04 (0#2 ++ w) (encSrc a) (encSrc b) (encSrc ord) 0x28 v done)
  | .ldag w a b ord v done => some (.ld, encF 0x05 (0#2 ++ w) (encSrc a) (encSrc b) (encSrc ord) 0x28 v done)
  | .ldq w a b ord v done => some (.ld, encF 0x06 (0#2 ++ w) (encSrc a) (encSrc b) (encSrc ord) 0x28 v done)
  | .ldacq w a b ord v done => some (.ld, encF 0x07 (0#2 ++ w) (encSrc a) (encSrc b) (encSrc ord) 0x28 v done)
  | .pref rx a b ord => some (.ld, encF 0x08 (0#3 ++ BitVec.ofBool rx) (encSrc a) (encSrc b) (encSrc ord) 0x28 .none none)
  | .stashq a ord v done => some (.ld, encF 0x09 0 (encSrc a) 0x28 (encSrc ord) 0x28 v done)
  | .st sc w a b e ord done => some (.sa, encF 0x01 (sc ++ w) (encSrc a) (encSrc b) (encSrc ord) (encSrc e) .none done)
  | .stv sc w a b e ord done => some (.sa, encF 0x02 (sc ++ w) (encSrc a) (encSrc b) (encSrc ord) (encSrc e) .none done)
  | .sts sc w a b e ord done => some (.sa, encF 0x03 (sc ++ w) (encSrc a) (encSrc b) (encSrc ord) (encSrc e) .none done)
  | .stx sc w a b e ord done => some (.sa, encF 0x04 (sc ++ w) (encSrc a) (encSrc b) (encSrc ord) (encSrc e) .none done)
  | .stag sc w a b e ord done => some (.sa, encF 0x05 (sc ++ w) (encSrc a) (encSrc b) (encSrc ord) (encSrc e) .none done)
  | .strel sc w a b e ord done => some (.sa, encF 0x06 (sc ++ w) (encSrc a) (encSrc b) (encSrc ord) (encSrc e) .none done)
  | .aadd sc w a b ord v done => some (.sa, encF 0x10 (sc ++ w) (encSrc a) (encSrc b) (encSrc ord) 0x28 v done)
  | .amin sc w a b e ord v done => some (.sa, encF 0x11 (sc ++ w) (encSrc a) (encSrc b) (encSrc ord) (encSrc e) v done)
  | .amax sc w a b e ord v done => some (.sa, encF 0x12 (sc ++ w) (encSrc a) (encSrc b) (encSrc ord) (encSrc e) v done)
  | .aand sc w a b ord v done => some (.sa, encF 0x13 (sc ++ w) (encSrc a) (encSrc b) (encSrc ord) 0x28 v done)
  | .aor sc w a b ord v done => some (.sa, encF 0x14 (sc ++ w) (encSrc a) (encSrc b) (encSrc ord) 0x28 v done)
  | .axor sc w a b ord v done => some (.sa, encF 0x15 (sc ++ w) (encSrc a) (encSrc b) (encSrc ord) 0x28 v done)
  | .axchg sc w a b ord v done => some (.sa, encF 0x16 (sc ++ w) (encSrc a) (encSrc b) (encSrc ord) 0x28 v done)
  | .acas sc w a b e ord v done => some (.sa, encF 0x17 (sc ++ w) (encSrc a) (encSrc b) (encSrc ord) (encSrc e) v done)
  | .afadd sc w a b ord v done => some (.sa, encF 0x18 (sc ++ w) (encSrc a) (encSrc b) (encSrc ord) 0x28 v done)
  | .afadd2 sc w a b e ord v done => some (.sa, encF 0x19 (sc ++ w) (encSrc a) (encSrc b) (encSrc ord) (encSrc e) v done)
  | .aincw sc w a b ord v done => some (.sa, encF 0x1A (sc ++ w) (encSrc a) (encSrc b) (encSrc ord) 0x28 v done)
  | .adecw sc w a b ord v done => some (.sa, encF 0x1B (sc ++ w) (encSrc a) (encSrc b) (encSrc ord) 0x28 v done)
  | .drain sc ord done => some (.sa, encF 0x20 (sc ++ 0#2) 0x28 0x28 (encSrc ord) 0x28 .none done)
  | .ordjoin a b e ord done => some (.sa, encF 0x21 0 (encSrc a) (encSrc b) (encSrc ord) (encSrc e) .none done)
  | .pfence sc ord done => some (.sa, encF 0x22 (sc ++ 0#2) 0x28 0x28 (encSrc ord) 0x28 .none done)
  | .flushsLine sc a ord done => some (.sa, encF 0x23 (sc ++ 0#2) (encSrc a) 0x28 (encSrc ord) 0x28 .none done)
  | .flushsAll sc ord done => some (.sa, encF 0x23 (sc ++ 1#2) 0x28 0x28 (encSrc ord) 0x28 .none done)
  | .invsLine sc a ord done => some (.sa, encF 0x24 (sc ++ 0#2) (encSrc a) 0x28 (encSrc ord) 0x28 .none done)
  | .invsAll sc ord done => some (.sa, encF 0x24 (sc ++ 1#2) 0x28 0x28 (encSrc ord) 0x28 .none done)
  | .pubt a b e ord done => some (.cp, encF 0x01 0 (encSrc a) (encSrc b) (encSrc ord) (encSrc e) .none done)
  | .pubr k a b e ord done => some (.cp, encF 0x02 (0#2 ++ k) (encSrc a) (encSrc b) (encSrc ord) (encSrc e) .none done)
  | .subn a b e ord done => some (.cp, encF 0x03 0 (encSrc a) (encSrc b) (encSrc ord) (encSrc e) .none done)
  | .subnAgain a b e ord done => some (.cp, encF 0x03 1 (encSrc a) (encSrc b) (encSrc ord) (encSrc e) .none done)
  | .unsub a ord done => some (.cp, encF 0x04 0 (encSrc a) 0x28 (encSrc ord) 0x28 .none done)
  | .claim a b ord done => some (.cp, encF 0x05 0 (encSrc a) (encSrc b) (encSrc ord) 0x28 .none done)
  | .retain a b e ord done => some (.cp, encF 0x06 0 (encSrc a) (encSrc b) (encSrc ord) (encSrc e) .none done)
  | .sopen a b e ord done => some (.cp, encF 0x07 0 (encSrc a) (encSrc b) (encSrc ord) (encSrc e) .none done)
  | .sclose a ord done => some (.cp, encF 0x08 0 (encSrc a) 0x28 (encSrc ord) 0x28 .none done)
  | .spop a ord v done => some (.cp, encF 0x09 0 (encSrc a) 0x28 (encSrc ord) 0x28 v done)
  | .spopKeep a ord v done => some (.cp, encF 0x09 1 (encSrc a) 0x28 (encSrc ord) 0x28 v done)
  | .circ a b e ord done => some (.cp, encF 0x0A 0 (encSrc a) (encSrc b) (encSrc ord) (encSrc e) .none done)
  | .circrel a b ord done => some (.cp, encF 0x0B 0 (encSrc a) (encSrc b) (encSrc ord) 0x28 .none done)
  | .coll k a b e ord done => some (.cp, encF 0x0C (0#2 ++ k) (encSrc a) (encSrc b) (encSrc ord) (encSrc e) .none done)
  | .copy a b e ord v done => some (.cp, encF 0x10 0 (encSrc a) (encSrc b) (encSrc ord) (encSrc e) v done)
  | .copyx n a b e ord v done => some (.cp, encF 0x11 (0#1 ++ n) (encSrc a) (encSrc b) (encSrc ord) (encSrc e) v done)
  | .agcfg n a ord done => some (.cp, encF 0x12 (0#1 ++ n) (encSrc a) 0x28 (encSrc ord) 0x28 .none done)
  | .agfree n ord done => some (.cp, encF 0x13 (0#1 ++ n) 0x28 0x28 (encSrc ord) 0x28 .none done)
  | .wuntil a ord y => some (.sy, encY 0x01 0 (encSrc a) 0x28 (encSrc ord) 0 y)
  | .barc a b ord x => some (.sy, encY 0x02 0 (encSrc a) (encSrc b) (encSrc ord) (0#3 ++ x) .none)
  | .barcReset a b ord x => some (.sy, encY 0x02 1 (encSrc a) (encSrc b) (encSrc ord) (0#3 ++ x) .none)
  | .bara sc a b ord x => some (.sy, encY 0x03 (sc ++ 0#2) (encSrc a) (encSrc b) (encSrc ord) (0#3 ++ x) .none)
  | .barw a b ord x y => some (.sy, encY 0x04 0 (encSrc a) (encSrc b) (encSrc ord) (0#3 ++ x) y)
  | .sigadd sc a b ord => some (.sy, encY 0x05 (sc ++ 0#2) (encSrc a) (encSrc b) (encSrc ord) 0 .none)
  | .sigwait a b ord y => some (.sy, encY 0x06 0 (encSrc a) (encSrc b) (encSrc ord) 0 y)
  | .tspawn a ord y => some (.sy, encY 0x07 0 (encSrc a) 0x28 (encSrc ord) 0 y)
  | .tend ord => some (.sy, encY 0x08 0 0x28 0x28 (encSrc ord) 0 .none)
  | .trapRaise a ord => some (.sy, encY 0x09 0 (encSrc a) 0x28 (encSrc ord) 0 .none)
  | .trapVec a ord => some (.sy, encY 0x09 1 (encSrc a) 0x28 (encSrc ord) 0 .none)
  | .tretRetry ord => some (.sy, encY 0x0A 0 0x28 0x28 (encSrc ord) 0 .none)
  | .tretSkip ord => some (.sy, encY 0x0A 1 0x28 0x28 (encSrc ord) 0 .none)
  | .fmtw a ord x => some (.sy, encY 0x0B 0 (encSrc a) 0x28 (encSrc ord) (0#6 ++ x) .none)
  | .fmtr ord x y => some (.sy, encY 0x0C 0 0x28 0x28 (encSrc ord) (0#6 ++ x) y)
  | .trace tag a b ord => some (.sy, encY 0x0D tag (encSrc a) (encSrc b) (encSrc ord) 0 .none)
  | .brk tag ord => some (.sy, encY 0x0E tag 0x28 0x28 (encSrc ord) 0 .none)
  | .pmodeDurable ord => some (.sy, encY 0x0F 1 0x28 0x28 (encSrc ord) 0 .none)
  | .pmodeRestartable ord => some (.sy, encY 0x0F 0 0x28 0x28 (encSrc ord) 0 .none)
  | .csrr ord x y => some (.sy, encY 0x40 0 0x28 0x28 (encSrc ord) x y)
  | .csrw a ord x => some (.sy, encY 0x41 0 (encSrc a) 0x28 (encSrc ord) x .none)
  | .tlbinvAll a b ord y => some (.sy, encY 0x42 0 (encSrc a) (encSrc b) (encSrc ord) 0 y)
  | .tlbinvAsid a b ord y => some (.sy, encY 0x42 1 (encSrc a) (encSrc b) (encSrc ord) 0 y)
  | .tlbinvPage a b ord y => some (.sy, encY 0x42 2 (encSrc a) (encSrc b) (encSrc ord) 0 y)
  | .nsbind a ord y => some (.sy, encY 0x43 0 (encSrc a) 0x28 (encSrc ord) 0 y)
  | .parkStop a ord y => some (.sy, encY 0x44 0 (encSrc a) 0x28 (encSrc ord) 0 y)
  | .parkResume a ord y => some (.sy, encY 0x44 1 (encSrc a) 0x28 (encSrc ord) 0 y)
  | .frkill a b ord y => some (.sy, encY 0x45 0 (encSrc a) (encSrc b) (encSrc ord) 0 y)
  | .tmove a b ord y => some (.sy, encY 0x46 0 (encSrc a) (encSrc b) (encSrc ord) 0 y)
  | .preemptStop a b ord y => some (.sy, encY 0x47 0 (encSrc a) (encSrc b) (encSrc ord) 0 y)
  | .preemptResume a b ord y => some (.sy, encY 0x47 1 (encSrc a) (encSrc b) (encSrc ord) 0 y)
  | .routew a b ord y => some (.sy, encY 0x48 0 (encSrc a) (encSrc b) (encSrc ord) 0 y)
  | .slateqRec a ord y => some (.sy, encY 0x49 0 (encSrc a) 0x28 (encSrc ord) 0 y)
  | .slateqSector a ord y => some (.sy, encY 0x49 1 (encSrc a) 0x28 (encSrc ord) 0 y)
  | .slateqDrec a ord y => some (.sy, encY 0x49 2 (encSrc a) 0x28 (encSrc ord) 0 y)
  | .watchArrive sig a b ord x y => some (.sy, encY 0x4A (0#1 ++ (BitVec.ofBool sig ++ 0#2)) (encSrc a) (encSrc b) (encSrc ord) (0#3 ++ x) y)
  | .watchLast sig a b ord x y => some (.sy, encY 0x4A (0#1 ++ (BitVec.ofBool sig ++ 1#2)) (encSrc a) (encSrc b) (encSrc ord) (0#3 ++ x) y)
  | .watchFlip sig a b ord x y => some (.sy, encY 0x4A (0#1 ++ (BitVec.ofBool sig ++ 2#2)) (encSrc a) (encSrc b) (encSrc ord) (0#3 ++ x) y)
  | .tokenArrival _ => none
  | .holdingQueueDrain _ => none
  | .bundleIssue _ => none
  | .trapEntry _ _ => none
  | .abortFaultRecord _ _ => none
  | .instancePromotion _ _ => none
  | .bundleFinish _ _ => none
  | .blockCommit _ _ => none
  | .deferredReplacementCommit _ _ => none
  | .loopSpawn _ _ => none
  | .loopContinuation _ _ => none
  | .tagDeadlockCheck _ => none
  | .throttleEvent _ => none
  | .tspawnAtHub _ _ => none
  | .taskPlacement _ _ _ => none
  | .tileDelivery _ => none
  | .activation _ => none
  | .taskReserving _ _ => none
  | .frameEndDone _ _ => none
  | .moveComplete _ _ => none
  | .powerGrant _ _ => none
  | .railCurrentSample _ _ => none
  | .matrixFiringStart _ => none
  | .kStep _ => none
  | .matrixFiringEnd _ => none
  | .matrixJobDone _ _ => none
  | .msortPass _ => none
  | .loadReply _ => none
  | .doneTokenFire _ _ _ => none
  | .drainWaitEnd _ _ => none
  | .pfenceWaitEnd _ _ => none
  | .stashFlushDone _ _ => none
  | .wuntilTick _ _ => none
  | .copyComplete _ _ => none
  | .spopDelivery _ _ => none
  | .tslotqWaitDelivery _ _ => none
  | .claimReply _ => none
  | .taskidReply _ => none
  | .registrationAtRouter _ => none
  | .pruneAtRouter _ => none
  | .publishFlitAtRouter _ => none
  | .registrationAtHome _ => none
  | .pruneAtHome _ => none
  | .directoryIngressRetry _ _ => none
  | .publishAtHome _ => none
  | .claimAtHome _ => none
  | .retainAtHome _ => none
  | .retentionExpiry _ _ _ => none
  | .collAtHome _ => none
  | .partialAtHome _ => none
  | .partialRetry _ _ => none
  | .partialUnregisteredDrop _ _ => none
  | .registrationReply _ => none
  | .fetchAtRim _ => none
  | .fetchPublish _ _ => none
  | .streamElementAtRouter _ => none
  | .creditReturn _ => none
  | .branchstallExpiry _ _ => none
  | .detachNotice _ => none
  | .unicastRerequest _ => none
  | .circAtRouter _ => none
  | .circrelAtRouter _ => none
  | .circIdleExpiry _ _ => none
  | .requestAtHome _ => none
  | .probeAckAtHome _ => none
  | .writebackAtHome _ => none
  | .atomicAtHome _ => none
  | .fillReply _ => none
  | .rxGrant _ => none
  | .probeDown _ => none
  | .probeInv _ => none
  | .pageWalk _ _ _ => none
  | .hbmSectorReply _ _ => none
  | .pageMigration _ _ => none
  | .migrationForward _ _ => none
  | .barcAtBarrier _ => none
  | .baraAtBarrier _ => none
  | .barwAtBarrier _ => none
  | .sigaddAtHome _ => none
  | .sigwaitAtHome _ => none
  | .persistEpochStart _ => none
  | .dRecordWritten _ => none
  | .cDomainPowerLoss _ _ => none
  | .cDomainRevival _ => none
  | .replayStallTimeout _ _ => none
  | .fieldPowerLoss _ => none
  | .fieldRevivalResend _ _ => none
  | .preemptMarkerEffect _ _ => none
  | .parkIssueCutoff _ _ => none
  | .frameRestore _ _ => none
  | .frameWatchdogExpiry _ _ => none
  | .tileWatchdogExpiry _ => none
  | .thermalLevelRise _ _ => none
  | .criticalRailRemoval _ => none
  | .thermalLevelFall _ _ => none
  | .spineSwitch _ => none
  | .moduleStart _ => none
  | .svnminUpdate _ => none
  | .securityAlarm _ _ => none
  | .spdmGetVersion _ => none
  | .spdmGetCapabilities _ => none
  | .spdmNegotiateAlgorithms _ => none
  | .spdmGetDigests _ => none
  | .spdmGetCertificate _ => none
  | .spdmChallenge _ => none
  | .spdmGetMeasurements _ _ _ => none
  | .bar4Read _ _ _ => none
  | .bar4Write _ _ _ => none
  | .publishHeaderPayload _ _ _ _ _ _ => none
  | .publishHeaderGlobal _ _ _ _ _ _ => none
  | .hxresMapped _ _ => none
  | .hxresDeclined _ _ => none
  | .hptedataWrite _ _ => none
  | .htlbinvAsid _ => none
  | .htlbinvPage _ _ => none
  | .hsubArm _ _ _ => none
  | .hsubWithdraw _ _ => none
  | .hsubciWrite _ _ _ => none
  | .hostDelivery _ _ => none
  | .hpctlCreate _ => none
  | .hpctlDestroy _ => none
  | .hdstepArm _ _ => none
  | .hdstepDisarm _ => none
  | .hjclr _ => none
  | .registerWrite _ _ _ _ => none
  | .functionLevelReset _ => none
  | .loaderLaunch _ _ => none
  | .spanFrameReceive _ _ _ _ => none
  | .spanReplay _ => none
  | .spanLinkDown _ => none
  | .spanPublishDrop _ _ => none
  | .tokenSampleEject _ _ => none
  | .counterSnapshot _ => none
  | .lifeStorePersist _ => none
  | .lifeSample _ _ _ => none
  | .fieldPowerReturn _ => none
  | .spanLinkUp _ => none
  | .hbmAccessAtRim _ _ => none
  | .stackSelfRefresh _ => none
  | .supervisorOperationComplete _ _ => none
  | .nameOperationAcknowledgement _ => none
  | .claimReleaseAtHome _ => none
  | .nameEntryRelease _ _ => none

/-! ## Bundles (R179, R182) -/

/-- Slot k of a bundle. -/
def slotWord (b : BitVec 512) (k : Nat) : BitVec 60 := b.extractLsb' (60 * k) 60

/-- MASK bit of slot k. -/
def slotPresent (b : BitVec 512) (k : Nat) : Bool := b.getLsbD (504 + k)

/-- Literal word k, sign-extended from bit 59 (R182). -/
def literal (b : BitVec 512) (k : Nat) : W64 := (slotWord b k).signExtend 64

/-- The present slots of a bundle, in order. -/
def presentSlots (b : BitVec 512) : List Nat := (List.range 8).filter (slotPresent b)

/-- The kind a port declares in the header (R179): absent, scalar, vector or order. -/
inductive PortKind where
  | absent | scalar | vector | order
  deriving DecidableEq, Repr

def portKind (b : BitVec 512) (n : Nat) : PortKind :=
  match b.extractLsb' (496 + 2 * n) 2 with
  | 0#2 => .absent | 1#2 => .scalar | 2#2 => .vector | _ => .order

/-- RULE of the header. -/
def bundleRule (b : BitVec 512) : BitVec 4 := b.extractLsb' 492 4

/-- The header checks of R181. -/
def headerOk (b : BitVec 512) : Bool :=
  (bundleRule b == 0 || (bundleRule b == 1 && portKind b 0 != .absent && portKind b 0 == portKind b 1)) &&
    b.extractLsb' 480 12 == 0

/-- Slot k of a bundle decoded under the map of its position. -/
def decodeBundleSlot (b : BitVec 512) (k : Nat) : Dec Instr := decodeSlot (kindOfSlot k) (slotWord b k)

/-- The first present slot's instruction of a bundle whose bits are w, bit 0 in the lowest-addressed byte (R6).
Bits from `nbits` up are zero. -/
def decodeTableWord (nbits w : Nat) : Option Instr :=
  let b : BitVec 512 := BitVec.ofNat 512 (w % 2 ^ nbits)
  match presentSlots b with
  | [] => none
  | k :: _ =>
    match decodeBundleSlot b k with
    | .ok i => some i
    | _ => none

/-- A bundle that holds one instruction in slot k with the given header bits [503:480]. -/
def bundleOf (k : Nat) (w : BitVec 60) (hdr : BitVec 24) : BitVec 512 :=
  BitVec.ofNat 512 (w.toNat * 2 ^ (60 * k) + 2 ^ (504 + k) + hdr.toNat * 2 ^ 480)

end Sys2Proof
end

