-- ==== Sys2Proof/Machine/Ops.lean ====
section
/-! DEFINITION. The named operations over maps, memory, tiles and frames, and taking a fault (R34, R35, R343, R381). -/

namespace Sys2Proof.Machine

/-! ### Held tokens -/

/-- A token marked with the bundle instance and slot that produced it. -/
def HeldTok.from (h : HeldTok) (fid slot : Nat) : HeldTok := { h with fid := fid, slot := slot }

/-- A token enters a list of held tokens: before those of later slots of its bundle instance, else last (R187). -/
def insertTok (l : List HeldTok) (h : HeldTok) : List HeldTok :=
  match l.findIdx? fun y => y.fid == h.fid && decide (h.slot < y.slot) with
  | some k => l.take k ++ h :: l.drop k
  | none => l ++ [h]

/-! ### Sparse tables and memory -/

namespace AMap

/-- The value listed under k. -/
def get? {α : Type} : AMap α → Nat → Option α
  | [], _ => none
  | (j, v) :: m, k => if k = j then some v else get? m k

/-- The value under k, or d. -/
def getD {α : Type} (m : AMap α) (k : Nat) (d : α) : α := (m.get? k).getD d

/-- The table with v under k, in rising order. -/
def set {α : Type} : AMap α → Nat → α → AMap α
  | [], k, v => [(k, v)]
  | (j, w) :: m, k, v => if k < j then (k, v) :: (j, w) :: m else if k = j then (k, v) :: m else (j, w) :: set m k v

/-- The table without k. -/
def erase {α : Type} (m : AMap α) (k : Nat) : AMap α := m.filter fun e => e.1 != k

/-- The keys listed. -/
def keys {α : Type} (m : AMap α) : List Nat := m.map (·.1)

def has {α : Type} (m : AMap α) (k : Nat) : Bool := (m.get? k).isSome

/-- The value under k changed by f, where there is one. -/
def adjust {α : Type} (m : AMap α) (k : Nat) (f : α → α) : AMap α :=
  match m.get? k with
  | some v => m.set k (f v)
  | none => m

/-- Every value changed by f. -/
def mapVal {α : Type} (m : AMap α) (f : α → α) : AMap α := m.map fun e => (e.1, f e.2)

/-- The entries kept by p. -/
def keep {α : Type} (m : AMap α) (p : Nat → α → Bool) : AMap α := m.filter fun e => p e.1 e.2

/-- The lowest of 0 to n − 1 that is not listed. -/
def lowestFree {α : Type} (m : AMap α) (n : Nat) : Option Nat := (List.range n).find? fun k => !m.has k

/-- Strictly rising keys. -/
def sorted {α : Type} : AMap α → Bool
  | [] => true
  | [_] => true
  | (j, _) :: (k, v) :: m => decide (j < k) && sorted ((k, v) :: m)

end AMap

namespace Memory

/-- The byte at a; an unlisted address reads 0 (log entry 2: DESIGN CHOICE, unsafe). -/
def read (m : Memory) (a : Nat) : Byte := AMap.getD m a 0

/-- Memory with b at a, in canonical form. -/
def write (m : Memory) (a : Nat) (b : Byte) : Memory := if b = 0 then AMap.erase m a else AMap.set m a b

/-- The n bytes from a, lowest address first. -/
def readBytes (m : Memory) (a : Nat) : Nat → List Byte
  | 0 => []
  | n + 1 => read m a :: readBytes m (a + 1) n

/-- Memory with the bytes of l from a. -/
def writeBytes (m : Memory) (a : Nat) : List Byte → Memory
  | [] => m
  | b :: l => writeBytes (write m a b) (a + 1) l

/-- The canonical form: strictly rising addresses, no byte 0 listed. -/
def wf (m : Memory) : Bool := AMap.sorted m && m.all fun e => e.2 != 0

end Memory

/-- The little-endian number of a list of bytes (R6). -/
def fromBytes : List Byte → Nat
  | [] => 0
  | b :: l => b.toNat + 256 * fromBytes l

/-- The n low bytes of x, little-endian (R6). -/
def toBytes (x : Nat) : Nat → List Byte
  | 0 => []
  | n + 1 => BitVec.ofNat 8 x :: toBytes (x / 256) n

/-- A 64-bit word from a number. -/
def w64 (n : Nat) : W64 := BitVec.ofNat 64 n

/-- Bits [hi:lo] of a word as a number. -/
def bits (x : W64) (hi lo : Nat) : Nat := bitsOf x.toNat hi lo

/-- Word k of the little-endian bytes l. -/
def wordAt (l : List Byte) (k : Nat) : W64 := w64 (fromBytes ((l.drop (8 * k)).take 8))

/-- List update at an index. -/
def setAt {α : Type} (l : List α) (k : Nat) (v : α) : List α := l.set k v

def eraseAt {α : Type} (l : List α) (k : Nat) : List α := l.eraseIdx k

/-! ### Tiles, domains and frames -/

def State.tile (s : State) (t : Nat) : Tile := s.tiles.getD t {}

def State.setTile (s : State) (t : Nat) (x : Tile) : State := { s with tiles := s.tiles.set t x }

def State.c (s : State) (t : Nat) : CDom := (s.tile t).c

def State.n (s : State) (t : Nat) : NDom := (s.tile t).n

def State.setC (s : State) (t : Nat) (c : CDom) : State := s.setTile t { s.tile t with c := c }

def State.setN (s : State) (t : Nat) (n : NDom) : State := s.setTile t { s.tile t with n := n }

def State.modC (s : State) (t : Nat) (f : CDom → CDom) : State := s.setC t (f (s.c t))

def State.modN (s : State) (t : Nat) (f : NDom → NDom) : State := s.setN t (f (s.n t))

def State.setSlate (s : State) (t : Nat) (x : Slate) : State := s.setTile t { s.tile t with slate := x }

def State.modSlate (s : State) (t : Nat) (f : Slate → Slate) : State := s.setSlate t (f (s.tile t).slate)

/-- The durable point (R144): the higher valid D record, 0 where none is valid. -/
def Slate.d (l : Slate) : Nat := max (l.d0.getD 0) (l.d1.getD 0)

def CDom.frame (c : CDom) (f : Nat) : Frame := c.frames.getD f {}

def CDom.setFrame (c : CDom) (f : Nat) (x : Frame) : CDom := { c with frames := c.frames.set f x }

def CDom.modFrame (c : CDom) (f : Nat) (g : Frame → Frame) : CDom := c.setFrame f (g (c.frame f))

def State.frame (s : State) (t f : Nat) : Frame := (s.c t).frame f

def State.modFrame (s : State) (t f : Nat) (g : Frame → Frame) : State := s.modC t fun c => c.modFrame f g

def State.hub (s : State) (f : Nat) : Hub := s.hubs.getD f {}

def State.modHub (s : State) (f : Nat) (g : Hub → Hub) : State := { s with hubs := s.hubs.set f (g (s.hub f)) }

def State.rim (s : State) (a : Nat) : Rim := s.rims.getD a {}

def State.modRim (s : State) (a : Nat) (g : Rim → Rim) : State := { s with rims := s.rims.set a (g (s.rim a)) }

def State.part (s : State) (p : Nat) : Partition := s.parts.getD p {}

/-- Partition p changed by g: there are 64 (R1). -/
def State.modPart (s : State) (p : Nat) (g : Partition → Partition) : State :=
  { s with parts := if p < 64 then s.parts.set p (g (s.part p)) else s.parts }

def State.vf (s : State) (p : Nat) : Vf := s.vfs.getD p {}

def State.modVf (s : State) (p : Nat) (g : Vf → Vf) : State := { s with vfs := if p < 64 then s.vfs.set p (g (s.vf p)) else s.vfs }

def State.span (s : State) (l : Nat) : Span := s.spans.getD l {}

def State.modSpan (s : State) (l : Nat) (g : Span → Span) : State := { s with spans := s.spans.set l (g (s.span l)) }

/-- The field of a logical tile (R2). -/
def fieldOf (t : Nat) : Nat := t / Config.tilesPerField

/-- The fields of a partition in ascending module field number (R96). -/
def Partition.fieldList (p : Partition) : List Nat := (List.range Config.numFields).filter fun f => p.fields.getLsbD f

/-- The partition that holds a field; 64, which names none, where none does. -/
def State.partOfField (s : State) (f : Nat) : Nat :=
  match s.parts.find? fun e => e.2.st != 0 && e.2.fields.getLsbD f with
  | some e => e.1
  | none => 64

def State.partOf (s : State) (t : Nat) : Nat := s.partOfField (fieldOf t)

/-- The number of fields of a tile's partition. -/
def State.fieldCount (s : State) (t : Nat) : Nat := (s.part (s.partOf t)).fieldList.length

/-- The field ordinal of a tile in its partition (R96). -/
def State.fieldOrdinal (s : State) (t : Nat) : Nat := ((s.part (s.partOf t)).fieldList.takeWhile (· != fieldOf t)).length

/-- The tile T[idx] of a partition's tiles in ascending order (R76). -/
def Partition.tileAt (p : Partition) (idx : Nat) : Nat :=
  160 * (p.fieldList.getD (idx / 160) 0) + idx % 160

/-- Every tile of a partition. -/
def Partition.tiles (p : Partition) : List Nat := p.fieldList.flatMap fun f => (List.range 160).map fun k => 160 * f + k

/-- Counter i of a partition counts n more (R424). -/
def State.count (s : State) (p i n : Nat) : State :=
  s.modPart p fun q => { q with counters := q.counters.set i (q.counters.getD i 0 + w64 n) }

def State.countT (s : State) (t i n : Nat) : State := s.count (s.partOf t) i n

/-- Word i of a field hub's life store counts n more (R427). -/
def State.life (s : State) (f i n : Nat) : State :=
  s.modHub f fun h => { h with life := h.life.set i (h.life.getD i 0 + n) }

/-- The quartz count as a 64-bit word (R8). -/
def State.tick (s : State) : W64 := w64 s.quartz

/-- The next free value (log entry 4: DESIGN CHOICE, safe), and the state that has used it. -/
def State.free (s : State) : W64 × State := (Config.freeValue s.freeCtr, { s with freeCtr := s.freeCtr + 1 })

/-- n free lanes (log entry 4: DESIGN CHOICE, safe). -/
def State.freeLanes (s : State) (n : Nat) : List W32 × State :=
  ((List.range n).map fun j => (Config.freeValue (s.freeCtr + j)).setWidth 32, { s with freeCtr := s.freeCtr + n })

/-- The span entry of a partition for a namespace (R378). -/
def Partition.spanEntry (p : Partition) (ns : BitVec 12) : Option W64 :=
  (p.spanNs.find? fun e => e.2.getLsbD 63 && e.2.extractLsb' 48 12 == ns).map (·.2)

/-- The partition of an agent. -/
def State.agentPart (s : State) (a : Agent) : Nat :=
  match a with | .tile t => s.partOf t | .hub f => s.partOfField f | .gateway p => p | _ => 64

/-- The partition of the far module for which a message leaves (R378): PEER of its namespace's entry. -/
def State.peerOf (s : State) (m : Msg) : Nat :=
  let entry := match m.body with | .name _ x => (s.part (s.agentPart m.src)).spanEntry x.name.ns | _ => none
  match entry with | some w => bitsOf w.toNat 42 37 | none => 0

/-- CLASS of a frame (R378): 0 name control, 1 name data. -/
def Msg.spanClass (m : Msg) : Nat :=
  match m.body with | .name .publish _ | .name .piece _ | .name .copy _ | .name .element _ | .name .flit _ => 1 | _ => 0

/-- The flits of a message on a link (R378): one for each 1,024 bits of the tile that it carries, else one. -/
def Msg.flits (m : Msg) : Nat := match m.body with | .name _ x => max 1 ((x.bytes.length + 127) / 128) | _ => 1

/-- The frames of a message, one for each of its flits. -/
def Msg.frames (m : Msg) : List (Msg × Nat) := (List.range m.flits).map fun k => (m, k)

/-- A frame leaves with its header (R378): SEQ, ACK, CLASS, PART, CREDIT. -/
def Span.frame (x : Span) (seq : BitVec 12) (peer : Nat) (m : Msg × Nat) : Span :=
  let cls := m.1.spanClass
  let credit := min 127 (if cls = 0 then x.freed.1 else x.freed.2)
  let header := BitVec.ofNat 96 (seq.toNat * 2 ^ 84 + x.ack.toNat * 2 ^ 72 + cls * 2 ^ 69 + peer % 64 * 2 ^ 63 + credit * 2 ^ 56)
  { x with sent := x.sent ++ [(header, m)]
           freed := if cls = 0 then (x.freed.1 - credit, x.freed.2) else (x.freed.1, x.freed.2 - credit) }

/-- A link takes a message: up, its replay buffer with room for its frames, which keeps up to 1,024 of them (R378). -/
def Span.room (x : Span) (m : Msg) : Bool := x.up && decide (x.replay.length + m.flits ≤ 1024)

/-- One flit becomes the link's next frame, kept until it is acknowledged (R378). -/
def Span.putFrame (peer : Nat) (x : Span) (m : Msg × Nat) : Span :=
  Span.frame { x with replay := x.replay ++ [(x.seq, m)], seq := x.seq + 1 } x.seq peer m

/-- A message becomes the link's next frames (R378). -/
def Span.put (x : Span) (peer : Nat) (m : Msg) : Span := m.frames.foldl (Span.putFrame peer) x

/-- A message for the far module goes to the agent of its span link: into the replay buffer, or waiting (R378, R379). -/
def State.spanSend (s : State) (l : Nat) (m : Msg) : State :=
  s.modSpan l fun x =>
    if x.room m && x.waiting.isEmpty then x.put (s.peerOf m) m else { x with waiting := x.waiting ++ [(m, s.quartz)] }

/-- A name message that a router takes in on its own way, not the directory, a tile or an agent. -/
def NameOp.routed (op : NameOp) (m : NameMsg) : Bool :=
  match op with
  | .reg | .prune | .flit | .element | .circ | .circrel => m.router != Config.numTiles
  | .detach => !m.completion
  | _ => false

/-- A message made from another, as its sender injects it (R423). -/
def NameMsg.anew (m : NameMsg) : NameMsg := { m with hops := 0, trail := none, oseq := 0, nseq := 0, resent := false }

/-- A name message with the number of its outbound effect (R399); the other messages carry it from the start. -/
def Msg.numbered (m : Msg) (o : Nat) : Msg :=
  match m.body with | .name op x => { m with body := .name op { x with oseq := o } } | _ => m

/-- A message that its sender injects, rather than passes on (R423). -/
def Msg.injected (m : Msg) : Bool := match m.body with | .name _ x => m.cls == .reply || x.hops == 0 | _ => true

/-- A message as it leaves tile t: a name message counts its hops, and logs the router where it is marked (R423). -/
def Msg.leaving (m : Msg) (t : Nat) (mark : Bool) (tick : Nat) : Msg :=
  match m.body with
  | .name op x =>
    let moves : Bool := m.dst != .tile t
    let trail := if m.injected then (if mark then some (t, tick, []) else none) else x.trail
    let trail := if moves then trail.map fun (k : Nat × Nat × List (Nat × Nat)) => (k.1, k.2.1, k.2.2 ++ [(t, tick)]) else trail
    { m with body := .name op { x with hops := (if m.injected then 0 else x.hops) + 1, trail := trail } }
  | _ => { m with sampled := mark }

/-- A name message of tile t that is no numbered effect, and that a field's loss can take from a home's directory without an
acknowledgement (R399). -/
def Msg.unnumbered (m : Msg) (t : Nat) : Bool :=
  match m.body with
  | .name op x => x.oseq == 0 && x.nseq == 0 && x.who == .tile t && (op == .reg || op == .prune || op == .claimRel || op == .publish)
  | _ => false

/-- It takes the next number of its own kind (log 126: DESIGN CHOICE, unsafe). -/
def State.number (s : State) (m : Msg) : State × Msg :=
  match m.src, m.body with
  | .tile t, .name op x =>
    if m.unnumbered t then
      let k := (s.n t).nameSeq + 1
      (s.modN t fun n => { n with nameSeq := k }, { m with body := .name op { x with nseq := k } })
    else (s, m)
  | _, _ => (s, m)

/-- A message put on the network; a tile marks one in 2^SLOG of those it injects (R423). -/
def State.send (s : State) (m : Msg) : State :=
  let (s, m) := s.number { m with birth := s.quartz }
  let (s, m) := match m.src with
    | .tile t =>
      let ctl := (s.part (s.partOf t)).hdctl
      if ctl.getLsbD 0 && m.injected then
        let n := (s.n t).sampleCount + 1
        (s.modN t fun x => { x with sampleCount := n }, m.leaving t (n % 2 ^ bits ctl 19 16 == 0) s.quartz)
      else (s, m.leaving t false s.quartz)
    | _ => (s, m)
  match m.dst with
  | .span l _ => s.spanSend l m
  | _ => { s with net := s.net ++ [m] }

def State.post (s : State) (src dst : Agent) (cls : Cls) (b : Body) : State := s.send ⟨src, dst, cls, b, 0, false⟩

/-- A receiver takes messages: a tile of a field without power takes none (R399). -/
def State.takes (s : State) (a : Agent) : Bool :=
  match a with | .tile t => (s.hub (t / Config.tilesPerField)).powered | _ => true

/-- A field revives: power is back, and some tile of it has not ended its replay, which a loss of its C domain in between does not
end (R394, R399). -/
def State.fieldRevives (s : State) (f : Nat) : Bool :=
  s.tiles.any fun e => fieldOf e.1 == f && (e.2.slate.replaying || (!e.2.powered && e.2.slate.lost.isSome)) && bits (e.2.slate.draft.getD 0 0) 63 60 == 2

/-- The agent that sent a message; of a numbered name message the tile that sent it first. -/
def Msg.sender (m : Msg) : Agent := match m.body with | .name _ x => if x.oseq = 0 ∧ x.nseq = 0 then m.src else x.who | _ => m.src

/-- Lost requests of a sender stand to be sent again before what it sent after them (R399). -/
def State.resendsFirst (s : State) (f : Nat) (x : Msg) : Bool := (s.hub f).lost.any fun y => y.sender == x.sender

/-- A message may cross the boundary of its receiver's field: traffic from outside waits there until the field has revived and its sender
has sent again what the field lost (R399), but for the answers of memory, barriers and the supervisor's units, which its replay asks for
(log 35: DEDUCED, unsafe). -/
def State.crossesIn (s : State) (x : Msg) : Bool :=
  let inside (f : Nat) : Bool := match x.src with
    | .tile u => fieldOf u == f
    | .hub h => h == f
    | _ => false
  let named := match x.body with | .name _ _ => true | _ => false
  let free (f : Nat) : Bool := inside f || if x.cls == .reply then !named || !s.fieldRevives f else !(s.fieldRevives f || s.resendsFirst f x)
  match x.dst with
  | .tile t => free (fieldOf t)
  | .hub f => free f
  | _ => true

/-- Message x waits behind y of another class: a request for a global line behind what writes its sectors back, and a writeback behind a
request for its line (R135); the release of a claim behind the publishes that were made under it (R83, R360). -/
def Msg.after (x y : Msg) : Bool :=
  match x.body, y.body with
  | .name .claimRel m, .name op n => (op == .publish || op == .piece) && m.name == n.name && m.taskId == n.taskId
  | .home r, .writeback va _ _ _ _ _ | .home r, .probeAck va _ _ _ _ | .writeback va _ _ _ _ _, .home r => !r.fsh && r.addr / 512 == va / 512
  | _, _ => false

/-- A stream element that waits at a router keeps the name data of its own name behind it, and lets other names pass (R89, R363). A copy for
the host that waits for a slot of its ring lets everything pass (R371, R374). -/
def Msg.letsPass (y x : Msg) : Bool :=
  match y.dst, y.body, x.body with
  | .gateway _, .name .copy _, _ => true
  | _, .name .element m, .name _ n => m.waits && m.name != n.name
  | _, _, _ => false

/-- The plane of a message: 0 the name plane, 1 the addressed one. -/
def Msg.plane (m : Msg) : Nat := match m.cls with | .nameData | .nameCtl => 0 | _ => 1

/-- The entry of its injecting tile's route table that a message follows (R351); one passed on by routers follows no list. -/
def Msg.routeKey (m : Msg) : Option (Nat × Nat) :=
  let routed := match m.body with | .name op x => op.routed x | _ => false
  match m.src, m.dst with
  | .tile t, .tile d => if routed then none else some (t, m.plane * 16384 + d)
  | _, _ => none

/-- The messages in flight that follow an entry of a tile's route table. -/
def Msg.follows (t key : Nat) (m : Msg) : Bool := m.routeKey == some (t, key)

/-- A message injected after a ROUTEW of its entry waits for the ones before (R351). -/
def State.pastFence (s : State) (m : Nat) (x : Msg) : Bool :=
  match x.routeKey with
  | some (t, key) => match (s.n t).fences.get? key with
    | some f => decide (((s.net.take m).filter (Msg.follows t key)).length < f.1)
    | none => true
  | none => true

/-- One message fewer stands before a ROUTEW's fence: the last one lifts it, and the new list takes effect. -/
def State.passFence (s : State) (x : Msg) : State :=
  match x.routeKey with
  | some (t, key) => match (s.n t).fences.get? key with
    | some f => s.modN t fun n => { n with fences := if f.1 ≤ 1 then n.fences.erase key else n.fences.set key (f.1 - 1, f.2) }
    | none => s
  | none => s

/-- Message m may arrive next: its receiver has power, it may cross into its field, and no earlier message has its sender, receiver and class, or brings home
what the same tile wrote in the line that m asks for (R80, R135). -/
def State.arrivable (s : State) (m : Nat) : Bool :=
  match s.net[m]? with
  | none => false
  | some x => s.takes x.dst && s.crossesIn x && s.pastFence m x && !(s.net.take m).any fun y => y.src == x.src && y.dst == x.dst && ((y.cls == x.cls && !y.letsPass x) || x.after y)

/-- A marked message that its receiver ejects (R423). -/
def Msg.marked (m : Msg) : Bool := match m.body with | .name op x => x.trail.isSome && !op.routed x | _ => m.sampled

/-- The network without message m; a marked one is kept by the tile that ejects it, for its record (R423). -/
def State.dropMsg (s : State) (m : Nat) : State :=
  let s' : State := { s with net := eraseAt s.net m }
  match s.net[m]? with
  | some x =>
    let s' := s'.passFence x
    match x.marked, x.dst with
    | true, .tile t => s'.modN t fun n => { n with samples := n.samples ++ [x] }
    | _, _ => s'
  | none => s'

/-! ### Instances and outstanding counts (R48 to R51) -/

/-- The instance number I of an entry and a generation. -/
def instNum (entry gen : Nat) : Nat := gen % 8 * 4096 + entry

def CDom.inst? (c : CDom) (i : Nat) : Option Inst :=
  match c.insts.get? (i % 4096) with
  | some x => if x.gen = i / 4096 % 8 then some x else none
  | none => none

def CDom.setInst (c : CDom) (i : Nat) (x : Inst) : CDom := { c with insts := c.insts.set (i % 4096) x }

def CDom.modInst (c : CDom) (i : Nat) (f : Inst → Inst) : CDom :=
  match c.inst? i with
  | some x => c.setInst i (f x)
  | none => c

def CDom.dueOf (c : CDom) (i : Nat) : Nat := c.due.getD (i % 4096 * 8 + i / 4096 % 8) 0

def CDom.addDue (c : CDom) (i : Nat) (n : Nat) : CDom :=
  { c with due := c.due.set (i % 4096 * 8 + i / 4096 % 8) (c.dueOf i + n) }

def CDom.subDue (c : CDom) (i : Nat) (n : Nat) : CDom :=
  { c with due := c.due.set (i % 4096 * 8 + i / 4096 % 8) (c.dueOf i - n) }

/-- The generation an allocation of the entry would take (R49). -/
def CDom.nextGen (c : CDom) (e : Nat) : Nat := (c.gens.getD e 0 + 1) % 8

/-- The lowest-numbered free entry whose next generation has no token due (R49, R50). -/
def CDom.freeEntry (c : CDom) : Option Nat :=
  (List.range 4096).find? fun e => !c.insts.has e && c.dueOf (instNum e (c.nextGen e)) == 0

/-- Free entries F (R68, R69). -/
def CDom.tagFree (c : CDom) : Nat := 4096 - c.insts.length

/-- The greatest depth of a live instance, or 0 (R68). -/
def CDom.dmax (c : CDom) : Nat := c.insts.foldl (fun d e => max d e.2.depth) 0

/-- Entries of the matching store that a complete set keeps: one for each token; a token that serves several pieces keeps its own (R58). -/
def OpSet.entries (x : OpSet) : Nat := if x.piece then x.lines.length else x.ports.length

/-- Entries of the matching store in use (R60). -/
def CDom.storeUsed (c : CDom) : Nat := c.toks.length + c.sets.foldl (fun n x => n + x.entries) 0

def Val.isVector : Val → Bool | .vector _ _ => true | _ => false

/-- Lines of the vector operand buffer in use (R60): a token cut in parts keeps one line (R58), also where a part went to the holding
queue. -/
def CDom.linesUsed (c : CDom) : Nat :=
  (((c.toks.filter fun k => k.val.isVector) ++ c.holding.filter fun k => k.line != 0).map (·.line) ++ c.sets.flatMap (·.lines)).eraseDups.length

/-- The tag-pool throttle for a spawn at depth d (R68, R69). -/
def CDom.throttleAllows (c : CDom) (d : Nat) : Bool :=
  decide (c.tagFree + 32 * d > 32 * c.dmax) &&
    (decide (c.tagFree > min c.tagCrit c.tagLow) || decide (d ≥ c.dmax)) &&
    decide (c.storeUsed + 512 ≤ 4096) && decide (c.linesUsed + 256 ≤ 2048)

/-- The tag word with the path depth, as source 0x29 gives it (R48). -/
def tagWord (frame inst : Nat) (p : BitVec 8) (pd : Nat) : W64 :=
  w64 (pd * 2 ^ 32 + frame % 64 * 2 ^ 26 + inst % 32768 * 2 ^ 11 + p.toNat * 8)

/-! ### Causes and fault records (R344, R381) -/

def Cause.code : Cause → Nat
  | .illop => 0x01 | .illbun => 0x02 | .illsrc => 0x03 | .frwdepth => 0x04 | .pathovf => 0x05 | .tagx => 0x06
  | .promise => 0x07 | .idxbound => 0x08 | .agbound => 0x09 | .scrforeign => 0x0A | .winfault => 0x0B
  | .align => 0x0C | .xlate => 0x0D | .prot => 0x0E | .atomrst => 0x0F | .barovr => 0x10 | .sublapse => 0x11
  | .matcfg => 0x12 | .fmtcfg => 0x13 | .priv => 0x14 | .revdiv => 0x15 | .trapsw => 0x16 | .brk => 0x17
  | .wdog => 0x18 | .slotcfg => 0x19 | .stream => 0x1A | .namecfg => 0x1B

/-- Every cause, in code order. -/
def Cause.all : List Cause :=
  [.illop, .illbun, .illsrc, .frwdepth, .pathovf, .tagx, .promise, .idxbound, .agbound, .scrforeign, .winfault,
   .align, .xlate, .prot, .atomrst, .barovr, .sublapse, .matcfg, .fmtcfg, .priv, .revdiv, .trapsw, .brk, .wdog,
   .slotcfg, .stream, .namecfg]

/-- The cause of a code, where it is one (R344). -/
def Cause.ofCode (n : Nat) : Option Cause := Cause.all.find? fun c => c.code == n

/-- The trapping causes (R34, R344). -/
def Cause.trapping : Cause → Bool
  | .promise | .idxbound | .scrforeign | .winfault | .align | .trapsw => true
  | _ => false

/-- A fault record: words 0 to 9 of R381. -/
def recordWords (qtick : W64) (cause origin lane bun slot ltid frame stage block : Nat) (taskId : BitVec 32)
    (tag addr seq : W64) (i : FaultInfo) : List W64 :=
  [qtick,
   w64 (cause + origin * 2 ^ 19 + lane * 2 ^ 22 + bun * 2 ^ 27 + slot * 2 ^ 32 + ltid * 2 ^ 36 + frame * 2 ^ 52),
   w64 (stage + block * 2 ^ 12 + taskId.toNat * 2 ^ 32), tag, addr, seq, i.cw1, i.cw2, i.cw3, i.cw4]

/-- The 128 bytes of a record from its words. -/
def recordBytes (ws : List W64) : List Byte :=
  let l := ws.flatMap fun w => toBytes w.toNat 8
  l ++ List.replicate (128 - l.length) 0

/-- The names of namespace 0x000 that the device publishes (R74, R418, R425). -/
def sysName (tensor : Nat) : TileName := ⟨0, BitVec.ofNat 20 tensor, 0, 0, 0, 0⟩

/-! ### Homes of names and lines (R76, R99, R101) -/

def hashStep (h x mul shift : Nat) : Nat :=
  let h := (h ^^^ x) * mul % 2 ^ 64
  h ^^^ (h / 2 ^ shift)

/-- The hash of n 16-bit pieces of x, lowest first. -/
def hashPieces (x shift : Nat) (h : Nat) : Nat → Nat → Nat
  | 0, _ => h
  | n + 1, i => hashPieces x shift (hashStep h (x / 2 ^ (16 * i) % 65536) 0x9E3779B97F4A7C15 shift) n (i + 1)

/-- The index of a hash among N tiles. -/
def hashIndex (h n : Nat) : Nat := h / 2 ^ 32 * n / 2 ^ 32

def maskCoord (hgm : BitVec 4) (j : Nat) (c : BitVec 12) : BitVec 12 := if hgm.getLsbD j then 0 else c

/-- HomeTile (R76). -/
def homeTile (nm : TileName) (hgm : BitVec 4) (p : Partition) : Nat :=
  let x := nm.ns ++ (nm.tensor ++ (maskCoord hgm 0 nm.c0 ++ (maskCoord hgm 1 nm.c1 ++
    (maskCoord hgm 2 nm.c2 ++ maskCoord hgm 3 nm.c3))))
  p.tileAt (hashIndex (hashPieces x.toNat 31 0x5C3A91E70D4B2F68 5 0) (160 * p.fieldList.length))

/-- LineHome (R101). -/
def lineHome (asid : BitVec 16) (va : Nat) (p : Partition) : Nat :=
  let x := asid.toNat * 2 ^ 47 + va / 512 % 2 ^ 47
  p.tileAt (hashIndex (hashPieces x 29 0x27D4EB2F165667C5 4 0) (160 * p.fieldList.length))

/-- FieldSharedHome (R99): the tile and the local address. -/
def fieldSharedHome (p : Partition) (ord o : Nat) : Nat × Nat :=
  (160 * p.fieldList.getD ord 0 + o / 512 % 160, o / 512 / 160 * 512 + o % 512)

/-- The binding of a name's tensor, where it is bound (R75). -/
def Partition.binding (p : Partition) (ns : BitVec 12) (tensor : BitVec 20) : Option Binding :=
  p.bindings.find? fun b => b.ns == ns && b.tensor == tensor && b.kind != 0

/-- The home tile of a name in a partition. -/
def State.homeOf (s : State) (p : Nat) (nm : TileName) : Nat :=
  let q := s.part p
  homeTile nm (match q.binding nm.ns nm.tensor with | some b => b.hgm | none => 0) q

/-- A device record published under a system name of a partition (R74, R381, R418, R425); `trace` marks the records of TRACE
and of sampling, which wait for nothing. -/
def State.publishRecord (s : State) (src : Agent) (p tensor : Nat) (taskId : BitVec 32) (trace : Bool) (ws : List W64) : State :=
  s.post src (.tile (s.homeOf p (sysName tensor))) .nameData
    (.name .publish { name := sysName tensor, who := src, taskId := taskId, bytes := recordBytes ws, device := true,
                      trace := trace, tick := s.tick })

/-- The fault name's tensor (R74). -/
def faultTensor : Nat := 1

/-- A record that names no running frame, ORIGIN 3 or 4 (R381): its fields hold the values as of the task's last activation, or zero for a
task that never ran (log 84: DEDUCED, unsafe). -/
def State.awayRecord (s : State) (src : Agent) (p origin : Nat) (taskId : BitVec 32) (i : FaultInfo) : State :=
  let r := (s.part p).ran.get? taskId.toNat
  let x : Ran := r.getD ⟨0, 0, 0, 0, 0⟩
  s.publishRecord src p faultTensor taskId false
    (recordWords s.tick i.cause.code origin 0 0 (if r.isSome then 8 else 0) x.tile x.frame x.stage x.block taskId x.tag i.addr 0 i)

/-! ### Discarding and aborting (R34) -/

/-- A token of wait w of an issued bundle instance is due to its instance, once (R50). -/
def CDom.oweWait (c : CDom) (id w : Nat) : CDom :=
  match c.issued.find? fun x => x.id == id with
  | none => c
  | some x =>
    if x.waits.any fun q => q.id == w && !q.due then
      let mark (q : PWait) : PWait := if q.id = w then { q with due := true } else q
      let note (y : Issue) : Issue := if y.id = id then { y with waits := y.waits.map mark } else y
      CDom.addDue { c with issued := c.issued.map note } x.inst 1
    else c

/-- The loads of a bundle instance whose replies are still to come (R50). -/
def Issue.orphans (x : Issue) : List Orphan :=
  x.waits.filterMap fun q => match q.wait with
    | .load els _ =>
      let unsent (j : Nat) : Bool := x.sends.any fun r => match r with | .load _ _ _ w k => w == q.id && k == j | _ => false
      if q.due then
        some ⟨x.id, q.id, x.inst, ((List.range els.length).filter fun j => ((els[j]?).bind (·.val)).isNone && !unsent j).length⟩
      else none
    | _ => none

/-- Issued bundle instances go; a load of theirs that is answered no more leaves its count (R50). -/
def CDom.dropIssued (c : CDom) (gone : Issue → Bool) : CDom :=
  let l := (c.issued.filter gone).flatMap Issue.orphans
  let c := (l.filter fun o => o.left == 0).foldl (fun c o => c.subDue o.inst 1) c
  { c with issued := c.issued.filter fun x => !gone x, orphans := c.orphans ++ l.filter fun o => o.left != 0 }

/-- A reply for a discarded load: whether its token is dropped with it (R49, R50). -/
def CDom.orphanReply (c : CDom) (id w : Nat) : Bool × CDom :=
  match c.orphans.find? fun o => o.issue == id && o.wait == w with
  | none => (false, c)
  | some o =>
    let rest := c.orphans.filter fun o => !(o.issue == id && o.wait == w)
    if o.left ≤ 1 then (true, CDom.subDue { c with orphans := rest } o.inst 1) else (false, { c with orphans := { o with left := o.left - 1 } :: rest })

/-- The task is no longer one of the partition's live tasks, and its key is free again (R15, R98). -/
def State.freeTask (s : State) (t f : Nat) : State :=
  let fr := s.frame t f
  let s := s.modPart (s.partOf t) fun p => { p with taskIds := p.taskIds.filter (· != fr.task.taskId) }
  s.modHub (fr.key.toNat / 16384 |> fun o => ((s.part (s.partOf t)).fieldList.getD o 0)) fun h =>
    { h with keys := h.keys.filter (· != fr.key) }

/-- A bundle instance's waits that other units hold are withdrawn: barrier and signal waits (R312, R340). -/
def State.withdrawWaits (s : State) (t id : Nat) : State :=
  { s with
    tiles := s.tiles.mapVal fun x => { x with n := { x.n with
      barriers := x.n.barriers.mapVal fun b => { b with waiters := b.waiters.filter fun w => !(w.2.1 == t && w.2.2.1 == id) }
      sigwaits := x.n.sigwaits.filter fun r => match r.ret with
        | .wait i _ => !(r.sender == .tile t && i == id)
        | _ => true } }
    net := s.net.filter fun m => match m.body with
      | .bar _ (.barw _ i _) _ _ _ => !(m.src == .tile t && i == id)
      | .home r => (match r.op, r.ret with
        | .sigwait, .wait i _ => !(m.src == .tile t && i == id)
        | _, _ => true)
      | _ => true }

/-- Everything of the frame's instances is gone: instances, tokens, operand sets, issued bundle instances, loops and
calls (R27 step 1, R34). -/
def CDom.discardFrame (c : CDom) (f : Nat) : CDom :=
  let c := c.dropIssued fun x => x.set.frame == f
  { c with
    insts := c.insts.keep fun _ i => i.frame != f
    toks := c.toks.filter fun k => k.frame != f
    sets := c.sets.filter fun x => x.frame != f
    arrivals := c.arrivals.filter fun k => k.frame != f
    holding := c.holding.filter fun k => k.frame != f
    loops := c.loops.keep fun _ l => l.frame != f
    calls := c.calls.keep fun _ l => l.frame != f
    pendCommit := c.pendCommit.filter fun e => match c.insts.get? e with
      | some i => i.frame != f
      | none => false
    trapEntries := c.trapEntries.filter (· != f) }

/-- One block instance is discarded without commit (R34, R65, R345). -/
def CDom.discardInst (c : CDom) (i : Nat) : CDom :=
  let c := c.dropIssued fun x => x.inst == i
  { c with
    insts := if (c.inst? i).isSome then c.insts.erase (i % 4096) else c.insts
    toks := c.toks.filter fun k => !(k.inst == i && k.loopKey.isNone)
    sets := c.sets.filter fun x => x.inst != i
    arrivals := c.arrivals.filter fun k => !(k.inst == i && k.loopKey.isNone)
    holding := c.holding.filter fun k => !(k.inst == i && k.loopKey.isNone)
    pendCommit := c.pendCommit.filter (· != i % 4096) }

/-- Armed budgets and queued jobs of a frame's accumulators are dropped; a job in progress is joined (R293). -/
def CDom.dropJobs (c : CDom) (f : Nat) : CDom :=
  { c with accs := c.accs.mapVal fun a =>
      if a.frame = some f then { a with left := 0, jobs := if a.work.isSome then a.jobs.take 1 else [] } else a }

/-- A firing, drain, load or rescale of the frame is in progress (R278, R293). -/
def CDom.accBusy (c : CDom) (f : Nat) : Bool := c.accs.any fun e => e.2.frame == some f && e.2.st == .busy

/-- A frame aborts (R34): every live instance is discarded, its record waits until its engine operations are joined
and its writes performed (R383, event ABORT_FAULT_RECORD). -/
def State.abortFrame (s : State) (t f : Nat) (site : Site) (i : FaultInfo) : State :=
  let c := s.c t
  let fr := c.frame f
  if fr.abortRec.isSome then s
  else
    let words := recordWords s.tick i.cause.code 0 i.lane site.bun i.slot t f fr.task.stage site.block fr.task.taskId
      (tagWord f site.inst site.p site.pd) i.addr (w64 c.commitSeq) i
    let s := (c.issued.filter fun x => x.set.frame == f).foldl (fun s x => s.withdrawWaits t x.id) s
    s.modC t fun c =>
      ((c.discardFrame f).dropJobs f).modFrame f fun fr => { fr with st := .ending, abortRec := some words, park := .none }

/-- The tag, block and bundle of an operand set. -/
def OpSet.site (x : OpSet) : Site := ⟨x.inst, x.p, x.pd, x.block, x.bun⟩

/-- A trap (R35): the frame enters TRAPPED, the trap CSRs are written, the operand set is kept, and the trap block's
entry is asked for (event TRAP_ENTRY). A set that faults while the frame is already TRAPPED is kept too. -/
def State.takeTrap (s : State) (t : Nat) (x : OpSet) (i : FaultInfo) : State :=
  s.modC t fun c =>
    let c := { c with sets := c.sets ++ [{ x with kept := true, count := 0, promoted := false }] }
    if (c.frame x.frame).st = .trapped then c
    else
      { c with trapEntries := c.trapEntries ++ [x.frame] }.modFrame x.frame fun fr =>
        { fr with
          st := .trapped
          trapcause := w64 i.cause.code
          traptag := tagWord x.frame x.inst x.p x.pd
          trapaddr := i.addr
          trapslot := w64 (i.lane * 2 ^ 16 + x.bun * 2 ^ 8 + i.slot) }

/-- What a bundle instance that goes had noted in its block instance (R243). -/
def CDom.unnote (c : CDom) (x : Issue) : CDom :=
  c.modInst x.inst fun i => { i with
    issuedSpawn := i.issuedSpawn && x.spawn.isNone
    spawn := if x.spawn.isSome then none else i.spawn
    term := if x.term.isSome then none else i.term
    issuedTerm := i.issuedTerm && x.term.isNone
    issuedTret := i.issuedTret && !x.tret }

/-- TAKING A FAULT of a bundle instance (R34, R35): a trapping cause with TRAPV valid, outside the trap block's tree,
traps; every other fault aborts the frame. -/
def State.takeFault (s : State) (t : Nat) (x : OpSet) (i : FaultInfo) : State :=
  let c := s.c t
  let tt := match c.inst? x.inst with | some y => y.tt | none => false
  if i.cause.trapping && (c.frame x.frame).trapv.getLsbD 20 && !tt then s.takeTrap t x i
  else s.abortFrame t x.frame x.site i

/-- A fault of the bundle instance being issued: it is withdrawn whole and performs nothing (R34, R202). A fault that
names no slot of its own names the one being performed. -/
def State.fault (s : State) (i : FaultInfo) : State :=
  let x := s.iss
  let i := { i with slot := if i.slot = 8 then x.slot else i.slot }
  State.takeFault (({ s.withdrawWaits x.tile x.id with iss := {} } : State).modC x.tile fun c => c.unnote x) x.tile x.set i

/-- The operand set whose trap a frame handles (R35). -/
def CDom.trappedSet (c : CDom) (f : Nat) : Option OpSet :=
  c.sets.find? fun x => x.frame == f && x.kept && tagWord f x.inst x.p x.pd == (c.frame f).traptag

/-- RETURN FROM A TRAP (R345), at the commit of TRET's block instance, once the rest of the trap tree is discarded: every kept set
returns to COMPLETE; the frame is ACTIVE. A skip has dropped the first one with its block instance before. -/
def CDom.trapReturn (c : CDom) (f : Nat) : CDom :=
  let c := { c with loops := c.loops.keep fun _ l => !(l.frame == f && l.tt), calls := c.calls.keep fun _ l => !(l.frame == f && l.tt) }
  let sets : List OpSet := c.sets.map fun x => if x.frame = f then { x with kept := false } else x
  CDom.modFrame { c with sets := sets } f fun fr => { fr with st := .active }

end Sys2Proof.Machine
end

