-- ==== Sys2Proof/Machine/Operands.lean ====
section
/-! DEFINITION. The operand forms: sources, destinations, targets and pointers (R54, R96 to R100, R184 to R195,
R251). A slot operation reads and writes the bundle instance being issued, `State.iss`. -/

namespace Sys2Proof

open Machine

/-- The targets of a destination, in order. -/
def Dst.tgts : Dst → List Target
  | .targets a b => a.toList ++ b.toList
  | .targetLatch a _ => a.toList
  | _ => []

def VDst.tgts : VDst → List Target
  | .target t => t.toList
  | _ => []

def YDst.tgts : YDst → List Target
  | .target t => t.toList
  | _ => []

def Target.held (t : Target) (v : Val) : HeldTok := { top := t.top, bun := t.bun.toNat, port := t.port.toNat, val := v }

/-- Where the value of a wait goes. -/
def VDst.dest : VDst → Dest
  | .latch b => { latch := some b.toNat }
  | .reg r => { reg := some r.toNat }
  | .target t => { toks := t.toList }
  | .none => {}

def YDst.dest : YDst → Dest
  | .none => {}
  | .reg r => { reg := some r.toNat }
  | .target t => { toks := t.toList }

def Dst.dest : Dst → Dest
  | .latch b => { latch := some b.toNat }
  | .reg r => { reg := some r.toNat }
  | .targets a b => { toks := a.toList ++ b.toList }
  | .targetLatch a b => { latch := some b.toNat, toks := a.toList }

/-- The name-high word of a tile name. -/
def TileName.hi (n : TileName) : W64 := 0#8 ++ (n.ns ++ (n.tensor ++ (n.c0 ++ n.c1)))

/-- The name-low word of a tile name with a version. -/
def TileName.lo (n : TileName) (v : BitVec 16) : W64 := 0#24 ++ (n.c2 ++ (n.c3 ++ v))

def TileName.coord (n : TileName) (j : Nat) : Nat :=
  match j with
  | 0 => n.c0.toNat | 1 => n.c1.toNat | 2 => n.c2.toNat | _ => n.c3.toNat

def TileName.setCoord (n : TileName) (j v : Nat) : TileName :=
  let x := BitVec.ofNat 12 v
  match j with
  | 0 => { n with c0 := x } | 1 => { n with c1 := x } | 2 => { n with c2 := x } | _ => { n with c3 := x }

end Sys2Proof

namespace Sys2Proof.Machine

/-! ### Sources (R192 to R194, R251) -/

/-- The instance of a bundle instance, or a blank one at depth 0 where it is gone. -/
def Inst.blank (f : Nat) : Inst where
  frame := f
  gen := 0
  ppath := 0
  ppd := 0
  tt := false
  iter := 0
  runBase := 0
  runLen := 0
  loopId := 0
  depth := 0
  block := 0
  parent := 0x7FFF
  ctx := .root
  anc := []
  entry := false
  ordinal := 0
  stores := []
  fwrites := []
  effs := []
  held := []
  flags := 0
  term := none
  spawn := none
  issuedSpawn := false
  issuedTerm := false
  issuedTret := false
  finished := false

def CDom.instD (c : CDom) (f i : Nat) : Inst := (c.inst? i).getD { Inst.blank f with gen := i / 4096 % 8 }

/-- The instance of the bundle instance being issued. -/
def State.inst (s : State) : Inst := (s.c s.iss.tile).instD s.iss.set.frame s.iss.inst

/-- A frame register as of issue (R31). -/
def Frame.reg (f : Frame) (r : Nat) : W64 := f.regs.getD r 0

/-- ITER, or in a vector piece the piece's first iteration (R51, R192). -/
def State.iterVal (s : State) : W64 :=
  if s.iss.set.piece then s.iss.set.base.setWidth 64 else s.inst.iter.setWidth 64

/-- The port that did not take part under rule 1 reads zero (R56). -/
def Issue.portZero (i : Issue) (n : Nat) : Val :=
  match portKind i.bundle n with
  | .vector => .vector i.set.base (List.replicate i.set.len 0)
  | .order => .order
  | _ => .scalar 0

/-- What a source reads (R192). -/
def State.src (s : State) : Src → Val
  | .f r => .scalar (s.iss.frame.reg r.toNat)
  | .p n => (s.iss.set.ports.get? n.toNat).getD (s.iss.portZero n.toNat)
  | .b n => (s.iss.latches.getD n.toNat (0, .scalar 0)).2
  | .zero => .scalar 0
  | .tag => .scalar s.iss.tag
  | .iter => .scalar s.iterVal
  | .lanes => .vector s.iss.set.base ((List.range s.iss.set.len).map fun j => BitVec.ofNat 32 j)
  | .quartz => .scalar s.iss.tick
  | .privBase => .scalar (0xC#4 ++ (s.iss.frame.key ++ 0#40))
  | .lit k => .scalar (literal s.iss.bundle k.toNat)
  | .one => .scalar 1
  | .negOne => .scalar (-1)
  | .two => .scalar 2
  | .four => .scalar 4
  | .eight => .scalar 8
  | .sixteen => .scalar 16
  | .fOne => .scalar 0x3F800000
  | .fHalf => .scalar 0x3F000000

def Val.word : Val → W64
  | .scalar x => x
  | _ => 0

/-- A scalar operand. -/
def State.sc (s : State) (a : Src) : W64 := (s.src a).word

/-- The lanes of a value over a run of n lanes: a scalar is broadcast, lanes past a token's own length read zero
(R194, R251). -/
def Val.lanes (v : Val) (n : Nat) : List W32 :=
  match v with
  | .scalar x => List.replicate n (x.setWidth 32)
  | .vector _ l => (List.range n).map fun j => l.getD j 0
  | .order => List.replicate n 0

/-- A vector operand: its active lanes. -/
def State.vec (s : State) (a : Src) : List W32 := (s.src a).lanes s.iss.set.len

/-- A carried operand: the token its source delivers (R235). -/
def State.carried (s : State) (a : Src) : Val :=
  match s.src a with
  | .vector _ l => .vector s.iss.set.base ((Val.vector 0 l).lanes s.iss.set.len)
  | v => v

/-- A vector value over the operand set's run. -/
def State.vecVal (s : State) (l : List W32) : Val := .vector s.iss.set.base l

/-! ### Targets and destinations (R54, R61, R184, R187) -/

/-- The fault a tag-op takes in a bundle instance (R54, R61): none where the tag-op is allowed. -/
def topFault (pd : Nat) (ctx : Ctx) : TagOp → Option FaultInfo
  | .path0 | .path1 => if pd ≥ 8 then some { cause := .pathovf } else none
  | .strip => if pd = 0 then some { cause := .pathovf, cw1 := 1 } else none
  | .next => match ctx with | .iter _ _ => none | _ => some { cause := .illop }
  | .exit => match ctx with | .root => some { cause := .illop } | _ => none
  | _ => none

/-- The fault of a target whose token fires after commit (R61, R133): one that stays in the instance is only dropped. -/
def lateFault (ctx : Ctx) (t : Option Target) : Option FaultInfo :=
  match t with
  | some x => match x.top with
    | .next => topFault 0 ctx .next
    | .exit => topFault 0 ctx .exit
    | _ => none
  | none => none

def State.targetFault (s : State) (t : Option Target) : Option FaultInfo :=
  match t with
  | some x => topFault s.iss.set.pd s.inst.ctx x.top
  | none => none

/-- The first fault among targets. -/
def State.tgtsFault (s : State) (l : List Target) : Option FaultInfo := l.findSome? fun t => s.targetFault (some t)

/-- The issue with a token produced by the current slot (R187). -/
def Issue.put (i : Issue) (rank : Nat) (t : Option Target) (v : Val) : Issue :=
  match t with
  | some x => { i with toks := i.toks ++ [⟨i.slot, rank, x.held v⟩] }
  | none => i

/-- A latch written by a slot: a value of a higher slot, already there, stays (R187, R193). -/
def Issue.putLatch (i : Issue) (b slot : Nat) (v : Val) : Issue :=
  match i.latches.get? b with
  | some l => if slot < l.1 then i else { i with latches := i.latches.set b (slot, v) }
  | none => { i with latches := i.latches.set b (slot, v) }

def Issue.latch (i : Issue) (b : BitVec 2) (v : Val) : Issue := i.putLatch b.toNat i.slot v

/-- A frame-register write; a vector or order token leaves 0 there, and a latch that holds an order token reads as no value
(log 62: DESIGN CHOICE, unsafe). -/
def Issue.wreg (i : Issue) (r : BitVec 5) (v : Val) : Issue :=
  { i with fwrites := i.fwrites ++ [⟨i.set.bun, i.slot, r.toNat, v.word, i.set.p, i.set.pd⟩] }

/-- The issue with a value at a generic destination. -/
def Issue.dst (i : Issue) (d : Dst) (v : Val) : Issue :=
  match d with
  | .latch b => i.latch b v
  | .reg r => i.wreg r v
  | .targets a b => (i.put 0 a v).put 1 b v
  | .targetLatch a b => (i.put 0 a v).latch b v

def Issue.vdst (i : Issue) (d : VDst) (v : Val) : Issue :=
  match d with
  | .latch b => i.latch b v
  | .reg r => i.wreg r v
  | .target t => i.put 0 t v
  | .none => i

def Issue.ydst (i : Issue) (d : YDst) (v : Val) : Issue :=
  match d with
  | .none => i
  | .reg r => i.wreg r v
  | .target t => i.put 0 t v

/-- The bundle instance being issued, changed. -/
def State.modIss (s : State) (f : Issue → Issue) : State := { s with iss := f s.iss }

/-- A value at a generic destination, or the fault of one of its tag-ops. -/
def State.deliver (s : State) (d : Dst) (v : Val) : State :=
  match s.tgtsFault d.tgts with
  | some i => s.fault i
  | none => s.modIss fun i => i.dst d v

/-- The value a destination's targets take when v0 goes to target 0 and v1 to target 1 (R240, R263, R266); any
other destination takes v0. -/
def State.twoTargets (s : State) (d : Dst) (v0 v1 : Val) : State :=
  match s.tgtsFault d.tgts with
  | some f => s.fault f
  | none => s.modIss fun i =>
    match d with
    | .targets t0 t1 => (i.put 0 t0 v0).put 1 t1 v1
    | d => i.dst d v0

/-- As `deliver`, for the system format. -/
def State.deliverY (s : State) (d : YDst) (v : Val) : State :=
  match s.tgtsFault d.tgts with
  | some i => s.fault i
  | none => s.modIss fun i => i.ydst d v

def doneDest (t : Option Target) : Dest := { toks := t.toList }

/-- A value put at a destination on behalf of a slot: values rank before done tokens (R187). -/
def Issue.putDest (i : Issue) (slot rank : Nat) (d : Dest) (v : Val) : Issue :=
  let i := match d.latch with | some b => i.putLatch b slot v | none => i
  let i := match d.reg with
    | some r => { i with fwrites := i.fwrites ++ [FWrite.mk i.set.bun slot r v.word i.set.p i.set.pd] }
    | none => i
  { i with toks := i.toks ++ (List.range d.toks.length).filterMap fun k =>
      (d.toks[k]?).map fun (t : Target) => OutTok.mk slot (rank + k) (t.held v) }

/-- The identity of the next wait: above that of every wait that has not ended. -/
def Issue.nextWait (i : Issue) : Nat := i.waits.foldl (fun n q => max n (q.id + 1)) 0

/-- A wait added to the bundle instance being issued. -/
def State.addWait (s : State) (w : Wait) (dst done : Dest) (acq : Bool := false) (line : Option (Option W64 × Bool) := none) : State :=
  s.modIss fun i => { i with waits := i.waits ++ [{ id := i.nextWait, slot := i.slot, wait := w, dst := dst, done := done, acq := acq, line := line }] }

/-- A buffered effect of the current slot. -/
def State.addEff (s : State) (e : Eff) : State :=
  s.modIss fun i => { i with effs := i.effs ++ [{ e with bun := i.set.bun, slot := i.slot, p := i.set.p, pd := i.set.pd }] }

/-! ### Pointers (R96 to R100, R232) -/

/-- The kind of a pointer's window: 0 global, 1 private, 2 scratch, 3 field-shared, 7 none (R96, R100). -/
def ptrKind (p : W64) : Nat :=
  match p.extractLsb' 60 4 with
  | 0x0#4 => 0 | 0xC#4 => 1 | 0xD#4 => 2 | 0xE#4 => 3 | _ => 7

/-- The offset of a pointer in its window. -/
def ptrOff (p : W64) : Nat :=
  match ptrKind p with
  | 1 => bits p 15 0
  | 2 => bits p 19 0
  | 3 => bits p 23 0
  | _ => bits p 55 0

/-- The offset width of ADDA (R232). -/
def offsetWidth (p : W64) : Nat :=
  match p.extractLsb' 60 4 with
  | 0x0#4 => 56 | 0xC#4 => 16 | 0xD#4 => 20 | 0xE#4 => 24 | _ => 64

/-- ADDA (R232): B added to the offset field, window and key unchanged. -/
def adda (a b : W64) : W64 :=
  let k := offsetWidth a
  w64 (a.toNat / 2 ^ k * 2 ^ k + (a.toNat + b.toNat) % 2 ^ k)

/-- What the checks of R97 need to know of the accessing frame. -/
structure Access where
  key : BitVec 20
  privkb : Nat
  scrkb : Nat
  nfields : Nat
  deriving DecidableEq, Repr

def State.access (s : State) (t : Nat) (f : Frame) : Access :=
  ⟨f.key, f.task.privkb, f.task.scrkb, s.fieldCount t⟩

/-- The access of the bundle instance being issued. -/
def State.acc (s : State) : Access := s.access s.iss.tile s.iss.frame

/-- The bits of the window that must be zero are zero (R97 check 2). -/
def zeroBitsOk (p : W64) : Bool :=
  match ptrKind p with
  | 0 => bits p 59 56 == 0
  | 1 => bits p 39 16 == 0
  | 2 => bits p 39 20 == 0
  | 3 => bits p 53 24 == 0
  | _ => false

/-- The owner key of a pointer passes (R97 check 3). -/
def keyOk (x : Access) (p : W64) : Bool :=
  match ptrKind p with
  | 1 | 2 => p.extractLsb' 40 20 == x.key
  | _ => true

/-- The field ordinal passes (R97 check 4). -/
def ordinalOk (x : Access) (p : W64) : Bool := ptrKind p != 3 || decide (bits p 59 54 < x.nfields)

/-- The first offset past the window (R96). -/
def ptrLimit (x : Access) (p : W64) : Nat :=
  match ptrKind p with
  | 1 => x.privkb * 1024
  | 2 => min (x.scrkb * 1024) 786432
  | 3 => 10485760
  | _ => 2 ^ 56

/-- Every byte lies within the valid offsets (R97 check 5); of no bytes, the offset is no greater than their end (log 122: DESIGN CHOICE, unsafe). -/
def rangeOk (x : Access) (p : W64) (len : Nat) : Bool := decide (ptrOff p + len ≤ ptrLimit x p)

/-- The number of the first check of R97 that fails for `len` bytes at width `width`, or 0. -/
def ptrCheck (x : Access) (p : W64) (len width : Nat) : Nat :=
  if ptrKind p = 7 then 1
  else if !zeroBitsOk p then 2
  else if !keyOk x p then 3
  else if !ordinalOk x p then 4
  else if !rangeOk x p len then 5
  else if p.toNat % width != 0 then 6
  else 0

/-- The fault of a check of R97. -/
def checkCause (n : Nat) : Cause := if n = 3 then .scrforeign else if n = 6 then .align else .winfault

/-- The fault of an access, if any: its address word holds the pointer (R97, R343). -/
def ptrFault (x : Access) (p : W64) (len width lane : Nat) : Option FaultInfo :=
  match ptrCheck x p len width with
  | 0 => none
  | n => some { cause := checkCause n, addr := p, lane := lane }

/-- A pointer to local memory (R126). -/
def isLocal (p : W64) : Bool := ptrKind p == 1 || ptrKind p == 2

/-- The scratchpad address of a local pointer (R21). -/
def Frame.localAddr (f : Frame) (p : W64) : Nat :=
  if ptrKind p = 1 then f.privBase + ptrOff p else f.scrBase + ptrOff p

/-- MKWIN (R100): the pointer of an offset in a window of the frame, or WINFAULT. -/
def mkwin (x : Access) (ord : Nat) (kind : BitVec 2) (off : W64) : Option W64 :=
  match kind with
  | 0#2 => if off.toNat < 2 ^ 56 then some off else none
  | 1#2 => if off.toNat < x.privkb * 1024 then some (0xC#4 ++ (x.key ++ off.extractLsb' 0 40)) else none
  | 2#2 => if off.toNat < min (x.scrkb * 1024) 786432 then some (0xD#4 ++ (x.key ++ off.extractLsb' 0 40)) else none
  | _ => if off.toNat < 10485760 then some (0xE#4 ++ (BitVec.ofNat 6 ord ++ off.extractLsb' 0 54)) else none

/-! ### Names (R72, R313) -/

/-- The tile name of two name words. -/
def nameOf (hi lo : W64) : TileName :=
  ⟨hi.extractLsb' 44 12, hi.extractLsb' 24 20, hi.extractLsb' 12 12, hi.extractLsb' 0 12, lo.extractLsb' 28 12,
   lo.extractLsb' 16 12⟩

def nameVer (lo : W64) : BitVec 16 := lo.extractLsb' 0 16

/-- The extent of coordinate j, minus 1 (R75). -/
def Binding.extent (b : Binding) (j : Nat) : Nat := b.ext.getD j 0

/-- The checks of R313 on a name: the cause of the first that fails. -/
def nameCheck (p : Partition) (frame : Nat) (hi lo : W64) (mask : BitVec 4) (partial_ : Bool) (claim : Bool) :
    Option Cause :=
  let n := nameOf hi lo
  let b := p.binding n.ns n.tensor
  if bits hi 63 56 != 0 || (if partial_ then bits lo 63 56 != 0 else bits lo 63 40 != 0) then some .namecfg
  else if frame != 63 && n.ns == 0 then some .priv
  else match b with
    | none => some .namecfg
    | some b =>
      if !(b.kind == 1 || (b.kind == 2 && !claim)) then some .namecfg
      else if (List.range 4).all fun j =>
        if mask.getLsbD j then n.coord j == 0 else decide (n.coord j ≤ b.extent j) then none
      else some .namecfg

/-- The concrete names a mask covers, c0 outermost, ascending (R77). -/
def expandNames (b : Binding) (n : TileName) (mask : BitVec 4) : List TileName :=
  (List.range 4).foldl (fun l j =>
    if mask.getLsbD j then l.flatMap fun m => (List.range (b.extent j + 1)).map fun v => m.setCoord j v else l) [n]

end Sys2Proof.Machine
end

