-- ==== Sys2Proof/Machine/Checks.lean ====
section
/-! DEFINITION. The checks of a bundle instance at issue (R31, R182, R193, R194, R201 to R203): for each instruction
the operands it reads with their marks, where its value goes, and the order of the checks over a bundle's slots. -/

namespace Sys2Proof.Machine

/-- The mark of an operand (R194, R223, R235, R299, R306). -/
inductive OpKind where
  | scalar | vector | carried | declared | evenReg | order | orderOpt | ordIn
  deriving DecidableEq, Repr

/-- Where a value goes. -/
inductive ResultDst where
  | gen (d : Dst)
  | val (v : VDst)
  | sys (y : YDst)
  deriving DecidableEq, Repr

/-- The kind of a value. -/
inductive ResultKind where
  | scalar | vector | order
  | carriedBy (a : Src)
  deriving DecidableEq, Repr

/-- The operands an instruction reads, each with the mark its operand table gives it (R194). -/
def uses : Instr → List (OpKind × Src)
  | .add _ a b _ => [(.scalar, a), (.scalar, b)]
  | .sub _ a b _ => [(.scalar, a), (.scalar, b)]
  | .mul _ a b _ => [(.scalar, a), (.scalar, b)]
  | .mulh _ a b _ => [(.scalar, a), (.scalar, b)]
  | .div _ a b _ => [(.scalar, a), (.scalar, b)]
  | .rem _ a b _ => [(.scalar, a), (.scalar, b)]
  | .absOp _ a _ => [(.scalar, a)]
  | .andOp _ a b _ => [(.scalar, a), (.scalar, b)]
  | .orOp _ a b _ => [(.scalar, a), (.scalar, b)]
  | .xor _ a b _ => [(.scalar, a), (.scalar, b)]
  | .andn _ a b _ => [(.scalar, a), (.scalar, b)]
  | .shl _ a b _ => [(.scalar, a), (.scalar, b)]
  | .shr _ a b _ => [(.scalar, a), (.scalar, b)]
  | .sra _ a b _ => [(.scalar, a), (.scalar, b)]
  | .rol _ a b _ => [(.scalar, a), (.scalar, b)]
  | .min _ a b _ => [(.scalar, a), (.scalar, b)]
  | .max _ a b _ => [(.scalar, a), (.scalar, b)]
  | .clz _ a _ => [(.scalar, a)]
  | .ctz _ a _ => [(.scalar, a)]
  | .popc _ a _ => [(.scalar, a)]
  | .brev _ a _ => [(.scalar, a)]
  | .bfx _ a b _ => [(.scalar, a), (.scalar, b)]
  | .bfi _ a b c _ => [(.scalar, a), (.scalar, b), (.scalar, c)]
  | .ceq _ a b _ => [(.scalar, a), (.scalar, b)]
  | .cne _ a b _ => [(.scalar, a), (.scalar, b)]
  | .clt _ a b _ => [(.scalar, a), (.scalar, b)]
  | .cle _ a b _ => [(.scalar, a), (.scalar, b)]
  | .sel a b c _ => [(.scalar, a), (.scalar, b), (.scalar, c)]
  | .mov _ a _ => [(.scalar, a)]
  | .fadd _ a b _ => [(.scalar, a), (.scalar, b)]
  | .fsub _ a b _ => [(.scalar, a), (.scalar, b)]
  | .fmul _ a b _ => [(.scalar, a), (.scalar, b)]
  | .fma _ a b c _ => [(.scalar, a), (.scalar, b), (.scalar, c)]
  | .fmin _ a b _ => [(.scalar, a), (.scalar, b)]
  | .fmax _ a b _ => [(.scalar, a), (.scalar, b)]
  | .fcmp _ a b _ => [(.scalar, a), (.scalar, b)]
  | .fcvt _ a b c _ => [(.scalar, a), (.scalar, b), (.scalar, c)]
  | .fclass _ a _ => [(.scalar, a)]
  | .adda a b _ => [(.scalar, a), (.scalar, b)]
  | .spq a _ => [(.scalar, a)]
  | .spcvTooff _ a _ => [(.scalar, a)]
  | .spcvToptr _ a _ => [(.scalar, a)]
  | .mkwin _ a _ => [(.scalar, a)]
  | .nameh a b c _ => [(.scalar, a), (.scalar, b), (.scalar, c)]
  | .namel a b c _ => [(.scalar, a), (.scalar, b), (.scalar, c)]
  | .steer a b _ => [(.scalar, a), (.carried, b)]
  | .loop a b c _ => [(.scalar, a), (.scalar, b), (.scalar, c)]
  | .loopVec a b c _ => [(.scalar, a), (.scalar, b), (.scalar, c)]
  | .whileOp a c _ => [(.carried, a), (.scalar, c)]
  | .exitOp a b _ => [(.carried, a), (.carried, b)]
  | .join a b c _ => [(.carried, a), (.declared, b), (.declared, c)]
  | .goto c => [(.scalar, c)]
  | .callb a b c _ => [(.carried, a), (.carried, b), (.scalar, c)]
  | .retb a b _ => [(.carried, a), (.carried, b)]
  | .gate a b _ => [(.carried, a), (.scalar, b)]
  | .tagq _ a _ => [(.scalar, a)]
  | .frameq a _ => [(.scalar, a)]
  | .qtime a _ => [(.scalar, a)]
  | .vadd _ a b _ => [(.vector, a), (.vector, b)]
  | .vsub _ a b _ => [(.vector, a), (.vector, b)]
  | .vmul _ a b _ => [(.vector, a), (.vector, b)]
  | .vfma _ a b c _ => [(.vector, a), (.vector, b), (.vector, c)]
  | .vfms _ a b c _ => [(.vector, a), (.vector, b), (.vector, c)]
  | .vfnma _ a b c _ => [(.vector, a), (.vector, b), (.vector, c)]
  | .vmin _ a b _ => [(.vector, a), (.vector, b)]
  | .vmax _ a b _ => [(.vector, a), (.vector, b)]
  | .vabs _ a _ => [(.vector, a)]
  | .vneg _ a _ => [(.vector, a)]
  | .vmulh _ a b _ => [(.vector, a), (.vector, b)]
  | .vclamp _ a b c _ => [(.vector, a), (.vector, b), (.vector, c)]
  | .vand _ a b _ => [(.vector, a), (.vector, b)]
  | .vor _ a b _ => [(.vector, a), (.vector, b)]
  | .vxor _ a b _ => [(.vector, a), (.vector, b)]
  | .vandn _ a b _ => [(.vector, a), (.vector, b)]
  | .vshl _ a b _ => [(.vector, a), (.vector, b)]
  | .vshr _ a b _ => [(.vector, a), (.vector, b)]
  | .vsra _ a b _ => [(.vector, a), (.vector, b)]
  | .vclz _ a _ => [(.vector, a)]
  | .vpopc _ a _ => [(.vector, a)]
  | .vceq _ a b _ => [(.vector, a), (.vector, b)]
  | .vcne _ a b _ => [(.vector, a), (.vector, b)]
  | .vclt _ a b _ => [(.vector, a), (.vector, b)]
  | .vcle _ a b _ => [(.vector, a), (.vector, b)]
  | .vcun _ a b _ => [(.vector, a), (.vector, b)]
  | .vsel _ a b c _ => [(.vector, a), (.vector, b), (.vector, c)]
  | .vclass _ a _ => [(.vector, a)]
  | .vcvt _ a b c _ => [(.vector, a), (.scalar, b), (.scalar, c)]
  | .vrndi _ a b _ => [(.vector, a), (.scalar, b)]
  | .vcvti _ a b _ => [(.vector, a), (.scalar, b)]
  | .vpack _ a b c _ => [(.vector, a), (.vector, b), (.scalar, c)]
  | .vunpk _ a b _ => [(.vector, a), (.scalar, b)]
  | .vqnt a b _ => [(.vector, a), (.scalar, b)]
  | .vdqnt a b c _ => [(.vector, a), (.scalar, b), (.scalar, c)]
  | .vrcp a _ => [(.vector, a)]
  | .vrsq a _ => [(.vector, a)]
  | .vfexp a _ => [(.vector, a)]
  | .vflog a _ => [(.vector, a)]
  | .vscx a b _ => [(.vector, a), (.vector, b)]
  | .vgetx a _ => [(.vector, a)]
  | .vgetm a _ => [(.vector, a)]
  | .vbcast a b _ => [(.vector, a), (.scalar, b)]
  | .vextr a b _ => [(.vector, a), (.scalar, b)]
  | .vperm a b _ => [(.vector, a), (.vector, b)]
  | .vshfl a b _ => [(.vector, a), (.scalar, b)]
  | .vsum _ a _ => [(.vector, a)]
  | .vmaxr _ a _ => [(.vector, a)]
  | .vminr _ a _ => [(.vector, a)]
  | .vscan _ a _ => [(.vector, a)]
  | .viota a b _ => [(.scalar, a), (.scalar, b)]
  | .vcmpr a b _ => [(.vector, a), (.vector, b)]
  | .vrun a b c _ => [(.vector, a), (.scalar, b), (.scalar, c)]
  | .mcfg _ a => [(.scalar, a)]
  | .msrca _ a b => [(.scalar, a), (.scalar, b)]
  | .msrcb _ a b => [(.scalar, a), (.scalar, b)]
  | .marm _ a => [(.scalar, a)]
  | .mloadc _ a b => [(.scalar, a), (.scalar, b)]
  | .mdrain _ a b => [(.scalar, a), (.scalar, b)]
  | .mscale _ a => [(.scalar, a)]
  | .msort _ a b _ => [(.scalar, a), (.scalar, b)]
  | .tslotAlloc a b => [(.scalar, a), (.scalar, b)]
  | .tslotFree a => [(.scalar, a)]
  | .tslotqNow a _ => [(.scalar, a)]
  | .tslotqFull a _ => [(.scalar, a)]
  | .tslotqEmpty a _ => [(.scalar, a)]
  | .tsetEmpty a => [(.scalar, a)]
  | .tsetFull a => [(.scalar, a)]
  | .tsetRow a b c => [(.scalar, a), (.vector, b), (.scalar, c)]
  | .tsetRowfull a b c => [(.scalar, a), (.vector, b), (.scalar, c)]
  | .ld _ a b ord _ _ => [(.scalar, a), (.scalar, b), (.ordIn, ord)]
  | .ldv _ a b ord _ _ => [(.scalar, a), (.scalar, b), (.ordIn, ord)]
  | .lds _ a b ord _ _ => [(.scalar, a), (.scalar, b), (.ordIn, ord)]
  | .ldx _ a b ord _ _ => [(.evenReg, a), (.vector, b), (.ordIn, ord)]
  | .ldag _ a b ord _ _ => [(.scalar, a), (.scalar, b), (.ordIn, ord)]
  | .ldq _ a b ord _ _ => [(.scalar, a), (.scalar, b), (.ordIn, ord)]
  | .ldacq _ a b ord _ _ => [(.scalar, a), (.scalar, b), (.ordIn, ord)]
  | .pref _ a b ord => [(.scalar, a), (.scalar, b), (.ordIn, ord)]
  | .stashq a ord _ _ => [(.scalar, a), (.ordIn, ord)]
  | .st _ _ a b e ord _ => [(.scalar, a), (.scalar, b), (.scalar, e), (.ordIn, ord)]
  | .stv _ _ a b e ord _ => [(.scalar, a), (.vector, b), (.scalar, e), (.ordIn, ord)]
  | .sts _ _ a b e ord _ => [(.scalar, a), (.vector, b), (.scalar, e), (.ordIn, ord)]
  | .stx _ _ a b e ord _ => [(.evenReg, a), (.vector, b), (.vector, e), (.ordIn, ord)]
  | .stag _ _ a b e ord _ => [(.scalar, a), (.vector, b), (.scalar, e), (.ordIn, ord)]
  | .strel _ _ a b e ord _ => [(.scalar, a), (.scalar, b), (.scalar, e), (.ordIn, ord)]
  | .aadd _ _ a b ord _ _ => [(.scalar, a), (.scalar, b), (.ordIn, ord)]
  | .amin _ _ a b e ord _ _ => [(.scalar, a), (.scalar, b), (.scalar, e), (.ordIn, ord)]
  | .amax _ _ a b e ord _ _ => [(.scalar, a), (.scalar, b), (.scalar, e), (.ordIn, ord)]
  | .aand _ _ a b ord _ _ => [(.scalar, a), (.scalar, b), (.ordIn, ord)]
  | .aor _ _ a b ord _ _ => [(.scalar, a), (.scalar, b), (.ordIn, ord)]
  | .axor _ _ a b ord _ _ => [(.scalar, a), (.scalar, b), (.ordIn, ord)]
  | .axchg _ _ a b ord _ _ => [(.scalar, a), (.scalar, b), (.ordIn, ord)]
  | .acas _ _ a b e ord _ _ => [(.scalar, a), (.scalar, b), (.scalar, e), (.ordIn, ord)]
  | .afadd _ _ a b ord _ _ => [(.scalar, a), (.scalar, b), (.ordIn, ord)]
  | .afadd2 _ _ a b e ord _ _ => [(.scalar, a), (.scalar, b), (.scalar, e), (.ordIn, ord)]
  | .aincw _ _ a b ord _ _ => [(.scalar, a), (.scalar, b), (.ordIn, ord)]
  | .adecw _ _ a b ord _ _ => [(.scalar, a), (.scalar, b), (.ordIn, ord)]
  | .drain _ ord _ => [(.ordIn, ord)]
  | .ordjoin a b e ord _ => [(.order, a), (.orderOpt, b), (.orderOpt, e), (.ordIn, ord)]
  | .pfence _ ord _ => [(.ordIn, ord)]
  | .flushsLine _ a ord _ => [(.scalar, a), (.ordIn, ord)]
  | .flushsAll _ ord _ => [(.ordIn, ord)]
  | .invsLine _ a ord _ => [(.scalar, a), (.ordIn, ord)]
  | .invsAll _ ord _ => [(.ordIn, ord)]
  | .pubt a b e ord _ => [(.scalar, a), (.scalar, b), (.scalar, e), (.ordIn, ord)]
  | .pubr _ a b e ord _ => [(.scalar, a), (.scalar, b), (.scalar, e), (.ordIn, ord)]
  | .subn a b e ord _ => [(.scalar, a), (.scalar, b), (.scalar, e), (.ordIn, ord)]
  | .subnAgain a b e ord _ => [(.scalar, a), (.scalar, b), (.scalar, e), (.ordIn, ord)]
  | .unsub a ord _ => [(.scalar, a), (.ordIn, ord)]
  | .claim a b ord _ => [(.scalar, a), (.scalar, b), (.ordIn, ord)]
  | .retain a b e ord _ => [(.scalar, a), (.scalar, b), (.scalar, e), (.ordIn, ord)]
  | .sopen a b e ord _ => [(.scalar, a), (.scalar, b), (.scalar, e), (.ordIn, ord)]
  | .sclose a ord _ => [(.scalar, a), (.ordIn, ord)]
  | .spop a ord _ _ => [(.scalar, a), (.ordIn, ord)]
  | .spopKeep a ord _ _ => [(.scalar, a), (.ordIn, ord)]
  | .circ a b e ord _ => [(.scalar, a), (.scalar, b), (.scalar, e), (.ordIn, ord)]
  | .circrel a b ord _ => [(.scalar, a), (.scalar, b), (.ordIn, ord)]
  | .coll _ a b e ord _ => [(.scalar, a), (.scalar, b), (.scalar, e), (.ordIn, ord)]
  | .copy a b e ord _ _ => [(.scalar, a), (.scalar, b), (.scalar, e), (.ordIn, ord)]
  | .copyx _ a b e ord _ _ => [(.scalar, a), (.evenReg, b), (.vector, e), (.ordIn, ord)]
  | .agcfg _ a ord _ => [(.scalar, a), (.ordIn, ord)]
  | .agfree _ ord _ => [(.ordIn, ord)]
  | .wuntil a ord _ => [(.scalar, a), (.ordIn, ord)]
  | .barc a b ord _ => [(.scalar, a), (.scalar, b), (.ordIn, ord)]
  | .barcReset a b ord _ => [(.scalar, a), (.scalar, b), (.ordIn, ord)]
  | .bara _ a b ord _ => [(.scalar, a), (.scalar, b), (.ordIn, ord)]
  | .barw a b ord _ _ => [(.scalar, a), (.scalar, b), (.ordIn, ord)]
  | .sigadd _ a b ord => [(.scalar, a), (.scalar, b), (.ordIn, ord)]
  | .sigwait a b ord _ => [(.scalar, a), (.scalar, b), (.ordIn, ord)]
  | .tspawn a ord _ => [(.scalar, a), (.ordIn, ord)]
  | .tend ord => [(.ordIn, ord)]
  | .trapRaise a ord => [(.scalar, a), (.ordIn, ord)]
  | .trapVec a ord => [(.scalar, a), (.ordIn, ord)]
  | .tretRetry ord => [(.ordIn, ord)]
  | .tretSkip ord => [(.ordIn, ord)]
  | .fmtw a ord _ => [(.scalar, a), (.ordIn, ord)]
  | .fmtr ord _ _ => [(.ordIn, ord)]
  | .trace _ a b ord => [(.scalar, a), (.scalar, b), (.ordIn, ord)]
  | .brk _ ord => [(.ordIn, ord)]
  | .pmodeDurable ord => [(.ordIn, ord)]
  | .pmodeRestartable ord => [(.ordIn, ord)]
  | .csrr ord _ _ => [(.ordIn, ord)]
  | .csrw a ord _ => [(.scalar, a), (.ordIn, ord)]
  | .tlbinvAll a b ord _ => [(.scalar, a), (.scalar, b), (.ordIn, ord)]
  | .tlbinvAsid a b ord _ => [(.scalar, a), (.scalar, b), (.ordIn, ord)]
  | .tlbinvPage a b ord _ => [(.scalar, a), (.scalar, b), (.ordIn, ord)]
  | .nsbind a ord _ => [(.scalar, a), (.ordIn, ord)]
  | .parkStop a ord _ => [(.scalar, a), (.ordIn, ord)]
  | .parkResume a ord _ => [(.scalar, a), (.ordIn, ord)]
  | .frkill a b ord _ => [(.scalar, a), (.scalar, b), (.ordIn, ord)]
  | .tmove a b ord _ => [(.scalar, a), (.scalar, b), (.ordIn, ord)]
  | .preemptStop a b ord _ => [(.scalar, a), (.scalar, b), (.ordIn, ord)]
  | .preemptResume a b ord _ => [(.scalar, a), (.scalar, b), (.ordIn, ord)]
  | .routew a b ord _ => [(.scalar, a), (.scalar, b), (.ordIn, ord)]
  | .slateqRec a ord _ => [(.scalar, a), (.ordIn, ord)]
  | .slateqSector a ord _ => [(.scalar, a), (.ordIn, ord)]
  | .slateqDrec a ord _ => [(.scalar, a), (.ordIn, ord)]
  | .watchArrive _ a b ord _ _ => [(.scalar, a), (.scalar, b), (.ordIn, ord)]
  | .watchLast _ a b ord _ _ => [(.scalar, a), (.scalar, b), (.ordIn, ord)]
  | .watchFlip _ a b ord _ _ => [(.scalar, a), (.scalar, b), (.ordIn, ord)]
  | _ => []

/-- Where an instruction writes its value, and the kind of that value. -/
def result : Instr → ResultDst × ResultKind
  | .add _ _ _ d => (.gen d, .scalar)
  | .sub _ _ _ d => (.gen d, .scalar)
  | .mul _ _ _ d => (.gen d, .scalar)
  | .mulh _ _ _ d => (.gen d, .scalar)
  | .div _ _ _ d => (.gen d, .scalar)
  | .rem _ _ _ d => (.gen d, .scalar)
  | .absOp _ _ d => (.gen d, .scalar)
  | .andOp _ _ _ d => (.gen d, .scalar)
  | .orOp _ _ _ d => (.gen d, .scalar)
  | .xor _ _ _ d => (.gen d, .scalar)
  | .andn _ _ _ d => (.gen d, .scalar)
  | .shl _ _ _ d => (.gen d, .scalar)
  | .shr _ _ _ d => (.gen d, .scalar)
  | .sra _ _ _ d => (.gen d, .scalar)
  | .rol _ _ _ d => (.gen d, .scalar)
  | .min _ _ _ d => (.gen d, .scalar)
  | .max _ _ _ d => (.gen d, .scalar)
  | .clz _ _ d => (.gen d, .scalar)
  | .ctz _ _ d => (.gen d, .scalar)
  | .popc _ _ d => (.gen d, .scalar)
  | .brev _ _ d => (.gen d, .scalar)
  | .bfx _ _ _ d => (.gen d, .scalar)
  | .bfi _ _ _ _ d => (.gen d, .scalar)
  | .ceq _ _ _ d => (.gen d, .scalar)
  | .cne _ _ _ d => (.gen d, .scalar)
  | .clt _ _ _ d => (.gen d, .scalar)
  | .cle _ _ _ d => (.gen d, .scalar)
  | .sel _ _ _ d => (.gen d, .scalar)
  | .mov _ _ d => (.gen d, .scalar)
  | .fadd _ _ _ d => (.gen d, .scalar)
  | .fsub _ _ _ d => (.gen d, .scalar)
  | .fmul _ _ _ d => (.gen d, .scalar)
  | .fma _ _ _ _ d => (.gen d, .scalar)
  | .fmin _ _ _ d => (.gen d, .scalar)
  | .fmax _ _ _ d => (.gen d, .scalar)
  | .fcmp _ _ _ d => (.gen d, .scalar)
  | .fcvt _ _ _ _ d => (.gen d, .scalar)
  | .fclass _ _ d => (.gen d, .scalar)
  | .adda _ _ d => (.gen d, .scalar)
  | .spq _ d => (.gen d, .scalar)
  | .spcvTooff _ _ d => (.gen d, .scalar)
  | .spcvToptr _ _ d => (.gen d, .scalar)
  | .mkwin _ _ d => (.gen d, .scalar)
  | .nameh _ _ _ d => (.gen d, .scalar)
  | .namel _ _ _ d => (.gen d, .scalar)
  | .steer _ b d => (.gen d, (.carriedBy b))
  | .merge d => (.gen d, .scalar)
  | .loop _ _ _ d => (.gen d, .scalar)
  | .loopVec _ _ _ d => (.gen d, .scalar)
  | .whileOp _ _ d => (.gen d, .scalar)
  | .exitOp _ _ d => (.gen d, .scalar)
  | .join a _ _ d => (.gen d, (.carriedBy a))
  | .callb _ _ _ d => (.gen d, .scalar)
  | .retb _ _ d => (.gen d, .scalar)
  | .gate a _ d => (.gen d, (.carriedBy a))
  | .tagq _ _ d => (.gen d, .scalar)
  | .frameq _ d => (.gen d, .scalar)
  | .qtime _ d => (.gen d, .scalar)
  | .vadd _ _ _ d => (.gen d, .vector)
  | .vsub _ _ _ d => (.gen d, .vector)
  | .vmul _ _ _ d => (.gen d, .vector)
  | .vfma _ _ _ _ d => (.gen d, .vector)
  | .vfms _ _ _ _ d => (.gen d, .vector)
  | .vfnma _ _ _ _ d => (.gen d, .vector)
  | .vmin _ _ _ d => (.gen d, .vector)
  | .vmax _ _ _ d => (.gen d, .vector)
  | .vabs _ _ d => (.gen d, .vector)
  | .vneg _ _ d => (.gen d, .vector)
  | .vmulh _ _ _ d => (.gen d, .vector)
  | .vclamp _ _ _ _ d => (.gen d, .vector)
  | .vand _ _ _ d => (.gen d, .vector)
  | .vor _ _ _ d => (.gen d, .vector)
  | .vxor _ _ _ d => (.gen d, .vector)
  | .vandn _ _ _ d => (.gen d, .vector)
  | .vshl _ _ _ d => (.gen d, .vector)
  | .vshr _ _ _ d => (.gen d, .vector)
  | .vsra _ _ _ d => (.gen d, .vector)
  | .vclz _ _ d => (.gen d, .vector)
  | .vpopc _ _ d => (.gen d, .vector)
  | .vceq _ _ _ d => (.gen d, .vector)
  | .vcne _ _ _ d => (.gen d, .vector)
  | .vclt _ _ _ d => (.gen d, .vector)
  | .vcle _ _ _ d => (.gen d, .vector)
  | .vcun _ _ _ d => (.gen d, .vector)
  | .vsel _ _ _ _ d => (.gen d, .vector)
  | .vclass _ _ d => (.gen d, .vector)
  | .vcvt _ _ _ _ d => (.gen d, .vector)
  | .vrndi _ _ _ d => (.gen d, .vector)
  | .vcvti _ _ _ d => (.gen d, .vector)
  | .vpack _ _ _ _ d => (.gen d, .vector)
  | .vunpk _ _ _ d => (.gen d, .vector)
  | .vqnt _ _ d => (.gen d, .vector)
  | .vdqnt _ _ _ d => (.gen d, .vector)
  | .vrcp _ d => (.gen d, .vector)
  | .vrsq _ d => (.gen d, .vector)
  | .vfexp _ d => (.gen d, .vector)
  | .vflog _ d => (.gen d, .vector)
  | .vscx _ _ d => (.gen d, .vector)
  | .vgetx _ d => (.gen d, .vector)
  | .vgetm _ d => (.gen d, .vector)
  | .vbcast _ _ d => (.gen d, .vector)
  | .vextr _ _ d => (.gen d, .scalar)
  | .vperm _ _ d => (.gen d, .vector)
  | .vshfl _ _ d => (.gen d, .vector)
  | .vsum _ _ d => (.gen d, .scalar)
  | .vmaxr _ _ d => (.gen d, .scalar)
  | .vminr _ _ d => (.gen d, .scalar)
  | .vscan _ _ d => (.gen d, .vector)
  | .viota _ _ d => (.gen d, .vector)
  | .vcmpr _ _ d => (.gen d, .vector)
  | .vrun _ _ _ d => (.gen d, .vector)
  | .msort _ _ _ d => (.gen d, .vector)
  | .mstat _ d => (.gen d, .scalar)
  | .tslotqNow _ d => (.gen d, .scalar)
  | .tslotqFull _ d => (.gen d, .order)
  | .tslotqEmpty _ d => (.gen d, .order)
  | .ld _ _ _ _ v _ => (.val v, .scalar)
  | .ldv _ _ _ _ v _ => (.val v, .vector)
  | .lds _ _ _ _ v _ => (.val v, .vector)
  | .ldx _ _ _ _ v _ => (.val v, .vector)
  | .ldag _ _ _ _ v _ => (.val v, .vector)
  | .ldq _ _ _ _ v _ => (.val v, .scalar)
  | .ldacq _ _ _ _ v _ => (.val v, .scalar)
  | .stashq _ _ v _ => (.val v, .scalar)
  | .aadd _ _ _ _ _ v _ => (.val v, .scalar)
  | .amin _ _ _ _ _ _ v _ => (.val v, .scalar)
  | .amax _ _ _ _ _ _ v _ => (.val v, .scalar)
  | .aand _ _ _ _ _ v _ => (.val v, .scalar)
  | .aor _ _ _ _ _ v _ => (.val v, .scalar)
  | .axor _ _ _ _ _ v _ => (.val v, .scalar)
  | .axchg _ _ _ _ _ v _ => (.val v, .scalar)
  | .acas _ _ _ _ _ _ v _ => (.val v, .scalar)
  | .afadd _ _ _ _ _ v _ => (.val v, .scalar)
  | .afadd2 _ _ _ _ _ _ v _ => (.val v, .scalar)
  | .aincw _ _ _ _ _ v _ => (.val v, .scalar)
  | .adecw _ _ _ _ _ v _ => (.val v, .scalar)
  | .spop _ _ v _ => (.val v, .scalar)
  | .spopKeep _ _ v _ => (.val v, .scalar)
  | .copy _ _ _ _ v _ => (.val v, .scalar)
  | .copyx _ _ _ _ _ v _ => (.val v, .scalar)
  | .wuntil _ _ y => (.sys y, .order)
  | .barw _ _ _ _ y => (.sys y, .order)
  | .sigwait _ _ _ y => (.sys y, .order)
  | .tspawn _ _ y => (.sys y, .scalar)
  | .fmtr _ _ y => (.sys y, .scalar)
  | .csrr _ _ y => (.sys y, .scalar)
  | .tlbinvAll _ _ _ y => (.sys y, .order)
  | .tlbinvAsid _ _ _ y => (.sys y, .order)
  | .tlbinvPage _ _ _ y => (.sys y, .order)
  | .nsbind _ _ y => (.sys y, .scalar)
  | .parkStop _ _ y => (.sys y, .scalar)
  | .parkResume _ _ y => (.sys y, .scalar)
  | .frkill _ _ _ y => (.sys y, .scalar)
  | .tmove _ _ _ y => (.sys y, .scalar)
  | .preemptStop _ _ _ y => (.sys y, .scalar)
  | .preemptResume _ _ _ y => (.sys y, .scalar)
  | .routew _ _ _ y => (.sys y, .scalar)
  | .slateqRec _ _ y => (.sys y, .scalar)
  | .slateqSector _ _ y => (.sys y, .scalar)
  | .slateqDrec _ _ y => (.sys y, .scalar)
  | .watchArrive _ _ _ _ _ y => (.sys y, .scalar)
  | .watchLast _ _ _ _ _ y => (.sys y, .scalar)
  | .watchFlip _ _ _ _ _ y => (.sys y, .scalar)
  | _ => (.gen noDst, .scalar)

/-- The done target of an instruction of the four-source format. -/
def doneOf : Instr → Option Target
  | .ld _ _ _ _ _ done => done
  | .ldv _ _ _ _ _ done => done
  | .lds _ _ _ _ _ done => done
  | .ldx _ _ _ _ _ done => done
  | .ldag _ _ _ _ _ done => done
  | .ldq _ _ _ _ _ done => done
  | .ldacq _ _ _ _ _ done => done
  | .stashq _ _ _ done => done
  | .st _ _ _ _ _ _ done => done
  | .stv _ _ _ _ _ _ done => done
  | .sts _ _ _ _ _ _ done => done
  | .stx _ _ _ _ _ _ done => done
  | .stag _ _ _ _ _ _ done => done
  | .strel _ _ _ _ _ _ done => done
  | .aadd _ _ _ _ _ _ done => done
  | .amin _ _ _ _ _ _ _ done => done
  | .amax _ _ _ _ _ _ _ done => done
  | .aand _ _ _ _ _ _ done => done
  | .aor _ _ _ _ _ _ done => done
  | .axor _ _ _ _ _ _ done => done
  | .axchg _ _ _ _ _ _ done => done
  | .acas _ _ _ _ _ _ _ done => done
  | .afadd _ _ _ _ _ _ done => done
  | .afadd2 _ _ _ _ _ _ _ done => done
  | .aincw _ _ _ _ _ _ done => done
  | .adecw _ _ _ _ _ _ done => done
  | .drain _ _ done => done
  | .ordjoin _ _ _ _ done => done
  | .pfence _ _ done => done
  | .flushsLine _ _ _ done => done
  | .flushsAll _ _ done => done
  | .invsLine _ _ _ done => done
  | .invsAll _ _ done => done
  | .pubt _ _ _ _ done => done
  | .pubr _ _ _ _ _ done => done
  | .subn _ _ _ _ done => done
  | .subnAgain _ _ _ _ done => done
  | .unsub _ _ done => done
  | .claim _ _ _ done => done
  | .retain _ _ _ _ done => done
  | .sopen _ _ _ _ done => done
  | .sclose _ _ done => done
  | .spop _ _ _ done => done
  | .spopKeep _ _ _ done => done
  | .circ _ _ _ _ done => done
  | .circrel _ _ _ done => done
  | .coll _ _ _ _ _ done => done
  | .copy _ _ _ _ _ done => done
  | .copyx _ _ _ _ _ _ done => done
  | .agcfg _ _ _ done => done
  | .agfree _ _ done => done
  | _ => none

/-! ### The order of the checks (R202) -/

/-- What the latches hold when a slot is reached: the kind of the value each was given (R193). -/
abbrev LatchKinds := AMap ResultKind

/-- The kind of value a source gives, or none where it gives no value: an absent port, an unwritten latch. -/
def srcKind (b : BitVec 512) (l : LatchKinds) : Src → Option ResultKind
  | .p n => match portKind b n.toNat with
    | .absent => none | .scalar => some .scalar | .vector => some .vector | .order => some .order
  | .b n => l.get? n.toNat
  | .lanes => some .vector
  | _ => some .scalar

/-- A literal source that names a present slot (R182). -/
def litBad (b : BitVec 512) : Src → Bool
  | .lit k => slotPresent b k.toNat
  | _ => false

/-- A latch read with no writer below (R193). -/
def latchBad (l : LatchKinds) : Src → Bool
  | .b n => !l.has n.toNat
  | _ => false

/-- The source gives the kind its operand asks for (R194). -/
def kindOk (b : BitVec 512) (l : LatchKinds) (k : OpKind) (x : Src) : Bool :=
  match k with
  | .scalar => srcKind b l x == some .scalar
  | .vector => srcKind b l x == some .scalar || srcKind b l x == some .vector
  | .carried => (srcKind b l x).isSome
  | .declared => (match x with | .p n => portKind b n.toNat != .absent | .zero => true | _ => false)
  | .evenReg => (match x with | .f r => r.toNat % 2 == 0 | _ => false)
  | .order => (match x with | .p n => portKind b n.toNat == .order | _ => false)
  | .orderOpt => (match x with | .p n => portKind b n.toNat == .order | .zero => true | _ => false)
  | .ordIn => (match x with | .p n => portKind b n.toNat != .absent | .zero => true | _ => false)

/-- The kind of a result once its carried source is known. -/
def resultKind (b : BitVec 512) (l : LatchKinds) : ResultKind → ResultKind
  | .carriedBy a => (srcKind b l a).getD .scalar
  | k => k

/-- The latch a destination writes, if any. -/
def ResultDst.latch? : ResultDst → Option Nat
  | .gen (.latch b) => some b.toNat
  | .gen (.targetLatch _ b) => some b.toNat
  | .val (.latch b) => some b.toNat
  | _ => none

/-- The frame register a destination writes, if any. -/
def ResultDst.writesReg : ResultDst → Bool
  | .gen (.reg _) => true
  | .val (.reg _) => true
  | .sys (.reg _) => true
  | _ => false

/-- A terminal operation (R201). -/
def isTerminal : Instr → Bool
  | .exitOp _ _ _ | .goto _ | .retb _ _ _ | .sink | .tend _ => true
  | _ => false

/-- The valid targets of a destination. -/
def ResultDst.targets : ResultDst → List Target
  | .gen (.targets a b) => a.toList ++ b.toList
  | .gen (.targetLatch a _) => a.toList
  | .val (.target t) => t.toList
  | .sys (.target t) => t.toList
  | _ => []

/-- A spawning operation (R201): LOOP, WHILE, CALLB, and any operation with a valid target whose tag-op is spawn. -/
def isSpawning (i : Instr) : Bool :=
  (match i with
   | .loop _ _ _ _ | .loopVec _ _ _ _ | .whileOp _ _ _ | .callb _ _ _ _ => true
   | _ => false) || ((result i).1.targets ++ (doneOf i).toList).any fun t => t.top == .spawn

/-- A supervisor operation (R201): SY opcodes 0x40 to 0x4A. -/
def isSupervisor (k : Nat) (b : BitVec 512) : Bool :=
  k == 7 && decide (0x40 ≤ (slotWord b 7).extractLsb' 52 8) && decide ((slotWord b 7).extractLsb' 52 8 ≤ 0x4A)

/-- TRAP vec writes TRAPV, as a frame-register write does for FRWDEPTH (R202, R342). -/
def isTrapVec : Instr → Bool
  | .trapVec _ _ => true
  | _ => false

/-- The vector result of VQNT and VCMPR goes to target 0 and a scalar to target 1; a latch takes the vector. -/
def slotResult (i : Instr) : ResultDst × ResultKind := result i

/-- The checks of one present slot (R202 orders 1 to 12): the instruction and the latches after it, or a cause. -/
def checkSlot (b : BitVec 512) (frame : Nat) (terms : Nat) (l : LatchKinds) (k : Nat) : Except Cause (Instr × LatchKinds) :=
  match decodeBundleSlot b k with
  | .illOp => .error .illop
  | .illSrc => .error (if k = 7 ∧ (slotWord b 7).extractLsb' 52 8 = 0x08 ∧ terms > 0 then .illop else .illsrc)
  | .ok i =>
    let us := (uses i).map (·.2)
    if isTerminal i && decide (terms > 0) then .error .illop
    else if (match i with | .merge _ => bundleRule b != 1 | _ => false) then .error .illop
    else if us.any (litBad b) then .error .illsrc
    else if us.any (latchBad l) then .error .illsrc
    else if !((uses i).all fun u => kindOk b l u.1 u.2) then .error .illsrc
    else if isSupervisor k b && frame != 63 then .error .priv
    else
      let r := slotResult i
      .ok (i, match r.1.latch? with | some n => l.set n (resultKind b l r.2) | none => l)

/-- The first failing slot of a bundle with its cause, or the instructions of its present slots. -/
def checkSlots (b : BitVec 512) (frame : Nat) :
    List Nat → Nat → LatchKinds → List (Nat × Instr) → Except (Nat × Cause) (List (Nat × Instr))
  | [], _, _, acc => .ok acc
  | k :: ks, terms, l, acc =>
    match checkSlot b frame terms l k with
    | .error c => .error (k, c)
    | .ok (i, l) => checkSlots b frame ks (terms + if isTerminal i then 1 else 0) l (acc ++ [(k, i)])

/-- The checks of a bundle at issue in a frame at a depth (R202, R31): the slot and cause of the fault, if any. -/
def issueCheck (b : BitVec 512) (frame depth : Nat) : Option (Nat × Cause) :=
  match checkSlots b frame (presentSlots b) 0 [] [] with
  | .error e => some e
  | .ok l =>
    if depth = 0 then none
    else match l.find? fun e => (slotResult e.2).1.writesReg || isTrapVec e.2 with
      | some e => some (e.1, .frwdepth)
      | none => none

/-- The power cost of a bundle (R41). -/
def bundleCost (b : BitVec 512) : Nat :=
  (presentSlots b).foldl (fun n k => n + [1, 4, 4, 1, 2, 2, 2, 1].getD k 0) 0

end Sys2Proof.Machine
end

