-- ==== Sys2Proof/Machine/Match.lean ====
section
/-! DEFINITION. The matching store (R53 to R60, R180, R181): delivery of a token to a port, the fire rules, vector-run
matching, the holding queue. -/

namespace Sys2Proof.Machine

/-- The tile exists (R1): otherwise the event names no unit. -/
def onTile (t : Nat) (s : State) (f : State → State) : Host.Outcome State Fault Refusal :=
  if t < Config.numTiles then .next (f s) else .fault .noSuchUnit

/-- As onTile, for a field. -/
def onField (f : Nat) (s : State) (g : State → State) : Host.Outcome State Fault Refusal :=
  if f < Config.numFields then .next (g s) else .fault .noSuchUnit

/-- Bundle b of a block, from the frame's code area (R6, R180). -/
def CDom.bundle (c : CDom) (f : Nat) (block bun : Nat) : BitVec 512 :=
  BitVec.ofNat 512 (fromBytes (c.scratch.readBytes ((c.frame f).codeBase + block + 64 * bun) 64))

/-- What a delivery matches by: the frame, the instance, the path and the bundle (R53). -/
structure Key where
  frame : Nat
  inst : Nat
  p : BitVec 8
  pd : Nat
  bun : Nat
  deriving DecidableEq, Repr

/-- A token that stands under a key at a port, matched by its full tag. -/
def Tok.atPort (k : Tok) (y : Key) (port : Nat) : Bool :=
  k.loopKey.isNone && k.frame == y.frame && k.inst == y.inst && k.p == y.p && k.pd == y.pd && k.bun == y.bun && k.port == port

/-- A run token at a port of a bundle of a loop's block (R58). -/
def Tok.atRun (k : Tok) (y : Key) (lid block port : Nat) : Bool :=
  k.loopKey == some lid && k.block == block && k.frame == y.frame && k.p == y.p && k.pd == y.pd && k.bun == y.bun && k.port == port

/-- The first iteration and the end of a vector token's run. -/
def Tok.base (k : Tok) : Nat := match k.val with | .vector b _ => b.toNat | _ => 0
def Tok.stop (k : Tok) : Nat := match k.val with | .vector b l => b.toNat + l.length | _ => 0

/-- The token covers iteration x. -/
def Tok.covers (k : Tok) (x : Nat) : Bool := decide (k.base ≤ x) && decide (x < k.stop)

/-- Lanes lo to hi − 1 of a vector token as a token of their own. -/
def Tok.cut (k : Tok) (lo hi : Nat) : Tok :=
  match k.val with
  | .vector b l => { k with val := .vector (BitVec.ofNat 32 lo) ((l.drop (lo - b.toNat)).take (hi - lo)) }
  | _ => k

/-- The declared ports of a bundle. -/
def declaredPorts (b : BitVec 512) : List Nat := (List.range 4).filter fun q => portKind b q != .absent

/-- The ports that can complete a set (R56): under rule 1, p0 or p1 with the declared ports among p2 and p3. -/
def portChoices (b : BitVec 512) : List (List Nat) :=
  if bundleRule b = 1 then
    let rest := (declaredPorts b).filter fun q => decide (q ≥ 2)
    [0 :: rest, 1 :: rest]
  else [declaredPorts b]

/-- The vector ports of a bundle in a vector instance are matched by run. -/
def runPorts (b : BitVec 512) (ports : List Nat) : List Nat := ports.filter fun q => portKind b q == .vector

/-- The oldest token at a port under a full tag, with its place in the store. -/
def CDom.oldest (c : CDom) (y : Key) (q : Nat) : Option (Nat × Tok) :=
  match c.toks.findIdx? fun k => k.atPort y q with
  | some i => (c.toks[i]?).map fun k => (i, k)
  | none => none

/-- The tokens of a choice of ports under a full tag, if every port holds one. -/
def CDom.gather (c : CDom) (y : Key) (ports : List Nat) : Option (List (Nat × Nat × Tok)) :=
  ports.mapM fun q => (c.oldest y q).map fun e => (q, e.1, e.2)

/-- The run of a set that holds no run-matched token (R251). -/
def setRun (i : Inst) (vals : List (Nat × Val)) : W32 × Nat :=
  match vals.findSome? fun e => match e.2 with | .vector b l => some (b, l.length) | _ => none with
  | some r => r
  | none => if i.runLen > 0 then (i.runBase, i.runLen) else (i.iter, 32)

/-- A complete set formed at a bundle. -/
def CDom.addSet (c : CDom) (y : Key) (block formed : Nat) (toks : List (Nat × Nat × Tok)) (base : W32) (len : Nat) (piece : Bool) :
    CDom :=
  let ports : AMap Val := toks.foldl (fun m e => AMap.set m e.1 e.2.2.val) []
  let chain := (toks.flatMap fun e => e.2.2.chain).eraseDups
  let lines := (toks.filter fun e => e.2.2.val.isVector).map fun e => e.2.2.line
  { c with sets := c.sets ++ [⟨y.frame, y.inst, y.p, y.pd, y.bun, block, ports, formed, base, len, piece, c.cycle, 0, false, chain, false, lines⟩] }

/-- The choice of ports that fires next under a full tag: under rule 1 the port whose token came first (R56). -/
def CDom.choose (c : CDom) (y : Key) (b : BitVec 512) : Option (List (Nat × Nat × Tok)) :=
  let l := (portChoices b).filterMap fun ps => if ps.isEmpty then none else c.gather y ps
  match l with
  | [] => none
  | [g] => some g
  | g :: h :: _ => match g, h with
    | (_, i, _) :: _, (_, j, _) :: _ => if i ≤ j then some g else some h
    | _, _ => some g

/-- Sets formed under a full tag, one after the other (R56, R57). -/
def CDom.matchFull (c : CDom) (y : Key) (i : Inst) (b : BitVec 512) : Nat → CDom
  | 0 => c
  | n + 1 =>
    match c.choose y b with
    | none => c
    | some g =>
      let vals := g.map fun e => (e.1, e.2.2.val)
      let places := g.map fun e => e.2.1
      let toks := ((List.range c.toks.length).filter fun k => !places.contains k).filterMap fun k => c.toks[k]?
      let r := setRun i vals
      let c := CDom.addSet { c with toks := toks } y i.block ((g.map (·.1)).headD 0) g r.1 r.2 false
      CDom.matchFull c y i b n

/-! ### Vector-run matching (R58, R59) -/

/-- The token at a port that covers x, the oldest. -/
def CDom.covering (c : CDom) (y : Key) (lid block q x : Nat) : Option (Nat × Tok) :=
  match c.toks.findIdx? fun k => k.atRun y lid block q && k.covers x with
  | some i => (c.toks[i]?).map fun k => (i, k)
  | none => none

/-- The lowest iteration that every run port covers: one of the tokens starts there. -/
def CDom.lowestCommon (c : CDom) (y : Key) (lid block : Nat) (ports : List Nat) : Option Nat :=
  let starts := (c.toks.filter fun k => ports.any fun q => k.atRun y lid block q).map Tok.base
  let ok := starts.filter fun x => ports.all fun q => (c.covering y lid block q x).isSome
  ok.foldl (fun m x => match m with | none => some x | some v => some (min v x)) none

/-- The live instance of the loop whose run contains x and whose block is the token's. -/
def CDom.instAt (c : CDom) (frame lid block x : Nat) : Option (Nat × Inst) :=
  (c.insts.find? fun e => e.2.frame == frame && e.2.loopId == lid && e.2.block == block && decide (e.2.runLen > 0) &&
    decide (e.2.runBase.toNat ≤ x) && decide (x < e.2.runBase.toNat + e.2.runLen)).map fun e => (instNum e.1 e.2.gen, e.2)

/-- A piece that can fire: its first iteration, its end, the instance, the choice of ports, the tokens taken. -/
structure Piece where
  x : Nat
  hi : Nat
  inst : Nat
  i : Inst
  ports : List Nat
  runs : List (Nat × Nat × Tok)
  full : List (Nat × Nat × Tok)
  first : Nat

/-- The piece a choice of ports would fire (MatchRun of R58). -/
def CDom.piece (c : CDom) (y : Key) (lid block : Nat) (b : BitVec 512) (ports : List Nat) : Option Piece :=
  let rp := runPorts b ports
  match c.lowestCommon y lid block rp with
  | none => none
  | some x =>
    match c.instAt y.frame lid block x with
    | none => none
    | some (n, i) =>
      match c.gather { y with inst := n } (ports.filter fun q => !rp.contains q),
          rp.mapM fun q => (c.covering y lid block q x).map fun e => (q, e.1, e.2) with
      | some full, some runs =>
        let hi := runs.foldl (fun h e => min h e.2.2.stop) (i.runBase.toNat + i.runLen)
        let lead := ports.headD 0
        let first := ((runs ++ full).find? fun e => e.1 == lead).map (·.2.1) |>.getD 0
        some ⟨x, hi, n, i, ports, runs, full, first⟩
      | _, _ => none

/-- The bits of lanes lo to hi − 1 of a run from base. -/
def laneBits (base lo hi : Nat) : BitVec 32 := BitVec.ofNat 32 (2 ^ (hi - base) - 2 ^ (lo - base))

/-- The store after a piece: run tokens keep head and tail, tokens by full tag are freed when the pieces cover the
run (R58, R59). -/
def CDom.takePiece (c : CDom) (q : Piece) : List Tok :=
  (List.range c.toks.length).flatMap fun k =>
    match c.toks[k]? with
    | none => []
    | some tok =>
      if q.runs.any fun e => e.2.1 == k then
        (if tok.base < q.x then [tok.cut tok.base q.x] else []) ++ (if q.hi < tok.stop then [tok.cut q.hi tok.stop] else [])
      else if q.full.any fun e => e.2.1 == k then
        let u := tok.used ||| laneBits q.i.runBase.toNat q.x q.hi
        if u = laneBits 0 0 q.i.runLen then [] else [{ tok with used := u }]
      else [tok]

/-- Parts of cut tokens that find no entry in the store go to the holding queue, as an arriving token does (R58, R60). -/
def CDom.spill (c : CDom) (cuts : List Tok) : CDom :=
  let n := c.storeUsed - Config.storeEntries
  let out := cuts.drop (cuts.length - n)
  { c with toks := c.toks.filter fun k => !out.contains k, holding := c.holding ++ out }

/-- The heads and tails that a piece leaves (R58). -/
def Piece.cuts (q : Piece) : List Tok :=
  q.runs.flatMap fun e => let k := e.2.2
    (if k.base < q.x then [k.cut k.base q.x] else []) ++ (if q.hi < k.stop then [k.cut q.hi k.stop] else [])

/-- The piece of two choices that fires first: the lower x, then the port whose token arrived first (R58). -/
def Piece.better (p q : Piece) : Piece := if q.x < p.x ∨ (q.x = p.x ∧ q.first < p.first) then q else p

/-- The pieces of a bundle fired one after the other. -/
def CDom.matchRun (c : CDom) (y : Key) (lid block : Nat) (b : BitVec 512) : Nat → CDom
  | 0 => c
  | n + 1 =>
    match (portChoices b).filterMap fun ps => c.piece y lid block b ps with
    | [] => c
    | p :: ps =>
      let q := ps.foldl Piece.better p
      let toks := (q.runs.map fun e => (e.1, e.2.1, e.2.2.cut q.x q.hi)) ++ q.full
      let c := CDom.addSet { c with toks := c.takePiece q } { y with inst := q.inst } block (q.ports.headD 0) toks
        (BitVec.ofNat 32 q.x) (q.hi - q.x) true
      CDom.matchRun (c.spill q.cuts) y lid block b n

/-- Matching at one bundle under a key of a live instance (R56, R58). -/
def CDom.matchAt (c : CDom) (y : Key) : CDom :=
  match c.inst? y.inst with
  | none => c
  | some i =>
    let b := c.bundle y.frame i.block y.bun
    if i.runLen > 0 ∧ !((runPorts b (declaredPorts b)).isEmpty) then c.matchRun y i.loopId i.block b (33 * c.toks.length + 1)
    else c.matchFull y i b (c.toks.length + 1)

/-- Matching of run tokens that no arrival named: after a spawn, an entered successor or an instance's end (R58). -/
def CDom.rematch (c : CDom) (frame lid block : Nat) : CDom :=
  let keys := ((c.toks.filter fun k => k.frame == frame && k.loopKey == some lid && k.block == block).map fun k =>
    Key.mk frame 0 k.p k.pd k.bun).eraseDups
  keys.foldl (fun c y => c.matchRun y lid block (c.bundle frame block y.bun) (33 * c.toks.length + 1)) c

/-! ### Delivery (R55, R57, R60, R180, R181) -/

/-- The token goes into the store and its bundle is matched. -/
def CDom.insert (c : CDom) (k : Tok) : CDom :=
  let fresh : Bool := k.val.isVector && k.line == 0
  let k := if fresh then { k with line := c.lineCtr } else k
  let c := { c with toks := c.toks ++ [k], lineCtr := if fresh then c.lineCtr + 1 else c.lineCtr }
  match k.loopKey with
  | some lid => c.matchRun ⟨k.frame, k.inst, k.p, k.pd, k.bun⟩ lid k.block (c.bundle k.frame k.block k.bun) (33 * c.toks.length + 1)
  | none => c.matchAt ⟨k.frame, k.inst, k.p, k.pd, k.bun⟩

/-- The kind of a token is the one its port declares (R55). -/
def kindMatches (b : BitVec 512) (port : Nat) (v : Val) : Bool :=
  match portKind b port, v with
  | .scalar, .scalar _ => true
  | .vector, .vector _ _ => true
  | .order, .order => true
  | _, _ => false

/-- A token's run overlaps one waiting at the same port under the same key, in the store or the holding queue (R55). -/
def CDom.overlaps (c : CDom) (k : Tok) : Bool :=
  match k.loopKey with
  | some lid => (c.toks ++ c.holding).any fun w => w.atRun ⟨k.frame, 0, k.p, k.pd, k.bun⟩ lid k.block k.port &&
      decide (w.base < k.stop) && decide (k.base < w.stop)
  | none => false

/-- The block a token is addressed to, and whether its receiver is live: a token by full tag needs its instance, a run
token only its frame. -/
def CDom.receiver (c : CDom) (k : Tok) : Option Nat :=
  match k.loopKey with
  | some _ => if (c.frames.get? k.frame).isSome then some k.block else none
  | none => match c.inst? k.inst with
    | some i => if i.frame = k.frame then some i.block else none
    | none => none

/-- Lanes of a run token whose iteration has left the addressed block or is complete (R58). -/
def CDom.laneGone (c : CDom) (k : Tok) (x : Nat) : Bool :=
  match k.loopKey with
  | none => false
  | some lid =>
    match c.loops.find? fun e => e.2.frame == k.frame && e.2.loopId == lid && e.2.vec with
    | none => (c.instAt k.frame lid k.block x).isNone
    | some (_, l) =>
      (l.committed.contains (x / 32) || l.left.contains (x / 32, k.block)) && (c.instAt k.frame lid k.block x).isNone

/-- Rising numbers as runs: first and end of each. -/
def runsOf : List Nat → List (Nat × Nat)
  | [] => []
  | x :: xs => match runsOf xs with
    | (lo, hi) :: r => if x + 1 = lo then (x, hi) :: r else (x, x + 1) :: (lo, hi) :: r
    | [] => [(x, x + 1)]

/-- The live parts of a run token, in order (R58); a token by full tag is whole. -/
def CDom.liveParts (c : CDom) (k : Tok) : List Tok :=
  match k.loopKey with
  | none => [k]
  | some _ =>
    if !((List.range (k.stop - k.base)).any fun j => c.laneGone k (k.base + j)) then [k]
    else (runsOf (((List.range (k.stop - k.base)).map (k.base + ·)).filter fun x => !c.laneGone k x)).map fun r =>
      k.cut r.1 r.2

/-- A fault raised when a token is delivered: the frame aborts; no slot is named (R55, R60, R203). -/
def State.deliveryFault (s : State) (t : Nat) (k : Tok) (block : Nat) (i : FaultInfo) : State :=
  s.abortFrame t k.frame ⟨k.inst, k.p, k.pd, block, k.bun⟩ { i with addr := w64 (block + 64 * k.bun) }

/-- The store has a free entry, and a line for a vector token that brings none (R60). -/
def CDom.hasRoom (c : CDom) (k : Tok) : Bool :=
  decide (c.storeUsed < Config.storeEntries) && (!k.val.isVector || k.line != 0 || decide (c.linesUsed < Config.bufferLines))

/-- A token that finds the holding queue full: the frame that owns it aborts (R60). -/
def State.noRoom (s : State) (t : Nat) (block : Nat) (k : Tok) : State :=
  let c := s.c t
  s.deliveryFault t k block { cause := .tagx, cw1 := 2, cw2 := w64 c.tagFree, cw3 := w64 c.dmax }

/-- Parts of cut tokens that found the holding queue full (R60). -/
def State.checkHolding (s : State) (t : Nat) : State :=
  let l := (s.c t).holding
  if l.length ≤ Config.holdingEntries then s
  else (l.drop Config.holdingEntries).foldl (fun s k => s.noRoom t k.block k)
    (s.modC t fun c => { c with holding := l.take Config.holdingEntries })

/-- One part of an arriving token: into the store, or the holding queue, or TAGX (R60). -/
def State.place (s : State) (t : Nat) (block : Nat) (k : Tok) : State :=
  let c := s.c t
  if c.overlaps k then s.deliveryFault t k block { cause := .illbun }
  else if c.holding.isEmpty && c.hasRoom k then (s.setC t (c.insert k)).checkHolding t
  else if c.holding.length < Config.holdingEntries then s.setC t { c with holding := c.holding ++ [k] }
  else s.noRoom t block k

/-- A token reaches its port (R49, R55, R180, R181). -/
def State.arrive (s : State) (t : Nat) (k : Tok) : State :=
  let c := s.c t
  match c.receiver k with
  | none => s.countT t 0 1
  | some block =>
    let b := c.bundle k.frame block k.bun
    if block + 64 * k.bun + 64 > (c.frame k.frame).task.codekb * 1024 || !headerOk b || !kindMatches b k.port k.val then
      s.deliveryFault t k block { cause := .illbun }
    else
      let parts := c.liveParts k
      let s := if parts = [k] then s else s.countT t 0 1
      parts.foldl (fun s p => if (s.frame t k.frame).st = .ending then s else s.place t block p) s

/-- Two tokens stand under one key: a full tag, or a run key (R53, R58). -/
def Tok.sameKey (a b : Tok) : Bool :=
  a.frame == b.frame && a.p == b.p && a.pd == b.pd && a.bun == b.bun && a.loopKey == b.loopKey &&
    (if a.loopKey.isSome then a.block == b.block else a.inst == b.inst)

/-- The token that reaches its port next, and those left in delivery: those put there in a cycle reach their ports once it
is over, in the order of R57, but p0 before p1 of one bundle under rule 1 (R56). -/
def CDom.nextArrival (c : CDom) : Option (Tok × List Tok) :=
  match c.arrivals with
  | [] => none
  | k :: ks =>
    if k.cycle ≥ c.cycle then none
    else if k.port == 1 && bundleRule (c.bundle k.frame ((c.receiver k).getD 0) k.bun) == 1 then
      match ks.find? fun y => y.cycle == k.cycle && y.port == 0 && y.sameKey k with
      | some y => some (y, c.arrivals.erase y)
      | none => some (k, ks)
    else some (k, ks)

/-- TOKEN_ARRIVAL (R57): the next token in delivery inside the tile reaches its port. -/
def execTokenArrival (t : Nat) (s : State) : Host.Outcome State Fault Refusal :=
  onTile t s fun s =>
    match (s.c t).nextArrival with
    | none => s
    | some (k, ks) => (s.modC t fun c => { c with arrivals := ks }).arrive t k

/-- HOLDING_QUEUE_DRAIN (R60): the oldest held token enters the store once it has room. -/
def execHoldingQueueDrain (t : Nat) (s : State) : Host.Outcome State Fault Refusal :=
  onTile t s fun s =>
    match (s.c t).holding with
    | [] => s
    | k :: ks =>
      if (s.c t).hasRoom k then
        let s := s.modC t fun c => { c with holding := ks }
        match (s.c t).receiver k with
        | none => s.countT t 0 1
        | some block =>
          let parts := (s.c t).liveParts k
          let s := if parts = [k] then s else s.countT t 0 1
          parts.foldl (fun s k =>
            if (s.frame t k.frame).st = .ending then s
            else if (s.c t).overlaps k then s.deliveryFault t k block { cause := .illbun }
            else (s.setC t ((s.c t).insert k)).checkHolding t) s
      else s

end Sys2Proof.Machine
end

