-- ==== Sys2Proof/Machine/Flags.lean ====
section
/-! DEFINITION. The floating-point formats, their values, rounding and the flag computations (R155 to R158, R163,
R166 to R172). Every rounding is of an exact rational; nothing is approximated. -/

namespace Sys2Proof.Machine

/-- The flags of FPFLAGS (R172): SAT, NV, DZ, OF, UF, NX from bit 5 down. -/
abbrev FpFlags := BitVec 6

namespace Fp
def sat : FpFlags := 0b100000
def nv : FpFlags := 0b010000
def dz : FpFlags := 0b001000
def ovf : FpFlags := 0b000100
def unf : FpFlags := 0b000010
def nx : FpFlags := 0b000001
end Fp

/-- What the top exponent code of a format means (R157). -/
inductive TopCode where
  | ieee | e4m3 | finite
  deriving DecidableEq, Repr

/-- A floating-point format (R156): exponent bits, fraction bits, top code. -/
structure Fmt where
  e : Nat
  m : Nat
  top : TopCode
  deriving DecidableEq, Repr

namespace Fmt
def f32 : Fmt := ⟨8, 23, .ieee⟩
def f16 : Fmt := ⟨5, 10, .ieee⟩
def bf16 : Fmt := ⟨8, 7, .ieee⟩
def e4m3 : Fmt := ⟨4, 3, .e4m3⟩
def e5m2 : Fmt := ⟨5, 2, .ieee⟩
def e2m1 : Fmt := ⟨2, 1, .finite⟩
def a48 : Fmt := ⟨10, 37, .ieee⟩

def bias (f : Fmt) : Nat := 2 ^ (f.e - 1) - 1
/-- The exponent of the smallest normal. -/
def emin (f : Fmt) : Int := 1 - (f.bias : Int)
def width (f : Fmt) : Nat := 1 + f.e + f.m
/-- The encoding of the largest finite magnitude. -/
def maxCode (f : Fmt) : Nat :=
  match f.top with
  | .ieee => (2 ^ f.e - 1) * 2 ^ f.m - 1
  | .e4m3 => 2 ^ (f.e + f.m) - 2
  | .finite => 2 ^ (f.e + f.m) - 1
def infCode (f : Fmt) : Nat := (2 ^ f.e - 1) * 2 ^ f.m
/-- The default NaN (R157); for the other formats what a NaN converts to (R169). -/
def defaultNan (f : Fmt) : Nat :=
  match f.top with
  | .ieee => f.infCode + (if f = e5m2 then 3 else 2 ^ (f.m - 1))
  | .e4m3 => 0x7F
  | .finite => 0
end Fmt

/-- A value (R155): a NaN with its fraction of m bits, an infinity, or the exact number ±mant × 2^exp. -/
inductive Fl where
  | nan (neg : Bool) (frac m : Nat) (quiet : Bool)
  | inf (neg : Bool)
  | fin (neg : Bool) (mant : Nat) (exp : Int)
  deriving DecidableEq, Repr

namespace Fl
def isNan : Fl → Bool | .nan _ _ _ _ => true | _ => false
def isSnan : Fl → Bool | .nan _ _ _ q => !q | _ => false
def isZero : Fl → Bool | .fin _ m _ => m == 0 | _ => false
def isInf : Fl → Bool | .inf _ => true | _ => false
def neg : Fl → Bool | .nan s _ _ _ => s | .inf s => s | .fin s _ _ => s
/-- The value with its sign reversed. -/
def negate : Fl → Fl | .nan s f m q => .nan s f m q | .inf s => .inf !s | .fin s m e => .fin (!s) m e
end Fl

/-- The value of an encoding (R155, R157). -/
def unpack (f : Fmt) (x : Nat) : Fl :=
  let fr := x % 2 ^ f.m
  let ex := x / 2 ^ f.m % 2 ^ f.e
  let s := x / 2 ^ (f.e + f.m) % 2 == 1
  if ex = 2 ^ f.e - 1 ∧ f.top = .ieee then
    if fr = 0 then .inf s else .nan s fr f.m (decide (fr ≥ 2 ^ (f.m - 1)))
  else if ex = 2 ^ f.e - 1 ∧ f.top = .e4m3 ∧ fr = 7 then .nan s fr f.m true
  else if ex = 0 then .fin s fr (f.emin - f.m)
  else .fin s (2 ^ f.m + fr) ((ex : Int) - f.bias - f.m)

/-- num/den × 2^exp, a non-negative exact number. -/
structure Ratio where
  num : Nat
  den : Nat
  exp : Int
  deriving DecidableEq, Repr

namespace Ratio
/-- The number over 2^q as a fraction of naturals. -/
def scaled (r : Ratio) (q : Int) : Nat × Nat :=
  let d := r.exp - q
  if d ≥ 0 then (r.num * 2 ^ d.toNat, r.den) else (r.num, r.den * 2 ^ (-d).toNat)
/-- floor(log2 r) of a positive number. -/
def log2 (r : Ratio) : Int :=
  let g : Int := (Nat.log2 r.num : Int) - (Nat.log2 r.den : Int) + r.exp
  let p := r.scaled g
  if p.1 < p.2 then g - 1 else g
/-- Comparison with k × 2^q: less, equal, greater. -/
def cmpDyadic (r : Ratio) (k : Nat) (q : Int) : Ordering :=
  let p := r.scaled q
  compare p.1 (k * p.2)
end Ratio

/-- The rounding codes (R166). SR carries R. -/
inductive Rnd where
  | rne | rtz | rdn | rup | rna
  | sr (r : Nat)
  deriving DecidableEq, Repr

/-- Whether the fraction rem/den above an integer k rounds away from zero (R166, R167). -/
def roundUp (rnd : Rnd) (neg : Bool) (k rem den : Nat) : Bool :=
  rem != 0 &&
  match rnd with
  | .rne => decide (2 * rem > den) || (2 * rem == den && k % 2 == 1)
  | .rtz => false
  | .rdn => neg
  | .rup => !neg
  | .rna => decide (2 * rem ≥ den)
  | .sr r => decide (2 ^ 24 * rem / den + r ≥ 2 ^ 24)

/-- A positive number rounded to a multiple of 2^q: the multiple and whether it is inexact. -/
def roundAt (rnd : Rnd) (neg : Bool) (r : Ratio) (q : Int) : Nat × Bool :=
  let p := r.scaled q
  let k := p.1 / p.2
  let rem := p.1 % p.2
  (k + (if roundUp rnd neg k rem p.2 then 1 else 0), rem != 0)

/-- k × 2^q compared with a × 2^b. -/
def dyadicGt (k : Nat) (q : Int) (a : Nat) (b : Int) : Bool :=
  if q ≥ b then decide (k * 2 ^ (q - b).toNat > a) else decide (k > a * 2 ^ (b - q).toNat)

/-- The encoding of the magnitude k × 2^q, which the format holds exactly. -/
def encodeMag (f : Fmt) (k : Nat) (q : Int) : Nat :=
  if k = 0 then 0
  else
    let e := (Nat.log2 k : Int) + q
    if e < f.emin then
      let d := q - (f.emin - f.m)
      if d ≥ 0 then k * 2 ^ d.toNat else k / 2 ^ (-d).toNat
    else
      let d := e - f.m - q
      let fr := if d ≥ 0 then k / 2 ^ d.toNat else k * 2 ^ (-d).toNat
      (e + f.bias).toNat * 2 ^ f.m + fr % 2 ^ f.m

def withSign (f : Fmt) (neg : Bool) (mag : Nat) : Nat := (if neg then 2 ^ (f.e + f.m) else 0) + mag

/-- The result of a finite overflow (R168), as a magnitude code, and whether it is ±M by saturation. -/
def overflowMag (f : Fmt) (rnd : Rnd) (sat neg : Bool) : Nat × Bool :=
  let inf := match f.top with | .ieee => f.infCode | .e4m3 => 0x7F | .finite => f.maxCode
  if f.top = .finite then (f.maxCode, true)
  else if sat then (f.maxCode, true)
  else match rnd with
    | .rtz => (f.maxCode, false)
    | .rdn => if neg then (inf, false) else (f.maxCode, false)
    | .rup => if neg then (f.maxCode, false) else (inf, false)
    | _ => (inf, false)

/-- A positive exact number rounded into a format (R166, R168, R172): its code and flags. -/
def roundTo (f : Fmt) (rnd : Rnd) (sat neg : Bool) (r : Ratio) : Nat × FpFlags :=
  let e := r.log2
  let q := (if e < f.emin then f.emin else e) - f.m
  let (k, inexact) := roundAt rnd neg r q
  let big := unpack f f.maxCode
  let ovfl := match big with | .fin _ a b => dyadicGt k q a b | _ => false
  if ovfl then
    let (mag, clamp) := overflowMag f rnd sat neg
    (withSign f neg mag, Fp.ovf ||| Fp.nx ||| (if clamp then Fp.sat else 0))
  else
    let (ku, _) := roundAt rnd neg r (e - f.m)
    let tiny := dyadicGt 1 f.emin ku (e - f.m)
    (withSign f neg (encodeMag f k q),
     (if inexact then Fp.nx ||| (if tiny then Fp.unf else 0) else 0))

/-- A NaN brought into a format (R169): the quiet bit set, the sign and the top payload bits kept. -/
def nanTo (f : Fmt) (neg : Bool) (frac m : Nat) : Nat :=
  match f.top with
  | .finite => 0
  | .e4m3 => withSign f neg 0x7F
  | .ieee =>
    let fr := if m ≥ f.m then frac / 2 ^ (m - f.m) else frac * 2 ^ (f.m - m)
    withSign f neg (f.infCode + (2 ^ (f.m - 1) ||| fr % 2 ^ (f.m - 1)))

/-- A value converted into a format under a rounding and SAT (R166 to R170). `keepNan` is false where the result
keeps no payload. An infinity that the format does not hold converts as an overflow of its sign does; into E4M3, with a rounding that gives the
greatest magnitude, it raises no flag (log 104: DESIGN CHOICE, unsafe). -/
def convertFl (f : Fmt) (rnd : Rnd) (sat : Bool) : Fl → Nat × FpFlags
  | .nan s fr m q => (nanTo f s fr m, if !q || f.top = .finite then Fp.nv else 0)
  | .inf s =>
    match f.top, sat with
    | .finite, _ => (withSign f s f.maxCode, Fp.sat)
    | _, true => (withSign f s f.maxCode, Fp.sat)
    | .e4m3, false =>
      let m := (overflowMag f rnd false s).1
      (withSign f s m, if m = 0x7F then Fp.nv else 0)
    | .ieee, false => (withSign f s f.infCode, 0)
  | .fin s 0 _ => (withSign f s 0, 0)
  | .fin s mant exp => roundTo f rnd sat s ⟨mant, 1, exp⟩

/-- Rounding RNE in a format, as arithmetic does (R166). -/
def rne (f : Fmt) (x : Fl) : Nat × FpFlags := convertFl f .rne false x

/-- The first NaN among operands, quieted (R169), with NV where any operand is signalling. -/
def nanResult (f : Fmt) (ops : List Fl) : Option (Nat × FpFlags) :=
  match ops.find? Fl.isNan with
  | some (.nan s fr m _) => some (nanTo f s fr m, if ops.any Fl.isSnan then Fp.nv else 0)
  | _ => none

/-- The exact sum of two finite numbers (R229): an exact zero is +0 unless both are −0. -/
def addFin (s1 : Bool) (m1 : Nat) (e1 : Int) (s2 : Bool) (m2 : Nat) (e2 : Int) : Fl :=
  let e := min e1 e2
  let a : Int := (m1 * 2 ^ (e1 - e).toNat : Nat)
  let b : Int := (m2 * 2 ^ (e2 - e).toNat : Nat)
  let v := (if s1 then -a else a) + (if s2 then -b else b)
  if v = 0 then .fin (s1 && s2) 0 0 else .fin (decide (v < 0)) v.natAbs e

/-- a + b exactly, or invalid (R229). -/
def addFl : Fl → Fl → Option Fl
  | .inf s, .inf t => if s = t then some (.inf s) else none
  | .inf s, _ => some (.inf s)
  | _, .inf s => some (.inf s)
  | .fin s1 m1 e1, .fin s2 m2 e2 => some (addFin s1 m1 e1 s2 m2 e2)
  | x, _ => some x

/-- a × b exactly, or invalid (R229). -/
def mulFl : Fl → Fl → Option Fl
  | .inf s, y => if y.isZero then none else some (.inf (s != y.neg))
  | x, .inf s => if x.isZero then none else some (.inf (s != x.neg))
  | .fin s1 m1 e1, .fin s2 m2 e2 => some (.fin (s1 != s2) (m1 * m2) (e1 + e2))
  | x, _ => some x

/-- FADD in a format (R229). -/
def fadd (f : Fmt) (a b : Nat) : Nat × FpFlags :=
  let x := unpack f a
  let y := unpack f b
  match nanResult f [x, y] with
  | some r => r
  | none => match addFl x y with
    | some v => rne f v
    | none => (f.defaultNan, Fp.nv)

/-- FSUB in a format (R229). -/
def fsub (f : Fmt) (a b : Nat) : Nat × FpFlags :=
  let x := unpack f a
  let y := unpack f b
  match nanResult f [x, y] with
  | some r => r
  | none => match addFl x y.negate with
    | some v => rne f v
    | none => (f.defaultNan, Fp.nv)

/-- FMUL in a format (R229). -/
def fmul (f : Fmt) (a b : Nat) : Nat × FpFlags :=
  let x := unpack f a
  let y := unpack f b
  match nanResult f [x, y] with
  | some r => r
  | none => match mulFl x y with
    | some v => rne f v
    | none => (f.defaultNan, Fp.nv)

/-- a × b + c rounded once, the product or the addend negated as asked (R229, R254). An invalid product gives the
default NaN even where c is a quiet NaN. -/
def fmaWith (f : Fmt) (negProd negAdd : Bool) (a b c : Nat) : Nat × FpFlags :=
  let x := unpack f a
  let y := unpack f b
  let z := unpack f c
  let prodNan := x.isNan || y.isNan
  match (if prodNan then none else some (mulFl x y)) with
  | some none => (f.defaultNan, Fp.nv)
  | some (some p) =>
    if z.isNan then (nanResult f [z]).getD (f.defaultNan, Fp.nv)
    else match addFl (if negProd then p.negate else p) (if negAdd then z.negate else z) with
      | some v => rne f v
      | none => (f.defaultNan, Fp.nv)
  | none => (nanResult f [x, y, z]).getD (f.defaultNan, Fp.nv)

def fma (f : Fmt) (a b c : Nat) : Nat × FpFlags := fmaWith f false false a b c

/-- Order of two numbers that are not NaN; zeros of either sign are equal. -/
def cmpFl : Fl → Fl → Ordering
  | .inf s, .inf t => if s = t then .eq else if s then .lt else .gt
  | .inf s, _ => if s then .lt else .gt
  | _, .inf s => if s then .gt else .lt
  | .fin s1 m1 e1, .fin s2 m2 e2 =>
    let e := min e1 e2
    let a : Int := (m1 * 2 ^ (e1 - e).toNat : Nat)
    let b : Int := (m2 * 2 ^ (e2 - e).toNat : Nat)
    compare (if s1 then -a else a) (if s2 then -b else b)
  | _, _ => .eq

/-- a is below b, with −0 below +0 (R230). -/
def belowFl (x y : Fl) : Bool :=
  match cmpFl x y with
  | .lt => true
  | .gt => false
  | .eq => x.isZero && y.isZero && x.neg && !y.neg

/-- FMIN and FMAX (R230). -/
def fminmax (f : Fmt) (max : Bool) (a b : Nat) : Nat × FpFlags :=
  let x := unpack f a
  let y := unpack f b
  let fl : FpFlags := if x.isSnan || y.isSnan then Fp.nv else 0
  let am := a % 2 ^ f.width
  let bm := b % 2 ^ f.width
  if x.isNan && y.isNan then ((nanResult f [x, y]).getD (f.defaultNan, 0)).1 |> fun v => (v, fl)
  else if x.isNan then (bm, fl)
  else if y.isNan then (am, fl)
  else if max then (if belowFl x y then bm else am, fl) else (if belowFl y x then bm else am, fl)

/-- FCMP (R230): one-hot less, equal, greater, unordered. -/
def fcmp (f : Fmt) (a b : Nat) : Nat × FpFlags :=
  let x := unpack f a
  let y := unpack f b
  if x.isNan || y.isNan then (8, if x.isSnan || y.isSnan then Fp.nv else 0)
  else match cmpFl x y with
    | .lt => (1, 0)
    | .eq => (2, 0)
    | .gt => (4, 0)

/-- FCLASS (R230): one-hot class. -/
def fclass (f : Fmt) (a : Nat) : Nat :=
  match unpack f a with
  | .nan _ _ _ q => if q then 2 ^ 9 else 2 ^ 8
  | .inf s => if s then 1 else 2 ^ 7
  | .fin s m _ =>
    let sub := decide (m < 2 ^ f.m)
    if m = 0 then (if s then 2 ^ 3 else 2 ^ 4)
    else if sub then (if s then 2 ^ 2 else 2 ^ 5)
    else (if s then 2 else 2 ^ 6)

/-- An exact number rounded to an integer (R166): the integer and whether it is inexact. -/
def roundInt (rnd : Rnd) (neg : Bool) (r : Ratio) : Int × Bool :=
  let (k, inexact) := roundAt rnd neg r 0
  (if neg then -(k : Int) else k, inexact)

/-- A value converted to an integer range (R170): clamped with NV, NaN to 0 with NV. -/
def toIntRange (rnd : Rnd) (lo hi : Int) : Fl → Int × FpFlags
  | .nan _ _ _ _ => (0, Fp.nv)
  | .inf s => (if s then lo else hi, Fp.nv)
  | .fin s m e =>
    let (v, inexact) := if m = 0 then (0, false) else roundInt rnd s ⟨m, 1, e⟩
    if v < lo then (lo, Fp.nv) else if v > hi then (hi, Fp.nv) else (v, if inexact then Fp.nx else 0)

/-- A value converted to Q8 or Q4 with w bits, scale s (a positive FP16 value) and zero point z (R170). -/
def toQ (rnd : Rnd) (w : Nat) (scale : Nat) (z : Nat) (x : Fl) : Nat × FpFlags :=
  let hi : Int := 2 ^ w - 1
  let clamp (q : Int) (fl : FpFlags) : Nat × FpFlags :=
    if q < 0 then (0, Fp.sat ||| Fp.ovf) else if q > hi then (hi.toNat, Fp.sat ||| Fp.ovf) else (q.toNat, fl)
  match x with
  | .nan _ _ _ _ => (z, Fp.nv)
  | .inf s => if s then (0, Fp.sat ||| Fp.ovf) else (hi.toNat, Fp.sat ||| Fp.ovf)
  | .fin s m e =>
    if m = 0 then (z, if s then Fp.nx else 0)
    else match unpack Fmt.f16 scale with
      | .fin _ sm se =>
        let (v, inexact) := roundInt rnd s ⟨m, sm, e - se⟩
        clamp (v + z) (if inexact then Fp.nx else 0)
      | _ => (z, 0)

/-- The value s × (q − z) of a Q code (R161, R170). -/
def fromQ (scale : Nat) (q z : Nat) : Fl :=
  match unpack Fmt.f16 scale with
  | .fin s m e =>
    let d : Int := (q : Int) - z
    if d = 0 then .fin s 0 0 else .fin (s != decide (d < 0)) (m * d.natAbs) e
  | x => if q = z then .nan false 0 0 true else if q < z then x.negate else x

end Sys2Proof.Machine
end

