-- ==== Sys2Proof/Machine/Shake.lean ====
section
/-! DEFINITION. SHAKE256 (R167, R148, R402), CRC-free: the Keccak-f[1600] permutation on 25 lanes of 64 bits. -/

namespace Sys2Proof.Machine.Shake

/-- One step of the generator of the round constants: a byte shifted up, reduced by x^8 + x^6 + x^5 + x^4 + 1. -/
def lfsr (r : Nat) : Nat := if r < 128 then 2 * r else (2 * r) ^^^ 0x171

/-- The constant of a round, from the generator's byte before it, and the byte after it: its seven bits fall on bits 2^j - 1. -/
def roundConstant (r : Nat) : W64 × Nat :=
  (List.range 7).foldl (fun (a : W64 × Nat) j => (if a.2 % 2 = 1 then a.1 ||| (1#64 <<< (2 ^ j - 1)) else a.1, lfsr a.2)) (0, r)

def lane (s : List W64) (x y : Nat) : W64 := s.getD (x % 5 + 5 * (y % 5)) 0

def build (f : Nat → Nat → W64) : List W64 := (List.range 25).map fun k => f (k % 5) (k / 5)

/-- The column parities, evaluated once. -/
def parities (s : List W64) : List W64 :=
  (List.range 5).map fun x => lane s x 0 ^^^ lane s x 1 ^^^ lane s x 2 ^^^ lane s x 3 ^^^ lane s x 4

def theta (s : List W64) : List W64 :=
  let p := parities s
  build fun x y => lane s x y ^^^ p.getD ((x + 4) % 5) 0 ^^^ (p.getD ((x + 1) % 5) 0).rotateLeft 1

/-- Rho and pi along the orbit of lane (1, 0) under (x, y) to (y, 2x + 3y): the lane met at step t goes to the next place, rotated by
the t-th triangular number. Lane (0, 0) stays. -/
def rhoPi (s : List W64) : List W64 :=
  let step (a : Nat × Nat × List W64) (t : Nat) : Nat × Nat × List W64 :=
    let y := (2 * a.1 + 3 * a.2.1) % 5
    (a.2.1, y, a.2.2.set (a.2.1 + 5 * y) ((lane s a.1 a.2.1).rotateLeft ((t + 1) * (t + 2) / 2 % 64)))
  ((List.range 24).foldl step (1, 0, s)).2.2

def chi (s : List W64) : List W64 :=
  build fun x y => lane s x y ^^^ (~~~(lane s (x + 1) y) &&& lane s (x + 2) y)

/-- One round: the generator's byte goes on with the state. -/
def round (a : List W64 × Nat) : List W64 × Nat :=
  let l := chi (rhoPi (theta a.1))
  let c := roundConstant a.2
  (l.set 0 (l.getD 0 0 ^^^ c.1), c.2)

/-- The permutation: 24 rounds, the generator starting at 1. -/
def permute (s : List W64) : List W64 := ((List.range 24).foldl (fun a _ => round a) (s, 1)).1

/-- A byte XORed into the state. -/
def xorByte (s : List W64) (i : Nat) (b : Byte) : List W64 :=
  s.set (i / 8) (s.getD (i / 8) 0 ^^^ ((b.setWidth 64) <<< (8 * (i % 8))))

/-- Bytes absorbed at a position; a full block of `rate` bytes is permuted. -/
def absorb (rate : Nat) : List W64 → Nat → List Byte → List W64 × Nat
  | s, i, [] => (s, i)
  | s, i, b :: l =>
    let s := xorByte s i b
    if i + 1 = rate then absorb rate (permute s) 0 l else absorb rate s (i + 1) l

def byteAt (s : List W64) (i : Nat) : Byte := ((s.getD (i / 8) 0) >>> (8 * (i % 8))).setWidth 8

/-- n output bytes from position i. -/
def squeeze (rate : Nat) : Nat → List W64 → Nat → List Byte
  | 0, _, _ => []
  | n + 1, s, i =>
    if i = rate then
      let s := permute s
      byteAt s 0 :: squeeze rate n s 1
    else byteAt s i :: squeeze rate n s (i + 1)

/-- The sponge with a domain suffix. -/
def sponge (rate : Nat) (suffix : Byte) (msg : List Byte) (n : Nat) : List Byte :=
  let (s, i) := absorb rate (List.replicate 25 0) 0 msg
  squeeze rate n (permute (xorByte (xorByte s i suffix) (rate - 1) 0x80)) 0

/-- SHAKE256 with n output bytes. -/
def shake256 (msg : List Byte) (n : Nat) : List Byte := sponge 136 0x1F msg n

/-- SHA3-512 (R403). -/
def sha3_512 (msg : List Byte) : List Byte := sponge 72 0x06 msg 64

end Sys2Proof.Machine.Shake
end

