-- ==== Sys2Proof/Machine/Convert.lean ====
section
/-! DEFINITION. Typed operands (R224, R228), format slots (R162 to R167), conversions (R168 to R171) and the readings a
durable frame logs (R148, R248). -/

namespace Sys2Proof

open Machine

/-- The width of an integer type. -/
def Ty.width : Ty → Nat
  | .i64 | .n64 => 64 | .i32 | .n32 => 32 | .i16 | .n16 | .i16x2 => 16 | .i8 | .n8 => 8 | _ => 64

/-- The integer type is two's complement. -/
def Ty.signed : Ty → Bool
  | .n64 | .n32 | .n16 | .n8 => false
  | _ => true

/-- The format of a floating-point type (R196). -/
def Ty.fmt : Ty → Fmt
  | .bf16 => Fmt.bf16 | .f16 => Fmt.f16 | .e4m3 => Fmt.e4m3 | .e5m2 => Fmt.e5m2 | .e2m1 => Fmt.e2m1 | .a48 => Fmt.a48
  | _ => Fmt.f32

/-- A floating-point type code (8 to 14). -/
def Ty.isFloat : Ty → Bool
  | .f32 | .bf16 | .f16 | .e4m3 | .e5m2 | .e2m1 | .a48 => true
  | _ => false

end Sys2Proof

namespace Sys2Proof.Machine

/-- Two's complement reading of the low w bits. -/
def signedOf (w x : Nat) : Int :=
  let v := x % 2 ^ w
  if v ≥ 2 ^ (w - 1) then (v : Int) - 2 ^ w else v

/-- Opnd (R224). -/
def opnd (t : Ty) (x : W64) : Int := if t.signed then signedOf t.width x.toNat else (x.toNat % 2 ^ t.width : Nat)

/-- Res (R224). -/
def res (t : Ty) (v : Int) : W64 :=
  let m := (v % 2 ^ t.width).toNat
  if t.signed then BitVec.ofInt 64 (signedOf t.width m) else w64 m

/-- A floating-point operand in its type (R228). -/
def fval (t : Ty) (x : W64) : Fl := unpack t.fmt (x.toNat % 2 ^ t.fmt.width)

/-! ### Format slots (R162 to R167) -/

namespace FmtSlot
def fmt (w : W64) : Nat := bits w 3 0
def rnd (w : W64) : Nat := bits w 6 4
def satMode (w : W64) : Nat := bits w 8 7
def sat (w : W64) : Bool := satMode w == 1
def grp (w : W64) : Nat := bits w 10 9
def scale (w : W64) : Nat := bits w 26 11
def zp (w : W64) : Nat := bits w 34 27
def seed (w : W64) : Nat := bits w 39 35
/-- The group size G (R161, R163). -/
def group (w : W64) : Nat := 32 * 2 ^ grp w
/-- A Q format. -/
def isQ (w : W64) : Bool := fmt w == 7 || fmt w == 8
/-- A positive, finite, non-zero FP16 value. -/
def scaleOk (w : W64) : Bool :=
  match unpack Fmt.f16 (scale w) with
  | .fin false m _ => m != 0
  | _ => false
/-- FMTW accepts the value (R164). -/
def ok (w : W64) : Bool :=
  bits w 63 40 == 0 && decide (fmt w ≤ 12) && decide (rnd w ≤ 5) && decide (satMode w ≤ 1) && grp w != 3 &&
    (!isQ w || scaleOk w) && !(fmt w == 8 && bits w 34 31 != 0)
/-- The floating-point format of a code, for elements of the scaled ones too. -/
def float (code : Nat) : Option Fmt :=
  match code with
  | 0 => some Fmt.f32 | 1 => some Fmt.f16 | 2 => some Fmt.bf16 | 3 => some Fmt.e4m3 | 4 => some Fmt.e5m2
  | 5 => some Fmt.e2m1 | 6 => some Fmt.e4m3 | 9 => some Fmt.a48 | 12 => some Fmt.e2m1 | _ => none
/-- Bits of an element of a format code (R154). -/
def elemBits (code : Nat) : Nat :=
  match code with
  | 0 => 32 | 1 => 16 | 2 => 16 | 3 => 8 | 4 => 8 | 5 => 4 | 6 => 8 | 7 => 8 | 8 => 4 | 9 => 64 | 10 => 8 | 11 => 4
  | _ => 4
end FmtSlot

/-- FMTW's write in a cycle (R165): what the slot held before the cycle's first write is kept. -/
def Frame.writeFs (f : Frame) (cycle n : Nat) (v : W64) : Frame :=
  let was := match f.fsWas.get? n with
    | some x => if x.1 = cycle then x else (cycle, f.fs.getD n 0)
    | none => (cycle, f.fs.getD n 0)
  { f with fs := f.fs.set n v, fsWas := f.fsWas.set n was }

/-- The frame as a bundle instance issuing in a cycle sees it (R165): slots written in the cycle still hold what they held. -/
def Frame.atIssue (f : Frame) (cycle : Nat) : Frame :=
  { f with fs := f.fsWas.foldl (fun m e => if e.2.1 = cycle then m.set e.1 e.2.2 else m) f.fs }

/-- Format slot fsN of the issuing frame as of issue (R165, R338). -/
def Frame.fsOf (f : Frame) (n : Nat) : W64 := f.fs.getD n 0

/-- What the block instance gives the message of R167: the bytes between the seed and the element. -/
def srMiddle (donehi donelo : W64) (block bun slot depth : Nat) (its : List W32) (ord0 : Nat) : List Byte :=
  toBytes donehi.toNat 8 ++ toBytes donelo.toNat 8 ++ toBytes block 4 ++ toBytes bun 1 ++
    toBytes slot 1 ++ toBytes depth 1 ++ toBytes 0 1 ++
    ((List.range 8).flatMap fun k => toBytes (its.getD k 0).toNat 4) ++ toBytes ord0 8

/-- The message of R167. -/
def srMessage (seed : W64) (middle : List Byte) (elem : Nat) : List Byte := toBytes seed.toNat 8 ++ middle ++ toBytes elem 4

/-- The 24-bit value R of R167. -/
def srValue (m : List Byte) : Nat := fromBytes (Shake.shake256 m 3)

/-- R for an element of the slot operation being performed; `it` is the lane's iteration. -/
def State.srBits (s : State) (slot : W64) (it : W32) (elem : Nat) : Nat :=
  let i := s.inst
  let t := s.iss.frame.task
  srValue (srMessage ((s.c s.iss.tile).srseed.getD (FmtSlot.seed slot) 0)
    (srMiddle t.donehi t.donelo i.block s.iss.set.bun s.iss.slot i.depth (i.anc.map (·.1) ++ [it]) i.ordinal) elem)

/-- The rounding of a format slot for an element (R166, R167). -/
def State.rnd (s : State) (slot : W64) (it : W32) (elem : Nat) : Rnd :=
  match FmtSlot.rnd slot with
  | 0 => .rne | 1 => .rtz | 2 => .rdn | 3 => .rup | 4 => .rna
  | _ => .sr (s.srBits slot it elem)

/-- An exact value converted into the format of a slot other than a block format: the code and the flags
(R168 to R170). -/
def convertSlot (slot : W64) (rnd : Rnd) (x : Fl) : Nat × FpFlags :=
  match FmtSlot.fmt slot with
  | 7 => toQ rnd 8 (FmtSlot.scale slot) (FmtSlot.zp slot) x
  | 8 => toQ rnd 4 (FmtSlot.scale slot) (FmtSlot.zp slot % 16) x
  | 10 => let r := toIntRange rnd (-128) 127 x; ((r.1 % 256).toNat, r.2)
  | 11 => let r := toIntRange rnd (-8) 7 x; ((r.1 % 16).toNat, r.2)
  | c => convertFl ((FmtSlot.float c).getD Fmt.f32) rnd (FmtSlot.sat slot) x

/-- A code converted into the format of a slot (R231): in its own format it stays as it is, a signalling NaN quieted with NV. -/
def convertCode (src : Fmt) (code : Nat) (slot : W64) (rnd : Rnd) : Nat × FpFlags :=
  let x := unpack src code
  if FmtSlot.float (FmtSlot.fmt slot) = some src ∧ x.isNan = false then (code, 0) else convertSlot slot rnd x

/-- The value of a code in the format of a slot (R155, R161): integers and Q codes exactly. -/
def decodeSlotFmt (slot : W64) (x : Nat) : Fl :=
  match FmtSlot.fmt slot with
  | 7 => fromQ (FmtSlot.scale slot) (x % 256) (FmtSlot.zp slot)
  | 8 => fromQ (FmtSlot.scale slot) (x % 16) (FmtSlot.zp slot % 16)
  | 10 => let v := signedOf 8 x; .fin (decide (v < 0)) v.natAbs 0
  | 11 => let v := signedOf 4 x; .fin (decide (v < 0)) v.natAbs 0
  | c => let f := (FmtSlot.float c).getD Fmt.f32; unpack f (x % 2 ^ f.width)

/-- An integer as an exact value. -/
def flOfInt (v : Int) : Fl := .fin (decide (v < 0)) v.natAbs 0

/-- Flags raised by the slot being performed (R172). -/
def State.raiseFlags (s : State) (f : FpFlags) : State := s.modIss fun i => { i with flags := i.flags ||| f }

/-! ### Logged readings (R148, R248, R310) -/

/-- The replay key of an instance and a path, as one number (R148). -/
def replayKey (i : Inst) (p : BitVec 8) (pd : Nat) : Nat :=
  fromBytes (toBytes i.block 4 ++ toBytes p.toNat 1 ++ toBytes pd 1 ++
    ((i.anc ++ [(i.iter, i.runBase)]).flatMap fun a => toBytes a.1.toNat 4 ++ toBytes a.2.toNat 4) ++
    toBytes i.ordinal 8 ++ [1])

/-- A logged reading of a slot's source field, where one is kept under the key. -/
def Slate.reading? (l : Slate) (key slot field : Nat) : Option W64 :=
  l.inlog.findSome? fun e => match e with
    | .reading k sl f v .awaited => if k = key ∧ sl = slot ∧ f = field then some v else none
    | _ => none

/-- The log once a replay has taken the first reading under a key that it awaits. -/
def takeReading (key slot field : Nat) : List LogEntry → List LogEntry
  | [] => []
  | .reading k sl f v .awaited :: r =>
    if k = key ∧ sl = slot ∧ f = field then .reading k sl f v .taken :: r else .reading k sl f v .awaited :: takeReading key slot field r
  | e :: r => e :: takeReading key slot field r

/-- The readings of a log in another state. -/
def markReadings (g : ReadSt → ReadSt) (l : List LogEntry) : List LogEntry :=
  l.map fun e => match e with | .reading k sl f v st => .reading k sl f v (g st) | .delivery m n => .delivery m n

/-- The replay key of a bundle instance: its instance's, with its bundle, the first iteration of its piece and the frame. -/
def readKey (i : Inst) (x : OpSet) : Nat := ((replayKey i x.p x.pd * 32 + x.bun) * 2 ^ 32 + x.base.toNat) * 64 + x.frame

/-- A reading under a key, logged when it is taken anew, or taken from the log during a replay (R248). -/
def State.readUnder (s : State) (t key slot field : Nat) (v : W64) : W64 × State :=
  let l := (s.tile t).slate
  match (if l.replaying then l.reading? key slot field else none) with
  | some w => (w, s.modSlate t fun l => { l with inlog := takeReading key slot field l.inlog })
  | none => (v, s.modSlate t fun l =>
      { l with inlog := l.inlog ++ [.reading key slot field v .taken], inBytes := l.inBytes + 16 })

/-- A reading by the bundle instance being issued: only a durable frame logs it (R248). -/
def State.reading (s : State) (field : Nat) (v : W64) : W64 × State :=
  if s.iss.frame.pmodeNow then s.readUnder s.iss.tile (readKey s.inst s.iss.set) s.iss.slot field v
  else (v, s)

end Sys2Proof.Machine
end

