-- ==== Sys2Proof/Machine/Memory.lean ====
section
/-! DEFINITION. The LD and SA slot operations (spec/12): checks, local loads with forwarding, and what a bundle instance
then sends, waits for or buffers. -/

namespace Sys2Proof.Machine

/-! ### Bytes of local memory and forwarding (R30, R128, R129) -/

/-- Bytes of an access width. -/
def wbOf (w : BitVec 2) : Nat := 2 ^ w.toNat

/-- The pointers' windows are the same: kind, and key or ordinal. -/
def sameWindow (p q : W64) : Bool :=
  p.extractLsb' 60 4 == q.extractLsb' 60 4 &&
    (match ptrKind p with
     | 1 | 2 => p.extractLsb' 40 20 == q.extractLsb' 40 20
     | 3 => p.extractLsb' 54 6 == q.extractLsb' 54 6
     | _ => true)

/-- The byte of a store lane at a pointer's window and offset. -/
def StLane.byteAt (l : StLane) (p : W64) (off : Nat) : Option Byte :=
  if sameWindow l.ptr p && decide (ptrOff l.ptr ≤ off) && decide (off < ptrOff l.ptr + l.wb) then
    some (BitVec.ofNat 8 (l.data.toNat / 256 ^ (off - ptrOff l.ptr)))
  else none

/-- The place of a firing among those of its bundle in one block instance: by its path, so that a commit does not depend on the order of
their issue (R32; log 96: DESIGN CHOICE, unsafe). -/
def pathRank (p : BitVec 8) (pd : Nat) : Nat := pd * 256 + p.toNat

/-- The buffered stores of bundle b, in the order of their lanes, then of the paths of their firings (R32). -/
def Inst.storesOf (i : Inst) (b : Nat) : List BufStore :=
  let first (x : BufStore) : Nat := (x.lanes.map (·.lane)).headD 0
  (i.stores.filter fun x => x.bun == b).mergeSort fun x y =>
    decide (first x < first y ∨ (first x = first y ∧ pathRank x.p x.pd ≤ pathRank y.p y.pd))

/-- The lanes of the buffered stores of some firings of a bundle, in the order in which a commit applies them. -/
def Inst.lanesOf (i : Inst) (bun : Nat) (fires : List Nat) : List StLane :=
  ((i.storesOf bun).filter fun b => fires.contains b.fire).flatMap (·.lanes)

/-- The byte that the stores ordered before the bundle instance would leave there at commit (R30). -/
def State.forwarded (s : State) (p : W64) (off : Nat) : Option Byte :=
  let i := s.inst
  (List.range 32).foldl (fun acc bun =>
    (i.lanesOf bun s.iss.set.chain).foldl (fun acc l => match l.byteAt p off with | some v => some v | none => acc) acc) none

/-- The forwarded bytes of an element, by index. -/
def State.fwdBytes (s : State) (p : W64) (wb : Nat) : AMap Byte :=
  (List.range wb).filterMap fun k => (s.forwarded p (ptrOff p + k)).map fun v => (k, v)

/-- Bytes of an element with the forwarded ones in place, as a value. -/
def overlay (fwd : AMap Byte) (bs : List Byte) : W64 :=
  w64 (fromBytes ((List.range bs.length).map fun k => (fwd.get? k).getD (bs.getD k 0)))

/-- An element at a pointer: bound at once from local memory, or left to the home or the stash (R301). -/
def State.loadEl (s : State) (p : W64) (wb : Nat) (forward : Bool) : LoadEl :=
  let fwd := if forward then s.fwdBytes p wb else []
  if isLocal p then
    ⟨p, wb, fwd, some (overlay fwd ((s.c s.iss.tile).scratch.readBytes (s.iss.frame.localAddr p) wb))⟩
  else if fwd.length = wb then ⟨p, wb, fwd, some (overlay fwd (List.replicate wb 0))⟩
  else ⟨p, wb, fwd, none⟩

/-- The value of a load whose elements are all bound. -/
def loadValue (els : List LoadEl) (vec : Option W32) : Val :=
  match vec with
  | some b => .vector b (els.map fun e => (e.val.getD 0).setWidth 32)
  | none => .scalar (((els.map fun e => e.val.getD 0).headD 0))

/-- A load of the given elements: delivered at once when every element is bound, else waited for, its requests leaving
with the bundle instance (R135, R296). -/
def State.doLoad (s : State) (ps : List W64) (wb : Nat) (vec : Option W32) (acq : Bool) (v : VDst) (done : Option Target) : State :=
  match s.tgtsFault (v.tgts ++ done.toList) with
  | some i => s.fault i
  | none =>
    let els := ps.map fun p => s.loadEl p wb (!acq)
    if els.all fun e => e.val.isSome then
      s.modIss fun i => (i.vdst v (loadValue els vec)).put 1 done .order
    else
      let w := s.iss.nextWait
      let sends := (List.range ps.length).filterMap fun j =>
        match (els.getD j ⟨0, 0, [], none⟩).val with
        | some _ => none
        | none => some (Send.load (ps.getD j 0) wb acq w j)
      (s.addWait (.load els vec) v.dest (doneDest done) acq).modIss fun i => { i with sends := i.sends ++ sends }

/-- The first fault of the checks of R97 over the lanes of an access. -/
def State.lanesFault (s : State) (ps : List W64) (wb : Nat) : Option FaultInfo :=
  (List.range ps.length).findSome? fun j => ptrFault s.acc (ps.getD j 0) wb wb j

/-- A load after the checks of R97. -/
def State.checkedLoad (s : State) (ps : List W64) (wb : Nat) (vec : Option W32) (acq : Bool) (v : VDst) (done : Option Target) : State :=
  match s.lanesFault ps wb with
  | some i => s.fault i
  | none => s.doLoad ps wb vec acq v done

/-- Lane numbers of the run. -/
def State.runLanes (s : State) : List Nat := List.range s.iss.set.len

/-! ### Bounded pairs and generators (R299, R300) -/

/-- The register after an even one. -/
def State.pairLimit (s : State) (a : Src) : W64 := match a with | .f r => s.iss.frame.reg (r.toNat + 1) | _ => 0

/-- The lanes of an indexed access, or the fault of the first lane that fails: its index, then the checks of R97
(R120, R298). -/
def State.indexed (s : State) (a x : Src) (wb : Nat) : Except FaultInfo (List W64) :=
  let idx := s.vec x
  (List.range s.iss.set.len).mapM fun j =>
    let i := (lane idx j).toNat
    if i ≥ (s.pairLimit a).toNat then .error { cause := .idxbound, addr := w64 i, lane := j }
    else
      let p := adda (s.sc a) (w64 (i * wb))
      match ptrFault s.acc p wb wb j with
      | some f => .error f
      | none => .ok p
where
  lane (l : List W32) (j : Nat) : W32 := l.getD j 0

/-- The generator a source names, if it is configured. -/
def State.genOf (s : State) (a : Src) : Option Gen :=
  let n := (s.sc a).toNat
  if n ≥ 8 then none
  else match s.iss.frame.ags.get? n with
    | some u => ((s.c s.iss.tile).ags.get? u).bind (·.gen)
    | none => none

/-- Elements of a generator. -/
def Gen.total (g : Gen) : Nat := (g.cnt.take g.ndim).foldl (· * ·) 1

/-- The byte offset of element e (R300). -/
def Gen.offset (g : Gen) (e : Nat) : Int :=
  ((List.range g.ndim).foldl (fun (acc : Nat × Int) d =>
    let n := g.cnt.getD d 1
    (acc.1 / n, acc.2 + (acc.1 % n : Nat) * g.str.getD d 0)) (e, 0)).2

/-- AgElem (R300). -/
def Gen.elem (g : Gen) (e : Nat) : W64 := g.base + BitVec.ofInt 64 (g.offset e)

/-- The lanes of a generator access (R298, R300). -/
def State.genLanes (s : State) (a off : Src) (wb : Nat) : Except FaultInfo (List W64) :=
  match s.genOf a with
  | none => .error { cause := .agbound }
  | some g =>
    if g.esize ≠ wb then .error { cause := .agbound }
    else (List.range s.iss.set.len).mapM fun j =>
      let e := bits (s.sc off) 31 0 + s.iss.set.base.toNat + j
      if e ≥ g.total then .error { cause := .idxbound, addr := w64 e, lane := j } else .ok (g.elem e)

/-! ### Loads (R297, R301) -/

/-- LD (R301). -/
def execLd (w : BitVec 2) (a b _ord : Src) (v : VDst) (done : Option Target) (s : State) : Host.Outcome State Fault Refusal :=
  .next (s.checkedLoad [adda (s.sc a) (s.sc b)] (wbOf w) none false v done)

/-- LDV (R297): consecutive elements. -/
def execLdv (w : BitVec 2) (a b _ord : Src) (v : VDst) (done : Option Target) (s : State) : Host.Outcome State Fault Refusal :=
  .next (s.checkedLoad (s.runLanes.map fun j => adda (s.sc a) (s.sc b + w64 (j * wbOf w))) (wbOf w) (some s.iss.set.base) false v done)

/-- LDS (R297): elements a stride apart. -/
def execLds (w : BitVec 2) (a b _ord : Src) (v : VDst) (done : Option Target) (s : State) : Host.Outcome State Fault Refusal :=
  .next (s.checkedLoad (s.runLanes.map fun j => adda (s.sc a) (w64 j * s.sc b)) (wbOf w) (some s.iss.set.base) false v done)

/-- LDX (R299). -/
def execLdx (w : BitVec 2) (a b _ord : Src) (v : VDst) (done : Option Target) (s : State) : Host.Outcome State Fault Refusal :=
  match s.indexed a b (wbOf w) with
  | .error f => .next (s.fault f)
  | .ok ps => .next (s.doLoad ps (wbOf w) (some s.iss.set.base) false v done)

/-- LDAG (R300). -/
def execLdag (w : BitVec 2) (a b _ord : Src) (v : VDst) (done : Option Target) (s : State) : Host.Outcome State Fault Refusal :=
  match s.genLanes a b (wbOf w) with
  | .error f => .next (s.fault f)
  | .ok ps => .next (s.doLoad ps (wbOf w) (some s.iss.set.base) false v done)

/-- The value of LDQ when a check fails (R301). -/
def ldqFail (n : Nat) : W64 := w64 ((match n with | 3 => 2 | 6 => 3 | _ => 1) * 2 ^ 32)

/-- LDQ (R301): it never faults on the checks of R97; a value read at once is a logged reading (R310). -/
def execLdq (w : BitVec 2) (a b _ord : Src) (v : VDst) (done : Option Target) (s : State) : Host.Outcome State Fault Refusal :=
  let p := adda (s.sc a) (s.sc b)
  let give (x : W64) : State :=
    match s.tgtsFault (v.tgts ++ done.toList) with
    | some i => s.fault i
    | none =>
      let r := s.reading 2 x
      r.2.modIss fun i => (i.vdst v (.scalar r.1)).put 1 done .order
  match ptrCheck s.acc p (wbOf w) (wbOf w) with
  | 0 =>
    let x := (s.loadEl p (wbOf w) true).val
    if isLocal p || x.isSome then .next (give (x.getD 0)) else .next (s.doLoad [p] (wbOf w) none false v done)
  | n => .next (give (ldqFail n))

/-- LDACQ (R137, R301): nothing is forwarded, and the stash is bypassed. -/
def execLdacq (w : BitVec 2) (a b _ord : Src) (v : VDst) (done : Option Target) (s : State) : Host.Outcome State Fault Refusal :=
  .next (s.checkedLoad [adda (s.sc a) (s.sc b)] (wbOf w) none true v done)

/-- PREF (R302): nothing where a check fails or the pointer is not global. -/
def execPref (rx : Bool) (a b _ord : Src) (s : State) : Host.Outcome State Fault Refusal :=
  let p := adda (s.sc a) (s.sc b)
  if ptrCheck s.acc p 1 1 = 0 ∧ ptrKind p = 0 then .next (s.modIss fun i => { i with sends := i.sends ++ [.pref p rx] })
  else .next s

/-- The stash line of a frame that holds an address. -/
def CDom.stLine (c : CDom) (f va : Nat) : Option StLine := c.stash.find? fun l => l.frame == f && l.va == va / 512 * 512

/-- The state of a stash line as STASHQ gives it (R302). -/
def StLine.query (l : StLine) : W64 :=
  let code (x : SecSt) : Nat := match x with | .i => 0 | .p => 1 | .v => 2 | .d => 3
  w64 (l.perm + (List.range 4).foldl (fun n k => n + ((l.sectors[k]?).map fun q => code q.st).getD 0 * 4 ^ (k + 1)) 0)

/-- STASHQ (R302), a logged reading (R310). -/
def execStashq (a _ord : Src) (v : VDst) (done : Option Target) (s : State) : Host.Outcome State Fault Refusal :=
  let p := s.sc a
  let x : W64 := if ptrCheck s.acc p 1 1 = 0 ∧ ptrKind p = 0 then
      match (s.c s.iss.tile).stLine s.iss.set.frame (ptrOff p) with
      | some l => l.query
      | none => 0
    else 0
  match s.tgtsFault (v.tgts ++ done.toList) with
  | some i => .next (s.fault i)
  | none =>
    let r := s.reading 2 x
    .next (r.2.modIss fun i => (i.vdst v (.scalar r.1)).put 1 done .order)

/-! ### Stores (R297, R303) -/

/-- A held token of a done target. -/
def doneTok (t : Option Target) : Option HeldTok := t.map fun x => x.held .order

/-- The place of lane j in the instance's run. -/
def State.laneIx (s : State) (j : Nat) : Nat := s.iss.set.base.toNat - s.inst.runBase.toNat + j

/-- A store of the given lanes, buffered (R30). -/
def State.buffer (s : State) (ps : List W64) (data : List W64) (wb : Nat) (sc : BitVec 2) (rel : Bool) (done : Option Target) : State :=
  match lateFault s.inst.ctx done with
  | some i => s.fault i
  | none => s.modIss fun i =>
    { i with stores := i.stores ++ [⟨i.set.bun, (List.range ps.length).map fun j =>
        ⟨s.laneIx j, ps.getD j 0, wb, data.getD j 0⟩, sc, rel, doneTok done, i.id, i.set.p, i.set.pd⟩] }

/-- A store after the checks of R97. -/
def State.checkedStore (s : State) (ps : List W64) (data : List W64) (wb : Nat) (sc : BitVec 2) (rel : Bool) (done : Option Target) : State :=
  match s.lanesFault ps wb with
  | some i => s.fault i
  | none =>
    if rel && (match ps with | p :: _ => isLocal p | [] => false) then s.fault { cause := .winfault, addr := ps.headD 0 }
    else s.buffer ps data wb sc rel done

/-- The data lanes of a vector store. -/
def State.dataLanes (s : State) (b : Src) : List W64 := (s.vec b).map (·.setWidth 64)

/-- ST (R303). -/
def execSt (sc w : BitVec 2) (a b e _ord : Src) (done : Option Target) (s : State) : Host.Outcome State Fault Refusal :=
  .next (s.checkedStore [adda (s.sc a) (s.sc e)] [s.sc b] (wbOf w) sc false done)

/-- STV (R303). -/
def execStv (sc w : BitVec 2) (a b e _ord : Src) (done : Option Target) (s : State) : Host.Outcome State Fault Refusal :=
  .next (s.checkedStore (s.runLanes.map fun j => adda (s.sc a) (s.sc e + w64 (j * wbOf w))) (s.dataLanes b) (wbOf w) sc false done)

/-- STS (R303). -/
def execSts (sc w : BitVec 2) (a b e _ord : Src) (done : Option Target) (s : State) : Host.Outcome State Fault Refusal :=
  .next (s.checkedStore (s.runLanes.map fun j => adda (s.sc a) (w64 j * s.sc e)) (s.dataLanes b) (wbOf w) sc false done)

/-- STX (R299, R303). -/
def execStx (sc w : BitVec 2) (a b e _ord : Src) (done : Option Target) (s : State) : Host.Outcome State Fault Refusal :=
  match s.indexed a e (wbOf w) with
  | .error f => .next (s.fault f)
  | .ok ps => .next (s.buffer ps (s.dataLanes b) (wbOf w) sc false done)

/-- STAG (R300, R303). -/
def execStag (sc w : BitVec 2) (a b e _ord : Src) (done : Option Target) (s : State) : Host.Outcome State Fault Refusal :=
  match s.genLanes a e (wbOf w) with
  | .error f => .next (s.fault f)
  | .ok ps => .next (s.buffer ps (s.dataLanes b) (wbOf w) sc false done)

/-- STREL (R137, R303): home-slice memory only. -/
def execStrel (sc w : BitVec 2) (a b e _ord : Src) (done : Option Target) (s : State) : Host.Outcome State Fault Refusal :=
  .next (s.checkedStore [adda (s.sc a) (s.sc e)] [s.sc b] (wbOf w) sc true done)

/-! ### Atomics (R298, R304) -/

/-- An atomic, checked and buffered until commit. `flag` marks the forms whose D must be 0 or 1. -/
def State.atomic (s : State) (op : Nat) (sc w : BitVec 2) (a b e : Src) (flag : Bool) (v : VDst) (done : Option Target) : State :=
  let p := s.sc a
  match ptrFault s.acc p (wbOf w) (wbOf w) 0 with
  | some i => s.fault i
  | none =>
    if !isLocal p && !s.iss.frame.pmodeNow then s.fault { cause := .atomrst }
    else if flag && decide ((s.sc e).toNat > 1) then s.fault { cause := .illop }
    else
      let vt := match v with | .target t => t | _ => none
      match lateFault s.inst.ctx vt, lateFault s.inst.ctx done with
      | some i, _ => s.fault i
      | _, some i => s.fault i
      | none, none =>
        s.addEff { bun := 0, slot := 0, op := .atomic op (wbOf w) sc, a := p, b := s.sc b, e := s.sc e,
                   val := vt.map fun t => t.held (.scalar 0), done := doneTok done }

/-- AADD (R304). -/
def execAadd (sc w : BitVec 2) (a b _ord : Src) (v : VDst) (done : Option Target) (s : State) : Host.Outcome State Fault Refusal :=
  .next (s.atomic 0x10 sc w a b .zero false v done)

/-- AMIN (R304). -/
def execAmin (sc w : BitVec 2) (a b e _ord : Src) (v : VDst) (done : Option Target) (s : State) : Host.Outcome State Fault Refusal :=
  .next (s.atomic 0x11 sc w a b e true v done)

/-- AMAX (R304). -/
def execAmax (sc w : BitVec 2) (a b e _ord : Src) (v : VDst) (done : Option Target) (s : State) : Host.Outcome State Fault Refusal :=
  .next (s.atomic 0x12 sc w a b e true v done)

/-- AAND (R304). -/
def execAand (sc w : BitVec 2) (a b _ord : Src) (v : VDst) (done : Option Target) (s : State) : Host.Outcome State Fault Refusal :=
  .next (s.atomic 0x13 sc w a b .zero false v done)

/-- AOR (R304). -/
def execAor (sc w : BitVec 2) (a b _ord : Src) (v : VDst) (done : Option Target) (s : State) : Host.Outcome State Fault Refusal :=
  .next (s.atomic 0x14 sc w a b .zero false v done)

/-- AXOR (R304). -/
def execAxor (sc w : BitVec 2) (a b _ord : Src) (v : VDst) (done : Option Target) (s : State) : Host.Outcome State Fault Refusal :=
  .next (s.atomic 0x15 sc w a b .zero false v done)

/-- AXCHG (R304). -/
def execAxchg (sc w : BitVec 2) (a b _ord : Src) (v : VDst) (done : Option Target) (s : State) : Host.Outcome State Fault Refusal :=
  .next (s.atomic 0x16 sc w a b .zero false v done)

/-- ACAS (R304). -/
def execAcas (sc w : BitVec 2) (a b e _ord : Src) (v : VDst) (done : Option Target) (s : State) : Host.Outcome State Fault Refusal :=
  .next (s.atomic 0x17 sc w a b e false v done)

/-- AFADD (R304). -/
def execAfadd (sc w : BitVec 2) (a b _ord : Src) (v : VDst) (done : Option Target) (s : State) : Host.Outcome State Fault Refusal :=
  .next (s.atomic 0x18 sc w a b .zero false v done)

/-- AFADD2 (R304). -/
def execAfadd2 (sc w : BitVec 2) (a b e _ord : Src) (v : VDst) (done : Option Target) (s : State) : Host.Outcome State Fault Refusal :=
  .next (s.atomic 0x19 sc w a b e true v done)

/-- AINCW (R304). -/
def execAincw (sc w : BitVec 2) (a b _ord : Src) (v : VDst) (done : Option Target) (s : State) : Host.Outcome State Fault Refusal :=
  .next (s.atomic 0x1A sc w a b .zero false v done)

/-- ADECW (R304). -/
def execAdecw (sc w : BitVec 2) (a b _ord : Src) (v : VDst) (done : Option Target) (s : State) : Host.Outcome State Fault Refusal :=
  .next (s.atomic 0x1B sc w a b .zero false v done)

/-- The new value of an atomic on w bytes (R304): `op` is its opcode. -/
def atomicNew (op wb : Nat) (old b d : Nat) : Nat :=
  let m := 2 ^ (8 * wb)
  let o := old % m
  let x := b % m
  let sgn (v : Nat) : Int := signedOf (8 * wb) v
  match op with
  | 0x10 => (o + x) % m
  | 0x11 => if d = 0 then (if sgn x < sgn o then x else o) else min o x
  | 0x12 => if d = 0 then (if sgn o < sgn x then x else o) else max o x
  | 0x13 => o &&& x
  | 0x14 => o ||| x
  | 0x15 => o ^^^ x
  | 0x16 => x
  | 0x17 => if o = x then d % m else o
  | 0x18 => if wb = 4 then (fadd Fmt.f32 o x).1 else (fadd Fmt.a48 (o % 2 ^ 48) (x % 2 ^ 48)).1
  | 0x19 =>
    let f := if d = 0 then Fmt.bf16 else Fmt.f16
    (fadd f (o % 65536) (x % 65536)).1 + (fadd f (o / 65536) (x / 65536)).1 * 65536
  | 0x1A => if o ≥ x then 0 else o + 1
  | _ => if o = 0 ∨ o > x then x else o - 1

/-! ### Order, drain and persistence (R306 to R308) -/

/-- A wait whose only result is an order token; `line` says what a stash operation acts on. -/
def State.orderWait (s : State) (w : Wait) (done : Option Target) (line : Option (Option W64 × Bool) := none) : State :=
  match s.tgtsFault done.toList with
  | some i => s.fault i
  | none => s.addWait w {} (doneDest done) false line

/-- DRAIN (R136, R306): it covers the frame's commits before issue. -/
def execDrain (sc : BitVec 2) (_ord : Src) (done : Option Target) (s : State) : Host.Outcome State Fault Refusal :=
  .next (s.orderWait (.drain sc (s.c s.iss.tile).commitSeq) done)

/-- ORDJOIN (R306): its token is delivered when the bundle instance fires. -/
def execOrdjoin (_a _b _e _ord : Src) (done : Option Target) (s : State) : Host.Outcome State Fault Refusal :=
  match s.tgtsFault done.toList with
  | some i => .next (s.fault i)
  | none => .next (s.modIss fun i => i.put 1 done .order)

/-- PFENCE (R147, R307): the epoch's target is COMMITSEQ at issue; scope 11 is ILLOP. -/
def execPfence (sc : BitVec 2) (_ord : Src) (done : Option Target) (s : State) : Host.Outcome State Fault Refusal :=
  let n := (s.c s.iss.tile).commitSeq
  if sc = 3 then .next (s.fault { cause := .illop }) else .next (s.orderWait (.pfence sc n n) done)

/-- FLUSHS and INVS of one line (R308). -/
def State.flushLine (s : State) (sc : BitVec 2) (inv : Bool) (a : Src) (done : Option Target) : State :=
  let p := s.sc a
  match ptrFault s.acc p 1 1 0 with
  | some i => s.fault i
  | none =>
    let w := s.iss.nextWait
    let line : W64 := w64 (ptrOff p / 512 * 512)
    let st := s.orderWait (.flush sc []) done (if ptrKind p = 0 then some (some line, inv) else none)
    if ptrKind p = 0 && st.iss.active then st.modIss fun i => { i with sends := i.sends ++ [.flush (some line) inv w] } else st

/-- FLUSHS and INVS of every line (R308). -/
def State.flushAll (s : State) (sc : BitVec 2) (inv : Bool) (done : Option Target) : State :=
  let w := s.iss.nextWait
  let st := s.orderWait (.flush sc []) done (some (none, inv))
  if st.iss.active then st.modIss fun i => { i with sends := i.sends ++ [.flush none inv w] } else st

/-- FLUSHS line (R308). -/
def execFlushsLine (sc : BitVec 2) (a _ord : Src) (done : Option Target) (s : State) : Host.Outcome State Fault Refusal :=
  .next (s.flushLine sc false a done)

/-- FLUSHS all (R308). -/
def execFlushsAll (sc : BitVec 2) (_ord : Src) (done : Option Target) (s : State) : Host.Outcome State Fault Refusal :=
  .next (s.flushAll sc false done)

/-- INVS line (R308). -/
def execInvsLine (sc : BitVec 2) (a _ord : Src) (done : Option Target) (s : State) : Host.Outcome State Fault Refusal :=
  .next (s.flushLine sc true a done)

/-- INVS all (R308). -/
def execInvsAll (sc : BitVec 2) (_ord : Src) (done : Option Target) (s : State) : Host.Outcome State Fault Refusal :=
  .next (s.flushAll sc true done)

end Sys2Proof.Machine
end

