-- ==== Sys2Proof/Machine/Waits.lean ====
section
/-! DEFINITION. The issued bundle instances of a tile: the tokens they deliver and the waits that end (R28, R133, R187,
R296, R312), and late tokens (R61, R65, R133). -/

namespace Sys2Proof

/-- A tag-op that stays in the instance (R28). -/
def TagOp.inside : TagOp → Bool
  | .next | .exit | .spawn => false
  | _ => true

end Sys2Proof

namespace Sys2Proof.Machine

/-! ### Issued bundle instances -/

def CDom.issue? (c : CDom) (id : Nat) : Option Issue := c.issued.find? fun x => x.id == id

/-- The bundle instance of an identity, changed. -/
def CDom.modIssue (c : CDom) (id : Nat) (f : Issue → Issue) : CDom :=
  { c with issued := c.issued.map fun x => if x.id = id then f x else x }

def CDom.dropIssue (c : CDom) (id : Nat) : CDom := { c with issued := c.issued.filter fun x => x.id != id }

/-- Tokens put into delivery in this cycle by PE0, PE1 or an ingress port, in the order of R57: 0 and 1 the PEs, 2 to 6 the
ports N, E, S, W, local. A token that a commit, or an event inside the tile, delivers counts as local (log 52: DESIGN CHOICE, safe). -/
def CDom.enqueue (c : CDom) (src : Nat) (l : List Tok) : CDom :=
  let first (y : Tok) : Bool := decide (y.cycle < c.cycle) || (y.cycle == c.cycle && decide (y.src ≤ src))
  { c with arrivals := c.arrivals.takeWhile first ++ (l.map fun k => { k with cycle := c.cycle, src := src }) ++ c.arrivals.dropWhile first }

/-- P and PD after a path tag-op (R54). -/
def stepPath (p : BitVec 8) (pd : Nat) : TagOp → BitVec 8 × Nat
  | .path0 => (p <<< 1, pd + 1)
  | .path1 => ((p <<< 1) ||| 1, pd + 1)
  | .strip => (p >>> 1, pd - 1)
  | _ => (p, pd)

/-- The token a held token becomes in its own instance: a vector token of a vector instance is matched by run (R58). -/
def HeldTok.toTok (h : HeldTok) (f n : Nat) (i : Inst) (p : BitVec 8) (pd : Nat) (chain : List Nat) : Tok :=
  let q := stepPath p pd h.top
  { frame := f, inst := n, p := q.1, pd := q.2, bun := h.bun, port := h.port, val := h.val,
    loopKey := if h.val.isVector && decide (i.runLen > 0) then some i.loopId else none, block := i.block, chain := chain }

/-- The firings whose buffered stores stand before the tokens of a bundle instance (R30). -/
def Issue.chain (x : Issue) : List Nat := if slotPresent x.bundle 5 then x.set.chain ++ [x.id] else x.set.chain

/-- A token that no wait before it, aimed at the same bundle, port and tag-op, holds back (R187). -/
def Issue.ready (x : Issue) (o : OutTok) : Bool :=
  !(x.waits.any fun w => decide (w.slot < o.slot) && (w.dst.toks ++ w.done.toks).any fun (g : Target) =>
    g.bun.toNat == o.tok.bun && g.port.toNat == o.tok.port && g.top == o.tok.top)

/-- Tokens in slot order, then in their order within the slot (R187). -/
def sortToks (l : List OutTok) : List OutTok :=
  l.mergeSort fun a b => decide (a.slot < b.slot) || (a.slot == b.slot && decide (a.rank ≤ b.rank))

/-- The tokens of an issued bundle instance that can leave now: those that stay in the instance go into delivery inside
the tile, the others are held until commit (R28). A bundle instance that has slots to perform delivers nothing yet (R34). -/
def CDom.deliverReady (c : CDom) (id : Nat) (src : Nat := 6) : CDom :=
  match c.issue? id with
  | none => c
  | some x =>
    if x.withheld || !x.todo.isEmpty then c
    else
      let toks := sortToks x.toks
      let go := toks.filter x.ready
      let stay := toks.filter fun o => !x.ready o
      let i := c.instD x.set.frame x.inst
      let inn := (go.filter fun o => o.tok.top.inside).map fun o => o.tok.toTok x.set.frame x.inst i x.set.p x.set.pd x.chain
      let out := (go.filter fun o => !o.tok.top.inside).map fun o => o.tok.from x.id o.slot
      let c := c.modIssue id fun x => { x with toks := stay }
      (c.enqueue src inn).modInst x.inst fun i => { i with held := i.held ++ out }

/-- The tokens that a buffered store or effect fires at its commit, marked with their bundle instance (R187). -/
def BufStore.from (fid : Nat) (b : BufStore) : BufStore := { b with done := b.done.map (·.from fid 5) }
def Eff.from (fid : Nat) (e : Eff) : Eff := { e with val := e.val.map (·.from fid e.slot), done := e.done.map (·.from fid e.slot) }

/-- The effects a bundle instance has buffered are entered in its block instance (R30, R312), once every slot is performed (R34). -/
def CDom.enterEffects (c : CDom) (id : Nat) : CDom :=
  match c.issue? id with
  | none => c
  | some x =>
    if x.withheld || !x.todo.isEmpty then c
    else
      let c := c.modInst x.inst fun i =>
        { i with stores := i.stores ++ x.stores.map (BufStore.from x.id), fwrites := i.fwrites ++ x.fwrites
                 effs := i.effs ++ x.effs.map (Eff.from x.id), flags := i.flags ||| x.flags }
      c.modIssue id fun x => { x with stores := [], fwrites := [], effs := [], flags := 0 }

/-- A suspended bundle instance goes on where no other one is being issued (R193). -/
def State.resume (s : State) (t id : Nat) : State :=
  match (s.c t).issue? id with
  | some x => if x.todo ≠ [] ∧ !s.iss.active then { s.modC t (fun c => c.dropIssue id) with iss := { x with active := true } } else s
  | none => s

/-- A wait that withholds the bundle instance's results (R312). -/
def PWait.holds (q : PWait) : Bool :=
  match q.wait with
  | .spop _ _ | .wuntil _ _ | .barw | .sigwait => true
  | _ => false

/-- A wait ends with a value: its value and its order token leave the wait (R296, R312). `src` is the port the answer came by. -/
def State.endWait (s : State) (t id w : Nat) (v : Val) (src : Nat := 6) : State :=
  match (s.c t).issue? id with
  | none => s
  | some x =>
    match x.waits.find? fun q => q.id == w with
    | none => s
    | some q =>
      let s := if q.due then s.modC t fun c => c.subDue x.inst 1 else s
      let s := s.modC t fun c => c.modIssue id fun x =>
        ({ x with waits := x.waits.filter fun q => q.id != w }.putDest q.slot 0 q.dst v).putDest q.slot 2 q.done .order
      let s := s.modC t fun c => c.modIssue id fun x => { x with withheld := x.withheld && x.waits.any fun q => q.holds }
      (s.modC t fun c => (c.enterEffects id).deliverReady id src).resume t id

/-- The reading that stands for the answer of a BARW or SIGWAIT in the inbound log (R148, R340). -/
def waitField : Nat := 512

/-- A BARW or SIGWAIT ends: the inbound log of a durable frame takes its answer, as a reading under its replay key (R148). -/
def State.endRemote (s : State) (t id w : Nat) (src : Nat := 6) : State :=
  let s := match (s.c t).issue? id with
    | some x => (match x.waits.find? fun (q : PWait) => q.id == w with
      | some q => if x.frame.pmodeNow then (s.readUnder t (readKey ((s.c t).instD x.set.frame x.inst) x.set) q.slot waitField 0).2 else s
      | none => s)
    | none => s
  s.endWait t id w .order src

/-- An element of a load is bound to bytes (R133, R301): the last one ends the wait. -/
def State.bindEl (s : State) (t id w j : Nat) (bs : List Byte) (src : Nat := 6) : State :=
  match (s.c t).issue? id with
  | none =>
    let r := (s.c t).orphanReply id w
    if r.1 then (s.setC t r.2).countT t 0 1 else s.setC t r.2
  | some x =>
    match x.waits.find? fun q => q.id == w with
    | none => s
    | some q =>
      match q.wait with
      | .load els vec =>
        match els[j]? with
        | none => s
        | some e =>
          let (v, s) := if x.frame.pmodeNow then
              s.readUnder t (readKey ((s.c t).instD x.set.frame x.inst) x.set) q.slot (256 + j) (overlay e.fwd bs)
            else (overlay e.fwd bs, s)
          let els := els.set j { e with val := some v }
          let s := s.modC t fun c => c.modIssue id fun x =>
            { x with waits := x.waits.map fun p => if p.id = w then { p with wait := .load els vec } else p }
          if els.all fun e => e.val.isSome then s.endWait t id w (loadValue els vec) src else s
      | _ => s

/-! ### Late tokens (R49, R50, R61, R65, R133) -/

/-- A token put into delivery to a live instance under a path; with a block of its own for a loop's body (R58, R61). -/
def CDom.giveTok (c : CDom) (n : Nat) (p : BitVec 8) (pd : Nat) (block : Option Nat) (h : HeldTok) (src : Nat := 6) : CDom :=
  match c.inst? n with
  | none => c
  | some i =>
    let key := if h.val.isVector && decide (i.runLen > 0) then some i.loopId else none
    c.enqueue src [{ frame := i.frame, inst := n, p := p, pd := pd, bun := h.bun, port := h.port, val := h.val, loopKey := key,
                     block := block.getD i.block }]

/-- The tag-ops that name an instance other than the committed one. -/
def TagOp.leaves (o : TagOp) : Bool := match o with | .next | .exit => true | _ => false

/-- A late token is owed: the counts of R50, and of its loop or call where it leaves its iteration (R65). -/
def CDom.oweLate (c : CDom) (l : Late) : CDom :=
  let c := c.addDue l.inst 1
  if !TagOp.leaves l.tok.top then c else match l.ctx with
  | .iter lp _ => { c with loops := c.loops.adjust lp fun x => { x with late := x.late + 1 } }
  | .call id => { c with calls := c.calls.adjust id fun x => { x with late := x.late + 1 } }
  | .root => c

/-- A late token is no longer owed. -/
def CDom.settleLate (c : CDom) (l : Late) : CDom :=
  let c := c.subDue l.inst 1
  if !TagOp.leaves l.tok.top then c else match l.ctx with
  | .iter lp _ => { c with loops := c.loops.adjust lp fun x => { x with late := x.late - 1 } }
  | .call id =>
    let calls := c.calls.adjust id fun x => { x with late := x.late - 1 }
    { c with calls := calls.keep fun _ x => !(x.ended && x.late == 0) }
  | .root => c

/-- A next token of iteration k (R64): carry-out where an exit has made k the last of a counted loop (R65); to iteration k + 1 where it is live,
kept with the loop where it is still to be spawned or is the carry-out, none where it is complete. It is addressed to the loop's body block (R58): where the instance of
iteration k + 1 has left that block, a token by full tag has no receiver and is dropped as for a retired generation
(log 53: DEDUCED, unsafe). -/
def CDom.nextTok (c : CDom) (lp k : Nat) (h : HeldTok) (src : Nat := 6) : Option CDom :=
  match c.loops.get? lp with
  | none => none
  | some l =>
    let last := !l.isWhile && l.exitK == some k
    let l := if last || (!l.isWhile && l.live.any fun e => e.1 == k) then { l with sentNext := l.sentNext ++ [(k, h)] } else l
    let c := { c with loops := c.loops.set lp l }
    if last then some c
    else match l.live.find? fun e => e.1 == k + 1 with
    | some e =>
      if l.vec && h.val.isVector then
        some (c.enqueue src [{ frame := l.frame, inst := e.2, p := 0, pd := 0, bun := h.bun, port := h.port, val := h.val, loopKey := some l.loopId, block := l.body }])
      else (c.insts.find? fun e => e.2.ctx == .iter lp (k + 1) && e.2.block == l.body).map fun e => c.giveTok (instNum e.1 e.2.gen) 0 0 (some l.body) h src
    | none =>
      if l.committed.contains (k + 1) then none
      else some { c with loops := c.loops.set lp { l with heldNext := l.heldNext ++ [(k, h)] } }

/-- A late token fires with its value: to the iteration, the loop's continuation or the call's return instance, or
dropped and counted, as where that instance has retired (R49, R65, R133). `src` is the port that its answer came by (R57). -/
def State.fireLate (s : State) (t : Nat) (l : Late) (v : Val) (src : Nat := 6) : State :=
  let c := s.c t
  let h := { l.tok with val := v }
  if c.dueOf l.inst = 0 then s.countT t 0 1
  else if (c.frame l.frame).st = .free then (s.setC t (c.subDue l.inst 1)).countT t 0 1
  else
    let c := c.settleLate l
    match h.top, l.ctx with
    | .next, .iter lp k => match c.nextTok lp k h src with
      | some c => s.setC t c
      | none => (s.setC t c).countT t 0 1
    | .exit, .iter lp k =>
      if c.loops.has lp then s.setC t { c with loops := c.loops.adjust lp fun x => { x with lateToks := x.lateToks ++ [(k, h)] } }
      else (s.setC t c).countT t 0 1
    | .exit, .call id => match (s.c t).calls.get? id with
      | some x => match x.returned with
        | some n => if (c.inst? n).isSome then s.setC t (c.giveTok n 0 0 none h src) else (s.setC t c).countT t 0 1
        | none =>
          if x.ended then (s.setC t c).countT t 0 1
          else s.setC t { c with calls := c.calls.adjust id fun x => { x with held := x.held ++ [h] } }
      | none => (s.setC t c).countT t 0 1
    | _, _ => (s.setC t c).countT t 0 1

/-- A late token that fires nothing is settled: an operation discarded, refused or without its answer. -/
def State.dropLate (s : State) (t : Nat) (l : Option Late) : State :=
  match l with
  | some l => s.modC t fun c => c.settleLate l
  | none => s

/-- The value of a supervisor operation that completes after its commit (R312, R347): to its token, or to the register of frame 63 that
it names (log 73: DEDUCED, unsafe); that of a durable frame is logged (R148). -/
def State.supValue (s : State) (t : Nat) (late : Option Late) (reg : Option Nat) (key : Option (Nat × Nat)) (v : Val) : State :=
  let s := match key with | some k => (s.readUnder t k.1 k.2 512 v.word).2 | none => s
  let s := match reg with | some r => s.modFrame t 63 fun fr => { fr with regs := fr.regs.set r v.word } | none => s
  match late with | some l => s.fireLate t l v | none => s

/-- An order token of an operation that is done, where it has one. -/
def State.fireDone (s : State) (t : Nat) (l : Option Late) (src : Nat := 6) : State :=
  match l with
  | some l => s.fireLate t l .order src
  | none => s

end Sys2Proof.Machine
end

