-- ==== Sys2Proof/Machine/Stash.lean ====
section
/-! DEFINITION. The requests a tile makes of homes and the stash of its frames (R101 to R108, R132, R135, R137). -/

namespace Sys2Proof.Machine

/-! ### Homes of pointers -/

/-- The address space of a partition: its number with the ASID it has now, the tag of home lines, walks and requests (R102). -/
def State.space (s : State) (p : Nat) : Nat := 128 * (s.part p).asid.toNat + p

/-- The partition and the ASID of an address space. -/
def spacePart (q : Nat) : Nat := q % 128
def spaceAsid (q : Nat) : BitVec 16 := BitVec.ofNat 16 (q / 128)

/-- The home tile of a global line of a partition. -/
def State.lineHome (s : State) (p va : Nat) : Nat := Machine.lineHome (s.part p).asid va (s.part p)

/-- The home of a home-slice pointer, whether it is field-shared, and the address at the home (R99, R101). -/
def State.homeTarget (s : State) (t : Nat) (p : W64) : Nat × Bool × Nat :=
  if ptrKind p = 3 then
    let h := fieldSharedHome (s.part (s.partOf t)) (bits p 59 54) (ptrOff p)
    (h.1, true, h.2)
  else (s.lineHome (s.partOf t) (ptrOff p), false, ptrOff p)

/-- The tile of a barrier pointer: the tile itself, or the home of a field-shared address (R331). -/
def State.barrierTile (s : State) (t : Nat) (p : W64) : Nat := if p = 0 then t else (s.homeTarget t p).1

/-- A request of a tile's frame for the home of a pointer. -/
def State.reqFor (s : State) (t f : Nat) (p : W64) (op : HomeOp) (size : Nat) (ret : Ret) : Nat × HomeReq :=
  let h := s.homeTarget t p
  (h.1, { op := op, part := s.space (s.partOf t), fsh := h.2.1, addr := h.2.2, size := size, sender := .tile t, frame := f,
          taskId := (s.frame t f).task.taskId, ret := ret })

/-- A memory request leaves its tile in the request class. -/
def State.sendReq (s : State) (t : Nat) (r : Nat × HomeReq) : State := s.post (.tile t) (.tile r.1) .request (.home r.2)

/-! ### Performance at a scope (R132, R136, R137) -/

/-- A host stream is still to be given a version (R373, R374). -/
def HostSub.owesElem (e : HostSub) (nv : TileName × BitVec 16) : Bool :=
  let d := (nv.2 - nameVer e.lo).toNat
  e.armed && bits e.w2 5 4 == 2 && nameOf e.hi e.lo == nv.1 && decide (d < 32768) && decide (e.count - e.base ≤ d)

/-- A message that carries a published version to its home, or from there to a host subscription. -/
def Msg.brings (m : Msg) (p : Nat) (nv : TileName × BitVec 16) : Bool :=
  match m.body with
  | .name .publish x => x.name == nv.1 && x.ver == nv.2
  | .name .copy x => x.name == nv.1 && x.ver == nv.2 && x.who == .gateway p
  | _ => false

/-- Every delivery of a version that a tile published to a host subscription has landed (R132): the publish is at its home, no
subscription there waits for it, no host stream is still to be given it, and no copy is on its way. -/
def State.hostLanded (s : State) (t p : Nat) (nv : TileName × BitVec 16) : Bool :=
  let n := s.n (s.homeOf p nv.1)
  !(s.net ++ (s.c t).outq.map (·.msg) ++ n.ingress).any (fun m => m.brings p nv) &&
    !(n.names.any fun e => e.name == nv.1 && e.subs.any fun r => r.reg.who == .gateway p && !r.reg.stream && r.resolved == some nv.2 && !r.served) &&
    !((s.vf p).subs.any fun e => e.2.owesElem nv)

/-- Of the versions published, every one of a commit before this one has landed at the host (R132). -/
def State.landedBefore (s : State) (t : Nat) (l : List (TileName × BitVec 16 × Nat)) (commit : Nat) : Bool :=
  l.all fun e => decide (e.2.2 ≥ commit) || s.hostLanded t (s.partOf t) (e.1, e.2.1)

/-- Every version that the frame published by an earlier commit has landed at the host (R132). -/
def State.hostDone (s : State) (t f commit : Nat) : Bool := s.landedBefore t (s.frame t f).published commit

/-- A store or atomic is performed at a scope (R132). -/
def State.pendDone (s : State) (t : Nat) (q : Pend) (scope : BitVec 2) : Bool :=
  if scope = 0 then q.performed || q.place == .sent || q.place == .pushed || q.place == .again || q.place == .stash
  else q.performed && (scope != 3 || s.hostDone t q.frame q.commit)

/-- Every home-slice store and atomic that the frame committed up to a commit is performed at a scope (R136, R137). -/
def State.performedUpTo (s : State) (t f : Nat) (scope : BitVec 2) (upto : Nat) : Bool :=
  (s.c t).pend.all fun q => q.frame != f || decide (q.commit > upto) || s.pendDone t q scope

/-- The claims that a publish waits for are answered: granted, refused, or none (R316). They are those of its name that the frame committed
before it, whose outbound numbers are lower than its own. -/
def State.claimAnswer (s : State) (t f : Nat) (n : Option (TileName × Nat)) : Option Bool :=
  match n with
  | none => some true
  | some (n, o) =>
    let l := (s.frame t f).claims.filter fun c => c.name == n
    let before := l.filter fun c => decide (c.seq < o)
    if before.any fun c => c.answer == some false then some false
    else if before.any fun c => c.answer.isNone then none
    else some (l.any fun c => c.answer == some true)

/-- D covers the entry instance's commit of a durable frame: until then nothing of the frame leaves its tile (R337). -/
def State.covered (s : State) (t f : Nat) : Bool := decide ((s.frame t f).entrySeq ≤ (s.tile t).slate.d)

/-- A held message may leave: its frame is covered, its release set is performed and its claim is granted. -/
def State.mayLeave (s : State) (t : Nat) (h : Held) : Bool :=
  s.covered t h.frame && s.performedUpTo t h.frame h.scope h.upto && s.claimAnswer t h.frame h.needClaims == some true

/-- The bytes of memory that a message is about: field-shared or global, from where, how many. -/
def Body.span (b : Body) : Option (Bool × Nat × Nat) :=
  match b with
  | .home r => some (match r.op with
    | .fill _ => (r.fsh, r.addr / 128 * 128, 128)
    | .rx => (r.fsh, r.addr / 512 * 512, 512)
    | _ => (r.fsh, r.addr, r.size))
  | .writeback va _ _ _ _ _ => some (false, va / 512 * 512, 512)
  | _ => none

/-- An atomic or a SIGADD: those of one frame to one home leave in the order of their numbers (R138). -/
def Body.rmw (b : Body) : Bool := match b with | .home r => (match r.op with | .atomic _ | .sigadd => true | _ => false) | _ => false

/-- A message leaves after an earlier one to the same receiver: they are about the same bytes (R135), both are atomics (R138), or they are
about one name or one barrier (R83, R332). -/
def Body.keepsTo (x y : Body) : Bool :=
  match x, y with
  | .name _ m, .name _ n => m.name == n.name
  | .bar j _ _ _ _, .bar k _ _ _ _ => j == k
  | _, _ => (x.rmw && y.rmw) || (match x.span, y.span with
    | some (g, a, n), some (h, b, m) => g == h && decide (a < b + m) && decide (b < a + n)
    | _, _ => false)

/-- A message passes no held one of its frame to the same receiver that it must follow (R103, R135, R138). -/
def behind (q : List Held) (f : Nat) (m : Msg) : Bool := q.any fun h => h.frame == f && h.msg.dst == m.dst && m.body.keepsTo h.msg.body

/-- A held message of the frame for that home waits until a store in the line is performed (R137). -/
def CDom.awaitsLine (c : CDom) (f va : Nat) (home : Agent) : Bool :=
  c.outq.any fun h => h.frame == f && h.msg.dst == home && h.scope != 0 &&
    c.pend.any fun q => q.frame == f && q.global && q.va / 512 == va / 512 && decide (q.commit ≤ h.upto) && !q.performed

/-- The held messages that a message must follow: a writeback whose stores a held one waits for follows earlier writebacks only, since
it would else wait for what waits for it (R108, R137). -/
def CDom.ahead (c : CDom) (f : Nat) (m : Msg) : List Held :=
  match m.body with
  | .writeback va _ _ _ _ _ =>
    if c.awaitsLine f va m.dst then c.outq.filter fun h => match h.msg.body with | .writeback _ _ _ _ _ _ => true | _ => false else c.outq
  | _ => c.outq

/-- The store or atomic that a message carries has left its tile. -/
def CDom.markSent (c : CDom) (b : Body) : CDom :=
  match b with
  | .home r => { c with pend := c.pend.map fun q =>
      if q.oseq = r.oseq ∧ q.frame = r.frame ∧ q.place = .held then { q with place := .sent } else q }
  | _ => c

/-- A store or atomic regenerated in a replay had been sent before. -/
def CDom.markAgain (c : CDom) (b : Body) : CDom :=
  match b with
  | .home r => { c with pend := c.pend.map fun q =>
      if q.oseq = r.oseq ∧ q.frame = r.frame ∧ q.place = .held then { q with place := .again } else q }
  | _ => c

/-- The outbound log takes an effect of a durable frame, and H follows (R148). An engine's message has no number. -/
def State.logOut (s : State) (t f oseq : Nat) (hash : W64) : State :=
  if (s.frame t f).pmode && oseq != 0 then
    s.modSlate t fun l => { l with outlog := l.outlog ++ [(oseq, f, hash)], h := max l.h oseq }
  else s

/-- A message as its hash takes it: without the instance it comes from, whose number a replay need not repeat (R148). -/
def Body.plain (b : Body) : Body := match b with | .home r => .home { r with at_ := {} } | o => o

/-- An outbound effect leaves its tile (R148). -/
def State.leave (s : State) (t : Nat) (h : Held) : State :=
  ((s.logOut t h.frame h.oseq (Config.effectHash h.msg.body.plain)).modC t fun c => c.markSent h.msg.body).send h.msg

/-- A held message leaves where it may, else it waits (R137, R140). -/
def State.sendHeld (s : State) (t : Nat) (h : Held) : State :=
  if s.mayLeave t h && !behind ((s.c t).ahead h.frame h.msg) h.frame h.msg then s.leave t h
  else s.modC t fun c => { c with outq := c.outq ++ [h] }

/-- The held messages that may now leave do so, in order. -/
def State.releaseHeld (s : State) (t : Nat) : State :=
  let q := (s.c t).outq
  q.foldl (fun s h => s.sendHeld t h) (s.modC t fun c => { c with outq := [] })

/-! ### Stash lines (R104 to R108) -/

def emptySector : StSector := { st := .i, data := [], merge := [], loads := [] }

/-- The stash with a line replaced or added. -/
def CDom.putLine (c : CDom) (l : StLine) : CDom :=
  { c with stash := l :: c.stash.filter fun x => !(x.frame == l.frame && x.va == l.va) }

def CDom.dropLine (c : CDom) (f va : Nat) : CDom :=
  { c with stash := c.stash.filter fun x => !(x.frame == f && x.va == va) }

/-- Sets of a stash of n units and the set of an address (R104). -/
def stashSet (units va : Nat) : Nat := va / 512 % (16 * units)

/-- The D sectors of a line. -/
def StLine.dirty (l : StLine) : List (Nat × List Byte) :=
  (List.range 4).filterMap fun k => match l.sectors[k]? with
    | some q => if q.st = .d then some (k, q.data) else none
    | none => none

/-- A line with its D sectors become V. -/
def StLine.clean (l : StLine) : StLine :=
  { l with sectors := l.sectors.map fun q => if q.st = .d then { q with st := .v } else q }

def StLine.hasP (l : StLine) : Bool := l.sectors.any fun q => q.st == .p

/-- The stores of a frame in a line's sectors leave with a writeback (R132). -/
def CDom.stashLeft (c : CDom) (f va : Nat) : CDom :=
  { c with pend := c.pend.map fun q =>
      if q.frame = f ∧ q.global ∧ q.va / 512 * 512 = va ∧ q.place = .stash then { q with place := .pushed } else q }

/-- The newest of those stores. -/
def CDom.stashNewest (c : CDom) (f va : Nat) : Nat :=
  (c.pend.filter fun q => q.frame == f && q.global && q.va / 512 * 512 == va && q.place == .stash).foldl (fun m q => max m q.oseq) 0

/-- Those stores enter the outbound log as they leave (R148). -/
def State.logStash (s : State) (t f va : Nat) : State :=
  ((s.c t).pend.filter fun q => q.frame == f && q.global && q.va / 512 * 512 == va && q.place == .stash).foldl
    (fun s q => s.logOut t q.frame q.oseq q.hash) s

/-- D sectors of a line are sent to its home in the writeback class (R105, R108), once the frame is covered (R337); `keep` where the
line stays. -/
def State.writeback (s : State) (t : Nat) (l : StLine) (keep : Bool) (flush : Option (Nat × Nat × Nat)) : State :=
  let h := s.lineHome (s.partOf t) l.va
  let upto := (s.c t).stashNewest l.frame l.va
  let s := s.logStash t l.frame l.va
  let m : Msg := ⟨.tile t, .tile h, .writeback, .writeback l.va l.frame l.dirty keep upto flush, 0, false⟩
  (s.modC t fun c => c.stashLeft l.frame l.va).sendHeld t ⟨m, l.frame, 0, 0, 0, none⟩

/-- A victim leaves the stash: silently when clean (R108). -/
def State.evictLine (s : State) (t : Nat) (l : StLine) : State :=
  let s := if l.dirty.isEmpty then s else s.writeback t l false none
  s.modC t fun c => c.dropLine l.frame l.va

/-- A way for a line of a frame (R108), or none where every way has a sector in P. -/
def State.stashRoom (s : State) (t f va : Nat) : Option State :=
  let c := s.c t
  let u := (c.frame f).task.stashu
  let set := c.stash.filter fun l => l.frame == f && stashSet u l.va == stashSet u va
  if set.length < 8 then some s
  else
    match (set.filter fun l => !l.hasP).foldl (fun m l => match m with
      | none => some l
      | some b => if l.used < b.used then some l else some b) (none : Option StLine) with
    | some v => some (s.evictLine t v)
    | none => none

/-- The use order of a line. -/
def State.touch (s : State) (t : Nat) (l : StLine) : State :=
  s.modC t fun c => { c with useTick := c.useTick + 1 }.putLine { l with used := c.useTick }

/-- A fill request for a sector of a line, behind a held message about it (R135); `pref` where only a prefetch asks for it (R302). -/
def State.askFill (s : State) (t f va sec : Nat) (rx : Bool) (a : At) (pref : Bool := false) : State :=
  let r := s.reqFor t f (w64 (va + 128 * sec)) (.fill rx) 128 .fill
  let m : Msg := ⟨.tile t, .tile r.1, .request, .home { r.2 with at_ := a, pref := pref }, 0, false⟩
  if behind (s.c t).outq f m then s.modC t fun c => { c with outq := c.outq ++ [⟨m, f, 0, 0, 0, none⟩] } else s.send m

/-- The sector of an address within its line, and the line. -/
def lineOf (va : Nat) : Nat := va / 512 * 512
def sectorOf (va : Nat) : Nat := va / 128 % 4

/-- A line with sector k changed. -/
def StLine.modSec (l : StLine) (k : Nat) (f : StSector → StSector) : StLine :=
  { l with sectors := (List.range 4).map fun j => let q := l.sectors.getD j emptySector; if j = k then f q else q }

/-- A new line with every sector I. -/
def newLine (f va perm : Nat) : StLine := { frame := f, va := va, perm := perm, sectors := List.replicate 4 emptySector, used := 0, probe := none }

/-- A load through the stash (R105), or none where it must wait for a way. -/
def State.stashLoad (s : State) (t f va size iss w j : Nat) (a : At) : Option State :=
  let k := sectorOf va
  let fill (s : State) (l : StLine) : State :=
    (s.touch t (l.modSec k fun q => { q with st := .p, loads := q.loads ++ [(iss, w, j)] })).askFill t f l.va k false a
  match (s.c t).stLine f va with
  | none => (s.stashRoom t f va).map fun s => fill s (newLine f (lineOf va) 1)
  | some l =>
    let q := l.sectors.getD k emptySector
    match q.st with
    | .i => some (fill s l)
    | .p => some (s.touch t (l.modSec k fun q => { q with loads := q.loads ++ [(iss, w, j)] }))
    | _ => some ((s.touch t l).bindEl t iss w j ((q.data.drop (va % 128)).take size))

/-- A prefetch (R302): nothing where the sector is held or asked for, or no way is free. -/
def State.prefetch (s : State) (t f va : Nat) (rx : Bool) (a : At) : State :=
  let k := sectorOf va
  if (s.frame t f).task.stashu = 0 then s
  else
    let ask (s : State) (l : StLine) : State := (s.touch t (l.modSec k fun q => { q with st := .p })).askFill t f l.va k rx a true
    match (s.c t).stLine f va with
    | none => ((s.stashRoom t f va).map fun s => ask s (newLine f (lineOf va) 1)).getD s
    | some l => if (l.sectors.getD k emptySector).st = .i then ask s l else s

/-- Bytes written over a list from an index. -/
def spliceBytes (l : List Byte) (at_ : Nat) (new : List Byte) : List Byte := l.take at_ ++ new ++ l.drop (at_ + new.length)

/-- Stores of a frame that waited for a sector's fill stand in the stash. -/
def CDom.merged (c : CDom) (f va : Nat) : CDom :=
  { c with pend := c.pend.map fun q =>
      if q.frame = f ∧ q.global ∧ q.va / 128 = va / 128 ∧ q.place = .merging then { q with place := .stash } else q }

/-- A write that sits in the stash and is to be done beyond the tile is pushed to its home (R132). -/
def State.pushLine (s : State) (t f va : Nat) : State :=
  match (s.c t).stLine f va with
  | some l => if l.dirty.isEmpty then s
      else (s.writeback t l true none).modC t fun c => c.putLine l.clean
  | none => s

/-- Every line of a frame that holds a write not yet sent is pushed (R132, R140). -/
def State.pushAll (s : State) (t f : Nat) : State :=
  ((s.c t).stash.filter fun l => l.frame == f).foldl (fun s l => s.pushLine t f l.va) s

/-- Bytes to be merged with a fill, after those of earlier stores. -/
def mergeBytes (m : AMap Byte) (off : Nat) (data : List Byte) : AMap Byte :=
  (List.range data.length).foldl (fun m i => AMap.set m (off + i) (data.getD i 0)) m

/-- A committed global store through the stash (R105): in place, held for its fill, or around. The last gives none: the
store leaves as an outbound write, with an RX request beside it. -/
def State.stashStore (s : State) (t f va : Nat) (data : List Byte) (a : At) : Option (PendAt × State) :=
  let k := sectorOf va
  match (s.c t).stLine f va with
  | none => none
  | some l =>
    if l.perm ≠ 2 then none
    else
      let q := l.sectors.getD k emptySector
      match q.st with
      | .v | .d => some (.stash, s.touch t (l.modSec k fun q => { q with st := .d, data := spliceBytes q.data (va % 128) data }))
      | _ =>
        let l := l.modSec k fun q => { q with st := .p, merge := mergeBytes q.merge (va % 128) data, wrote := true }
        let s := s.touch t l
        some (.merging, if q.st = .i then s.askFill t f l.va k true a else s)

/-- Bytes of a store around the stash in a sector the stash holds, or merged with the fill it awaits (R104, R105). -/
def StSector.around (q : StSector) (off : Nat) (data : List Byte) : StSector :=
  match q.st with
  | .v | .d => { q with data := spliceBytes q.data off data }
  | .p => { q with merge := mergeBytes q.merge off data }
  | .i => q

/-- A store goes around the stash: its bytes into the frame's own sector (R105). -/
def State.writeAround (s : State) (t f va : Nat) (data : List Byte) : State :=
  match (s.c t).stLine f va with
  | some l => if (l.sectors.getD (sectorOf va) emptySector).st = .i then s
      else s.touch t (l.modSec (sectorOf va) fun q => q.around (va % 128) data)
  | none => s

/-- An RX request follows a store around the stash, unless one is pending or the line is RX (R105). -/
def State.askRx (s : State) (t f va : Nat) : State :=
  let rx := match (s.c t).stLine f va with | some l => l.perm == 2 | none => false
  if rx || (s.c t).rxAsked.contains (f, lineOf va) then s
  else
    let r := s.reqFor t f (w64 (lineOf va)) .rx 0 .rx
    (s.modC t fun c => { c with rxAsked := c.rxAsked ++ [(f, lineOf va)] }).sendHeld t
      ⟨⟨.tile t, .tile r.1, .request, .home r.2, 0, false⟩, f, 0, 0, 0, none⟩

/-- A line that a STREL goes around, its D sectors already written back, is read-shared, as its home will have it (R110, R137); a fill that
an RX line still awaits makes it RX no more. -/
def CDom.shareLine (c : CDom) (f va : Nat) : CDom :=
  match c.stLine f va with
  | some l => if l.perm = 2 then c.putLine { l with perm := 1, strel := l.hasP } else c
  | none => c

/-- A flush writes back a line of a frame: the newest commit of the stores that leave with it is noted (R132, R308). -/
def CDom.flushCommit (c : CDom) (f va iss w : Nat) : CDom :=
  let k := (c.pend.filter fun q => q.frame == f && q.global && q.va / 512 * 512 == va && q.place == .stash).foldl (fun m q => max m q.commit) 0
  c.modIssue iss fun x => { x with waits := x.waits.map fun q => if q.id = w then { q with upto := max q.upto k } else q }

/-- The scope of a flush that a bundle instance waits for. -/
def CDom.flushScope (c : CDom) (iss w : Nat) : BitVec 2 :=
  (((c.issue? iss).bind fun x => x.waits.find? fun q => q.id == w).map fun q => match q.wait with | .flush sc _ => sc | _ => 0).getD 0

/-- FLUSHS and INVS of one line (R308): D sectors are written back, the sectors of an invalidated line are I; a sector in P is
handled when its fill lands (R106). The numbers of what the wait is for, from n on: n the writeback, which is performed at tile scope as
it leaves (R132), and one for each sector in P. -/
def State.flushOne (s : State) (t : Nat) (l : StLine) (inv : Bool) (iss w n : Nat) : State × List Nat :=
  let sec (k : Nat) : StSector :=
    let q := l.sectors.getD k emptySector
    match q.st with
    | .p => { q with flush := q.flush ++ [(inv, iss, w, n + 1 + k)] }
    | .d => if inv then emptySector else { q with st := .v }
    | _ => if inv then emptySector else q
  let waits := (List.range 4).filter fun k => (l.sectors.getD k emptySector).st == .p
  let wait := !l.dirty.isEmpty && (s.c t).flushScope iss w != 0
  let s := if l.dirty.isEmpty then s else (s.modC t fun c => c.flushCommit l.frame l.va iss w).writeback t l (!inv || l.hasP) (if wait then some (iss, w, n) else none)
  (s.modC t fun c => if inv && !l.hasP then c.dropLine l.frame l.va else c.putLine { l with sectors := (List.range 4).map sec },
   (if wait then [n] else []) ++ waits.map fun k => n + 1 + k)

/-! ### Requests that leave with a bundle instance (R135, R296) -/

/-- A replay has the answer of a wait in its log, under a field of its slot (R148). -/
def State.logged (s : State) (t : Nat) (x : Issue) (w field : Nat) : Bool :=
  let l := (s.tile t).slate
  let key := readKey ((s.c t).instD x.set.frame x.inst) x.set
  l.replaying && x.frame.pmodeNow && x.waits.any fun q => q.id == w && (l.reading? key q.slot field).isSome

/-- A replay has the element of a load in its log (R148). -/
def State.loggedLoad (s : State) (t : Nat) (x : Issue) (w j : Nat) : Bool := s.logged t x w (256 + j)

/-- Where element j of wait w of an issued bundle instance comes from (log 11: DEDUCED, unsafe). -/
def Issue.at_ (x : Issue) (w j : Nat) : At := ⟨x.set.site, ((x.waits.find? fun q => q.id == w).map (·.slot)).getD 8, j⟩

/-- A request of an issued bundle instance, or none where it waits in the load port queue (R108, R135). A load's token is due from then
on (R50); LDACQ follows the writeback of the frame's own D sectors (R301). -/
def State.trySend (s : State) (t : Nat) (x : Issue) (r : Send) : Option State :=
  let f := x.set.frame
  match r with
  | .load p size acq w j =>
    let a : At := x.at_ w j
    let r := s.reqFor t f p .load size (.load x.id w j)
    let owed := s.modC t fun c => c.oweWait x.id w
    if s.loggedLoad t x w j then some (s.bindEl t x.id w j [])
    else if behind (s.c t).outq f ⟨.tile t, .tile r.1, .request, .home r.2, 0, false⟩ then none
    else if ptrKind p = 0 && decide (x.frame.task.stashu > 0) && !acq then owed.stashLoad t f (ptrOff p) size x.id w j a
    else
      let s := if acq && ptrKind p == 0 then owed.pushLine t f (ptrOff p) else owed
      if behind (s.c t).outq f ⟨.tile t, .tile r.1, .request, .home r.2, 0, false⟩ then none else some (s.sendReq t (r.1, { r.2 with at_ := a }))
  | .pref p rx => some (s.prefetch t f (ptrOff p) rx ⟨x.set.site, 4, 0⟩)
  | .barw p k ph w =>
    if s.logged t x w waitField then some (s.endRemote t x.id w)
    else some (s.post (.tile t) (.tile (s.barrierTile t p)) .request (.bar k (.barw ph x.id w) f 0 x.frame.task.taskId))
  | .sigwait p th w =>
    let r := s.reqFor t f p .sigwait 8 (.wait x.id w)
    if s.logged t x w waitField then some (s.endRemote t x.id w)
    else some (s.sendReq t (r.1, { r.2 with b := th, at_ := x.at_ w 0 }))
  | .flush line inv w =>
    let ls := (s.c t).stash.filter fun l => l.frame == f && (match line with | some va => l.va == va | none => true)
    let r := (List.range ls.length).foldl (fun (a : State × List Nat) k => match ls[k]? with
      | some l => let q := a.1.flushOne t l inv x.id w (5 * k); (q.1, a.2 ++ q.2)
      | none => a) (s, [])
    some (r.1.modC t fun c => c.modIssue x.id fun y => { y with waits := y.waits.map fun q =>
      if q.id = w then { q with wait := match q.wait with | .flush sc _ => .flush sc r.2 | o => o } else q })

/-- A request of a load. -/
def Send.isLoad (r : Send) : Bool := match r with | .load _ _ _ _ _ => true | _ => false

/-- The requests still to be sent by an issued bundle instance, in order; while it has slots to perform, only its loads (R34, R193). -/
def State.sendAll (s : State) (t id : Nat) : State :=
  match (s.c t).issue? id with
  | none => s
  | some x =>
    let r := x.sends.foldl (fun (a : State × List Send) q =>
      if !x.todo.isEmpty && !q.isLoad then (a.1, a.2 ++ [q])
      else match a.1.trySend t x q with
        | some s => (s, a.2)
        | none => (a.1, a.2 ++ [q])) (s.modC t (fun c => c.modIssue id fun y => { y with sends := [] }), [])
    r.1.modC t fun c => c.modIssue id fun y => { y with sends := r.2 }

/-- Loads of a tile that wait in its load port queue are tried again, in issue order. -/
def State.retrySends (s : State) (t : Nat) : State :=
  ((s.c t).issued.filter fun x => !x.sends.isEmpty).foldl (fun s x => s.sendAll t x.id) s

end Sys2Proof.Machine
end

