-- ==== Sys2Proof/Machine/Issue.lean ====
section
/-! DEFINITION. Issue (R36 to R42, R202): which complete set issues next, the checks of its bundle, the slots performed
one after the other, what then leaves the tile, and the finish of a bundle instance. -/

namespace Sys2Proof.Machine

/-! ### Eligibility (R37 to R39) -/

/-- The operations a bundle holds, as far as its slots decode. -/
def bundleOps (b : BitVec 512) : List Instr :=
  (presentSlots b).filterMap fun k => match decodeBundleSlot b k with | .ok i => some i | _ => none

def isTspawn : Instr → Bool | .tspawn _ _ _ => true | _ => false

def isCopy : EffOp → Bool | .copy _ => true | _ => false

/-- Buffered effects of the tile's instances and issued bundle instances. -/
def CDom.effects (c : CDom) : List Eff := (c.insts.flatMap fun e => e.2.effs) ++ c.issued.flatMap (·.effs)

/-- Effects that reserve a physical accumulator, tile slot or generator from issue to commit (R272, R289, R329). -/
def isMcfg (e : Eff) : Bool := match e.op with | .mcfg _ => true | _ => false
def isTalloc (e : Eff) : Bool := match e.op with | .tslotAlloc => true | _ => false
def isAgcfg (e : Eff) : Bool := match e.op with | .agcfg _ => true | _ => false

/-- An effect still to commit reserves physical unit k. -/
def CDom.reserves (c : CDom) (p : Eff → Bool) (k : Nat) : Bool := c.effects.any fun e => p e && e.base == k

/-- Physical tile slot k is mapped or reserved (R289). -/
def CDom.slotTaken (c : CDom) (k : Nat) : Bool := c.slots.has k || c.reserves isTalloc k

/-- Physical accumulator k belongs to a frame or is reserved (R272). -/
def CDom.accTaken (c : CDom) (k : Nat) : Bool := (c.accs.getD k {}).frame.isSome || c.reserves isMcfg k

/-- Physical generator k is mapped or reserved (R329). -/
def CDom.agTaken (c : CDom) (k : Nat) : Bool := c.ags.has k || c.reserves isAgcfg k

/-- A request of an LD slot. -/
def Send.isLd : Send → Bool | .load _ _ _ _ _ | .pref _ _ => true | _ => false

/-- A request of an SA slot that does not wait for the commit: FLUSHS, INVS. -/
def Send.isSa : Send → Bool | .flush _ _ _ => true | _ => false

/-- A committed effect of an SA slot, or of a CP slot other than a copy, that has not left its tile (R37). -/
def Held.isStore (h : Held) : Bool := match h.msg.body with | .home r => (match r.op with | .write | .atomic _ => r.oseq != 0 | _ => false) | _ => false
def Held.isName (h : Held) : Bool := match h.msg.body with | .name _ m => h.oseq != 0 && !m.completion | _ => false

/-- The store slot operation that a held message belongs to: the number of its first effect. -/
def CDom.storeOp (c : CDom) (h : Held) : Nat :=
  match c.pend.find? fun q => q.frame == h.frame && q.oseq == h.oseq with | some q => h.oseq - q.span | none => h.oseq

/-- The CP operation that a held message belongs to: the number of its first effect. -/
def Held.nameOp (h : Held) : Nat := match h.msg.body with | .name _ m => m.origin | _ => h.oseq

/-- The CP slot of a bundle feeds the copy engine. -/
def feedsCopy (b : BitVec 512) : Bool :=
  match decodeBundleSlot b 6 with
  | .ok (.copy _ _ _ _ _ _) | .ok (.copyx _ _ _ _ _ _ _) => true
  | _ => false

/-- Entries of the engine queues in use (R37), one for each operation: load port, store port, copy inbox, name control. An entry is
reserved at issue, also for a slot that its bundle instance has still to perform, and held until the request has left the tile or the
effect is applied. -/
def CDom.loadQueue (c : CDom) : Nat := (c.issued.filter fun x => x.sends.any Send.isLd || x.todo.contains 4).length
def CDom.storeQueue (c : CDom) : Nat :=
  (c.issued.filter fun x => x.sends.any Send.isSa || x.todo.contains 5).length +
  (c.insts.foldl (fun n e => n + e.2.stores.length) 0) + (c.issued.foldl (fun n x => n + x.stores.length) 0) +
    (c.effects.filter fun e => e.slot == 5).length + ((c.outq.filter Held.isStore).map c.storeOp).eraseDups.length
def CDom.copyInbox (c : CDom) : Nat :=
  c.copies.length + (c.effects.filter fun e => isCopy e.op).length + (c.issued.filter fun x => x.todo.contains 6 && feedsCopy x.bundle).length
def CDom.nameQueue (c : CDom) : Nat :=
  (c.issued.filter fun x => x.todo.contains 6 && !feedsCopy x.bundle).length +
  (c.effects.filter fun e => e.slot == 6 && !isCopy e.op).length + ((c.outq.filter Held.isName).map Held.nameOp).eraseDups.length

/-- The bundle feeds slot k of a queue that still has room. -/
def CDom.queuesFree (c : CDom) (b : BitVec 512) : Bool :=
  (!slotPresent b 4 || decide (c.loadQueue < 64)) && (!slotPresent b 5 || decide (c.storeQueue < 64)) &&
    (!slotPresent b 6 || if feedsCopy b then decide (c.copyInbox < 64) else decide (c.nameQueue < 32))

/-- Placement-queue entries of a field in use or promised (R20, R37). -/
def State.placementUsed (s : State) (f : Nat) : Nat :=
  (s.hub f).queue.length + (s.net.filter fun m => match m.body with | .spawn _ _ _ _ _ => m.dst == .hub f | _ => false).length

/-- Another bundle instance of the same block instance keeps a terminal from issuing (R29); so does a token that is being delivered
under its tag (R28), and a terminal that has issued before: the instance commits on the first. -/
def CDom.terminalBlocked (c : CDom) (x : OpSet) : Bool :=
  (c.instD x.frame x.inst).issuedTerm ||
  (c.issued.any fun y => y.inst == x.inst && y.set.frame == x.frame) ||
    (c.sets.filter fun y => y.inst == x.inst && y.frame == x.frame).length > 1 ||
    c.arrivals.any fun k => k.inst == x.inst && k.frame == x.frame

/-- The instances of the frame may issue (R26, R35), for 4,096 cycles from its pre-empt marker on (R389). -/
def CDom.frameIssues (c : CDom) (x : OpSet) : Bool :=
  let fr := c.frame x.frame
  let parking : Bool := match fr.park with | .marked k => decide (c.cycle ≥ k + 4096) | .cutoff => true | _ => false
  (match fr.st with
   | .active => true
   | .trapped => (c.instD x.frame x.inst).tt
   | _ => false) && !parking

/-- Every condition of R37 but the cost; conditions 5 (a terminal waits) and 6 (the throttle) may be left out (R70). A frame whose pre-empt marker
has taken effect spawns nothing (R389). Nothing more of a block instance issues once its terminal has finished (R29). -/
def State.readyBut (s : State) (t : Nat) (x : OpSet) (no5 no6 : Bool) : Bool :=
  let c := s.c t
  let b := c.bundle x.frame x.block x.bun
  let ops := bundleOps b
  !x.kept && !(c.instD x.frame x.inst).finished && c.frameIssues x && c.queuesFree b &&
    (!ops.any isTspawn || decide (s.placementUsed (fieldOf t) < 4096)) &&
    (no5 || !ops.any isTerminal || !c.terminalBlocked x) &&
    (!ops.any isSpawning || (c.frame x.frame).park == .none || (c.frame x.frame).park == .asked) &&
    (no6 || !ops.any isSpawning || c.throttleAllows ((c.instD x.frame x.inst).depth + 1))

/-- Every condition of R37 but the cost. -/
def State.ready (s : State) (t : Nat) (x : OpSet) : Bool := s.readyBut t x false false

/-- The cost of a set's bundle. -/
def CDom.costOf (c : CDom) (x : OpSet) : Nat := bundleCost (c.bundle x.frame x.block x.bun)

def OpSet.isPromoted (x : OpSet) : Bool := x.promoted || decide (x.count ≥ 2048)

/-- x issues before y (R38). Two sets of one bundle of one instance that were completed in one cycle go by their run base, then in the order
in which they were formed (log 94: DESIGN CHOICE, unsafe). -/
def CDom.before (c : CDom) (x y : OpSet) : Bool :=
  let fx := (c.frame x.frame).task
  let fy := (c.frame y.frame).task
  if x.isPromoted != y.isPromoted then x.isPromoted
  else if x.isPromoted && x.cycle != y.cycle then decide (x.cycle < y.cycle)
  else if fx.prio ≠ fy.prio then decide (fx.prio > fy.prio)
  else if fx.stage ≠ fy.stage then decide (fx.stage < fy.stage)
  else if x.cycle ≠ y.cycle then decide (x.cycle < y.cycle)
  else if x.frame ≠ y.frame then decide (x.frame < y.frame)
  else if x.inst ≠ y.inst then decide (x.inst < y.inst)
  else if x.bun ≠ y.bun then decide (x.bun < y.bun)
  else decide (x.base.toNat < y.base.toNat)

/-- The first of a list in the order of R38. -/
def CDom.firstOf (c : CDom) (l : List (Nat × OpSet)) : Option (Nat × OpSet) :=
  l.foldl (fun m x => match m with
    | none => some x
    | some y => if c.before x.2 y.2 then some x else some y) none

/-- The sets of a tile with their places. -/
def CDom.numbered (c : CDom) : List (Nat × OpSet) := (List.range c.sets.length).filterMap fun k => (c.sets[k]?).map fun x => (k, x)

/-- While the oldest promoted instance is not covered, nothing is debited (R39), whatever else keeps it from issuing. -/
def State.promotedWaits (s : State) (t : Nat) : Bool :=
  let c := s.c t
  match c.firstOf (c.numbered.filter fun x => x.2.isPromoted && !x.2.kept) with
  | some x => decide (c.costOf x.2 > c.bucket)
  | none => false

/-- The oldest sort that still has passes to make: its issue and its wait. -/
def CDom.oldestSort (c : CDom) : Option (Issue × PWait) :=
  (c.issued.mergeSort fun a b => decide (a.id ≤ b.id)).findSome? fun x =>
    (x.waits.find? fun q => match q.wait with | .msort _ _ _ _ _ => true | _ => false).map fun q => (x, q)

/-- The array's next K-step is due: its cost (R42, R43). -/
def CDom.kStepDue (c : CDom) : Option Nat :=
  if c.cycle < c.arrayDue then none
  else match c.array, c.oldestSort with
    | .firing _ _ (_ + 1) _ units _ _, _ => some units
    | .idle, some _ => some 96
    | _, _ => none

/-- No PE has issued in the tile's cycle. -/
def CDom.cycleFresh (c : CDom) : Bool := c.peCycle != c.cycle || c.peUsed == 0

/-- A due K-step that is covered is debited before PE0 issues (R42). -/
def CDom.kStepFirst (c : CDom) : Bool :=
  c.cycleFresh && match c.kStepDue with | some u => decide (u ≤ c.bucket) | none => false

/-- The set that issues next: the first covered one in the order of R38, with its place. -/
def State.pick (s : State) (t : Nat) : Option (Nat × OpSet) :=
  let c := s.c t
  if s.promotedWaits t || c.kStepFirst then none
  else c.firstOf (c.numbered.filter fun x => s.ready t x.2 && decide (c.costOf x.2 ≤ c.bucket))

/-- The PE that issues next in the tile's cycle, if one is left (R38). -/
def CDom.nextPe (c : CDom) : Option Nat :=
  if c.peCycle ≠ c.cycle then some 0 else if c.peUsed < 2 then some c.peUsed else none

/-! ### Issue (R38, R42, R202) -/

/-- The slots and source fields in which a bundle reads a source. -/
def readsAt (b : BitVec 512) (x : Src) : List (Nat × Nat) :=
  (presentSlots b).flatMap fun k => match decodeBundleSlot b k with
    | .ok i => (List.range (uses i).length).filterMap fun j => ((uses i)[j]?).bind fun u => if u.2 == x then some (k, 16 + j) else none
    | _ => []

/-- A reading of source 0x29 or 0x2C, logged under each slot and source field that takes it (R248). -/
def State.readingsAt (s : State) (l : List (Nat × Nat)) (v : W64) : W64 × State :=
  if s.iss.frame.pmodeNow then
    l.foldl (fun r e => r.2.readUnder s.iss.tile (readKey s.inst s.iss.set) e.1 e.2 r.1) (v, s)
  else (v, s)

/-- The fault of the issue checks, with the address R203 gives. -/
def checkFault (x : OpSet) (e : Nat × Cause) : FaultInfo :=
  { cause := e.2, slot := e.1, addr := w64 (x.block + 64 * x.bun) }

/-- A set issues: its cost is debited, its bundle checked, and its slots are then performed by the following steps. A PWRBUCKET that
the bundle reads is the bucket after this debit (log 64: DESIGN CHOICE, unsafe). -/
def State.issueSet (s : State) (t k pe : Nat) (x : OpSet) : State :=
  let c := s.c t
  let x := { x with count := 0, promoted := false }
  let b := c.bundle x.frame x.block x.bun
  let i := c.instD x.frame x.inst
  let cost := bundleCost b
  let s := (s.setC t { c with sets := eraseAt c.sets k, bucket := c.bucket - cost, debits := c.debits + cost, peCycle := c.cycle,
                              peUsed := pe + 1, nextId := c.nextId + 1, tileWatch := 0 }).countT t 15 1
  match issueCheck b x.frame i.depth with
  | some e => s.takeFault t x (checkFault x e)
  | none =>
    let s : State := { s with iss := { active := true, id := c.nextId, tile := t, pe := pe, set := x, frame := (c.frame x.frame).atIssue c.cycle, inst := x.inst,
                                       bundle := b, tick := s.tick, tag := tagWord x.frame x.inst x.p x.pd, todo := presentSlots b } }
    let (q, s) := s.readingsAt (readsAt b .quartz) s.iss.tick
    let (g, s) := s.readingsAt (readsAt b .tag) s.iss.tag
    s.modIss fun y => { y with tick := q, tag := g }

/-- BUNDLE_ISSUE (R38): PE0, then PE1, issues the next eligible bundle instance of the tile's cycle. -/
def execBundleIssue (t : Nat) (s : State) : Host.Outcome State Fault Refusal :=
  onTile t s fun s =>
    if s.iss.active then s
    else match (s.c t).nextPe, s.pick t with
      | some pe, some (k, x) => s.issueSet t k pe x
      | _, _ => s

/-- INSTANCE_PROMOTION (R39): the set in place i has counted 2,048 cycles. -/
def execInstancePromotion (t i : Nat) (s : State) : Host.Outcome State Fault Refusal :=
  onTile t s fun s => s.modC t fun c =>
    let sets := (List.range c.sets.length).filterMap fun k =>
      (c.sets[k]?).map fun (x : OpSet) => if k = i ∧ x.count ≥ 2048 then { x with promoted := true } else x
    { c with sets := sets }

/-! ### Slots of the bundle instance being issued -/

/-- The operation reads a latch that a wait of the bundle instance still owes: a wait of a slot above every slot that has written it. -/
def Issue.owes (x : Issue) (i : Instr) : Bool :=
  (uses i).any fun u => match u.2 with
    | .b n => x.waits.any fun q => q.dst.latch == some n.toNat && (x.latches.get? n.toNat).all fun l => decide (l.1 < q.slot)
    | _ => false

/-- Flags of the block instance that a bundle instance sets as it issues (R243). -/
def CDom.noteIssued (c : CDom) (x : Issue) : CDom :=
  c.modInst x.inst fun i => { i with
    issuedSpawn := i.issuedSpawn || x.spawn.isSome
    term := match x.term with | some t => some t | none => i.term
    spawn := match x.spawn with | some q => some q | none => i.spawn
    issuedTerm := i.issuedTerm || x.term.isSome
    issuedTret := i.issuedTret || x.tret }

/-- What an effect does at issue: PMODE changes the mode of the checks (R337). -/
def CDom.issueEffect (f : Nat) (c : CDom) (e : Eff) : CDom :=
  match e.op with
  | .pmode d => c.modFrame f fun fr => { fr with pmodeNow := d }
  | _ => c

/-- A bundle instance is withdrawn whole: nothing of it has been seen (R312). -/
def State.withdraw (s : State) (t : Nat) (x : Issue) : State :=
  (s.withdrawWaits t x.id).modC t fun c => (c.dropIssued fun y => y.id == x.id).unnote x

/-- The effects of the slots performed so far that act at issue, each once. -/
def CDom.issueEffects (c : CDom) (x : Issue) : CDom := (x.effs.drop x.seen).foldl (CDom.issueEffect x.set.frame) c

/-- The bundle instance leaves the PE: it becomes ISSUED with its waits, its requests leave, and what is ready is
delivered (R28, R135, R296). -/
def State.launch (s : State) : State :=
  let x := { s.iss with active := false, withheld := s.iss.waits.any PWait.holds }
  let t := x.tile
  let s : State := { s with iss := {} }
  let s := s.modC t fun c => ((CDom.noteIssued (CDom.issueEffects { c with issued := c.issued ++ [x] } x) x).enterEffects x.id).deliverReady x.id x.pe
  let push := x.waits.any fun (q : PWait) => match q.wait with
    | .drain sc _ => sc != 0
    | .pfence sc _ _ => sc != 0
    | _ => false
  let fence := x.waits.any fun (q : PWait) => match q.wait with | .pfence _ _ _ => true | _ => false
  let s := s.modC t fun c => { c with fence := c.fence || fence }
  let s := if push then s.pushAll t x.set.frame else s
  s.sendAll t x.id

/-- A bundle instance that needs an owed latch waits in the tile with its remaining slots (R193): only its loads leave, and nothing
is delivered or buffered before every slot is performed (R34). -/
def State.suspend (s : State) : State :=
  let x := { s.iss with active := false, withheld := s.iss.waits.any PWait.holds }
  let s : State := { s with iss := {} }
  let y := { x with seen := x.effs.length }
  (s.modC x.tile fun c => CDom.noteIssued (CDom.issueEffects { c with issued := c.issued ++ [y] } x) y).sendAll x.tile x.id

/-- What the next step does with the bundle instance being issued: perform an operation in a state that names its slot,
or answer a state. -/
inductive Slot1 where
  | perform (i : Instr) (s : State)
  | done (s : State)

/-- The next slot of the bundle instance being issued. -/
def State.nextSlot (s : State) : Slot1 :=
  match s.iss.todo with
  | [] => .done s.launch
  | k :: ks =>
    match decodeBundleSlot s.iss.bundle k with
    | .ok i =>
      if s.iss.owes i then .done s.suspend
      else .perform i (s.modIss fun x => { x with slot := k, todo := ks })
    | .illOp => .done (s.fault { cause := .illop, slot := k })
    | .illSrc => .done (s.fault { cause := .illsrc, slot := k })

/-! ### Finish (R28, R54, R187, R312) -/

/-- BUNDLE_FINISH (R28): the bundle instance has performed its slots and its waits have ended; its remaining tokens are
delivered, and a terminal lets its block instance commit. -/
def State.finishIssue (s : State) (t id : Nat) : State :=
  match (s.c t).issue? id with
  | none => s
  | some x =>
    if !x.todo.isEmpty then s.resume t id
    else if !x.waits.isEmpty then s
    else s.modC t fun c =>
      let c := ((c.modIssue id fun x => { x with withheld := false }).enterEffects id).deliverReady id x.pe
      let c := (c.dropIssue id).modInst x.inst fun i => { i with ran := true }
      match x.term with
      | some _ => CDom.modInst { c with pendCommit := c.pendCommit ++ [x.inst % 4096] } x.inst fun i => { i with finished := true }
      | none => c

/-- BUNDLE_FINISH (R28). -/
def execBundleFinish (t i : Nat) (s : State) : Host.Outcome State Fault Refusal :=
  onTile t s fun s => s.finishIssue t i

end Sys2Proof.Machine
end

