-- ==== Sys2Proof/Machine/Routes.lean ====
section
/-! DEFINITION. The mesh (R2), turn lists (R351), the path a registration climbs (R80), operations that wait for several
answers, and the credit and emptying of a tile slot (R88, R288, R324). -/

namespace Sys2Proof.Machine

/-! ### The grid and turn lists -/

/-- The column and row of an enabled tile (R2). -/
def tileX (t : Nat) : Nat := t / 160 % 8 * 10 + t % 160 % 10
def tileY (t : Nat) : Nat := t / 160 / 8 * 16 + t % 160 / 10

/-- The tile at a column and row (R2). -/
def tileAtXY (x y : Nat) : Nat := 160 * (8 * (y / 16) + x / 10) + 10 * (y % 16) + x % 10

/-- The neighbour in a direction 0 N, 1 E, 2 S, 3 W, or the tile itself at the edge. -/
def neighbour (t dir : Nat) : Nat :=
  let x := tileX t
  let y := tileY t
  match dir with
  | 0 => if y < 127 then tileAtXY x (y + 1) else t
  | 1 => if x < 79 then tileAtXY (x + 1) y else t
  | 2 => if 0 < y then tileAtXY x (y - 1) else t
  | _ => if 0 < x then tileAtXY (x - 1) y else t

/-- Hops between two routers. -/
def hops (t u : Nat) : Nat :=
  (tileX t - tileX u) + (tileX u - tileX t) + (tileY t - tileY u) + (tileY u - tileY t)

/-- The router of a port on the edge of the grid: 80 ports along the south, 80 along the north, 128 along the west, 128 along the
east. -/
def edgeRouter (n : Nat) : Nat :=
  let n := n % 416
  if n < 80 then tileAtXY n 0 else if n < 160 then tileAtXY (n - 80) 127
  else if n < 288 then tileAtXY 0 (n - 160) else tileAtXY 79 (n - 288)

/-- Hops from a tile to the nearest of the edge routers that a rim agent attaches to (R1, R87). -/
def rimHops (t a : Nat) : Nat :=
  let far (k : Nat) : Nat := hops t (edgeRouter (Config.rimPort (Config.rimRouters * a + k)))
  (List.range Config.rimRouters).foldl (fun m k => min m (far k)) (far 0)

/-- The port of a router through which a neighbour is reached; 4 is the local port. -/
def portTo (r n : Nat) : Nat := ((List.range 4).find? fun d => r != n && neighbour r d == n).getD 4

/-- The segments of a turn list: direction and hop run (R351). -/
def turnSegs (w : W64) : List (Nat × Nat) :=
  (List.range (bits w 63 60)).map fun i => (bits w (10 * i + 9) (10 * i + 8), bits w (10 * i + 7) (10 * i))

/-- ROUTEW accepts the turn list (R351). -/
def turnOk (w : W64) : Bool :=
  let n := bits w 63 60
  let segs := turnSegs w
  decide (n ≤ 6) && segs.all (fun s => s.2 != 0) && decide (w.toNat % 2 ^ 60 < 2 ^ (10 * n)) &&
    (List.range (n - 1)).all fun i => match segs[i]?, segs[i + 1]? with
      | some a, some b => (a.1 + 2) % 4 != b.1
      | _, _ => true

/-- The routers a run of hops visits after t. -/
def hopRun (t dir : Nat) : Nat → List Nat
  | 0 => []
  | n + 1 => let u := neighbour t dir; u :: hopRun u dir n

/-- The routers that a turn list visits after t. -/
def walkTurns (t : Nat) : List (Nat × Nat) → List Nat
  | [] => []
  | (d, n) :: segs => let l := hopRun t d n; l ++ walkTurns (l.getLastD t) segs

/-- The turn list written by ROUTEW, else the one boot built (log entry 5: DESIGN CHOICE, safe). -/
def State.written (s : State) (t dst plane : Nat) : W64 :=
  ((s.n t).routes.get? (plane * 16384 + dst)).getD (if t = dst then 0 else Config.bootRoute t dst plane)

/-- The turn list a tile uses towards a destination on a plane: behind a fence still the one before (R351). -/
def State.route (s : State) (t dst plane : Nat) : W64 :=
  match (s.n t).fences.get? (plane * 16384 + dst) with
  | some f => f.2
  | none => s.written t dst plane

/-- The routers from a home to a subscriber on the name plane, both included. -/
def State.treePath (s : State) (home sub : Nat) : List Nat :=
  let l := home :: walkTurns home (turnSegs (s.route home sub 0))
  if l.getLastD home = sub then l else l ++ [sub]

/-- The routers a registration climbs, from the subscriber's to the home's (R80). -/
def State.climbPath (s : State) (sub home : Nat) : List Nat := (s.treePath home sub).reverse

/-- A router number that stands for the name directory of the home itself (R80, R81). -/
def atDirectory : Nat := Config.numTiles

/-- A namespace has module-crossing scope (R140, R379). -/
def Partition.crosses (p : Partition) (ns : BitVec 12) : Bool := (p.spanEntry ns).isSome

/-- Where the messages of a name go: its home tile, or the span agent of a namespace that the other module owns (R379). -/
def State.nameAgent (s : State) (p : Nat) (n : TileName) : Agent :=
  match (s.part p).spanEntry n.ns with
  | some w => if w.getLsbD 43 then .tile (s.homeOf p n) else .span (bits w 47 44) 0
  | none => .tile (s.homeOf p n)

/-- The router at which the span agents stand for a partition, at ports 5 + link of its entries (log 88: DESIGN CHOICE, unsafe). -/
def State.spanRouter (s : State) (p : Nat) : Nat := (s.part p).tileAt 0

/-- The root of a name's tree on this module: its home, or the router of the span agent, which stands for the home (R379). -/
def State.treeRoot (s : State) (p : Nat) (n : TileName) : Nat :=
  match s.nameAgent p n with | .tile h => h | _ => s.spanRouter p

/-- A name-control message that climbs from a tile to its name's home, or to the span agent (R80, R379). -/
def State.climbMsg (s : State) (t p : Nat) (op : NameOp) (m : NameMsg) : Msg :=
  ⟨.tile t, .tile t, .nameCtl, .name op { m with router := t, path := (s.climbPath t (s.treeRoot p m.name)).drop 1, port := 4 }, 0, false⟩

def State.climb (s : State) (t p : Nat) (op : NameOp) (m : NameMsg) : State := s.send (s.climbMsg t p op m)

/-- A climbing message goes on to its next router, or from the last one to the directory or over the link (R80, R379). -/
def State.climbOn (s : State) (r : Nat) (op : NameOp) (m : NameMsg) : State :=
  match m.path with
  | [] => s.post (.tile r) (match s.nameAgent (s.partOf r) m.name with | .tile _ => .tile r | a => a) .nameCtl (.name op { m with router := atDirectory })
  | n :: rest => s.post (.tile r) (.tile n) .nameCtl (.name op { m with router := n, path := rest, port := portTo n r })

/-- A name-control message sent straight to a home. -/
def State.toHome (s : State) (src : Agent) (p : Nat) (op : NameOp) (m : NameMsg) : State :=
  s.post src (s.nameAgent p m.name) .nameCtl (.name op { m with who := src, router := atDirectory })

/-! ### Ingress ports and the order of a home (R57, R82) -/

/-- The port of tile t's router by which a message comes in: N, E, S, W as 0 to 3, 4 the local port. Hubs, agents and gateways
stand at the local port (log 66: DESIGN CHOICE, unsafe). -/
def State.ingress (s : State) (t : Nat) (m : Msg) : Nat :=
  match m.src, m.body with
  | .tile u, .name _ x =>
    if u = t then x.port else portTo t ((u :: walkTurns u (turnSegs (s.route u t (if m.cls == .reply then 1 else 0)))).dropLast.getLastD t)
  | .tile u, _ => portTo t ((u :: walkTurns u (turnSegs (s.route u t 1))).dropLast.getLastD t)
  | _, _ => 4

/-- The rank of a message at a home in one cycle: name data before name control, each in ingress order (R82). -/
def NameOp.rank (op : NameOp) (port : Nat) : Nat := (match op with | .publish | .piece => 0 | _ => 8) + port

/-- A home may apply a message of a rank now: none of a higher one has been applied in this cycle (R82). -/
def State.inOrder (s : State) (t rank : Nat) : Bool :=
  let o := (s.n t).homeOrd
  !(o.1 == s.quartz && o.2.1 == (s.c t).cycle) || decide (o.2.2 ≤ rank)

/-- A home has applied a message, or an expiry, of a rank. -/
def State.noteOrder (s : State) (t rank : Nat) : State := s.modN t fun n => { n with homeOrd := (s.quartz, (s.c t).cycle, rank) }

/-- The cycle of a tile. -/
def State.moment (s : State) (t : Nat) : Nat × Nat := (s.quartz, (s.c t).cycle)

/-- A watchpoint of tile t fires on no transition of the cycle it was armed in (R353). -/
def State.mayFire (s : State) (t : Nat) (w : Watchpoint) : Bool := w.armed != some (s.moment t)

/-- The highest number applied from a sending tile (R399): by the home slice and directory, or by the router, which keep one each. -/
def NDom.applied? (n : NDom) (a : Agent) (router : Bool := false) : Nat :=
  match a with | .tile u => n.applied.getD (if router then Config.numTiles + u else u) 0 | _ => 0

/-- The number of an effect of a tile is noted as applied (R399). -/
def NDom.noteApplied (n : NDom) (a : Agent) (o : Nat) (router : Bool := false) : NDom :=
  match a with
  | .tile u => if o = 0 then n else { n with applied := n.applied.set (if router then Config.numTiles + u else u) (max o (n.applied? a router)) }
  | _ => n

/-- The numbers of the messages of a tile that are no numbered effects, as a router notes them. -/
def NDom.nameApplied? (n : NDom) (a : Agent) : Nat := match a with | .tile u => n.applied.getD (2 * Config.numTiles + u) 0 | _ => 0

/-- A router notes that it has applied a name message (R399). -/
def NDom.noteName (n : NDom) (x : NameMsg) : NDom :=
  let n := n.noteApplied x.who x.oseq true
  match x.who with
  | .tile u => if x.nseq = 0 then n else { n with applied := n.applied.set (2 * Config.numTiles + u) (max x.nseq (n.nameApplied? x.who)) }
  | _ => n

/-- A name message that its tile sends again and that was applied before (R399); a home has lost what is sent again without a number of an
effect. -/
def NDom.seen (n : NDom) (x : NameMsg) (router : Bool := false) : Bool :=
  x.resent && if x.oseq ≠ 0 then decide (x.oseq ≤ n.applied? x.who router) else router && decide (x.nseq ≤ n.nameApplied? x.who)

/-- A directory keeps what it takes of a tile and acknowledges to none, until D covers it (R399). -/
def NDom.noteTaken (n : NDom) (m : Msg) : NDom :=
  match m.body with
  | .name op x => if x.nseq ≠ 0 && (op == .prune || op == .claimRel || op == .publish) then { n with taken := n.taken ++ [m] } else n
  | _ => n

/-- A message for a home's directory is taken from the network. -/
def State.takeMsg (s : State) (m : Nat) : State :=
  match s.net[m]? with
  | some x => match x.dst, x.body with
    | .tile t, .name op y => ((s.dropMsg m).noteOrder t (op.rank (s.ingress t x))).modN t fun n => (n.noteApplied y.who y.oseq).noteTaken x
    | _, _ => s.dropMsg m
  | none => s.dropMsg m

/-- The subscriber of a registration: its agent, task and slot (R77). A frame keeps it when a restore changes its number. -/
def sameSub (a b : NameMsg) : Bool :=
  a.name == b.name && a.mask == b.mask && a.stream == b.stream && a.who == b.who && (a.frame == some 63) == (b.frame == some 63) &&
    a.taskId == b.taskId && a.slot == b.slot

/-- The slot number that a SUBN registers under: that of its frame-local slot, behind the numbers of a record's slots. -/
def Slot.subnIx (x : Slot) : Nat := 512 + x.localIx

/-! ### Operations that wait for several answers -/

/-- n answers are awaited under the number of an outbound effect, with the token that then fires. -/
def State.await (s : State) (t k n : Nat) (l : Option Late) : State :=
  s.modC t fun c => { c with awaited := c.awaited.set k (n, l) }

/-- One answer has come, by a port: at the last one the token fires with its value. -/
def State.answered (s : State) (t k : Nat) (v : Val) (src : Nat := 6) : State :=
  match (s.c t).awaited.get? k with
  | none => s
  | some (n, l) =>
    if n > 1 then s.modC t fun c => { c with awaited := c.awaited.set k (n - 1, l) }
    else
      let s := s.modC t fun c => { c with awaited := c.awaited.erase k }
      match l with
      | some l => s.fireLate t l v src
      | none => s

/-! ### Tile slots (R288) -/

/-- The physical slot of a frame's local index. -/
def CDom.slotOf (c : CDom) (f ix : Nat) : Option (Nat × Slot) :=
  match (c.frame f).slots.get? ix with
  | some k => (c.slots.get? k).map fun x => (k, x)
  | none => none


/-- An area given back. -/
def CDom.freeArea (c : CDom) (b n : Nat) : CDom := { c with areas := c.areas.filter fun a => !(a.1 == b && a.2 == n) }

/-- A slot carries a subscription: that of a task is withdrawn once it is satisfied (R78). -/
def Slot.subbed (x : Slot) : Bool := match x.sub with | some q => q.kind != .task || !q.satisfied | none => false

/-- The state number of a slot (R288). -/
def Slot.stateNum (x : Slot) : Nat := if x.full then 2 else if x.sections.any (·.filled) then 1 else 0

/-- The slot is in the state that a TSLOTQ waits for (R290). -/
def Slot.reached (x : Slot) (full : Bool) : Bool := if full then x.full else x.stateNum == 0

/-- A TSLOTQ that waits for the state a slot has reached has seen it (R290). -/
def CDom.slotSeen (c : CDom) (x : Slot) : CDom :=
  let see (q : PWait) : PWait := match q.wait with
    | .tslotq ix full seen => if ix = x.localIx then { q with wait := .tslotq ix full (seen || x.reached full) } else q
    | _ => q
  { c with issued := c.issued.map fun y => if some y.set.frame = x.frame then { y with waits := y.waits.map see } else y }

/-- A slot changed. -/
def CDom.modSlot (c : CDom) (k : Nat) (g : Slot → Slot) : CDom :=
  let c := { c with slots := c.slots.adjust k g }
  match c.slots.get? k with | some x => c.slotSeen x | none => c

/-- The stream of a frame with a base slot. -/
def Frame.stream? (f : Frame) (base : Nat) : Option Stream := f.streams.find? fun x => x.base == base

def Frame.modStream (f : Frame) (base : Nat) (g : Stream → Stream) : Frame :=
  { f with streams := f.streams.map fun x => if x.base = base then g x else x }

/-- The version of element k of a stream (R88). -/
def Stream.version (x : Stream) (k : Nat) : BitVec 16 := x.v0 + BitVec.ofNat 16 k

/-- The local index of the slot of element k (R88). -/
def Stream.slotIx (x : Stream) (k : Nat) : Nat := x.base + k % x.depth

/-- The slot's contents are gone (R288); the version of the last delivery still reads (R290). A firing that reads them uses no contents that
follow (R279). -/
def Slot.cleared (x : Slot) : Slot :=
  { x with full := false, usedBy := [], inUse := 0, emptyAsked := false,
           sections := x.sections.map fun q => { q with ver := none, filled := false } }

/-- The registration of a stream as its home and routers know it. -/
def Stream.msg (x : Stream) (t f : Nat) (taskId : BitVec 32) : NameMsg :=
  { name := x.name, ver := x.v0, stream := true, credit := x.depth, who := .tile t, frame := some f, taskId := taskId, slot := x.base }

/-- The link that a name's messages leave by is down (R379). -/
def State.linkDown (s : State) (p : Nat) (n : TileName) : Bool :=
  match s.nameAgent p n with | .span l _ => !(s.span l).up | _ => false

/-- A credit is left for the next element that a detached stream asks for (R88): an element in its slot, one that SPOP kept and one
whose slot a firing emptied hold theirs (R363). -/
def Stream.credited (x : Stream) : Bool := decide (x.next + x.keptSlots.length + x.lost < x.cursor + x.depth)

/-- A detached stream asks for the elements its free positions and credits can take (R88, R90), not for one that has landed early; over a link that is down its frame takes
SUBLAPSE (R379). -/
def State.streamRequest (s : State) (t f base : Nat) : Nat → State
  | 0 => s
  | n + 1 =>
    let fr := s.frame t f
    match fr.stream? base with
    | none => s
    | some y =>
      let x := { y with next := max y.next y.cursor }
      let at_ := (s.c t).slotOf f (x.slotIx x.next)
      let free := match at_ with | some (_, q) => !q.full | none => false
      let landed := match at_ with | some (_, q) => q.full && q.ver == x.version x.next | none => false
      let on (s : State) : State := s.modFrame t f fun fr => fr.modStream base fun y => { y with next := x.next + 1 }
      if x.detached && landed && decide (x.next < x.cursor + x.depth) then State.streamRequest (on s) t f base n
      else if x.detached && x.credited && free && s.linkDown fr.part x.name then
        (s.countT t 7 1).abortFrame t f ⟨0, 0, 0, 0, 0⟩ { cause := .sublapse }
      else if x.detached && x.credited && free then
        let s := s.toHome (.tile t) fr.part .rerequest { x.msg t f fr.task.taskId with ver := x.version x.next, index := x.next }
        State.streamRequest (on s) t f base n
      else s

/-- The first element from the cursor on that is not in its slot, and that no firing has used up. -/
def State.expected (s : State) (t f : Nat) (x : Stream) : Nat :=
  (((List.range x.depth).map (x.cursor + ·)).find? fun k => !x.spent.contains k && match (s.c t).slotOf f (x.slotIx k) with
    | some (_, q) => !(q.full && q.ver == x.version k)
    | none => true).getD (x.cursor + x.depth)

/-- A stream goes over to unicast requests, from its next expected element on (R90). -/
def State.detachStream (s : State) (t f : Nat) (x : Stream) : State :=
  let next := s.expected t f x
  (s.modFrame t f fun fr => fr.modStream x.base fun x => { x with detached := true, next := next }).streamRequest t f x.base x.depth

/-- One credit of a stream goes to the tile's router, for an element (R88); a detached stream asks for its next one. -/
def State.streamCredit (s : State) (t f : Nat) (x : Stream) (ver : BitVec 16) : State :=
  if x.detached then s.streamRequest t f x.base x.depth
  else s.post (.tile t) (.tile t) .nameCtl
    (.name .credit { x.msg t f (s.frame t f).task.taskId with ver := ver, router := t, port := 4 })

/-- A firing empties a slot of the stream whose element no SPOP has taken at a commit yet: the element is spent (R363). -/
def Stream.spend (x : Stream) (q : Slot) : Stream :=
  { x with spent := x.spent ++ ((List.range x.depth).map (x.cursor + ·)).filter fun k => x.slotIx k == q.localIx && x.version k == q.ver }

/-- A slot becomes EMPTY (R288). For a slot that SPOP keep left full, TSET returns the credit and fires SPOP's done token;
an emptying by a firing does neither (R324, R363). -/
def State.emptySlot (s : State) (t k : Nat) (byTset : Bool) : State :=
  match (s.c t).slots.get? k with
  | none => s
  | some q =>
    let s := s.modC t fun c => c.modSlot k Slot.cleared
    match q.frame with
    | none => s
    | some f =>
      match (s.frame t f).streams.find? fun x => x.keptSlots.any fun e => e.1 == q.localIx with
      | none => if byTset then s else s.modFrame t f fun fr => { fr with streams := fr.streams.map fun x => x.spend q }
      | some x =>
        let done := (x.keptSlots.find? fun e => e.1 == q.localIx).bind (·.2)
        let s := s.modFrame t f fun fr => fr.modStream x.base fun x =>
          { x with keptSlots := x.keptSlots.filter fun e => e.1 != q.localIx, lost := if byTset then x.lost else x.lost + 1 }
        if byTset then (s.streamCredit t f x q.ver).fireDone t done else s.dropLate t done

end Sys2Proof.Machine
end

