-- ==== Sys2Proof/Machine/Matrix.lean ====
section
/-! DEFINITION. The matrix array and tile slots (spec/11): the M slot operations, the firings, jobs and sorts of the array. -/

namespace Sys2Proof.Machine

/-! ### Configuration and descriptor words (R173, R275 to R277) -/

namespace MConf
def rows (w : W64) : Nat := 8 * 2 ^ bits w 1 0
def cols (w : W64) : Nat := 8 * 2 ^ bits w 3 2
def k (w : W64) : Nat := bits w 16 4
def ovw (w : W64) : Bool := w.getLsbD 17
def sati (w : W64) : Bool := w.getLsbD 18
def fsa (w : W64) : Nat := bits w 23 19
def fsb (w : W64) : Nat := bits w 28 24
end MConf

/-- The mode of an operand pair (R173): true for integer, none where the pair is refused. -/
def pairMode (a b : Nat) : Option Bool :=
  let both (l : List Nat) : Bool := l.contains a && l.contains b
  if (a == 2 && b == 2) || (a == 1 && b == 1) || both [3, 4] || both [5, 6] || both [7, 8] then some false
  else if both [10, 11] then some true
  else none

/-- The mode of two format slots for a reduction length (R173, R280): K fits Q groups. -/
def slotsMode (fa fb : W64) (k : Nat) : Option Bool :=
  match pairMode (FmtSlot.fmt fa) (FmtSlot.fmt fb) with
  | none => none
  | some m =>
    if FmtSlot.isQ fa && (FmtSlot.grp fa != FmtSlot.grp fb || k % FmtSlot.group fa != 0) then none
    else some m

/-- MCFG accepts the word with these slots (R275): its mode. K fits MX blocks here only. -/
def mcfgMode (w fa fb : W64) : Option Bool :=
  if bits w 63 29 != 0 || bits w 1 0 == 3 || bits w 3 2 == 3 || MConf.k w == 0 || MConf.k w > 4096 || MConf.k w % 8 != 0 ||
      ((FmtSlot.fmt fa == 5 || FmtSlot.fmt fa == 6) && MConf.k w % 32 != 0) then none
  else match slotsMode fa fb (MConf.k w) with
    | some false => if MConf.sati w then none else some false
    | m => m

namespace MDesc
def fs (w0 : W64) : Nat := bits w0 60 56
def rot (w0 : W64) : Nat := bits w0 55 52
def tpitch (w0 : W64) : Nat := bits w0 51 36
def rpitch (w0 : W64) : Nat := bits w0 35 20
def base (w0 : W64) : Nat := bits w0 19 0
def keep (w1 : W64) : Bool := w1.getLsbD 24
def rep (w1 : W64) : Nat := bits w1 23 8
def slot (w1 : W64) : Nat := bits w1 7 0
/-- Reserved fields, alignments, row pitch and REP (R276, R277). -/
def ok (w0 w1 : W64) (rowBytes : Nat) : Bool :=
  bits w0 63 61 == 0 && bits w1 63 25 == 0 && tpitch w0 % 128 == 0 && rpitch w0 % 4 == 0 && decide (rpitch w0 ≥ rowBytes) &&
    base w0 % 128 == 0 && (rot w0 == 0 || rpitch w0 % 128 == 0) && decide (rep w1 ≥ 1)
/-- The tiles lie in an area of a size (R277). -/
def fits (w0 w1 : W64) (rows size : Nat) : Bool :=
  decide (base w0 + (rep w1 - 1) * tpitch w0 + rows * rpitch w0 ≤ size)
/-- RowByte (R276). -/
def rowByte (w0 : W64) (t r b : Nat) : Nat :=
  base w0 + t * tpitch w0 + r * rpitch w0 + (b + 128 * rot w0 * r) % rpitch w0
end MDesc

/-- RowBytes of an operand row of K elements (R276). -/
def operandRow (fs : W64) (k : Nat) : Nat :=
  let c := FmtSlot.fmt fs
  k * FmtSlot.elemBits c / 8 + (if c == 5 || c == 6 then k / 32 else if FmtSlot.isQ fs then 4 * (k / FmtSlot.group fs) else 0)

/-- Bytes of n elements of a format. -/
def rowSize (fs : W64) (n : Nat) : Nat := n * FmtSlot.elemBits (FmtSlot.fmt fs) / 8

/-- MLOADC accepts the format in a mode (R281); MDRAIN accepts it (R283). -/
def loadcOk (fs : W64) (integer : Bool) : Bool := if integer then FmtSlot.fmt fs == 9 else [0, 1, 2, 9].contains (FmtSlot.fmt fs)
def drainOk (fs : W64) : Bool := [0, 1, 2, 3, 4, 12, 7, 8, 10, 11, 9].contains (FmtSlot.fmt fs)

/-! ### The state that the checks are made against (R274) -/

/-- An accumulator of the frame: the physical one, its configuration, and the slots its sources name. -/
structure VAcc where
  phys : Nat
  conf : Option W64
  integer : Bool
  a : Option Nat
  b : Option Nat

/-- A slot of the frame: the physical one, its area, whether it carries a subscription, and its state 0 EMPTY, 1
PARTIAL, 2 FULL. -/
structure VSlot where
  phys : Nat
  size : Nat
  subbed : Bool
  st : Nat

structure MView where
  accs : AMap VAcc
  slots : AMap VSlot

/-- A job or effect applied to the view. A queued MDRAIN or MLOADC does not change the state of its slot there (log 118: DESIGN CHOICE, unsafe). -/
def MView.apply (v : MView) (phys : Nat) (op : EffOp) (a b : W64) : MView :=
  match op with
  | .mcfg n => { v with accs := v.accs.set n ⟨phys, some a, b == 1, none, none⟩ }
  | .msrca n => { v with accs := v.accs.adjust n fun x => { x with a := some (MDesc.slot b) } }
  | .msrcb n => { v with accs := v.accs.adjust n fun x => { x with b := some (MDesc.slot b) } }
  | .tslotAlloc => { v with slots := v.slots.set (bits a 7 0) ⟨phys, bits b 39 20, false, 0⟩ }
  | .tslotFree => { v with slots := v.slots.erase (bits a 7 0) }
  | .tsetEmpty => { v with slots := v.slots.adjust (bits a 7 0) fun x => { x with st := 0 } }
  | .tsetFull | .tsetRowfull => { v with slots := v.slots.adjust (bits a 7 0) fun x => { x with st := 2 } }
  | _ => v

def Acc.view (phys : Nat) (x : Acc) : VAcc := ⟨phys, x.conf, x.integer, x.srcA.map (MDesc.slot ·.w1), x.srcB.map (MDesc.slot ·.w1)⟩

def Slot.view (k : Nat) (x : Slot) : VSlot := ⟨k, x.size, x.subbed, x.stateNum⟩

/-- The frame's committed state with the jobs queued for its accumulators. -/
def CDom.mview (c : CDom) (f : Nat) : MView :=
  let fr := c.frame f
  let v : MView := ⟨fr.accs.map fun e => (e.1, (c.accs.getD e.2 {}).view e.2),
                    fr.slots.filterMap fun e => (c.slots.get? e.2).map fun x => (e.1, x.view e.2)⟩
  fr.accs.foldl (fun v e => (c.accs.getD e.2 {}).jobs.foldl (fun v j => v.apply e.2 j.op j.a j.b) v) v

/-- That state with the effects of the block instance at lower bundle indices. -/
def State.mview (s : State) : MView :=
  let x := s.iss
  let own := (s.inst.effs ++ ((s.c x.tile).issued.filter fun y => y.inst == x.inst).flatMap (·.effs)).filter fun e => decide (e.bun < x.set.bun)
  (own.mergeSort fun a b => decide (a.bun ≤ b.bun)).foldl (fun v e => v.apply e.base e.op e.a e.b) ((s.c x.tile).mview x.set.frame)

/-- Every effect still to commit on the tile, those of the bundle instance being issued among them. -/
def State.effects (s : State) : List Eff := (s.c s.iss.tile).effects ++ s.iss.effs

/-- The operation is a job of an accumulator's queue (R274). -/
def EffOp.isJob : EffOp → Bool
  | .mcfg _ | .msrca _ | .msrcb _ | .marm _ | .mzero _ | .mloadc _ | .mdrain _ | .mscale _ => true
  | _ => false

/-- Job entries in use or reserved (R274). -/
def State.jobsUsed (s : State) : Nat :=
  (s.c s.iss.tile).accs.foldl (fun n e => n + e.2.jobs.length) 0 + (s.effects.filter (·.op.isJob)).length

/-- MATCFG with its cause words (R382). -/
def matcfg (word n : Nat) : FaultInfo := { cause := .matcfg, cw1 := w64 word, cw2 := w64 n }

/-- A job buffered until commit, where an entry is free (R274). -/
def State.addJob (s : State) (n phys : Nat) (op : EffOp) (a b : W64) : State :=
  if s.jobsUsed ≥ 256 then s.fault (matcfg 3 n) else s.addEff { bun := 0, slot := 0, op := op, a := a, b := b, base := phys }

/-- The effects of the tile that reserve for this frame: MCFG of the accumulator name. -/
def reservesAcc (n : Nat) (e : Eff) : Bool := match e.op with | .mcfg m => m == n | _ => false

/-- The physical accumulator of a frame's name: mapped, reserved by an MCFG of the frame still to commit, or the lowest
free one (R272). -/
def State.accFor (s : State) (n : Nat) : Option Nat :=
  let c := s.c s.iss.tile
  let f := s.iss.set.frame
  match (c.frame f).accs.get? n with
  | some k => some k
  | none =>
    let mine := (c.insts.filter fun e => e.2.frame == f).flatMap (·.2.effs) ++
      (c.issued.filter fun y => y.set.frame == f).flatMap (·.effs) ++ s.iss.effs
    match mine.find? (reservesAcc n) with
    | some e => some e.base
    | none => (List.range 8).find? fun k => !c.accTaken k && !s.iss.effs.any fun e => isMcfg e && e.base == k

/-! ### Accumulator operations at issue (R273 to R283) -/

/-- MCFG (R275): the mode of the pair read at issue goes with it (R173). Where several cause words of MATCFG hold, the first of 0, 2, 3 is
reported (log 119: DESIGN CHOICE, unsafe). -/
def execMcfg (n : BitVec 3) (a : Src) (s : State) : Host.Outcome State Fault Refusal :=
  let w := s.sc a
  let fr := s.iss.frame
  match mcfgMode w (fr.fsOf (MConf.fsa w)) (fr.fsOf (MConf.fsb w)) with
  | none => .next (s.fault (matcfg 0 n.toNat))
  | some m =>
    match s.accFor n.toNat with
    | none => .next (s.fault (matcfg 2 n.toNat))
    | some k => .next (s.addJob n.toNat k (.mcfg n.toNat) w (if m then 1 else 0))

/-- The accumulator of a job, configured in the state of R274. -/
def State.configured (s : State) (n : Nat) : Option (VAcc × W64) :=
  match s.mview.accs.get? n with
  | some x => x.conf.map fun w => (x, w)
  | none => none

/-- MSRCA and MSRCB (R277). -/
def State.msrc (s : State) (op : EffOp) (n : Nat) (isA : Bool) (w0 w1 : W64) : State :=
  match s.configured n with
  | none => s.fault (matcfg 0 n)
  | some (x, w) =>
    let fs := if isA then MConf.fsa w else MConf.fsb w
    if MDesc.fs w0 ≠ fs || !MDesc.ok w0 w1 (operandRow (s.iss.frame.fsOf fs) (MConf.k w)) then s.fault (matcfg 0 n)
    else match s.mview.slots.get? (MDesc.slot w1) with
      | none => s.fault { cause := .slotcfg }
      | some q =>
        if !MDesc.fits w0 w1 (if isA then MConf.rows w else MConf.cols w) q.size then s.fault { cause := .slotcfg }
        else s.addJob n x.phys op w0 w1

/-- MSRCA (R277). -/
def execMsrca (n : BitVec 3) (a b : Src) (s : State) : Host.Outcome State Fault Refusal :=
  .next (s.msrc (.msrca n.toNat) n.toNat true (s.sc a) (s.sc b))

/-- MSRCB (R277). -/
def execMsrcb (n : BitVec 3) (a b : Src) (s : State) : Host.Outcome State Fault Refusal :=
  .next (s.msrc (.msrcb n.toNat) n.toNat false (s.sc a) (s.sc b))

/-- A job of a configured accumulator whose operand passes; an operand that the table of R273 does not allow takes MATCFG with cause word 0
(log 116: DESIGN CHOICE, unsafe). -/
def State.plainJob (s : State) (n : Nat) (op : EffOp) (a : W64) (ok : Bool) : State :=
  match s.configured n with
  | none => s.fault (matcfg 0 n)
  | some (x, _) => if ok then s.addJob n x.phys op a 0 else s.fault (matcfg 0 n)

/-- MARM (R273): 1 to 65,535 firings. -/
def execMarm (n : BitVec 3) (a : Src) (s : State) : Host.Outcome State Fault Refusal :=
  let x := s.sc a
  .next (s.plainJob n.toNat (.marm n.toNat) x (decide (1 ≤ x.toNat) && decide (x.toNat ≤ 65535)))

/-- MDISARM (R274): no job; LEFT is 0 at its commit. -/
def execMdisarm (n : BitVec 3) (s : State) : Host.Outcome State Fault Refusal :=
  match s.mview.accs.get? n.toNat with
  | none => .next (s.fault (matcfg 0 n.toNat))
  | some x => if x.conf.isNone then .next (s.fault (matcfg 0 n.toNat))
      else .next (s.addEff { bun := 0, slot := 0, op := .mdisarm n.toNat, base := x.phys })

/-- MZERO (R281). -/
def execMzero (n : BitVec 3) (s : State) : Host.Outcome State Fault Refusal := .next (s.plainJob n.toNat (.mzero n.toNat) 0 true)

/-- MLOADC and MDRAIN at issue (R281, R283): one tile of `rows` rows. -/
def State.tileJob (s : State) (op : EffOp) (n : Nat) (accept : W64 → W64 → Bool) (w0 w1 : W64) : State :=
  match s.configured n with
  | none => s.fault (matcfg 0 n)
  | some (x, w) =>
    let fs := s.iss.frame.fsOf (MDesc.fs w0)
    if !accept w fs || !MDesc.ok w0 w1 (rowSize fs (MConf.cols w)) || MDesc.rep w1 ≠ 1 then s.fault (matcfg 0 n)
    else match s.mview.slots.get? (MDesc.slot w1) with
      | none => s.fault { cause := .slotcfg }
      | some q => if MDesc.fits w0 w1 (MConf.rows w) q.size then s.addJob n x.phys op w0 w1 else s.fault { cause := .slotcfg }

/-- The mode of a configured accumulator (R173): that of the MCFG that configures it in the state of R274. -/
def State.accInteger (s : State) (n : Nat) : Bool := match s.configured n with | some (x, _) => x.integer | none => false

/-- MLOADC (R281). -/
def execMloadc (n : BitVec 3) (a b : Src) (s : State) : Host.Outcome State Fault Refusal :=
  let i := s.accInteger n.toNat
  .next (s.tileJob (.mloadc n.toNat) n.toNat (fun _ fs => loadcOk fs i) (s.sc a) (s.sc b))

/-- MDRAIN (R283). -/
def execMdrain (n : BitVec 3) (a b : Src) (s : State) : Host.Outcome State Fault Refusal :=
  .next (s.tileJob (.mdrain n.toNat) n.toNat (fun _ fs => drainOk fs) (s.sc a) (s.sc b))

/-- MSCALE (R282): floating mode only. -/
def execMscale (n : BitVec 3) (a : Src) (s : State) : Host.Outcome State Fault Refusal :=
  let x := s.sc a
  .next (s.plainJob n.toNat (.mscale n.toNat) x (decide (x.toNat < 2 ^ 32) && !s.accInteger n.toNat))

/-- MSTAT (R287). -/
def Acc.status (x : Acc) : W64 :=
  let b (v : Bool) : Nat := if v then 1 else 0
  w64 (x.left * 2 ^ 48 + x.fired % 65536 * 2 ^ 32 + x.jobs.length * 2 ^ 16 + b x.srcB.isSome * 2 ^ 15 + b x.srcA.isSome * 2 ^ 14 +
    (match x.st with | .empty => 0 | .accum => 1 | .busy => 2) * 2 ^ 12 + b x.conf.isSome * 2 ^ 11 + x.flags.toNat)

/-- MSTAT (R287): an unmapped accumulator reads 0. -/
def execMstat (n : BitVec 3) (d : Dst) (s : State) : Host.Outcome State Fault Refusal :=
  let c := s.c s.iss.tile
  let v : W64 := match (c.frame s.iss.set.frame).accs.get? n.toNat with
    | some k => (c.accs.getD k {}).status
    | none => 0
  .next (s.deliver d (.scalar v))

/-! ### Sorting (R284 to R286) -/

/-- A number whose unsigned order is the order of the keys (R284). -/
def sortKey (kind : BitVec 2) (x : W32) : Nat :=
  match kind with
  | 0#2 => x.toNat
  | 1#2 => (x ^^^ 0x80000000).toNat
  | _ => if x.getLsbD 31 then (~~~x).toNat else x.toNat + 2 ^ 31

/-- The keys with their indices in ascending order of (key, index) (R284). -/
def sortKeys (kind : BitVec 2) (l : List W32) : List (W32 × Nat) :=
  (l.zip (List.range l.length)).mergeSort fun a b =>
    decide (sortKey kind a.1 < sortKey kind b.1) || (sortKey kind a.1 == sortKey kind b.1 && decide (a.2 ≤ b.2))

/-- ceil(log2 n) for n ≥ 1. -/
def ceilLog2 (n : Nat) : Nat := if n ≤ 1 then 0 else Nat.log2 (n - 1) + 1

/-- Array passes of a sort of c keys (R285). -/
def sortPasses (c : Nat) : Nat := let l := ceilLog2 (max c 2); l * (l + 1) / 2

/-- MSORT (R284): the count, then the pointer; the keys are read at issue. -/
def execMsort (k : BitVec 2) (a b : Src) (d : Dst) (s : State) : Host.Outcome State Fault Refusal :=
  let p := s.sc a
  let n := (s.sc b).toNat
  if n = 0 ∨ n > 1024 then .next (s.fault (matcfg 0 0))
  else if ptrKind p = 0 ∨ ptrKind p = 3 then .next (s.fault { cause := .winfault, addr := p })
  else match ptrFault s.acc p (4 * n) 4 0 with
    | some f => .next (s.fault f)
    | none =>
      match s.tgtsFault d.tgts with
      | some f => .next (s.fault f)
      | none =>
        let keys := (List.range n).map fun j => (((s.loadEl (p + w64 (4 * j)) 4 true).val.getD 0).setWidth 32 : W32)
        let ts := match d with | .targets t0 t1 => (t0, t1) | _ => (none, none)
        .next (s.addWait (.msort k keys (sortPasses n) ts.1 ts.2) { toks := d.tgts } {})

/-- The tokens a sort delivers (R286). -/
def sortTokens (kind : BitVec 2) (keys : List W32) (slot : Nat) (t0 t1 : Option Target) : List OutTok :=
  let l := sortKeys kind keys
  (List.range ((l.length + 31) / 32)).flatMap fun q =>
    let r := (l.drop (32 * q)).take 32
    let base := BitVec.ofNat 32 (32 * q)
    (t0.toList.map fun t => OutTok.mk slot (2 * q) (t.held (.vector base (r.map (·.1))))) ++
      (t1.toList.map fun t => OutTok.mk slot (2 * q + 1) (t.held (.vector base (r.map fun e => BitVec.ofNat 32 e.2))))

/-- A wait of an issued bundle instance ends with tokens of its own. -/
def State.endWaitToks (s : State) (t id w : Nat) (l : List OutTok) : State :=
  let s := s.modC t fun c => (c.modIssue id fun x => { x with toks := x.toks ++ l, waits := x.waits.filter fun q => q.id != w }).deliverReady id
  s.resume t id

/-- The cost of a K-step is covered and no promoted instance waits (R39, R42). -/
def State.kStepPaid (s : State) (t units : Nat) : Bool :=
  decide (units ≤ (s.c t).bucket) && !s.promotedWaits t && (s.c t).cycleFresh && decide ((s.c t).arrayDue ≤ (s.c t).cycle)

/-- A K-step's cost is debited (R42) and counted (R424). -/
def State.payKStep (s : State) (t units : Nat) : State :=
  (s.modC t fun c => { c with bucket := c.bucket - units, debits := c.debits + units, arrayDue := c.cycle + 32 }).countT t 16 1

/-- MSORT_PASS (R285): one pass of the oldest sort, a BF16 K-step for power; the last one delivers its tokens (R286). -/
def execMsortPass (t : Nat) (s : State) : Host.Outcome State Fault Refusal :=
  onTile t s fun s =>
    match (s.c t).array, (s.c t).oldestSort with
    | .idle, some (x, q) =>
      if !s.kStepPaid t 96 then s
      else
        let s := s.payKStep t 96
        match q.wait with
        | .msort k keys n t0 t1 =>
          if n > 1 then s.modC t fun c => c.modIssue x.id fun y => { y with waits := y.waits.map fun p =>
            if p.id = q.id then { p with wait := .msort k keys (n - 1) t0 t1 } else p }
          else s.endWaitToks t x.id q.id (sortTokens k keys q.slot t0 t1)
        | _ => s
    | _, _ => s

/-! ### Tile slots at issue (R289 to R291) -/

def slotFault : FaultInfo := { cause := .slotcfg }

/-- A physical slot that is free and not reserved (R289). -/
def State.freeSlot (s : State) : Option Nat :=
  (List.range 256).find? fun k => !(s.c s.iss.tile).slotTaken k && !s.iss.effs.any fun e => isTalloc e && e.base == k

/-- TSLOT alloc (R289). An area word that R289 does not allow takes SLOTCFG (log 115: DESIGN CHOICE, unsafe). -/
def execTslotAlloc (a b : Src) (s : State) : Host.Outcome State Fault Refusal :=
  let ix := s.sc a
  let w := s.sc b
  let off := bits w 19 0
  let size := bits w 39 20
  if bits ix 63 8 != 0 || bits w 63 40 != 0 || off % 128 != 0 || size % 128 != 0 || size == 0 ||
      s.mview.slots.has ix.toNat || decide (off + size > s.iss.frame.task.scrkb * 1024) then .next (s.fault slotFault)
  else match s.freeSlot with
    | none => .next (s.fault slotFault)
    | some k => .next (s.addEff { bun := 0, slot := 0, op := .tslotAlloc, a := ix, b := w, base := k })

/-- TSLOT free (R289). -/
def execTslotFree (a : Src) (s : State) : Host.Outcome State Fault Refusal :=
  let ix := s.sc a
  let v := s.mview
  match (if bits ix 63 8 != 0 then none else v.slots.get? ix.toNat) with
  | none => .next (s.fault slotFault)
  | some q =>
    if q.st ≠ 0 || q.subbed || v.accs.any fun e => e.2.conf.isSome && (e.2.a == some ix.toNat || e.2.b == some ix.toNat) then
      .next (s.fault slotFault)
    else .next (s.addEff { bun := 0, slot := 0, op := .tslotFree, a := ix, base := q.phys })

/-- The status word of a slot (R290). -/
def Slot.status (x : Slot) : W64 :=
  w64 (x.ver.toNat * 2 ^ 48 + x.fs.toNat * 2 ^ 43 + x.size * 2 ^ 20 + (x.sections.filter (·.filled)).length * 4 +
    (if x.full then 2 else 0) + 1)

/-- The slot TSLOTQ names, or SLOTCFG (R290). -/
def State.querySlot (s : State) (a : Src) : Option Slot :=
  let ix := s.sc a
  if bits ix 63 8 != 0 then none else ((s.c s.iss.tile).slotOf s.iss.set.frame ix.toNat).map (·.2)

/-- TSLOTQ now (R290). -/
def execTslotqNow (a : Src) (d : Dst) (s : State) : Host.Outcome State Fault Refusal :=
  match s.querySlot a with
  | none => .next (s.fault slotFault)
  | some x => .next (s.deliver d (.scalar x.status))

/-- TSLOTQ full and empty (R290): at once where the slot is in the state, else a wait. -/
def State.slotWait (s : State) (a : Src) (full : Bool) (d : Dst) : State :=
  match s.querySlot a with
  | none => s.fault slotFault
  | some x =>
    match s.tgtsFault d.tgts with
    | some f => s.fault f
    | none =>
      if x.reached full then s.modIss fun i => i.dst d .order
      else s.addWait (.tslotq (s.sc a).toNat full false) d.dest {}

/-- TSLOTQ full (R290). -/
def execTslotqFull (a : Src) (d : Dst) (s : State) : Host.Outcome State Fault Refusal := .next (s.slotWait a true d)

/-- TSLOTQ empty (R290). -/
def execTslotqEmpty (a : Src) (d : Dst) (s : State) : Host.Outcome State Fault Refusal := .next (s.slotWait a false d)

/-- TSLOTQ_WAIT_DELIVERY (R290): a waited-for state has been reached. -/
def execTslotqWaitDelivery (t i : Nat) (s : State) : Host.Outcome State Fault Refusal :=
  onTile t s fun s =>
    match (s.c t).issue? i with
    | none => s
    | some x =>
      x.waits.foldl (fun s q => match q.wait with
        | .tslotq _ _ seen => if seen then s.endWait t i q.id .order else s
        | _ => s) s

/-- TSET's checks on a slot (R291), and its effect. An index word above 255 takes SLOTCFG (log 117: DESIGN CHOICE, unsafe). -/
def State.tset (s : State) (op : EffOp) (a : Src) (empty : Bool) (row : Option (List W32 × W64)) : State :=
  let ix := s.sc a
  match (if bits ix 63 8 != 0 then none else s.mview.slots.get? ix.toNat) with
  | none => s.fault slotFault
  | some q =>
    let bad := if empty then q.st != 2 else q.st != 0 || q.subbed
    let rowBad := match row with
      | some (_, off) => bits off 63 20 != 0 || off.toNat % 128 != 0 || decide (off.toNat + 128 > q.size)
      | none => false
    if bad || rowBad then s.fault slotFault
    else s.addEff { bun := 0, slot := 0, op := op, a := ix, base := q.phys, lanes := (row.map (·.1)).getD [],
                    e := (row.map (·.2)).getD 0 }

/-- TSET empty (R291). -/
def execTsetEmpty (a : Src) (s : State) : Host.Outcome State Fault Refusal := .next (s.tset .tsetEmpty a true none)

/-- TSET full (R291). -/
def execTsetFull (a : Src) (s : State) : Host.Outcome State Fault Refusal := .next (s.tset .tsetFull a false none)

/-- TSET row (R291). -/
def execTsetRow (a b c : Src) (s : State) : Host.Outcome State Fault Refusal :=
  .next (s.tset .tsetRow a false (some (s.vec b, s.sc c)))

/-- TSET rowfull (R291). -/
def execTsetRowfull (a b c : Src) (s : State) : Host.Outcome State Fault Refusal :=
  .next (s.tset .tsetRowfull a false (some (s.vec b, s.sc c)))

/-! ### Commit of the M-slot effects (R274, R291, R292) -/

/-- The 128 bytes of a row: lane j at bytes 4j to 4j + 3, inactive lanes zero (R291). -/
def rowBytes128 (l : List W32) : List Byte := (List.range 32).flatMap fun j => toBytes (l.getD j 0).toNat 4

/-- A slot is in use by a firing in progress. -/
def Slot.busy (x : Slot) : Bool := decide (x.inUse > 0)

/-- An M-slot effect takes effect at its commit. -/
def State.commitM (s : State) (t f : Nat) (site : Site) (middle : List Byte) (e : Eff) : State :=
  let job : Job := ⟨e.op, e.a, e.b, site, middle⟩
  let push (s : State) : State := s.modC t fun c => { c with accs := c.accs.adjust e.base fun x => { x with jobs := x.jobs ++ [job] } }
  let ix := bits e.a 7 0
  let row (s : State) : State := s.modC t fun c =>
    match c.slots.get? e.base with
    | some x => { c with scratch := c.scratch.writeBytes (x.base + e.e.toNat) (rowBytes128 e.lanes) }
    | none => c
  let fill (s : State) : State := s.modC t fun c => c.modSlot e.base fun x => { x with full := true }
  match e.op with
  | .mcfg n =>
    push (s.modC t fun c =>
      let c := c.modFrame f fun fr => if fr.accs.has n then fr else { fr with accs := fr.accs.set n e.base }
      let x := c.accs.getD e.base {}
      { c with accs := c.accs.set e.base (if x.frame = some f then x else { frame := some f, name := n }) })
  | .mdisarm _ => s.modC t fun c => { c with accs := c.accs.adjust e.base fun x => { x with left := 0 } }
  | .tslotAlloc => s.modC t fun c =>
      let x : Slot := { frame := some f, taskId := (c.frame f).task.taskId, localIx := ix, base := (c.frame f).scrBase + bits e.b 19 0,
                        off := bits e.b 19 0, size := bits e.b 39 20, sub := none, sections := [], full := false, ver := 0, fs := 0,
                        inUse := 0, usedBy := [], emptyAsked := false, byTask := false }
      { c with slots := c.slots.set e.base x }.modFrame f fun fr => { fr with slots := fr.slots.set ix e.base }
  | .tslotFree => s.modC t fun c =>
      let c := match c.slots.get? e.base with | some x => if x.byTask then c.freeArea x.base x.size else c | none => c
      { c with slots := c.slots.erase e.base }.modFrame f fun fr => { fr with slots := fr.slots.erase ix }
  | .tsetEmpty =>
    match (s.c t).slots.get? e.base with
    | some x => if x.busy then s.modC t fun c => c.modSlot e.base fun x => { x with emptyAsked := true }
        else s.emptySlot t e.base true
    | none => s
  | .tsetFull => fill s
  | .tsetRow => row s
  | .tsetRowfull => fill (row s)
  | _ => push s

/-! ### Firings (R174 to R176, R279, R280) -/

/-- The element of an operand row, by its code (R154, R276). -/
def elemCode (fs : W64) (row : List Byte) (k : Nat) : Nat :=
  match FmtSlot.elemBits (FmtSlot.fmt fs) with
  | 4 => (row.getD (k / 2) 0).toNat / 16 ^ (k % 2) % 16
  | 8 => (row.getD k 0).toNat
  | n => fromBytes ((row.drop (k * (n / 8))).take (n / 8))

/-- The integer value of a code of an integer or Q format, without its zero point. -/
def codeInt (fs : W64) (x : Nat) : Int :=
  match FmtSlot.fmt fs with
  | 10 => signedOf 8 x
  | 11 => signedOf 4 x
  | _ => x

/-- The value of a code of a floating format, or of an MX element without its scale (R155, R160). -/
def codeFl (fs : W64) (x : Nat) : Fl := let f := (FmtSlot.float (FmtSlot.fmt fs)).getD Fmt.f32; unpack f (x % 2 ^ f.width)

def isMx (fs : W64) : Bool := FmtSlot.fmt fs == 5 || FmtSlot.fmt fs == 6

/-- The E8M0 scale byte of the block of element k (R159, R160). -/
def mxRowScale (fs : W64) (kLen : Nat) (row : List Byte) (k : Nat) : Nat :=
  (row.getD (kLen * FmtSlot.elemBits (FmtSlot.fmt fs) / 8 + k / 32) 0).toNat

/-- The scale and zero point of group g of a Q row (R161). -/
def qGroup (fs : W64) (kLen : Nat) (row : List Byte) (g : Nat) : Nat × Nat :=
  let at_ := kLen * FmtSlot.elemBits (FmtSlot.fmt fs) / 8 + 4 * g
  let z := (row.getD (at_ + 2) 0).toNat
  (fromBytes ((row.drop at_).take 2), if FmtSlot.fmt fs = 8 then z % 16 else z)

/-- The A48 default NaN as a group sum (R175). -/
def a48Nan : Nat := Fmt.a48.defaultNan

/-- The sum of a group of exact products (R174, R175): each pair's values, and the binary exponent of the scales. -/
def groupSum (ps : List (Fl × Fl)) (scale : Int) (nanScale : Bool) : Nat × FpFlags :=
  if nanScale || ps.any fun p => p.1.isNan || p.2.isNan then (a48Nan, Fp.nv)
  else
    let prods := ps.map fun p => mulFl p.1 p.2
    let has (sg : Bool) : Bool := prods.any fun p => p == some (.inf sg)
    if prods.any Option.isNone || (has true && has false) then (a48Nan, Fp.nv)
    else if has true || has false then (withSign Fmt.a48 (has true) Fmt.a48.infCode, 0)
    else
      let fin := prods.filterMap id
      let sum := match fin with
        | [] => Fl.fin false 0 0
        | p :: r => r.foldl (fun a b => (addFl a b).getD a) p
      match sum with
      | .fin sg m e => rne Fmt.a48 (.fin sg m (e + scale))
      | v => rne Fmt.a48 v

/-- The sum of a Q group: its exact integer sum times the FP32 product of the scales (R174). -/
def qSum (sum : Int) (sa sb : Nat) : Nat × FpFlags :=
  let a := unpack Fmt.f16 sa
  let b := unpack Fmt.f16 sb
  if a.isNan || b.isNan then (a48Nan, Fp.nv)
  else match mulFl a b with
    | none => (a48Nan, Fp.nv)
    | some p =>
      let r := rne Fmt.f32 p
      match mulFl (flOfInt sum) (unpack Fmt.f32 r.1) with
      | none => (a48Nan, Fp.nv)
      | some v => if v.isZero then (0, 0) else rne Fmt.a48 v

/-- An accumulator addition (R175): no NaN payload is kept. -/
def accAdd (acc sum : Nat) : Nat × FpFlags :=
  let r := fadd Fmt.a48 acc sum
  if (unpack Fmt.a48 r.1).isNan then (a48Nan, r.2) else r

/-- An integer accumulation (R176). -/
def accAddInt (sat : Bool) (acc sum : Int) : Int × FpFlags :=
  let v := acc + sum
  if !sat then (signedOf 48 (v % 2 ^ 48).toNat, 0)
  else if v < -(2 ^ 47) then (-(2 ^ 47), Fp.sat) else if v > 2 ^ 47 - 1 then (2 ^ 47 - 1, Fp.sat) else (v, 0)

/-- The group size of a firing (R174). -/
def groupLen (fsa : W64) : Nat := if FmtSlot.isQ fsa then FmtSlot.group fsa else 8

/-- One group of one element in floating mode (FireElement of R174). -/
def fireGroup (fsa fsb : W64) (kLen : Nat) (ra rb : List Byte) (g : Nat) (overwrite : Bool) (acc : Nat) : Nat × FpFlags :=
  let n := groupLen fsa
  let ks := (List.range n).map (g * n + ·)
  let sum := if FmtSlot.isQ fsa then
      let qa := qGroup fsa kLen ra g
      let qb := qGroup fsb kLen rb g
      qSum (ks.foldl (fun s k => s + (codeInt fsa (elemCode fsa ra k) - qa.2) * (codeInt fsb (elemCode fsb rb k) - qb.2)) 0) qa.1 qb.1
    else
      let last := g * n + n - 1
      let xa := if isMx fsa then mxRowScale fsa kLen ra last else 127
      let xb := if isMx fsb then mxRowScale fsb kLen rb last else 127
      groupSum (ks.map fun k => (codeFl fsa (elemCode fsa ra k), codeFl fsb (elemCode fsb rb k)))
        ((xa : Int) - 127 + (xb - 127)) (decide (xa = 255) || decide (xb = 255))
  if overwrite && g == 0 then sum
  else let r := accAdd acc sum.1; (r.1, sum.2 ||| r.2)

/-- One group of one element in integer mode (R176). -/
def fireGroupInt (fsa fsb : W64) (sat : Bool) (ra rb : List Byte) (g : Nat) (overwrite : Bool) (acc : Nat) : Nat × FpFlags :=
  let sum := (List.range 8).foldl (fun s j => s + codeInt fsa (elemCode fsa ra (8 * g + j)) * codeInt fsb (elemCode fsb rb (8 * g + j))) 0
  let r := accAddInt sat (if overwrite && g == 0 then 0 else signedOf 48 acc) sum
  ((r.1 % 2 ^ 48).toNat, r.2)

/-- The bytes of row r of tile n of a slot's area (R276). -/
def CDom.operandBytes (c : CDom) (area : Nat) (w0 : W64) (n r len : Nat) : List Byte :=
  (List.range len).map fun b => c.scratch.read (area + MDesc.rowByte w0 n r b)

/-- K elements of a K-step (R279). -/
def kdOf (fsa fsb : W64) : Nat :=
  match min (FmtSlot.elemBits (FmtSlot.fmt fsa)) (FmtSlot.elemBits (FmtSlot.fmt fsb)) with
  | 16 => 64 | 8 => 128 | _ => 256

/-- The cost of a K-step (R43). -/
def kUnits (fsa fsb : W64) : Nat :=
  match min (FmtSlot.elemBits (FmtSlot.fmt fsa)) (FmtSlot.elemBits (FmtSlot.fmt fsb)) with
  | 16 => 96 | 8 => 112 | _ => 128

/-- A source of an accumulator with its physical slot. -/
def CDom.srcSlot (c : CDom) (x : Acc) (m : Option MSrc) : Option (MSrc × Nat × Slot) :=
  match x.frame, m with
  | some f, some q => (c.slotOf f (MDesc.slot q.w1)).map fun e => (q, e.1, e.2)
  | _, _ => none

/-- The slot is full and this rule has not used it since, or it is kept (R279). -/
def usable (k : Nat) (q : MSrc) (x : Slot) : Bool := x.full && (MDesc.keep q.w1 || !x.usedBy.contains k)

/-- The rule of physical accumulator k is ready to fire (R279). -/
def CDom.fires (c : CDom) (k : Nat) : Bool :=
  let x := c.accs.getD k {}
  decide (x.left ≥ 1) && x.st != .busy &&
    match c.srcSlot x x.srcA, c.srcSlot x x.srcB with
    | some (qa, _, sa), some (qb, _, sb) => usable k qa sa && usable k qb sb
    | _, _ => false

/-- The accumulator's frame issues no more before it is parked: its firings and jobs wait for its restore (R293, R389). -/
def CDom.accParked (c : CDom) (k : Nat) : Bool :=
  match (c.accs.getD k {}).frame with | some f => (c.frame f).park == .cutoff | none => false

/-- The ready rule that fires next (R279). -/
def CDom.nextFiring (c : CDom) : Option Nat :=
  let key (k : Nat) : Nat × Nat × Nat := let f := (c.accs.getD k {}).frame.getD 0; let q := (c.frame f).task; (15 - q.prio, q.stage, f)
  ((List.range 8).filter fun k => c.fires k && !c.accParked k).foldl (fun m k => match m with
    | none => some k
    | some j =>
      let a := key j
      let b := key k
      if b.1 < a.1 ∨ (b.1 = a.1 ∧ (b.2.1 < a.2.1 ∨ (b.2.1 = a.2.1 ∧ b.2.2 < a.2.2))) then some k else some j) none

/-- A use of the operand slots of a firing begins. -/
def CDom.useSlots (c : CDom) (x : Acc) (g : Slot → Slot) : CDom :=
  let one (c : CDom) (m : Option MSrc) : CDom := match c.srcSlot x m with | some (_, k, _) => c.modSlot k g | none => c
  one (one c x.srcA) x.srcB

/-- MATRIX_FIRING_START (R279, R280): the slots are read; a pair that no longer fits aborts the frame. -/
def execMatrixFiringStart (t : Nat) (s : State) : Host.Outcome State Fault Refusal :=
  onTile t s fun s =>
    let c := s.c t
    match c.array, c.oldestSort, c.nextFiring with
    | .idle, none, some k =>
      let x := c.accs.getD k {}
      let f := x.frame.getD 0
      let w := x.conf.getD 0
      let fsa := (c.frame f).fsOf (MConf.fsa w)
      let fsb := (c.frame f).fsOf (MConf.fsb w)
      if slotsMode fsa fsb (MConf.k w) ≠ some x.integer then s.abortFrame t f x.armed { matcfg 1 x.name with }
      else
        let kd := kdOf fsa fsb
        let c := c.useSlots x fun q => { q with inUse := q.inUse + 1 }
        s.setC t { c with accs := c.accs.set k { x with left := x.left - 1, st := .busy },
                          array := .firing k 0 ((MConf.k w + kd - 1) / kd) (x.st == .empty) (kUnits fsa fsb) fsa fsb }
    | _, _, _ => s

/-- The elements of an accumulator after one K-step (R174, R176), and its flags. Where FMTW made K of an MX pair no multiple of 32,
the scale of the last part of a block is the byte after the K/32 scale bytes (log 71: DEDUCED, unsafe). -/
def CDom.kStep (c : CDom) (x : Acc) (done : Nat) (first : Bool) (fsa fsb : W64) : AMap (BitVec 48) × FpFlags :=
  let w := x.conf.getD 0
  let kLen := MConf.k w
  let kd := kdOf fsa fsb
  let n := if x.integer then 8 else groupLen fsa
  let gs := (List.range (kd / n)).filterMap fun j => let g := done * (kd / n) + j; if g * n < kLen then some g else none
  let over_ := first && MConf.ovw w
  match c.srcSlot x x.srcA, c.srcSlot x x.srcB with
  | some (qa, _, sa), some (qb, _, sb) =>
    let rowsA := (List.range (MConf.rows w)).map fun r => c.operandBytes sa.base qa.w0 (qa.count % MDesc.rep qa.w1) r (operandRow fsa kLen + 1)
    let rowsB := (List.range (MConf.cols w)).map fun r => c.operandBytes sb.base qb.w0 (qb.count % MDesc.rep qb.w1) r (operandRow fsb kLen + 1)
    let one (i j : Nat) : Nat × FpFlags :=
      let ra := rowsA.getD i []
      let rb := rowsB.getD j []
      gs.foldl (fun a g =>
        let r := if x.integer then fireGroupInt fsa fsb (MConf.sati w) ra rb g over_ a.1 else fireGroup fsa fsb kLen ra rb g over_ a.1
        (r.1, a.2 ||| r.2)) ((x.elems.getD (i * MConf.cols w + j) 0).toNat, 0)
    let all := (List.range (MConf.rows w * MConf.cols w)).map fun e => one (e / MConf.cols w) (e % MConf.cols w)
    ((List.range all.length).map fun e => (e, BitVec.ofNat 48 ((all.getD e (0, 0)).1)), all.foldl (fun f r => f ||| r.2) 0)
  | _, _ => (x.elems, 0)

/-- K_STEP (R42, R43): debited where covered, else the firing pauses; then its groups are accumulated. -/
def execKStep (t : Nat) (s : State) : Host.Outcome State Fault Refusal :=
  onTile t s fun s =>
    match (s.c t).array with
    | .firing k done (left + 1) first units fsa fsb =>
      if !s.kStepPaid t units then s
      else
        (s.payKStep t units).modC t fun c =>
          let x := c.accs.getD k {}
          let r := c.kStep x done first fsa fsb
          { c with accs := c.accs.set k { x with elems := r.1, flags := x.flags ||| r.2 }, array := .firing k (done + 1) left first units fsa fsb }
    | _ => s

/-- The rules of a slot's frame that name it without KEEP. -/
def CDom.namers (c : CDom) (q : Slot) : List Nat :=
  (List.range 8).filter fun k =>
    let x := c.accs.getD k {}
    let names (m : Option MSrc) : Bool := match m with | some y => MDesc.slot y.w1 == q.localIx && !MDesc.keep y.w1 | none => false
    x.frame == q.frame && x.frame.isSome && (names x.srcA || names x.srcB)

/-- Every rule that names a used slot without KEEP has used it (R280). -/
def CDom.usedUp (c : CDom) (q : Slot) : Bool := q.full && !q.usedBy.isEmpty && decide (q.inUse = 0) && (c.namers q).all fun k => q.usedBy.contains k

/-- Used slots of a frame whose last other namer has gone become EMPTY (R280). -/
def State.emptyUsed (s : State) (t f : Nat) : State :=
  ((s.c t).slots.filter fun e => e.2.frame == some f && (s.c t).usedUp e.2).foldl (fun s e => s.emptySlot t e.1 false) s

/-- A firing's use of an operand slot ends (R280, R292); none of a slot that was emptied during the firing (R279). -/
def State.endUse (s : State) (t k : Nat) (m : Option MSrc) : State :=
  match (s.c t).srcSlot ((s.c t).accs.getD k {}) m with
  | none => s
  | some (q, n, x) =>
    if x.inUse = 0 then s else
    let last := !MDesc.keep q.w1 && decide (q.count % MDesc.rep q.w1 = MDesc.rep q.w1 - 1)
    let used := if (last || x.emptyAsked) && !x.usedBy.contains k then x.usedBy ++ [k] else x.usedBy
    let s := s.modC t fun c => c.modSlot n fun x => { x with inUse := x.inUse - 1, usedBy := used }
    if x.emptyAsked then (if x.inUse ≤ 1 then s.emptySlot t n true else s)
    else if (s.c t).usedUp { x with inUse := x.inUse - 1, usedBy := used } then s.emptySlot t n false
    else s

/-- The accumulator is quiet and its budget spent: the condition of most jobs (R274). -/
def Acc.quiet (x : Acc) : Bool := x.left == 0 && x.st != .busy

/-- The job at the head of an accumulator's queue can go on: its condition holds (R274), or it is in progress. -/
def CDom.jobDue (c : CDom) (k : Nat) : Bool :=
  let x := c.accs.getD k {}
  let slotIs (f n : Nat) (full : Bool) : Bool := match c.slotOf f n with
    | some (_, q) => if full then q.full else q.stateNum == 0
    | none => false
  match x.jobs.head?, x.frame with
  | some j, some f => x.work.isSome || (!c.accParked k && match j.op with
    | .marm _ => true
    | .mloadc _ => x.quiet && slotIs f (MDesc.slot j.b) true
    | .mdrain _ => x.quiet && slotIs f (MDesc.slot j.b) false
    | _ => x.quiet)
  | _, _ => false

/-- MATRIX_FIRING_END (R278, R280), behind the jobs that can go on and what they hold back in their queues: a rule whose source is set by
then names the slots (R364). -/
def execMatrixFiringEnd (t : Nat) (s : State) : Host.Outcome State Fault Refusal :=
  onTile t s fun s =>
    if (List.range 8).any (s.c t).jobDue then s
    else match (s.c t).array with
    | .firing k _ 0 _ _ _ _ =>
      let x := (s.c t).accs.getD k {}
      let s := (s.endUse t k x.srcA).endUse t k x.srcB
      s.modC t fun c =>
        let step (m : Option MSrc) : Option MSrc := m.map fun q => { q with count := q.count + 1 }
        { c with array := .idle, accs := c.accs.adjust k fun x =>
          { x with st := .accum, fired := x.fired + 1, srcA := step x.srcA, srcB := step x.srcB } }
    | _ => s

/-! ### Jobs (R274, R275, R277, R281 to R283) -/

/-- A code widened exactly to A48; a NaN becomes the default one (R281). -/
def widenA48 (fs : W64) (integer : Bool) (x : Nat) : BitVec 48 :=
  if integer then BitVec.ofNat 48 x
  else
    let v := codeFl fs x
    BitVec.ofNat 48 (if v.isNan then a48Nan else (rne Fmt.a48 v).1)

/-- The elements MLOADC reads (R281). -/
def CDom.loadElems (c : CDom) (area : Nat) (w w0 fs : W64) (integer : Bool) : AMap (BitVec 48) :=
  (List.range (MConf.rows w * MConf.cols w)).map fun e =>
    let row := c.operandBytes area w0 0 (e / MConf.cols w) (rowSize fs (MConf.cols w))
    (e, widenA48 fs integer (elemCode fs row (e % MConf.cols w)))

/-- MSCALE on an element (R282). -/
def scaleElem (factor : Nat) (x : BitVec 48) : Nat × FpFlags :=
  let a := unpack Fmt.a48 x.toNat
  let b := unpack Fmt.f32 factor
  if a.isNan || b.isNan then (a48Nan, if a.isSnan || b.isSnan then Fp.nv else 0)
  else match mulFl a b with
    | none => (a48Nan, Fp.nv)
    | some v => rne Fmt.a48 v

/-- The rounding of a drain for an element (R166, R167, R283); SRSEED is read when the drain converts, at its end (log 105: DESIGN CHOICE,
unsafe). -/
def CDom.drainRnd (c : CDom) (fs : W64) (middle : List Byte) (elem : Nat) : Rnd :=
  match FmtSlot.rnd fs with
  | 0 => .rne | 1 => .rtz | 2 => .rdn | 3 => .rup | 4 => .rna
  | _ => .sr (srValue (srMessage (c.srseed.getD (FmtSlot.seed fs) 0) middle elem))

/-- The code of an accumulator element in a format (R176, R283): an A48 integer keeps its 48 bits, copies of bit 47 above. -/
def drainElem (fs : W64) (rnd : Rnd) (integer : Bool) (x : BitVec 48) : Nat × FpFlags :=
  if integer then
    if FmtSlot.fmt fs = 9 then ((x.signExtend 64).toNat, 0) else convertSlot fs rnd (flOfInt x.toInt)
  else convertSlot fs rnd (unpack Fmt.a48 x.toNat)

/-- The bytes of a row of codes (R154). -/
def packRow (bitsN : Nat) (l : List Nat) : List Byte :=
  if bitsN = 4 then (List.range (l.length / 2)).map fun j => BitVec.ofNat 8 (l.getD (2 * j) 0 + 16 * l.getD (2 * j + 1) 0)
  else l.flatMap fun v => toBytes v (bitsN / 8)

/-- The memory after a drain, and its flags (R283). -/
def CDom.drainTo (c : CDom) (area : Nat) (x : Acc) (w w0 fs : W64) (middle : List Byte) : Memory × FpFlags :=
  let n := MConf.cols w
  (List.range (MConf.rows w)).foldl (fun (a : Memory × FpFlags) i =>
    let l := (List.range n).map fun j => drainElem fs (c.drainRnd fs middle (i * 32 + j)) x.integer (x.elems.getD (i * n + j) 0)
    let bs := packRow (FmtSlot.elemBits (FmtSlot.fmt fs)) (l.map (·.1))
    ((List.range bs.length).foldl (fun m b => m.write (area + MDesc.rowByte w0 0 i b) (bs.getD b 0)) a.1, l.foldl (fun f r => f ||| r.2) a.2))
    (c.scratch, 0)

/-- The job at the head of an accumulator's queue starts (R278): the accumulator is BUSY until it is done. -/
def Acc.begin (x : Acc) (fs : W64) : Acc := { x with work := some (x.st, fs), st := .busy }

/-- The job at the head of an accumulator's queue is done where its condition holds (R274). A drain, load or rescale first starts, and
the accumulator is BUSY until the next of these events ends it (R278; log 72: DESIGN CHOICE, safe). A drain whose slot has been freed by then
writes nothing and raises nothing (log 108: DESIGN CHOICE, unsafe). -/
def State.jobDone (s : State) (t k : Nat) : State :=
  let c := s.c t
  let x := c.accs.getD k {}
  match x.jobs, x.frame with
  | j :: rest, some f =>
    let fr := c.frame f
    let put (y : Acc) : State := s.setC t { c with accs := c.accs.set k { y with jobs := rest } }
    let start (y : Acc) (fs : W64) : State := s.setC t { c with accs := c.accs.set k (y.begin fs) }
    let w := x.conf.getD 0
    match j.op with
    | .marm _ => put { x with left := min (x.left + j.a.toNat) 65535, armed := j.site }
    | .mcfg _ =>
      if x.quiet then (put { x with conf := some j.a, integer := j.b == 1, elems := [], st := .empty, fired := 0, srcA := none,
                                    srcB := none, flags := 0 }).emptyUsed t f else s
    | .msrca _ => if x.quiet then (put { x with srcA := some ⟨j.a, j.b, 0⟩ }).emptyUsed t f else s
    | .msrcb _ => if x.quiet then (put { x with srcB := some ⟨j.a, j.b, 0⟩ }).emptyUsed t f else s
    | .mzero _ => if x.quiet then put { x with elems := [], st := .empty, flags := 0 } else s
    | .mscale _ =>
      match x.work with
      | none => if x.quiet then start x 0 else s
      | some (st, _) =>
        let l := (List.range (MConf.rows w * MConf.cols w)).map fun e => scaleElem j.a.toNat (x.elems.getD e 0)
        put { x with elems := (List.range l.length).map fun e => (e, BitVec.ofNat 48 ((l.getD e (0, 0)).1)), st := st, work := none,
                     flags := l.foldl (fun f r => f ||| r.2) x.flags }
    | .mloadc n =>
      match x.work, c.slotOf f (MDesc.slot j.b) with
      | none, some (_, q) =>
        let fs := fr.fsOf (MDesc.fs j.a)
        if !x.quiet || !q.full then s
        else if !loadcOk fs x.integer then (put x).abortFrame t f j.site (matcfg 1 n)
        else start { x with elems := c.loadElems q.base w j.a fs x.integer } fs
      | none, none => s
      | some _, q =>
        let s := put { x with st := .accum, work := none, flags := 0 }
        match q with
        | some (ix, _) => if MDesc.keep j.b then s else s.emptySlot t ix false
        | none => s
    | .mdrain n =>
      match x.work, c.slotOf f (MDesc.slot j.b) with
      | none, some (_, q) =>
        let fs := fr.fsOf (MDesc.fs j.a)
        if !x.quiet || q.stateNum != 0 then s
        else if !drainOk fs then (put x).abortFrame t f j.site (matcfg 1 n)
        else start x fs
      | some (_, fs), some (ix, q) =>
        let r := c.drainTo q.base x w j.a fs j.sr
        (put { x with elems := [], st := .empty, work := none, flags := x.flags ||| r.2 }).modC t fun c =>
          { c with scratch := r.1 }.modSlot ix fun q => { q with full := true }
      | some _, none => put { x with elems := [], st := .empty, work := none }
      | none, none => s
    | _ => put x
  | _, _ => s

/-- The idle array takes a ready firing at this boundary (R279). -/
def CDom.firingDue (c : CDom) : Bool := c.array == .idle && c.oldestSort.isNone && c.nextFiring.isSome

/-- MATRIX_JOB_DONE (R274): at a boundary where the idle array has a firing ready, that one starts first, so that no job readies another
before it is chosen (R279, R364). -/
def execMatrixJobDone (t acc : Nat) (s : State) : Host.Outcome State Fault Refusal := onTile t s fun s =>
  if (s.c t).firingDue ∨ ((s.c t).accParked acc ∧ ((s.c t).accs.getD acc {}).work.isNone) then s else s.jobDone t acc

end Sys2Proof.Machine
end

