-- ==== Sys2Proof/Machine/Records.lean ====
section
/-! DEFINITION. The records that software writes: task records with their subscription entries (R15, R18, R219), binding
records (R75, R350) and generator descriptors (R118, R119). -/

namespace Sys2Proof.Machine

/-! ### Task records -/

/-- The subscription entries that follow a record (R219). -/
def subEntries (l : List Byte) (n : Nat) : List (W64 × W64 × W64 × W64) :=
  (List.range n).map fun k => (wordAt l (4 * k), wordAt l (4 * k + 1), wordAt l (4 * k + 2), wordAt l (4 * k + 3))

/-- The task of a 64 B record and its entries (R15, R219); TASKID and DEPCNT are not taken from it. -/
def taskOf (l : List Byte) : Task :=
  let w0 := wordAt l 0
  let w1 := wordAt l 1
  { arg1 := wordAt l 7, arg0 := wordAt l 6, donelo := wordAt l 5, donehi := wordAt l 4, codelo := wordAt l 3, codehi := wordAt l 2,
    codekb := bits w1 59 50, scrkb := bits w1 49 40, privkb := bits w1 39 33, stashu := bits w1 32 29, entry := bits w1 19 0,
    stage := bits w0 31 20, prio := bits w0 19 16, depcnt := bits w0 8 2, subcnt := bits w0 8 2, doneen := w0.getLsbD 0,
    subs := (subEntries (l.drop 64) (bits w0 8 2 - 1)).map fun e => (e.1, e.2.1, e.2.2.1) }

/-- The reserved bits of a record are zero (R15). -/
def taskReservedOk (l : List Byte) : Bool :=
  bits (wordAt l 5) 63 40 == 0 && bits (wordAt l 4) 63 56 == 0 && bits (wordAt l 3) 63 40 == 0 && bits (wordAt l 2) 63 56 == 0 &&
    bits (wordAt l 1) 63 60 == 0 && bits (wordAt l 1) 28 20 == 0 && !(wordAt l 0).getLsbD 1

/-- The bytes that every task's layout takes, without its tile slots (R18). -/
def Task.bytes (k : Task) : Nat := (k.codekb + k.privkb + k.scrkb) * 1024 + k.stashu * 65536

/-- The code name's tile fits its area, where its tensor is bound (R17, R18). -/
def codeFits (p : Partition) (k : Task) : Bool :=
  let n := nameOf k.codehi k.codelo
  match p.binding n.ns n.tensor with
  | some b => decide (b.tilesec * 128 ≤ k.codekb * 1024)
  | none => true

/-- A record is accepted at creation (R18, R219). -/
def taskOk (p : Partition) (l : List Byte) : Bool :=
  let k := taskOf l
  taskReservedOk l && decide (1 ≤ k.codekb) && decide (k.codekb ≤ 768) && decide (k.scrkb ≤ 768) && decide (k.privkb ≤ 64) &&
    decide (k.stashu ≤ 8) && decide (1 ≤ k.subcnt) && decide (k.subcnt ≤ 64) && decide (k.entry < k.codekb * 1024) &&
    k.entry % 64 == 0 && codeFits p k && decide (k.bytes ≤ 786432) &&
    (subEntries (l.drop 64) (k.subcnt - 1)).all fun e =>
      e.2.2.2 == 0 && bits e.2.2.1 63 16 == 0 && bits e.2.2.1 7 6 == 0 && decide (bits e.2.2.1 5 4 ≤ 1)

/-! ### Binding records -/

/-- The binding of a 64 B record (R75). -/
def bindingOf (l : List Byte) : Binding :=
  let w (k : Nat) : W64 := wordAt l k
  { kind := (w 0).extractLsb' 0 2, wb := (w 0).getLsbD 3, hgm := (w 0).extractLsb' 13 4, fs := (w 0).extractLsb' 17 5,
    tilesec := bits (w 0) 31 22, tensor := (w 0).extractLsb' 32 20, ns := (w 0).extractLsb' 52 12,
    ext := [bits (w 1) 11 0, bits (w 1) 23 12, bits (w 1) 35 24, bits (w 1) 47 36],
    vbase := bits (w 2) 63 8, rows := bits (w 3) 15 0, rowb := bits (w 3) 31 16, rowp := bits (w 3) 63 32,
    tstr := [bits (w 4) 31 0, bits (w 4) 63 32, bits (w 5) 31 0, bits (w 5) 63 32],
    retn := bits (w 6) 31 16, rett := bits (w 6) 63 32 }

/-- NSBIND accepts the record (R75). -/
def bindingOk (l : List Byte) : Bool :=
  let b := bindingOf l
  b.kind != 3 && bits (wordAt l 0) 12 4 == 0 && !(wordAt l 0).getLsbD 2 && bits (wordAt l 1) 63 48 == 0 && bits (wordAt l 2) 7 0 == 0 &&
    bits (wordAt l 6) 15 0 == 0 && wordAt l 7 == 0 && decide (1 ≤ b.tilesec) && decide (b.tilesec ≤ 512) &&
    (b.kind != 2 || (b.rows * b.rowb == b.tilesec * 128 && decide (b.rowb ≤ b.rowp)))

/-- A change of binding is applied (R350): a first binding, a change of RETT, RETN or WB alone, an unbinding; never namespace 0. -/
def bindChangeOk (p : Partition) (b : Binding) : Bool :=
  b.ns != 0 &&
    match p.binding b.ns b.tensor with
    | none => true
    | some o => b.kind == 0 || { o with rett := b.rett, retn := b.retn, wb := b.wb } == b

/-- The binding tables after a record (R350). -/
def Partition.bind (p : Partition) (b : Binding) : Partition :=
  { p with bindings := b :: p.bindings.filter fun o => !(o.ns == b.ns && o.tensor == b.tensor) }

/-! ### Generator descriptors -/

/-- The generator of a 64 B descriptor (R118). -/
def genOf (l : List Byte) : Gen :=
  let w (k : Nat) : W64 := wordAt l k
  { base := w 0, ndim := bits (w 1) 10 8, esize := 2 ^ bits (w 1) 2 0,
    cnt := [bits (w 2) 31 0, bits (w 2) 63 32, bits (w 3) 31 0, bits (w 3) 63 32],
    str := [(w 4).toInt, (w 5).toInt, (w 6).toInt, (w 7).toInt] }

/-- The lowest and highest byte offset of a generator's footprint (R119). -/
def Gen.span (g : Gen) : Int × Int :=
  let parts := (List.range g.ndim).map fun d => ((g.cnt.getD d 1 : Nat) - 1 : Int) * g.str.getD d 0
  (parts.foldl (fun s v => s + min 0 v) 0, parts.foldl (fun s v => s + max 0 v) 0 + g.esize - 1)

/-- Counts in use are 1 or more, all else is zero, and the product is in range (R119). -/
def genShapeOk (l : List Byte) (g : Gen) : Bool :=
  bits (wordAt l 1) 63 11 == 0 && bits (wordAt l 1) 7 3 == 0 && decide (1 ≤ g.ndim) && decide (g.ndim ≤ 4) &&
    ((List.range 4).all fun d => if d < g.ndim then decide (1 ≤ g.cnt.getD d 0) else g.cnt.getD d 0 == 0 && g.str.getD d 0 == 0) &&
    decide (g.total ≤ 2 ^ 32 - 1)

/-- The checks of R119, in order: the cause of the first that fails. -/
def genFault (x : Access) (l : List Byte) : Option Cause :=
  let g := genOf l
  let c := ptrCheck x g.base 0 1
  let m : Int := min g.esize 8
  if !genShapeOk l g then some .agbound
  else if c = 1 ∨ c = 2 ∨ c = 4 then some .winfault
  else if c = 3 then some .scrforeign
  else if (ptrOff g.base : Int) + g.span.1 < 0 ∨ (ptrOff g.base : Int) + g.span.2 ≥ ptrLimit x g.base then some .agbound
  else if (g.base.toNat : Int) % m ≠ 0 ∨ (List.range g.ndim).any fun d => g.str.getD d 0 % m != 0 then some .align
  else none

end Sys2Proof.Machine
end

