-- ==== Sys2Proof/Machine/Time.lean ====
section
/-! DEFINITION. Time (R8, R39, R45): the passing of quartz ticks and of the tiles' cycles. -/

namespace Sys2Proof.Machine

/-- The frequencies of the spines in MHz (R45, R414). -/
def spineMhz (n : Nat) : Nat := [1100, 1000, 900, 800, 700, 550, 400, 275].getD n 275

/-- Cycles of a tile in dt ticks, with the remainder carried on (R8, R45). -/
def CDom.cyclesIn (c : CDom) (dt : Nat) : Nat × Nat :=
  let n := c.phase + spineMhz c.spine * dt
  (n / 1100, n % 1100)

/-- The promotion counts after n cycles (R39). -/
def State.promoteCounts (s : State) (t n : Nat) : List OpSet :=
  let c := s.c t
  c.sets.map fun x => if s.ready t x && decide (c.costOf x ≤ c.bucket) then { x with count := x.count + n } else x

/-- Some access or copy of a frame waits in a translation stall (R115, R386). -/
def State.stalledFrame (s : State) (t f : Nat) : Bool :=
  let held (n : NDom) (r : HomeReq) : Bool :=
    r.sender == .tile t && r.frame == f && n.walks.any fun w => w.stall.isSome && w.part == r.part && w.page == r.addr / 65536
  s.tiles.any fun e => (e.2.n.walks.any fun w => w.stall.isSome && w.kind == 0 && w.tile == t && w.frame == f) ||
    e.2.n.waitReq.any (held e.2.n) || e.2.n.lines.any fun l => (l.busy.toList ++ l.queue).any (held e.2.n)

/-- A firing armed by the frame pauses for power at its next K-step boundary (R43, R386). -/
def CDom.uncovered (c : CDom) (f : Nat) : Bool :=
  match c.array with
  | .firing k _ left _ units _ _ => (c.accs.getD k {}).frame == some f && decide (left > 0) && decide (units > c.bucket)
  | .idle => false

/-- Of the next dt ticks, those in which no firing armed by the frame is paused: they end before its boundary is passed. -/
def CDom.unpaused (c : CDom) (f dt : Nat) : Nat :=
  if c.uncovered f then min dt ((1100 * (c.arrayDue - c.cycle) - c.phase) / spineMhz c.spine) else dt

/-- A frame's watchdog counts the progress-eligible ticks (R44, R386, R387). -/
def State.watchFrame (s : State) (t dt : Nat) (f : Nat) (fr : Frame) : Frame :=
  let c := s.c t
  let held := (c.sets.any fun x => x.frame == f && s.ready t x && decide (c.costOf x > c.bucket)) || s.stalledFrame t f ||
    (s.tile t).slate.replaying
  match fr.st with
  | .active | .trapped => if held then fr else { fr with watch := fr.watch + c.unpaused f dt }
  | _ => fr

/-- PROMISE for unfinished copies (R330, R343, R382). -/
def promiseFault (l : List Copy) (tick : W64) (slot : Nat) : Option FaultInfo :=
  match l.foldl (fun m x => match m with
      | none => some x
      | some y => if x.promise.toNat < y.promise.toNat then some x else some y) (none : Option Copy) with
  | none => none
  | some x =>
    let slow := match x.slowed with | some k => decide (k ≤ tick.toNat) | none => false
    some { cause := .promise, slot := slot, addr := x.promise, cw2 := x.promise,
           cw1 := w64 ((if slow then 1 else 0) + (if l.any (·.stalled) then 2 else 0)) }

/-- What a WUNTIL finds of the copies it considers. -/
def CDom.promiseAt (c : CDom) (copies : List Nat) (tick : W64) (slot : Nat) : Option FaultInfo :=
  promiseFault (c.copies.filter fun y => copies.contains y.id) tick slot

/-- A WUNTIL whose tick is left behind by time `now` is decided by the copies as they are (R330). -/
def CDom.judge (c : CDom) (now : Nat) (x : Issue) : Issue :=
  { x with waits := x.waits.map fun q => match q.wait with
      | .wuntil tick copies =>
        if tick.toNat < now ∧ q.judged = none then { q with judged := some (c.promiseAt copies tick q.slot) } else q
      | _ => q }

/-- A tile after dt ticks. -/
def State.tickTile (s : State) (dt : Nat) (e : Nat × Tile) : Nat × Tile :=
  let (t, x) := e
  if !x.powered then e
  else
    let c := x.c
    let (n, ph) := c.cyclesIn dt
    let waiting := c.sets.any fun y => s.ready t y && decide (c.costOf y ≤ c.bucket)
    let sets := s.promoteCounts t n
    let frames := c.frames.map fun f => (f.1, s.watchFrame t dt f.1 f.2)
    let issued := c.issued.map (c.judge (s.quartz + dt))
    let watch := if waiting then c.tileWatch + n else 0
    (t, { x with c := { c with cycle := c.cycle + n, phase := ph, sets := sets, frames := frames, tileWatch := watch, issued := issued } })

/-- A hub puts its life counters away every 1 ms, so that a power loss costs at most that much (R427). -/
def Hub.lifeKept (now : Nat) (h : Hub) : Hub :=
  if h.powered && decide (1100000 ≤ (now + 2 ^ 64 - h.persistTick) % 2 ^ 64) then { h with lifePersisted := h.life, persistTick := now } else h

/-- dt ticks pass. -/
def State.advance (s : State) (dt : Nat) : State :=
  if dt = 0 then s else
    let now := (s.quartz + dt) % 2 ^ 64
    { s with quartz := now, tiles := s.tiles.map (s.tickTile dt), hubs := s.hubs.mapVal (Hub.lifeKept now) }

end Sys2Proof.Machine
end

