-- ==== Sys2Proof/Machine/Names.lean ====
section
/-! DEFINITION. The CP slot operations (R311 to R330): their checks at issue and the effects they buffer until commit. -/

namespace Sys2Proof.Machine

/-! ### Name checks (R77, R313) -/

/-- NAMECFG with cause word 1 and the name (R382). -/
def namecfg (word : Nat) (hi lo : W64) : FaultInfo := { cause := .namecfg, cw1 := w64 word, cw2 := hi, cw3 := lo }

/-- The partition of the bundle instance being issued. -/
def State.myPart (s : State) : Partition := s.part (s.partOf s.iss.tile)

/-- The fault of the checks of R313, if any. -/
def State.nameFault (s : State) (hi lo : W64) (mask : BitVec 4) (isPart isClaim : Bool) : Option FaultInfo :=
  match nameCheck s.myPart s.iss.set.frame hi lo mask isPart isClaim with
  | some .priv => some { cause := .priv }
  | some _ => some (namecfg 0 hi lo)
  | none => none

/-- The binding of a name's tensor, or a blank one. -/
def State.bindingOf (s : State) (hi lo : W64) : Binding :=
  let n := nameOf hi lo
  (s.myPart.binding n.ns n.tensor).getD {}

/-- Concrete names a mask covers; 65 stands for any greater number. -/
def Binding.coverage (b : Binding) (mask : BitVec 4) : Nat :=
  (List.range 4).foldl (fun n j => if mask.getLsbD j then n * (b.extent j + 1) else n) 1

/-- The checks of R77 on a mask: at most 64 names, no wildcard on a coordinate of extent 1. -/
def maskOk (b : Binding) (mask : BitVec 4) : Bool :=
  decide (b.coverage mask ≤ 64) && (List.range 4).all fun j => !mask.getLsbD j || b.extent j != 0

/-- A CP or SY effect buffered until commit, its done token's tag-op checked (R312). -/
def State.cp (s : State) (e : Eff) (done : Option Target) : State :=
  match lateFault s.inst.ctx done with
  | some f => s.fault f
  | none => s.addEff { e with done := doneTok done }

/-- A CP operation on a name that passes its checks. -/
def State.cpName (s : State) (op : EffOp) (a b e : W64) (mask : BitVec 4) (bad : Option FaultInfo) (done : Option Target) : State :=
  match s.nameFault a b mask (match op with | .pubr _ => true | _ => false) (op == .claim) with
  | some f => s.fault f
  | none =>
    match bad with
    | some f => s.fault f
    | none => s.cp { bun := 0, slot := 0, op := op, a := a, b := b, e := e } done

/-! ### Publishing and claiming (R314 to R318) -/

/-- The fault of a local pointer over n bytes: WINFAULT outside private and scratch memory, then the checks of R97 (R314,
R329, R335, R350). -/
def State.localFault (s : State) (p : W64) (n width : Nat) : Option FaultInfo :=
  if ptrKind p = 0 ∨ ptrKind p = 3 then some { cause := .winfault, addr := p } else ptrFault s.acc p n width 0

/-- The bytes of a partial (R315). -/
def partialBytes (b : Binding) (mode : BitVec 2) : Nat := b.tilesec * (if mode = 0 then 128 else 64)

/-- An odd tile size in a narrow mode (R315, R318). -/
def oddTile (b : Binding) (mode : BitVec 2) : Bool := mode != 0 && b.tilesec % 2 != 0

/-- PUBT (R314). -/
def execPubt (a b e _ord : Src) (done : Option Target) (s : State) : Host.Outcome State Fault Refusal :=
  let p := s.sc e
  .next (s.cpName .pubt (s.sc a) (s.sc b) p 0 (s.localFault p ((s.bindingOf (s.sc a) (s.sc b)).tilesec * 128) 128) done)

/-- PUBR (R315). -/
def execPubr (k : BitVec 2) (a b e _ord : Src) (done : Option Target) (s : State) : Host.Outcome State Fault Refusal :=
  let p := s.sc e
  let q := s.bindingOf (s.sc a) (s.sc b)
  .next (s.cpName (.pubr k) (s.sc a) (s.sc b) p 0
    (if oddTile q k then some (namecfg 0 (s.sc a) (s.sc b)) else s.localFault p (partialBytes q k) 128) done)

/-- Claims of the frame without an answer, those still to commit among them (R317). -/
def State.claimsOpen (s : State) : Nat :=
  let c := s.c s.iss.tile
  let f := s.iss.set.frame
  let l := (c.insts.filter fun e => e.2.frame == f).flatMap (·.2.effs) ++ (c.issued.filter fun y => y.set.frame == f).flatMap (·.effs) ++ s.iss.effs
  ((c.frame f).claims.filter fun x => x.answer.isNone).length + (l.filter fun e => e.op == .claim).length

/-- CLAIM (R317). -/
def execClaim (a b _ord : Src) (done : Option Target) (s : State) : Host.Outcome State Fault Refusal :=
  .next (s.cpName .claim (s.sc a) (s.sc b) 0 0 (if s.claimsOpen ≥ 256 then some (namecfg 4 (s.sc a) (s.sc b)) else none) done)

/-- COLL (R318). -/
def execColl (k : BitVec 2) (a b e _ord : Src) (done : Option Target) (s : State) : Host.Outcome State Fault Refusal :=
  let d := s.sc e
  .next (s.cpName (.coll k) (s.sc a) (s.sc b) d 0
    (if d = 0 ∨ d.toNat > 65536 ∨ oddTile (s.bindingOf (s.sc a) (s.sc b)) k then some (namecfg 0 (s.sc a) (s.sc b)) else none) done)

/-- RETAIN (R321). -/
def execRetain (a b e _ord : Src) (done : Option Target) (s : State) : Host.Outcome State Fault Refusal :=
  let d := s.sc e
  .next (s.cpName .retain (s.sc a) (s.sc b) d 0 (if bits d 63 48 != 0 then some (namecfg 0 (s.sc a) (s.sc b)) else none) done)

/-- CIRC (R322). -/
def execCirc (a b e _ord : Src) (done : Option Target) (s : State) : Host.Outcome State Fault Refusal :=
  let d := s.sc e
  .next (s.cpName .circ (s.sc a) (s.sc b) d 0
    (if bits d 15 0 == 0 || bits d 63 29 != 0 then some (namecfg 0 (s.sc a) (s.sc b)) else none) done)

/-- CIRCREL (R322). -/
def execCircrel (a b _ord : Src) (done : Option Target) (s : State) : Host.Outcome State Fault Refusal :=
  .next (s.cpName .circrel (s.sc a) (s.sc b) 0 0 none done)

/-! ### Subscribing and streams (R319, R320, R323 to R325) -/

/-- Subscriptions that a frame's SUBN and SOPEN hold or are about to (R319). -/
def Frame.subsHeld (c : CDom) (f : Nat) : Nat :=
  (c.slots.filter fun e => e.2.frame == some f && (match e.2.sub with | some q => q.kind == .subn | none => false)).length +
    (c.frame f).streams.length

def opensSub : EffOp → Bool | .subn | .sopen => true | _ => false

def State.subsOpen (s : State) : Nat :=
  let c := s.c s.iss.tile
  let f := s.iss.set.frame
  let l := (c.insts.filter fun e => e.2.frame == f).flatMap (·.2.effs) ++ (c.issued.filter fun y => y.set.frame == f).flatMap (·.effs) ++ s.iss.effs
  Frame.subsHeld c f + (l.filter fun e => opensSub e.op).length

/-- A slot that a SOPEN may take, and a fresh SUBN where TSLOT mapped it (R319, R323): EMPTY, without a subscription, with room. -/
def slotFree (x : Slot) (size : Nat) : Bool := x.stateNum == 0 && !x.subbed && decide (x.size ≥ size)

/-- The checks of SUBN on its slot (R319), at issue and again at commit. -/
def subnOk (x : Slot) (again : Bool) (a b d : W64) (q : Binding) : Bool :=
  let mask : BitVec 4 := d.extractLsb' 8 4
  if again then
    match x.sub with
    | some y => y.kind == .subn && y.hi == a && y.lo.toNat / 65536 == b.toNat / 65536 && y.mask == mask && y.satisfied && x.stateNum == 0
    | none => false
  else !x.byTask && slotFree x (q.coverage mask * q.tilesec * 128)

/-- SUBN and SUBN again (R319). -/
def State.subnOp (s : State) (again : Bool) (a b d : W64) (done : Option Target) : State :=
  let mask : BitVec 4 := d.extractLsb' 8 4
  let q := s.bindingOf a b
  let bad : Option FaultInfo :=
    if bits d 63 14 != 0 || decide (bits d 13 12 > 1) || !maskOk q mask then some (namecfg 0 a b)
    else if !again && decide (s.subsOpen ≥ 64) then some (namecfg 4 a b)
    else match (s.c s.iss.tile).slotOf s.iss.set.frame (bits d 7 0) with
      | some (_, x) => if subnOk x again a b d q then none else some { cause := .slotcfg }
      | none => some { cause := .slotcfg }
  s.cpName (if again then .subnAgain else .subn) a b d mask bad done

/-- SUBN (R319). -/
def execSubn (a b e _ord : Src) (done : Option Target) (s : State) : Host.Outcome State Fault Refusal :=
  .next (s.subnOp false (s.sc a) (s.sc b) (s.sc e) done)

/-- SUBN again (R319). -/
def execSubnAgain (a b e _ord : Src) (done : Option Target) (s : State) : Host.Outcome State Fault Refusal :=
  .next (s.subnOp true (s.sc a) (s.sc b) (s.sc e) done)

/-- The slot carries a SUBN subscription. -/
def Slot.hasSubn (x : Slot) : Bool := match x.sub with | some q => q.kind == .subn | none => false

/-- UNSUB (R320). -/
def execUnsub (a _ord : Src) (done : Option Target) (s : State) : Host.Outcome State Fault Refusal :=
  match (s.c s.iss.tile).slotOf s.iss.set.frame (bits (s.sc a) 7 0) with
  | some (_, x) => if x.hasSubn then .next (s.cp { bun := 0, slot := 0, op := .unsub, a := s.sc a } done) else .next (s.fault { cause := .slotcfg })
  | none => .next (s.fault { cause := .slotcfg })

/-- The slots of a stream word are free for it (R323), at issue and again at commit. -/
def CDom.sopenOk (c : CDom) (f : Nat) (d : W64) (q : Binding) : Bool :=
  (List.range (bits d 14 8)).all fun k => match c.slotOf f (bits d 7 0 + k) with
    | some (_, x) => slotFree x (q.tilesec * 128)
    | none => false

/-- SOPEN (R323). -/
def execSopen (a b e _ord : Src) (done : Option Target) (s : State) : Host.Outcome State Fault Refusal :=
  let d := s.sc e
  let n := bits d 14 8
  let bad : Option FaultInfo :=
    if n == 0 || decide (n > 64) || bits d 63 15 != 0 || decide (bits d 7 0 + n > 256) then some (namecfg 0 (s.sc a) (s.sc b))
    else if s.subsOpen ≥ 64 then some (namecfg 4 (s.sc a) (s.sc b))
    else if (s.c s.iss.tile).sopenOk s.iss.set.frame d (s.bindingOf (s.sc a) (s.sc b)) then none else some { cause := .slotcfg }
  .next (s.cpName .sopen (s.sc a) (s.sc b) d 0 bad done)

/-- The open stream that an operand names. -/
def State.streamOf (s : State) (a : Src) : Option Stream := ((s.c s.iss.tile).frame s.iss.set.frame).stream? (bits (s.sc a) 7 0)

/-- SCLOSE (R325). -/
def execSclose (a _ord : Src) (done : Option Target) (s : State) : Host.Outcome State Fault Refusal :=
  match s.streamOf a with
  | some _ => .next (s.cp { bun := 0, slot := 0, op := .sclose, a := s.sc a } done)
  | none => .next (s.fault { cause := .stream })

/-- SPOP and SPOP keep (R324): they wait, and their effect is entered when the wait ends. -/
def State.spopOp (s : State) (keep : Bool) (a : Src) (v : VDst) (done : Option Target) : State :=
  match s.streamOf a with
  | none => s.fault { cause := .stream }
  | some x =>
    match s.tgtsFault v.tgts, lateFault s.inst.ctx done with
    | some f, _ => s.fault f
    | none, some f => s.fault f
    | none, none =>
      (s.addWait (.spop x.base x.open_) v.dest {}).addEff
        { bun := 0, slot := 0, op := .spop keep, a := w64 x.base, e := w64 x.open_, done := doneTok done }

/-- SPOP (R324). -/
def execSpop (a _ord : Src) (v : VDst) (done : Option Target) (s : State) : Host.Outcome State Fault Refusal :=
  .next (s.spopOp false a v done)

/-- SPOP keep (R324). -/
def execSpopKeep (a _ord : Src) (v : VDst) (done : Option Target) (s : State) : Host.Outcome State Fault Refusal :=
  .next (s.spopOp true a v done)

/-- An earlier SPOP of the stream, of the same opening, is neither committed nor discarded (R324): its effect stands in its block instance,
or still in a bundle instance that issued before. -/
def CDom.popsBefore (c : CDom) (f base open_ id : Nat) : Bool :=
  let pops (l : List Eff) : Bool := l.any fun e => (match e.op with | .spop _ => true | _ => false) && e.a == w64 base && e.e == w64 open_
  (c.insts.any fun e => e.2.frame == f && pops e.2.effs) || c.issued.any fun x => x.set.frame == f && decide (x.id < id) && pops x.effs

/-- The offset of a slot's area in the scratch data area of its frame (R324). -/
def Slot.offset (x : Slot) : Nat := if x.byTask then (Config.placedOffset x.base).toNat else x.off

/-- The word SPOP delivers (R324). -/
def spopWord (ver : BitVec 16) (ix off : Nat) : W64 := w64 (ver.toNat * 2 ^ 48 + ix * 2 ^ 20 + off)

/-- SPOP_DELIVERY (R324): the element at the cursor is in its slot and no earlier SPOP is open; a closed stream is STREAM. -/
def execSpopDelivery (t i : Nat) (s : State) : Host.Outcome State Fault Refusal :=
  onTile t s fun s =>
    match (s.c t).issue? i with
    | none => s
    | some x =>
      x.waits.foldl (fun s q => match q.wait with
        | .spop base n =>
          let f := x.set.frame
          match (((s.c t).frame f).stream? base).filter fun y => y.open_ == n with
          | none =>
            if ((s.c t).issue? i).isSome then
              (s.withdraw t x).takeFault t x.set { cause := .stream, slot := q.slot }
            else s
          | some st =>
            match (s.c t).slotOf f (st.slotIx st.cursor) with
            | some (_, sl) =>
              if sl.full && sl.ver == st.version st.cursor && !(s.c t).popsBefore f base n i then
                s.endWait t i q.id (.scalar (spopWord sl.ver (st.slotIx st.cursor) sl.offset))
              else s
            | none => s
        | _ => s) s

/-! ### Copy engine and generators (R326 to R329) -/

/-- Promise (R328). -/
def promise (q hc : W64) (len mhz : Nat) (bothLocal : Bool) : W64 :=
  w64 (max q.toNat hc.toNat + ((512 + (if bothLocal then 2 else 8) * ((len + 127) / 128)) * 1100 + mhz - 1) / mhz)

/-- A copy that passes its checks: its promise moves the tile's horizon for good, is delivered, and the copy is buffered for its launch
(R328). -/
def State.copyOp (s : State) (op : EffOp) (dst src : W64) (len : Nat) (e : Eff) (v : VDst) (done : Option Target) : State :=
  match s.tgtsFault v.tgts with
  | some f => s.fault f
  | none =>
    let p := promise s.iss.tick (s.c s.iss.tile).horizon len (spineMhz (s.c s.iss.tile).spine) (isLocal dst && isLocal src)
    ((s.modC s.iss.tile fun c => { c with horizon := p }).modIss fun i => i.vdst v (.scalar p)).cp { e with op := op, a := dst, b := src, base := p.toNat, tick := s.iss.tick } done

/-- COPY (R326): the length, then the source, then the destination. -/
def execCopy (a b e _ord : Src) (v : VDst) (done : Option Target) (s : State) : Host.Outcome State Fault Refusal :=
  let d := s.sc a
  let p := s.sc b
  let n := s.sc e
  if n.toNat > 16777216 then .next (s.fault { cause := .winfault, addr := p })
  else match ptrFault s.acc p n.toNat 1 0, ptrFault s.acc d n.toNat 1 0 with
    | some f, _ => .next (s.fault f)
    | none, some f => .next (s.fault f)
    | none, none => .next (s.copyOp (.copy none) d p n.toNat { bun := 0, slot := 0, op := .copy none, e := n } v done)

/-- The fault of a row copy: each lane's index, its source row, its destination row (R327). -/
def State.rowsFault (s : State) (d p limit : W64) (rs : Nat) (idx : List W32) : Option FaultInfo :=
  (List.range idx.length).findSome? fun j =>
    let i := (idx.getD j 0).toNat
    if i ≥ limit.toNat then some { cause := .idxbound, addr := w64 i, lane := j }
    else match ptrFault s.acc (adda p (w64 (i * rs))) rs 1 j with
      | some f => some f
      | none => ptrFault s.acc (adda d (w64 (j * rs))) rs 1 j

/-- COPYX (R327). -/
def execCopyx (n : BitVec 3) (a b e _ord : Src) (v : VDst) (done : Option Target) (s : State) : Host.Outcome State Fault Refusal :=
  let d := s.sc a
  let p := s.sc b
  let rs := 128 * 2 ^ n.toNat
  let idx := s.vec e
  match s.rowsFault d p (s.pairLimit b) rs idx with
  | some f => .next (s.fault f)
  | none => .next (s.copyOp (.copy (some rs)) d p (idx.length * rs) { bun := 0, slot := 0, op := .copy (some rs), lanes := idx } v done)

/-- The bytes of local memory at a pointer as a load at issue reads them (R30, R329, R335, R350). -/
def State.localBytes (s : State) (p : W64) (n : Nat) : List Byte :=
  (List.range n).map fun k => BitVec.ofNat 8 (((s.loadEl (p + w64 k) 1 true).val.getD 0).toNat)

/-- The physical generator of a frame's name: mapped, reserved by an AGCFG of the frame still to commit, or a free one
(R329). -/
def State.agFor (s : State) (n : Nat) : Option Nat :=
  let c := s.c s.iss.tile
  let f := s.iss.set.frame
  match (c.frame f).ags.get? n with
  | some k => some k
  | none =>
    let mine := (c.insts.filter fun e => e.2.frame == f).flatMap (·.2.effs) ++ (c.issued.filter fun y => y.set.frame == f).flatMap (·.effs) ++ s.iss.effs
    match mine.find? fun e => e.op == .agcfg n with
    | some e => some e.base
    | none => (List.range 8).find? fun k => !c.agTaken k && !s.iss.effs.any fun e => isAgcfg e && e.base == k

/-- AGCFG (R118, R119, R329). -/
def execAgcfg (n : BitVec 3) (a _ord : Src) (done : Option Target) (s : State) : Host.Outcome State Fault Refusal :=
  let p := s.sc a
  match s.localFault p 64 64 with
  | some f => .next (s.fault f)
  | none =>
    let l := s.localBytes p 64
    match genFault s.acc l with
    | some c => .next (s.fault { cause := c, addr := if c = .agbound then 0 else wordAt l 0 })
    | none =>
      match s.agFor n.toNat with
      | none => .next (s.fault { cause := .agbound, cw1 := 1 })
      | some k => .next (s.cp { bun := 0, slot := 0, op := .agcfg n.toNat, base := k, bytes := l } done)

/-- AGFREE (R329). -/
def execAgfree (n : BitVec 3) (_ord : Src) (done : Option Target) (s : State) : Host.Outcome State Fault Refusal :=
  .next (s.cp { bun := 0, slot := 0, op := .agfree n.toNat } done)

end Sys2Proof.Machine
end

