-- ==== Sys2Proof/Machine/Scalar.lean ====
section
/-! DEFINITION. The S-slot operations (spec/09): each meaning performs one slot of the bundle instance being issued. -/

namespace Sys2Proof.Machine

/-! ### Integer helpers (R224 to R227) -/

/-- DIV (R226). -/
def divInt (t : Ty) (x y : Int) : Int := if y = 0 then -1 else x.tdiv y

/-- REM (R226): a − b × DIV(a, b). -/
def remInt (t : Ty) (x y : Int) : Int := if y = 0 then x else x - y * x.tdiv y

/-- The w-bit pattern of an operand. -/
def pat (t : Ty) (x : W64) : Nat := x.toNat % 2 ^ t.width

/-- The shift count of SHL, SHR, SRA and ROL (R225). -/
def shiftCount (t : Ty) (b : W64) : Nat := b.toNat % t.width

def shlBits (t : Ty) (a b : W64) : W64 := w64 (pat t a * 2 ^ shiftCount t b)
def shrBits (t : Ty) (a b : W64) : W64 := w64 (pat t a / 2 ^ shiftCount t b)
def sraBits (t : Ty) (a b : W64) : W64 := BitVec.ofInt 64 (signedOf t.width a.toNat / 2 ^ shiftCount t b)
def rolBits (t : Ty) (a b : W64) : W64 :=
  w64 (pat t a * 2 ^ shiftCount t b + pat t a / 2 ^ (t.width - shiftCount t b))

/-- Leading zeros of a w-bit pattern. -/
def clzBits (w x : Nat) : Nat := if x = 0 then w else w - 1 - Nat.log2 x

/-- Trailing zeros of a w-bit pattern. -/
def ctzBits (w x : Nat) : Nat := ((List.range w).find? fun k => x.testBit k).getD w

/-- Ones of a w-bit pattern. -/
def popcBits (w x : Nat) : Nat := ((List.range w).filter fun k => x.testBit k).length

/-- A w-bit pattern reversed. -/
def brevBits (w x : Nat) : Nat := (List.range w).foldl (fun v k => 2 * v + (if x.testBit k then 1 else 0)) 0

/-- The effective length of a bit field (R227). -/
def fieldLen (ctrl : W64) : Nat := min (bits ctrl 12 6) (64 - bits ctrl 5 0)

/-- BFX (R227). -/
def bfx (t : Ty) (a ctrl : W64) : W64 :=
  let len := fieldLen ctrl
  if len = 0 then 0
  else
    let f := a.toNat / 2 ^ bits ctrl 5 0 % 2 ^ len
    if t = .i64 then BitVec.ofInt 64 (signedOf len f) else w64 f

/-- BFI (R227). -/
def bfi (a b ctrl : W64) : W64 :=
  let len := fieldLen ctrl
  if len = 0 then a
  else
    let mask : W64 := w64 ((2 ^ len - 1) * 2 ^ bits ctrl 5 0)
    (a &&& ~~~mask) ||| (w64 (b.toNat % 2 ^ len * 2 ^ bits ctrl 5 0) &&& mask)

/-! ### Shapes -/

/-- An integer result: Res of an exact function of the operands (R224). -/
def State.intOp (s : State) (t : Ty) (d : Dst) (f : Int → Int → Int) (a b : Src) : State :=
  s.deliver d (.scalar (res t (f (opnd t (s.sc a)) (opnd t (s.sc b)))))

/-- An integer result computed on bit patterns. -/
def State.bitOp (s : State) (t : Ty) (d : Dst) (f : W64 → W64 → W64) (a b : Src) : State :=
  s.deliver d (.scalar (res t (f (s.sc a) (s.sc b)).toNat))

/-- A comparison: 1 or 0. -/
def State.cmpOp (s : State) (t : Ty) (d : Dst) (f : Int → Int → Bool) (a b : Src) : State :=
  s.deliver d (.scalar (if f (opnd t (s.sc a)) (opnd t (s.sc b)) then 1 else 0))

/-- A count of the w-bit pattern, zero-extended. -/
def State.countOp (s : State) (t : Ty) (d : Dst) (f : Nat → Nat → Nat) (a : Src) : State :=
  s.deliver d (.scalar (w64 (f t.width (pat t (s.sc a)))))

/-- The code of a floating-point operand (R228). -/
def State.fcode (s : State) (t : Ty) (a : Src) : Nat := (s.sc a).toNat % 2 ^ t.fmt.width

/-- A floating-point result with its flags (R228). -/
def State.flOp (s : State) (d : Dst) (r : Nat × FpFlags) : State := (s.raiseFlags r.2).deliver d (.scalar (w64 r.1))

/-- ADD (R225). -/
def execAdd (t : Ty) (a b : Src) (d : Dst) (s : State) : Host.Outcome State Fault Refusal :=
  .next (s.intOp t d (fun x y => x + y) a b)

/-- SUB (R225). -/
def execSub (t : Ty) (a b : Src) (d : Dst) (s : State) : Host.Outcome State Fault Refusal :=
  .next (s.intOp t d (fun x y => x - y) a b)

/-- MUL (R225). -/
def execMul (t : Ty) (a b : Src) (d : Dst) (s : State) : Host.Outcome State Fault Refusal :=
  .next (s.intOp t d (fun x y => x * y) a b)

/-- MULH (R225): floor(a × b / 2^w). -/
def execMulh (t : Ty) (a b : Src) (d : Dst) (s : State) : Host.Outcome State Fault Refusal :=
  .next (s.intOp t d (fun x y => (x * y) / 2 ^ t.width) a b)

/-- DIV (R225, R226). -/
def execDiv (t : Ty) (a b : Src) (d : Dst) (s : State) : Host.Outcome State Fault Refusal :=
  .next (s.intOp t d (divInt t) a b)

/-- REM (R225, R226). -/
def execRem (t : Ty) (a b : Src) (d : Dst) (s : State) : Host.Outcome State Fault Refusal :=
  .next (s.intOp t d (remInt t) a b)

/-- MIN in the type's order (R225). -/
def execMin (t : Ty) (a b : Src) (d : Dst) (s : State) : Host.Outcome State Fault Refusal :=
  .next (s.intOp t d (min) a b)

/-- MAX (R225). -/
def execMax (t : Ty) (a b : Src) (d : Dst) (s : State) : Host.Outcome State Fault Refusal :=
  .next (s.intOp t d (max) a b)

/-- AND (R225). -/
def execAndOp (t : Ty) (a b : Src) (d : Dst) (s : State) : Host.Outcome State Fault Refusal :=
  .next (s.bitOp t d (fun x y => x &&& y) a b)

/-- OR (R225). -/
def execOrOp (t : Ty) (a b : Src) (d : Dst) (s : State) : Host.Outcome State Fault Refusal :=
  .next (s.bitOp t d (fun x y => x ||| y) a b)

/-- XOR (R225). -/
def execXor (t : Ty) (a b : Src) (d : Dst) (s : State) : Host.Outcome State Fault Refusal :=
  .next (s.bitOp t d (fun x y => x ^^^ y) a b)

/-- ANDN (R225): a AND NOT b. -/
def execAndn (t : Ty) (a b : Src) (d : Dst) (s : State) : Host.Outcome State Fault Refusal :=
  .next (s.bitOp t d (fun x y => x &&& ~~~y) a b)

/-- SHL (R225): the shift count is B mod w. -/
def execShl (t : Ty) (a b : Src) (d : Dst) (s : State) : Host.Outcome State Fault Refusal :=
  .next (s.bitOp t d (shlBits t) a b)

/-- SHR (R225). -/
def execShr (t : Ty) (a b : Src) (d : Dst) (s : State) : Host.Outcome State Fault Refusal :=
  .next (s.bitOp t d (shrBits t) a b)

/-- SRA (R225). -/
def execSra (t : Ty) (a b : Src) (d : Dst) (s : State) : Host.Outcome State Fault Refusal :=
  .next (s.bitOp t d (sraBits t) a b)

/-- ROL (R225). -/
def execRol (t : Ty) (a b : Src) (d : Dst) (s : State) : Host.Outcome State Fault Refusal :=
  .next (s.bitOp t d (rolBits t) a b)

/-- CEQ (R225). -/
def execCeq (t : Ty) (a b : Src) (d : Dst) (s : State) : Host.Outcome State Fault Refusal :=
  .next (s.cmpOp t d (fun x y => x == y) a b)

/-- CNE (R225). -/
def execCne (t : Ty) (a b : Src) (d : Dst) (s : State) : Host.Outcome State Fault Refusal :=
  .next (s.cmpOp t d (fun x y => x != y) a b)

/-- CLT in the type's order (R225). -/
def execClt (t : Ty) (a b : Src) (d : Dst) (s : State) : Host.Outcome State Fault Refusal :=
  .next (s.cmpOp t d (fun x y => decide (x < y)) a b)

/-- CLE (R225). -/
def execCle (t : Ty) (a b : Src) (d : Dst) (s : State) : Host.Outcome State Fault Refusal :=
  .next (s.cmpOp t d (fun x y => decide (x ≤ y)) a b)

/-- CLZ (R225). -/
def execClz (t : Ty) (a : Src) (d : Dst) (s : State) : Host.Outcome State Fault Refusal :=
  .next (s.countOp t d clzBits a)

/-- CTZ (R225). -/
def execCtz (t : Ty) (a : Src) (d : Dst) (s : State) : Host.Outcome State Fault Refusal :=
  .next (s.countOp t d ctzBits a)

/-- POPC (R225). -/
def execPopc (t : Ty) (a : Src) (d : Dst) (s : State) : Host.Outcome State Fault Refusal :=
  .next (s.countOp t d popcBits a)

/-- ABS (R225): the most negative value gives itself. -/
def execAbsOp (t : Ty) (a : Src) (d : Dst) (s : State) : Host.Outcome State Fault Refusal :=
  .next (s.deliver d (.scalar (res t (opnd t (s.sc a)).natAbs)))

/-- BREV (R225). -/
def execBrev (t : Ty) (a : Src) (d : Dst) (s : State) : Host.Outcome State Fault Refusal :=
  .next (s.deliver d (.scalar (res t (brevBits t.width (s.sc a).toNat))))

/-- MOV (R225). -/
def execMov (t : Ty) (a : Src) (d : Dst) (s : State) : Host.Outcome State Fault Refusal :=
  .next (s.deliver d (.scalar (res t (opnd t (s.sc a)))))

/-- BFX (R227). -/
def execBfx (t : Ty) (a b : Src) (d : Dst) (s : State) : Host.Outcome State Fault Refusal :=
  .next (s.deliver d (.scalar (bfx t (s.sc a) (s.sc b))))

/-- BFI (R227); both types give one result. -/
def execBfi (t : Ty) (a b c : Src) (d : Dst) (s : State) : Host.Outcome State Fault Refusal :=
  .next (s.deliver d (.scalar (bfi (s.sc a) (s.sc b) (s.sc c))))

/-- SEL (R225). -/
def execSel (a b c : Src) (d : Dst) (s : State) : Host.Outcome State Fault Refusal :=
  .next (s.deliver d (.scalar (if s.sc a ≠ 0 then s.sc b else s.sc c)))

/-- FADD (R229). -/
def execFadd (t : Ty) (a b : Src) (d : Dst) (s : State) : Host.Outcome State Fault Refusal :=
  .next (s.flOp d (fadd t.fmt (s.fcode t a) (s.fcode t b)))

/-- FSUB (R229). -/
def execFsub (t : Ty) (a b : Src) (d : Dst) (s : State) : Host.Outcome State Fault Refusal :=
  .next (s.flOp d (fsub t.fmt (s.fcode t a) (s.fcode t b)))

/-- FMUL (R229). -/
def execFmul (t : Ty) (a b : Src) (d : Dst) (s : State) : Host.Outcome State Fault Refusal :=
  .next (s.flOp d (fmul t.fmt (s.fcode t a) (s.fcode t b)))

/-- FMA (R229). -/
def execFma (t : Ty) (a b c : Src) (d : Dst) (s : State) : Host.Outcome State Fault Refusal :=
  .next (s.flOp d (fma t.fmt (s.fcode t a) (s.fcode t b) (s.fcode t c)))

/-- FMIN (R230). -/
def execFmin (t : Ty) (a b : Src) (d : Dst) (s : State) : Host.Outcome State Fault Refusal :=
  .next (s.flOp d (fminmax t.fmt false (s.fcode t a) (s.fcode t b)))

/-- FMAX (R230). -/
def execFmax (t : Ty) (a b : Src) (d : Dst) (s : State) : Host.Outcome State Fault Refusal :=
  .next (s.flOp d (fminmax t.fmt true (s.fcode t a) (s.fcode t b)))

/-- FCMP (R230). -/
def execFcmp (t : Ty) (a b : Src) (d : Dst) (s : State) : Host.Outcome State Fault Refusal :=
  .next (s.flOp d (fcmp t.fmt (s.fcode t a) (s.fcode t b)))

/-- FCLASS (R230). -/
def execFclass (t : Ty) (a : Src) (d : Dst) (s : State) : Host.Outcome State Fault Refusal :=
  .next (s.deliver d (.scalar (w64 (fclass t.fmt (s.fcode t a)))))

/-! ### FCVT (R231) -/

/-- The integer type that C of FCVT selects. -/
def fcvtTy (c : Nat) : Ty :=
  match c with
  | 1 => .i64 | 2 => .i32 | 3 => .i16 | 4 => .i8 | 5 => .n64 | 6 => .n32 | 7 => .n16 | _ => .n8

/-- The value of FCVT's source. -/
def cvtSource (t : Ty) (x : W64) : Fl := if t.isFloat then fval t x else flOfInt (opnd t x)

/-- The range of an integer type. -/
def tyRange (t : Ty) : Int × Int :=
  if t.signed then (-(2 ^ (t.width - 1)), 2 ^ (t.width - 1) - 1) else (0, 2 ^ t.width - 1)

/-- FCVT (R231). -/
def execFcvt (t : Ty) (a b c : Src) (d : Dst) (s : State) : Host.Outcome State Fault Refusal :=
  let n := (s.sc b).toNat
  let k := (s.sc c).toNat
  let w := s.iss.frame.fsOf n
  if n > 31 ∨ k > 8 ∨ (k = 0 ∧ (FmtSlot.fmt w = 5 ∨ FmtSlot.fmt w = 6)) then .next (s.fault { cause := .fmtcfg })
  else
    let x := cvtSource t (s.sc a)
    let rnd := s.rnd w s.inst.iter 0
    if k = 0 then
      .next (s.flOp d (if t.isFloat then convertCode t.fmt ((s.sc a).toNat % 2 ^ t.fmt.width) w rnd else convertSlot w rnd x))
    else
      let ty := fcvtTy k
      let r := toIntRange rnd (tyRange ty).1 (tyRange ty).2 x
      .next ((s.raiseFlags r.2).deliver d (.scalar (res ty r.1)))

/-! ### Pointers and names (R232 to R234, R100) -/

/-- ADDA (R232). -/
def execAdda (a b : Src) (d : Dst) (s : State) : Host.Outcome State Fault Refusal :=
  .next (s.deliver d (.scalar (adda (s.sc a) (s.sc b))))

/-- SPQ (R100). -/
def spq (x : Access) (p : W64) : W64 :=
  let k := ptrKind p
  let n := ptrCheck x p 1 1
  w64 (k + (if k ≠ 7 ∧ keyOk x p then 8 else 0) + (if n = 0 then 16 else 0))

def execSpq (a : Src) (d : Dst) (s : State) : Host.Outcome State Fault Refusal :=
  .next (s.deliver d (.scalar (spq s.acc (s.sc a))))

/-- SPCV to offset (R100, R233): checks 1 to 5 for one byte, then the kind. -/
def execSpcvTooff (k : BitVec 2) (a : Src) (d : Dst) (s : State) : Host.Outcome State Fault Refusal :=
  let p := s.sc a
  match ptrCheck s.acc p 1 1 with
  | 0 => if ptrKind p = k.toNat then .next (s.deliver d (.scalar (w64 (ptrOff p))))
      else .next (s.fault { cause := .winfault, addr := p })
  | n => .next (s.fault { cause := checkCause n, addr := p })

/-- A pointer made from an offset (R100), or WINFAULT, whose address is the offset operand A: the operation has no pointer yet (log 98: DESIGN
CHOICE, unsafe). -/
def State.makeWin (s : State) (k : BitVec 2) (a : Src) (d : Dst) : State :=
  match mkwin s.acc (s.fieldOrdinal s.iss.tile) k (s.sc a) with
  | some p => s.deliver d (.scalar p)
  | none => s.fault { cause := .winfault, addr := s.sc a }

/-- SPCV to pointer: as MKWIN of the kind (R100, R233). -/
def execSpcvToptr (k : BitVec 2) (a : Src) (d : Dst) (s : State) : Host.Outcome State Fault Refusal :=
  .next (s.makeWin k a d)

/-- MKWIN (R100, R233). -/
def execMkwin (k : BitVec 2) (a : Src) (d : Dst) (s : State) : Host.Outcome State Fault Refusal :=
  .next (s.makeWin k a d)

/-- NAMEH (R234). The record of its NAMECFG holds 0 in words 2 and 3: there is no whole name yet (log 63: DESIGN CHOICE, unsafe). -/
def execNameh (a b c : Src) (d : Dst) (s : State) : Host.Outcome State Fault Refusal :=
  let x := s.sc a
  let y := s.sc b
  let z := s.sc c
  if x.toNat ≥ 2 ^ 32 ∨ y.toNat > 4095 ∨ z.toNat > 4095 then .next (s.fault { cause := .namecfg })
  else .next (s.deliver d (.scalar (0#8 ++ (x.extractLsb' 0 32 ++ (y.extractLsb' 0 12 ++ z.extractLsb' 0 12)))))

/-- NAMEL (R234); its NAMECFG as for NAMEH (log 63: DESIGN CHOICE, unsafe). -/
def execNamel (a b c : Src) (d : Dst) (s : State) : Host.Outcome State Fault Refusal :=
  let x := s.sc a
  let y := s.sc b
  let z := s.sc c
  if x.toNat > 4095 ∨ y.toNat > 4095 ∨ z.toNat > 65535 then .next (s.fault { cause := .namecfg })
  else .next (s.deliver d (.scalar (0#24 ++ (x.extractLsb' 0 12 ++ (y.extractLsb' 0 12 ++ z.extractLsb' 0 16)))))

/-! ### Tag-level control (R235 to R243) -/

/-- STEER (R237): the targets whose tag-op is the chosen path receive B. -/
def execSteer (a b : Src) (d : Dst) (s : State) : Host.Outcome State Fault Refusal :=
  let path : TagOp := if s.sc a ≠ 0 then .path1 else .path0
  let pick (t : Option Target) : Option Target := t.filter fun x => x.top == path
  match d with
  | .targets t0 t1 => .next (s.deliver (.targets (pick t0) (pick t1)) (s.carried b))
  | d => .next (s.deliver d (s.carried b))

/-- MERGE (R238): the token of the port that formed the set. -/
def execMerge (d : Dst) (s : State) : Host.Outcome State Fault Refusal :=
  .next (s.deliver d (s.carried (.p (BitVec.ofNat 2 s.iss.set.formed))))

/-- The block a 20-bit offset names, relative to the issuing instance's block (R236). -/
def State.namedBlock (s : State) (off : Nat) : Nat := (s.iss.set.block + off) % 2 ^ 20

/-- The offset is not 64-byte aligned or names a block outside the code area (R236). -/
def State.badBlock (s : State) (off : Nat) : Bool :=
  off % 64 != 0 || decide (s.namedBlock off ≥ s.iss.frame.task.codekb * 1024)

/-- ILLBUN of a slot operation's block offset (R203, R236). -/
def State.illBun (s : State) : State :=
  s.fault { cause := .illbun, addr := w64 (s.iss.set.block + 64 * s.iss.set.bun) }

/-- The causes that LOOP, WHILE and CALLB take at issue: a second spawning operation or one beside GOTO or RETB
(R243), and an instance at depth 8 (R52). -/
def State.spawnFault (s : State) : Option FaultInfo :=
  let i := s.inst
  if i.issuedSpawn || (match i.term with | some (.goto _) | some .retb => true | _ => false) then some { cause := .illop }
  else if i.depth ≥ 7 then
    let c := s.c s.iss.tile
    some { cause := .tagx, cw1 := 3, cw2 := w64 c.tagFree, cw3 := w64 c.dmax }
  else none

/-- A spawning operation: its spawn targets take the given values, its same targets an order token (R241, R242).
Of several faults ILLOP (R243) comes first, then TAGX (R52), then ILLBUN (R236) (log 61: DESIGN CHOICE, unsafe). -/
def State.doSpawn (s : State) (offs : List Nat) (sp : Spawn) (d : Dst) (v0 v1 : Val) : State :=
  match s.spawnFault with
  | some f => s.fault f
  | none =>
    if offs.any s.badBlock then s.illBun
    else
      let val (t : Target) (v : Val) : Val := if t.top = .spawn then v else .order
      match s.tgtsFault d.tgts with
      | some f => s.fault f
      | none => s.modIss fun i =>
        let i := { i with spawn := some sp }
        match d with
        | .targets t0 t1 =>
          (i.put 0 t0 ((t0.map fun t => val t v0).getD .order)).put 1 t1 ((t1.map fun t => val t v1).getD .order)
        | _ => i

/-- LOOP and LOOP vec (R241, R62). -/
def State.doLoop (s : State) (vec : Bool) (a b c : Src) (d : Dst) : State :=
  let t := bits (s.sc a) 31 0
  let o0 := bits (s.sc c) 19 0
  let o1 := bits (s.sc c) 39 20
  s.doSpawn [o0, o1] (.loop vec t (s.sc b) (s.namedBlock o0) (s.namedBlock o1) s.iss.set.p s.iss.set.pd s.iss.set.bun) d
    (.scalar (w64 t)) (.scalar (w64 t))

def execLoop (a b c : Src) (d : Dst) (s : State) : Host.Outcome State Fault Refusal := .next (s.doLoop false a b c d)

/-- LOOP vec (R241). -/
def execLoopVec (a b c : Src) (d : Dst) (s : State) : Host.Outcome State Fault Refusal := .next (s.doLoop true a b c d)

/-- WHILE (R241, R66). -/
def execWhileOp (a c : Src) (d : Dst) (s : State) : Host.Outcome State Fault Refusal :=
  let o0 := bits (s.sc c) 19 0
  let o1 := bits (s.sc c) 39 20
  .next (s.doSpawn [o0, o1] (.whileLoop (s.namedBlock o0) (s.namedBlock o1) s.iss.set.p s.iss.set.pd s.iss.set.bun) d
    (s.carried a) (s.carried a))

/-- CALLB (R242). -/
def execCallb (a b c : Src) (d : Dst) (s : State) : Host.Outcome State Fault Refusal :=
  let o0 := bits (s.sc c) 19 0
  let o1 := bits (s.sc c) 39 20
  .next (s.doSpawn [o0, o1] (.call (s.namedBlock o0) (s.namedBlock o1) s.iss.set.p s.iss.set.pd s.iss.set.bun) d
    (s.carried a) (s.carried b))

/-- A terminal operation of the S slot commits its instance (R201, R240). -/
def State.setTerm (s : State) (t : Term) : State := s.modIss fun i => { i with term := some t }

/-- EXIT (R240). -/
def execExitOp (a b : Src) (d : Dst) (s : State) : Host.Outcome State Fault Refusal :=
  .next ((s.setTerm .exit).twoTargets d (s.carried a) (s.carried b))

/-- SINK (R240). -/
def execSink (s : State) : Host.Outcome State Fault Refusal := .next (s.setTerm .sink)

/-- GOTO (R240, R243). -/
def execGoto (c : Src) (s : State) : Host.Outcome State Fault Refusal :=
  let o := bits (s.sc c) 19 0
  if s.inst.issuedSpawn then .next (s.fault { cause := .illop })
  else if s.badBlock o then .next s.illBun
  else .next (s.setTerm (.goto (s.namedBlock o)))

/-- A call child: an instance whose chain a CALLB started (R242). An iteration of a loop that instance 0 spawned from bundle 0 has LOOPID 0
too, and is none (log 95: DEDUCED, unsafe). -/
def Inst.isCallChild (i : Inst) : Bool := match i.ctx with | .call _ => true | _ => false

/-- RETB (R240, R242, R243). -/
def execRetb (a b : Src) (d : Dst) (s : State) : Host.Outcome State Fault Refusal :=
  if s.inst.issuedSpawn || !s.inst.isCallChild then .next (s.fault { cause := .illop })
  else .next ((s.setTerm .retb).twoTargets d (s.carried a) (s.carried b))

/-- GATE (R239): A when B is not 0, else nothing. What a later slot then reads in a latch destination, no rule states: a free value, the
same wherever A and the latch's value before are the same (R356; log entry 4: DESIGN CHOICE, safe), and a scalar whatever A is (log entry 107:
DESIGN CHOICE, unsafe). -/
def execGate (a b : Src) (d : Dst) (s : State) : Host.Outcome State Fault Refusal :=
  if s.sc b ≠ 0 then .next (s.deliver d (s.carried a))
  else match d with
    | .latch r => .next (s.modIss fun i => i.latch r (.scalar (Config.gateLatch (s.carried a) ((i.latches.get? r.toNat).map (·.2)))))
    | _ => .next s

/-- JOIN (R239): A is delivered; B and C only consume their ports. -/
def execJoin (a _b _c : Src) (d : Dst) (s : State) : Host.Outcome State Fault Refusal :=
  .next (s.deliver d (s.carried a))

/-! ### Queries (R244 to R247) -/

/-- The 160-bit instance-table entry (R51). -/
def Inst.entryBits (i : Inst) : Nat :=
  i.parent % 2 ^ 15 + i.block % 2 ^ 20 * 2 ^ 15 + i.depth % 8 * 2 ^ 35 + i.loopId % 2 ^ 20 * 2 ^ 38 +
    i.runLen % 64 * 2 ^ 58 + i.runBase.toNat * 2 ^ 64 + i.iter.toNat * 2 ^ 96 +
    (if i.tt then 2 ^ 144 else 0) + i.gen % 8 * 2 ^ 145 + i.ppd % 16 * 2 ^ 148 + i.ppath.toNat * 2 ^ 152

/-- TAGQ (R244): a frame reads its own entries, the supervisor any (R51; log 112: DEDUCED, unsafe). -/
def execTagq (k : BitVec 2) (a : Src) (d : Dst) (s : State) : Host.Outcome State Fault Refusal :=
  let w := s.sc a
  let v : W64 :=
    if bits w 31 26 = s.iss.set.frame ∨ s.iss.set.frame = 63 then
      match (s.c s.iss.tile).inst? (bits w 25 11) with
      | some i => if i.frame = bits w 31 26 then w64 (i.entryBits / 2 ^ (64 * k.toNat)) else 0
      | none => 0
    else 0
  let (v, s) := s.reading 1 v
  .next (s.deliver d (.scalar v))

/-- The effective spine of a tile (R414). -/
def State.effSpine (s : State) (t : Nat) : Nat :=
  max (s.c t).spinesel.toNat (if (s.hub (fieldOf t)).level = 2 then 3 else 0)

/-- The value of a frame-readable CSR (R245, R246); an address not listed reads 0. -/
def State.frameCsr (s : State) (t f : Nat) (fr : Frame) (tick : W64) (x : Nat) : W64 :=
  let c := s.c t
  match x with
  | 0x000 => w64 f
  | 0x001 => fr.task.taskId.setWidth 64
  | 0x002 => w64 fr.task.stage
  | 0x003 => w64 fr.task.prio
  | 0x004 => fr.trapv
  | 0x005 => fr.trapcause
  | 0x006 => fr.traptag
  | 0x007 => fr.trapaddr
  | 0x008 => fr.trapslot
  | 0x009 => if fr.pmode then 1 else 0
  | 0x00A => w64 (s.partOf t)
  | 0x010 => w64 c.tagFree
  | 0x011 => w64 c.tagLow
  | 0x012 => w64 c.tagCrit
  | 0x020 => tick
  | 0x021 => w64 (s.effSpine t)
  | 0x022 => w64 c.bucket
  | 0x030 => w64 (s.tile t).slate.d
  | 0x031 => w64 c.commitSeq
  | 0x032 => c.lag.setWidth 64
  | 0x040 => fr.fpflags.setWidth 64
  | _ => 0

/-- FRAMEQ (R245). -/
def execFrameq (a : Src) (d : Dst) (s : State) : Host.Outcome State Fault Refusal :=
  let x := (s.sc a).toNat
  if x > 0x7FF then .next (s.fault { cause := .illop })
  else if x ≥ 0x400 then .next (s.fault { cause := .priv })
  else
    let (v, s) := s.reading 1 (s.frameCsr s.iss.tile s.iss.set.frame s.iss.frame s.iss.tick x)
    .next (s.deliver d (.scalar v))

/-- QTIME (R247). -/
def execQtime (a : Src) (d : Dst) (s : State) : Host.Outcome State Fault Refusal :=
  let (v, s) := s.reading 1 (s.iss.tick + s.sc a)
  .next (s.deliver d (.scalar v))

end Sys2Proof.Machine
end

