-- ==== Sys2Proof/Machine/Sync.lean ====
section
/-! DEFINITION. The SY slot operations of user frames (R311, R312, R330 to R342, R345, R346): their checks at issue, the waits
they start and the effects they buffer until commit. -/

namespace Sys2Proof.Machine

/-! ### Waiting on a tick (R330) -/

/-- The copies a WUNTIL considers that have not completed: those launched by now whose promise is at or below the tick. -/
def CDom.lateCopies (c : CDom) (f : Nat) (tick : W64) : List Copy :=
  c.copies.filter fun x => x.frame == f && decide (x.promise.toNat ≤ tick.toNat)

/-- A PROMISE trap is counted (R424, R427). -/
def State.missed (s : State) (t : Nat) : State := (s.countT t 6 1).life (fieldOf t) 4 1

/-- WUNTIL (R330): decided at issue where the tick has passed, else a wait. -/
def execWuntil (a _ord : Src) (y : YDst) (s : State) : Host.Outcome State Fault Refusal :=
  let t := s.sc a
  let l := (s.c s.iss.tile).lateCopies s.iss.set.frame t
  match s.tgtsFault y.tgts with
  | some f => .next (s.fault f)
  | none =>
    if t.toNat ≤ s.quartz then
      match promiseFault l t 8 with
      | some f => .next ((s.missed s.iss.tile).fault f)
      | none => .next (s.modIss fun i => i.ydst y .order)
    else .next (s.addWait (.wuntil t (l.map (·.id))) y.dest {})

/-- The end of one WUNTIL: as of its tick, where that has passed. -/
def State.endWuntil (s : State) (t i : Nat) (q : PWait) (tick : W64) (copies : List Nat) : State :=
  match (s.c t).issue? i with
  | none => s
  | some x =>
    if tick.toNat > s.quartz then s
    else match q.judged.getD ((s.c t).promiseAt copies tick q.slot) with
      | some f => ((s.missed t).withdraw t x).takeFault t x.set f
      | none => s.endWait t i q.id .order

/-- WUNTIL_TICK (R330): the tick is reached; unfinished copies trap, else the order token is delivered. -/
def execWuntilTick (t i : Nat) (s : State) : Host.Outcome State Fault Refusal :=
  onTile t s fun s =>
    match (s.c t).issue? i with
    | none => s
    | some x => x.waits.foldl (fun s q => match q.wait with
      | .wuntil tick copies => s.endWuntil t i q tick copies
      | _ => s) s

/-! ### Barriers and signals (R331 to R334) -/

/-- The fault of a barrier pointer (R331). -/
def State.barFault (s : State) (p : W64) : Option FaultInfo :=
  if p = 0 then none
  else if ptrKind p = 3 ∧ zeroBitsOk p ∧ ordinalOk s.acc p then none
  else some { cause := .winfault, addr := p }

/-- The fault of a signal pointer (R333): the kind, then R97. -/
def State.sigFault (s : State) (p : W64) : Option FaultInfo :=
  if isLocal p then some { cause := .winfault, addr := p } else ptrFault s.acc p 8 8 0

/-- BAROVR at issue with its cause words (R382); PHASE is that of the barrier named (log 86: DESIGN CHOICE, unsafe). -/
def State.barovr (s : State) (word : Nat) (p : W64) (k : BitVec 8) : FaultInfo :=
  { cause := .barovr, cw1 := w64 word, cw2 := k.setWidth 64, cw3 := w64 ((s.n (s.barrierTile s.iss.tile p)).barriers.getD k.toNat {}).phase }

/-- BARC and BARC reset (R332): performed at the commit (R32, R312), also where the example of R361 shows a wait of the same block instance
end by it (log 97: DEDUCED, unsafe). -/
def State.barcOp (s : State) (reset : Bool) (a b : Src) (x : BitVec 8) : State :=
  let n := (s.sc b).toNat
  match s.barFault (s.sc a) with
  | some f => s.fault f
  | none => if n = 0 ∨ n > 65535 then s.fault (s.barovr 2 (s.sc a) x)
      else s.addEff { bun := 0, slot := 0, op := .barc reset x.toNat, a := s.sc a, b := s.sc b }

/-- BARC (R332). -/
def execBarc (a b _ord : Src) (x : BitVec 8) (s : State) : Host.Outcome State Fault Refusal := .next (s.barcOp false a b x)

/-- BARC reset (R332). -/
def execBarcReset (a b _ord : Src) (x : BitVec 8) (s : State) : Host.Outcome State Fault Refusal := .next (s.barcOp true a b x)

/-- BARA (R332, R334). -/
def execBara (sc : BitVec 2) (a b _ord : Src) (x : BitVec 8) (s : State) : Host.Outcome State Fault Refusal :=
  match s.barFault (s.sc a) with
  | some f => .next (s.fault f)
  | none =>
    if (s.sc b).toNat > 65535 then .next (s.fault (s.barovr 1 (s.sc a) x))
    else if !s.iss.frame.pmodeNow then .next (s.fault { cause := .atomrst })
    else .next (s.addEff { bun := 0, slot := 0, op := .bara sc x.toNat, a := s.sc a, b := s.sc b })

/-- BARW (R332): its message leaves with the bundle instance, which then waits. -/
def execBarw (a b _ord : Src) (x : BitVec 8) (y : YDst) (s : State) : Host.Outcome State Fault Refusal :=
  let p := s.sc a
  match s.barFault p, s.tgtsFault y.tgts with
  | some f, _ => .next (s.fault f)
  | none, some f => .next (s.fault f)
  | none, none =>
    let w := s.iss.nextWait
    .next ((s.addWait .barw y.dest {}).modIss fun i => { i with sends := i.sends ++ [.barw p x.toNat (bits (s.sc b) 15 0) w] })

/-- SIGADD (R333, R334). -/
def execSigadd (sc : BitVec 2) (a b _ord : Src) (s : State) : Host.Outcome State Fault Refusal :=
  match s.sigFault (s.sc a) with
  | some f => .next (s.fault f)
  | none =>
    if !s.iss.frame.pmodeNow then .next (s.fault { cause := .atomrst })
    else .next (s.addEff { bun := 0, slot := 0, op := .sigadd sc, a := s.sc a, b := s.sc b })

/-- SIGWAIT (R333): its request leaves with the bundle instance, which then waits. -/
def execSigwait (a b _ord : Src) (y : YDst) (s : State) : Host.Outcome State Fault Refusal :=
  let p := s.sc a
  match s.sigFault p, s.tgtsFault y.tgts with
  | some f, _ => .next (s.fault f)
  | none, some f => .next (s.fault f)
  | none, none =>
    let w := s.iss.nextWait
    .next ((s.addWait .sigwait y.dest {}).modIss fun i => { i with sends := i.sends ++ [.sigwait p (s.sc b) w] })

/-! ### Tasks, modes, format slots and trace (R335 to R339) -/

/-- The target of a TASKID or a status, delivered after commit (R312). -/
def YDst.tgt? (y : YDst) : Option Target := match y with | .target t => t | _ => none

/-- A SY effect whose value is delivered at or after commit: its tag-op is checked at issue (R61, R312). -/
def State.lateValue (s : State) (y : YDst) (e : Eff) : State :=
  match lateFault s.inst.ctx (YDst.tgt? y) with
  | some f => s.fault f
  | none => s.addEff { e with val := (YDst.tgt? y).map fun t => t.held (.scalar 0), reg := y.dest.reg }

/-- TSPAWN (R335): the record, then its entries, are read and checked at issue. -/
def execTspawn (a _ord : Src) (y : YDst) (s : State) : Host.Outcome State Fault Refusal :=
  let p := s.sc a
  let n := 64 + 32 * (bits (wordAt (s.localBytes p 64) 0) 8 2 - 1)
  match s.localFault p 64 64 with
  | some f => .next (s.fault f)
  | none => match s.localFault p n 64 with
    | some f => .next (s.fault f)
    | none =>
      let l := s.localBytes p n
      if taskOk s.myPart l then .next (s.lateValue y { bun := 0, slot := 0, op := .tspawn, a := p, bytes := l })
      else .next (s.fault { cause := .slotcfg })

/-- TEND (R27, R336). -/
def execTend (_ord : Src) (s : State) : Host.Outcome State Fault Refusal := .next (s.modIss fun i => { i with term := some .tend })

/-- The distinct values that the tile's format-slot names refer to, those still to commit among them (R338). -/
def State.fmtValues (s : State) : List W64 :=
  let c := s.c s.iss.tile
  let committed := c.frames.flatMap fun e => e.2.fs.map (·.2)
  let pending := (c.effects ++ s.iss.effs).filterMap fun e => match e.op with | .fmtw _ => some e.a | _ => none
  (committed ++ pending).eraseDups

/-- FMTW (R164, R338). -/
def execFmtw (a _ord : Src) (x : BitVec 5) (s : State) : Host.Outcome State Fault Refusal :=
  let v := s.sc a
  if !FmtSlot.ok v then .next (s.fault { cause := .fmtcfg })
  else if !s.fmtValues.contains v && decide (s.fmtValues.length ≥ 32) then .next (s.fault { cause := .fmtcfg, cw1 := 1 })
  else .next (s.addEff { bun := 0, slot := 0, op := .fmtw x.toNat, a := v })

/-- FMTR (R338): the value as of issue. -/
def execFmtr (_ord : Src) (x : BitVec 5) (y : YDst) (s : State) : Host.Outcome State Fault Refusal :=
  .next (s.deliverY y (.scalar (s.iss.frame.fsOf x.toNat)))

/-- TRACE (R339). -/
def execTrace (tag : BitVec 4) (a b _ord : Src) (s : State) : Host.Outcome State Fault Refusal :=
  .next (s.addEff { bun := 0, slot := 0, op := .trace tag, a := s.sc a, b := s.sc b })

/-- PMODE (R337): only in the entry instance; the checks of the mode follow it from its issue on. -/
def State.pmodeOp (s : State) (durable : Bool) : State :=
  if s.inst.entry then s.addEff { bun := 0, slot := 0, op := .pmode durable } else s.fault { cause := .illop }

/-- PMODE durable (R337). -/
def execPmodeDurable (_ord : Src) (s : State) : Host.Outcome State Fault Refusal := .next (s.pmodeOp true)

/-- PMODE restartable (R337). -/
def execPmodeRestartable (_ord : Src) (s : State) : Host.Outcome State Fault Refusal := .next (s.pmodeOp false)

/-! ### Traps and BRK (R342, R345, R346) -/

/-- TRAP raise (R342). -/
def execTrapRaise (a _ord : Src) (s : State) : Host.Outcome State Fault Refusal := .next (s.fault { cause := .trapsw, addr := s.sc a })

/-- TRAP vec (R342): the vector as TRAPV will hold it, relative to the issuing block. -/
def execTrapVec (a _ord : Src) (s : State) : Host.Outcome State Fault Refusal :=
  let v := s.sc a
  let off := bits v 19 0
  if bits v 63 21 != 0 then .next (s.fault { cause := .illop })
  else if v.getLsbD 20 && s.badBlock off then .next s.illBun
  else .next (s.addEff { bun := 0, slot := 0, op := .trapVec, a := if v.getLsbD 20 then w64 (2 ^ 20 + s.namedBlock off) else 0 })

/-- TRET (R345): only in the trap block's tree, with the frame TRAPPED, once under one tag. -/
def State.tretOp (s : State) (skip : Bool) : State :=
  if s.iss.frame.st = .trapped && s.inst.tt && !s.inst.issuedTret then
    (s.modIss fun i => { i with tret := true }).addEff { bun := 0, slot := 0, op := .tret skip }
  else s.fault { cause := .illop }

/-- TRET retry (R345). -/
def execTretRetry (_ord : Src) (s : State) : Host.Outcome State Fault Refusal := .next (s.tretOp false)

/-- TRET skip (R345). -/
def execTretSkip (_ord : Src) (s : State) : Host.Outcome State Fault Refusal := .next (s.tretOp true)

/-- BRK (R346): it acts at commit. -/
def execBrk (tag : BitVec 4) (_ord : Src) (s : State) : Host.Outcome State Fault Refusal :=
  .next (s.addEff { bun := 0, slot := 0, op := .brk tag })

end Sys2Proof.Machine
end

