-- ==== Sys2Proof/Machine/Supervisor.lean ====
section
/-! DEFINITION. The supervisor operations at issue (R341, R347 to R354): what they check, read and buffer until commit. -/

namespace Sys2Proof.Machine

/-! ### CSRs (R347, R354) -/

/-- The value CSRR reads (R347, R354): a supervisor CSR, else a CSR of the reading frame; an unassigned address reads 0. -/
def State.supCsr (s : State) (t f : Nat) (fr : Frame) (tick : W64) (x : Nat) : W64 :=
  let c := s.c t
  match x with
  | 0x400 => w64 t
  | 0x401 => w64 (s.fieldOrdinal t * 256 + fieldOf t)
  | 0x402 => w64 (s.partOf t)
  | 0x403 => (s.part (s.partOf t)).asid.setWidth 64
  | 0x404 => (s.part (s.partOf t)).ptroot
  | 0x405 => w64 c.branchstall
  | 0x406 => c.dbgctl
  | 0x407 => c.tracectl
  | 0x408 => if c.health then 1 else 0
  | 0x409 => c.spinesel.setWidth 64
  | 0x40A => c.horizon
  | x => if 0x410 ≤ x ∧ x ≤ 0x42F then c.srseed.getD (x - 0x410) 0 else s.frameCsr t f fr tick x

/-- CSRR (R347): read at issue. -/
def execCsrr (_ord : Src) (x : BitVec 11) (y : YDst) (s : State) : Host.Outcome State Fault Refusal :=
  .next (s.deliverY y (.scalar (s.supCsr s.iss.tile s.iss.set.frame s.iss.frame s.iss.tick x.toNat)))

/-- CSRW (R347): written at commit. -/
def execCsrw (a _ord : Src) (x : BitVec 11) (s : State) : Host.Outcome State Fault Refusal :=
  .next (s.addEff { bun := 0, slot := 0, op := .csrw x, a := s.sc a })

/-! ### Operations with a target (R348 to R351) -/

/-- TLBINV (R349). -/
def State.tlbinvOp (s : State) (kind : BitVec 2) (a b : Src) (y : YDst) : State :=
  if bits (s.sc a) 63 16 != 0 then s.fault { cause := .illop }
  else s.lateValue y { bun := 0, slot := 0, op := .tlbinv kind, a := s.sc a, b := s.sc b }

/-- TLBINV all (R349). -/
def execTlbinvAll (a b _ord : Src) (y : YDst) (s : State) : Host.Outcome State Fault Refusal := .next (s.tlbinvOp 0 a b y)

/-- TLBINV asid (R349). -/
def execTlbinvAsid (a b _ord : Src) (y : YDst) (s : State) : Host.Outcome State Fault Refusal := .next (s.tlbinvOp 1 a b y)

/-- TLBINV page (R349). -/
def execTlbinvPage (a b _ord : Src) (y : YDst) (s : State) : Host.Outcome State Fault Refusal := .next (s.tlbinvOp 2 a b y)

/-- The name words of a binding's tensor. -/
def Binding.nameHi (b : Binding) : W64 := TileName.hi ⟨b.ns, b.tensor, 0, 0, 0, 0⟩

/-- NSBIND (R350): the record is read and checked at issue. -/
def execNsbind (a _ord : Src) (y : YDst) (s : State) : Host.Outcome State Fault Refusal :=
  let p := s.sc a
  match s.localFault p 64 64 with
  | some f => .next (s.fault f)
  | none =>
    let l := s.localBytes p 64
    if bindingOk l then .next (s.lateValue y { bun := 0, slot := 0, op := .nsbind, a := p, bytes := l })
    else .next (s.fault (namecfg 0 (bindingOf l).nameHi 0))

/-- PARK stop (R348). -/
def execParkStop (a _ord : Src) (y : YDst) (s : State) : Host.Outcome State Fault Refusal :=
  .next (s.lateValue y { bun := 0, slot := 0, op := .park false, a := s.sc a })

/-- PARK resume (R348). -/
def execParkResume (a _ord : Src) (y : YDst) (s : State) : Host.Outcome State Fault Refusal :=
  .next (s.lateValue y { bun := 0, slot := 0, op := .park true, a := s.sc a })

/-- FRKILL (R348). -/
def execFrkill (a b _ord : Src) (y : YDst) (s : State) : Host.Outcome State Fault Refusal :=
  .next (s.lateValue y { bun := 0, slot := 0, op := .frkill, a := s.sc a, b := s.sc b })

/-- TMOVE (R22, R348). -/
def execTmove (a b _ord : Src) (y : YDst) (s : State) : Host.Outcome State Fault Refusal :=
  .next (s.lateValue y { bun := 0, slot := 0, op := .tmove, a := s.sc a, b := s.sc b })

/-- PREEMPT stop (R348). -/
def execPreemptStop (a b _ord : Src) (y : YDst) (s : State) : Host.Outcome State Fault Refusal :=
  .next (s.lateValue y { bun := 0, slot := 0, op := .preempt false, a := s.sc a, b := s.sc b })

/-- PREEMPT resume (R348). -/
def execPreemptResume (a b _ord : Src) (y : YDst) (s : State) : Host.Outcome State Fault Refusal :=
  .next (s.lateValue y { bun := 0, slot := 0, op := .preempt true, a := s.sc a, b := s.sc b })

/-- ROUTEW (R351). -/
def execRoutew (a b _ord : Src) (y : YDst) (s : State) : Host.Outcome State Fault Refusal :=
  .next (s.lateValue y { bun := 0, slot := 0, op := .routew, a := s.sc a, b := s.sc b })

/-! ### Slate queries and watchpoints (R352, R353) -/

/-- SLATEQ rec (R352). -/
def execSlateqRec (a _ord : Src) (y : YDst) (s : State) : Host.Outcome State Fault Refusal :=
  .next (s.lateValue y { bun := 0, slot := 0, op := .slateq 0, a := s.sc a })

/-- SLATEQ sector (R352). -/
def execSlateqSector (a _ord : Src) (y : YDst) (s : State) : Host.Outcome State Fault Refusal :=
  .next (s.lateValue y { bun := 0, slot := 0, op := .slateq 1, a := s.sc a })

/-- SLATEQ drec (R352). -/
def execSlateqDrec (a _ord : Src) (y : YDst) (s : State) : Host.Outcome State Fault Refusal :=
  .next (s.lateValue y { bun := 0, slot := 0, op := .slateq 2, a := s.sc a })

/-- WATCH (R353): the object's pointer is checked at issue. -/
def State.watchOp (s : State) (kind : BitVec 2) (sig : Bool) (a b : Src) (x : BitVec 8) (y : YDst) : State :=
  match (if sig then s.sigFault (s.sc a) else s.barFault (s.sc a)) with
  | some f => s.fault f
  | none => s.lateValue y { bun := 0, slot := 0, op := .watch kind sig x.toNat, a := s.sc a, b := s.sc b }

/-- WATCH arrive (R353). -/
def execWatchArrive (sig : Bool) (a b _ord : Src) (x : BitVec 8) (y : YDst) (s : State) : Host.Outcome State Fault Refusal :=
  .next (s.watchOp 0 sig a b x y)

/-- WATCH last (R353). -/
def execWatchLast (sig : Bool) (a b _ord : Src) (x : BitVec 8) (y : YDst) (s : State) : Host.Outcome State Fault Refusal :=
  .next (s.watchOp 1 sig a b x y)

/-- WATCH flip (R353): barriers only. -/
def execWatchFlip (sig : Bool) (a b _ord : Src) (x : BitVec 8) (y : YDst) (s : State) : Host.Outcome State Fault Refusal :=
  if sig then .next (s.fault { cause := .illop }) else .next (s.watchOp 2 sig a b x y)

end Sys2Proof.Machine
end

