-- ==== Sys2Proof/Machine/Tags.lean ====
section
/-! DEFINITION. Instances that are entered, replaced and retired; loops, calls and their chains (R49 to R51, R61 to R68, R242,
R243). -/

namespace Sys2Proof.Machine

/-! ### Entering an instance -/

/-- A new instance in entry e with its next generation (R49); a depth-0 one takes the frame's next ordinal (R167). -/
def CDom.enterAt (c : CDom) (e : Nat) (i : Inst) : Nat × CDom :=
  let g := c.nextGen e
  let o := (c.frame i.frame).ord0 + 1
  let c := { c with gens := c.gens.set e g }
  if i.depth = 0 then
    (instNum e g, { c with insts := c.insts.set e { i with gen := g, ordinal := o } }.modFrame i.frame fun fr => { fr with ord0 := o })
  else (instNum e g, { c with insts := c.insts.set e { i with gen := g } })

/-- The entry a replacement of a retiring instance takes (R50, R67), if there is one. -/
def CDom.replaceEntry (c : CDom) (e : Nat) : Option Nat :=
  if c.dueOf (instNum e (c.nextGen e)) = 0 then some e else c.freeEntry

/-- The order token on bundle 0, port p0 that enters an instance. -/
def entryTok : HeldTok := { top := .same, bun := 0, port := 0, val := .order }

/-- Tokens given to a new instance under a path, and its loop's waiting run tokens matched (R58). -/
def CDom.start (c : CDom) (n : Nat) (p : BitVec 8) (pd : Nat) (l : List HeldTok) : CDom :=
  let c := l.foldl (fun c h => c.giveTok n p pd none h) c
  match c.inst? n with
  | some i => if i.runLen > 0 then c.rematch i.frame i.loopId i.block else c
  | none => c

/-! ### Retiring an instance -/

/-- Run tokens waiting for a block of a vector instance lose the lanes of its run (R58); the number of tokens touched. -/
def CDom.dropLanes (c : CDom) (i : Inst) : Nat × CDom :=
  let lo := i.runBase.toNat
  let hi := lo + i.runLen
  let hit (k : Tok) : Bool := k.loopKey == some i.loopId && k.frame == i.frame && k.block == i.block && decide (k.base < hi) && decide (lo < k.stop)
  let cut (k : Tok) : List Tok :=
    if hit k then (if k.base < lo then [k.cut k.base lo] else []) ++ (if hi < k.stop then [k.cut hi k.stop] else []) else [k]
  if i.runLen = 0 then (0, c)
  else (((c.toks ++ c.holding).filter hit).length, { c with toks := c.toks.flatMap cut, holding := c.holding.flatMap cut })

/-- The operands that wait under an instance's tag are dropped; their number (R29, R57). -/
def CDom.dropOperands (c : CDom) (n : Nat) (i : Inst) : Nat × CDom :=
  let mine (k : Tok) : Bool := k.loopKey.isNone && k.inst == n
  let d := ((c.toks ++ c.holding).filter mine).length + (c.sets.filter fun x => x.inst == n && x.frame == i.frame).length
  let r := CDom.dropLanes { c with toks := c.toks.filter (fun k => !mine k), holding := c.holding.filter (fun k => !mine k),
                                   sets := c.sets.filter fun x => !(x.inst == n && x.frame == i.frame) } i
  (d + r.1, r.2)

/-- The block that an instance of a vector loop's chain held is left (R58): its run's later lanes for it have no receiver. -/
def CDom.leaveBlock (c : CDom) (i : Inst) : CDom :=
  match i.ctx with
  | .iter lp k => { c with loops := c.loops.adjust lp fun l => if l.vec then { l with left := l.left ++ [(k, i.block)] } else l }
  | _ => c

/-- The entry of an instance returns to the pool. -/
def CDom.release (c : CDom) (e : Nat) : CDom := { c with insts := c.insts.erase e, pendCommit := c.pendCommit.filter (· != e) }

/-! ### Chains (R243) -/

/-- A context lies inside an iteration of a loop. -/
def CDom.under (c : CDom) (lp : Nat) (hit : Nat → Bool) : Nat → Ctx → Bool
  | 0, _ => false
  | n + 1, .iter l k => (l == lp && hit k) || (match c.loops.get? l with | some x => CDom.under c lp hit n x.ctx | none => false)
  | n + 1, .call id => match c.calls.get? id with | some x => CDom.under c lp hit n x.ctx | none => false
  | _ + 1, .root => false

/-- The instances of chains inside some iterations of a loop. -/
def CDom.instsUnder (c : CDom) (lp : Nat) (hit : Nat → Bool) : List Nat :=
  (c.insts.filter fun e => c.under lp hit 20 e.2.ctx).map fun e => instNum e.1 e.2.gen

/-- Block instances are discarded without commit, with the lanes that waited for them and the waits of their bundle instances. -/
def State.discardInsts (s : State) (t : Nat) (gone : List Nat) : State :=
  let s := ((s.c t).issued.filter fun x => gone.contains x.inst).foldl (fun s x => s.withdrawWaits t x.id) s
  s.modC t fun c => gone.foldl (fun c n => match c.inst? n with
    | some i => (c.dropLanes i).2.discardInst n
    | none => c) c

/-- Iterations of a loop are discarded without commit, with everything inside them (R65). -/
def State.discardIters (s : State) (t lp : Nat) (hit : Nat → Bool) : State :=
  let c := s.c t
  let loops := (c.loops.keep fun _ l => !c.under lp hit 20 l.ctx).adjust lp fun l => { l with live := l.live.filter fun e => !hit e.1 }
  let calls := c.calls.keep fun _ l => !c.under lp hit 20 l.ctx
  (s.discardInsts t (c.instsUnder lp hit)).modC t fun c => { c with loops := loops, calls := calls }

/-- The live instances of a frame's trap block are discarded (R345). -/
def State.discardTree (s : State) (t f : Nat) : State :=
  s.discardInsts t (((s.c t).insts.filter fun e => e.2.frame == f && e.2.tt).map fun e => instNum e.1 e.2.gen)

/-- Iterations that a loop spawns (R62); for WHILE those decided so far (R66). -/
def Loop.count (l : Loop) : Nat := if l.vec then (l.trip + 31) / 32 else l.trip

/-- Every iteration is complete or discarded and none is still to be spawned (R62, R65). -/
def Loop.complete (l : Loop) : Bool := l.live.isEmpty && (l.exitK.isSome || decide (l.next ≥ l.count))

/-- The continuation can be entered: no late token of the loop is outstanding (R65). -/
def Loop.over_ (l : Loop) : Bool := l.complete && l.late == 0

/-- The last iteration, whose next tokens are carry-out (R64, R66). -/
def Loop.last (l : Loop) : Nat := (if l.isWhile then l.next else l.count) - 1

/-- The iteration's key: its number in the loop. -/
def Loop.key (l : Loop) (i : Inst) : Nat := if l.vec then i.runBase.toNat / 32 else i.iter.toNat

/-- An on-time next token that keeps a WHILE going (R66). -/
def isEntry (k : Nat) (e : Nat × HeldTok) : Bool := e.1 == k && e.2.bun == 0 && e.2.port == 0

/-- An iteration is complete (R243): a WHILE goes on where it delivered a next token to bundle 0, port p0, unless it has
exited (R66). The number of tokens dropped. -/
def Loop.iterDone (l : Loop) (k : Nat) : Nat × Loop :=
  let l := { l with live := l.live.filter fun e => e.1 != k, committed := l.committed ++ [k],
                    sentNext := l.sentNext.filter fun e => e.1 != k || l.exitK == some k }
  if !l.isWhile then (0, l)
  else if l.exitK.isNone && l.heldNext.any (isEntry k) then (0, { l with trip := l.trip + 1 })
  else ((l.heldNext.filter (isEntry k)).length, { l with heldNext := l.heldNext.filter fun e => !isEntry k e })

/-- A chain commits an instance that enters no successor (R243): the loop whose continuation is then due. A call that ends
without return drops its exit tokens and ends its caller's chain (R242). -/
def State.chainEnd (s : State) (t : Nat) : Nat → Ctx → Option Nat × State
  | 0, _ => (none, s)
  | _ + 1, .root => (none, s)
  | n + 1, .call id =>
    match (s.c t).calls.get? id with
    | none => (none, s)
    | some x =>
      let s := s.modC t fun c => { c with calls := if x.late = 0 then c.calls.erase id else c.calls.set id { x with held := [], ended := true } }
      State.chainEnd (s.countT t 0 x.held.length) t n x.ctx
  | _ + 1, .iter lp k =>
    match (s.c t).loops.get? lp with
    | none => (none, s)
    | some l =>
      let r := l.iterDone k
      let s := (s.modC t fun c => { c with loops := c.loops.set lp r.2 }).countT t 0 r.1
      (if r.2.over_ then some lp else none, s)

/-! ### Spawning iterations (R62, R66, R68) -/

/-- A frame takes no new spawn once a pre-empt marker has taken effect (R389). -/
def Frame.spawns (f : Frame) : Bool := (f.park == .none || f.park == .asked) && (f.st == .active || f.st == .trapped)

/-- The tokens of iteration k at its spawn (R62, R64, R66, R241). Iteration 0 of a WHILE has the order token at bundle 0, port p0, that R62
gives the iterations of a LOOP (log 99: DESIGN CHOICE, unsafe). -/
def Loop.spawnTokens (l : Loop) : List HeldTok :=
  let carried := (l.heldNext.filter fun e => e.1 + 1 == l.next).map (·.2)
  if l.isWhile then (if l.next = 0 then entryTok :: l.spawnToks else carried) else entryTok :: (l.spawnToks ++ carried)

/-- The instance of the next iteration (R51). -/
def Loop.instance_ (l : Loop) (lp : Nat) : Inst :=
  let k := l.next
  let it : W32 := BitVec.ofNat 32 (if l.vec then 32 * k else k)
  { Inst.blank l.frame with
    ppath := l.ppath, ppd := l.ppd, tt := l.tt, iter := it, runBase := it,
    runLen := if l.vec then min 32 (l.trip - 32 * k) else 0, loopId := l.loopId, depth := l.depth, block := l.body,
    parent := l.loopId / 32, ctx := .iter lp k, anc := l.anc ++ [(l.iter, l.runBase)], ordinal := l.ordinal }

/-- The loop has an iteration to spawn and its window is open (R62). -/
def Loop.wants (l : Loop) : Bool := decide (l.next < l.count) && l.exitK.isNone && decide (l.live.length < l.window)

/-- The next iteration of a loop is spawned where the window, the throttle and the pool allow, one in a cycle (R62). -/
def CDom.spawnIter (c : CDom) (lp : Nat) : CDom :=
  match c.loops.get? lp with
  | none => c
  | some l =>
    if !l.wants || l.lastSpawn == some c.cycle || !(c.frame l.frame).spawns || !c.throttleAllows l.depth then c
    else match c.freeEntry with
      | none => c
      | some e =>
        let r := c.enterAt e (l.instance_ lp)
        let c := { r.2 with loops := r.2.loops.set lp { l with
          next := l.next + 1, lastSpawn := some c.cycle, live := l.live ++ [(l.next, r.1)], heldNext := l.heldNext.filter fun h => h.1 + 1 != l.next } }
        c.start r.1 0 0 l.spawnTokens

/-- LOOP_SPAWN (R62): a loop spawns its next iteration. -/
def execLoopSpawn (t l : Nat) (s : State) : Host.Outcome State Fault Refusal :=
  onTile t s fun s => (s.modC t fun c => c.spawnIter l).checkHolding t

/-! ### Continuations and returns (R61, R65, R242) -/

/-- The instance of a continuation: the spawner's kept fields, with the continuation block. -/
def Loop.contInst (l : Loop) : Inst :=
  { Inst.blank l.frame with
    ppath := l.outPpath, ppd := l.outPpd, tt := l.tt, iter := l.iter, runBase := l.runBase, runLen := l.runLen,
    loopId := l.outer, depth := l.depth - 1, block := l.cont, parent := l.parent, ctx := l.ctx, anc := l.anc, ordinal := l.ordinal }

/-- Tokens of the final iteration alone where the loop ended early (R65). -/
def Loop.final (l : Loop) (e : Nat × HeldTok) : Bool := match l.exitK with | some k => e.1 == k | none => true

/-- The tokens a continuation receives (R61, R64, R65): its entry, the carry-out, the exit tokens, the late ones. Where an exit ends
a LOOP early, its final iteration is the last one, whose next tokens are the carry-out, whatever had become of them by then; next tokens of other
iterations that still wait vanish uncounted (log 54: DEDUCED, unsafe). -/
def Loop.contTokens (l : Loop) : List HeldTok :=
  let carry := match l.isWhile, l.exitK with
    | false, some k => (l.sentNext.filter fun e => e.1 == k).map (·.2)
    | _, _ => (l.heldNext.filter fun e => e.1 == l.last).map (·.2)
  entryTok :: ((l.exits.filter l.final).map (·.2)).foldl insertTok (if l.next = 0 then [] else carry) ++ (l.lateToks.filter l.final).map (·.2)

/-- The continuation of a loop is entered in an entry. Run tokens that wait for a block of the loop which none of its instances
entered go without being counted (log 55: DESIGN CHOICE, unsafe). -/
def State.enterCont (s : State) (t lp e : Nat) : State :=
  match (s.c t).loops.get? lp with
  | none => s
  | some l =>
    let dropped := ((l.exits ++ l.lateToks).filter fun x => !l.final x).length
    let s := s.modC t fun c =>
      let other (k : Tok) : Bool := !(l.vec && k.frame == l.frame && k.loopKey == some l.loopId)
      let c := { c with loops := c.loops.erase lp, toks := c.toks.filter other, holding := c.holding.filter other }
      let r := c.enterAt e l.contInst
      r.2.start r.1 l.ppath l.ppd l.contTokens
    s.countT t 0 dropped

/-- LOOP_CONTINUATION (R62, R65): a continuation that waited for late tokens is entered in a free entry, without the
throttle (R67). -/
def execLoopContinuation (t l : Nat) (s : State) : Host.Outcome State Fault Refusal :=
  onTile t s fun s =>
    match (s.c t).loops.get? l, (s.c t).freeEntry with
    | some x, some e => if x.over_ then (s.enterCont t l e).checkHolding t else s
    | _, _ => s

/-- A call returns: the return block is entered with the kept fields, and its held exit tokens delivered (R242). -/
def CDom.enterReturn (c : CDom) (id e : Nat) : CDom :=
  match c.calls.get? id with
  | none => c
  | some x =>
    let i : Inst := { Inst.blank x.frame with
      ppath := x.ppath, ppd := x.ppd, tt := x.tt, iter := x.iter, runBase := x.runBase, runLen := x.runLen, loopId := x.loopId,
      depth := x.depth, block := x.ret, parent := x.parent, ctx := x.ctx, anc := x.anc, ordinal := x.ordinal }
    let r := c.enterAt e i
    let c := r.2
    let c := { c with calls := if x.late = 0 then c.calls.erase id else c.calls.set id { x with returned := some r.1, held := [], ended := true } }
    c.start r.1 0 0 (entryTok :: x.held)

/-- The successor of a GOTO: only BLOCK changes (R240). -/
def CDom.enterGoto (c : CDom) (i : Inst) (block e : Nat) : CDom :=
  let j : Inst := { Inst.blank i.frame with
    ppath := i.ppath, ppd := i.ppd, tt := i.tt, iter := i.iter, runBase := i.runBase, runLen := i.runLen, loopId := i.loopId,
    depth := i.depth, block := block, parent := i.parent, ctx := i.ctx, anc := i.anc, ordinal := i.ordinal }
  let r := c.enterAt e j
  r.2.start r.1 0 0 [entryTok]

/-- The callee of a call (R242). -/
def CDom.enterCallee (c : CDom) (id n e : Nat) (i : Inst) (block : Nat) (p : BitVec 8) (pd : Nat) (toks : List HeldTok) : CDom :=
  let j : Inst := { Inst.blank i.frame with
    ppath := p, ppd := pd, tt := i.tt, depth := i.depth + 1, block := block, parent := n, ctx := .call id,
    anc := i.anc ++ [(i.iter, i.runBase)], ordinal := i.ordinal }
  let r := c.enterAt e j
  r.2.start r.1 0 0 (entryTok :: toks)

/-! ### Tag pool events (R68, R70) -/

/-- THROTTLE_EVENT (R68): while F is below TAGLOW, one event per 1,024 ticks. -/
def execThrottleEvent (t : Nat) (s : State) : Host.Outcome State Fault Refusal :=
  onTile t s fun s =>
    let c := s.c t
    if c.tagFree < min c.tagLow 4096 then
      if s.quartz ≥ c.throttleTick + 1024 then
        ((s.modC t fun c => { c with throttleTick := s.quartz }).countT t 5 1).life (fieldOf t) 3 1
      else s
    else s.modC t fun c => { c with throttleTick := s.quartz }

end Sys2Proof.Machine
end

