-- ==== Sys2Proof/Machine/Tasks.lean ====
section
/-! DEFINITION. Tasks (R15 to R27): creation at the hub, the placement checks and the choice of a tile, subscriptions and
the registrations they climb with (R77 to R80), code copies (R16), activation, reserving, moves, the end of a frame. -/

namespace Sys2Proof.Machine

/-! ### Areas of a tile's scratchpad (R21) -/

/-- n bytes from b meet no listed area and stay within the scratchpad. -/
def areaFits (l : List (Nat × Nat)) (b n : Nat) : Bool :=
  decide (b + n ≤ Config.scratchBytes) && l.all fun a => decide (b + n ≤ a.1) || decide (a.1 + a.2 ≤ b)

/-- The lowest place for n bytes (log entry 3: DESIGN CHOICE, safe), if there is one. -/
def areaPlace (l : List (Nat × Nat)) (n : Nat) : Option Nat :=
  if n = 0 then some 0
  else ((0 :: l.map fun a => a.1 + a.2).filter fun b => areaFits l b n).foldl (fun m b => match m with
    | none => some b
    | some v => some (min v b)) none

/-- Areas of the given sizes placed one after the other: their bases and the areas then taken. -/
def areasPlace (l : List (Nat × Nat)) : List Nat → Option (List Nat × List (Nat × Nat))
  | [] => some ([], l)
  | n :: ns =>
    match areaPlace l n with
    | none => none
    | some b => (areasPlace (if n = 0 then l else l ++ [(b, n)]) ns).map fun r => (b :: r.1, r.2)

/-! ### Subscriptions and registrations (R77) -/

/-- A subscription as a record or SUBN gives it. -/
structure SubReq where
  hi : W64
  lo : W64
  mask : BitVec 4
  next : Bool
  deriving DecidableEq, Repr

def SubReq.name (q : SubReq) : TileName := nameOf q.hi q.lo

/-- The subscription of an entry of a task record, with its slot index (R219). -/
def subOf (e : W64 × W64 × W64) : SubReq × Nat := (⟨e.1, e.2.1, e.2.2.extractLsb' 0 4, e.2.2.getLsbD 4⟩, bits e.2.2 15 8)

/-- The code subscription of a task (R16). -/
def Task.codeSub (k : Task) : SubReq := ⟨k.codehi, k.codelo, 0, false⟩

/-- The name with its masked coordinates zero: the key of a registration. -/
def maskName (n : TileName) (m : BitVec 4) : TileName :=
  (List.range 4).foldl (fun n j => if m.getLsbD j then n.setCoord j 0 else n) n

/-- The registration keys of a subscription with their masks, and the section of each key's first name (R77). -/
def Binding.regKeys (b : Binding) (n : TileName) (mask : BitVec 4) : List (TileName × BitVec 4 × Nat) :=
  let m := mask &&& b.hgm
  let all := expandNames b n mask
  let keys := (all.map fun x => maskName x m).eraseDups
  keys.map fun k => (k, m, all.findIdx fun x => maskName x m == k)

/-- The sections of a subscription, still empty (R77). -/
def Binding.sections (b : Binding) (q : SubReq) : List Section :=
  (expandNames b q.name q.mask).map fun n => ⟨n, if q.next then none else some (nameVer q.lo), none, false⟩

/-- The bytes of a subscription's slot. -/
def Binding.slotBytes (b : Binding) (q : SubReq) : Nat := (b.sections q).length * b.tilesec * 128

/-- The binding a partition holds for a subscription, or a blank one. -/
def Partition.bindingFor (p : Partition) (q : SubReq) : Binding := (p.binding q.name.ns q.name.tensor).getD {}

/-- The slot number that stands for a tile's code copy. -/
def codeSlot : Nat := 256

/-- The registrations of a subscription (R77): `frame` none for a task's. -/
def State.regMsgs (s : State) (t slot : Nat) (frame : Option Nat) (taskId : BitVec 32) (q : SubReq) : List NameMsg :=
  ((s.part (s.partOf t)).bindingFor q |>.regKeys q.name q.mask).map fun k =>
    { name := k.1, mask := k.2.1, ver := nameVer q.lo, next := q.next, who := .tile t, frame := frame, taskId := taskId,
      slot := slot, sect := k.2.2 }

/-- The registrations of a subscription leave the tile (R77, R80). -/
def State.register (s : State) (t slot : Nat) (frame : Option Nat) (taskId : BitVec 32) (q : SubReq) : State :=
  (s.regMsgs t slot frame taskId q).foldl (fun s x => s.climb t (s.partOf t) .reg x) s

/-- The registration for a code copy leaves the tile; its index names the task that asks, should it be fetched (R16, R123). -/
def State.registerCode (s : State) (t : Nat) (k : Task) : State :=
  (s.regMsgs t codeSlot none 0 k.codeSub).foldl (fun s x => s.climb t (s.partOf t) .reg { x with index := k.taskId.toNat }) s

/-- The registration of a key and a subscriber is marked overflow, wherever it is (R80). -/
def State.overflowed (s : State) (p : Nat) (x : NameMsg) : Bool :=
  let same (y : NameMsg) : Bool := sameSub y x && y.overflow
  (s.net.any fun m => match m.body with | .name .reg y => same y | _ => false) ||
    (s.n (s.homeOf p x.name)).ingress.any (fun m => match m.body with | .name .reg y => same y | _ => false) ||
    (s.n (s.homeOf p x.name)).names.any fun e => e.subs.any fun r => same { r.reg with overflow := r.overflow }

/-- A prune as it leaves its tile: marked overflow where its registration is (R80). -/
def State.pruneMsg (s : State) (t p : Nat) (x : NameMsg) : Msg := s.climbMsg t p .prune { x with overflow := s.overflowed p x }

/-- A registration is pruned. -/
def State.pruneOne (s : State) (t p : Nat) (x : NameMsg) : State := s.send (s.pruneMsg t p x)

/-- The registrations of a subscription are pruned (R80). -/
def State.prune (s : State) (t slot : Nat) (frame : Option Nat) (taskId : BitVec 32) (q : SubReq) : State :=
  (s.regMsgs t slot frame taskId q).foldl (fun s x => s.pruneOne t (s.partOf t) x) s

/-! ### Placement checks (R20) -/

/-- The cause of the checks of R77 on a subscription. -/
def subCause (p : Partition) (q : SubReq) : Option Cause :=
  match nameCheck p 0 q.hi q.lo q.mask false false with
  | some c => some c
  | none => if maskOk4 (p.bindingFor q) q.mask then none else some .namecfg
where
  /-- At most 64 names, and no wildcard on a coordinate of extent 1. -/
  maskOk4 (b : Binding) (mask : BitVec 4) : Bool :=
    decide ((List.range 4).foldl (fun n j => if mask.getLsbD j then n * (b.extent j + 1) else n) 1 ≤ 64) &&
      (List.range 4).all fun j => !mask.getLsbD j || b.extent j != 0

/-- Every subscription of a task: the code's, then the entries'. -/
def Task.allSubs (k : Task) : List SubReq := k.codeSub :: k.subs.map fun e => (subOf e).1

/-- The full layout of a task (R20, R21). -/
def Task.layout (p : Partition) (k : Task) : Nat :=
  k.bytes + (k.subs.map fun e => let q := (subOf e).1; (p.bindingFor q).slotBytes q).foldl (· + ·) 0

/-- The fault of the placement checks, in order (R20). -/
def Task.placeFault (p : Partition) (k : Task) : Option FaultInfo :=
  match k.allSubs.findSome? fun q => (subCause p q).map fun c => (c, q) with
  | some (.priv, _) => some { cause := .priv }
  | some (c, q) => some { cause := c, cw2 := q.hi, cw3 := q.lo }
  | none => if codeFits p k && decide (k.layout p ≤ 786432) then none else some { cause := .slotcfg }

/-- A task id is given to a new task, which has never run whatever the id was used for before (R15, R381). -/
def State.newTaskId (s : State) (p : Nat) (taskId : BitVec 32) : State :=
  s.modPart p fun q => { q with taskIds := q.taskIds ++ [taskId], ran := q.ran.erase taskId.toNat }

/-- Where a live task that runs in no frame stands: the tile and number of its parked frame, or zeros, and its stage. -/
def State.restingTask (s : State) (p : Nat) (taskId : BitVec 32) : Option (Nat × Nat × Nat) :=
  let placed (t : Nat) : Option (Nat × Nat × Nat) := ((s.c t).placed.find? fun q => q.task.taskId == taskId).map fun q => (0, 0, q.task.stage)
  let image (t : Nat) : Option (Nat × Nat × Nat) :=
    ((s.tile t).slate.images.find? fun x => x.fr.task.taskId == taskId).map fun x => (t, x.num, x.fr.task.stage)
  ((s.part p).tiles.findSome? fun t => (image t).or (placed t)).or
    ((s.part p).fieldList.findSome? fun f => ((s.hub f).queue.find? fun q => q.part == p && q.task.taskId == taskId).map fun q => (0, 0, q.task.stage))

/-- The record of a fault in a task that is not running: no instance, and no slot named (R381). -/
def State.taskRecord (s : State) (src : Agent) (p origin : Nat) (taskId : BitVec 32) (i : FaultInfo) : State :=
  if origin = 3 then s.awayRecord src p 3 taskId i
  else
    let w := (s.restingTask p taskId).getD (0, 0, 0)
    s.publishRecord src p faultTensor taskId false (recordWords s.tick i.cause.code origin 0 0 8 w.1 w.2.1 w.2.2 0 taskId 0 i.addr 0 i)

/-! ### Code copies (R16) -/

/-- The copy of a task's code on a tile. -/
def CDom.codeOf (c : CDom) (k : Task) : Option CodeCopy :=
  c.codes.find? fun x => x.name == k.codeSub.name && x.ver == nameVer k.codelo

/-- Some task or frame of the tile names the copy. -/
def CDom.codeNamed (c : CDom) (x : CodeCopy) : Bool :=
  let names (k : Task) : Bool := k.codeSub.name == x.name && nameVer k.codelo == x.ver
  (c.placed.any fun q => names q.task) || c.frames.any fun e => e.2.st != .free && decide (e.1 < 63) && names e.2.task

/-- A copy that nothing names is freed, its registration pruned unless it has landed. -/
def State.releaseCode (s : State) (t : Nat) (k : Task) : State :=
  match (s.c t).codeOf k with
  | none => s
  | some x =>
    if (s.c t).codeNamed x then s
    else
      let s := s.modC t fun c => CDom.freeArea { c with codes := c.codes.filter (· != x) } x.base x.size
      if x.resident then s else s.prune t codeSlot none 0 k.codeSub

/-! ### Creation (R18, R335) -/

/-- TSPAWN_AT_HUB (R335): the hub assigns the task id and queues the task, or answers a repeat with the id it gave. -/
def execTspawnAtHub (m : Nat) (taskId : BitVec 32) (s : State) : Host.Outcome State Fault Refusal :=
  match s.net[m]? with
  | some ⟨src, .hub h, _, .spawn k creator ordinal frame oseq, _, _⟩ =>
    if !s.arrivable m then .next s
    else
      let reply (s : State) (id : BitVec 32) : State :=
        s.post (.hub h) src .reply (.name .taskReply { who := src, frame := some frame, taskId := id, oseq := oseq })
      match (s.hub h).pairs.find? fun e => e.1 == creator && e.2.1 == ordinal with
      | some e => .next (reply (s.dropMsg m) e.2.2)
      | none =>
        let p := s.partOfField h
        if (s.hub h).queue.length ≥ 4096 ∨ (s.part p).taskIds.contains taskId then .next s
        else
          let s := s.dropMsg m
          let s := s.newTaskId p taskId
          let s := s.modHub h fun x => { x with
            queue := x.queue ++ [⟨{ k with taskId := taskId }, p, creator, ordinal⟩], pairs := x.pairs ++ [(creator, ordinal, taskId)] }
          .next (reply s taskId)
  | _ => .next s

/-! ### Placement (R16, R20, R21) -/

/-- A tile of a task's slots: bases, and whether a code area is needed. -/
structure Layout where
  code : Option Nat
  bases : List Nat
  areas : List (Nat × Nat)
  slots : List Nat
  deriving DecidableEq, Repr

/-- Where a task's code and tile slots would stand on a tile (R20, R21). -/
def CDom.layoutOf (c : CDom) (p : Partition) (k : Task) : Option Layout :=
  let sizes := k.subs.map fun e => let q := (subOf e).1; (p.bindingFor q).slotBytes q
  let free := (List.range 256).filter fun n => !c.slotTaken n
  if free.length < sizes.length then none
  else
    let shared := (c.codeOf k).isSome
    match areasPlace c.areas (if shared then sizes else k.codekb * 1024 :: sizes) with
    | none => none
    | some (bs, l) => some (if shared then ⟨none, bs, l, free.take sizes.length⟩ else ⟨some (bs.headD 0), bs.drop 1, l, free.take sizes.length⟩)

/-- Records a tile holds: placed tasks and those in frames (R20). -/
def CDom.records (c : CDom) : Nat := c.placed.length + (c.frames.filter fun e => e.2.st != .free && decide (e.1 < 63)).length

/-- A tile is eligible for a task (R20). -/
def State.eligible (s : State) (p : Nat) (k : Task) (t : Nat) : Bool :=
  let h := s.hub (fieldOf t)
  h.powered && !h.excluded && h.crit.isNone && (s.tile t).powered && decide ((s.c t).records < 1024) && ((s.c t).layoutOf (s.part p) k).isSome

/-- The summed route length from the homes of a task's names to a tile. -/
def State.routeSum (s : State) (p : Nat) (k : Task) (t : Nat) : Nat :=
  (k.allSubs.flatMap fun q => ((s.part p).bindingFor q).regKeys q.name q.mask).foldl
    (fun n r => n + ((s.treePath (s.treeRoot p r.1) t).length - 1)) 0

/-- The scheduler's order of preference (R20): lower first. -/
def State.placeRank (s : State) (p : Nat) (k : Task) (t : Nat) : List Nat :=
  [if (s.c t).health then 1 else 0, if (s.hub (fieldOf t)).level = 0 then 0 else 1, s.routeSum p k t, (s.c t).records]

/-- Lists of numbers in lexicographic order. -/
def lexLt : List Nat → List Nat → Bool
  | [], [] => false
  | [], _ => true
  | _, [] => false
  | x :: xs, y :: ys => decide (x < y) || (x == y && lexLt xs ys)

/-- The slot of a task's subscription. -/
def taskSlot (p : Partition) (k : Task) (e : W64 × W64 × W64) (base : Nat) : Slot :=
  let q := (subOf e).1
  let b := p.bindingFor q
  { frame := none, taskId := k.taskId, localIx := (subOf e).2, base := base, off := 0, size := b.slotBytes q,
    sub := some ⟨.task, q.hi, q.lo, q.mask, q.next, false⟩, sections := b.sections q, full := false, ver := 0, fs := 0,
    inUse := 0, usedBy := [], emptyAsked := false, byTask := true }

/-- A task's slots, code and subscriptions on a tile (R16, R20); the task waits with the DEPCNT that is left. -/
def State.settle (s : State) (t p : Nat) (k : Task) (l : Layout) (st : TaskSt) (moveTo : Option Nat) : State :=
  let c := s.c t
  let q := s.part p
  let resident := match c.codeOf k with | some x => x.resident | none => false
  let fresh := (c.codeOf k).isNone
  let slots := (List.range k.subs.length).foldl (fun (m : AMap Slot) j => match k.subs[j]? with
    | some e => m.set (l.slots.getD j 0) (taskSlot q k e (l.bases.getD j 0))
    | none => m) c.slots
  let dep := k.subs.length + (if resident then 0 else 1)
  let k := { k with depcnt := dep }
  let c := { c with
    areas := l.areas, slots := slots
    codes := match l.code with | some b => c.codes ++ [⟨k.codeSub.name, nameVer k.codelo, b, k.codekb * 1024, false⟩] | none => c.codes
    placed := c.placed ++ [⟨k, match st with | .waiting => if dep = 0 then .ready else .waiting | o => o, l.slots, resident, s.quartz, none, false,
                            moveTo, (k.subs.map fun e => (q.bindingFor (subOf e).1 |>.regKeys (subOf e).1.name (subOf e).1.mask).length).foldl (· + ·)
                              (if fresh then 1 else 0), fresh⟩] }
  let s := s.setC t c
  let s := if fresh then s.registerCode t k else s
  (List.range k.subs.length).foldl (fun s j => match k.subs[j]? with
    | some e => s.register t (l.slots.getD j 0) none k.taskId (subOf e).1
    | none => s) s

/-- TASK_PLACEMENT (R20): a task of a field's queue fails its checks and is aborted, or is placed on tile t, which no
eligible tile betters; a tile of another field only where none of the field is eligible. -/
def execTaskPlacement (field : Nat) (taskId : BitVec 32) (t : Nat) (s : State) : Host.Outcome State Fault Refusal :=
  onField field s fun s =>
    match (s.hub field).queue.find? fun q => q.task.taskId == taskId with
    | none => s
    | some q =>
      let off (s : State) : State := s.modHub field fun h => { h with queue := h.queue.filter fun x => x.task.taskId != taskId }
      match q.task.placeFault (s.part q.part) with
      | some i =>
        let s := (off s).modPart q.part fun p => { p with taskIds := p.taskIds.filter (· != taskId) }
        s.taskRecord (.hub field) q.part 3 taskId i
      | none =>
        let tilesOf (f : Nat) : List Nat := (List.range 160).map (160 * f + ·)
        let ok := s.eligible q.part q.task
        let own := (tilesOf field).filter ok
        let rivals := if fieldOf t = field then own else tilesOf (fieldOf t)
        let rank := s.placeRank q.part q.task
        if !(s.part q.part).tiles.contains t || !ok t || (fieldOf t != field && !own.isEmpty) ||
            rivals.any (fun u => ok u && lexLt (rank u) (rank t)) then s
        else match (s.c t).layoutOf (s.part q.part) q.task with
          | some l => (off s).settle t q.part q.task l .waiting none
          | none => s

/-- Every placed record changed by g. -/
def CDom.mapPlaced (c : CDom) (g : Placed → Placed) : CDom := { c with placed := c.placed.map g }

/-- The record of a task on a tile changed by g. -/
def CDom.modPlaced (c : CDom) (taskId : BitVec 32) (g : Placed → Placed) : CDom :=
  c.mapPlaced fun q => if q.task.taskId = taskId then g q else q

/-! ### Satisfaction (R19, R78) -/

/-- A subscription of a task is satisfied: DEPCNT counts down, and at 0 the task enters the ready queue (R19, R23). -/
def Placed.satisfied (q : Placed) (now : Nat) : Placed :=
  let n := q.task.depcnt - 1
  { q with
    task := { q.task with depcnt := n }
    st := if n = 0 && q.st == .waiting then .ready else q.st
    entered := if n = 0 && q.st == .waiting then now else q.entered }

/-- A slot is full: a task's subscription is satisfied and pruned; that of a SUBN is satisfied and stays (R78). -/
def State.slotFull (s : State) (t k : Nat) : State :=
  match (s.c t).slots.get? k with
  | none => s
  | some x =>
    match x.sub with
    | none => s
    | some q =>
      let s := s.modC t fun c => c.modSlot k fun x => { x with full := true, sub := some { q with satisfied := true } }
      match q.kind with
      | .task =>
        let s := s.modC t fun c => c.modPlaced x.taskId fun y => if y.st = .moving then y else y.satisfied s.quartz
        s.prune t k none x.taskId ⟨q.hi, q.lo, q.mask, q.next⟩
      | _ => s

/-- A slot all of whose sections hold the version they resolved to. -/
def Slot.complete (x : Slot) : Bool :=
  !x.sections.isEmpty && x.sections.all fun q => q.filled && q.resolved.isSome && q.ver == q.resolved

/-- A placed task waits for a version of a name as its code (R16). -/
def Placed.awaitsCode (y : Placed) (name : TileName) (ver : BitVec 16) : Bool :=
  y.task.codeSub.name == name && nameVer y.task.codelo == ver && !y.codeSat

/-- A task that is parked before it was activated. -/
def TaskSt.isParked : TaskSt → Bool | .parked _ => true | _ => false

/-- The code copy is resident: every task that waits for it has its code subscription satisfied (R16); for a parked one that is held (R389). -/
def State.codeLands (s : State) (t : Nat) (x : CodeCopy) (bytes : List Byte) : State :=
  let q : SubReq := ⟨x.name.hi, x.name.lo x.ver, 0, false⟩
  let waits (y : Placed) : Bool := y.awaitsCode x.name x.ver && y.st != .moving && !y.st.isParked
  let s := s.modC t fun c =>
    let codes := c.codes.map fun y => if y = x then { y with resident := true } else y
    let c := { c with scratch := c.scratch.writeBytes x.base (bytes.take x.size), codes := codes }
    c.mapPlaced fun y => if waits y then { (y.satisfied s.quartz) with codeSat := true } else y
  s.prune t codeSlot none 0 q

/-! ### Deliveries (R78, R88, R90, R319) -/

/-- A copy reaches a section: taken, provisional while its version is not resolved, or dropped. -/
def Section.take (q : Section) (ver : BitVec 16) : Option Section :=
  match q.resolved with
  | some v => if v = ver && !q.filled then some { q with ver := some ver, filled := true } else none
  | none => some { q with ver := some ver, filled := true }

/-- A copy offered to one slot: the slot's sections of its name take it, its bytes land at their pitch. -/
def State.offer (s : State) (t k : Nat) (m : NameMsg) : Bool × State :=
  match (s.c t).slots.get? k with
  | none => (false, s)
  | some x =>
    match x.sub with
    | none => (false, s)
    | some q =>
      if q.satisfied || q.kind == .stream then (false, s)
      else
        let b := ((s.part (s.partOf t)).binding m.name.ns m.name.tensor).getD {}
        let pitch := b.tilesec * 128
        (List.range x.sections.length).foldl (fun (r : Bool × State) j =>
          match x.sections[j]? with
          | none => r
          | some y =>
            if y.name ≠ m.name then r
            else match y.take m.ver with
              | none => r
              | some z => (true, r.2.modC t fun c =>
                CDom.modSlot { c with scratch := c.scratch.writeBytes (x.base + pitch * j) (m.bytes.take pitch) } k
                  fun x => { x with sections := x.sections.set j z, ver := m.ver, fs := b.fs })) (false, s)

/-- After a copy or a reply: the slot is full where every section is complete. -/
def State.checkFull (s : State) (t k : Nat) : State :=
  match (s.c t).slots.get? k with
  | some x => if x.complete && !x.full then s.slotFull t k else s
  | none => s

/-- An element reaches an open stream of a frame: it lands in its position where that slot is EMPTY and it lies in the
window (R88). One in the window for which there is no room makes the subscriber go over to unicast requests (R88, R90); one outside it is
lost (R323, R358). -/
def State.streamTake (s : State) (t f : Nat) (x : Stream) (m : NameMsg) : Bool × State :=
  let ahead := (m.ver - x.v0 - BitVec.ofNat 16 x.cursor).toNat
  let k := x.cursor + ahead
  if !m.late && x.detached then (false, s)
  else
    match (s.c t).slotOf f (x.slotIx k) with
    | none => (false, s)
    | some (ph, q) =>
      if ahead < x.depth && !q.full then
        let fs := (((s.part (s.partOf t)).binding m.name.ns m.name.tensor).getD {}).fs
        let put (q : Slot) : Slot := { q with full := true, ver := m.ver, fs := fs, sections := q.sections.map fun y => { y with ver := some m.ver, filled := true } }
        let s := s.modC t fun c => CDom.modSlot { c with scratch := c.scratch.writeBytes q.base (m.bytes.take q.size) } ph put
        (true, s.modFrame t f fun fr => fr.modStream x.base fun x => { x with next := max x.next (k + 1) })
      else if !m.late && decide (ahead < x.depth) && q.ver != m.ver then (false, s.detachStream t f x)
      else (false, s)

/-- Deliveries for a task are held from its pre-empt marker until its restore (R389). -/
def Frame.holdsDeliveries (f : Frame) : Bool := match f.park with | .marked _ | .cutoff => true | _ => false

def State.heldBack (s : State) (t : Nat) (taskId : BitVec 32) : Bool :=
  ((s.c t).frames.any fun e => e.2.task.taskId == taskId && e.2.st != .free && e.2.holdsDeliveries) ||
    (s.c t).placed.any fun q => q.task.taskId == taskId && q.st.isParked

/-- Slots, with the streams of their frames, that a copy is addressed to. -/
def wantsCopy (slots : AMap Slot) (streams : List Stream) (m : NameMsg) : Bool :=
  if m.stream then streams.any fun x => x.name == m.name
  else slots.any fun e => e.2.sections.any fun q => q.name == m.name

/-- The tasks for which a copy is held. -/
def State.holders (s : State) (t : Nat) (m : NameMsg) : List (BitVec 32) :=
  let c := s.c t
  let code := c.placed.filter fun y => y.st.isParked && !m.stream && y.awaitsCode m.name m.ver
  let ids := ((c.slots.map (·.2.taskId)) ++ (s.tile t).slate.images.map (·.fr.task.taskId) ++ code.map (·.task.taskId)).eraseDups
  ids.filter fun id => code.any (fun y => y.task.taskId == id) ||
    ((s.tile t).slate.images.any fun x => x.fr.task.taskId == id && wantsCopy x.dom.slots x.fr.streams m) ||
      (s.heldBack t id && wantsCopy (c.slots.filter fun e => e.2.taskId == id)
        ((c.frames.filter fun e => e.2.task.taskId == id).flatMap (·.2.streams)) m)

/-- A stream copy goes to the open streams of its name; a unicast one names its task and base slot: whether one took it, and how many
did not. Where every stream of the name has gone over to unicast, a tree copy only gives its credit back. -/
def State.landStream (s : State) (t : Nat) (m : NameMsg) (ok : BitVec 32 → Bool) : (Bool × Nat) × State :=
  let targets := (s.c t).frames.flatMap fun e => if ok e.2.task.taskId then (e.2.streams.filter fun x => x.name == m.name &&
    (!m.late || (m.taskId == e.2.task.taskId && m.slot == x.base))).map fun x => (e.1, x) else []
  let live (x : Stream) : Bool := m.late || !x.detached
  let r := targets.foldl (fun (r : (Bool × Nat) × State) e =>
    let q := r.2.streamTake t e.1 e.2 m
    ((r.1.1 || q.1, if live e.2 && !q.1 then r.1.2 + 1 else r.1.2), q.2)) ((false, 0), s)
  if !m.late && !targets.isEmpty && targets.all (fun e => e.2.detached) then
    (r.1, r.2.post (.tile t) (.tile t) .nameCtl (.name .credit { name := m.name, stream := true, ver := m.ver, router := t, port := 4 }))
  else r

/-- A copy is offered to the sections of the slots of some tasks. -/
def State.landSlots (s : State) (t : Nat) (m : NameMsg) (ok : BitVec 32 → Bool) : Bool × State :=
  ((s.c t).slots.filter fun e => ok e.2.taskId).foldl (fun r e =>
    let q := r.2.offer t e.1 m
    (r.1 || q.1, if q.1 then q.2.checkFull t e.1 else q.2)) (false, s)

/-- A section that a copy reaches drops one (R78): the copy, which is of another version or a later one, or the provisional copy that it
held before. -/
def Section.drops (q : Section) (ver : BitVec 16) : Bool := (q.take ver).isNone || (q.resolved.isNone && q.filled)

/-- The sections of a slot that drop a copy as one of their name arrives (R78). -/
def Slot.refuses (x : Slot) (m : NameMsg) : Nat :=
  match x.sub with
  | none => 0
  | some q =>
    let mine := x.sections.filter fun y => y.name == m.name
    match q.kind with
    | .stream => 0
    | .task => if q.satisfied then 0 else (mine.filter fun y => y.drops m.ver).length
    | .subn => (mine.filter fun y => q.satisfied || y.drops m.ver).length

/-- A copy offered to the slots or streams of some tasks of a tile, with every drop of a section or stream, or of the whole copy where
it met none, counted (R78, R323). `other` where something else took or holds it. -/
def State.landFor (s : State) (t : Nat) (m : NameMsg) (ok : BitVec 32 → Bool) (other : Bool) : State :=
  if m.stream then
    let r := s.landStream t m ok
    r.2.countT t 8 (if r.1.1 || other || r.1.2 != 0 then r.1.2 else 1)
  else
    let n := ((s.c t).slots.filter fun e => ok e.2.taskId).foldl (fun n e => n + e.2.refuses m) 0
    let r := s.landSlots t m ok
    r.2.countT t 2 (if r.1 || other || n != 0 then n else 1)

/-- A copy of a tile, or of a stream's element, lands: code copies, sections of slots, positions of streams. For a parked task it is
held; one that nothing takes is dropped and counted (R78, R389). -/
def State.landOne (s : State) (t : Nat) (m : NameMsg) : State :=
  let held := s.holders t m
  let s := s.modN t fun n => { n with heldDeliveries := n.heldDeliveries ++ held.map fun id => (id, m) }
  let ok (id : BitVec 32) : Bool := !held.contains id
  let code := if m.stream then none else (s.c t).codes.find? fun x => x.name == m.name && x.ver == m.ver && !x.resident
  let s := match code with | some x => s.codeLands t x m.bytes | none => s
  s.landFor t m ok (code.isSome || !held.isEmpty)

/-- A copy with the parts it carries (R79). -/
def NameMsg.parts (m : NameMsg) : List NameMsg :=
  if m.both then [{ m with both := false, stream := false }, { m with both := false, stream := true }] else [m]

/-- A copy lands on a tile. -/
def State.land (s : State) (t : Nat) (m : NameMsg) : State := m.parts.foldl (fun s x => s.landOne t x) s

/-- A delivery held for a task is released: its code, which is resident, satisfies the task's code subscription; the rest lands. -/
def State.releaseOne (s : State) (t : Nat) (taskId : BitVec 32) (m : NameMsg) : State :=
  let code (y : Placed) : Bool := y.task.taskId == taskId && !m.stream && y.awaitsCode m.name m.ver
  let resident (y : Placed) : Bool := ((s.c t).codeOf y.task).any (·.resident)
  let s' := s.modC t fun c => c.mapPlaced fun y =>
    if code y && resident y && y.st != .moving then { (y.satisfied s.quartz) with codeSat := true } else y
  s'.landFor t m (· == taskId) ((s.c t).placed.any code)

/-- The deliveries held for a task are released in order (R393 step 4). -/
def State.releaseDeliveries (s : State) (t : Nat) (taskId : BitVec 32) : State :=
  let l := (s.n t).heldDeliveries.filter fun e => e.1 == taskId
  let s := s.modN t fun n => { n with heldDeliveries := n.heldDeliveries.filter fun e => e.1 != taskId }
  l.foldl (fun s e => s.releaseOne t taskId e.2) s

/-- The deliveries held for a task that goes are dropped and counted: elements of its streams (R325), copies of its slots (R78). -/
def State.dropHeld (s : State) (t : Nat) (taskId : BitVec 32) : State :=
  let l := (s.n t).heldDeliveries.filter fun e => e.1 == taskId
  let s := s.modN t fun n => { n with heldDeliveries := n.heldDeliveries.filter fun e => e.1 != taskId }
  (s.countT t 8 (l.filter fun e => e.2.stream).length).countT t 2 (l.filter fun e => !e.2.stream).length

/-- The bytes a delivery takes in the inbound log (R144, R149; log entry 3: DESIGN CHOICE, safe). -/
def NameMsg.logBytes (m : NameMsg) : Nat := m.bytes.length + 32

/-- Commits of the commit log that have been made, or made again in a replay. -/
def Slate.progress (l : Slate) : Nat := l.commitlog.length - l.replayLeft.length

/-- A delivery enters the inbound log (R148). -/
def State.logDelivery (s : State) (t : Nat) (m : Msg) (n : Nat) : State :=
  s.modSlate t fun l => { l with inlog := l.inlog ++ [.delivery m l.progress], inBytes := l.inBytes + n }

/-- A delivery stands in the inbound log. -/
def Slate.logs (l : Slate) (x : NameMsg) : Bool :=
  l.inlog.any fun e => match e with | .delivery m _ => (match m.body with | .name .copy y => y.parts.contains x | _ => false) | _ => false

/-- The bytes that the deliveries held for parked frames keep in the inbound log beyond D (R389). -/
def State.heldBytes (s : State) (t : Nat) : Nat :=
  ((((s.n t).heldDeliveries.map (·.2)).eraseDups.filter fun x => !(s.tile t).slate.logs x).map NameMsg.logBytes).foldl (· + ·) 0

/-- The inbound log has room (R149). -/
def State.logRoom (s : State) (t n : Nat) : Bool := decide ((s.tile t).slate.inBytes + s.heldBytes t + n ≤ 262144)

/-- TILE_DELIVERY (R78): a copy or an element reaches its tile, or waits: at the ingress while the inbound log is full (R149), at the router
while the tile revives (R95, R394). -/
def execTileDelivery (m : Nat) (s : State) : Host.Outcome State Fault Refusal :=
  match s.net[m]? with
  | some ⟨src, .tile t, cls, .name .copy x, b, sm⟩ =>
    if s.arrivable m && (s.tile t).powered && !(s.tile t).slate.replaying && s.logRoom t x.logBytes then
      .next (((s.dropMsg m).logDelivery t ⟨src, .tile t, cls, .name .copy x, b, sm⟩ x.logBytes).land t x)
    else .next s
  | _ => .next s

/-! ### Activation (R21, R23 to R25, R98) -/

/-- x is served before y (R23). -/
def Placed.before (x y : Placed) : Bool :=
  if x.task.prio ≠ y.task.prio then decide (x.task.prio > y.task.prio)
  else if x.task.stage ≠ y.task.stage then decide (x.task.stage < y.task.stage)
  else if x.entered ≠ y.entered then decide (x.entered < y.entered)
  else decide (x.task.taskId.toNat < y.task.taskId.toNat)

/-- READY tasks in the order of R23. -/
def CDom.readyQueue (c : CDom) : List Placed := (c.placed.filter fun q => q.st == .ready).mergeSort fun x y => x.before y

/-- The areas a task takes at activation (R21): private, scratch, stash. -/
def Task.frameSizes (k : Task) : List Nat := [k.privkb * 1024, k.scrkb * 1024, k.stashu * 65536]

/-- The task's own areas fit. -/
def CDom.frameFits (c : CDom) (k : Task) : Bool := (areasPlace c.areas k.frameSizes).isSome

/-- The next key of a field hub's counter that no frame holds (R98): the count it leaves and the key. -/
def Hub.nextKey (h : Hub) (ord : Nat) : Nat × BitVec 20 :=
  let key (k : Nat) : BitVec 20 := BitVec.ofNat 20 (ord * 16384 + (h.keyCtr + k) % 16384)
  match (List.range 16384).find? fun k => !h.keys.contains (key k) with
  | some k => ((h.keyCtr + k + 1) % 16384, key k)
  | none => (h.keyCtr, key 0)

/-- The frame of a task at activation (R25 steps 2 to 4). Where two entries of the record name one tile-slot index, both physical
slots stay mapped to the task and the later entry takes the index (log 56: DESIGN CHOICE, unsafe). -/
def State.newFrame (s : State) (t : Nat) (q : Placed) (bs : List Nat) (key : BitVec 20) : Frame :=
  let slots := q.slots.foldl (fun (m : AMap Nat) k => match (s.c t).slots.get? k with
    | some x => m.set x.localIx k
    | none => m) []
  { st := .active, regs := AMap.set (AMap.set [] 0 q.task.arg0) 1 q.task.arg1, task := q.task, key := key, part := s.partOf t, slots := slots,
    codeBase := match (s.c t).codeOf q.task with | some x => x.base | none => 0
    privBase := bs.getD 0 0, scrBase := bs.getD 1 0, stashBase := bs.getD 2 0 }

/-- A task is activated in frame f with its entry instance in entry e (R25). -/
def State.activate (s : State) (t f e : Nat) (q : Placed) (bs : List Nat) (areas : List (Nat × Nat)) : State :=
  let h := fieldOf t
  let nk := (s.hub h).nextKey (s.fieldOrdinal t)
  let fr := s.newFrame t q bs nk.2
  let s := s.modHub h fun x => { x with keyCtr := nk.1, keys := x.keys ++ [nk.2] }
  let tag := tagWord f (instNum e ((s.c t).nextGen e)) 0 0
  let s := s.modPart fr.part fun p => { p with ran := p.ran.set q.task.taskId.toNat ⟨t, f, q.task.stage, q.task.entry, tag⟩ }
  s.modC t fun c =>
    let slots := c.slots.mapVal fun x => if x.byTask ∧ x.taskId = q.task.taskId ∧ x.frame = none then { x with frame := some f } else x
    let c := { c with areas := areas, slots := slots, placed := c.placed.filter fun y => y.task.taskId != q.task.taskId }.setFrame f fr
    let r := c.enterAt e { Inst.blank f with block := q.task.entry, entry := true }
    let c := (r.2.modInst r.1 fun i => { i with ordinal := 0 }).modFrame f fun fr => { fr with ord0 := 0 }
    c.start r.1 0 0 [entryTok]

/-- The task has been passed over for 65,536 ticks. -/
def Placed.passedLong (q : Placed) (now : Nat) : Bool := match q.passed with | some p => decide (now ≥ p + 65536) | none => false

/-- The task that is activated next, if one can be, and the tasks passed over before it (R24, R25). -/
def CDom.pickReady (c : CDom) (allow : Bool) (now : Nat) : List Placed → Bool → List Placed → Option Placed × List Placed
  | [], _, over_ => (none, over_)
  | q :: l, held, over_ =>
    let needs := q.task.frameSizes.any (· != 0)
    if allow && c.frameFits q.task && !(held && needs) then (some q, over_)
    else CDom.pickReady c allow now l (held || q.reserving || q.passedLong now) (over_ ++ [q])

/-- Tasks are passed over from now on, where they were not before (R24). -/
def State.passOver (s : State) (t : Nat) (l : List Placed) : State :=
  let past (y : Placed) : Bool := l.any (fun x => x.task.taskId == y.task.taskId) && y.passed.isNone
  s.modC t fun c => c.mapPlaced fun y => if past y then { y with passed := some s.quartz } else y

/-- ACTIVATION (R25): the first READY task in order that fits receives the lowest free frame; those passed over are
marked with the tick. The throttle is checked before a frame is looked for: where it does not allow the entry instance, every READY task
is passed over; without a free frame they stay READY. A restore that has waited for 65,536 ticks reserves as a task does (R393). -/
def execActivation (t : Nat) (s : State) : Host.Outcome State Fault Refusal :=
  onTile t s fun s =>
    let c := s.c t
    match (List.range 63).find? fun f => (c.frame f).st == .free, c.freeEntry with
    | some f, some e =>
      if !(s.tile t).powered then s
      else
        let restores := (s.tile t).slate.images.any fun x => x.asked && match x.passed with | some k => decide (s.quartz ≥ k + 65536) | none => false
        let r := c.pickReady (c.throttleAllows 0) s.quartz c.readyQueue restores []
        let s := s.passOver t r.2
        match r.1 with
        | none => s
        | some q => match areasPlace c.areas q.task.frameSizes with
          | some (bs, areas) => s.activate t f e q bs areas
          | none => s
    | _, _ => if !(s.tile t).powered || c.throttleAllows 0 then s else s.passOver t c.readyQueue

/-- TASK_RESERVING (R24): a task passed over for 65,536 ticks. -/
def execTaskReserving (t : Nat) (taskId : BitVec 32) (s : State) : Host.Outcome State Fault Refusal :=
  onTile t s fun s => s.modC t fun c => c.modPlaced taskId fun q =>
    if q.st == .ready && q.passedLong s.quartz then { q with reserving := true } else q

/-! ### Moves (R22) -/

/-- A task's slots on a tile are given back, its unsatisfied subscriptions pruned. -/
def State.dropTaskSlots (s : State) (t : Nat) (taskId : BitVec 32) (slots : List Nat) : State :=
  slots.foldl (fun s k => match (s.c t).slots.get? k with
    | some x =>
      let s := match x.sub with
        | some q => if q.satisfied then s else s.prune t k none taskId ⟨q.hi, q.lo, q.mask, q.next⟩
        | none => s
      s.modC t fun c => CDom.freeArea { c with slots := c.slots.erase k } x.base x.size
    | none => s) s

/-- A record leaves a tile with everything it holds there (R16, R22). -/
def State.unplace (s : State) (t : Nat) (q : Placed) : State :=
  let s := s.modC t fun c => { c with placed := c.placed.filter fun y => y.task.taskId != q.task.taskId }
  (s.dropTaskSlots t q.task.taskId q.slots).releaseCode t q.task

/-- The deliveries held for a task go with it to another tile, in their order (R393 step 3). -/
def State.forwardHeld (s : State) (src dst : Nat) (id : BitVec 32) : State :=
  let held := (s.n src).heldDeliveries.filter fun e => e.1 == id
  let s := s.modN src fun n => { n with heldDeliveries := n.heldDeliveries.filter fun e => e.1 != id }
  s.modN dst fun n => { n with heldDeliveries := n.heldDeliveries ++ held }

/-- The start of a move (R22 steps 1 to 3): the record stands on both tiles, and the old tile's registrations are pruned. What was held for
a parked task lands at the new tile (R393). -/
def State.startMove (s : State) (src dst : Nat) (q : Placed) : State :=
  let p := s.partOf src
  match (s.c dst).layoutOf (s.part p) q.task with
  | none => s
  | some l =>
    let s := s.modC src fun c => c.modPlaced q.task.taskId fun y => { y with st := .moving, moveTo := some dst }
    let s := s.dropTaskSlots src q.task.taskId q.slots
    let s := s.modC src fun c => c.modPlaced q.task.taskId fun y => { y with slots := [] }
    ((s.settle dst p q.task l .moving (some src)).forwardHeld src dst q.task.taskId).releaseDeliveries dst q.task.taskId

/-- MOVE_COMPLETE (R22): every re-registration is acknowledged at the new tile t, whose DEPCNT is recomputed; the old tile's
forwarding entry goes. -/
def execMoveComplete (t : Nat) (taskId : BitVec 32) (s : State) : Host.Outcome State Fault Refusal :=
  onTile t s fun s =>
    match (s.c t).placed.find? fun q => q.task.taskId == taskId && q.st == .moving && q.acks == 0 with
    | none => s
    | some q =>
      match q.moveTo with
      | none => s
      | some old =>
        if (s.c old).placed.all (fun y => !(y.task.taskId == taskId && y.moveTo == some t)) then s
        else
          let c := s.c t
          let code := match c.codeOf q.task with | some x => x.resident | none => false
          let open_ := (q.slots.filter fun k => match c.slots.get? k with | some x => !x.full | none => true).length
          let dep := open_ + (if code then 0 else 1)
          let s := s.modC t fun c => c.modPlaced taskId fun y => { y with
            task := { y.task with depcnt := dep }, st := if dep = 0 then .ready else .waiting, entered := s.quartz, codeSat := code, moveTo := none }
          match (s.c old).placed.find? fun y => y.task.taskId == taskId with
          | some y => s.unplace old y
          | none => s

/-! ### The end of a frame (R27, R34, R83, R336, R383) -/

/-- The elements in a stream's slots that no SPOP has taken (R325). -/
def CDom.leftIn (c : CDom) (f : Nat) (x : Stream) : Nat :=
  ((List.range x.depth).filter fun j => match c.slotOf f (x.base + j) with
    | some (_, q) => q.full && !x.keptSlots.any fun y => y.1 == x.base + j
    | none => false).length

/-- Every stream of a frame is closed, the elements left in it counted as dropped, and its SUBN subscriptions are removed (R325, R336);
what D does not cover waits (R337). -/
def State.closeSubs (s : State) (t f : Nat) : State :=
  let fr := s.frame t f
  let prune (s : State) (x : NameMsg) : State := s.sendHeld t ⟨s.pruneMsg t fr.part x, f, 0, 0, 0, none⟩
  let s := fr.streams.foldl (fun s x => prune (x.keptSlots.foldl (fun s e => s.dropLate t e.2) (s.countT t 8 ((s.c t).leftIn f x))) (x.msg t f fr.task.taskId)) s
  let s := (s.c t).slots.foldl (fun s e => match e.2.sub with
    | some q => if e.2.frame == some f && q.kind == .subn then
        (s.regMsgs t e.2.subnIx (some f) fr.task.taskId ⟨q.hi, q.lo, q.mask, q.next⟩).foldl prune s else s
    | none => s) s
  let goes (x : Slot) : Bool := x.frame == some f && (match x.sub with | some q => q.kind != .task | none => false)
  let drop (x : Slot) : Slot := if goes x then { x with sub := none } else x
  s.modC t fun c => CDom.modFrame { c with slots := c.slots.mapVal drop } f fun fr => { fr with streams := [] }

/-- The frame's engine operations are joined and its writes drained at host scope (R27 steps 3 and 4, R141, R293, R383). -/
def State.frameQuiet (s : State) (t f : Nat) : Bool :=
  let c := s.c t
  !(c.copies.any fun x => x.frame == f) && !c.accBusy f && (c.pend.all fun q => q.frame != f || s.pendDone t q 3) && !(c.outq.any fun h => h.frame == f) &&
    (c.frame f).claims.all fun x => x.answer.isSome

/-- Late tokens that a frame's stores, copies and streams still owe (R50). -/
def CDom.frameLates (c : CDom) (f : Nat) : List Late :=
  ((c.pend.filter fun q => q.frame == f).flatMap fun q => q.done.toList ++ q.val.toList) ++
    ((c.copies.filter fun x => x.frame == f).filterMap (·.done)) ++ (c.frame f).streams.flatMap fun x => x.keptSlots.filterMap (·.2)

/-- Loads that wait in a frame's stash are answered no more: the tokens dropped (R49, R50). -/
def CDom.dropStashLoads (c : CDom) (f : Nat) : Nat × CDom :=
  let l := ((c.stash.filter fun x => x.frame == f).flatMap fun x => x.sectors.flatMap (·.loads))
  l.foldl (fun (r : Nat × CDom) e => let o := r.2.orphanReply e.1 e.2.1; (if o.1 then r.1 + 1 else r.1, o.2)) (0, c)

/-- A step armed for a frame goes with it (R428). -/
def State.disarm (s : State) (p t f : Nat) : State :=
  if (s.part p).hdstep = some (t, f) then s.modPart p fun q => { q with hdstep := none } else s

/-- The frame and everything it holds on its tile return (R27 step 6); the tokens its operations still owe are dropped and
counted (R49, R309). -/
def State.freeFrame (s : State) (t f : Nat) : State :=
  let fr := s.frame t f
  let s := s.freeTask t f
  let s := (s.disarm fr.part t f).dropHeld t fr.task.taskId
  let s := s.modHub (fieldOf t) fun h => { h with pairs := h.pairs.filter fun e => e.1 != fr.task.taskId }
  let s := s.countT t 0 (((s.c t).frameLates f).length + ((s.c t).dropStashLoads f).1)
  let s := s.modC t fun c =>
    let c := (c.dropStashLoads f).2
    let c := (c.frameLates f).foldl (fun (c : CDom) l => c.subDue l.inst 1) c
    let mine := c.slots.filter fun e => e.2.frame == some f
    let c := mine.foldl (fun (c : CDom) e => if e.2.byTask then c.freeArea e.2.base e.2.size else c) c
    let c := { c with
      slots := c.slots.keep fun _ x => x.frame != some f
      accs := c.accs.keep fun _ x => x.frame != some f
      ags := c.ags.keep fun _ x => x.frame != f
      stash := c.stash.filter fun x => x.frame != f
      rxAsked := c.rxAsked.filter fun x => x.1 != f
      pend := c.pend.filter fun x => x.frame != f }
    let c := ((c.freeArea fr.privBase (fr.task.privkb * 1024)).freeArea fr.scrBase (fr.task.scrkb * 1024)).freeArea fr.stashBase (fr.task.stashu * 65536)
    c.setFrame f {}
  s.releaseCode t fr.task

/-- The claims of a task are released at their names' homes (R83, event CLAIM_RELEASE_AT_HOME). -/
def State.releaseClaims (s : State) (t f : Nat) : State :=
  let fr := s.frame t f
  ((fr.claims.filter fun x => x.answer == some true).map (·.name)).eraseDups.foldl
    (fun s n => s.toHome (.tile t) fr.part .claimRel { name := n, frame := some f, taskId := fr.task.taskId }) s

/-- The completion publish of a task (R27 step 5): zero bytes, marked as such, needing no claim. -/
def State.completion (s : State) (t f : Nat) : State :=
  let fr := s.frame t f
  if !fr.task.doneen then s
  else
    let n := nameOf fr.task.donehi fr.task.donelo
    let sec := match (s.part fr.part).binding n.ns n.tensor with | some b => b.tilesec | none => 0
    s.post (.tile t) (s.nameAgent fr.part n) .nameData
      (.name .publish { name := n, ver := nameVer fr.task.donelo, who := .tile t, frame := some f, taskId := fr.task.taskId,
                        bytes := List.replicate (sec * 128) 0, completion := true, tick := s.tick })

/-- FRAME_END_DONE (R27): the frame has ended and is quiet, and D covers its entry (R337); the completion name is published, claims are
released and the frame is freed. A claim refused after the end aborts the task by record (R83). -/
def execFrameEndDone (t f : Nat) (s : State) : Host.Outcome State Fault Refusal :=
  onTile t s fun s =>
    let fr := s.frame t f
    if fr.st ≠ .ending ∨ fr.abortRec.isSome ∨ fr.park ≠ .none ∨ !s.frameQuiet t f ∨ !s.covered t f then s
    else
      match fr.claims.find? fun x => x.answer == some false with
      | some x =>
        let i : FaultInfo := { cause := .namecfg, cw1 := 5, cw2 := x.name.hi, cw3 := x.name.lo 0 }
        let ws := recordWords s.tick i.cause.code 0 0 0 8 t f fr.task.stage 0 fr.task.taskId 0 0 (w64 (s.c t).commitSeq) i
        ((s.publishRecord (.tile t) fr.part faultTensor fr.task.taskId false ws).releaseClaims t f).freeFrame t f
      | none => (((s.completion t f).releaseClaims t f).freeFrame t f)

end Sys2Proof.Machine
end

