-- ==== Sys2Proof/Machine/Effects.lean ====
section
/-! DEFINITION. What each buffered effect does at the commit of its block instance (R32, R140, R296, R304, R312 to R340, R342):
the numbers of outbound effects and their comparison in a replay (R148), late and held tokens, stores, engines. -/

namespace Sys2Proof.Machine

/-! ### A commit in progress -/

/-- A commit being computed: the state so far, the instance that commits with its number, the commit's sequence number,
the next outbound number, the tokens it will deliver, the bundle and fault of an effect that keeps it from happening, and
the bundle and tag of a BRK, and the
bundle and fault of an operation on a name whose claim was refused. -/
structure Com where
  s : State
  t : Nat
  n : Nat
  i : Inst
  seq : Nat
  oseq : Nat
  toks : List HeldTok
  bad : Option (Nat × FaultInfo)
  brk : Option (Nat × BitVec 4)
  refused : Option (Nat × FaultInfo) := none

def Com.f (k : Com) : Nat := k.i.frame

def Com.mod (k : Com) (g : State → State) : Com := { k with s := g k.s }

def Com.modC (k : Com) (g : CDom → CDom) : Com := k.mod fun s => s.modC k.t g

def Com.modFrame (k : Com) (g : Frame → Frame) : Com := k.mod fun s => s.modFrame k.t k.f g

def Com.frame (k : Com) : Frame := k.s.frame k.t k.f

/-- The site of a bundle of the committing instance, and of one of its effects (log 11: DEDUCED, unsafe). -/
def Com.site (k : Com) (bun : Nat) : Site := ⟨k.n, k.i.ppath, k.i.ppd, k.i.block, bun⟩
def Com.at_ (k : Com) (e : Eff) : At := ⟨⟨k.n, e.p, e.pd, k.i.block, e.bun⟩, e.slot, 0⟩

/-- An effect that cannot take place: the commit does not happen (R148, R316, R319, R346). The first counts. -/
def Com.fail (k : Com) (bun : Nat) (i : FaultInfo) : Com := if k.bad.isSome then k else { k with bad := some (bun, i) }

/-- A token that fires after the commit (R50, R65, R133, R312): owed to its instance; one that stays inside is dropped and counted
when it fires (R49). -/
def Com.late (k : Com) (h : Option HeldTok) : Option Late × Com :=
  match h with
  | none => (none, k)
  | some h =>
    let l : Late := ⟨k.f, k.n, k.i.ctx, h⟩
    (some l, k.modC fun c => c.oweLate l)

/-- A token that fires with the commit's held tokens. -/
def Com.hold (k : Com) (h : Option HeldTok) (v : Val) : Com :=
  match h with
  | some h => { k with toks := k.toks ++ [{ h with val := v }] }
  | none => k

/-- An outbound effect is sent, one that waits for stores of its own commit after they have all been noted (R140); in a replay one whose number is in the outbound log is compared with its hash and suppressed
(R148). -/
def Com.emit (k : Com) (m : Msg) (o upto : Nat) (scope : BitVec 2) (need : Option (TileName × Nat)) : Com :=
  let l := (k.s.tile k.t).slate
  let seen := if k.frame.pmode then l.outlog.find? fun e => e.1 == o && e.2.1 == k.f else none
  match seen with
  | none =>
    let h : Held := ⟨m, k.f, o, upto, scope, need⟩
    let k := if upto = k.seq then k.modC fun c => { c with outq := c.outq ++ [h] } else k.mod fun s => s.sendHeld k.t h
    if l.replaying && k.frame.pmode && decide (o ≤ l.h) then k.mod fun s => s.modSlate k.t fun l => { l with draft := l.draft.set 5 (l.draft.getD 5 0 + w64 (2 ^ 32)) } else k
  | some (_, _, h) =>
    let k := k.mod fun s => s.modSlate k.t fun l => { l with draft := l.draft.set 5 (l.draft.getD 5 0 + 1) }
    if h = Config.effectHash m.body.plain then k.modC fun c => c.markAgain m.body
    else k.fail 0 { cause := .revdiv, slot := 8 }

/-- An outbound effect takes the next number of its tile (R32). -/
def Com.out (k : Com) (mk : Nat → Msg) (upto : Nat) (scope : BitVec 2) (need : Option (TileName × Nat)) : Com :=
  Com.emit { k with oseq := k.oseq + 1 } ((mk k.oseq).numbered k.oseq) k.oseq upto scope need

/-- Several outbound effects of one operation. -/
def Com.outAll (k : Com) (l : List (Nat → Msg)) : Com := l.foldl (fun k mk => k.out mk 0 0 none) k

/-- The done token of an operation whose n answers come back under the number of its first effect. -/
def Com.await (k : Com) (n : Nat) (h : Option HeldTok) : Com :=
  if n = 0 then k.hold h .order
  else
    let r := k.late h
    r.2.mod fun s => s.await k.t k.oseq n r.1

/-- A committed store or atomic of the home slice is noted (R132, R133, R136). -/
def Com.pend (k : Com) (q : Pend) : Com := k.modC fun c => { c with pend := c.pend ++ [q] }

/-! ### Stores (R32, R105, R137, R303) -/

/-- A STREL is written into the frame's own RX stash line at its commit, as any store (R105): every earlier store of its frame is performed at its scope
already (R137, R303; log 93: DEDUCED, unsafe). -/
def Com.strelNow (k : Com) (b : BufStore) (p : W64) : Bool :=
  k.s.performedUpTo k.t k.f b.scope (k.seq - 1) &&
    match (k.s.c k.t).stLine k.f (ptrOff p) with
    | some l => l.perm == 2
    | none => false

/-- One home-slice lane of a store: its write, and where it then stands. -/
def Com.homeLane (k : Com) (b : BufStore) (l : StLane) (span : Nat) (done : Option Late) : Com :=
  let data := toBytes l.data.toNat l.wb
  let a : At := ⟨k.site b.bun, 5, l.lane⟩
  let r := k.s.reqFor k.t k.f l.ptr .write l.wb (.pend k.oseq)
  let req : HomeReq := { r.2 with data := data, oseq := k.oseq, at_ := a }
  let m : Msg := ⟨.tile k.t, .tile r.1, .request, .home req, 0, false⟩
  let glob := ptrKind l.ptr == 0
  let q : Pend := ⟨k.f, k.oseq, k.seq, b.scope, glob, ptrOff l.ptr, .held, span, false, none, done, none, 0, Config.effectHash m.body.plain, false⟩
  let own (k : Com) : Com := k.mod fun s => s.writeAround k.t k.f (ptrOff l.ptr) data
  let askRx (k : Com) : Com := k.mod fun s => s.askRx k.t k.f (ptrOff l.ptr)
  let around (k : Com) : Com := (k.pend q).out (fun _ => m) (if b.release then k.seq - 1 else 0) (if b.release then b.scope else 0) none
  let sent := k.frame.pmode && (k.s.tile k.t).slate.outlog.any fun e => e.1 == k.oseq && e.2.1 == k.f
  if glob && decide (k.frame.task.stashu > 0) && !sent then
    if b.release && !k.strelNow b l.ptr then askRx (around (own (k.mod fun s => (s.pushAll k.t k.f).modC k.t fun c => c.shareLine k.f (ptrOff l.ptr))))
    else match k.s.stashStore k.t k.f (ptrOff l.ptr) data a with
      | some (at_, s) =>
        let k := Com.pend { k with s := s, oseq := k.oseq + 1 } { q with place := at_ }
        if b.scope = 0 then k else k.mod fun s => s.pushLine k.t k.f (ptrOff l.ptr)
      | none => askRx (around (own k))
  else around k

/-- The lanes of a store that leave the tile or stand in its stash, in order: its token fires with the last (R133). -/
def Com.homeLanes (k : Com) (b : BufStore) (done : Option Late) : List StLane → Nat → Com
  | [], _ => k
  | l :: ls, j => Com.homeLanes (k.homeLane b l j (if ls.isEmpty then done else none)) b done ls (j + 1)

/-- The local lanes of a buffered store are applied (ApplyStores of R32). -/
def Com.storeHere (k : Com) (b : BufStore) : Com :=
  let here := b.lanes.filter fun l => isLocal l.ptr
  let k := here.foldl (fun k l => k.modC fun c =>
    { c with scratch := c.scratch.writeBytes (k.frame.localAddr l.ptr) (toBytes l.data.toNat l.wb) }) k
  if here.length = b.lanes.length then k.hold b.done .order else k

/-- The lanes of a buffered store for the home slice are applied, as an outbound effect of its slot (R32). -/
def Com.storeAway (k : Com) (b : BufStore) : Com :=
  match b.lanes.filter fun l => !isLocal l.ptr with
  | [] => k
  | away => let r := k.late b.done; r.2.homeLanes b r.1 away 0

/-- A local atomic, among the stores of its bundle (R304). -/
def Com.localAtomic (k : Com) (e : Eff) (op wb : Nat) : Com :=
  let a := k.frame.localAddr e.a
  let old := fromBytes ((k.s.c k.t).scratch.readBytes a wb)
  let new := atomicNew op wb old (e.b.toNat % 256 ^ wb) (e.e.toNat % 256 ^ wb)
  let k := k.modC fun c => { c with scratch := c.scratch.writeBytes a (toBytes new wb) }
  (k.hold e.val (.scalar (w64 old))).hold e.done .order

/-- Effects of bundle b in slot order, those of one slot by the paths of their firings, then in the order they were buffered (R32). -/
def Inst.effsOf (i : Inst) (b : Nat) : List Eff :=
  (i.effs.filter fun e => e.bun == b).mergeSort fun x y =>
    decide (x.slot < y.slot ∨ (x.slot = y.slot ∧ pathRank x.p x.pd ≤ pathRank y.p y.pd))

/-- The local stores and atomics of bundle b (R32). -/
def Com.stores (k : Com) (b : Nat) : Com :=
  (k.i.effsOf b).foldl (fun k e => match e.op with
    | .atomic op wb _ => if isLocal e.a then k.localAtomic e op wb else k
    | _ => k) ((k.i.storesOf b).foldl Com.storeHere k)

/-- The frame-register writes of bundle b, by the paths of their firings, then in slot order (R32). -/
def Com.fwrites (k : Com) (b : Nat) : Com :=
  let rank (w : FWrite) : Nat := pathRank w.p w.pd
  let l := (k.i.fwrites.filter fun w => w.bun == b).mergeSort fun x y => decide (rank x < rank y ∨ (rank x = rank y ∧ x.slot ≤ y.slot))
  k.modFrame fun fr => { fr with regs := l.foldl (fun m w => AMap.set m w.reg w.val) fr.regs }

/-- An atomic of the home slice (R138, R304). -/
def Com.homeAtomic (k : Com) (e : Eff) (op wb : Nat) (scope : BitVec 2) : Com :=
  let v := k.late e.val
  let d := v.2.late e.done
  let k := d.2
  let r := k.s.reqFor k.t k.f e.a (.atomic op) wb (.pend k.oseq)
  let req : HomeReq := { r.2 with b := e.b, d := e.e, oseq := k.oseq, at_ := k.at_ e }
  let m : Msg := ⟨.tile k.t, .tile r.1, .request, .home req, 0, false⟩
  (k.pend ⟨k.f, k.oseq, k.seq, scope, ptrKind e.a == 0, ptrOff e.a, .held, 0, false, none, d.1, v.1, 0, 0, true⟩).out (fun _ => m) 0 0 none

/-! ### Name operations (R314 to R325) -/

/-- The name an effect takes. -/
def Eff.name (e : Eff) : TileName := nameOf e.a e.b

/-- The effect is an operation on a name. -/
def Eff.isName (e : Eff) : Bool :=
  match e.op with
  | .pubt | .pubr _ | .subn | .subnAgain | .claim | .retain | .sopen | .circ | .circrel | .coll _ => true
  | _ => false

/-- A message of the frame about the effect's name. -/
def Com.msg (k : Com) (e : Eff) (o : Nat) : NameMsg :=
  { name := e.name, ver := nameVer e.b, who := .tile k.t, frame := some k.f, taskId := k.frame.task.taskId, origin := o }

/-- A name-control effect for the name's home, with one answer. -/
def Com.control (k : Com) (e : Eff) (op : NameOp) (g : NameMsg → NameMsg) : Com :=
  let k := k.await 1 e.done
  let dst := k.s.nameAgent k.frame.part e.name
  k.out (fun o => ⟨.tile k.t, dst, .nameCtl, .name op { g (k.msg e o) with router := atDirectory }, 0, false⟩) 0 0 none

/-- The claims that a publish of outbound number o waits for, where the frame claimed its name (R316). -/
def Frame.claimed (fr : Frame) (n : TileName) (o : Nat) : Option (TileName × Nat) := if fr.claims.any fun x => x.name == n then some (n, o) else none

/-- A publish or a partial leaves with its release set (R140, R314 to R316). -/
def Com.publish (k : Com) (e : Eff) (op : NameOp) (bytes index : Nat) (mode : BitVec 2) : Com :=
  let k := k.await 1 e.done
  let p := k.s.part k.frame.part
  let data := (k.s.c k.t).scratch.readBytes (k.frame.localAddr e.e) bytes
  let scope : BitVec 2 := if p.crosses e.name.ns then 3 else 2
  let dst := k.s.nameAgent k.frame.part e.name
  let need := k.frame.claimed e.name k.oseq
  let k := k.out (fun o => ⟨.tile k.t, dst, .nameData, .name op { k.msg e o with bytes := data, index := index, mode := mode }, 0, false⟩)
    k.seq scope need
  let k := if op = .publish then k.modFrame fun fr => { fr with published := fr.published ++ [(e.name, nameVer e.b, k.seq)] } else k
  k.mod fun s => s.pushAll k.t k.f

/-- The binding of an effect's name, or a blank one. -/
def Com.binding (k : Com) (e : Eff) : Binding := ((k.s.part k.frame.part).binding e.name.ns e.name.tensor).getD {}

/-- The subscription of a SUBN (R319). -/
def Eff.subReq (e : Eff) : SubReq := ⟨e.a, e.b, e.e.extractLsb' 8 4, e.e.getLsbD 12⟩

/-- SUBN and SUBN again (R319): the slot carries the subscription, and its registrations or re-arms are sent. -/
def Com.subn (k : Com) (e : Eff) (again : Bool) : Com :=
  let q := e.subReq
  let b := k.binding e
  match (k.s.c k.t).slotOf k.f (bits e.e 7 0) with
  | none => k.fail e.bun { cause := .slotcfg, slot := e.slot }
  | some (ph, x) =>
    let k := if subnOk x again e.a e.b e.e b then k else k.fail e.bun { cause := .slotcfg, slot := e.slot }
    let k := k.modC fun c => c.modSlot ph fun x => { x with sub := some ⟨.subn, q.hi, q.lo, q.mask, q.next, false⟩, sections := b.sections q }
    let l := k.s.regMsgs k.t x.subnIx (some k.f) k.frame.task.taskId q
    let first := k.oseq
    let k := k.await l.length e.done
    let dst (x : NameMsg) : Agent := k.s.nameAgent k.frame.part x.name
    k.outAll (l.map fun x => fun _ => if again then
        ⟨.tile k.t, dst x, .nameCtl, .name .rearm { x with origin := first, router := atDirectory }, 0, false⟩
      else k.s.climbMsg k.t k.frame.part .reg { x with origin := first })

/-- The prunes of a list of registrations, with their answers (R80, R320, R325). -/
def Com.prunes (k : Com) (l : List NameMsg) (done : Option HeldTok) : Com :=
  let first := k.oseq
  let p := k.frame.part
  let k := k.await l.length done
  k.outAll (l.map fun x => fun _ => k.s.pruneMsg k.t p { x with origin := first })

/-- UNSUB (R320). Where an earlier operation of the commit took the subscription away, nothing happens (log 121: DESIGN CHOICE, unsafe). -/
def Com.unsub (k : Com) (e : Eff) : Com :=
  match (k.s.c k.t).slotOf k.f (bits e.a 7 0) with
  | none => k
  | some (ph, x) =>
    match x.sub with
    | none => k
    | some q =>
      let k := k.prunes (k.s.regMsgs k.t x.subnIx (some k.f) k.frame.task.taskId ⟨q.hi, q.lo, q.mask, q.next⟩) e.done
      (k.mod fun s => s.emptySlot k.t ph false).modC fun c => c.modSlot ph fun x => { x with sub := none, sections := [] }

/-- The slots of a stream changed. -/
def Com.streamSlots (k : Com) (base depth : Nat) (g : Slot → Slot) : Com :=
  (List.range depth).foldl (fun k j => match (k.s.c k.t).slotOf k.f (base + j) with
    | some (ph, _) => k.modC fun c => c.modSlot ph g
    | none => k) k

/-- SOPEN (R323). -/
def Com.sopen (k : Com) (e : Eff) : Com :=
  let base := bits e.e 7 0
  let depth := bits e.e 14 8
  let n := k.frame.opened + 1
  let st : Stream := ⟨base, depth, e.name, nameVer e.b, 0, 0, false, [], false, n, 0, []⟩
  let b := k.binding e
  let k := if (k.s.c k.t).sopenOk k.f e.e b then k else k.fail e.bun { cause := .slotcfg, slot := e.slot }
  let k := k.streamSlots base depth fun x => { x with sub := some ⟨.stream, e.a, e.b, 0, false, false⟩, sections := [⟨e.name, none, none, false⟩] }
  let k := k.modFrame fun fr => { fr with streams := fr.streams ++ [st], opened := n }
  let k := k.await 1 e.done
  let m := k.s.climbMsg k.t k.frame.part .reg { st.msg k.t k.f k.frame.task.taskId with origin := k.oseq }
  k.out (fun _ => m) 0 0 none

/-- SCLOSE (R325): the elements in the slots that no SPOP has taken are dropped and counted. -/
def Com.sclose (k : Com) (e : Eff) : Com :=
  match k.frame.stream? (bits e.a 7 0) with
  | none => k
  | some st =>
    let k := k.prunes [st.msg k.t k.f k.frame.task.taskId] e.done
    let k := st.keptSlots.foldl (fun k x => k.mod fun s => s.dropLate k.t x.2) k
    let k := k.mod fun s => s.countT k.t 8 ((s.c k.t).leftIn k.f st)
    let k := k.streamSlots st.base st.depth fun x => { x.cleared with sub := none, sections := [] }
    k.modFrame fun fr => { fr with streams := fr.streams.filter fun x => x.base != st.base }

/-- SPOP and SPOP keep (R324, R325): the cursor moves on; the position is released now, or by a later TSET empty. -/
def Com.spop (k : Com) (e : Eff) (keep : Bool) : Com :=
  match (k.frame.stream? e.a.toNat).filter fun y => y.open_ == e.e.toNat with
  | none => k
  | some st =>
    match (k.s.c k.t).slotOf k.f (st.slotIx st.cursor) with
    | none => k
    | some (ph, x) =>
      let ver := st.version st.cursor
      let ix := st.slotIx st.cursor
      let spent := st.spent.contains st.cursor
      let k := k.modFrame fun fr => fr.modStream st.base fun x =>
        { x with cursor := x.cursor + 1, next := max x.next (x.cursor + 1), spent := x.spent.filter (st.cursor < ·) }
      if keep && spent then k.modFrame fun fr => fr.modStream st.base fun x => { x with lost := x.lost + 1 }
      else if keep && x.full && x.ver == ver then
        let r := k.late e.done
        r.2.modFrame fun fr => fr.modStream st.base fun x => { x with keptSlots := x.keptSlots ++ [(ix, r.1)] }
      else
        let k := if x.full && x.ver == ver then k.modC fun c => c.modSlot ph Slot.cleared else k
        (k.mod fun s => match (s.frame k.t k.f).stream? st.base with
          | some x => s.streamCredit k.t k.f x ver
          | none => s).hold e.done .order

/-! ### The copy engine (R139, R326 to R328) -/

/-- The 128-byte chunks of n bytes from a: their offsets and lengths. -/
def chunks (a n : Nat) : List (Nat × Nat) :=
  let first := a / 128
  let last := (a + n - 1) / 128
  if n = 0 then []
  else (List.range (last - first + 1)).map fun j =>
    let lo := max a ((first + j) * 128)
    let hi := min (a + n) ((first + j + 1) * 128)
    (lo - a, hi - lo)

/-- The rows of a copy: source, destination and length (R326, R327). The offset of a row wraps within its window (log 110: DESIGN CHOICE,
unsafe). -/
def Eff.rows (e : Eff) (row : Option Nat) : List (W64 × W64 × Nat) :=
  match row with
  | none => [(e.b, e.a, e.e.toNat)]
  | some rs => (List.range e.lanes.length).map fun j =>
      (adda e.b (w64 ((e.lanes.getD j 0).toNat * rs)), adda e.a (w64 (j * rs)), rs)

/-- The key of the bytes of a row from an offset. -/
def copyKey (row off : Nat) : Nat := row * 2 ^ 25 + off

/-- The bytes of a row gathered so far. -/
def Copy.rowBytes (x : Copy) (row : Nat) : List Byte :=
  ((x.data.filter fun e => e.1 / 2 ^ 25 == row).map (·.2)).flatten

def CDom.modCopy (c : CDom) (id : Nat) (g : Copy → Copy) : CDom := { c with copies := c.copies.map fun x => if x.id = id then g x else x }

/-- A request of an engine leaves at the launch (R139), once D covers the frame's entry instance (R337). -/
def State.engineSend (s : State) (t f : Nat) (r : Nat × HomeReq) : State :=
  s.sendHeld t ⟨⟨.tile t, .tile r.1, .request, .home r.2, 0, false⟩, f, 0, 0, 0, none⟩

/-- Every source byte of a copy is read: the writes to home-slice destinations leave. -/
def State.copyWrites (s : State) (t id : Nat) : State :=
  match (s.c t).copies.find? fun x => x.id == id with
  | none => s
  | some x =>
    let wid := (s.c t).nextId
    let rows := (List.range x.rows.length).filterMap fun j => (x.rows[j]?).map fun r => (j, r)
    let reqs := rows.flatMap fun (j, _, dst, n) => if isLocal dst then [] else
      let data := x.rowBytes j
      (chunks (ptrOff dst) n).map fun (o, len) =>
        let r := s.reqFor t x.frame (dst + w64 o) .write len (.copyWrite wid)
        (r.1, { r.2 with data := (data.drop o).take len, at_ := x.at_ })
    let s := s.modC t fun c => CDom.modCopy { c with nextId := wid + 1 } id fun x => { x with reading := false, left := reqs.length, wid := wid }
    reqs.foldl (fun s r => s.engineSend t x.frame r) s

/-- Commits of durable frames that a tile has made, or made again in a replay, since it started. -/
def Slate.ordinal (l : Slate) : Nat := l.comBase + l.progress

/-- The number of a copy: that of a durable frame counts from its commit, so that a replay gives it again (R340). -/
def State.copyNum (s : State) (t : Nat) (durable : Bool) : Nat :=
  let ord := (s.tile t).slate.ordinal
  if durable then 2 * (65536 * ord + ((s.c t).copies.filter fun x => x.id % 2 == 1 && x.id / 131072 == ord).length) + 1 else 2 * (s.c t).nextId

/-- Source bytes of a copy that the inbound log holds, under its number (R340). -/
def Slate.copied (l : Slate) (id : Nat) : List (Nat × List Byte) :=
  l.inlog.filterMap fun e => match e with
    | .delivery m _ => (match m.body with
      | .homeReply r data _ => (match r.ret with
        | .copyRead i row off => if i = id then some (copyKey row off, data) else none
        | _ => none)
      | _ => none)
    | .reading _ _ _ _ _ => none

/-- A copy is launched (R326): local source bytes are read, reads of home-slice sources leave; a replay takes those that are logged
(R340). -/
def Com.copy (k : Com) (e : Eff) (row : Option Nat) : Com :=
  let rows := e.rows row
  let total : Nat := rows.foldl (fun n r => n + r.2.2) 0
  if total = 0 then k.hold e.done .order
  else
    let r := k.late e.done
    let k := r.2
    let c := k.s.c k.t
    let id := k.s.copyNum k.t k.frame.pmode
    let nums := (List.range rows.length).filterMap fun j => (rows[j]?).map fun r => (j, r)
    let data : AMap (List Byte) := nums.foldl (fun m (j, src, _, n) =>
      if isLocal src then AMap.set m (copyKey j 0) (c.scratch.readBytes (k.frame.localAddr src) n) else m) []
    let data := (if k.frame.pmode then (k.s.tile k.t).slate.copied id else []).foldl (fun m e => AMap.set m e.1 e.2) data
    let reads := nums.flatMap fun (j, src, _, n) => if isLocal src then [] else
      ((chunks (ptrOff src) n).filter fun q => !data.has (copyKey j q.1)).map fun (o, len) =>
        let q := k.s.reqFor k.t k.f (src + w64 o) .load len (.copyRead id j o)
        (q.1, { q.2 with at_ := k.at_ e })
    let x : Copy := ⟨id, k.f, rows, w64 e.base, e.tick, true, data, reads.length, r.1, e.mark, false, k.at_ e, 0⟩
    let k := k.modC fun c => { c with copies := c.copies ++ [x], nextId := c.nextId + 1 }
    if reads.isEmpty then k.mod fun s => s.copyWrites k.t id
    else k.mod fun s => reads.foldl (fun s r => s.engineSend k.t k.f r) s

/-! ### Barriers, signals, tasks, trace (R332, R333, R335, R338, R339) -/

/-- BARC and BARA (R332). -/
def Com.bar (k : Com) (e : Eff) (n : Nat) (op : BarOp) (upto : Nat) (scope : BitVec 2) : Com :=
  let dst := k.s.barrierTile k.t e.a
  let id := k.frame.task.taskId
  k.out (fun o => ⟨.tile k.t, .tile dst, .request, .bar n op k.f o id, 0, false⟩) upto scope none

/-- SIGADD (R333). -/
def Com.sigadd (k : Com) (e : Eff) (scope : BitVec 2) : Com :=
  let r := k.s.reqFor k.t k.f e.a .sigadd 8 (.pend k.oseq)
  let req : HomeReq := { r.2 with b := e.b, oseq := k.oseq, at_ := k.at_ e }
  let q : Pend := ⟨k.f, k.oseq, k.seq, scope, ptrKind e.a == 0, ptrOff e.a, .held, 0, false, none, none, none, 0, 0, true⟩
  (k.pend q).out (fun _ => ⟨.tile k.t, .tile r.1, .request, .home req, 0, false⟩) (k.seq - 1) scope none

/-- TSPAWN (R335). -/
def Com.tspawn (k : Com) (e : Eff) : Com :=
  let r := k.late e.val
  let k := r.2
  let ord := k.frame.spawnOrd
  let k := k.mod fun s => s.await k.t k.oseq 1 r.1
  let k := k.modFrame fun fr => { fr with spawnOrd := ord + 1 }
  let id := k.frame.task.taskId
  let k := k.mod fun s => s.pushAll k.t k.f
  k.out (fun o => ⟨.tile k.t, .hub (fieldOf k.t), .request, .spawn (taskOf e.bytes) id ord k.f o, 0, false⟩) k.seq 2 none

/-- The words of a trace record (R419). -/
def traceWords (qtick : W64) (kind tag rpl frame ltid block bun : Nat) (taskId : BitVec 32) (seq : Nat) (kw : List W64) : List W64 :=
  [qtick, w64 (kind * 2 ^ 60 + tag * 2 ^ 56 + rpl * 2 ^ 55 + frame * 2 ^ 49 + ltid * 2 ^ 35 + block * 2 ^ 15 + bun * 2 ^ 10),
   w64 taskId.toNat, w64 seq] ++ kw

/-- The trace name's tensor (R418). -/
def traceTensor : Nat := 3

/-- TRACE (R339). -/
def Com.trace (k : Com) (e : Eff) (tag : BitVec 4) : Com :=
  if (k.s.c k.t).tracectl.getLsbD k.f then
    let rpl := if (k.s.tile k.t).slate.replaying && k.frame.pmode then 1 else 0
    k.mod fun s => s.publishRecord (.tile k.t) k.frame.part traceTensor k.frame.task.taskId true
      (traceWords s.tick 1 tag.toNat rpl k.f k.t k.i.block e.bun k.frame.task.taskId k.seq [e.a, e.b])
  else k

/-! ### The effects of a user frame -/

/-- What the instance gives stochastic rounding, for a drain (R167, R283). -/
def Com.middle (k : Com) (e : Eff) : List Byte :=
  let q := k.frame.task
  srMiddle q.donehi q.donelo k.i.block e.bun e.slot k.i.depth (k.i.anc.map (·.1) ++ [k.i.iter]) k.i.ordinal

/-- One effect at its commit; supervisor effects are left as they are. An operation on a name whose claim was refused is not
performed: the commit stands and the frame aborts (R83, R316; log 13: DEDUCED, unsafe). -/
def Com.effect (k : Com) (site : Site) (e : Eff) : Com :=
  if e.isName && k.frame.claims.any (fun x => x.name == e.name && x.answer == some false) then
    { k with refused := k.refused.or (some (e.bun, { cause := .namecfg, cw1 := 5, cw2 := e.a, cw3 := e.b, slot := e.slot })) }
  else match e.op with
  | .atomic op wb scope => if isLocal e.a then k else k.homeAtomic e op wb scope
  | .pubt => k.publish e .publish ((k.binding e).tilesec * 128) 0 0
  | .pubr mode => k.publish e .piece (partialBytes (k.binding e) mode) (bits e.b 55 40) mode
  | .subn => k.subn e false
  | .subnAgain => k.subn e true
  | .unsub => k.unsub e
  | .claim =>
    (k.modFrame fun fr => { fr with claims := fr.claims ++ [⟨e.name, none, k.oseq⟩] }).control e .claim fun m => m
  | .retain => k.control e .retain fun m => { m with word := e.e }
  | .sopen => k.sopen e
  | .sclose => k.sclose e
  | .spop keep => k.spop e keep
  | .circ => k.control e .circ fun m => { m with word := e.e }
  | .circrel => k.control e .circrel fun m => m
  | .coll mode => k.control e .coll fun m => { m with index := bits e.e 16 0, mode := mode }
  | .copy row => k.copy e row
  | .agcfg n =>
    (k.modC fun c => CDom.modFrame { c with ags := c.ags.set e.base ⟨k.f, some (genOf e.bytes)⟩ } k.f fun fr => { fr with ags := fr.ags.set n e.base }).hold
      e.done .order
  | .agfree n =>
    (match k.frame.ags.get? n with
     | some p => k.modC fun c => CDom.modFrame { c with ags := c.ags.erase p } k.f fun fr => { fr with ags := fr.ags.erase n }
     | none => k).hold e.done .order
  | .barc reset n => k.bar e n (.barc (bits e.b 15 0) reset) 0 0
  | .bara scope n => (k.mod fun s => s.pushAll k.t k.f).bar e n (.bara (bits e.b 15 0)) (k.seq - 1) scope
  | .sigadd scope => (k.mod fun s => s.pushAll k.t k.f).sigadd e scope
  | .tspawn => k.tspawn e
  | .trapVec => k.modFrame fun fr => { fr with trapv := e.a }
  | .fmtw n => k.modFrame fun fr => fr.writeFs (k.s.c k.t).cycle n e.a
  | .trace tag => k.trace e tag
  | .brk tag =>
    if k.f = 63 ∨ !(k.s.c k.t).dbgctl.getLsbD k.f then k.fail e.bun { cause := .brk, slot := e.slot }
    else { k with brk := some (e.bun, tag) }
  | .mcfg _ | .msrca _ | .msrcb _ | .marm _ | .mdisarm _ | .mzero _ | .mloadc _ | .mdrain _ | .mscale _
  | .tslotAlloc | .tslotFree | .tsetEmpty | .tsetFull | .tsetRow | .tsetRowfull =>
    k.mod fun s => s.commitM k.t k.f site (k.middle e) e
  | _ => k

end Sys2Proof.Machine
end

