-- ==== Sys2Proof/Machine/Sectors.lean ====
section
/-! DEFINITION. The sectors that a slate shadows (R143, R397): which of them change from one state to another, for an epoch or for the image
of a frame, and when a frame can be imaged (R389). -/

namespace Sys2Proof.Machine

/-- The scratchpad areas of a frame: base and size of its code copy, its own areas and its task's slots. -/
def CDom.frameAreas (c : CDom) (f : Nat) : List (Nat × Nat) :=
  let fr := c.frame f
  let k := fr.task
  (match c.codeOf k with | some x => [(x.base, x.size)] | none => []) ++
    [(fr.privBase, k.privkb * 1024), (fr.scrBase, k.scrkb * 1024), (fr.stashBase, k.stashu * 65536)] ++
    (c.slots.filter fun e => e.2.frame == some f && e.2.byTask).map fun e => (e.2.base, e.2.size)

/-- An address lies in one of the areas. -/
def inAreas (l : List (Nat × Nat)) (a : Nat) : Bool := l.any fun x => decide (x.1 ≤ a) && decide (a < x.1 + x.2)

/-- The bytes of a memory that lie in the areas. -/
def Memory.within (m : Memory) (l : List (Nat × Nat)) : Memory := m.filter fun e => inAreas l e.1

/-! ### A frame that can be imaged (R389, R390) -/

/-- The frame no longer issues and nothing of it runs: no bundle instance, copy, firing or job. -/
def CDom.drained (c : CDom) (f : Nat) : Bool :=
  (c.frame f).park == .cutoff && !(c.issued.any fun x => x.set.frame == f) && !(c.arrivals.any fun k => k.frame == f) &&
    !(c.copies.any fun x => x.frame == f) && !c.accBusy f

/-- The frame can be imaged: its stash is empty, its writes are performed at module scope and its requests are answered. -/
def CDom.parkReady (c : CDom) (f : Nat) : Bool :=
  c.drained f && !(c.stash.any fun l => l.frame == f) && !(c.outq.any fun h => h.frame == f) &&
    (c.pend.all fun q => q.frame != f || (q.performed && q.done.isNone && q.val.isNone)) &&
    (c.awaited.all fun e => (e.2.2.map (·.frame)) != some f) && (c.frame f).claims.all fun x => x.answer.isSome

/-- Frames of a tile that satisfy a condition. -/
def CDom.framesThat (c : CDom) (ok : Nat → Bool) : List Nat := (c.frames.map (·.1)).filter ok

/-! ### Shadowed sectors (R143, R397) -/

/-- Frames that the slate shadows: the durable ones, and those whose image the epoch is to write (R389 step 6, R390). -/
def CDom.shadows (c : CDom) : List Nat := c.framesThat fun f => ((c.frame f).pmode && (c.frame f).st != .free) || c.parkReady f

/-- Scratchpad sectors of an area. -/
def areaSectors (a : Nat × Nat) : List Nat :=
  if a.2 = 0 then [] else (List.range ((a.1 + a.2 - 1) / 128 - a.1 / 128 + 1)).map fun k => a.1 / 128 + k

/-- Two memories differ in a 128-byte sector. -/
def sectorDiffers (m n : Memory) (k : Nat) : Bool := m.readBytes (128 * k) 128 != n.readBytes (128 * k) 128

/-- The sectors from a base on, with `per` entries to each, in which two tables differ. -/
def tableDiff {α : Type} [DecidableEq α] (base per : Nat) (old new : List α) : List Nat :=
  ((List.range ((max old.length new.length + per - 1) / per)).filter fun k =>
    (old.drop (per * k)).take per != (new.drop (per * k)).take per).map (base + ·)

/-- The sectors from a base on in which entries of n bytes lie whose numbers satisfy a condition. -/
def entrySectors (base n : Nat) (keys : List Nat) (ok : Nat → Bool) : List Nat :=
  ((keys.filter ok).flatMap fun e => [base + n * e / 128, base + (n * e + n - 1) / 128]).eraseDups

/-- The scratchpad and the registers of the frames fs; all of a frame that the slate did not shadow before. -/
def CDom.changedData (old new : CDom) (fs : List Nat) : List Nat :=
  let was := old.shadows
  let scr := (fs.flatMap fun f => ((new.frameAreas f).flatMap areaSectors).filter fun k =>
    !was.contains f || sectorDiffers old.scratch new.scratch k).eraseDups.mergeSort fun a b => decide (a ≤ b)
  let regs (c : CDom) (f lo : Nat) : List W64 := (List.range 16).map fun r => (c.frame f).regs.getD (lo + r) 0
  let half (f h : Nat) : List Nat := if !was.contains f || regs new f (16 * h) != regs old f (16 * h) then [0x2000 + 2 * f + h] else []
  scr ++ fs.flatMap fun f => half f 0 ++ half f 1

/-- The CSRs, the flags and format slots, the trap state and the bindings of the frames fs, a sector for each (log 69: DESIGN CHOICE,
unsafe). -/
def CDom.changedFrames (old new : CDom) (fs : List Nat) : List Nat :=
  let trap (fr : Frame) : List W64 := [fr.trapv, fr.trapcause, fr.traptag, fr.trapaddr, fr.trapslot]
  let csrs (fr : Frame) : Frame := { fr with
    regs := [], fpflags := 0, fs := [], trapv := 0, trapcause := 0, traptag := 0, trapaddr := 0, trapslot := 0,
    ags := [], accs := [], slots := [], streams := [], claims := [], published := [] }
  let parts (a b : Frame) : List Bool :=
    [csrs a != csrs b, a.fpflags != b.fpflags || a.fs != b.fs, trap a != trap b,
     a.ags != b.ags || a.accs != b.accs || a.slots != b.slots || a.streams != b.streams || a.claims != b.claims || a.published != b.published]
  fs.flatMap fun f => (List.range 4).filterMap fun k =>
    if !old.shadows.contains f || (parts (new.frame f) (old.frame f)).getD k false then some (0x2080 + 4 * f + k) else none

/-- The tile's shared state: the instance table of 20 B to an entry, the matching store and the holding queue of 32 B, the vector
operand buffer of a sector to a line, the accumulators of 48 sectors, and a sector for the rule and jobs of each (log 69: DESIGN
CHOICE, unsafe). -/
def CDom.changedShared (old new : CDom) : List Nat :=
  let inst (c : CDom) (e : Nat) : Option Inst × Nat × List Nat := (c.insts.get? e, c.gens.getD e 0, (List.range 8).map fun g => c.due.getD (8 * e + g) 0)
  let keys := ((old.insts.keys ++ new.insts.keys) ++ (old.gens.keys ++ new.gens.keys) ++ (old.due.keys ++ new.due.keys).map (· / 8)).eraseDups
  let store (c : CDom) : List (Tok ⊕ OpSet) := c.toks.map .inl ++ c.sets.map .inr
  let lines (c : CDom) : List (Nat × Val) := (c.toks.filter fun k => k.val.isVector).map fun k => (k.line, k.val)
  let elems (a : Nat) : List Nat :=
    let m := (old.accs.getD a {}).elems
    let n := (new.accs.getD a {}).elems
    entrySectors (0x3040 + 48 * a) 6 (m.keys ++ n.keys) fun i => m.get? i != n.get? i
  let rule (c : CDom) (a : Nat) : Acc := { c.accs.getD a {} with elems := [] }
  entrySectors 0x2180 20 keys (fun e => inst old e != inst new e) ++ tableDiff 0x2400 4 (store old) (store new) ++
    tableDiff 0x2800 4 old.holding new.holding ++ tableDiff 0x2840 1 (lines old) (lines new) ++
    ((List.range 8).flatMap elems) ++ ((List.range 8).filter fun a => rule old a != rule new a).map (0x31C0 + ·)

/-- The loops with their next tokens and the calls (R71), a sector to each, and the tile slots and generators of the frames fs (log 69:
DESIGN CHOICE, unsafe). -/
def CDom.changedRest (old new : CDom) (fs : List Nat) : List Nat :=
  let was := fs.filter old.shadows.contains
  let mine (c : CDom) (l : List Nat) (k : Nat) : Option Slot := (c.slots.get? k).filter fun x => x.frame.any l.contains
  let gen (c : CDom) (l : List Nat) (k : Nat) : Option AgUnit := (c.ags.get? k).filter fun x => l.contains x.frame
  tableDiff 0x3200 1 old.loops new.loops ++ tableDiff 0x4200 1 old.calls new.calls ++
    ((List.range 256).filter fun k => mine old was k != mine new fs k).map (0x5200 + ·) ++
    ((List.range 8).filter fun k => gen old was k != gen new fs k).map (0x5300 + ·)

/-- The sectors of the C domain that change from one state to another for the frames fs (R397). -/
def CDom.changedFor (old new : CDom) (fs : List Nat) : List Nat :=
  old.changedData new fs ++ old.changedFrames new fs ++ old.changedShared new ++ old.changedRest new fs

/-- The sectors of the C domain that an epoch writes (R144, R397): those whose state differs from that of the last epoch. -/
def CDom.changed (old new : CDom) : List Nat := old.changedFor new new.shadows

/-- The sectors of a frame's image (R390): what a slate writes to take it. -/
def Image.sectors (x : Image) : List Nat := ({} : CDom).changedFor x.dom [x.num]

/-- The sectors of the home slice that an epoch writes: the cache by set and way, then field-shared memory. A line's tag and directory
state count with each of its sectors. -/
def NDom.changedHome (old new : NDom) : List Nat :=
  let at_ (l : HLine) : Nat := 12 * (l.va / 512 % 32) + l.way
  let tag (l : HLine) : Nat × Nat × Dir := (l.va, l.part, l.dir)
  let sec (n : NDom) (i k : Nat) : Option ((Nat × Nat × Dir) × HSector) := (n.lines.find? fun l => at_ l == i).map fun l => (tag l, l.sectors.getD k {})
  let ways := ((old.lines ++ new.lines).map at_).eraseDups
  let cache := ways.flatMap fun i => ((List.range 4).filter fun k => sec old i k != sec new i k).map fun k => 0x1800 + 4 * i + k
  let shared := ((old.fshared ++ new.fshared).map fun e => e.1 / 128).eraseDups.filter fun k => sectorDiffers old.fshared new.fshared k
  cache ++ shared.map (0x1E00 + ·)

/-- The other sectors of the N domain: the name-match table of 32 B to an entry, the name entries, the subscriber records of 32 B, the late
cache, the barriers of 16 B (log 69: DESIGN CHOICE, unsafe). -/
def NDom.changedNames (old new : NDom) : List Nat :=
  let entry (e : NameEntry) : NameEntry := { e with subs := [], retained := e.retained.map fun r => { r with bytes := [] } }
  let recs (n : NDom) : List SubRec := n.names.flatMap (·.subs)
  let late (n : NDom) : List Byte := n.names.flatMap fun e => e.retained.flatMap (·.bytes)
  tableDiff 0x8000 4 old.nmt new.nmt ++ tableDiff 0x8200 1 (old.names.map entry) (new.names.map entry) ++ tableDiff 0x8600 4 (recs old) (recs new) ++
    tableDiff 0x8A00 128 (late old) (late new) ++
    entrySectors 0x8C00 16 (old.barriers.keys ++ new.barriers.keys) fun k => old.barriers.get? k != new.barriers.get? k

/-- The kept results of atomics (R138) and of barrier messages (R332) and the numbers applied (R399), 16 B to an entry, each table over 128
sectors (log 69: DESIGN CHOICE, unsafe). -/
def NDom.changedKept (old new : NDom) : List Nat :=
  let table {α : Type} [DecidableEq α] (base : Nat) (a b : AMap α) : List Nat :=
    (((a.keys ++ b.keys).filter fun k => a.get? k != b.get? k).map fun k => base + k / 8 % 128).eraseDups
  table 0x8E00 old.kept new.kept ++ table 0x8E80 old.keptBar new.keptBar ++ table 0x8F00 old.applied new.applied

/-- The sectors of the N domain that an epoch writes. -/
def NDom.changed (old new : NDom) : List Nat := old.changedHome new ++ old.changedNames new ++ old.changedKept new

/-- The sectors of the logs since D: the inbound log, and the commit and outbound logs of 16 B to an entry (log 69: DESIGN CHOICE,
unsafe). -/
def Slate.logSectors (l : Slate) : List Nat :=
  let fill (base n : Nat) : List Nat := (List.range ((n + 127) / 128)).map (base + ·)
  fill 0x9000 l.inBytes ++ fill 0x9800 (16 * l.commitlog.length) ++ fill 0xA000 (16 * l.outlog.length)

end Sys2Proof.Machine
end

