-- ==== Sys2Proof/Machine/Translate.lean ====
section
/-! DEFINITION. Translation (R112 to R114), its permissions and quota (R113, R124), the accesses to HBM4E under way (R117, R349), and
the CRC of a sector (R121). -/

namespace Sys2Proof.Machine

/-! ### The page table (R112, R113) -/

/-- What a translation gives: a leaf (physical address, permissions, base and size of its page), or the Miss reason. -/
inductive Xl where
  | leaf (e : TlbEntry) (pa : Nat)
  | miss (reason : Nat)
  deriving DecidableEq, Repr

/-- A valid entry is malformed at a level (R112). -/
def pteBad (e : W64) (lvl : Nat) : Bool :=
  let l := e.getLsbD 3
  bits e 59 42 != 0 || bits e 12 4 != 0 || (l && lvl == 0) || (!l && lvl == 3) || (!l && (e.getLsbD 2 || e.getLsbD 1)) ||
    (l && (bits e 15 13 != 0 || bits e 41 16 * 65536 % 2 ^ (46 - 10 * lvl) != 0))

/-- The walk from a table at a level (R113). A table whose address has PA[41] = 1 reads as zeros, so that the walk misses (log 114: DESIGN
CHOICE, unsafe). -/
def State.walkFrom (s : State) (asid : BitVec 16) (va a lvl : Nat) : Nat → Xl
  | 0 => .miss 1
  | fuel + 1 =>
    let idx := va / 2 ^ (46 - 10 * lvl) % 1024
    let e := w64 (fromBytes (s.hbm.readBytes (a + 8 * idx) 8))
    if !e.getLsbD 0 then .miss 0
    else if pteBad e lvl then .miss 1
    else if e.getLsbD 3 then
      let size := 2 ^ (46 - 10 * lvl)
      let pa := bits e 41 16 * 65536
      .leaf ⟨asid, va / size * size, size, pa, e.getLsbD 2, e.getLsbD 1⟩ (pa + va % size)
    else State.walkFrom s asid va (bits e 41 13 * 8192) (lvl + 1) fuel

/-- Bytes of a stack (R111) and of a quota unit (R406). -/
def stackBytes : Nat := 2 ^ 36
def quotaUnit : Nat := 2 ^ 26

/-- The stack of a physical address is in self-refresh: requests to it wait (R416). -/
def State.asleep (s : State) (pa : Nat) : Bool := (s.rim (pa / stackBytes)).selfRefresh

/-- A walk meets an entry in a stack in self-refresh (R113, R416). -/
def State.walkWaitsFrom (s : State) (va a lvl : Nat) : Nat → Bool
  | 0 => false
  | fuel + 1 =>
    let pa := a + 8 * (va / 2 ^ (46 - 10 * lvl) % 1024)
    let e := w64 (fromBytes (s.hbm.readBytes pa 8))
    s.asleep pa || (e.getLsbD 0 && !pteBad e lvl && !e.getLsbD 3 && State.walkWaitsFrom s va (bits e 41 13 * 8192) (lvl + 1) fuel)

def State.walkWaits (s : State) (q va : Nat) : Bool := s.walkWaitsFrom va (s.part (spacePart q)).ptroot.toNat 0 4

/-- Walk (R113) in an address space. -/
def State.walk (s : State) (q va : Nat) : Xl := s.walkFrom (spaceAsid q) va (s.part (spacePart q)).ptroot.toNat 0 4

/-! ### TLBs (R114) -/

/-- The leaf of an address in a TLB. -/
def tlbFind (l : List TlbEntry) (asid : BitVec 16) (va : Nat) : Option TlbEntry :=
  l.find? fun x => x.asid == asid && decide (x.base ≤ va) && decide (va < x.base + x.size)

/-- The home's TLB with a leaf put first in the order of use: 64 entries. -/
def tlbUse (l : List TlbEntry) (x : TlbEntry) : List TlbEntry := (x :: l.filter (· != x)).take 64

/-- The set of a leaf in the hub's TLB of 512 sets: the page's number (log 68: DESIGN CHOICE, unsafe). -/
def TlbEntry.set (x : TlbEntry) : Nat := x.base / x.size % 512

/-- The hub's TLB with a leaf put first in the order of use: its set has 8 ways, and the least recently used one goes. -/
def hubUse (l : List TlbEntry) (x : TlbEntry) : List TlbEntry :=
  let rest := l.filter (· != x)
  let same := rest.filter fun y => y.set == x.set
  x :: rest.filter fun y => decide (same.length < 8) || same.getLast? != some y

/-- A leaf is used in the home's own TLB. -/
def State.tlbOwn (s : State) (t : Nat) (x : TlbEntry) : State := s.modN t fun n => { n with tlb := tlbUse n.tlb x }

/-- A leaf enters the home's TLB and its field hub's. A rim agent has neither. -/
def State.tlbFill (s : State) (t : Nat) (x : TlbEntry) : State :=
  if t < Config.numTiles then (s.tlbOwn t x).modHub (fieldOf t) fun h => { h with tlb := hubUse h.tlb x } else s

/-- The leaf that a home's own TLB or its hub's holds; a rim agent has neither. -/
def State.tlbLeaf (s : State) (t q va : Nat) : Option TlbEntry :=
  let find (l : List TlbEntry) : Option TlbEntry := if t < Config.numTiles then tlbFind l (spaceAsid q) va else none
  (find (s.n t).tlb).or (find (s.hub (fieldOf t)).tlb)

/-- A translation at a home, for an address space: its own TLB, the hub's, then a walk. A rim agent walks. -/
def State.translate (s : State) (t q va : Nat) : Xl × State :=
  let find (l : List TlbEntry) : Option TlbEntry := if t < Config.numTiles then tlbFind l (spaceAsid q) va else none
  match find (s.n t).tlb, find (s.hub (fieldOf t)).tlb with
  | some x, _ => (.leaf x (x.pa + (va - x.base)), s.tlbOwn t x)
  | none, some x => (.leaf x (x.pa + (va - x.base)), s.tlbFill t x)
  | none, none => match s.walk q va with
    | .leaf x pa => (.leaf x pa, s.tlbFill t x)
    | m => (m, s)

/-- A physical address lies in the partition's quota (R113, R124). -/
def Partition.inQuota (p : Partition) (pa : Nat) : Bool :=
  decide (p.quota.1 * quotaUnit ≤ pa % stackBytes) && decide (pa % stackBytes < (p.quota.1 + p.quota.2) * quotaUnit)

/-- CW1 of the PROT tests on a leaf, in their order (R113). -/
def Partition.protCode (p : Partition) (x : TlbEntry) (pa : Nat) (rd wr : Bool) : Option Nat :=
  if pa ≥ 2 ^ 41 then some 2
  else if !p.inQuota pa then some 1
  else if (rd && !x.r) || (wr && !x.w) then some 0
  else none

/-- As protCode; the addresses of a stack excluded at boot lie in no quota (R124, R400). -/
def State.protOf (s : State) (q : Nat) (x : TlbEntry) (pa : Nat) (rd wr : Bool) : Option Nat :=
  if pa < 2 ^ 41 && (s.rim (pa / stackBytes)).excluded then some 1 else (s.part (spacePart q)).protCode x pa rd wr

/-! ### Sectors on their way (R121, R349) -/

/-- CRC-32C of bytes: the reflected polynomial 0x82F63B78, from all ones, inverted at the end. -/
def crc32c (l : List Byte) : BitVec 32 :=
  let bit (c : BitVec 32) : BitVec 32 := if c.getLsbD 0 then c >>> 1 ^^^ 0x82F63B78#32 else c >>> 1
  ~~~ l.foldl (fun c b => bit (bit (bit (bit (bit (bit (bit (bit (c ^^^ b.setWidth 32))))))))) (BitVec.allOnes 32)

/-- The CRC of a sector between its home and its rim agent: over its bytes, then PA[41:7] in 5 bytes (R121). -/
def sectorCrc (data : List Byte) (pa : Nat) : BitVec 32 := crc32c (data ++ toBytes (pa / 128 % 2 ^ 35) 5)

/-- The agent's queue is full: requests to it wait in their class (R117). -/
def Rim.full (r : Rim) : Bool := decide (r.queue.length ≥ 256)

/-- A request waits in its class for a rim agent whose queue is full while it moves a page (R117). -/
def State.behindFull (s : State) (m : Msg) : Bool :=
  match m.dst with | .rim a => (s.rim a).mig.isSome && (s.rim a).full | _ => false

/-- A message of a partition's access that began by a tick. -/
def Msg.accessOf (m : Msg) (p tick : Nat) : Bool :=
  decide (m.birth ≤ tick) && match m.body with
    | .hbm _ _ _ _ q _ _ _ _ _ _ | .hbmReply _ _ _ q _ _ => spacePart q == p
    | _ => false

/-- Accesses of a partition that began by a tick are all performed (R349), those that a moving page holds back aside. -/
def State.accessesDone (s : State) (p tick : Nat) : Bool := !s.net.any fun m => m.accessOf p tick && !s.behindFull m

/-- Those that a moving page holds back are performed too. -/
def State.queuesDone (s : State) (p tick : Nat) : Bool :=
  !(s.net.any fun m => m.accessOf p tick) && s.rims.all fun e => e.2.queue.all fun m => decide (m.birth > tick) || match m.body with
    | .hbm _ _ _ _ q _ _ _ _ _ _ => spacePart q != p
    | _ => true

end Sys2Proof.Machine
end

