-- ==== Sys2Proof/Machine/SupEffects.lean ====
section
/-! DEFINITION. The effects of the supervisor operations at their commit (R347 to R354): the statuses known at once, and those
that wait for their targets. -/

namespace Sys2Proof.Machine

/-! ### Statuses (R347) -/

/-- A value known at the commit: to its register, or with the held tokens. -/
def Com.answer (k : Com) (e : Eff) (v : Val) : Com :=
  let k := match e.reg with
    | some r => k.modFrame fun fr => { fr with regs := fr.regs.set r v.word }
    | none => k
  k.hold e.val v

/-- The key and slot under which a durable frame logs the value of a supervisor operation (R148). -/
def Com.supKey (k : Com) (e : Eff) : Option (Nat × Nat) :=
  if k.frame.pmode then some (((replayKey k.i e.p e.pd * 32 + e.bun) * 2 ^ 32) * 64 + k.f, e.slot) else none

def Com.status (k : Com) (e : Eff) (n : Nat) : Com :=
  let k := match k.supKey e with
    | some q => k.mod fun s => (s.readUnder k.t q.1 q.2 512 (w64 n)).2
    | none => k
  k.answer e (.scalar (w64 n))

/-- A supervisor operation whose effect is under way: its value is delivered when it is complete, under next or exit. -/
def Com.pending (k : Com) (e : Eff) (w : SupWait) : Com :=
  let r := k.late e.val
  let q := k.supKey e
  let k := r.2.modC fun c => { c with sups := c.sups.set k.oseq ⟨w, r.1, e.reg, q⟩ }
  if q.isSome then k.mod fun s => s.modSlate k.t fun l => { l with supWaits := l.supWaits.set k.oseq w } else k

/-- A supervisor operation that a replay regenerates is not applied again (R138, R148): its value comes from the log, or still to come. -/
def Com.supAgain (k : Com) (e : Eff) : Com :=
  let l := (k.s.tile k.t).slate
  match (k.supKey e).bind fun q => l.reading? q.1 q.2 512 with
  | some v =>
    let k := match k.supKey e with
      | some q => k.mod fun s => s.modSlate k.t fun l => { l with inlog := takeReading q.1 q.2 512 l.inlog }
      | none => k
    k.answer e (match e.op with | .tlbinv _ => .order | _ => .scalar v)
  | none => match e.op, l.supWaits.get? k.oseq with
    | .watch _ _ _, _ => (k.late e.val).2
    | _, some w => k.pending e w
    | _, none => k

/-- A supervisor operation takes the next outbound number and is applied once (R32, R138, R347). What CSRW writes in its tile goes back to
D at a loss, so a replay writes it again; the partition's ASID and PTROOT do not. -/
def Com.once (k : Com) (e : Eff) (act : Com → Com) : Com :=
  let o := k.oseq
  let hash := Config.effectHash (.sup e.op e.a e.b)
  let l := (k.s.tile k.t).slate
  let r := match (if k.frame.pmode then l.outlog.find? fun x => x.1 == o && x.2.1 == k.f else none) with
    | none => act (k.mod fun s => s.logOut k.t k.f o hash)
    | some x =>
      let k := k.mod fun s => s.modSlate k.t fun l => { l with draft := l.draft.set 5 (l.draft.getD 5 0 + 1) }
      if x.2.2 ≠ hash then k.fail 0 { cause := .revdiv, slot := 8 }
      else match e.op with
        | .csrw x => if x.toNat = 0x403 ∨ x.toNat = 0x404 then k else act k
        | _ => k.supAgain e
  { r with oseq := o + 1 }

/-! ### CSRs (R347, R354) -/

def clampTo (lo hi x : Nat) : Nat := max lo (min hi x)

/-- CSRW (R347, R354): read-only and unassigned addresses ignore it. BRANCHSTALL stands per tile, as its CSR does (log 90: DESIGN CHOICE,
unsafe). -/
def State.csrWrite (s : State) (t x : Nat) (v : W64) : State :=
  let p := s.partOf t
  match x with
  | 0x011 => s.modC t fun c => { c with tagLow := bits v 12 0 }
  | 0x012 => s.modC t fun c => { c with tagCrit := bits v 12 0 }
  | 0x032 => s.modC t fun c => { c with lag := BitVec.ofNat 32 (bits v 31 0) }
  | 0x403 => s.modPart p fun q => { q with asid := v.setWidth 16 }
  | 0x404 => s.modPart p fun q => { q with ptroot := w64 (bits v 41 13 * 8192) }
  | 0x405 => s.modC t fun c => { c with branchstall := clampTo 1024 4194304 (bits v 22 0) }
  | 0x406 => s.modC t fun c => { c with dbgctl := v }
  | 0x407 => s.modC t fun c => { c with tracectl := v }
  | 0x408 => s.modC t fun c => { c with health := v.getLsbD 0 }
  | 0x409 => s.modC t fun c => { c with spinesel := v.setWidth 3 }
  | x => if 0x410 ≤ x ∧ x ≤ 0x42F then s.modC t fun c => { c with srseed := c.srseed.set (x - 0x410) v } else s

/-! ### Targets (R348) -/

/-- The tile and frame of a locator, or the status that refuses it. -/
def State.locate (s : State) (p : Nat) (a : W64) : Except Nat (Nat × Nat) :=
  if bits a 63 22 ≠ 0 ∨ bits a 15 14 ≠ 0 then .error 3
  else if !(s.part p).tiles.contains (bits a 13 0) || bits a 21 16 == 63 then .error 1
  else .ok (bits a 13 0, bits a 21 16)

/-- Two images are of one frame of one task: a frame number may be used again while its image is kept (R393). -/
def Image.same (x y : Image) : Bool := x.num == y.num && x.fr.task.taskId == y.fr.task.taskId

/-- The image of a parked frame of a tile (R390); one that aborts is parked no more. -/
def State.imageOf (s : State) (t f : Nat) : Option Image := (s.tile t).slate.images.find? fun x => x.num == f && x.abortRec.isNone

/-- A pre-empt marker is sent to a frame (R389). -/
def State.askPark (s : State) (t f why : Nat) : State := s.modFrame t f fun fr => { fr with park := .asked, parkWhy := why }

/-- A frame that a marker can park. -/
def Frame.parkable (fr : Frame) : Bool := (fr.st == .active || fr.st == .trapped) && fr.park == .none

/-- A restore is asked for the images of a tile that satisfy a condition (R393). -/
def State.askRestore (s : State) (t : Nat) (ok : Image → Bool) : State :=
  s.modSlate t fun l => { l with images := l.images.map fun x => if ok x && x.abortRec.isNone then { x with asked := true } else x }

/-- PARK stop and PARK resume (R348). Where a live frame and parked images have one number, stop names the frame and resume the first image
(log 124: DESIGN CHOICE, unsafe). -/
def Com.park (k : Com) (e : Eff) (resume : Bool) : Com :=
  match k.s.locate k.frame.part e.a with
  | .error n => k.status e n
  | .ok (t, f) =>
    let fr := k.s.frame t f
    match resume, k.s.imageOf t f with
    | true, some x => (k.mod fun s => s.askRestore t x.same).pending e (.restored [(t, x.fr.task.taskId)])
    | true, none => k.status e 2
    | false, _ => if fr.parkable then (k.mod fun s => s.askPark t f 1).pending e (.parked [(t, fr.task.taskId)]) else k.status e 2

/-- The elements in the slots of a parked frame's stream that no SPOP has taken (R325). -/
def Image.leftIn (x : Image) (y : Stream) : Nat := CDom.leftIn (CDom.setFrame x.dom x.num x.fr) x.num y

/-- A parked frame aborts (R34, R348): its record waits until its writes are performed (R383, event ABORT_FAULT_RECORD). -/
def State.killImage (s : State) (t : Nat) (x : Image) (i : FaultInfo) : State :=
  let k := x.fr.task
  let words := recordWords s.tick i.cause.code 0 0 0 8 t x.num k.stage 0 k.taskId 0 i.addr (w64 (s.c t).commitSeq) i
  s.modSlate t fun l => { l with
    images := l.images.map fun y => if x.same y && y.abortRec.isNone then { y with asked := false, abortRec := some words } else y }

/-- The writes that a parked frame committed are performed at host scope (R383). -/
def State.imageQuiet (s : State) (t : Nat) (x : Image) : Bool :=
  x.dom.pend.all fun q => q.performed && s.landedBefore t x.fr.published q.commit

/-- A parked frame that aborts is quiet: its record is published and everything it holds is given back (R34, R383). -/
def State.endImage (s : State) (t : Nat) (x : Image) (ws : List W64) : State :=
  let p := s.partOf t
  let k := x.fr.task
  let s := s.publishRecord (.tile t) p faultTensor k.taskId false ws
  let s := x.dom.slots.foldl (fun s e => match e.2.sub with
    | some q => if q.kind == .subn then s.prune t e.2.subnIx (some x.num) k.taskId ⟨q.hi, q.lo, q.mask, q.next⟩ else s
    | none => s) s
  let s := x.fr.streams.foldl (fun s y => (s.countT t 8 (x.leftIn y)).pruneOne t p (y.msg t x.num k.taskId)) s
  let s := ((x.fr.claims.filter fun y => y.answer == some true).map (·.name)).eraseDups.foldl
    (fun s n => s.toHome (.tile t) p .claimRel { name := n, frame := some x.num, taskId := k.taskId }) s
  let s := (s.disarm p t x.num).modPart p fun q => { q with taskIds := q.taskIds.filter (· != k.taskId) }
  let s := s.modHub ((s.part p).fieldList.getD (x.fr.key.toNat / 16384) 0) fun h => { h with keys := h.keys.filter (· != x.fr.key) }
  (s.dropHeld t k.taskId).modSlate t fun l => { l with images := l.images.filter fun y => !x.same y }

/-- The first parked frame of a number that aborts and is quiet ends. -/
def State.endImages (s : State) (t f : Nat) : State :=
  match (s.tile t).slate.images.findSome? fun x => if x.num == f && s.imageQuiet t x then x.abortRec.map fun ws => (x, ws) else none with
  | some (x, ws) => s.endImage t x ws
  | none => s

/-- ABORT_FAULT_RECORD (R34, R383): an aborted frame is quiet; its streams and subscriptions go, its one record is published
and the frame is freed. A frame that aborted while it was parked ends likewise. -/
def execAbortFaultRecord (t f : Nat) (s : State) : Host.Outcome State Fault Refusal :=
  onTile t s fun s =>
    let fr := s.frame t f
    match fr.abortRec with
    | none => s.endImages t f
    | some ws =>
      if !s.frameQuiet t f then s.endImages t f
      else
        let s := s.closeSubs t f
        let s := s.publishRecord (.tile t) fr.part faultTensor fr.task.taskId false ws
        ((s.releaseClaims t f).freeFrame t f)

/-- FRKILL (R348). A locator whose number a live frame and a parked image have names the live frame (log 124: DESIGN CHOICE, unsafe). -/
def Com.frkill (k : Com) (e : Eff) : Com :=
  match k.s.locate k.frame.part e.a with
  | .error n => k.status e n
  | .ok (t, f) =>
    match Cause.ofCode (bits e.b 7 0) with
    | none => k.status e 3
    | some c =>
      let fr := k.s.frame t f
      if fr.st == .active || fr.st == .trapped then
        (k.mod fun s => s.abortFrame t f ⟨0, 0, 0, 0, 0⟩ { cause := c }).pending e (.ended t f fr.task.taskId)
      else match k.s.imageOf t f with
        | some x => (k.mod fun s => s.killImage t x { cause := c }).pending e (.ended t f x.fr.task.taskId)
        | none => k.status e 2

/-! ### Moves (R22, R348, R393) -/

/-- An image is written to another tile's slate (counted: R427) with the deliveries held for it, and its subscriptions are registered there (R393
step 3). A subscription that is satisfied is registered as one; a unicast stream asks again, from its restore on, for what has not
landed (log 85: DEDUCED, unsafe). -/
def State.moveImage (s : State) (src dst : Nat) (x : Image) : State :=
  let p := s.partOf src
  let id := x.fr.task.taskId
  let again (y : Stream) : Stream := { y with cut := y.cut || y.detached }
  let s := s.modSlate src fun l => { l with images := l.images.filter fun y => !x.same y }
  let s := s.forwardHeld src dst id
  let s := s.modSlate dst fun l => { l with images := l.images ++ [{ x with asked := true, fr := { x.fr with streams := x.fr.streams.map again } }] }
  let s := s.life (fieldOf dst) 0 x.sectors.length
  let s := x.dom.slots.foldl (fun s e => match e.2.sub with
    | some q => if q.kind == .subn then
        let r : SubReq := ⟨q.hi, q.lo, q.mask, q.next⟩
        let l := s.regMsgs dst e.2.subnIx (some x.num) id r
        l.foldl (fun s m => s.climb dst p .reg { m with accepted := q.satisfied }) (s.prune src e.2.subnIx (some x.num) id r)
      else s
    | none => s) s
  x.fr.streams.foldl (fun s y =>
    (s.pruneOne src p (y.msg src x.num id)).climb dst p .reg { y.msg dst x.num id with ver := y.version y.cursor }) s

/-- A parked task waits or is ready again, and what was held for it lands (R19, R393). -/
def State.unpark (s : State) (t : Nat) (id : BitVec 32) : State :=
  (s.modC t fun c => c.modPlaced id fun q =>
    if q.st.isParked then { q with st := if q.task.depcnt = 0 then .ready else .waiting, entered := s.quartz } else q).releaseDeliveries t id

/-- TMOVE (R22, R348). That of a WAITING or READY task to the tile where it stands ends with status 3 (log 123: DESIGN CHOICE, unsafe). -/
def Com.tmove (k : Com) (e : Eff) : Com :=
  let p := k.frame.part
  let id : BitVec 32 := e.a.setWidth 32
  let dst := bits e.b 13 0
  let tiles := (k.s.part p).tiles
  let placed := tiles.findSome? fun t => ((k.s.c t).placed.find? fun q => q.task.taskId == id).map fun q => (t, q)
  let images (t : Nat) : List Image := (k.s.tile t).slate.images.filter fun x => x.fr.task.taskId == id
  let image := tiles.findSome? fun t => ((images t).find? fun x => x.abortRec.isNone).map fun x => (t, x)
  let live := tiles.any (fun t => !(images t).isEmpty || (k.s.c t).frames.any fun f => f.2.st != .free && f.2.task.taskId == id) ||
    (k.s.part p).fieldList.any fun f => (k.s.hub f).queue.any fun q => q.task.taskId == id
  if bits e.a 63 32 ≠ 0 ∨ bits e.b 63 14 ≠ 0 then k.status e 3
  else if !tiles.contains dst then k.status e 1
  else match placed, image with
    | some (t, q), _ =>
      if q.st == .moving then k.status e 2
      else if t = dst ∧ q.st.isParked then (k.mod fun s => s.unpark t id).status e 0
      else if t = dst ∨ !k.s.eligible p q.task dst then k.status e 3
      else (k.mod fun s => s.startMove t dst q).pending e (.moved id dst)
    | none, some (t, x) =>
      if !k.s.eligible p x.fr.task dst then k.status e 3
      else if t = dst then (k.mod fun s => s.askRestore t x.same).pending e (.restored [(dst, id)])
      else (k.mod fun s => s.moveImage t dst x).pending e (.restored [(dst, id)])
    | none, none => k.status e (if live then 2 else 1)

/-! ### PREEMPT (R348) -/

/-- The tiles of the fields whose ordinal bits are set. -/
def Partition.ordinalTiles (p : Partition) (mask : W64) : List Nat :=
  ((List.range p.fieldList.length).filter fun o => mask.getLsbD o).flatMap fun o =>
    (List.range 160).map fun j => 160 * p.fieldList.getD o 0 + j

/-- Every frame and task of a tile up to a priority is marked (R348, R389). -/
def State.preemptTile (s : State) (t prio why : Nat) : State :=
  s.modC t fun c =>
    let mark (e : Nat × Frame) : Nat × Frame :=
      if e.1 < 63 ∧ e.2.parkable ∧ e.2.task.prio ≤ prio then (e.1, { e.2 with park := .asked, parkWhy := why }) else e
    CDom.mapPlaced { c with frames := c.frames.map mark } fun q =>
      if (q.st == .waiting || q.st == .ready) && decide (q.task.prio ≤ prio) then { q with st := .parked why } else q

/-- Tasks parked for a reason wait or are ready again (R19, R393). -/
def State.unparkTasks (s : State) (t why : Nat) : State :=
  ((s.c t).placed.filter fun q => q.st == .parked why).foldl (fun s q => s.unpark t q.task.taskId) s

/-- PREEMPT stop and resume (R348). -/
def Com.preempt (k : Com) (e : Eff) (resume : Bool) : Com :=
  let p := k.s.part k.frame.part
  let tiles := p.ordinalTiles e.a
  if bits e.a 63 p.fieldList.length ≠ 0 ∧ p.fieldList.length < 64 then k.status e 3
  else if resume then
    let l := tiles.flatMap fun t => ((k.s.tile t).slate.images.filter fun x => x.why == 2 && x.abortRec.isNone).map fun x => (t, x.fr.task.taskId)
    (k.mod fun s => tiles.foldl (fun s t => (s.askRestore t fun x => x.why == 2).unparkTasks t 2) s).pending e (.restored l)
  else
    let prio := bits e.b 3 0
    let l := tiles.flatMap fun t => ((k.s.c t).frames.filter fun x => decide (x.1 < 63) && x.2.parkable && decide (x.2.task.prio ≤ prio)).map
      fun x => (t, x.2.task.taskId)
    (k.mod fun s => tiles.foldl (fun s t => s.preemptTile t prio 2) s).pending e (.preempted l)

/-! ### Translation, bindings, routes, slate, watchpoints (R349 to R353) -/

/-- A leaf that a TLBINV removes. -/
def TlbEntry.hit (x : TlbEntry) (kind : BitVec 2) (asid : BitVec 16) (va : Nat) : Bool :=
  match kind.toNat with
  | 0 => true
  | 1 => x.asid == asid
  | _ => x.asid == asid && decide (x.base ≤ va) && decide (va < x.base + x.size)

/-- A TLBINV of a partition is the one that a move of a page waits for (R117 steps 4 and 5): it is made after the move began, and in
its page form its address now maps to the destination. -/
def State.invCovers (s : State) (p : Nat) (kind : BitVec 2) (asid : BitVec 16) (va : Nat) (m : Nat × Nat) : Bool :=
  (s.part p).inQuota m.1 && (kind == 0 || (kind == 1 && asid == (s.part p).asid) || kind.toNat > 1 && match s.walk (128 * asid.toNat + p) va with
    | .leaf _ pa => pa / 65536 == m.2 / 65536
    | .miss _ => false)

/-- Leaves are removed from every home-slice TLB and field-hub TLB of a partition (R114, R349). -/
def State.tlbRemove (s : State) (p : Nat) (kind : BitVec 2) (asid : BitVec 16) (va : Nat) : State :=
  let keep (l : List TlbEntry) : List TlbEntry := l.filter fun x => !x.hit kind asid va
  let note (r : Rim) : Rim := match r.mig, r.inv with
    | some m, none => if s.invCovers p kind asid va m then { r with inv := some (p, s.quartz) } else r
    | _, _ => r
  let s : State := { s with rims := s.rims.mapVal note }
  let s := (s.part p).tiles.foldl (fun s t => if (s.n t).tlb.isEmpty then s else s.modN t fun n => { n with tlb := keep n.tlb }) s
  (s.part p).fieldList.foldl (fun s f => s.modHub f fun h => { h with tlb := keep h.tlb }) s

/-- ROUTEW (R351): the list is written; it takes effect once every message that follows the old one has been ejected. -/
def Com.routew (k : Com) (e : Eff) : Com :=
  if bits e.a 63 17 ≠ 0 ∨ bits e.a 15 14 ≠ 0 ∨ !turnOk e.b then k.status e 3
  else
    let key := bits e.a 16 16 * 16384 + bits e.a 13 0
    let old := k.s.route k.t (bits e.a 13 0) (bits e.a 16 16)
    let before := (k.s.net.filter (Msg.follows k.t key)).length
    (k.mod fun s => s.modN k.t fun n => { n with
      routes := n.routes.set key e.b
      fences := if before = 0 then n.fences else n.fences.set key (before, old) }).status e 0

/-- SLATEQ (R352). -/
def State.slateWord (s : State) (t : Nat) (kind : BitVec 2) (ix : Nat) : W64 :=
  let l := (s.tile t).slate
  let half (x : Option Nat) : Nat := match x with | some n => n % 2 ^ 32 | none => 0xFFFFFFFF
  match kind.toNat with
  | 0 => l.record.getD ix 0
  | 1 => if ix < 65536 then let q := l.sectors.getD ix (some 0, some 0); w64 (half q.1 + 2 ^ 32 * half q.2) else 0
  | _ => w64 (match ix with | 0 => l.d0.getD 0 | 1 => l.d1.getD 0 | _ => 0)

/-- WATCH (R353): armed at its object's tile, with the cycle of its arming, or bit 63 where none of its 16 watchpoints is free. -/
def Com.watch (k : Com) (e : Eff) (kind : BitVec 2) (sig : Bool) (n : Nat) : Com :=
  let h := if sig then k.s.homeTarget k.t e.a else (k.s.barrierTile k.t e.a, false, 0)
  if (k.s.n h.1).watches.length ≥ 16 then k.status e (2 ^ 63)
  else
    let r := k.late e.val
    let w : Watchpoint := ⟨sig, n, h.2.2, h.2.1, e.a, kind, e.b, r.1, k.t, e.reg, k.supKey e, some (k.s.moment h.1)⟩
    r.2.mod fun s => s.modN h.1 fun y => { y with watches := y.watches ++ [w] }

/-- The target's part of a supervisor effect. -/
def Com.supAct (k : Com) (e : Eff) : Com :=
  let p := k.frame.part
  match e.op with
  | .csrw x => k.mod fun s => s.csrWrite k.t x.toNat e.a
  | .tlbinv kind => (k.mod fun s => s.tlbRemove p kind (e.a.setWidth 16) (bits e.b 55 0)).pending e (.accesses p k.s.quartz)
  | .nsbind =>
    if bindChangeOk (k.s.part p) (bindingOf e.bytes) then (k.mod fun s => s.modPart p fun q => q.bind (bindingOf e.bytes)).status e 0
    else k.status e 3
  | .park resume => k.park e resume
  | .frkill => k.frkill e
  | .tmove => k.tmove e
  | .preempt resume => k.preempt e resume
  | .routew => k.routew e
  | .slateq kind =>
    let v := k.s.slateWord k.t kind e.a.toNat
    match k.supKey e with
    | some q => let r := k.s.readUnder k.t q.1 q.2 512 v; Com.answer { k with s := r.2 } e (.scalar r.1)
    | none => k.answer e (.scalar v)
  | .watch kind sig n => k.watch e kind sig n
  | _ => k

/-- A supervisor effect at its commit; the others are those of user frames. -/
def Com.supEffect (k : Com) (site : Site) (e : Eff) : Com :=
  match e.op with
  | .csrw _ | .tlbinv _ | .nsbind | .park _ | .frkill | .tmove | .preempt _ | .routew | .slateq _ | .watch _ _ _ => k.once e fun k => k.supAct e
  | _ => k.effect site e

/-! ### Completion of the operations that wait (R347 to R349) -/

/-- A target's part of a supervisor operation is complete, whatever becomes of it afterwards: it leaves the targets still to come (R348). -/
def SupWait.parkedAt (t : Nat) (id : BitVec 32) : SupWait → SupWait
  | .parked l => .parked (l.filter (· != (t, id)))
  | .preempted l => .preempted (l.filter (· != (t, id)))
  | w => w

/-- As parkedAt, of a restore. -/
def SupWait.restoredAt (t : Nat) (id : BitVec 32) : SupWait → SupWait
  | .restored l => .restored (l.filter (· != (t, id)))
  | w => w

/-- The supervisor operations in progress on every tile take note of a target, with what the slates keep of them. -/
def State.latchSups (s : State) (g : SupWait → SupWait) : State :=
  let dom (c : CDom) : CDom := { c with sups := c.sups.mapVal fun x => { x with wait := g x.wait } }
  { s with tiles := s.tiles.mapVal fun x => { x with
      c := dom x.c
      slate := { x.slate with
        supWaits := x.slate.supWaits.mapVal g, snap := x.slate.snap.map dom, lost := x.slate.lost.map dom
        target := x.slate.target.map fun e => { e with c := dom e.c } } } }

/-- The effect a supervisor operation waits for is complete at every target that is still to come. -/
def State.supDone (s : State) (w : SupWait) : Bool :=
  let frames (t : Nat) (id : BitVec 32) : List Frame := ((s.c t).frames.filter fun e => e.2.st != .free && e.2.task.taskId == id).map (·.2)
  let image (t : Nat) (id : BitVec 32) : Bool := (s.tile t).slate.images.any fun x => x.fr.task.taskId == id
  match w with
  | .parked l | .preempted l => l.all fun e => (frames e.1 e.2).isEmpty
  | .restored l => l.all fun e => !image e.1 e.2
  | .ended t _ id => (frames t id).isEmpty && !image t id
  | .moved id dst => !((s.c dst).placed.any fun q => q.task.taskId == id && q.st == .moving)
  | .accesses p tick => s.accessesDone p tick && s.queuesDone p tick

/-! ### The host's invalidations (R370) -/

/-- The last HTLBINV of a function is complete: every access translated before it is performed. -/
def State.invDone (s : State) (p : Nat) : Bool :=
  match (s.vf p).invTick with
  | some k => s.supDone (.accesses p k)
  | none => true

/-- HSTAT.TLBBUSY: an HTLBINV is in progress, or waits for one that is. -/
def State.tlbBusy (s : State) (p : Nat) : Bool := !s.invDone p || !(s.vf p).invWait.isEmpty

/-- The invalidations that wait are made, in their order, each once the one before it is complete. -/
def State.invNext (s : State) (p : Nat) : Nat → State
  | 0 => s
  | fuel + 1 =>
    match (s.vf p).invWait with
    | [] => s
    | (kind, va) :: rest =>
      if s.invDone p then
        State.invNext ((s.tlbRemove p kind (s.part p).asid va).modVf p fun f => { f with invTick := some s.quartz, invWait := rest }) p fuel
      else s

/-- As invNext, all of them. -/
def State.invOn (s : State) (p : Nat) : State := s.invNext p (s.vf p).invWait.length

/-- HTLBINV: as TLBINV on the partition's ASID; one made while another is in progress waits. -/
def State.htlbinv (s : State) (p : Nat) (kind : BitVec 2) (va : Nat) : State :=
  State.invOn (s.modVf p fun f => { f with invWait := f.invWait ++ [(kind, va)] }) p

/-- The status at completion (R348, R391): 2 where a park found the frame ended. -/
def State.supStatus (s : State) (w : SupWait) : Val :=
  match w with
  | .accesses _ _ => .order
  | .parked [e] => .scalar (if (s.tile e.1).slate.images.any fun x => x.fr.task.taskId == e.2 then 0 else 2)
  | _ => .scalar 0

/-- SUPERVISOR_OPERATION_COMPLETE (R347): the status of operation i is delivered once its effect is complete. -/
def execSupervisorOperationComplete (t i : Nat) (s : State) : Host.Outcome State Fault Refusal :=
  onTile t s fun s =>
    match (s.c t).sups.get? i with
    | none => s
    | some x =>
      if !s.supDone x.wait then s
      else
        let v := s.supStatus x.wait
        (s.modC t fun c => { c with sups := c.sups.erase i }).supValue t x.val x.reg x.key v

end Sys2Proof.Machine
end

