-- ==== Sys2Proof/Machine/Commit.lean ====
section
/-! DEFINITION. The commit of a block instance (R28, R29, R32, R33, R61 to R67, R148, R240 to R243), trap-block entries (R35),
the check for a tag-pool deadlock (R70), debug stops (R346, R421, R422). -/

namespace Sys2Proof.Machine

/-! ### The replay order (R148) -/

/-- The replay key of a block instance, with its frame. -/
def Inst.commitKey (i : Inst) : Nat := replayKey i i.ppath i.ppd * 64 + i.frame

/-- Whether the instance may commit now, with the number its outbound effects start from: in a replay a durable frame's
instance waits for its place in the commit log. -/
def State.commitTurn (s : State) (t : Nat) (i : Inst) : Option Nat :=
  let l := (s.tile t).slate
  let fresh := (s.c t).oseq + 1
  if !(s.frame t i.frame).pmode then some fresh
  else match l.replayLeft with
    | [] => some fresh
    | (k, o) :: _ => if k = i.commitKey then some o else none

/-- REVDIV (R148): the frame's logged commits are no longer awaited; it aborts, and the revival record counts it, unless it has ended by
another fault before (R398). -/
def State.diverged (s : State) (t f : Nat) (site : Site) (word key : Nat) : State :=
  let s := s.modSlate t fun l =>
    let left := l.replayLeft.filter fun e => e.1 % 64 != f
    { l with replayLeft := left, replaySince := s.quartz, replaying := l.replaying && !left.isEmpty }
  let fr := s.frame t f
  if !fr.pmode ∨ fr.abortRec.isSome ∨ !(fr.st == .active || fr.st == .trapped) then s
  else (s.modSlate t fun l => { l with draft := l.draft.set 7 (l.draft.getD 7 0 + 1) }).abortFrame t f site
    { cause := .revdiv, cw1 := w64 word, cw2 := Config.replayKeyHash key }

/-! ### Effects in order (R32) -/

/-- PMODE takes effect with the commit of the entry instance, which is treated under it (R337). -/
def Com.pmode (k : Com) : Com :=
  match (k.i.effs.filterMap fun e => match e.op with | .pmode d => some d | _ => none).getLast? with
  | some d => k.modFrame fun fr => { fr with pmode := d, pmodeNow := d, entrySeq := if d then k.seq else 0 }
  | none => k

/-- The effects of bundle b beyond its local stores: the stores of its SA slot, then its other slots (R32). -/
def Com.outbound (k : Com) (b : Nat) : Com :=
  (k.i.effsOf b).foldl (fun k e => k.supEffect (k.site b) e) ((k.i.storesOf b).foldl Com.storeAway k)

/-- Local stores, frame-register writes, then the other effects, each in bundle index order. What waits for the stores of its own commit
has those that stand in the stash pushed to their homes (R132, R140). -/
def Com.effects (k : Com) : Com :=
  let bs := List.range 32
  let k := bs.foldl Com.stores k.pmode
  let k := bs.foldl Com.fwrites k
  let k := bs.foldl Com.outbound k
  if (k.s.c k.t).outq.any fun h => h.frame == k.f && h.upto == k.seq then k.mod fun s => s.pushAll k.t k.f else k

/-- The counters of a commit: COMMITSEQ, the outbound numbers, FPFLAGS, the frame watchdog, the commit log (R32, R148, R172,
R387, R424). -/
def Com.book (k : Com) (first : Nat) : Com :=
  let k := k.modC fun c => { c with commitSeq := k.seq, oseq := max c.oseq (k.oseq - 1) }
  let k := k.modFrame fun fr => { fr with fpflags := fr.fpflags ||| k.i.flags, watch := 0 }
  let k := k.mod fun s => s.modSlate k.t fun l => { l with oldest := match l.oldest with | some q => some q | none => some s.quartz }
  let k := k.mod fun s => s.countT k.t 14 1
  if !k.frame.pmode then k
  else k.mod fun s => s.modSlate k.t fun l => match l.replayLeft with
    | _ :: r => { l with replayLeft := r, replaySince := s.quartz, replaying := !r.isEmpty }
    | [] => { l with commitlog := l.commitlog ++ [(k.i.commitKey, first)] }

/-! ### Held tokens (R28, R61, R64, R65, R242) -/

/-- A held token is delivered, except to the instance its own commit creates; one whose tag-op names the committed instance
is dropped and counted. -/
def Com.token (k : Com) (h : HeldTok) : Com :=
  let drop (k : Com) : Com := k.mod fun s => s.countT k.t 0 1
  match h.top, k.i.ctx with
  | .next, .iter lp j => match (k.s.c k.t).nextTok lp j h with
    | some c => k.mod fun s => s.setC k.t c
    | none => drop k
  | .exit, .iter lp j => k.modC fun c => { c with loops := c.loops.adjust lp fun x => { x with exits := x.exits ++ [(j, h)] } }
  | .exit, .call id => k.modC fun c => { c with calls := c.calls.adjust id fun x => { x with held := x.held ++ [h] } }
  | .spawn, _ => k
  | _, _ => drop k

/-- An exit token of iteration j ends its loop early, unless a lower one has (R65): no live iteration stands above it. -/
def Com.exitLoop (k : Com) (lp j : Nat) : Com :=
  match (k.s.c k.t).loops.get? lp with
  | none => k
  | some x =>
    let first := match x.exitK with | some e => decide (j < e) | none => true
    if first then
      (k.modC fun c => { c with loops := c.loops.set lp { x with exitK := some j, sentNext := x.sentNext.filter fun e => decide (e.1 ≤ j) } }).mod
        fun s => s.discardIters k.t lp fun a => decide (a > j)
    else k

/-- The tokens held to the commit with those that the commit fires, each bundle instance's in the order of its slots (R187). -/
def Com.allToks (k : Com) : List HeldTok := k.toks.foldl insertTok k.i.held

/-- Every held token, in order; an exit token ends its loop early (R65). -/
def Com.tokens (k : Com) : Com :=
  let l := k.allToks
  let exits := l.any fun h => h.top == .exit
  l.foldl Com.token (match k.i.ctx with | .iter lp j => if exits then k.exitLoop lp j else k | _ => k)

/-! ### Loops and calls that start (R62, R66, R242) -/

/-- The record of a loop that an instance starts. -/
def Inst.newLoop (i : Inst) (n : Nat) (isVec isWhile : Bool) (trip window body cont : Nat) (p : BitVec 8) (pd bun : Nat) (toks : List HeldTok) : Loop :=
  { frame := i.frame, vec := isVec, isWhile := isWhile, trip := trip, window := window, body := body, cont := cont, loopId := n * 32 + bun,
    depth := i.depth + 1, ppath := p, ppd := pd, iter := i.iter, runBase := i.runBase, runLen := i.runLen, outer := i.loopId,
    outPpath := i.ppath, outPpd := i.ppd, parent := i.parent, ctx := i.ctx, anc := i.anc, tt := i.tt, ordinal := i.ordinal, next := 0,
    live := [], committed := [], exitK := none, heldNext := [], exits := [], spawnToks := toks, late := 0, lateToks := [], left := [] }

/-- The record of a call that an instance makes. -/
def Inst.newCall (i : Inst) (ret : Nat) (p : BitVec 8) (pd : Nat) : Call :=
  { frame := i.frame, ret := ret, depth := i.depth, iter := i.iter, runBase := i.runBase, runLen := i.runLen, loopId := i.loopId,
    parent := i.parent, ppath := i.ppath, ppd := i.ppd, cpath := p, cpd := pd, ctx := i.ctx, anc := i.anc, tt := i.tt, ordinal := i.ordinal,
    held := [], returned := none, ended := false, late := 0 }

/-- The continuation of a loop enters the entry of the instance that retires, or none is free (R67). -/
def Com.cont (k : Com) (lp e : Nat) : Option Com :=
  ((k.s.c k.t).replaceEntry e).map fun x => k.mod fun s => s.enterCont k.t lp x

/-- A loop starts: with no iteration its continuation is entered at once (R63). -/
def Com.startLoop (k : Com) (x : Loop) (e : Nat) : Option Com :=
  let id := (k.s.c k.t).nextId
  let k := k.modC fun c => { c with loops := c.loops.set id x, nextId := id + 1 }
  if x.count = 0 then k.cont id e else some (k.modC fun c => c.spawnIter id)

/-- A call starts: its callee is entered in a free entry, or none is free, or the frame spawns no more (R389). -/
def Com.startCall (k : Com) (callee ret : Nat) (p : BitVec 8) (pd : Nat) : Option Com :=
  let c := k.s.c k.t
  let id := c.nextId
  if !(c.frame k.f).spawns then none else c.freeEntry.map fun e => k.modC fun c =>
    CDom.enterCallee { c with calls := c.calls.set id (k.i.newCall ret p pd), nextId := id + 1 } id k.n e k.i callee p pd
      (k.allToks.filter fun h => h.top == .spawn)

/-- What follows an instance that enters no successor of its own (R243). -/
def Com.follow (k : Com) (e : Nat) : Option Com :=
  let toks := k.allToks.filter fun h => h.top == .spawn
  match k.i.spawn with
  | some (.loop vec t w body cont p pd bun) => k.startLoop (k.i.newLoop k.n vec false t (max 1 (min w.toNat 4096)) body cont p pd bun toks) e
  | some (.whileLoop body cont p pd bun) => k.startLoop (k.i.newLoop k.n false true 1 1 body cont p pd bun toks) e
  | some (.call callee ret p pd _) => k.startCall callee ret p pd
  | none =>
    let r := k.s.chainEnd k.t 20 k.i.ctx
    let k := { k with s := r.2 }
    match r.1, k.i.ctx with
    | some lp, _ => k.cont lp e
    | none, .iter lp _ => some (k.modC fun c => c.spawnIter lp)
    | none, _ => some k

/-! ### The end of the instance (R27, R29, R345) -/

/-- TEND commits (R27 steps 1 and 2, R336): the frame's other instances go, its subscriptions end, its stash is flushed. -/
def State.endFrame (s : State) (t f : Nat) : State :=
  let s := ((s.c t).issued.filter fun x => x.set.frame == f).foldl (fun s x => s.withdrawWaits t x.id) s
  let s := (s.closeSubs t f).pushAll t f
  s.modC t fun c => ((c.discardFrame f).dropJobs f).modFrame f fun fr => { fr with st := .ending, park := .none }

/-- TRET skip (R345): the kept set and its block instance are discarded without commit, and its chain ends with it (R62). -/
def State.trapSkip (s : State) (t f : Nat) : State :=
  let c := s.c t
  match (c.trappedSet f).bind fun x => (c.inst? x.inst).map fun i => (x.inst, i) with
  | some (n, i) =>
    let s := (c.issued.filter fun x => x.inst == n).foldl (fun s x => s.withdrawWaits t x.id) s
    ((s.modC t fun c => (c.dropLanes i).2.discardInst n).chainEnd t 20 i.ctx).2
  | none => s

/-- The instance retires and what it enters is entered (R29, R67): none where an entry it needs is not free. -/
def Com.retire (k : Com) (e : Nat) : Option Com :=
  let r := (k.s.c k.t).dropOperands k.n k.i
  let k := k.mod fun s => (s.setC k.t ((r.2.leaveBlock k.i).release e)).countT k.t 1 r.1
  let tret := k.i.effs.findSome? fun x => match x.op with | .tret skip => some skip | _ => none
  let k := match tret with | some skip => (if skip then k.mod fun s => s.trapSkip k.t k.f else k).mod fun s => (s.discardTree k.t k.f).modC k.t fun c => c.trapReturn k.f | none => k
  let again (k : Com) : Com := k.modC fun c => if k.i.runLen > 0 then c.rematch k.f k.i.loopId k.i.block else c
  match k.i.term with
  | some .tend => some (k.mod fun s => s.endFrame k.t k.f)
  | some (.goto block) => ((k.s.c k.t).replaceEntry e).map fun x => k.modC fun c => c.enterGoto k.i block x
  | some .retb =>
    match k.i.ctx with
    | .call id => ((k.s.c k.t).replaceEntry e).map fun x => k.modC fun c => c.enterReturn id x
    | _ => some k
  | _ => (k.follow e).map again

/-! ### Debug stops (R346, R421, R422) -/

/-- The step armed for a frame is taken. -/
def State.stepArmed (s : State) (t f : Nat) : Bool := (s.part (s.partOf t)).hdstep == some (t, f)

/-- A stop record, and the marker that parks the frame unless it has ended. -/
def Com.stopAt (k : Com) (reason bun : Nat) (tag : BitVec 4) : Com :=
  let fr := k.frame
  let block := if k.i.depth = 0 then k.i.block
    else match (k.s.c k.t).insts.find? fun e => e.2.frame == k.f && e.2.depth == 0 with | some e => e.2.block | none => 0
  let k := k.mod fun s => s.publishRecord (.tile k.t) fr.part traceTensor fr.task.taskId false
    (traceWords s.tick 2 tag.toNat 0 k.f k.t k.i.block bun fr.task.taskId k.seq [w64 reason, tagWord k.f k.n k.i.ppath k.i.ppd, w64 block])
  if reason = 3 ∨ !fr.parkable then k else k.mod fun s => s.askPark k.t k.f 3

/-- The stop that this commit causes, if any: a BRK, else an armed step; none in a replay. -/
def Com.stops (k : Com) (replay : Bool) : Com :=
  let step := k.s.stepArmed k.t k.f
  let k := if step then k.mod fun s => s.modPart (s.partOf k.t) fun p => { p with hdstep := none } else k
  if replay then k
  else match k.brk with
    | some (bun, tag) => k.stopAt (if k.i.term = some .tend then 3 else 1) bun tag
    | none => if step && (k.s.c k.t).dbgctl.getLsbD k.f && k.i.term != some .tend then k.stopAt 2 0 0 else k

/-! ### Commit -/

/-- The commit of the instance in an entry (R32): whole, or not at all where a replacement finds no entry or an effect fails.
A failing effect discards the instance and aborts the frame (R319, R346); a refused claim aborts it after the commit (R316). -/
def State.commit (s : State) (t e : Nat) : State :=
  let c := s.c t
  match c.insts.get? e with
  | none => s
  | some i =>
    if !c.pendCommit.contains e || !i.finished then s
    else match s.commitTurn t i with
      | none => s
      | some first =>
        let n := instNum e i.gen
        let replay := (s.tile t).slate.replaying && (s.frame t i.frame).pmode
        let k : Com := ⟨s, t, n, i, c.commitSeq + 1, first, [], none, none, none⟩
        let k := k.effects
        match k.bad with
        | some (bun, f) => if f.cause = .revdiv then s.diverged t i.frame (k.site bun) 0 i.commitKey else s.abortFrame t i.frame (k.site bun) f
        | none =>
          match ((k.book first).tokens).retire e with
          | some k =>
            let s := (((k.stops replay).s.checkHolding t).releaseHeld t).retrySends t
            match k.refused with
            | some (bun, f) => s.abortFrame t i.frame (k.site bun) f
            | none => s
          | none => s

/-! ### Trap entry and deadlock (R35, R70) -/

/-- TRAP_ENTRY (R35 step 4): a depth-0 instance of the trap block, without the throttle. -/
def execTrapEntry (t f : Nat) (s : State) : Host.Outcome State Fault Refusal :=
  onTile t s fun s =>
    let c := s.c t
    match c.trapEntries.contains f, c.freeEntry with
    | true, some e => s.modC t fun c =>
        let c := { c with trapEntries := c.trapEntries.filter (· != f) }
        let r := c.enterAt e { Inst.blank f with tt := true, block := bits (c.frame f).trapv 19 0 }
        r.2.start r.1 0 0 [entryTok]
    | _, _ => s

/-- A set's cost is covered (condition 2 of R37). -/
def CDom.covers (c : CDom) (x : OpSet) : Bool := decide (c.costOf x ≤ c.bucket)

/-- A set kept from issuing only by the throttle (condition 6 of R37). -/
def State.only6 (s : State) (t : Nat) (x : OpSet) : Bool := (s.c t).covers x && s.readyBut t x false true && !s.readyBut t x false false

/-- A terminal kept from issuing, by sets alone that are themselves kept only by the throttle. -/
def State.only5 (s : State) (t : Nat) (x : OpSet) : Bool :=
  let c := s.c t
  c.covers x && c.terminalBlocked x && s.readyBut t x true false && !(c.issued.any fun y => y.inst == x.inst && y.set.frame == x.frame) &&
    (c.sets.filter fun y => y.inst == x.inst && y.frame == x.frame && y != x).all fun y => s.only6 t y

/-- Frames of a tile with a waiting spawn (R70). A loop at a depth over Dmax that R68 allows, with no entry free, waits for an entry and is
none of them (log 113: DESIGN CHOICE, unsafe). -/
def State.spawnWaiters (s : State) (t : Nat) : List Nat :=
  let c := s.c t
  ((c.sets.filter fun x => s.only6 t x).map (·.frame) ++
    (c.loops.filter fun e => e.2.wants && (c.frame e.2.frame).spawns && !c.throttleAllows e.2.depth).map (·.2.frame) ++ c.trapEntries).eraseDups

/-- A message for the compute domain of the tile that has not been taken in (R70). -/
def Msg.inbound (m : Msg) (t : Nat) : Bool :=
  m.dst == .tile t && match m.body with
    | .homeReply _ _ _ | .wbAck _ _ _ _ => true
    | .name op _ => (match op with | .copy | .ack | .regReply | .claimReply | .taskReply => true | _ => false)
    | _ => false

/-- The tag pool is deadlocked (R70). A set that a trap keeps is no COMPLETE bundle instance: the wait of its trap-block entry is
what counts (R35). A bundle instance stays FINISHED until its block instance commits or is discarded (R36). -/
def State.tagDeadlock (s : State) (t : Nat) : Bool :=
  let c := s.c t
  c.tagFree == 0 && c.issued.isEmpty && c.insts.all (fun e => !e.2.ran) && c.pendCommit.isEmpty && c.copies.isEmpty && c.array == .idle && c.outq.isEmpty &&
    c.accs.all (fun e => e.2.jobs.isEmpty) && !(s.net.any fun m => m.inbound t) &&
    c.due.all (fun e => e.2 == 0) && c.holding.isEmpty && c.arrivals.isEmpty && (c.sets.all fun x => x.kept || s.only6 t x || s.only5 t x) &&
    !(s.spawnWaiters t).isEmpty

/-- TAG_DEADLOCK_CHECK (R70), every 1,024 ticks: the frame with a waiting spawn that holds the most instances aborts with TAGX. -/
def execTagDeadlockCheck (t : Nat) (s : State) : Host.Outcome State Fault Refusal :=
  onTile t s fun s =>
    if s.quartz < (s.c t).deadTick + 1024 then s
    else
      let s := s.modC t fun c => { c with deadTick := s.quartz }
      if !s.tagDeadlock t then s else
      let c := s.c t
      let held (f : Nat) : Nat := (c.insts.filter fun e => e.2.frame == f).length
      match (s.spawnWaiters t).foldl (fun m f => match m with
          | none => some f
          | some g => if held f > held g ∨ (held f = held g ∧ f < g) then some f else some g) (none : Option Nat) with
      | none => s
      | some f => s.abortFrame t f ⟨0, 0, 0, 0, 0⟩ { cause := .tagx, cw1 := 1, cw2 := w64 c.tagFree, cw3 := w64 c.dmax }

end Sys2Proof.Machine
end

