-- ==== Sys2Proof/Machine/Lines.lean ====
section
/-! DEFINITION. Home slices (R99, R102, R109, R110): the lines a home caches, its directory, the probes it sends, the
requests it serves one at a time; atomics and signals (R138, R304, R333), watchpoints (R353), stalled pages (R115). -/

namespace Sys2Proof.Machine

/-! ### Faults of accesses (R116, R122, R123, R142) -/

/-- The live frame of a task on a tile. -/
def State.liveFrame (s : State) (t f : Nat) (taskId : BitVec 32) : Bool :=
  let fr := s.frame t f
  fr.task.taskId == taskId && (fr.st == .active || fr.st == .trapped || fr.st == .ending)

/-- A copy is given up: it completes no more. -/
def State.dropCopy (s : State) (t : Nat) (mine : Copy → Bool) : State :=
  (s.dropLate t (((s.c t).copies.find? mine).bind (·.done))).modC t fun c => { c with copies := c.copies.filter fun x => !mine x }

/-- The access of a frame that is given up is no longer waited for: its store, or its copy. -/
def State.giveUp (s : State) (t : Nat) (r : HomeReq) : State :=
  match r.ret with
  | .pend o =>
    let s' := s.modC t fun c => { c with pend := c.pend.filter fun q => q.oseq != o }
    ((s.c t).pend.filter fun q => q.oseq == o).foldl (fun s q => (s.dropLate t q.val).dropLate t q.done) s'
  | .copyRead id _ _ => s.dropCopy t fun x => x.id == id
  | .copyWrite id => s.dropCopy t fun x => x.wid == id
  | _ => s

/-- A fault of a frame found outside its tile: the frame, live or parked, aborts; one that has ended is named by a record
with ORIGIN 4 (R116, R122). -/
def State.remoteFault (s : State) (src : Agent) (t f : Nat) (taskId : BitVec 32) (i : FaultInfo) (a : At := {}) : State :=
  match (s.tile t).slate.images.find? fun x => x.fr.task.taskId == taskId with
  | some x => s.killImage t x i
  | none =>
    if s.liveFrame t f taskId then s.abortFrame t f a.site { i with slot := a.slot, lane := a.lane }
    else s.awayRecord src (s.partOf t) 4 taskId i

/-- A task of a partition that has not ended. -/
def State.liveTask (s : State) (p : Nat) (id : BitVec 32) : Bool := (s.part p).taskIds.contains id

/-- A record of a path that no frame owns (R123): ORIGIN 1, or 4 for a task whose frame has ended. A task not yet active has no frame
to name, but its stage. -/
def State.pathRecord (s : State) (src : Agent) (p t f : Nat) (taskId : BitVec 32) (i : FaultInfo) (a : At := {}) : State :=
  let named := taskId != 0xFFFFFFFF
  let live := named && s.liveFrame t f taskId
  let a : At := if live then a else {}
  if named && !live && !s.liveTask p taskId then s.awayRecord src p 4 taskId i
  else if named && !live then s.taskRecord src p 1 taskId i
  else s.publishRecord src p faultTensor taskId false
    (recordWords s.tick i.cause.code 1 a.lane a.site.bun a.slot (if live then t else 0) (if live then f else 0)
      (if live then (s.frame t f).task.stage else 0) a.site.block taskId (if a.slot = 8 then 0 else tagWord f a.site.inst a.site.p a.site.pd)
      i.addr 0 i)

/-- PROT as R382 words it, in an address space. -/
def protInfo (q va cw1 path : Nat) : FaultInfo :=
  { cause := .prot, cw1 := w64 cw1, cw2 := w64 path, cw4 := w64 (spaceAsid q).toNat, addr := w64 va }

/-- XLATE as R382 words it, in an address space. -/
def xlateInfo (q va cw1 reason : Nat) (stall : BitVec 32) : FaultInfo :=
  { cause := .xlate, cw1 := w64 cw1, cw2 := w64 reason, cw3 := w64 stall.toNat, cw4 := w64 (spaceAsid q).toNat, addr := w64 va }

/-- A request that fails at its home: the frame that owns it aborts; a fetch, a host access or a capture is told (the data
list is then empty and the value names cause and word 1); a prefetch whose walk misses is dropped, and its stash is told (R302). -/
def State.failReq (s : State) (t : Nat) (r : HomeReq) (i : FaultInfo) : State :=
  match r.sender with
  | .tile u =>
    if r.pref && i.cause == .xlate then s.post (.tile t) r.sender .reply (.homeReply { r with data := [], size := 0 } [] 0)
    else (s.giveUp u r).remoteFault (.tile t) u r.frame r.taskId { i with addr := w64 r.addr } r.at_
  | _ => s.post (.tile t) r.sender .reply (.homeReply { r with data := [], size := 0 } [] (w64 (i.cw3.toNat * 2 ^ 32 + i.cause.code * 65536 + i.cw2.toNat * 256 + i.cw1.toNat)))

/-! ### Home lines -/

def HLine.is (l : HLine) (p va : Nat) : Bool := l.part == p && l.va == lineOf va

def NDom.line? (n : NDom) (p va : Nat) : Option HLine := n.lines.find? fun l => l.is p va

/-- A line with its place in the order of use. -/
def NDom.putLine (n : NDom) (l : HLine) : NDom := { n with lines := l :: n.lines.filter fun x => !x.is l.part l.va }

def NDom.dropLine (n : NDom) (p va : Nat) : NDom := { n with lines := n.lines.filter fun x => !x.is p va }

/-- A line changed, its place in the order of use kept. -/
def NDom.modLine (n : NDom) (p va : Nat) (g : HLine → HLine) : NDom :=
  { n with lines := n.lines.map fun x => if x.is p va then g x else x }

def HLine.sector (l : HLine) (va : Nat) : HSector := l.sectors.getD (sectorOf va) {}

def HLine.setSector (l : HLine) (k : Nat) (q : HSector) : HLine :=
  { l with sectors := (List.range 4).map fun j => if j = k then q else l.sectors.getD j {} }

/-- The bytes of a home line from an address. -/
def HLine.bytes (l : HLine) (va n : Nat) : List Byte := ((l.sector va).data.drop (va % 128)).take n

/-- Bytes written into a home line. -/
def HLine.put (l : HLine) (va : Nat) (bs : List Byte) : HLine :=
  let q := l.sector va
  let old := q.data ++ List.replicate (128 - q.data.length) 0
  l.setSector (sectorOf va) { valid := true, dirty := true, data := spliceBytes old (va % 128) bs }

/-- Dirty sectors of a line. -/
def HLine.dirty (l : HLine) : List Nat := (List.range 4).filter fun k => (l.sectors.getD k {}).valid && (l.sectors.getD k {}).dirty

/-! ### The directory (R109, R110) -/

/-- The frame of a tile that a request comes from, where it can hold a copy. An engine's accesses are no frame's: they probe the copies
of the frame that launched it too (R139). -/
def HomeReq.copy? (r : HomeReq) : Option (Nat × Nat) :=
  match r.sender, r.ret with
  | .tile _, .copyRead _ _ _ | .tile _, .copyWrite _ => none
  | .tile t, _ => some (t, r.frame)
  | _, _ => none

/-- The copies a directory state names; in mask mode, every tile of the marked fields, standing for all its frames. -/
def Dir.copies (d : Dir) : List (Nat × Nat) :=
  match d with
  | .u => []
  | .s l => l
  | .x t f => [(t, f)]
  | .mask m => ((List.range Config.numFields).filter fun f => m.getLsbD f).flatMap fun f =>
      (List.range 160).map fun j => (160 * f + j, 64)

/-- The copies other than w's: in mask mode w's tile is probed for its other frames (code 65 + frame). -/
def Dir.others (d : Dir) (w : Option (Nat × Nat)) : List (Nat × Nat) :=
  match w with
  | none => d.copies
  | some w => (d.copies.filter fun c => c != w).map fun c => if c.2 = 64 ∧ c.1 = w.1 then (c.1, 65 + w.2) else c

/-- The probes of a request (R110): down or invalidate, and to whom. A fill for RX goes by the rows of an RX request (log 92: DESIGN CHOICE,
unsafe). -/
def HomeReq.probes (r : HomeReq) (d : Dir) : Bool × List (Nat × Nat) :=
  let owner : List (Nat × Nat) := match d with | .x _ _ => d.others r.copy? | _ => []
  match r.op with
  | .fill false | .load | .sigwait => (true, owner)
  | .fill true | .rx | .write => (false, d.others r.copy?)
  | .atomic _ | .sigadd => (false, d.copies)

/-- RS copies with one more: five or more are named by their fields. -/
def addCopy (l : List (Nat × Nat)) (w : Nat × Nat) : Dir :=
  if l.contains w then .s l
  else if l.length < 4 then .s (l ++ [w])
  else .mask ((l ++ [w]).foldl (fun m c => m ||| (1#64 <<< fieldOf c.1)) 0)

/-- The directory state after a request (R110). A line named by fields stays so after a write of a frame that holds a copy: it
returns to pointers only on entering U or X (R109). -/
def HomeReq.dirAfter (r : HomeReq) (d : Dir) : Dir :=
  match r.op, r.copy?, d with
  | .fill true, some w, _ | .rx, some w, _ => .x w.1 w.2
  | .fill false, some w, .u => .s [w]
  | .fill false, some w, .s l => addCopy l w
  | .fill false, some w, .mask m => .mask (m ||| (1#64 <<< fieldOf w.1))
  | .fill false, some w, .x t f => if w = (t, f) then .x t f else .s [(t, f), w]
  | .load, w, .x t f | .sigwait, w, .x t f => if w = some (t, f) then .x t f else .s [(t, f)]
  | .write, some w, .mask m => if m.getLsbD (fieldOf w.1) then .mask (1#64 <<< fieldOf w.1) else .u
  | .write, some w, .s l => if l.contains w then .s [w] else .u
  | .write, some w, .x t f => if w = (t, f) then .s [w] else .u
  | .write, _, _ | .atomic _, _, _ | .sigadd, _, _ => .u
  | _, _, d => d

/-! ### Bytes at a home -/

/-- The bytes a request is about, at its home. -/
def State.homeBytes (s : State) (t : Nat) (r : HomeReq) (a n : Nat) : List Byte :=
  if r.fsh then (s.n t).fshared.readBytes a n
  else match (s.n t).line? r.part a with
    | some l => l.bytes a n
    | none => []

def State.homePut (s : State) (t : Nat) (r : HomeReq) (bs : List Byte) : State :=
  if r.fsh then s.modN t fun n => { n with fshared := n.fshared.writeBytes r.addr bs }
  else s.modN t fun n => n.modLine r.part r.addr fun l => l.put r.addr bs

/-- The answer to a request; one that changed memory tells the epoch its home had begun (R147); the last sector of a writeback that the
directory took as writes acknowledges the writeback. -/
def State.homeAnswer (s : State) (t : Nat) (r : HomeReq) (data : List Byte) (v : W64) : State :=
  match r.ret with
  | .back va upto flush => s.post (.tile t) r.sender .reply (.wbAck r.frame va upto flush)
  | _ => s.post (.tile t) r.sender .reply (.homeReply { r with data := [], d := w64 (s.tile t).slate.epochs } data v)

/-! ### Watchpoints and signal waits (R333, R353) -/

/-- A watchpoint fires once: its value goes to its WATCH, and a record is published (R353, R420). -/
def State.fireWatch (s : State) (t : Nat) (w : Watchpoint) (value lt frame : Nat) (taskId : BitVec 32) : State :=
  let v := w64 (value % 65536 + lt * 2 ^ 16 + frame * 2 ^ 30)
  let s := s.modN t fun n => { n with watches := n.watches.erase w }
  let s := s.supValue w.requester w.late w.reg w.key (.scalar v)
  s.publishRecord (.tile t) (s.partOf t) traceTensor taskId false
    (traceWords s.tick 3 0 0 frame lt 0 0 taskId 0
      [v, w64 (w.kind.toNat + (if w.sig then 4 else 0) + w.k * 256), w.ptr])

/-- A SIGADD applied to a word fires its watchpoints: arrive, and last where the word reaches the threshold. -/
def State.watchSignal (s : State) (t : Nat) (r : HomeReq) (old new : W64) : State :=
  let lt := match r.sender with | .tile u => u | _ => 0
  let hit (w : Watchpoint) : Bool := s.mayFire t w && w.sig && w.fsh == r.fsh && w.addr == r.addr && (r.fsh || s.partOf t == spacePart r.part) &&
    (w.kind == 0 || (w.kind == 1 && decide (old.toNat < w.threshold.toNat) && decide (w.threshold.toNat ≤ new.toNat)))
  ((s.n t).watches.filter hit).foldl (fun s w => s.fireWatch t w new.toNat lt r.frame r.taskId) s

/-- Signal waits on the 8 bytes a write or an atomic touched are evaluated again (R333). -/
def State.signals (s : State) (t : Nat) (r : HomeReq) : State :=
  let on (w : HomeReq) : Bool := w.fsh == r.fsh && w.part == r.part && decide (w.addr < r.addr + r.size) && decide (r.addr < w.addr + 8)
  let ripe (w : HomeReq) : Bool := on w && decide (w.b.toNat ≤ fromBytes (s.homeBytes t w w.addr 8))
  let go := (s.n t).sigwaits.filter ripe
  go.foldl (fun s w => s.homeAnswer t w [] 0) (s.modN t fun n => { n with sigwaits := n.sigwaits.filter fun w => !ripe w })

/-! ### A request applied (R110, R138, R304, R333) -/

/-- The key of the kept atomic of a sender (R138). -/
def HomeReq.keptKey (r : HomeReq) : Nat := match r.sender with | .tile t => 64 * t + r.frame | _ => 0

/-- An atomic or SIGADD: applied, answered from the kept result, or dropped and counted (R138). -/
def State.applyAtomic (s : State) (t : Nat) (r : HomeReq) : State :=
  let kept := (s.n t).kept.get? r.keptKey
  let newest := match kept with | some k => k.oseq | none => 0
  if r.oseq < newest then s.count (spacePart r.part) 11 1
  else if r.oseq = newest ∧ kept.isSome then s.homeAnswer t r [] ((kept.map (·.result)).getD 0)
  else
    let old := fromBytes (s.homeBytes t r r.addr r.size)
    let new := match r.op with
      | .atomic op => atomicNew op r.size old (r.b.toNat % 256 ^ r.size) (r.d.toNat % 256 ^ r.size)
      | _ => (old + r.b.toNat) % 2 ^ 64
    let s := (s.homePut t r (toBytes new r.size)).modN t fun n => { n with kept := n.kept.set r.keptKey ⟨r.oseq, w64 old⟩ }
    let s := match r.op with | .sigadd => s.watchSignal t r (w64 old) (w64 new) | _ => s
    (s.signals t r).homeAnswer t r [] (match r.op with | .sigadd => 0 | _ => w64 old)

/-- A request whose probes are acknowledged and whose sector is valid is applied and answered; a write sent again after a field
revival and applied before is only acknowledged (R399). -/
def State.applyReq (s : State) (t : Nat) (r : HomeReq) : State :=
  let done := r.resent && r.oseq != 0 && decide (r.oseq ≤ (s.n t).applied? r.sender)
  let s := s.modN t fun n => n.noteApplied r.sender r.oseq
  match r.op with
  | .fill _ => s.homeAnswer t r (s.homeBytes t r (r.addr / 128 * 128) 128) 0
  | .rx => s.homeAnswer t r [] 0
  | .load => s.homeAnswer t r (s.homeBytes t r r.addr r.size) 0
  | .write => if done then s.homeAnswer t r [] 0 else ((s.homePut t r r.data).signals t r).homeAnswer t r [] 0
  | .atomic _ | .sigadd => s.applyAtomic t r
  | .sigwait =>
    if r.b.toNat ≤ fromBytes (s.homeBytes t r r.addr 8) then s.homeAnswer t r [] 0
    else s.modN t fun n => { n with sigwaits := n.sigwaits ++ [r] }

/-! ### Serving a line -/

/-- Probes leave a home; their acknowledgements are awaited. -/
def State.sendProbes (s : State) (t p va : Nat) (down : Bool) (l : List (Nat × Nat)) : State :=
  let s := s.modN t fun n => n.modLine p va fun x => { x with acks := l }
  l.foldl (fun s c => s.post (.tile t) (.tile c.1) .probe (.probe down (lineOf va) c.2)) s

/-- The sector a request needs before it can be applied: none for an RX request or a write of a whole sector. -/
def HomeReq.needs (r : HomeReq) : Bool :=
  match r.op with
  | .rx => false
  | .write => r.size != 128
  | _ => true

/-- The access path of R382 that a request to a home takes: an access of a frame, or a fetch. -/
def HomeReq.path (r : HomeReq) : Nat := match r.ret with | .fetch _ _ => 1 | _ => 0

/-- A sector of a line is to be read from HBM4E on behalf of a request (R102, R113); a fetch is on behalf of its subscriber (R123). -/
def State.askSector (s : State) (t : Nat) (r : HomeReq) : State :=
  let va := r.addr / 128 * 128
  let subscriber (a id : Nat) : Option Agent := ((s.rim a).fetches.find? fun f => f.id == id).map (·.msg.who)
  let tile := match r.sender, r.ret with
    | .tile u, _ => u
    | .rim a, .fetch id _ => (match subscriber a id with | some (.tile u) => u | _ => t)
    | _, _ => t
  s.modN t fun n => NDom.modLine { n with walks := n.walks ++
      [⟨va / 65536, r.part, va, false, r.path, r.taskId, tile, r.frame, [], none, 0⟩] } r.part r.addr fun l => { l with reading := l.reading ++ [sectorOf va] }

/-- The dirty sectors of an evicted line are to be written to HBM4E (R102, R123). -/
def State.askWrites (s : State) (t : Nat) (l : HLine) : State :=
  let ws : List Walk := l.dirty.map fun k =>
    ⟨l.va / 65536, l.part, l.va + 128 * k, true, 3, 0xFFFFFFFF, t, 0, (l.sectors.getD k {}).data, none, 0⟩
  s.modN t fun n => NDom.modLine { n with walks := n.walks ++ ws } l.part l.va fun x => { x with reading := l.dirty }

/-- A line goes on as far as it can: the next request starts, one whose probes are acknowledged is applied, a victim
whose copies are gone is written back. -/
def State.lineGo (s : State) (t p va : Nat) : Nat → State
  | 0 => s
  | fuel + 1 =>
    match (s.n t).line? p va with
    | none => s
    | some l =>
      if !l.acks.isEmpty then s
      else if l.victim then
        if l.reading.isEmpty then if l.dirty.isEmpty then s.modN t fun n => n.dropLine p va else s.askWrites t l else s
      else match l.busy, l.queue with
        | none, [] => s
        | none, r :: rest =>
          let probes := r.probes l.dir
          let s := s.modN t fun n => n.putLine { l with busy := some r, queue := rest }
          State.lineGo (s.sendProbes t p va probes.1 probes.2) t p va fuel
        | some r, _ =>
          let k := sectorOf r.addr
          if r.needs && !(l.sector r.addr).valid then
            if l.reading.contains k then s else s.askSector t r
          else
            let s := s.applyReq t r
            let s := s.modN t fun n => n.modLine p va fun x => { x with busy := none, dir := r.dirAfter x.dir }
            State.lineGo s t p va fuel

/-- A line goes on. -/
def State.lineOn (s : State) (t p va : Nat) : State :=
  s.lineGo t p va (match (s.n t).line? p va with | some l => 2 * l.queue.length + 3 | none => 0)

/-! ### Room, victims and stalled pages (R102, R115) -/

/-- A page of a partition is stalled at a home. -/
def NDom.stalled (n : NDom) (p va : Nat) : Bool := n.walks.any fun w => w.stall.isSome && w.part == p && w.page == va / 65536

/-- A line with every sector invalid, in a way. -/
def freshLine (p va : Nat) (r : HomeReq) (way : Nat := 0) : HLine :=
  { va := lineOf va, part := p, sectors := List.replicate 4 {}, dir := .u, busy := none, acks := [], queue := [r], victim := false,
    reading := [], way := way }

/-- The lowest free way of the set of an address. -/
def NDom.freeWay (n : NDom) (va : Nat) : Nat :=
  ((List.range 12).find? fun w => !n.lines.any fun l => l.va / 512 % 32 == va / 512 % 32 && l.way == w).getD 0

/-- A way of the set of an address among the ways that are left to try (R102): room at once, or none while victims are on their way out.
A victim whose page is stalled, then or already, keeps its way, and the set's other ways serve (R123). -/
def State.wayFor (s : State) (t va : Nat) : Nat → Bool × State
  | 0 => (false, s)
  | left + 1 =>
    let n := s.n t
    let set := n.lines.filter fun l => l.va / 512 % 32 == va / 512 % 32
    let asked := (n.waitReq.filter fun r => r.addr / 512 % 32 == va / 512 % 32 && !n.stalled r.part r.addr).length
    if set.length < 12 then (true, s)
    else if (set.filter fun l => l.victim && !n.stalled l.part l.va).length > asked then (false, s)
    else match (set.filter fun l => !l.victim && l.busy.isNone && l.queue.isEmpty && l.reading.isEmpty).getLast? with
      | none => (false, s)
      | some v =>
        let s := s.modN t fun n => n.modLine v.part v.va fun l => { l with victim := true }
        let s := (s.sendProbes t v.part v.va false v.dir.copies).lineOn t v.part v.va
        if ((s.n t).line? v.part v.va).isNone then (true, s)
        else if (s.n t).stalled v.part v.va then State.wayFor s t va left
        else (false, s)

/-- A way of the set of an address, each of its twelve tried at most once. -/
def State.homeRoom (s : State) (t va : Nat) : Bool × State := s.wayFor t va 12

/-- The host's accesses, which never wait for a stalled page (R142, R371). -/
def HomeReq.isHost (r : HomeReq) : Bool := match r.ret with | .hostRead _ _ | .hostWrite | .capture _ _ => true | _ => false

/-- A copy whose access is held by a translation stall remembers it (R330). -/
def State.markStalled (s : State) (r : HomeReq) : State :=
  match r.sender, r.ret with
  | .tile u, .copyRead id _ _ | .tile u, .copyWrite id => s.modC u fun c => c.modCopy id fun x => { x with stalled := true }
  | _, _ => s

/-- The line's request waits for a sector of a stalled page. -/
def HLine.stuck (l : HLine) : Bool :=
  match l.busy with
  | some b => l.acks.isEmpty && b.needs && !(l.sector b.addr).valid && l.reading.contains (sectorOf b.addr)
  | none => false

/-- A host access goes before the request that a stalled page holds: its own walk decides it (R142). -/
def HLine.hostFirst (l : HLine) (r : HomeReq) : HLine :=
  { l with busy := none, queue := r :: l.busy.toList ++ l.queue, reading := l.reading.filter fun k => k != sectorOf r.addr }

/-- A request enters its home: applied at once where field-shared, queued for its line, or waiting for a way or a page. A host access
waits for no stalled page (R142); a prefetch of one is dropped (R302). -/
def State.enterHome (s : State) (t : Nat) (r : HomeReq) : State :=
  if r.fsh then s.applyReq t r
  else
    let wait (s : State) : State := s.modN t fun n => { n with waitReq := n.waitReq ++ [r] }
    let stalled := (s.n t).stalled r.part r.addr
    if stalled && !r.isHost then (if r.pref then s.failReq t r { cause := .xlate } else wait (s.markStalled r))
    else if !stalled && (s.n t).waitReq.any fun q => q.part == r.part && lineOf q.addr == lineOf r.addr then wait s
    else match (s.n t).line? r.part r.addr with
      | some l =>
        if l.victim then wait s
        else if stalled && l.stuck then (s.modN t fun n => n.putLine (l.hostFirst r)).lineOn t r.part r.addr
        else (s.modN t fun n => n.putLine { l with queue := l.queue ++ [r] }).lineOn t r.part r.addr
      | none =>
        let q := s.homeRoom t r.addr
        if q.1 then (q.2.modN t fun n => n.putLine (freshLine r.part r.addr r (n.freeWay r.addr))).lineOn t r.part r.addr else wait q.2

/-- Requests that waited for a way or a page are tried again, in order. -/
def State.retryHome (s : State) (t : Nat) : State :=
  (s.n t).waitReq.foldl (fun s r => s.enterHome t r) (s.modN t fun n => { n with waitReq := [] })

/-- The stalled accesses a home holds (R115): those whose walks stand in the page's queue, those behind them at their lines, and those
that wait for the page. -/
def NDom.stallCount (n : NDom) : Nat :=
  (n.walks.filter fun w => n.stalled w.part w.va).length + (n.waitReq.filter fun r => n.stalled r.part r.addr).length +
    ((n.lines.filter fun l => l.stuck && n.stalled l.part l.va).map fun l => l.queue.length).foldl (· + ·) 0

/-- The requests of a home that are not answered: served or queued at its lines, waiting for a way or a page, signal waits. -/
def NDom.open (n : NDom) : List HomeReq :=
  (n.lines.flatMap fun l => l.busy.toList ++ l.queue) ++ n.waitReq ++ n.sigwaits

/-- A request can leave the ingress of a home: room for stalled accesses, and a SIGWAIT entry for a signal wait, one for each the home has
taken and not answered (R115, R333). -/
def State.homeTakes (s : State) (t : Nat) (r : HomeReq) : Bool :=
  decide ((s.n t).stallCount < 256) &&
    (match r.op with | .sigwait => decide (((s.n t).open.filter fun x => x.op == .sigwait).length < 256) | _ => true)

/-! ### Arrivals -/

/-- The home request of message m for a tile, if it may arrive. -/
def State.homeMsg (s : State) (m : Nat) : Option (Nat × HomeReq) :=
  match s.net[m]? with
  | some ⟨_, .tile t, _, .home r, _, _⟩ => if s.arrivable m && s.homeTakes t r then some (t, r) else none
  | _ => none

/-- REQUEST_AT_HOME (R110): a fill, an RX request, a load or a write. -/
def execRequestAtHome (m : Nat) (s : State) : Host.Outcome State Fault Refusal :=
  match s.homeMsg m with
  | some (t, r) => match r.op with
    | .fill _ | .rx | .load | .write => .next ((s.dropMsg m).enterHome t r)
    | _ => .next s
  | none => .next s

/-- ATOMIC_AT_HOME (R138). -/
def execAtomicAtHome (m : Nat) (s : State) : Host.Outcome State Fault Refusal :=
  match s.homeMsg m with
  | some (t, r) => match r.op with
    | .atomic _ => .next ((s.dropMsg m).enterHome t r)
    | _ => .next s
  | none => .next s

/-- SIGADD_AT_HOME (R333). -/
def execSigaddAtHome (m : Nat) (s : State) : Host.Outcome State Fault Refusal :=
  match s.homeMsg m with
  | some (t, r) => match r.op with
    | .sigadd => .next ((s.dropMsg m).enterHome t r)
    | _ => .next s
  | none => .next s

/-- SIGWAIT_AT_HOME (R333). -/
def execSigwaitAtHome (m : Nat) (s : State) : Host.Outcome State Fault Refusal :=
  match s.homeMsg m with
  | some (t, r) => match r.op with
    | .sigwait => .next ((s.dropMsg m).enterHome t r)
    | _ => .next s
  | none => .next s

/-- Sector data from a stash are applied at a home line (R107, R110). -/
def State.takeSectors (s : State) (t p va : Nat) (data : List (Nat × List Byte)) (r : HomeReq) : State :=
  data.foldl (fun s d =>
    let a := lineOf va + 128 * d.1
    let s := s.modN t fun n => n.modLine p va fun l => l.put a d.2
    s.signals t { r with part := p, addr := a, size := 128, fsh := false }) s

/-- The space of the line that a copy of a frame's belongs to: one that waits for its acknowledgement or names it, else the
partition's own (R102). -/
def State.copySpace (s : State) (t u f va : Nat) : Nat :=
  let p := s.partOf t
  let mine (l : HLine) : Bool := l.va == lineOf va && spacePart l.part == p && (l.acks.contains (u, f) || l.dir == .x u f)
  match (s.n t).lines.find? mine with
  | some l => l.part
  | none => s.space p

/-- The directory state of a line named by fields once the writing tile has acknowledged for its other frames: whether the writer
holds a copy (R109, R110). -/
def Dir.afterWriter (d : Dir) (u : Nat) (kept : Bool) : Dir :=
  match d with
  | .mask _ => if kept then .mask (1#64 <<< fieldOf u) else .u
  | d => d

/-- PROBE_ACK_AT_HOME (R110): its data are applied; the last acknowledgement lets the line go on. -/
def execProbeAckAtHome (m : Nat) (s : State) : Host.Outcome State Fault Refusal :=
  match s.net[m]? with
  | some ⟨.tile u, .tile t, _, .probeAck va f data upto kept, _, _⟩ =>
    if !s.arrivable m then .next s
    else
      let s := s.dropMsg m
      let p := s.copySpace t u f va
      match (s.n t).line? p va with
      | none => .next s
      | some _ =>
        let s := s.takeSectors t p va data { op := .write, part := p, fsh := false, addr := va, size := 512, sender := .tile u }
        let s := if data.isEmpty then s else s.post (.tile t) (.tile u) .reply (.wbAck f va upto none)
        let s := s.modN t fun n => n.modLine p va fun l =>
          { l with acks := l.acks.erase (u, f), dir := if f ≥ 65 then l.dir.afterWriter u kept else l.dir }
        .next ((s.lineOn t p va).retryHome t)
  | _ => .next s

/-- The line is about to serve an earlier request of the tile for one of the sectors that it now writes back (R135). -/
def HLine.owes (l : HLine) (u : Nat) (data : List (Nat × List Byte)) : Bool :=
  (l.busy.toList ++ l.queue).any fun r => r.sender == .tile u && data.any fun d => d.1 == sectorOf r.addr

/-- The sectors of a writeback as whole-sector writes of its frame; the last one acknowledges it. -/
def backWrites (p u f va : Nat) (data : List (Nat × List Byte)) (upto : Nat) (flush : Option (Nat × Nat × Nat)) : List HomeReq :=
  (List.range data.length).filterMap fun j => (data[j]?).map fun d =>
    { op := .write, part := p, fsh := false, addr := lineOf va + 128 * d.1, size := 128, data := d.2, sender := .tile u, frame := f,
      ret := if j + 1 = data.length then .back va upto flush else .none }

/-- WRITEBACK_AT_HOME (R107, R110, R308): the data are applied; from the owner that gave the line up, the line is U. They wait behind what
the same tile asked for before (R135), unless the home waits for that tile's acknowledgement, as whose data they then count. Where other
copies stand that the writer was no owner against, as its write around the stash left them, the data are applied as writes, which
invalidate those first (R132; log 101: DEDUCED, unsafe). -/
def execWritebackAtHome (m : Nat) (s : State) : Host.Outcome State Fault Refusal :=
  match s.net[m]? with
  | some ⟨.tile u, .tile t, _, .writeback va f data keep upto flush, _, _⟩ =>
    let p := s.copySpace t u f va
    let early := match (s.n t).line? p va with | some l => !(l.acks.any fun c => c.1 == u) && l.owes u data | none => false
    if !s.arrivable m || early then .next s
    else
      let s := s.dropMsg m
      let r : HomeReq := { op := .write, part := p, fsh := false, addr := va, size := 512, sender := .tile u }
      match (s.n t).line? p va with
      | some l =>
        let waits := l.acks.any fun c => c.1 == u
        if !waits && !data.isEmpty && l.dir != .x u f && !(l.dir.others (some (u, f))).isEmpty then
          .next ((s.modN t fun n => n.modLine p va fun l => { l with queue := l.queue ++ backWrites p u f va data upto flush }).lineOn t p va)
        else
        let s := s.takeSectors t p va data r
        let s := if !keep && !waits && l.dir == .x u f then s.modN t fun n => n.modLine p va fun l => { l with dir := .u } else s
        .next ((s.post (.tile t) (.tile u) .reply (.wbAck f va upto flush)).lineOn t p va)
      | none =>
        let s := data.foldl (fun s d => s.enterHome t { r with addr := lineOf va + 128 * d.1, size := 128, data := d.2 }) s
        .next (s.post (.tile t) (.tile u) .reply (.wbAck f va upto flush))
  | _ => .next s

end Sys2Proof.Machine
end

