-- ==== Sys2Proof/Machine/Walks.lean ====
section
/-! DEFINITION. Walks, stalls and their resolution (R111, R113, R115, R116, R123), HBM4E behind its rim agents (R121, R122, R416), page
migration (R117). -/

namespace Sys2Proof.Machine

/-- The request being served by the line of an address fails, with those queued behind it that satisfy a condition. -/
def State.failLine (s : State) (t p va : Nat) (i : FaultInfo) (also : HomeReq → Bool) : State :=
  match (s.n t).line? p va with
  | none => s
  | some l =>
    let bad := l.busy.toList ++ l.queue.filter also
    let s := s.modN t fun n => n.modLine p va fun l =>
      { l with busy := none, queue := l.queue.filter fun r => !also r, reading := l.reading.erase (sectorOf va) }
    (bad.foldl (fun s r => s.failReq t r i) s).lineOn t p va

/-! ### Walks of homes and rim agents -/

/-- The walks of a home, or of a rim agent, numbered from the tiles on. -/
def State.walksOf (s : State) (t : Nat) : List Walk := if t < Config.numTiles then (s.n t).walks else (s.rim (t - Config.numTiles)).walks

def State.setWalks (s : State) (t : Nat) (l : List Walk) : State :=
  if t < Config.numTiles then s.modN t fun n => { n with walks := l } else s.modRim (t - Config.numTiles) fun r => { r with walks := l }

/-- The agent that walks. -/
def walker (t : Nat) : Agent := if t < Config.numTiles then .tile t else .rim (t - Config.numTiles)

/-- A dirty sector of a victim has left, or is given up: the line goes with its last one (R102). -/
def State.victimDone (s : State) (t : Nat) (w : Walk) : State :=
  let s := s.modN t fun n => n.modLine w.part w.va fun l => { l with reading := l.reading.erase (sectorOf w.va) }
  match (s.n t).line? w.part w.va with
  | some l => if l.victim && l.reading.isEmpty then (s.modN t fun n => n.dropLine w.part w.va).retryHome t else s
  | none => s

/-- An access whose translation gave a physical address goes to the agent of its stack (R111, R121). -/
def State.issueHbm (s : State) (t : Nat) (w : Walk) (pa : Nat) : State :=
  let s := s.post (walker t) (.rim (pa / stackBytes)) .request (.hbm w.write pa w.data w.va w.part w.taskId w.frame w.tile w.kind 0 (sectorCrc w.data pa))
  if w.kind = 3 then s.victimDone t w else s

/-- The dirty sectors of a victim are discarded, all of them, with one record unless a stall was declined (R123). -/
def State.victimGivenUp (s : State) (t : Nat) (w : Walk) (i : FaultInfo) : State :=
  match (s.n t).line? w.part w.va with
  | some l =>
    if !l.victim || !l.reading.contains (sectorOf w.va) then s
    else
      let s := if i.cause = .xlate then s else s.pathRecord (.tile t) (spacePart w.part) 0 0 w.taskId i
      let mine (x : Walk) : Bool := x.kind == 3 && x.part == w.part && x.va / 512 == w.va / 512
      let s := s.modN t fun n => NDom.modLine { n with walks := n.walks.filter fun x => !mine x } w.part w.va fun l => { l with reading := [sectorOf w.va] }
      s.victimDone t w
  | none => s

/-- An access that is refused or given up (R113, R116, R122, R123); a stall that is declined takes those queued behind it. -/
def State.refuse (s : State) (t : Nat) (w : Walk) (i : FaultInfo) : State :=
  match w.kind with
  | 3 => s.victimGivenUp t w i
  | 2 => if i.cause = .xlate then s else s.pathRecord (walker t) (spacePart w.part) w.tile w.frame w.taskId i
  | _ => s.failLine t w.part w.va i fun r => i.cause == .xlate && !r.isHost

/-- The request a walk of a home serves. -/
def State.walkReq (s : State) (t : Nat) (w : Walk) : Option HomeReq :=
  if w.kind ≤ 1 && decide (t < Config.numTiles) then ((s.n t).line? w.part w.va).bind (·.busy) else none

/-- Whether an access reads and whether it writes (R112, R113): a store that misses writes although its sector is read from
HBM4E, an atomic does both (log 12: DEDUCED, unsafe). -/
def HomeOp.perm (o : HomeOp) : Bool × Bool :=
  match o with
  | .load | .fill false | .sigwait | .rx => (true, false)
  | .write | .fill true => (false, true)
  | .atomic _ | .sigadd => (true, true)

/-- The permissions a walk needs; a sector that the host asks for to write a part of it is written (R142). -/
def State.walkPerm (s : State) (t : Nat) (w : Walk) : Bool × Bool :=
  match s.walkReq t w with
  | some r => if r.ret == .hostWrite then (false, true) else r.op.perm
  | none => (!w.write, w.write)

/-- The stall record (R115, R123). -/
def State.stallRecord (s : State) (t : Nat) (w : Walk) (reason : Nat) (stall : BitVec 32) : State :=
  let r := s.walkReq t w
  s.pathRecord (walker t) (spacePart w.part) w.tile w.frame w.taskId
    (xlateInfo w.part ((r.map (·.addr)).getD w.va) 0 reason stall) ((r.map (·.at_)).getD {})

/-- The requests that wait at a home's lines, or for a way, for a page of an address space. -/
def NDom.pageReqs (n : NDom) (q page : Nat) : List HomeReq :=
  ((n.lines.filter fun l => l.part == q && l.va / 65536 == page).flatMap fun l => l.busy.toList ++ l.queue) ++
    n.waitReq.filter fun r => r.part == q && r.addr / 65536 == page

/-- A miss: a host access is refused and a prefetch dropped; another access stalls under a new id, with its record (R115, R142, R302). -/
def State.missed? (s : State) (t i : Nat) (w : Walk) (reason : Nat) (stall : BitVec 32) : State :=
  match s.walkReq t w with
  | some r =>
    if r.isHost || r.pref then
      State.failLine (s.setWalks t ((s.walksOf t).eraseIdx i)) t w.part w.va (xlateInfo w.part w.va 2 reason 0) fun _ => false
    else stalls s
  | none => stalls s
where
  /-- The stall is noted; copies whose accesses wait for the page remember it (R330); of the requests queued for lines of the page, the
  host's are refused and prefetches dropped. Where a victim's writeback stalls, the set's other ways serve what waited for its way (R123). -/
  stalls (s : State) : State :=
    let p := spacePart w.part
    if (s.part p).stalls.contains stall then s
    else
      let s := (s.modPart p fun q => { q with stalls := q.stalls ++ [stall] }).count p 12 1
      let s := s.setWalks t ((s.walksOf t).set i { w with stall := some stall, reason := reason })
      let s := s.stallRecord t w reason stall
      let info := xlateInfo w.part w.va 2 reason 0
      let apart (r : HomeReq) : Bool := r.isHost || r.pref
      if t < Config.numTiles then
        let s := ((s.n t).pageReqs w.part w.page).foldl (fun s r => s.markStalled r) s
        let s := ((s.n t).lines.filter fun l => l.part == w.part && l.va / 65536 == w.page).foldl (fun s l =>
          let s := s.modN t fun n => n.modLine l.part l.va fun l => { l with queue := l.queue.filter fun r => !apart r }
          (l.queue.filter apart).foldl (fun s r => s.failReq t r info) s) s
        if w.kind = 3 then s.retryHome t else s
      else s

/-- Walk i of a home, with its translation done: performed, refused, or stalled. -/
def State.settleWalk (s : State) (t i : Nat) (w : Walk) (stall : BitVec 32) : State :=
  let q := s.translate t w.part w.va
  match q.1 with
  | .miss reason => q.2.missed? t i w reason stall
  | .leaf x pa =>
    let s := q.2.setWalks t ((q.2.walksOf t).eraseIdx i)
    let m := s.walkPerm t w
    match s.protOf w.part x pa m.1 m.2 with
    | none => s.issueHbm t w pa
    | some c => s.refuse t w (protInfo w.part w.va c w.kind)

/-- The tile, or the rim agent beyond the tiles, that a walk number names. -/
def onWalker (t : Nat) (s : State) (f : State → State) : Host.Outcome State Fault Refusal :=
  if t < Config.numTiles + Config.numRims then .next (f s) else .fault .noSuchUnit

/-- A walk may go ahead: it is not stalled, nor behind a stalled access to its page (R115). -/
def walkFree (l : List Walk) (i : Nat) (host : Bool) : Bool :=
  match l[i]? with
  | none => false
  | some w => w.stall.isNone && (host || !(l.take i).any fun x => x.stall.isSome && x.part == w.part && x.page == w.page)

/-- PAGE_WALK (R113 to R115, R416): access i that waits for its translation at home t, or at rim agent t − 10,240. -/
def execPageWalk (t i : Nat) (stall : BitVec 32) (s : State) : Host.Outcome State Fault Refusal :=
  onWalker t s fun s =>
    match (s.walksOf t)[i]? with
    | none => s
    | some w =>
      let host := match s.walkReq t w with | some r => r.isHost | none => false
      let sleeps := (s.tlbLeaf t w.part w.va).isNone && s.walkWaits w.part w.va
      if walkFree (s.walksOf t) i host && !sleeps then s.settleWalk t i w stall else s

/-! ### Resolution (R116) -/

/-- The walkers of a partition. -/
def State.walkersOf (s : State) (p : Nat) : List Nat :=
  (s.part p).tiles.filter (fun t => !(s.n t).walks.isEmpty) ++ (List.range Config.numRims).map (Config.numTiles + ·)

/-- Where a stall stands. -/
def State.findStall (s : State) (p : Nat) (stall : BitVec 32) : Option (Nat × Walk) :=
  (s.walkersOf p).findSome? fun t => ((s.walksOf t).find? fun w => spacePart w.part == p && w.stall == some stall).map fun w => (t, w)

/-- An access of a page waits at a walker behind its stall; the host's do not. -/
def State.behindStall (s : State) (t : Nat) (w x : Walk) : Bool :=
  x.part == w.part && x.page == w.page && (x.stall.isSome || match s.walkReq t x with | some r => !r.isHost | none => true)

/-- The accesses of a page that wait at a walker, in order. -/
def State.pageWalks (s : State) (t : Nat) (w : Walk) : List Walk := (s.walksOf t).filter (s.behindStall t w)

/-- The walks of a walker without them. -/
def State.dropPage (s : State) (t : Nat) (w : Walk) : State := s.setWalks t ((s.walksOf t).filter fun y => !s.behindStall t w y)

/-- The stall is lifted: its id goes, and requests held for the page are taken again. -/
def State.liftStall (s : State) (t p : Nat) (stall : BitVec 32) : State :=
  let s := s.modPart p fun q => { q with stalls := q.stalls.filter (· != stall) }
  if t < Config.numTiles then s.retryHome t else s

/-- HXRES MAPPED (R116), by the enabled function of a partition (R367): the home walks again; on a leaf the queued accesses are performed in order and the stall is
lifted, on a miss a new record is published. An id that is unknown is ignored. -/
def execHxresMapped (p : Nat) (stall : BitVec 32) (s : State) : Host.Outcome State Fault Refusal :=
  if p ≥ 64 then .fault .noSuchUnit
  else if !(s.vf p).enabled || s.ctl.halted then .next s
  else match s.findStall p stall with
    | none => .next s
    | some (t, w) =>
      if s.walkWaits w.part w.va then .next s
      else match s.walk w.part w.va with
      | .miss reason =>
        let note (x : Walk) : Walk := if x.part = w.part ∧ x.stall = some stall then { x with reason := reason } else x
        .next (State.stallRecord (s.setWalks t ((s.walksOf t).map note)) t w reason stall)
      | .leaf x _ =>
        let q := s.pageWalks t w
        let s := (s.dropPage t w).tlbFill t x
        let s := q.foldl (fun s y =>
          let pa := x.pa + (y.va - x.base)
          let m := s.walkPerm t y
          match s.protOf w.part x pa m.1 m.2 with
          | none => s.issueHbm t y pa
          | some c => s.refuse t y (protInfo w.part y.va c y.kind)) s
        .next (s.liftStall t p stall)

/-- HXRES DECLINED (R116): every queued access is discarded, and the frames that own one abort with XLATE. -/
def execHxresDeclined (p : Nat) (stall : BitVec 32) (s : State) : Host.Outcome State Fault Refusal :=
  if p ≥ 64 then .fault .noSuchUnit
  else if !(s.vf p).enabled || s.ctl.halted then .next s
  else match s.findStall p stall with
    | none => .next s
    | some (t, w) =>
      let q := s.pageWalks t w
      let late (r : HomeReq) : Bool := r.part == w.part && r.addr / 65536 == w.page && !r.isHost
      let held := if t < Config.numTiles then (s.n t).waitReq.filter late else []
      let s := s.dropPage t w
      let s := if t < Config.numTiles then s.modN t fun n => { n with waitReq := n.waitReq.filter fun r => !late r } else s
      let info (va : Nat) : FaultInfo := xlateInfo w.part va 1 w.reason stall
      let s := q.foldl (fun s y => s.refuse t y (info y.va)) s
      let s := held.foldl (fun s r => s.failReq t r (info r.addr)) s
      .next (s.liftStall t p stall)

/-! ### HBM4E (R121, R122) -/

/-- The page of a physical address, and whether the agent moves it (R117). -/
def Rim.moving (r : Rim) (pa : Nat) : Bool := match r.mig with | some (a, _) => a / 65536 == pa / 65536 | none => false

/-- The tries of a sector: resends after a CRC mismatch in the low part, reissues of an uncorrectable read in steps of 8. -/
def resends (tries : Nat) : Nat := tries % 8
def reissues (tries : Nat) : Nat := tries / 8

/-- A later message of an access that has begun keeps the access's age (R349). -/
def State.postAged (s : State) (src dst : Agent) (cls : Cls) (b : Body) (birth : Nat) : State :=
  { s with net := s.net ++ [⟨src, dst, cls, b, birth, false⟩] }

/-- A write of a sector that arrives whole is performed (R84, R102): a home that holds a line which a rim agent's write
changes takes the bytes too. -/
def State.hbmWrite (s : State) (a pa va q path : Nat) (data : List Byte) : State :=
  let s : State := { s with hbm := s.hbm.writeBytes pa data }
  let h := s.lineHome (spacePart q) va
  if path = 2 ∧ ((s.n h).line? q va).isSome then
    s.post (.rim a) (.tile h) .request (.home { op := .write, part := q, fsh := false, addr := va, size := data.length, data := data,
                                                sender := .rim a, taskId := 0xFFFFFFFF })
  else s

/-- A read of a sector is answered with its bytes and their CRC (R121). -/
def State.hbmAnswer (s : State) (a : Nat) (dst : Agent) (pa va q tries birth : Nat) : State :=
  let data := s.hbm.readBytes pa 128
  s.postAged (.rim a) dst .reply (.hbmReply pa data va q tries (sectorCrc data pa)) birth

/-- A sector of a victim cannot be written: what is still on its way of the victim's dirty sectors is discarded with it, under one
record (R123). -/
def State.victimLost (s : State) (src : Agent) (q va : Nat) : State :=
  let mine (m : Msg) : Bool := m.src == src && match m.body with
    | .hbm w _ _ v p _ _ _ path _ _ => w && path == 3 && p == q && v / 512 == va / 512
    | _ => false
  let s : State := { s with net := s.net.filter fun m => !mine m }
  match src with
  | .tile t => match (s.n t).line? q va with
    | some l => match l.reading with
      | k :: _ => s.victimGivenUp t ⟨va / 65536, q, va / 512 * 512 + 128 * k, true, 3, 0xFFFFFFFF, t, 0, [], none, 0⟩ { cause := .xlate }
      | [] => s
    | none => s
  | _ => s

/-- HBM_ACCESS_AT_RIM (R117, R121, R122): a read is answered, a write performed; a write
whose CRC does not match is sent again up to three times, then given up; any other access to a page on the move is queued. -/
def execHbmAccessAtRim (m : Nat) (crcOk : Bool) (s : State) : Host.Outcome State Fault Refusal :=
  match s.net[m]? with
  | some ⟨src, .rim a, cls, .hbm w pa data va q taskId f tile path tries crc, b, sm⟩ =>
    let whole := !w || (crcOk && crc == sectorCrc data pa)
    if !s.arrivable m || (s.rim a).selfRefresh || (s.rim a).full then .next s
    else if whole && (s.rim a).moving pa then
      .next ((s.dropMsg m).modRim a fun r => { r with queue := r.queue ++ [⟨src, .rim a, cls, .hbm w pa data va q taskId f tile path tries crc, b, sm⟩] })
    else
      let s := s.dropMsg m
      if !w then .next (s.hbmAnswer a src pa va q tries b)
      else if whole then .next ((s.hbmWrite a pa va q path data).invOn (spacePart q))
      else if resends tries < 3 then
        .next (((s.postAged src (.rim a) .request (.hbm w pa data va q taskId f tile path (tries + 1) (sectorCrc data pa)) b).life (fieldOf tile) 5 1).count
          (spacePart q) 11 1)
      else
        let s := if path = 3 then s.victimLost src q va else s
        .next ((s.pathRecord (.rim a) (spacePart q) tile f taskId (protInfo q va 3 path)).invOn (spacePart q))
  | _ => .next s

/-- A sector that fails for good takes every access to it that its line holds (R122). -/
def State.sectorFails (s : State) (t q va : Nat) : State :=
  let path := (((s.n t).line? q va).bind (·.busy)).elim 0 HomeReq.path
  s.failLine t q va (protInfo q va 3 path) fun r => r.needs && sectorOf r.addr == sectorOf va

/-- A sector of a line has been read: the line goes on. -/
def State.sectorRead (s : State) (t q va : Nat) (data : List Byte) : State :=
  let land (l : HLine) : HLine := if (l.sector va).valid then l else l.setSector (sectorOf va) { valid := true, dirty := false, data := data }
  let s := s.modN t fun n => n.modLine q va fun l => { land l with reading := l.reading.erase (sectorOf va) }
  s.lineOn t q va

/-- HBM_SECTOR_REPLY (R121, R122): a good sector lands in its home line; a mismatch is sent again up to three times, an
uncorrectable read is reissued once, and a sector that still fails is never delivered. -/
def execHbmSectorReply (m : Nat) (st : SectorStatus) (s : State) : Host.Outcome State Fault Refusal :=
  match s.net[m]? with
  | some ⟨.rim a, .tile t, cls, .hbmReply pa data va q tries crc, b, _⟩ =>
    if !s.arrivable m then .next s
    else
      let s := s.dropMsg m
      let bad := crc != sectorCrc data pa
      match st, bad with
      | .good, false => .next ((s.sectorRead t q va data).invOn (spacePart q))
      | .crcBad, _ | .good, true =>
        if resends tries < 3 then
          .next (((s.postAged (.rim a) (.tile t) cls (.hbmReply pa data va q (tries + 1) (sectorCrc data pa)) b).life (fieldOf t) 5 1).count
            (spacePart q) 11 1)
        else .next ((s.sectorFails t q va).invOn (spacePart q))
      | .uncorrectable, _ =>
        if reissues tries < 1 then
          .next (s.postAged (.tile t) (.rim a) .request (.hbm false pa [] va q 0xFFFFFFFF 0 t 0 (tries + 8) (sectorCrc [] pa)) b)
        else .next ((s.sectorFails t q va).invOn (spacePart q))
  | _ => .next s

/-- Every field attached to a rim agent is critical (R416). -/
def State.attachedCritical (s : State) (a : Nat) : Bool :=
  (List.range Config.rimRouters).all fun k => (s.hub (fieldOf (edgeRouter (Config.rimPort (Config.rimRouters * a + k))))).level == 3

/-- STACK_SELF_REFRESH (R416): the agent's stack enters self-refresh where its own sensor has reached CRIT, or every field attached to the
agent is critical; requests to it wait. -/
def execStackSelfRefresh (agent : StackReading) (s : State) : Host.Outcome State Fault Refusal :=
  if agent.agent ≥ Config.numRims then .fault .noSuchUnit
  else .next (if agent.temp.toInt ≥ 16 * s.pf.crit.toNat ∨ s.attachedCritical agent.agent then
    s.modRim agent.agent fun r => { r with selfRefresh := true } else s)

/-! ### Page migration (R117) -/

/-- PAGE_MIGRATION (R117 steps 1 to 3): the owning agent blocks the source page and copies it, once neither stack is in self-refresh
(R416). A command to an agent that still moves a page, or with an address that is not a page's, changes nothing (log 80: DESIGN
CHOICE, unsafe). -/
def execPageMigration (src dst : Nat) (s : State) : Host.Outcome State Fault Refusal :=
  let a := src / stackBytes
  if a ≥ Config.numRims ∨ dst / stackBytes ≥ Config.numRims then .fault .noSuchUnit
  else if src % 65536 ≠ 0 ∨ dst % 65536 ≠ 0 ∨ (s.rim a).mig.isSome ∨ s.asleep src ∨ s.asleep dst then .next s
  else
    let s : State := { s with hbm := s.hbm.writeBytes dst (s.hbm.readBytes src 65536) }
    .next (s.modRim a fun r => { r with mig := some (src, dst), inv := none })

/-- A queued access is performed at the destination of its page. -/
def State.forwardOne (s : State) (agent src dst : Nat) (m : Msg) : State :=
  match m.body with
  | .hbm w pa data va q _ _ _ path tries _ =>
    let pa := dst + (pa - src)
    if w then s.hbmWrite (dst / stackBytes) pa va q path data
    else s.hbmAnswer agent m.src pa va q tries m.birth
  | _ => s

/-- An access that waits behind the agent's full queue goes to the destination of its page, where its CRC is checked as it arrives (R122). -/
def Msg.redirected (src dst : Nat) (m : Msg) : Msg :=
  match m.body with
  | .hbm w pa data va q id f t path tries crc =>
    let at_ := dst + (pa - src)
    let good := sectorCrc data at_
    { m with dst := .rim (dst / stackBytes), body := .hbm w at_ data va q id f t path tries (if crc = sectorCrc data pa then good else ~~~good) }
  | _ => m

/-- Accesses of the moving page that wait in their class behind the agent's full queue. -/
def State.behindQueue (s : State) (agent src p tick : Nat) (m : Msg) : Bool :=
  m.dst == .rim agent && m.accessOf p tick && match m.body with | .hbm _ pa _ _ _ _ _ _ _ _ _ => pa / 65536 == src / 65536 | _ => false

/-- MIGRATION_FORWARD (R117 steps 5 to 7): once the TLBINV is complete, the accesses queued at the agent are performed at the destination
in order, the one numbered 0 first, before any that arrives there later; those that its full queue keeps in their class go on to the
destination; the block is lifted. -/
def execMigrationForward (agent i : Nat) (s : State) : Host.Outcome State Fault Refusal :=
  if agent ≥ Config.numRims then .fault .noSuchUnit
  else match (s.rim agent).mig, (s.rim agent).inv with
    | some (src, dst), some (p, tick) =>
      if i ≠ 0 ∨ !s.accessesDone p tick ∨ s.asleep dst then .next s
      else
        let late := s.behindQueue agent src p tick
        let q := (s.rim agent).queue
        let s : State := { s with net := s.net.map fun m => if late m then m.redirected src dst else m }
        let s := s.modRim agent fun r => { r with mig := none, inv := none, queue := [] }
        .next ((q.foldl (fun s m => s.forwardOne agent src dst m) s).invOn p)
    | _, _ => .next s

end Sys2Proof.Machine
end

