-- ==== Sys2Proof/Machine/Gateway.lean ====
section
/-! DEFINITION. The host gateway (R142, R371, R372): the accesses of a function in their order, the headers of the publish window,
captures, and what comes back to the gateway. -/

namespace Sys2Proof.Machine

/-! ### Refused accesses (R142) -/

/-- The words of a refused host access (R142): cause, path or reason, word 1. -/
def hostRefusal (v : W64) : Nat × Nat × Nat := (bits v 31 16, bits v 15 8, bits v 7 0)

/-- A record of the gateway (R381). -/
def State.hostRecord (s : State) (p : Nat) (i : FaultInfo) : State :=
  s.publishRecord (.gateway p) p faultTensor 0xFFFFFFFF false (recordWords s.tick i.cause.code 2 0 0 0 0 0 0 0 0xFFFFFFFF 0 i.addr 0 i)

/-- A refused access of the host: B4ERR, and a record with ORIGIN 2 (R142, R371). -/
def State.hostRefused (s : State) (p va : Nat) (v : W64) : State :=
  let q := hostRefusal v
  let i := if q.1 = Cause.xlate.code then xlateInfo (s.space p) va 2 q.2.1 0 else protInfo (s.space p) va q.2.2 0
  (s.modVf p fun f => { f with hstat := f.hstat ||| 0x100#64 }).hostRecord p i

/-! ### Requests of the gateway -/

/-- A request of the gateway leaves for the home of an address. -/
def State.hostReq (s : State) (p va n : Nat) (op : HomeOp) (data : List Byte) (ret : Ret) : State :=
  s.post (.gateway p) (.tile (s.lineHome p va)) .request
    (.home { op := op, part := s.space p, fsh := false, addr := va, size := n, data := data, sender := .gateway p, frame := 64, taskId := 0xFFFFFFFF, ret := ret })

/-- Requests for the pieces of n bytes from an address, none crossing a sector. -/
def State.hostPieces (s : State) (p va n : Nat) (f : Nat × Nat → HomeOp × List Byte × Ret) : State :=
  (chunks va n).foldl (fun s q => let r := f q; s.hostReq p (va + q.1) q.2 r.1 r.2.1 r.2.2) s

/-! ### Publish headers (R371, R372) -/

/-- Bit of a publish slot. -/
def slotBit (k : Nat) : BitVec 16 := 1#16 <<< k

/-- The header that a busy publish slot holds, told apart from every other of its function (log 76: DEDUCED, unsafe). -/
def Vf.use (f : Vf) (slot : Nat) : Nat := 16 * f.slotUse.getD slot 0 + slot % 16

/-- A header takes a publish slot: BUSY is set (R371). -/
def Vf.takeSlot (f : Vf) (slot : Nat) : Vf :=
  { f with busy := f.busy ||| slotBit slot, uses := f.uses + 1, slotUse := f.slotUse.set slot (f.uses + 1) }

/-- The header numbered `use` leaves its publish slot: BUSY clears, where the slot still holds it (R371). -/
def Vf.freeSlot (f : Vf) (use : Nat) : Vf :=
  if f.slotUse.get? (use % 16) = some (use / 16) then
    { f with busy := f.busy &&& ~~~slotBit (use % 16), slotUse := f.slotUse.erase (use % 16) }
  else f

/-- Tile bytes of a publish slot as they stand (R371). -/
def Vf.tileBytes (f : Vf) (slot n : Nat) : List Byte := f.payload.readBytes (slot * 0x20000 + 0x10000) n

/-- The cause for which a header is refused (R372). -/
def headerCause (p : Partition) (w0 w1 w2 w3 : W64) : Option Cause :=
  let n := nameOf w0 w1
  if bits w0 63 56 ≠ 0 ∨ bits w1 63 40 ≠ 0 then some .namecfg
  else if n.ns = 0 ∧ n ≠ sysName 2 then some .priv
  else match nameCheck p 63 w0 w1 0 false false with
    | some c => some c
    | none =>
      let sec := match p.binding n.ns n.tensor with | some b => b.tilesec | none => 0
      let src := w2.getLsbD 16
      if bits w2 9 0 ≠ sec ∨ bits w2 63 17 ≠ 0 ∨ bits w2 15 10 ≠ 0 then some .namecfg
      else if !src && w3 != 0 then some .namecfg
      else if src && (bits w3 6 0 != 0 || bits w3 63 56 != 0) then some .namecfg
      else none

/-- A captured tile is published; the launch name is noted (R371, R372). -/
def State.hostPublish (s : State) (p slot : Nat) (w0 w1 : W64) (bytes : List Byte) : State :=
  let n := nameOf w0 w1
  s.post (.gateway p) (s.nameAgent p n) .nameData
    (.name .publish { name := n, ver := nameVer w1, who := .gateway p, slot := (s.vf p).use slot, taskId := 0xFFFFFFFF, bytes := bytes, tick := s.tick, origin := 1 })

/-- A header is refused (R372). -/
def State.headerRefused (s : State) (p slot : Nat) (w0 w1 : W64) (c : Cause) : State :=
  let i : FaultInfo := if c = .priv then { cause := .priv } else { cause := c, cw2 := w0, cw3 := w1 }
  (s.modVf p fun f => { f.freeSlot (f.use slot) with err := f.err ||| slotBit slot }).hostRecord p i

/-- A launch version has been taken by the loader (R377): versions are counted modulo 2^16. -/
def Partition.launched (p : Partition) (v : BitVec 16) : Bool :=
  p.nextLaunch != 0 && decide ((BitVec.ofNat 16 (p.nextLaunch - 1) - v).toNat < 32768)

/-- A launch that was not captured has no bindings to wait for (R372). -/
def State.launchGone (s : State) (p : Nat) (c : Capture) : State :=
  if nameOf c.hi c.lo = sysName 2 then s.modPart p fun q => { q with launchSeen := q.launchSeen.erase (nameVer c.lo) } else s

/-- A header is checked and its tile captured (R371, R372). -/
def State.takeHeader (s : State) (p slot : Nat) (w0 w1 w2 w3 : W64) : State :=
  match headerCause (s.part p) w0 w1 w2 w3 with
  | some c => s.headerRefused p slot w0 w1 c
  | none =>
    let n := bits w2 9 0 * 128
    let isLaunch := nameOf w0 w1 == sysName 2 && !(s.part p).launched (nameVer w1)
    let s := if isLaunch then s.modPart p fun q => { q with launchSeen := q.launchSeen ++ [nameVer w1] } else s
    if w2.getLsbD 16 then
      let s := s.modVf p fun f => { f with captures := f.captures ++ [⟨f.use slot, w0, w1, [], bits w2 9 0⟩] }
      s.hostPieces p w3.toNat n fun q => (.load, [], .capture ((s.vf p).use slot) (q.1 / 128))
    else s.hostPublish p slot w0 w1 ((s.vf p).tileBytes slot n)

/-- The launches of a function that it wrote before a header and whose bindings are still to be applied; one of the launch name itself
waits for none (R372). -/
def State.launchesBefore (s : State) (p : Nat) (w0 w1 : W64) : List (BitVec 16) :=
  if nameOf w0 w1 = sysName 2 then [] else (s.part p).launchSeen.filter fun v => !(s.part p).launched v

/-- A header's turn has come, or the launches it waits for are fewer: those written before it, not those written after (R372). -/
def State.headerTurn (s : State) (p slot : Nat) (w0 w1 w2 w3 : W64) (before : List (BitVec 16)) : State :=
  let left := before.filter fun v => (s.part p).launchSeen.contains v && !(s.part p).launched v
  if left.isEmpty then s.takeHeader p slot w0 w1 w2 w3
  else s.modVf p fun f => { f with headers := f.headers ++ [(left, slot, w0, w1, w2, w3)] }

/-- Headers that waited for a launch are taken, in order. -/
def State.retryHeaders (s : State) (p : Nat) : State :=
  let l := (s.vf p).headers
  l.foldl (fun s h => s.headerTurn p h.2.1 h.2.2.1 h.2.2.2.1 h.2.2.2.2.1 h.2.2.2.2.2 h.1) (s.modVf p fun f => { f with headers := [] })

/-! ### The order of a function's accesses (R142, R371) -/

/-- The pieces of a BAR4 write leave for their homes. -/
def State.hostStore (s : State) (p va : Nat) (bs : List Byte) : State :=
  State.hostPieces (s.modVf p fun f => { f with b4left := (chunks va bs.length).length, b4write := none }) p va bs.length
    fun q => (.write, (bs.drop q.1).take q.2, .hostWrite)

/-- A BAR4 write begins (R142). The sectors that it does not cover whole are asked for first, so that it is refused as one access before any
of it is performed (log 102: DEDUCED, unsafe). -/
def State.hostStart (s : State) (p va : Nat) (bs : List Byte) : State :=
  let asks := (chunks va bs.length).filter fun q => q.2 != 128
  if asks.isEmpty then s.hostStore p va bs
  else asks.foldl (fun s q => s.hostReq p (va + q.1) q.2 .load [] .hostWrite)
    (s.modVf p fun f => { f with b4left := asks.length, b4write := some (va, bs), b4bad := false })

/-- The accesses of a function take their turn: nothing passes a BAR4 write that is not performed. -/
def State.posts (s : State) (p : Nat) : Nat → State
  | 0 => s
  | fuel + 1 =>
    let f := s.vf p
    if f.b4left ≠ 0 then s
    else match f.posted with
      | [] => s
      | .write va bs :: rest => State.posts (State.hostStart (s.modVf p fun f => { f with posted := rest }) p va bs) p fuel
      | .read va n :: rest =>
        let k := f.b4next
        let s := s.modVf p fun f =>
          { f with posted := rest, b4next := k + 1, b4reads := f.b4reads ++ [{ id := k, va := va, left := (chunks va n).length }] }
        State.posts (s.hostPieces p va n fun q => (.load, [], .hostRead k q.1)) p fuel
      | .header k w0 w1 w2 w3 :: rest =>
        State.posts (State.headerTurn (s.modVf p fun f => { f with posted := rest }) p k w0 w1 w2 w3 (s.launchesBefore p w0 w1)) p fuel

def State.postsOn (s : State) (p : Nat) : State := s.posts p ((s.vf p).posted.length + 1)

/-! ### Answers to the gateway (R142, R371) -/

/-- A capture with every sector is published. -/
def State.captured (s : State) (p slot : Nat) : State :=
  match (s.vf p).captures.find? fun c => c.slot == slot && c.left == 0 with
  | none => s
  | some c =>
    let s := s.modVf p fun f => { f with captures := f.captures.filter fun c => c.slot != slot }
    s.hostPublish p slot c.hi c.lo (c.data.flatMap (·.2))

/-- A piece of a BAR4 read has come: the last one completes it, with its data, or with none where a piece was refused (R142). -/
def State.readPiece (s : State) (p id off : Nat) (data : List Byte) (bad : Bool) : State :=
  s.modVf p fun f => match f.b4reads.find? fun x => x.id == id with
    | none => f
    | some x =>
      let x := { x with data := x.data.set off data, left := x.left - 1, bad := x.bad || bad }
      let rest := f.b4reads.filter fun y => y.id != id
      if x.left = 0 then { f with b4reads := rest, reads := f.reads ++ [(x.va, if x.bad then [] else x.data.flatMap (·.2), !x.bad)] }
      else { f with b4reads := x :: rest }

/-- A sector of a BAR4 write has been asked for or written: with the last answer the write is performed, dropped where one was refused, or
done (R142). -/
def State.writePiece (s : State) (p : Nat) (bad : Bool) : State :=
  let s := s.modVf p fun f => { f with b4left := f.b4left - 1, b4bad := f.b4bad || bad }
  let f := s.vf p
  if f.b4left ≠ 0 then s
  else match f.b4write with
    | some (va, bs) => if f.b4bad then (s.modVf p fun f => { f with b4write := none, b4bad := false }).postsOn p
        else (s.hostStore p va bs).postsOn p
    | none => (s.modVf p fun f => { f with b4bad := false }).postsOn p

/-- An answer reaches the gateway of a function: a read completes, a write goes on, a sector of a capture lands. An access is refused once,
with one record (R142). The first sector of a capture that is refused ends it, with the record of its header (R371). -/
def State.gatewayReply (s : State) (p : Nat) (r : HomeReq) (data : List Byte) (v : W64) : State :=
  let bad := r.size == 0
  let refused (first : Bool) : State := if bad && first then s.hostRefused p r.addr v else s
  match r.ret with
  | .hostRead id off => (refused (!((s.vf p).b4reads.any fun x => x.id == id && x.bad))).readPiece p id off data bad
  | .hostWrite => (refused (!(s.vf p).b4bad)).writePiece p bad
  | .capture slot sec =>
    let mine := (s.vf p).captures.filter fun c => c.slot == slot
    if mine.isEmpty then s
    else if bad then
      let s := (refused true).modVf p fun f => { f.freeSlot slot with
        captures := f.captures.filter fun c => c.slot != slot, err := f.err ||| slotBit (slot % 16) }
      (mine.foldl (fun s c => s.launchGone p c) s).retryHeaders p
    else State.captured (s.modVf p fun f => { f with captures := f.captures.map fun c =>
      if c.slot = slot then { c with data := c.data.set sec data, left := c.left - 1 } else c }) p slot
  | _ => s

/-! ### Name entries at a home (R81, R86) -/

def NDom.entry? (n : NDom) (x : TileName) : Option NameEntry := n.names.find? fun e => e.name == x

def NDom.modEntry (n : NDom) (x : TileName) (g : NameEntry → NameEntry) : NDom :=
  { n with names := n.names.map fun e => if e.name = x then g e else e }

/-- A name whose versions are not evicted: the fault name (R374). -/
def isFaultName (x : TileName) : Bool := x == sysName 1

/-- A version is released (R86). -/
def State.releaseVer (s : State) (t : Nat) (x : TileName) (v : BitVec 16) : State :=
  s.modN t fun n => n.modEntry x fun e => { e with retained := e.retained.filter fun r => r.ver != v, touched := s.quartz }

/-! ### Entries of the subscription table (R373, R374) -/

def HostSub.mode (e : HostSub) : Nat := bits e.w2 5 4
def HostSub.mask (e : HostSub) : BitVec 4 := e.w2.extractLsb' 0 4
def HostSub.ring (e : HostSub) : Nat := 2 ^ bits e.w2 8 6
def HostSub.name (e : HostSub) : TileName := nameOf e.hi e.lo

/-- The concrete names of an armed entry, in their order of delivery (R374). -/
def State.subNames (s : State) (p : Nat) (e : HostSub) : List TileName :=
  match (s.part p).binding e.name.ns e.name.tensor with
  | some b => expandNames b e.name e.mask
  | none => []

/-- An EXACT or NEXT entry has had every delivery of its arming (R373, R374). -/
def State.subSatisfied (s : State) (p : Nat) (e : HostSub) : Bool :=
  e.armed && decide (e.mode ≠ 2) && decide (e.count - e.base ≥ (s.subNames p e).length)

/-- Every armed subscription to the fault name has received a version (R374), or is for another: an EXACT one of another version, a NEXT one
that has had its version. -/
def State.faultSeen (s : State) (p : Nat) (v : BitVec 16) : Bool :=
  (s.vf p).subs.all fun e => !(e.2.armed && isFaultName e.2.name) ||
    (if e.2.mode = 2 then decide ((v - nameVer e.2.lo).toNat ≥ 32768) || decide ((v - nameVer e.2.lo).toNat < e.2.count - e.2.base)
     else (e.2.mode == 0 && nameVer e.2.lo != v) || s.subSatisfied p e.2)

/-- The fault versions that every armed subscription to the fault name has received are released (R374). -/
def State.releaseSeen (s : State) (p : Nat) : State :=
  let t := s.homeOf p (sysName faultTensor)
  let held := match (s.n t).entry? (sysName faultTensor) with | some e => e.retained.map (fun (r : Retained) => r.ver) | none => []
  if (s.vf p).subs.any fun e => e.2.armed && isFaultName e.2.name then
    (held.filter (s.faultSeen p)).foldl (fun s v => s.releaseVer t (sysName faultTensor) v) s
  else s

/-- Deliveries on their way to an entry of the subscription table. -/
def State.inFlight (s : State) (p entry : Nat) : Bool :=
  s.net.any fun m => match m.dst, m.body with
    | .gateway q, .name .copy x => q == p && x.slot == entry
    | _, _ => false

/-- An entry that is being withdrawn is free once its prunes are answered and its deliveries have landed (R373). -/
def State.subClosed (s : State) (p entry : Nat) : State :=
  match (s.vf p).subs.get? entry with
  | none => s
  | some e =>
    if e.closing && e.left == 0 && !s.inFlight p entry then
      State.releaseSeen (s.modVf p fun f => { f with
        subs := f.subs.set entry { e with armed := false, closing := false, w2 := e.w2 &&& ~~~(1#64 <<< 63) } }) p
    else s

/-- An acknowledgement at the gateway: a publish frees its slot; a prune of the entry as it is armed counts down (R371, R373). -/
def State.gatewayAck (s : State) (p : Nat) (x : NameMsg) : State :=
  if x.accepted then
    State.subClosed (s.modVf p fun f => { f with subs := f.subs.adjust x.slot fun e => if x.word = w64 e.gen then { e with left := e.left - 1 } else e }) p x.slot
  else s.modVf p fun f => f.freeSlot x.slot

end Sys2Proof.Machine
end

