-- ==== Sys2Proof/Machine/Replies.lean ====
section
/-! DEFINITION. What comes back to a tile: loads, fills, grants, probes, acknowledgements (R105 to R108, R133, R301), the waits
they end (R136, R139, R147, R308), answers to claims, spawns and name operations (R311, R317, R335). -/

namespace Sys2Proof.Machine

/-! ### Performance (R132, R133, R138) -/

/-- What follows a store or atomic being performed: held messages and loads may leave. -/
def State.goOn (s : State) (t : Nat) : State := (s.releaseHeld t).retrySends t

/-- A store or atomic of the tile changed by its number. -/
def CDom.modPend (c : CDom) (o : Nat) (g : Pend → Pend) : CDom := { c with pend := c.pend.map fun q => if q.oseq = o then g q else q }

/-- A store or atomic has been applied at its home, in an epoch of that home. -/
def CDom.perform (c : CDom) (o home epoch : Nat) (v : W64) : CDom :=
  { c with pend := c.pend.map fun q =>
      if q.oseq = o ∧ !q.performed then { q with performed := true, homeDur := some (home, epoch), result := v } else q }

/-- A reply of a durable frame enters the inbound log (R148). -/
def State.logReply (s : State) (t f : Nat) (m : Msg) : State :=
  if (s.frame t f).pmode then s.logDelivery t m 32 else s

/-- The tokens of a store or atomic that is performed at its scope fire, an atomic's old value before its done token (R133, R305). -/
def State.firePend (s : State) (t : Nat) (q : Pend) (src : Nat := 6) : State :=
  let s := s.modC t fun c => c.modPend q.oseq fun x => { x with val := none, done := none }
  let s := match q.val with | some l => s.fireLate t l (.scalar q.result) src | none => s
  s.fireDone t q.done src

/-- The tokens of a store or atomic whose frame a power loss took are dropped with its answer, and counted (R49, R50). -/
def State.dropGone (s : State) (t o : Nat) : State :=
  let mine (x : Orphan) : Bool := x.issue == 0 && x.wait == o
  let l := (s.c t).orphans.filter mine
  (s.modC t fun c => l.foldl (fun (c : CDom) x => c.subDue x.inst 1) { c with orphans := c.orphans.filter fun x => !mine x }).countT t 0 l.length

/-- The answer to a store, an atomic or a SIGADD: the value and the done token of an atomic come with it, but at host scope (R304, R305). -/
def State.performed (s : State) (t home o : Nat) (r : HomeReq) (v : W64) (src : Nat := 6) : State :=
  let s := (s.dropGone t o).modC t fun c => c.perform o home r.d.toNat v
  let s := match (s.c t).pend.find? fun q => q.oseq == o && q.rmw && q.scope != 3 with
    | some q => s.firePend t q src
    | none => s
  s.goOn t

/-- Writebacks of a line up to a store are applied at the home. -/
def CDom.performPushed (c : CDom) (f va upto home epoch : Nat) : CDom :=
  { c with pend := c.pend.map fun q =>
      if q.frame = f ∧ q.global ∧ lineOf q.va = lineOf va ∧ (q.place = .pushed ∨ q.place = .again) ∧ q.oseq ≤ upto then
        { q with performed := true, homeDur := some (home, epoch) } else q }

/-- A flush of a bundle instance has one writeback less to wait for. -/
def CDom.flushAcked (c : CDom) (iss w id : Nat) : CDom :=
  c.modIssue iss fun x => { x with waits := x.waits.map fun q =>
    if q.id = w then { q with wait := match q.wait with | .flush sc ids => .flush sc (ids.erase id) | o => o } else q }

/-- A copy has one answer less to wait for; with every source byte read its writes leave. -/
def State.copyAnswer (s : State) (t : Nat) (mine : Copy → Bool) (g : Copy → Copy) : State :=
  match (s.c t).copies.find? mine with
  | none => s
  | some x =>
    let s := s.modC t fun c => c.modCopy x.id fun x => { g x with left := x.left - 1 }
    if x.reading && x.left == 1 then s.copyWrites t x.id else s

/-- The source bytes of a copy's chunk arrive, once. -/
def State.copyRead (s : State) (t id key : Nat) (data : List Byte) : State :=
  s.copyAnswer t (fun x => x.id == id && x.reading && !x.data.has key) fun x => { x with data := x.data.set key data }

/-! ### Replies to rim agents -/

/-- An answer reaches a rim agent: a sector of a fetch, or its failure. -/
def State.rimReply (s : State) (a : Nat) (r : HomeReq) (data : List Byte) (v : W64) : State :=
  match r.ret with
  | .fetch id sec => s.modRim a fun x => { x with fetches := x.fetches.map fun f =>
      if f.id = id then if r.size = 0 then { f with failed := some v, left := f.left - 1 } else { f with data := f.data.set sec data, left := f.left - 1 } else f }
  | _ => s

/-! ### Load replies (R301) -/

/-- An answer reaches a tile. -/
def State.tileReply (s : State) (t home : Nat) (msg : Msg) (r : HomeReq) (data : List Byte) (v : W64) : State :=
  let src := 2 + s.ingress t msg
  match r.ret with
  | .load iss w j => s.bindEl t iss w j data src
  | .pend o => (s.logReply t r.frame msg).performed t home o r v src
  | .copyRead id row off => (s.logReply t r.frame msg).copyRead t id (copyKey row off) data
  | .copyWrite id => s.copyAnswer t (fun x => x.wid == id && !x.reading) fun x => x
  | .wait iss w => s.endRemote t iss w src
  | _ => s

/-- A reply of a durable frame waits at the tile's ingress while the inbound log is full (R149). -/
def State.replyWaits (s : State) (t f : Nat) : Bool := !(s.tile t).powered || ((s.frame t f).pmode && !s.logRoom t 32)

/-- A durable frame of the tile is still replayed (R148, R394). -/
def State.reviving (s : State) (t f : Nat) : Bool := (s.tile t).slate.replaying && (s.frame t f).pmode

/-- The answer to an outbound effect, which the inbound log takes. -/
def Ret.settles : Ret → Bool
  | .pend _ => true
  | _ => false

/-- The answer to an effect waits until its replay has sent the effect again, or shown that it was sent (R95, R148, R394). -/
def State.answerWaits (s : State) (t f : Nat) : Bool := s.replyWaits t f || s.reviving t f

/-- An answer waits at the ingress of its tile; that of a BARW or SIGWAIT is one to the frame whose bundle instance waits. -/
def State.homeWaits (s : State) (t : Nat) (r : HomeReq) : Bool :=
  let f := match r.ret with | .wait iss _ => (((s.c t).issue? iss).map (·.set.frame)).getD r.frame | _ => r.frame
  if r.ret.settles then s.answerWaits t f else s.replyWaits t f

/-- LOAD_REPLY (R301): the answer to a request other than a fill or an RX request. -/
def execLoadReply (m : Nat) (s : State) : Host.Outcome State Fault Refusal :=
  match s.net[m]? with
  | none => .next s
  | some msg =>
    if !s.arrivable m then .next s
    else match msg.dst, msg.src, msg.body with
      | .tile t, .tile h, .homeReply r data v =>
        if s.homeWaits t r then .next s
        else (match r.op with
          | .fill _ | .rx => .next s
          | _ => .next ((s.dropMsg m).tileReply t h msg r data v))
      | .tile t, .tile h, .wbAck f va upto flush =>
        if s.answerWaits t f then .next s
        else
          let s := ((s.dropMsg m).logReply t f msg).modC t fun c => c.performPushed f va upto h (s.tile h).slate.epochs
          let s := match flush with | some (iss, w, id) => s.modC t fun c => c.flushAcked iss w id | none => s
          .next (s.goOn t)
      | .gateway p, _, .homeReply r data v => .next ((s.dropMsg m).gatewayReply p r data v)
      | .rim a, _, .homeReply r data v => .next ((s.dropMsg m).rimReply a r data v)
      | _, _, _ => .next s

/-! ### The stash (R105, R106) -/

/-- A probe applied to a line: the data it takes and the line after it (R105). -/
def StLine.probed (l : StLine) (down : Bool) : List (Nat × List Byte) × Option StLine :=
  (l.dirty, if down then some { l.clean with perm := 1, probe := none } else none)

/-- A probe of the frames it names is acknowledged. -/
def State.ackProbe (s : State) (t home va frames : Nat) (data : List (Nat × List Byte)) (upto : Nat) : State :=
  let kept := decide (frames ≥ 65) && ((s.c t).stLine (frames - 65) va).isSome
  s.post (.tile t) (.tile home) .writeback (.probeAck va frames data upto kept)

/-- A probe takes effect on one line; the stores in its D sectors leave with it (R105, R148). -/
def State.applyProbe (s : State) (t : Nat) (l : StLine) (down : Bool) : (List (Nat × List Byte) × Nat) × State :=
  let r := l.probed down
  let upto := (s.c t).stashNewest l.frame l.va
  let s := (s.logStash t l.frame l.va).modC t fun c => c.stashLeft l.frame l.va
  ((r.1, upto), s.modC t fun c => match r.2 with | some x => c.putLine x | none => c.dropLine l.frame l.va)

/-- A probe names a frame. -/
def probeNames (frames f : Nat) : Bool := if frames < 64 then f == frames else if frames = 64 then true else f != frames - 65

/-- The lines of a tile that a probe names. -/
def CDom.probedLines (c : CDom) (va frames : Nat) : List StLine :=
  c.stash.filter fun l => l.va == lineOf va && probeNames frames l.frame

/-- A writeback of a probed line that still waits to leave its tile. -/
def Held.backOf (h : Held) (va frames : Nat) : Bool :=
  match h.msg.body with | .writeback v f _ _ _ _ => v == lineOf va && probeNames frames f | _ => false

/-- Its data left with the acknowledgement of a probe; it still tells when it is at the home. -/
def Held.spent (h : Held) : Held :=
  { h with msg := { h.msg with body := match h.msg.body with | .writeback v f _ _ upto flush => .writeback v f [] true upto flush | b => b } }

/-- The data of the writebacks of a probed line that wait to leave its tile go to the home ahead of the acknowledgement (R107, R108). -/
def State.probeHeld (s : State) (t home va frames : Nat) : State :=
  let mine := (s.c t).outq.filter fun h => h.backOf va frames
  let s := s.modC t fun c => { c with outq := c.outq.map fun h => if h.backOf va frames then h.spent else h }
  mine.foldl (fun s h => match h.msg.body with
    | .writeback v f data _ upto _ => if data.isEmpty then s else s.post (.tile t) (.tile home) .writeback (.writeback v f data true upto none)
    | _ => s) s

/-- A probe of several frames, or one that other lines of the tile still hold, takes a line: its D sectors go to the home ahead of the
acknowledgement (R107). -/
def State.probeAhead (s : State) (t home : Nat) (l : StLine) (down : Bool) : State :=
  let q := s.applyProbe t l down
  if q.1.1.isEmpty then q.2 else q.2.post (.tile t) (.tile home) .writeback (.writeback l.va l.frame q.1.1 true q.1.2 none)

/-- A probe reaches a tile: lines with a sector in P hold it, the others take it; it is acknowledged once none holds it. -/
def State.probe (s : State) (t home va frames : Nat) (down : Bool) : State :=
  let s := s.probeHeld t home va frames
  let ls := (s.c t).probedLines va frames
  let held := ls.filter StLine.hasP
  let s := held.foldl (fun s l => s.modC t fun c => c.putLine { l with probe := some (down, home, frames) }) s
  match held, ls with
  | [], [] => s.ackProbe t home va frames [] 0
  | [], [l] => let q := s.applyProbe t l down; q.2.ackProbe t home va frames q.1.1 q.1.2
  | _, _ =>
    let s := (ls.filter fun l => !l.hasP).foldl (fun s l => s.probeAhead t home l down) s
    if held.isEmpty then s.ackProbe t home va frames [] 0 else s

/-- A line whose last fill has landed takes the probe it holds (R106). -/
def State.heldProbe (s : State) (t f va : Nat) : State :=
  match (s.c t).stLine f va with
  | none => s
  | some l =>
    if l.hasP then s
    else match l.probe with
      | none => s
      | some (down, home, frames) =>
        let s := (s.probeHeld t home va frames).probeAhead t home l down
        if ((s.c t).probedLines va frames).any fun x => x.probe.isSome then s else s.ackProbe t home va frames [] 0

/-- The probe of message m for a powered tile. -/
def State.probeMsg (s : State) (m : Nat) (down : Bool) : State :=
  match s.net[m]? with
  | some ⟨.tile h, .tile t, _, .probe d va f, _, _⟩ =>
    if d != down || !s.arrivable m || !(s.tile t).powered then s else (s.dropMsg m).probe t h va f down
  | _ => s

/-- PROBE_DOWN (R105, R106). -/
def execProbeDown (m : Nat) (s : State) : Host.Outcome State Fault Refusal := .next (s.probeMsg m true)

/-- PROBE_INV (R105, R106). -/
def execProbeInv (m : Nat) (s : State) : Host.Outcome State Fault Refusal := .next (s.probeMsg m false)

/-- A sector filled: the held stores over the home's bytes, D where one was stored in place, else V (R104, R105). -/
def StSector.filled (q : StSector) (data : List Byte) : StSector :=
  let bytes := (List.range 128).map fun k => (q.merge.get? k).getD (data.getD k 0)
  { st := if q.wrote then .d else .v, data := bytes, merge := [], loads := [] }

/-- A store that stands in a line of a frame is to be performed beyond the tile (R132): by its own scope, for the end or the parking of
its frame, for a held message it is released by, or for a DRAIN or PFENCE that waits for it (R136, R137, R140, R141, R147). -/
def CDom.wanted (c : CDom) (f va : Nat) : Bool :=
  let all := (c.frame f).st == .ending || (c.frame f).park == .cutoff
  let held (q : Pend) : Bool := c.outq.any fun h => h.frame == f && h.scope != 0 && decide (q.commit ≤ h.upto)
  let awaited (q : Pend) : Bool := c.issued.any fun x => x.set.frame == f && x.waits.any fun w => match w.wait with
    | .drain sc upto | .pfence sc _ upto => sc != 0 && decide (q.commit ≤ upto)
    | _ => false
  c.pend.any fun q => q.frame == f && q.global && lineOf q.va == lineOf va && q.place == .stash && (q.scope != 0 || all || held q || awaited q)

/-- A FLUSHS or INVS that waited for a sector's fill acts on it (R106, R308): whether it invalidates, its issue, wait and number. -/
def State.flushLanded (s : State) (t f va : Nat) (e : Bool × Nat × Nat × Nat) : State :=
  let k := sectorOf va
  match (s.c t).stLine f va with
  | none => s.modC t fun c => c.flushAcked e.2.1 e.2.2.1 e.2.2.2
  | some l =>
    let dirty := (l.sectors.getD k emptySector).st == .d
    let l' := if dirty then l.clean else l
    let l' := if e.1 then l'.modSec k fun _ => emptySector else l'
    let gone := e.1 && l.probe.isNone && l'.sectors.all fun q => q.st == .i
    let wait := dirty && (s.c t).flushScope e.2.1 e.2.2.1 != 0
    let s := if dirty then (s.modC t fun c => c.flushCommit f l.va e.2.1 e.2.2.1).writeback t l (!gone) (if wait then some e.2 else none) else s
    let s := if wait then s else s.modC t fun c => c.flushAcked e.2.1 e.2.2.1 e.2.2.2
    s.modC t fun c => if gone then c.dropLine f l.va else c.putLine l'

/-- A prefetch is dropped at its home (R302): the sector is I again, or asked for anew where a load or a store now waits for it. -/
def State.fillDropped (s : State) (t : Nat) (r : HomeReq) : State :=
  match (s.c t).stLine r.frame r.addr with
  | none => s
  | some l =>
    let k := sectorOf r.addr
    let q := l.sectors.getD k emptySector
    if q.st ≠ .p then s
    else if !q.loads.isEmpty || q.wrote then s.askFill t r.frame l.va k (l.perm == 2) r.at_
    else
      let s := s.modC t fun c => c.putLine (l.modSec k fun _ => emptySector)
      let s := q.flush.foldl (fun s e => s.modC t fun c => c.flushAcked e.2.1 e.2.2.1 e.2.2.2) s
      (s.heldProbe t r.frame r.addr).goOn t

/-- FILL_REPLY (R105): the sector lands, its stores are merged and its loads served in order; a flush that waited for it acts; a write
to be done beyond the tile is pushed; a held probe then takes effect. -/
def State.fillLands (s : State) (t : Nat) (r : HomeReq) (rx : Bool) (data : List Byte) (src : Nat) : State :=
  match (s.c t).stLine r.frame r.addr with
  | none => s
  | some l =>
    let k := sectorOf r.addr
    let q := l.sectors.getD k emptySector
    if q.st ≠ .p then s
    else
      let z := q.filled data
      let s := s.modC t fun c => (c.putLine { l.modSec k (fun _ => z) with perm := if rx && !l.strel then 2 else l.perm }).merged r.frame r.addr
      let s := q.loads.foldl (fun s e => match (s.c t).issue? e.1 with
        | none => s
        | some x => match x.waits.find? fun w => w.id == e.2.1 with
          | some w => (match w.wait with
            | .load els _ => (match els[e.2.2]? with
              | some el => s.bindEl t e.1 e.2.1 e.2.2 ((z.data.drop (ptrOff el.ptr % 128)).take el.wb) src
              | none => s)
            | _ => s)
          | none => s) s
      let s := q.flush.foldl (fun s e => s.flushLanded t r.frame r.addr e) s
      let s := if l.strel || (s.c t).wanted r.frame r.addr then s.pushLine t r.frame r.addr else s
      (s.heldProbe t r.frame r.addr).goOn t

/-- FILL_REPLY (R105). -/
def execFillReply (m : Nat) (s : State) : Host.Outcome State Fault Refusal :=
  match s.net[m]? with
  | some ⟨from_, .tile t, cls, .homeReply r data v, b, sm⟩ => match r.op with
    | .fill rx =>
      if !s.arrivable m || s.replyWaits t r.frame then .next s
      else if r.size = 0 then .next ((s.dropMsg m).fillDropped t r)
      else .next ((s.dropMsg m).fillLands t r rx data (2 + s.ingress t ⟨from_, .tile t, cls, .homeReply r data v, b, sm⟩))
    | _ => .next s
  | _ => .next s

/-- RX_GRANT (R105): the line becomes RX; a grant to a line the stash does not hold allocates it with every sector I, where a
way is free. -/
def execRxGrant (m : Nat) (s : State) : Host.Outcome State Fault Refusal :=
  match s.net[m]? with
  | some ⟨_, .tile t, _, .homeReply r _ _, _, _⟩ =>
    if r.op ≠ .rx ∨ !s.arrivable m ∨ !(s.tile t).powered then .next s
    else
      let f := r.frame
      let va := lineOf r.addr
      let asked (s : State) : State := s.modC t fun c => { c with rxAsked := c.rxAsked.filter (· != (f, va)) }
      match (s.c t).stLine f va with
      | some l => .next ((asked (s.dropMsg m)).modC t fun c => c.putLine { l with perm := 2, strel := false })
      | none =>
        if (s.frame t f).task.stashu = 0 then .next (asked (s.dropMsg m))
        else match s.stashRoom t f va with
          | some s => .next ((asked (s.dropMsg m)).touch t (newLine f va 2))
          | none => .next s
  | _ => .next s

/-! ### Waits that end -/

/-- DONE_TOKEN_FIRE (R133, R305): the store slot operation or atomic whose last effect has number i is performed at its scope; an
atomic's tokens come back from its home. -/
def execDoneTokenFire (t f i : Nat) (s : State) : Host.Outcome State Fault Refusal :=
  onTile t s fun s =>
    match (s.c t).pend.find? fun q => q.frame == f && q.oseq == i && (q.done.isSome || q.val.isSome) with
    | none => s
    | some q =>
      let mine (x : Pend) : Bool := x.frame == f && decide (i - q.span ≤ x.oseq) && decide (x.oseq ≤ i)
      if (!q.rmw || q.performed) && (s.c t).pend.all fun x => !mine x || s.pendDone t x q.scope then s.firePend t q else s

/-- A wait of a kind ends in every bundle instance i where its condition holds. -/
def State.endWaits (s : State) (t i : Nat) (ok : State → Issue → PWait → Bool) : State :=
  match (s.c t).issue? i with
  | none => s
  | some x => x.waits.foldl (fun s q => if ok s x q then s.endWait t i q.id .order else s) s

/-- DRAIN_WAIT_END (R136). -/
def execDrainWaitEnd (t i : Nat) (s : State) : Host.Outcome State Fault Refusal :=
  onTile t s fun s => s.endWaits t i fun s x q => match q.wait with
    | .drain sc upto => s.performedUpTo t x.set.frame sc upto
    | _ => false

/-- The sector of a global store that is performed is in HBM4E (R147): its home holds it dirty no more, and no write of it is under way. -/
def State.inHbm (s : State) (h : Nat) (q : Pend) : Bool :=
  let n := s.n h
  let p := s.partOf h
  let here (space va : Nat) : Bool := spacePart space == p && va / 128 == q.va / 128
  let dirty (l : HLine) : Bool := spacePart l.part == p && l.va == lineOf q.va && (l.sector q.va).valid && (l.sector q.va).dirty
  let writes (m : Msg) : Bool := match m.body with
    | .hbm true _ _ va space _ _ _ _ _ _ => here space va
    | _ => false
  !(n.lines.any dirty) && !(n.walks.any fun w => w.write && here w.part w.va) && !(s.net.any writes) &&
    !(n.waitReq.any fun r => r.op == .write && here r.part r.addr) && !(s.rims.any fun e => e.2.queue.any writes)

/-- A store or atomic is in the slate of its home, or a global one in HBM4E (R147). -/
def State.homeDurable (s : State) (q : Pend) : Bool :=
  match q.homeDur with
  | some (h, e) => q.performed && (decide ((s.tile h).slate.epochsDone > e) || (q.global && s.inHbm h q))
  | none => false

/-- The condition of a PFENCE (R147, R307): the durable point, then the stores of field-shared, then of global memory. -/
def State.fenced (s : State) (t f : Nat) (scope : BitVec 2) (target upto : Nat) (durable : Bool) : Bool :=
  (!durable || decide ((s.tile t).slate.d ≥ target)) &&
    (s.c t).pend.all fun q => q.frame != f || decide (q.commit > upto) || (scope == 0) || (scope == 1 && q.global) || s.homeDurable q

/-- PFENCE_WAIT_END (R147): not before every slot of the bundle instance is performed, when PFENCE starts its epoch (R34, R307). -/
def execPfenceWaitEnd (t i : Nat) (s : State) : Host.Outcome State Fault Refusal :=
  onTile t s fun s => s.endWaits t i fun s x q => match q.wait with
    | .pfence sc target upto => x.todo.isEmpty && s.fenced t x.set.frame sc target upto x.frame.pmodeNow
    | _ => false

/-- STASH_FLUSH_DONE (R308): every sector written back is performed at the scope. -/
def execStashFlushDone (t i : Nat) (s : State) : Host.Outcome State Fault Refusal :=
  onTile t s fun s => s.endWaits t i fun s x q => match q.wait with
    | .flush sc ids =>
      !(x.sends.any fun y => match y with | .flush _ _ w => w == q.id | _ => false) && ids.isEmpty &&
        (sc != 3 || s.hostDone t x.set.frame q.upto)
    | _ => false

/-- COPY_COMPLETE (R139): every write of the transfer is performed; rows with a local destination are written. -/
def execCopyComplete (t i : Nat) (s : State) : Host.Outcome State Fault Refusal :=
  onTile t s fun s =>
    match (s.c t).copies.find? fun x => x.id == i with
    | none => s
    | some x =>
      if x.reading ∨ x.left ≠ 0 then s
      else
        let fr := s.frame t x.frame
        let rows := (List.range x.rows.length).filterMap fun j => (x.rows[j]?).map fun r => (j, r)
        let s := s.modC t fun c => { c with
          copies := c.copies.filter fun y => y.id != i
          scratch := rows.foldl (fun m (j, _, dst, n) => if isLocal dst then m.writeBytes (fr.localAddr dst) ((x.rowBytes j).take n) else m) c.scratch }
        s.fireDone t x.done

/-! ### Answers to claims, spawns and name operations -/

/-- The port of a tile by which an answer has come, as R57 orders them. -/
def NameMsg.src (x : NameMsg) : Nat := 2 + x.port

/-- An answer reaches its tile, and carries the port it came by; that of a durable frame is logged. -/
def State.answerMsg (s : State) (m : Nat) (ok : NameOp → Bool) : Option (Nat × NameOp × NameMsg × State) :=
  match s.net[m]? with
  | some ⟨src, .tile t, cls, .name op x, b, sm⟩ =>
    if ok op && s.arrivable m && !s.answerWaits t (x.frame.getD 64) then
      let msg : Msg := ⟨src, .tile t, cls, .name op x, b, sm⟩
      some (t, op, { x with port := s.ingress t msg }, (s.dropMsg m).logReply t (x.frame.getD 64) msg)
    else none
  | _ => none

/-- A refused claim, of outbound number o: publishes of the name that waited for it are not sent, and a running frame that meant one aborts (R316). -/
def State.claimRefused (s : State) (t f : Nat) (n : TileName) (o : Nat) : State :=
  let c := s.c t
  let mine (h : Held) : Bool := h.frame == f && h.needClaims.any fun q => q.1 == n && decide (o < q.2)
  let s := s.modC t fun c => { c with outq := c.outq.filter fun h => !mine h }
  if c.outq.any mine && ((c.frame f).st == .active || (c.frame f).st == .trapped) then
    s.abortFrame t f ⟨0, 0, 0, 0, 0⟩ { cause := .namecfg, cw1 := 5, cw2 := n.hi, cw3 := n.lo 0 }
  else s

/-- An answer to a frame's claims of a name: the first one without an answer takes it; of several grants the first is kept. -/
def answerClaims (n : TileName) (ok had : Bool) : List Claim → List Claim
  | [] => []
  | c :: l =>
    if c.name = n ∧ c.answer = none then (if ok && had then l else { c with answer := some ok } :: l)
    else c :: answerClaims n ok (had || (c.name == n && c.answer == some true)) l

/-- CLAIM_REPLY (R316, R317): the frame keeps the grant or refusal. -/
def State.takeClaim (s : State) (t : Nat) (x : NameMsg) : State :=
  let f := x.frame.getD 64
  let s := s.modFrame t f fun fr => { fr with claims := answerClaims x.name x.accepted false fr.claims }
  let late := ((s.c t).awaited.get? x.origin).bind (·.2)
  if x.accepted then (s.answered t x.origin .order x.src).releaseHeld t
  else ((s.dropLate t late).modC t fun c => { c with awaited := c.awaited.erase x.origin }).claimRefused t f x.name x.origin

/-- CLAIM_REPLY (R317). -/
def execClaimReply (m : Nat) (s : State) : Host.Outcome State Fault Refusal :=
  match s.answerMsg m fun op => op == .claimReply with
  | some (t, _, x, s) => .next (if (s.frame t (x.frame.getD 64)).task.taskId = x.taskId then s.takeClaim t x else s.answered t x.origin .order x.src)
  | none => .next s

/-- TASKID_REPLY (R335): the task id reaches the frame that spawned. -/
def execTaskidReply (m : Nat) (s : State) : Host.Outcome State Fault Refusal :=
  match s.answerMsg m fun op => op == .taskReply with
  | some (t, _, x, s) => .next (s.answered t x.oseq (.scalar (x.taskId.setWidth 64)) x.src)
  | none => .next s

/-- NAME_OPERATION_ACKNOWLEDGEMENT (R311, R371): the done token of the operation, or BUSY at the gateway. -/
def execNameOperationAcknowledgement (m : Nat) (s : State) : Host.Outcome State Fault Refusal :=
  match s.net[m]? with
  | some ⟨_, .gateway p, _, .name .ack x, _, _⟩ =>
    if s.arrivable m then .next ((s.dropMsg m).gatewayAck p x) else .next s
  | _ => match s.answerMsg m fun op => op == .ack with
    | some (t, _, x, s) => .next (s.answered t x.origin .order x.src)
    | none => .next s

end Sys2Proof.Machine
end

