-- ==== Sys2Proof/Machine/Barriers.lean ====
section
/-! DEFINITION. Barriers at their tile (R331, R332): counts, arrivals, flips, waiters and watchpoints (R353). -/

namespace Sys2Proof.Machine

/-- Version or phase a is newer than b (R73). -/
def newer (a b : Nat) : Bool := decide (1 ≤ (a + 65536 - b % 65536) % 65536) && decide ((a + 65536 - b % 65536) % 65536 ≤ 32767)

/-- The sender of a barrier message. -/
structure BarSender where
  tile : Nat
  frame : Nat
  oseq : Nat
  taskId : BitVec 32
  deriving DecidableEq, Repr

def State.bar (s : State) (t k : Nat) : Barrier := (s.n t).barriers.getD k {}

def State.setBar (s : State) (t k : Nat) (b : Barrier) : State := s.modN t fun n => { n with barriers := n.barriers.set k b }

/-- The order token of a BARW goes back to its tile. -/
def State.releaseWaiter (s : State) (t : Nat) (w : Nat × Nat × Nat × Nat) : State :=
  s.post (.tile t) (.tile w.2.1) .reply
    (.homeReply { op := .sigwait, part := s.partOf t, fsh := true, addr := 0, size := 0, sender := .tile w.2.1, ret := .wait w.2.2.1 w.2.2.2 } [] 0)

/-- Watchpoints of a kind on barrier k fire with its phase (R353). -/
def State.watchBar (s : State) (t k : Nat) (kind : BitVec 2) (x : BarSender) : State :=
  ((s.n t).watches.filter fun w => s.mayFire t w && !w.sig && w.k == k && w.kind == kind).foldl
    (fun s w => s.fireWatch t w (s.bar t k).phase x.tile x.frame x.taskId) s

/-- Flip (R332): each phase whose arrivals are complete ends. `last` where an arrival caused it. -/
def State.flip (s : State) (t k : Nat) (x : BarSender) (last : Bool) : Nat → State
  | 0 => s
  | fuel + 1 =>
    let b := s.bar t k
    if b.count > 0 ∧ b.arr ≥ b.count then
      let go := b.waiters.filter fun w => w.1 == b.phase
      let s := go.foldl (fun s w => s.releaseWaiter t w) s
      let s := s.setBar t k { b with arr := b.arr - b.count + b.early, early := 0, phase := (b.phase + 1) % 65536,
                                     waiters := b.waiters.filter fun w => w.1 != b.phase }
      let s := if last then s.watchBar t k 1 x else s
      State.flip (s.watchBar t k 2 x) t k x last fuel
    else s

/-- Flip as often as it can: each flip takes at least one arrival. -/
def State.flips (s : State) (t k : Nat) (x : BarSender) (last : Bool) : State :=
  s.flip t k x last ((s.bar t k).arr + (s.bar t k).early + 1)

/-- A message of a sender takes effect once (R138, R332): the kept number moves on, or the message is counted and dropped. -/
def State.onceBar (s : State) (t : Nat) (x : BarSender) (f : State → State) : State :=
  let key := 64 * x.tile + x.frame
  let f (s : State) : State := f (s.modN t fun n => n.noteApplied (.tile x.tile) x.oseq)
  match (s.n t).keptBar.get? key with
  | some k => if x.oseq < k.oseq then s.countT t 11 1
      else if x.oseq = k.oseq then s
      else f (s.modN t fun n => { n with keptBar := n.keptBar.set key ⟨x.oseq, 0⟩ })
  | none => f (s.modN t fun n => { n with keptBar := n.keptBar.set key ⟨x.oseq, 0⟩ })

/-- Barc (R332): a reset releases no waiter by itself (log 109: DESIGN CHOICE, unsafe). -/
def State.barc (s : State) (t k count : Nat) (reset : Bool) (x : BarSender) : State :=
  let b := s.bar t k
  let b := if reset then { b with phase := 0, arr := 0, early := 0 } else b
  (s.setBar t k { b with count := count }).flips t k x false

/-- Arrive (R332); while no count is set, ARR and EARLY count on without an end (log 111: DESIGN CHOICE, unsafe). -/
def State.barArrive (s : State) (t k ph : Nat) (x : BarSender) : State :=
  let b := s.bar t k
  let abort (word : Nat) : State := s.remoteFault (.tile t) x.tile x.frame x.taskId
    { cause := .barovr, cw1 := w64 word, cw2 := w64 k, cw3 := w64 b.phase }
  if ph ≠ b.phase ∧ ph ≠ (b.phase + 1) % 65536 then abort 1
  else if b.count > 0 ∧ b.arr + b.early + 1 > 2 * b.count then abort 0
  else
    let s := s.setBar t k (if ph = b.phase then { b with arr := b.arr + 1 } else { b with early := b.early + 1 })
    (s.watchBar t k 0 x).flips t k x true

/-- The barrier message m for a tile, if it may arrive. -/
def State.barMsg (s : State) (m : Nat) : Option (Nat × Nat × BarOp × BarSender) :=
  match s.net[m]? with
  | some ⟨.tile u, .tile t, _, .bar k op f o id, _, _⟩ => if s.arrivable m then some (t, k, op, ⟨u, f, o, id⟩) else none
  | _ => none

/-- BARC_AT_BARRIER (R332). -/
def execBarcAtBarrier (m : Nat) (s : State) : Host.Outcome State Fault Refusal :=
  match s.barMsg m with
  | some (t, k, .barc count reset, x) => .next ((s.dropMsg m).onceBar t x fun s => s.barc t k count reset x)
  | _ => .next s

/-- BARA_AT_BARRIER (R332). -/
def execBaraAtBarrier (m : Nat) (s : State) : Host.Outcome State Fault Refusal :=
  match s.barMsg m with
  | some (t, k, .bara ph, x) => .next ((s.dropMsg m).onceBar t x fun s => s.barArrive t k ph x)
  | _ => .next s

/-- The BARW waiters of a tile (R331). -/
def NDom.barWaiters (n : NDom) : Nat := n.barriers.foldl (fun m e => m + e.2.waiters.length) 0

/-- BARW_AT_BARRIER (R332): answered at once where the phase is newer, else registered; with 1,024 waiters it stays at the
ingress. -/
def execBarwAtBarrier (m : Nat) (s : State) : Host.Outcome State Fault Refusal :=
  match s.barMsg m with
  | some (t, k, .barw ph iss w, x) =>
    let b := s.bar t k
    if newer b.phase ph then .next ((s.dropMsg m).releaseWaiter t (ph, x.tile, iss, w))
    else if (s.n t).barWaiters ≥ 1024 then .next s
    else .next ((s.dropMsg m).setBar t k { b with waiters := b.waiters ++ [(ph, x.tile, iss, w)] })
  | _ => .next s

end Sys2Proof.Machine
end

