-- ==== Sys2Proof/Machine/Ed448.lean ====
section
/-! DEFINITION. Ed448 (R402, R403): the curve, its encodings, signatures. R402 and R403 name the algorithm; its
definition is that of RFC 8032 (log 77: PRESUMED, unsafe). -/

namespace Sys2Proof.Machine.Ed448

/-- The field's prime, the curve's constant −39081 and the order of the base point. -/
def prime : Nat := 2 ^ 448 - 2 ^ 224 - 1
def curveD : Nat := prime - 39081
def order : Nat := 2 ^ 446 - 13818066809895115352007386748515426880336692474882178609894547503885

def mulP (a b : Nat) : Nat := a * b % prime
def subP (a b : Nat) : Nat := (a + prime - b % prime) % prime

/-- Powers in the field, over the low n bits of the exponent from the highest on. -/
def powP (a e n : Nat) : Nat :=
  (List.range n).foldl (fun r k => let q := mulP r r; if e.testBit (n - 1 - k) then mulP q a else q) 1

/-- A point in projective coordinates. -/
structure Point where
  x : Nat
  y : Nat
  z : Nat
  deriving DecidableEq, Repr

def zero : Point := ⟨0, 1, 1⟩

def base : Point :=
  ⟨224580040295924300187604334099896036246789641632564134246125461686950415467406032909029192869357953282578032075146446173674602635247710,
   298819210078481492676017930443930673437544040154080242095928241372331506189835876003536878655418784733982303233503462500531545062832660, 1⟩

/-- The sum of two points: the curve's law holds for every pair. -/
def add (p q : Point) : Point :=
  let zz := mulP p.z q.z
  let b := mulP zz zz
  let c := mulP p.x q.x
  let d := mulP p.y q.y
  let e := mulP curveD (mulP c d)
  let h := mulP (p.x + p.y) (q.x + q.y)
  ⟨mulP (mulP zz (subP b e)) (subP h (c + d)), mulP (mulP zz (b + e)) (subP d c), mulP (subP b e) (b + e)⟩

/-- A multiple of a point by a number below 2^n. -/
def times (k n : Nat) (p : Point) : Point :=
  (List.range n).foldl (fun r i => let q := add r r; if k.testBit (n - 1 - i) then add q p else q) zero

def same (p q : Point) : Bool := mulP p.x q.z == mulP q.x p.z && mulP p.y q.z == mulP q.y p.z

/-- A point as 57 bytes: y, and the parity of x in the highest bit. -/
def encode (p : Point) : List Byte :=
  let i := powP p.z (prime - 2) 448
  toBytes (mulP p.y i + mulP p.x i % 2 * 2 ^ 455) 57

/-- The point of 57 bytes, where there is one. -/
def decode (l : List Byte) : Option Point :=
  let n := fromBytes l
  let y := n % 2 ^ 455
  let sign := n / 2 ^ 455
  let u := subP (mulP y y) 1
  let v := subP (mulP curveD (mulP y y)) 1
  let u3 := mulP u (mulP u u)
  let x := mulP (mulP u3 v) (powP (mulP (mulP u3 (mulP u u)) (mulP v (mulP v v))) ((prime - 3) / 4) 448)
  if l.length ≠ 57 ∨ y ≥ prime ∨ mulP v (mulP x x) ≠ u ∨ (x = 0 ∧ sign = 1) then none
  else some ⟨if x % 2 = sign then x else prime - x, y, 1⟩

/-- SHAKE256 behind the prefix of a signature with its context, as a number. -/
def scalar (ctx m : List Byte) : Nat :=
  fromBytes (Shake.shake256 ([0x53, 0x69, 0x67, 0x45, 0x64, 0x34, 0x34, 0x38, 0, BitVec.ofNat 8 ctx.length] ++ ctx ++ m) 114) % order

/-- A signature of 114 bytes over a message verifies under a key, with a context. -/
def verify (ctx key msg sig : List Byte) : Bool :=
  match decode key, decode (sig.take 57) with
  | some a, some r =>
    let s := fromBytes (sig.drop 57)
    let k := scalar ctx (sig.take 57 ++ key ++ msg)
    decide (sig.length = 114) && decide (s < order) && same (times (4 * s) 448 base) (times 4 3 (add r (times k 448 a)))
  | _, _ => false

/-- The scalar of a secret key of 57 bytes. -/
def secretScalar (h : List Byte) : Nat := fromBytes (h.take 56) % 2 ^ 447 / 4 * 4 + 2 ^ 447

/-- The public key of a secret key. -/
def publicKey (secret : List Byte) : List Byte := encode (times (secretScalar (Shake.shake256 secret 114)) 448 base)

/-- The signature of a message under a secret key, with a context. -/
def sign (ctx secret msg : List Byte) : List Byte :=
  let h := Shake.shake256 secret 114
  let s := secretScalar h
  let key := encode (times s 448 base)
  let r := scalar ctx (h.drop 57 ++ msg)
  let rr := encode (times r 448 base)
  rr ++ toBytes ((r + scalar ctx (rr ++ key ++ msg) * s) % order) 57

end Sys2Proof.Machine.Ed448
end

