-- ==== Sys2Proof/Machine/Power.lean ====
section
/-! DEFINITION. Power grants, ballast and spines (R40, R410 to R414). Powers are in units of 8 pJ per microsecond. -/

namespace Sys2Proof.Machine

/-! ### Leakage (R406, R411) -/

/-- HLEAK entry k in mW: written, else fused (log entry 6: DESIGN CHOICE, safe). -/
def State.leakEntry (s : State) (k : Nat) : Nat :=
  match s.pf.leak.get? k with
  | some v => v.toNat % 65536
  | none => (Config.fusedLeak k).toNat

/-- The leakage of one tile at a temperature in 1/16 °C, in mW at 0.75 V. -/
def State.tileLeak (s : State) (temp : BitVec 16) : Rat :=
  let t := temp.toInt
  if t ≤ 0 then s.leakEntry 0
  else if t ≥ 2400 then s.leakEntry 15
  else
    let k := t.toNat / 160
    let a : Rat := s.leakEntry k
    let b : Rat := s.leakEntry (k + 1)
    a + (b - a) * ((t.toNat % 160 : Nat) : Rat) / 160

/-- The nominal rail of a spine in mV (R414). -/
def spineMv (n : Nat) : Nat := [750, 725, 700, 675, 650, 625, 610, 600].getD n 600

/-- The tiles of a field. -/
def fieldTiles (f : Nat) : List Nat := (List.range 160).map (160 * f + ·)

/-- The fastest effective spine in a field. -/
def State.fastestSpine (s : State) (f : Nat) : Nat := (fieldTiles f).foldl (fun m t => min m (s.effSpine t)) 7

/-- Leak(f) in units (R411). -/
def State.leak (s : State) (f : Nat) : Rat :=
  160 * s.tileLeak (s.hub f).temp * (spineMv (s.fastestSpine f) : Rat) / 750 * 125

/-! ### Grants (R410, R412) -/

/-- The cap of a field in units per microsecond (R410). -/
def State.fieldCap (s : State) (f : Nat) : Rat :=
  let p := s.part (s.partOfField f)
  let tile : Rat := (10 * s.pf.tilecap.toNat : Nat) / 64
  let part : Rat := (10 * p.cap.toNat : Nat) / (max 1 p.fieldList.length : Nat)
  (if p.cap = 0 then tile else min part tile) * 125000

/-- The excess of the measured power over the estimate. -/
def excess (meas est : Rat) : Rat := if meas > est then meas - est else 0

/-- A grant to a tile: what a full bucket cannot hold returns to the hub (R40). -/
def CDom.grant (c : CDom) (g : Nat) : CDom := { c with bucket := min 65535 (c.bucket + g), debits := 0 }

/-- The total of the last interval of the fields of a list but one, those that have power. -/
def State.loadBut (s : State) (f : Nat) (l : List Nat) : Rat :=
  (((l.filter (· != f)).map fun k => if (s.hub k).powered then (s.hub k).load else 0).foldl (· + ·) 0 : Nat)

/-- What a field may draw so that neither the module nor its partition goes over k times its cap (R406, R413). -/
def State.capRoom (s : State) (f : Nat) (k : Rat) : Rat :=
  let p := s.part (s.partOfField f)
  let units (c : BitVec 16) : Rat := (10 * c.toNat * 125000 : Nat)
  let whole := k * units s.pf.tilecap - s.loadBut f (List.range Config.numFields)
  if p.cap = 0 then whole else min whole (k * units p.cap - s.loadBut f p.fieldList)

/-- Ballast of a field for the next interval (R413): what the slope asks for, with the grants lowered by SLEW for each interval in which
that would take the module or the partition over its cap; for 20 intervals within 1.02 times the cap, then within the cap (log 74:
DEDUCED, unsafe). -/
def State.ballastFor (s : State) (f : Nat) (inp : PowerInputs) (meas load : Rat) (r slew : Nat) : Nat × Nat :=
  let want := (meas - slew - inp.predicted).floor.toNat
  if want ≠ 0 ∧ load + r + 1280 + want > s.capRoom f 1 then
    let n := (s.hub f).slewLow + 1
    let most := s.capRoom f (if n > 20 then 1 else 102 / 100)
    (min want (most - load - 1280 - ((r - n * slew : Nat) : Rat)).floor.toNat, n)
  else (want, 0)

/-- How far above its cap a total may go: 1.02 times, or not at all once some field's ballast has drawn on the reserve for 20 intervals
(R413). -/
def State.capFactor (s : State) : Rat :=
  if (List.range Config.numFields).any fun k => (s.hub k).powered && decide (20 ≤ (s.hub k).slewLow) then 1 else 102 / 100

/-- What the grants of a field may come to beside its leakage, its engine work and its ballast, so that neither the module nor its partition
goes over its cap by more than the factor (R413, R417), whichever field's ballast fills it. -/
def State.grantRoom (s : State) (f : Nat) (load : Rat) (ballast : Nat) : Nat := (s.capRoom f s.capFactor - load - 1280 - ballast).floor.toNat

/-- The fields of a list other than f run less ballast, the first ones first, until the total with what f draws keeps to a limit or none is
left (R413, R417). -/
def State.shedTo (s : State) (f : Nat) (l : List Nat) (draw : Nat) (limit : Rat) : State :=
  let tooMuch := (s.loadBut f l + draw - limit).ceil.toNat
  ((l.filter fun k => k != f && (s.hub k).powered).foldl (fun (r : State × Nat) k =>
    let cut := min r.2 (r.1.hub k).ballast
    (if cut = 0 then r.1 else r.1.modHub k fun h => { h with ballast := h.ballast - cut, load := h.load - cut }, r.2 - cut)) (s, tooMuch)).1

/-- Where leakage or engine work of a field has risen beside the ballast of others, theirs is cut so that neither the partition nor the
module goes over its cap by more than the factor (R413, R417; log 74: DEDUCED, unsafe). -/
def State.shedBallast (s : State) (f draw : Nat) : State :=
  let p := s.part (s.partOfField f)
  let k := s.capFactor
  let limit (c : BitVec 16) : Rat := k * (10 * c.toNat * 125000 : Nat)
  let s := if p.cap = 0 then s else s.shedTo f p.fieldList draw (limit p.cap)
  s.shedTo f (List.range Config.numFields) draw (limit s.pf.tilecap)

/-- POWER_GRANT (R410, R412, R413): the grants of a field's tiles for one interval, beside which the ballast of other fields may have to fall. -/
def State.powerGrant (s : State) (f : Nat) (inp : PowerInputs) : State :=
  let h := s.hub f
  let tiles := fieldTiles f
  let debits := tiles.map fun t => (s.c t).debits
  let total : Nat := debits.foldl (· + ·) 0
  let leak := s.leak f
  let meas : Rat := (h.samples.foldl (· + ·) 0 : Nat)
  let cap := s.fieldCap f
  let r0 : Int := (cap * 98 / 100 - leak - inp.engine - excess meas (leak + inp.engine + (total : Rat))).floor + h.carry - 1280
  let r1 := if h.level = 2 then 3 * r0.toNat / 4 else r0.toNat
  let slew := max 1 s.pf.slew.toNat * 125000
  let bal := s.ballastFor f inp meas (leak + inp.engine) r1 slew
  let r := min (r1 - bal.2 * slew) (s.grantRoom f (leak + inp.engine) bal.1)
  let g := debits.map fun d => if total = 0 then r / 160 else r * d / total
  let given := g.foldl (· + ·) 0
  let s := (List.range 160).foldl (fun s j => s.modC (160 * f + j) fun c => c.grant (8 + g.getD j 0)) s
  let draw := (leak + inp.engine).ceil.toNat + 1280 + given + bal.1
  (s.shedBallast f draw).modHub f fun h => { h with carry := r - given, ballast := bal.1, slewLow := bal.2, grantTick := s.quartz, load := draw }

/-- A K-step of a field's tiles is debited in this cycle: a grant comes after it (R417). -/
def State.kStepWaits (s : State) (f : Nat) : Bool := (fieldTiles f).any fun t => (s.c t).kStepFirst && !s.promotedWaits t

/-- The power of a field's rail at a converter reading: the current times the voltage of the rail, which follows the fastest spine (R412,
R414). -/
def State.railPower (s : State) (f : Nat) (reading : BitVec 10) : Nat := reading.toNat * spineMv (s.fastestSpine f) * Config.railUnit

/-- RAIL_CURRENT_SAMPLE (R412): every 500 ns the converter of a field's rail reports; the last two samples make its measured power. -/
def execRailCurrentSample (field : Nat) (units : BitVec 10) (s : State) : Host.Outcome State Fault Refusal :=
  onField field s fun s =>
    if s.quartz < (s.hub field).railTick + 550 then s
    else s.modHub field fun h => { h with
      samples := (h.samples ++ [s.railPower field units]).drop ((h.samples.length + 1) - 2), railTick := s.quartz }

/-! ### Spines (R414) -/

/-- The first tick at which the tile slowed is noted with every copy launched or buffered (R330). -/
def CDom.noteSlower (c : CDom) (tick : Nat) : CDom :=
  let eff (e : Eff) : Eff := if isCopy e.op && e.mark.isNone then { e with mark := some tick } else e
  { c with
    copies := c.copies.map fun x => if x.slowed.isNone then { x with slowed := some tick } else x
    insts := c.insts.mapVal fun i => { i with effs := i.effs.map eff }
    issued := c.issued.map fun x => { x with effs := x.effs.map eff } }

/-- SPINE_SWITCH (R414): the tile runs on its effective spine from here on. -/
def execSpineSwitch (t : Nat) (s : State) : Host.Outcome State Fault Refusal :=
  onTile t s fun s =>
    let n := s.effSpine t
    s.modC t fun c => if n = c.spine then c else { (if n > c.spine then c.noteSlower s.quartz else c) with spine := n }

end Sys2Proof.Machine
end

