-- ==== Sys2Proof/Machine/Destroy.lean ====
section
/-! DEFINITION. The end of a partition (R408, R417): the steps of its destruction that follow the disabling of its function. -/

namespace Sys2Proof.Machine

/-- Agents of a partition: its tiles, its hubs, its gateway. -/
def State.agentOf (s : State) (p : Nat) (a : Agent) : Bool :=
  let has (f : Nat) : Bool := decide (f < 64) && (s.part p).fields.getLsbD f
  match a with
  | .tile t => has (fieldOf t)
  | .hub f => has f
  | .gateway q => q == p
  | _ => false

/-- The tiles of a partition after a cold start, with empty slates (R407 steps 1 and 2, R408): power stays where it is. -/
def State.wipeTiles (s : State) (p : Nat) : State :=
  let mine (t : Nat) : Bool := s.agentOf p (.tile t)
  let iss := if s.iss.active && mine s.iss.tile then {} else s.iss
  { s with tiles := (s.tiles.filter fun e => !mine e.1 || !e.2.powered).map fun e => if mine e.1 then (e.1, { powered := false }) else e
           iss := iss }

/-- The hubs of a partition without its tasks, keys and translations; power, heat and life stay. -/
def State.wipeHubs (s : State) (p : Nat) : State :=
  { s with hubs := s.hubs.map fun e => if s.agentOf p (.hub e.1) then
      (e.1, { e.2 with queue := [], keyCtr := 0, keys := [], pairs := [], tlb := [], carry := 0, lost := [] }) else e }

/-- What is on its way for a partition, in the network and at the rim agents, is dropped. -/
def State.wipeWay (s : State) (p : Nat) : State :=
  let mine (m : Msg) : Bool := s.agentOf p m.src || s.agentOf p m.dst
  { s with
    net := s.net.filter fun m => !mine m
    rims := s.rims.mapVal fun r => { r with
      queue := r.queue.filter fun m => !mine m, fetches := r.fetches.filter fun x => x.part != p, walks := r.walks.filter fun w => w.part % 128 != p } }

/-- Everything of a partition is dropped, without fault records or writes to HBM4E (R408 steps 2 to 4); its registers and counters stay. -/
def State.destroyNow (s : State) (p : Nat) : State :=
  let s := ((s.wipeWay p).wipeTiles p).wipeHubs p
  let s : State := { s with vfs := s.vfs.set p {} }
  s.modPart p fun q => { q with
    st := 0, quota := (0, 0), ran := [], bindings := [], launches := [], launchSeen := [], nextLaunch := 0, loader := [], stalls := [], taskIds := [], hdstep := none }

/-- What a destruction waits for in a field: a critical sequence up to the removal of the rails (R417), a revival (R408). -/
def State.fieldHolds (s : State) (f : Nat) : Bool :=
  let h := s.hub f
  (h.crit.isSome && !h.railsOff) || s.tiles.any fun e => fieldOf e.1 == f && e.2.powered && e.2.slate.replaying

/-- A destruction under way ends once nothing holds it. -/
def State.destroyOn (s : State) (p : Nat) : State :=
  let q := s.part p
  if q.st = 3 && !q.fieldList.any s.fieldHolds then s.destroyNow p else s

/-- Every destruction under way. -/
def State.destroysOn (s : State) : State := s.parts.keys.foldl (fun s p => s.destroyOn p) s

end Sys2Proof.Machine
end

