-- ==== Sys2Proof/Machine/Routers.lean ====
section
/-! DEFINITION. The routers of the name plane (R79, R80, R88 to R91): name-match tables, registrations and prunes, publish flits,
stream elements with their credits, detachment, circuits. -/

namespace Sys2Proof.Machine

/-! ### Name-match tables (R79) -/

/-- The entry of a registration key: a tree and a stream of one name and mask have an entry each (log 89: DESIGN CHOICE, unsafe). -/
def Nmt.is (e : Nmt) (m : NameMsg) : Bool := e.name == m.name && e.mask == m.mask && e.stream == m.stream

/-- A name matches an entry: every coordinate is equal or masked. -/
def Nmt.hits (e : Nmt) (n : TileName) : Bool := maskName n e.mask == e.name

def bump (l : List Nat) (q n : Nat) : List Nat := l.set q (l.getD q 0 + n)
def drop1 (l : List Nat) (q : Nat) : List Nat := l.set q (l.getD q 0 - 1)

/-- Ports of an entry: N, E, S, W, local, and the span agents (log 88: DESIGN CHOICE, unsafe). -/
def numPorts : Nat := 5 + Config.numSpans

/-- The entry of a first registration, through port q. -/
def freshNmt (m : NameMsg) (q : Nat) : Nmt :=
  { stream := m.stream, circ := false, mask := m.mask, name := m.name, cnt := bump (List.replicate numPorts 0) q 1, det := List.replicate numPorts false,
    circLeft := 0, circIdle := 0, circTick := 0, cr := bump (List.replicate numPorts 0) q m.credit, most := bump (List.replicate numPorts 0) q m.credit,
    sent := [], due := [] }

/-- One more registration through port q: a greater FIFO depth raises the port's credit by the difference (R88). At a port that has none left
the credit starts anew and the branch is attached again (log 103: DESIGN CHOICE, unsafe). -/
def Nmt.more (e : Nmt) (q d : Nat) : Nmt :=
  if e.cnt.getD q 0 = 0 then
    { e with cnt := bump e.cnt q 1, cr := e.cr.set q d, most := e.most.set q d, det := e.det.set q false }
  else { e with cnt := bump e.cnt q 1, cr := bump e.cr q (d - e.most.getD q 0), most := e.most.set q (max d (e.most.getD q 0)) }

/-- One registration less through port q. -/
def Nmt.less (e : Nmt) (q : Nat) : Nmt := { e with cnt := drop1 e.cnt q }

/-- Ports with registrations that are not detached. -/
def Nmt.ports (e : Nmt) : List Nat := (List.range numPorts).filter fun q => e.cnt.getD q 0 != 0 && !e.det.getD q false

def NDom.modNmt (n : NDom) (m : NameMsg) (g : Nmt → Nmt) : NDom := { n with nmt := n.nmt.map fun e => if e.is m then g e else e }

/-- Elements held for a branch are dropped and counted; entries without a registration are cleared (R80, R325). -/
def State.sweepNmt (s : State) (r : Nat) : State :=
  let n := s.n r
  let dead (h : HeldElem) : Bool := n.nmt.any fun e => e.stream && e.name == h.msg.name && e.cnt.getD h.port 0 == 0
  let lost := (n.heldElems.filter dead).length
  let s := s.modN r fun n => { n with heldElems := n.heldElems.filter fun h => !dead h,
                                      nmt := n.nmt.filter fun e => e.cnt.any (· != 0) }
  if lost = 0 then s else s.countT r 8 lost

/-- The name message m for a tile, of an operation, at a router or at the directory. -/
def State.nameMsg (s : State) (m : Nat) (ok : NameOp → Bool) (router : Bool) : Option (Nat × NameOp × NameMsg) :=
  match s.net[m]? with
  | some ⟨src, .tile r, cls, .name op x, b, sm⟩ =>
    if ok op && s.arrivable m && (decide (x.router ≠ atDirectory) == router) &&
      (router || s.inOrder r (op.rank (s.ingress r ⟨src, .tile r, cls, .name op x, b, sm⟩))) then some (r, op, x) else none
  | _ => none

/-! ### Registrations and prunes (R80) -/

/-- The routers below r on the path a registration climbed, nearest first. -/
def State.below (s : State) (p r : Nat) (m : NameMsg) : List Nat :=
  let climbed (t : Nat) : List Nat := ((s.climbPath t (s.treeRoot p m.name)).takeWhile (· != r)).reverse
  match m.who with
  | .tile t => climbed t
  | .span _ _ => climbed (s.spanRouter p)
  | _ => []

/-- The port of a path's last router b, by which a registration came in, where l is the rest of the path. -/
def pathPort (b : Nat) (l : List Nat) (who : Agent) : Nat :=
  match l, who with | n :: _, _ => portTo b n | [], .span k _ => 5 + k | [], _ => 4

/-- A prune goes back down the path, for the entries a registration installed below, and over the link that it came by (R80, R379). -/
def State.pruneBelow (s : State) (r : Nat) (m : NameMsg) (l : List Nat) : State :=
  match l, m.who with
  | [], .span k u => s.post (.tile r) (.span k u) .nameCtl (.name .prune { m with router := atDirectory, mode := 1 })
  | [], _ => s
  | b :: rest, who => s.post (.tile r) (.tile b) .nameCtl
      (.name .prune { m with router := b, path := rest, port := pathPort b rest who, mode := 1 })

/-- A registration that its tile sends again passes a router that counted it before, in the field that was lost or outside it (R399); where
that has no room for it, it is marked overflow. -/
def State.passReg (s : State) (r : Nat) (x : NameMsg) : State :=
  let counted := (s.n r).nmt.any fun e => e.is x && e.cnt.getD x.port 0 != 0
  s.climbOn r .reg { x with overflow := x.overflow || !counted }

/-- A router that a resent name message passes without effect: it lies outside the field of the name's home, which was lost, or applied the
message before (R399). -/
def State.passes (s : State) (r : Nat) (x : NameMsg) : Bool :=
  x.resent && (decide (fieldOf r ≠ fieldOf (s.treeRoot (s.partOf r) x.name)) || (s.n r).seen x true)

/-- REGISTRATION_AT_ROUTER (R80): counted in the entry of its key, or marked overflow where there is no room; a registration that
comes through a detached port is served unicast (R90). -/
def execRegistrationAtRouter (m : Nat) (s : State) : Host.Outcome State Fault Refusal :=
  match s.nameMsg m (fun op => op == .reg) true with
  | none => .next s
  | some (r, op, x) =>
    let s := s.dropMsg m
    if s.passes r x then .next (s.passReg r x) else
    let s := s.modN r fun n => n.noteName x
    let q := x.port
    if x.overflow then .next (s.climbOn r op x)
    else match (s.n r).nmt.find? fun e => e.is x with
      | some e =>
        if e.cnt.getD q 0 < 255 then
          let late := e.det.getD q false && e.cnt.getD q 0 != 0
          .next ((s.modN r fun n => n.modNmt x fun e => e.more q x.credit).climbOn r op { x with late := x.late || late })
        else .next (((s.countT r 3 1).pruneBelow r x.anew (s.below (s.partOf r) r x)).climbOn r op { x with overflow := true })
      | none =>
        if (s.n r).nmt.length < 2048 then .next ((s.modN r fun n => { n with nmt := n.nmt ++ [freshNmt x q] }).climbOn r op x)
        else .next (((s.countT r 3 1).pruneBelow r x.anew (s.below (s.partOf r) r x)).climbOn r op { x with overflow := true })

/-- PRUNE_AT_ROUTER (R80): the entry's count falls, and the prune climbs on, or goes on down. -/
def execPruneAtRouter (m : Nat) (s : State) : Host.Outcome State Fault Refusal :=
  match s.nameMsg m (fun op => op == .prune) true with
  | none => .next s
  | some (r, op, x) =>
    let s := s.dropMsg m
    if s.passes r x then .next (s.climbOn r op x) else
    let s := s.modN r fun n => n.noteName x
    let s := if x.overflow then s else (s.modN r fun n => n.modNmt x fun e => if e.cnt.getD x.port 0 ≥ 1 then e.less x.port else e).sweepNmt r
    .next (if x.mode = 1 then s.pruneBelow r x x.path else s.climbOn r op x)

/-! ### Circuits (R91) -/

/-- A circuit carries one more transfer; at the last it is released. -/
def Nmt.carried (e : Nmt) (tick : Nat) : Nmt :=
  if e.circ then { e with circLeft := e.circLeft - 1, circTick := tick, circ := decide (e.circLeft > 1) } else e

/-- A circuit can be reserved: no port of the entry holds two already. -/
def NDom.circuitFree (n : NDom) (e : Nmt) : Bool :=
  e.ports.all fun q => decide ((n.nmt.filter fun x => x.circ && x.ports.contains q).length < 2)

/-- The circuit word: transfers and idle limit (R322). -/
def circWord (w : W64) : Nat × Nat := (bits w 15 0, if bits w 28 16 = 0 then 4096 else bits w 28 16)

/-- Entries of a tile name, tree or stream. -/
def NDom.entriesOf (n : NDom) (x : TileName) : List Nmt := n.nmt.filter fun e => e.hits x

/-- The ports of the entries of a name, each once. -/
def NDom.portsOf (n : NDom) (l : List Nmt) : List Nat := (List.range numPorts).filter fun q => l.any fun e => e.ports.contains q

/-- A message goes on through the ports of a router to its neighbours. -/
def State.spread (s : State) (r : Nat) (ports : List Nat) (cls : Cls) (op : NameOp) (x : NameMsg) : State :=
  (ports.filter (· < 4)).foldl (fun s q => s.post (.tile r) (.tile (neighbour r q)) cls (.name op { x with router := neighbour r q })) s

/-- Every port below which registrations of a name's entries are, a detached one too. -/
def NDom.treePorts (n : NDom) (x : TileName) : List Nat :=
  (List.range numPorts).filter fun q => (n.entriesOf x).any fun e => e.cnt.getD q 0 != 0

/-- CIRC_AT_ROUTER (R91, R322): the home acknowledges and sends the reservation down the tree; a router takes it where it has a free
reservation, and passes it on down the whole tree, below a detached branch too. An entry that holds a circuit keeps it as it is (log 91: DESIGN CHOICE, unsafe). -/
def execCircAtRouter (m : Nat) (s : State) : Host.Outcome State Fault Refusal :=
  match s.net[m]? with
  | some ⟨_, .tile r, _, .name .circ x, _, _⟩ =>
    if !s.arrivable m then .next s
    else
      let s := s.dropMsg m
      if x.router = atDirectory then
        .next ((s.post (.tile r) x.who .reply (.name .ack x)).post (.tile r) (.tile r) .nameCtl (.name .circ { x.anew with router := r }))
      else
        let n := s.n r
        let w := circWord x.word
        let take (n : NDom) (k : Nat) : NDom :=
          match n.nmt[k]? with
          | some e => if e.hits x.name && !e.circ && n.circuitFree e then
              { n with nmt := n.nmt.set k { e with circ := true, circLeft := w.1, circIdle := w.2, circTick := s.quartz } } else n
          | none => n
        .next ((s.modN r fun n => (List.range n.nmt.length).foldl take n).spread r (n.treePorts x.name) .nameCtl .circ x)
  | _ => .next s

/-- CIRCREL_AT_ROUTER (R91, R322): it goes down the whole tree, below a branch that was detached after the CIRC too. -/
def execCircrelAtRouter (m : Nat) (s : State) : Host.Outcome State Fault Refusal :=
  match s.net[m]? with
  | some ⟨_, .tile r, _, .name .circrel x, _, _⟩ =>
    if !s.arrivable m then .next s
    else
      let s := s.dropMsg m
      if x.router = atDirectory then
        .next ((s.post (.tile r) x.who .reply (.name .ack x)).post (.tile r) (.tile r) .nameCtl (.name .circrel { x.anew with router := r }))
      else
        let n := s.n r
        let drop (e : Nmt) : Nmt := if e.hits x.name then { e with circ := false, circLeft := 0 } else e
        .next ((s.modN r fun n => { n with nmt := n.nmt.map drop }).spread r (n.treePorts x.name) .nameCtl .circrel x)
  | _ => .next s

/-- CIRC_IDLE_EXPIRY (R91): the circuit of entry i has carried nothing for its idle limit. -/
def execCircIdleExpiry (t i : Nat) (s : State) : Host.Outcome State Fault Refusal :=
  onTile t s fun s =>
    match (s.n t).nmt[i]? with
    | none => s
    | some e =>
      if e.circ ∧ s.quartz ≥ e.circTick + e.circIdle then
        s.modN t fun n => { n with nmt := n.nmt.set i { e with circ := false, circLeft := 0 } }
      else s

/-! ### Streams (R88 to R90) -/

/-- The bytes of a reduction's accumulator: as many as a partial in FP32 mode, twice as many in the others (R92). -/
def Red.resultBytes (r : Red) : Nat := if r.mode = 0 then r.size else 2 * r.size

/-- Bytes of a tile's late cache in use: retained versions, reductions, held elements (R86, R89, R92). -/
def NDom.lateUsed (n : NDom) : Nat :=
  n.names.foldl (fun b e => b + e.retained.foldl (fun b r => b + r.bytes.length) 0 +
    e.reds.foldl (fun b r => b + r.resultBytes + r.size + r.heldParts.foldl (fun b p => b + p.2.length) 0) 0) 0 +
  n.heldElems.foldl (fun b h => b + h.msg.bytes.length) 0

/-- The late cache holds 64 KiB. -/
def lateBytes : Nat := 65536

/-- Port q of a stream's entry carries an element (R88). -/
def State.noteElem (s : State) (r q : Nat) (x : NameMsg) : State :=
  s.modN r fun n => n.modNmt { x with stream := true, mask := 0 } fun e => { e with cr := drop1 e.cr q, sent := e.sent ++ [(q, x.ver)] }

/-- Where a port of a router other than the local one leads: to the next router, or over a link (log 88: DESIGN CHOICE, unsafe). -/
def branchEnd (r q : Nat) : Agent × Nat := if q < 5 then (.tile (neighbour r q), neighbour r q) else (.span (q - 5) 0, atDirectory)

/-- A tile of a name leaves a router on port q, once (R79): to the next router as a flit, an element or both, or to the tile. -/
def State.postCopy (s : State) (r q : Nat) (tree elem : Bool) (x : NameMsg) : State :=
  let y : NameMsg := { x with stream := !tree, both := tree && elem }
  if q = 4 then s.post (.tile r) (.tile r) .nameData (.name .copy y)
  else
    let d := branchEnd r q
    s.post (.tile r) d.1 .nameData (.name (if tree then .flit else .element) { y with router := d.2 })

/-- An element goes out on port q of its stream's entry: to the next router, or to the tile. -/
def State.sendElem (s : State) (r q : Nat) (x : NameMsg) : State := (s.noteElem r q x).postCopy r q false true x

/-- The sender of an element as router r notes it: a router, the home at r itself, or a span agent, numbered beyond the directory. -/
def upstream (r : Nat) (src : Agent) : Nat := match src with | .tile u => u | .span l _ => atDirectory + 1 + l | _ => r

/-- A credit for an element goes up from router r to the router, or over the link, that the element came from (R88, R89, R379). -/
def State.creditUp (s : State) (r parent : Nat) (x : NameMsg) (ver : BitVec 16) : State :=
  if parent = r then s
  else if parent > atDirectory then
    s.post (.tile r) (.span (parent - atDirectory - 1) 0) .nameCtl (.name .credit { name := x.name, stream := true, ver := ver, router := atDirectory })
  else s.post (.tile r) (.tile parent) .nameCtl (.name .credit { name := x.name, stream := true, ver := ver, router := parent, port := portTo parent r })

/-- Elements whose branches are all gone return their credit upstream. -/
def State.orphans (s : State) (r q : Nat) (x : NameMsg) : State :=
  match (s.n r).nmt.find? fun e => e.stream && e.name == x.name with
  | none => s
  | some e =>
    let sent := e.sent.filter fun k => k.1 != q
    let gone := e.due.filter fun d => !sent.any fun k => k.2 == d.1
    let s := s.modN r fun n => n.modNmt { x with stream := true, mask := 0 } fun e =>
      { e with sent := sent, due := e.due.filter fun d => !gone.contains d }
    gone.foldl (fun s d => s.creditUp r d.2 x d.1) s

/-- A branch is detached (R90): its backlog goes, a notice runs down it. -/
def State.detach (s : State) (r q : Nat) (x : NameMsg) : State :=
  let s := s.countT r 4 1
  let s := s.modN r fun n => NDom.modNmt { n with heldElems := n.heldElems.filter fun h => !(h.port == q && h.msg.name == x.name) }
    { x with stream := true, mask := 0 } fun e => { e with det := e.det.set q true }
  let s := s.orphans r q x
  let y : NameMsg := { name := x.name, stream := true, ver := x.ver }
  if q = 4 then s.post (.tile r) (.tile r) .nameCtl (.name .detach { y with router := r, completion := true })
  else s.post (.tile r) (branchEnd r q).1 .nameCtl (.name .detach { y with router := (branchEnd r q).2 })

/-- The branch of a tile's router with the largest backlog among a stream's ports; on a tie the first port (R90). -/
def NDom.worst (n : NDom) (x : TileName) (q : Nat) (ports : List Nat) : Nat :=
  let load (p : Nat) : Nat := (n.heldElems.filter fun h => h.port == p && h.msg.name == x).length + (if p = q then 1 else 0)
  ports.foldl (fun b p => if load p > load b then p else b) (ports.headD q)

/-- An element is held for a branch without credit; where the late cache cannot take it a branch is detached (R89, R90). Nothing is held
for a branch that is detached already. -/
def State.holdElem (s : State) (r q : Nat) (x : NameMsg) : Nat → State
  | 0 => s
  | fuel + 1 =>
    let n := s.n r
    if n.nmt.any fun e => e.stream && e.name == x.name && e.det.getD q false then s
    else if n.lateUsed + x.bytes.length ≤ lateBytes then s.modN r fun n => { n with heldElems := n.heldElems ++ [⟨x, q, s.quartz⟩] }
    else match n.nmt.find? fun e => e.stream && e.name == x.name with
      | none => s
      | some e =>
        let b := n.worst x.name q e.ports
        let s := s.detach r b x
        if b = q then s else State.holdElem s r q x fuel

/-- The streams of a name on one tile share the credit of its local port, which counts for the greatest d among them, also of one that takes
its elements late or has been closed: the port takes an element only while each attached stream has room for it in its own FIFO (R88). -/
def State.localRoom (s : State) (r : Nat) (x : NameMsg) : Bool :=
  let all := ((s.c r).frames.flatMap fun e => e.2.streams) ++ (s.tile r).slate.images.flatMap fun i => i.fr.streams
  let l := all.filter fun y => y.name == x.name && !y.detached && !y.cut
  let room (y : Stream) : Bool :=
    let ahead := (x.ver - y.v0 - BitVec.ofNat 16 y.cursor).toNat
    decide (ahead < y.depth ∨ 32768 ≤ ahead)
  l.all room

/-- Port q of a stream's entry may carry an element now (R88, R89). -/
def State.portTakes (s : State) (r q : Nat) (e : Nmt) (x : NameMsg) : Bool :=
  decide (e.cr.getD q 0 > 0) && (q != 4 || s.localRoom r x)

/-- An element reaches a router from router u (R89): the branches with credit, which take it, and the state in which it is held for
the others; none where no branch takes it. -/
def State.elementAt (s : State) (r u : Nat) (x : NameMsg) : Option (List Nat × State) :=
  match (s.n r).nmt.find? fun e => e.stream && e.name == x.name with
  | none => some ([], s.countT r 8 1)
  | some e =>
    let free (q : Nat) : Bool := s.portTakes r q e x && !(s.n r).heldElems.any fun h => h.port == q && h.msg.name == x.name
    let go := e.ports.filter free
    let stay := e.ports.filter fun q => !free q
    if go.isEmpty && !stay.isEmpty then none
    else
      let s := s.modN r fun n => n.modNmt { x with stream := true, mask := 0 } fun e => e.carried s.quartz
      let s := go.foldl (fun s q => s.noteElem r q x) s
      let s := stay.foldl (fun s q => s.holdElem r q x 6) s
      some (go, if stay.isEmpty && !go.isEmpty then
          s.modN r fun n => n.modNmt { x with stream := true, mask := 0 } fun e => { e with due := e.due ++ [(x.ver, u)] }
        else s.creditUp r u x x.ver)

/-- STREAM_ELEMENT_AT_ROUTER (R89): the element goes out on every branch with credit and is held for the others; where no branch
takes it, it waits with the name data of its name behind it. -/
def execStreamElementAtRouter (m : Nat) (s : State) : Host.Outcome State Fault Refusal :=
  match s.net[m]? with
  | some ⟨src, .tile r, cls, .name .element x, b, sm⟩ =>
    if !s.arrivable m then .next s
    else match (s.dropMsg m).elementAt r (upstream r src) { x with waits := false } with
      | none => .next { s with net := s.net.set m ⟨src, .tile r, cls, .name .element { x with waits := true }, b, sm⟩ }
      | some (go, s) => .next (go.foldl (fun s q => s.postCopy r q false true { x with waits := false }) s)
  | _ => .next s

/-- PUBLISH_FLIT_AT_ROUTER (R79): the flit leaves once on each port of the union of the matching entries; a local copy goes to the
tile. A stream element that it carries goes by the stream's credits (R88), and waits by itself, in the flit's place, where no branch
takes it. -/
def execPublishFlitAtRouter (m : Nat) (s : State) : Host.Outcome State Fault Refusal :=
  match s.net[m]? with
  | some ⟨src, .tile r, cls, .name .flit x, b, sm⟩ =>
    if !s.arrivable m || x.router == atDirectory then .next s
    else
      let net := s.net.set m ⟨src, .tile r, cls, .name .element { x with stream := true, both := false, waits := true }, b, sm⟩
      let s := s.dropMsg m
      let u := upstream r src
      let hit (e : Nmt) : Bool := e.hits x.name && !e.stream
      let ports := (s.n r).portsOf ((s.n r).nmt.filter hit)
      let s := s.modN r fun n => { n with nmt := n.nmt.map fun e => if hit e then e.carried s.quartz else e }
      let elem : NameMsg := { x with stream := true, both := false }
      let q := if x.both then s.elementAt r u elem else some ([], s)
      let go := (q.map (·.1)).getD []
      let s := (List.range numPorts).foldl (fun s k =>
        if ports.contains k || go.contains k then s.postCopy r k (ports.contains k) (go.contains k) x else s) ((q.map (·.2)).getD s)
      .next (if q.isNone then { s with net := net ++ s.net.drop (net.length - 1) } else s)
  | _ => .next s

/-- Held elements of a branch go out in order while it has credit; the time the rest has been held starts anew. -/
def State.kick (s : State) (r q : Nat) (x : NameMsg) : Nat → State
  | 0 => s
  | fuel + 1 =>
    match (s.n r).heldElems.find? fun h => h.port == q && h.msg.name == x.name,
      (s.n r).nmt.find? fun e => e.stream && e.name == x.name with
    | some h, some e =>
      if s.portTakes r q e h.msg ∧ !e.det.getD q false then
        State.kick ((s.modN r fun n => { n with heldElems := n.heldElems.erase h }).sendElem r q h.msg) r q x fuel
      else s.modN r fun n => { n with heldElems := n.heldElems.map fun y => if y.port = q ∧ y.msg.name = x.name then { y with since := s.quartz } else y }
    | _, _ => s

/-- CREDIT_RETURN (R88, R89): a credit reaches a router through a port; the first for an element that every branch took goes on up. -/
def execCreditReturn (m : Nat) (s : State) : Host.Outcome State Fault Refusal :=
  match s.nameMsg m (fun op => op == .credit) true with
  | none => .next s
  | some (r, _, x) =>
    let s := s.dropMsg m
    let q := x.port
    match (s.n r).nmt.find? fun e => e.stream && e.name == x.name with
    | none => .next s
    | some e =>
      let s := s.modN r fun n => n.modNmt { x with stream := true, mask := 0 } fun e =>
        { e with cr := e.cr.set q (min 64 (e.cr.getD q 0 + 1)), sent := e.sent.erase (q, x.ver), due := e.due.filter fun d => d.1 != x.ver }
      let s := match e.due.find? fun d => d.1 == x.ver with
        | some d => s.creditUp r d.2 x x.ver
        | none => s
      .next (s.kick r q x 65)

/-- BRANCHSTALL_EXPIRY (R90): held element i of a router has waited BRANCHSTALL ticks. -/
def execBranchstallExpiry (t i : Nat) (s : State) : Host.Outcome State Fault Refusal :=
  onTile t s fun s =>
    match (s.n t).heldElems[i]? with
    | none => s
    | some h => if s.quartz ≥ h.since + (s.c t).branchstall then s.detach t h.port h.msg else s

/-- DETACH_NOTICE (R90): it runs on down the branch; at a tile every stream of the name asks for its elements unicast, that of a
parked frame once the frame is restored. -/
def execDetachNotice (m : Nat) (s : State) : Host.Outcome State Fault Refusal :=
  match s.nameMsg m (fun op => op == .detach) true with
  | none => .next s
  | some (r, op, x) =>
    if x.completion then
      if !(s.tile r).powered then .next s
      else
        let s := s.dropMsg m
        let cut (i : Image) : Image := { i with fr := { i.fr with streams := i.fr.streams.map fun y =>
          if y.name = x.name ∧ !y.detached then { y with cut := true } else y } }
        let s := s.modSlate r fun l => { l with images := l.images.map cut }
        .next (((s.c r).frames.flatMap fun e => (e.2.streams.filter fun y => y.name == x.name && !y.detached).map fun y => (e.1, y)).foldl
          (fun s e => s.detachStream r e.1 e.2) s)
    else
      let s := s.dropMsg m
      let ports := (s.n r).portsOf ((s.n r).nmt.filter fun e => e.stream && e.name == x.name)
      let s := s.spread r ports .nameCtl op x
      let s := (ports.filter (5 ≤ ·)).foldl (fun s q => s.post (.tile r) (branchEnd r q).1 .nameCtl (.name .detach { x with router := atDirectory })) s
      .next (if ports.contains 4 then s.post (.tile r) (.tile r) .nameCtl (.name .detach { x with router := r, completion := true }) else s)

end Sys2Proof.Machine
end

