-- ==== Sys2Proof/Machine/Directory.lean ====
section
/-! DEFINITION. The name directory at a tile (R81 to R87, R318, R321): claims, registrations and how they resolve, publishes and
their acceptance, retention, fall-through fetches, the answers that go back. -/

namespace Sys2Proof.Machine

/-! ### Name entries (R81, R84) -/

def freshEntry (x : TileName) (now : Nat) : NameEntry :=
  { name := x, claim := none, newest := none, map := 0, retained := [], subs := [], reds := [], fetching := [], keptRetain := [], touched := now }

/-- The entry of a name, made where there is none, changed and touched. -/
def State.atEntry (s : State) (t : Nat) (x : TileName) (g : NameEntry → NameEntry) : State :=
  s.modN t fun n =>
    let n := if (n.entry? x).isSome then n else { n with names := n.names ++ [freshEntry x s.quartz] }
    n.modEntry x fun e => { g e with touched := s.quartz }

/-- A version has been accepted (R81). -/
def NameEntry.accepted (e : NameEntry) (v : BitVec 16) : Bool :=
  match e.newest with
  | none => false
  | some n => let d := (n - v).toNat; decide (d < 64) && e.map.getLsbD d

/-- A publish of the version would be accepted (R84). -/
def NameEntry.fresh (e : NameEntry) (v : BitVec 16) : Bool :=
  match e.newest with
  | none => true
  | some n => newer v.toNat n.toNat || (decide ((n - v).toNat < 64) && !e.map.getLsbD (n - v).toNat)

/-- The accepted map after a version (R84 step 1). -/
def NameEntry.accept (e : NameEntry) (v : BitVec 16) : NameEntry :=
  match e.newest with
  | none => { e with newest := some v, map := 1 }
  | some n =>
    if newer v.toNat n.toNat then { e with newest := some v, map := (e.map <<< (v - n).toNat) ||| 1 }
    else { e with map := e.map ||| (1#64 <<< (n - v).toNat) }

def NameEntry.ret? (e : NameEntry) (v : BitVec 16) : Option Retained := e.retained.find? fun r => r.ver == v

/-- The subscriber still waits for the version. -/
def SubRec.awaits (r : SubRec) (v : BitVec 16) : Bool := (r.resolved == some v && !r.served && !r.reg.stream) || r.wants.contains v

/-- The element of a stream that a version is, from its start on (R88). -/
def SubRec.hasElem (r : SubRec) (v : BitVec 16) : Bool := r.reg.stream && decide ((v - r.reg.ver).toNat < 32768)

/-! ### The late cache (R86, R92) -/

/-- Every version at a home that may be evicted, with its name. -/
def NDom.evictable (n : NDom) : List (TileName × Retained) :=
  n.names.flatMap fun e => if isFaultName e.name then [] else (e.retained.filter fun (r : Retained) => !e.subs.any fun q => q.awaits r.ver).map fun (r : Retained) => (e.name, r)

/-- Room for n bytes in the late cache: the oldest versions that nobody waits for are evicted; none where that is not enough. -/
def State.lateRoom (s : State) (t n : Nat) : Nat → Option State
  | 0 => none
  | fuel + 1 =>
    if (s.n t).lateUsed + n ≤ lateBytes then some s
    else match (s.n t).evictable.foldl (fun m e => match m with
        | none => some e
        | some b => if e.2.order < b.2.order then some e else some b) (none : Option (TileName × Retained)) with
      | none => none
      | some e => State.lateRoom (s.releaseVer t e.1 e.2.ver) t n fuel

/-- Room, evicting as many versions as the home retains. -/
def State.makeRoom (s : State) (t n : Nat) : Option State := s.lateRoom t n ((s.n t).evictable.length + 1)

/-- n deliveries of a version are credited; at a count that is expected it is released (R86). -/
def State.credit (s : State) (t : Nat) (x : TileName) (v : BitVec 16) (k : Nat) : State :=
  let add (r : Retained) : Retained := if r.ver = v then { r with delivered := r.delivered + k } else r
  let s := s.modN t fun n => n.modEntry x fun e => { e with retained := e.retained.map add }
  match ((s.n t).entry? x).bind (·.ret? v) with
  | some r => if r.expected ≠ 0 ∧ r.delivered ≥ r.expected ∧ !isFaultName x then s.releaseVer t x v else s
  | none => s

/-! ### Copies and answers to subscribers (R80, R84, R85) -/

/-- A unicast or late copy to a subscriber, on the addressed plane; it counts as one delivery. `retained` marks one made from the late
cache (R374). -/
def State.sendCopy (s : State) (t : Nat) (x : TileName) (r : SubRec) (k : Retained) (retained : Bool) : State :=
  let m : NameMsg := { r.reg.anew with
    accepted := retained, name := x, ver := k.ver, bytes := k.bytes, late := true, tick := w64 k.accepted,
    fallthrough := k.fallthrough, reduction := k.reduction, origin := 0 }
  (s.post (.tile t) r.reg.who .reply (.name .copy m)).credit t x k.ver 1

/-- A subscriber record of a name changed. -/
def State.modSub (s : State) (t : Nat) (x : TileName) (r : SubRec) (g : SubRec → SubRec) : State :=
  s.modN t fun n => n.modEntry x fun e => { e with subs := e.subs.map fun q => if q.reg = r.reg then g q else q }

/-- A task placed on a tile that has not been activated is ABORTED, with one record (R85, R123). -/
def State.abortPlaced (s : State) (src : Agent) (t : Nat) (q : Placed) (i : FaultInfo) : State :=
  let p := s.partOf t
  let s := ((s.taskRecord src p 1 q.task.taskId i).unplace t q).dropHeld t q.task.taskId
  s.modPart p fun x => { x with taskIds := x.taskIds.filter (· != q.task.taskId) }

/-- A subscriber that cannot be served: its frame aborts, or its task where not yet active; an entry of the host that is still armed with
the subscription lapses, once (R85, R123, R374). -/
def State.failSub (s : State) (t : Nat) (x : NameMsg) (i : FaultInfo) : State :=
  match x.who with
  | .tile u =>
    let hit (q : Placed) : Bool := if x.slot = codeSlot then q.task.codeSub.name == x.name && nameVer q.task.codelo == x.ver && !q.codeSat
      else x.frame.isNone && q.task.taskId == x.taskId
    let placed := (s.c u).placed.filter hit
    if placed.isEmpty then match (s.c u).frames.find? fun e => e.2.st != .free && e.2.task.taskId == x.taskId with
      | some e => s.remoteFault (.tile t) u e.1 x.taskId i
      | none => if x.slot = codeSlot then s else s.remoteFault (.tile t) u (x.frame.getD 0) x.taskId i
    else placed.foldl (fun s q => s.abortPlaced (.tile t) u q i) s
  | .gateway p =>
    let e := (s.vf p).subs.getD x.slot {}
    if !e.armed || e.closing || x.word != w64 e.gen then s else
    let s := s.modVf p fun f => { f with hstat := f.hstat ||| 0x20#64, subs := f.subs.adjust x.slot fun e => { e with armed := false, w2 := e.w2 &&& ~~~(1#64 <<< 63) } }
    s.publishRecord (.gateway p) p faultTensor 0xFFFFFFFF false (recordWords s.tick i.cause.code 2 0 0 0 0 0 0 0 0xFFFFFFFF 0 0 0 i)
  | _ => s

/-- SUBLAPSE (R85 case 4), counted. -/
def State.lapse (s : State) (t : Nat) (x : NameMsg) : State := (s.countT t 7 1).failSub t x { cause := .sublapse }

/-- The nearest rim agent whose stack is not excluded (R87, R400). -/
def State.nearestRim (s : State) (t : Nat) : Nat :=
  let l := (List.range Config.numRims).filter fun a => !(s.rim a).excluded
  l.foldl (fun b a => if rimHops t a < rimHops t b then a else b) (l.headD 0)

/-- A fetch of a version leaves for the nearest rim agent, unless one is pending (R87); it names the task of its subscriber (R123). -/
def State.fetch (s : State) (t : Nat) (x : TileName) (v : BitVec 16) (r : SubRec) : State :=
  match (s.n t).entry? x with
  | none => s
  | some e =>
    if e.fetching.contains v then s
    else
      let s := s.modN t fun n => n.modEntry x fun e => { e with fetching := e.fetching ++ [v] }
      let id := if r.reg.slot = codeSlot then BitVec.ofNat 32 r.reg.index else r.reg.taskId
      (s.post (.tile t) (.rim (s.nearestRim t)) .request (.name .fetch { r.reg.anew with name := x, ver := v, taskId := id })).countT t 18 1

/-- A subscriber that wants a version takes the first case of R85 that applies. A version of a wafer-produced tensor that was never
accepted and is older than the window of 64 fits none of them, and is taken as lapsed (log 58: DESIGN CHOICE, unsafe). -/
def State.serveSub (s : State) (t : Nat) (x : TileName) (r : SubRec) (v : BitVec 16) : State :=
  match (s.n t).entry? x with
  | none => s
  | some e =>
    match e.ret? v with
    | some k =>
      let s := s.modSub t x r fun q => { q with served := q.served || !q.reg.stream, wants := q.wants.filter (· != v) }
      s.sendCopy t x r k true
    | none =>
      let kind : BitVec 2 := match (s.part (s.partOf t)).binding x.ns x.tensor with | some b => b.kind | none => 0
      if kind = 2 then s.fetch t x v r
      else if e.fresh v then s
      else (s.modSub t x r fun q => { q with served := true, wants := q.wants.filter (· != v) }).lapse t r.reg

/-! ### Registrations (R78, R81, R85, R319) -/

/-- The concrete names a registration covers. -/
def State.covered? (s : State) (p : Nat) (x : NameMsg) : List TileName :=
  match (s.part p).binding x.name.ns x.name.tensor with
  | some b => expandNames b x.name x.mask
  | none => []

/-- The version a subscription resolves to at its home (R78). -/
def NameEntry.resolve (e : NameEntry) (kind : BitVec 2) (x : NameMsg) : BitVec 16 :=
  if !x.next then x.ver
  else if kind = 2 then
    (e.retained.foldl (fun m r => match m with
      | none => some r.ver
      | some v => if newer r.ver.toNat v.toNat then some r.ver else some v) none).getD 0
  else match e.newest with | some n => n + 1 | none => 0

/-- New name entries and subscriber records that a registration needs (R81). -/
def NDom.needs (n : NDom) (l : List TileName) (x : NameMsg) : Nat × Nat :=
  ((l.filter fun y => (n.entry? y).isNone).length,
   (l.filter fun y => match n.entry? y with | some e => !e.subs.any fun r => sameSub r.reg x | none => true).length)

/-- The directory has room for them (R81). -/
def NDom.admits (n : NDom) (k : Nat × Nat) : Bool :=
  (k.1 == 0 || decide (n.names.length + k.1 ≤ 1024)) &&
    (k.2 == 0 || decide (n.names.foldl (fun m e => m + e.subs.length) 0 + k.2 ≤ 4096))

/-- The sender stands for a tile or the gateway of the far module (R379). -/
def Agent.far (a : Agent) : Bool := match a with | .span _ _ => true | _ => false

/-- A tile of this module or the far one, whose subscriptions the tree serves (R84, R379); the gateway is number 10,240 of its module. -/
def Agent.onTree (a : Agent) : Bool := match a with | .tile _ => true | .span _ u => decide (u < Config.numTiles) | _ => false

/-- A subscriber record for one name: made, or made anew by a re-arm, which leaves an overflow subscriber one (R80); and served, but where
it comes satisfied. -/
def State.subscribe (s : State) (t : Nat) (x : NameMsg) (y : TileName) (kind : BitVec 2) (last : Bool) : State :=
  let s := s.atEntry t y id
  match (s.n t).entry? y with
  | none => s
  | some e =>
    let v := e.resolve kind x
    let catchUp := x.stream && (x.overflow || x.late || (match e.newest with | some n => decide ((n - x.ver).toNat < 32768) | none => false))
    let ovf := x.overflow || e.subs.any fun q => sameSub q.reg x && q.overflow
    let r : SubRec := { reg := { x with ver := if x.stream then x.ver else v, bytes := [] }, resolved := if x.stream then none else some v, overflow := ovf,
                        detached := catchUp, served := x.accepted, wants := [] }
    let s := s.modN t fun n => n.modEntry y fun e => { e with subs := (e.subs.filter fun q => !sameSub q.reg x) ++ [r] }
    let s := s.post (.tile t) x.who .reply (.name .regReply { x with name := y, ver := v, late := catchUp, completion := last })
    if x.stream || x.accepted then s else s.serveSub t y r v

/-- A registration or a re-arm is taken: every name it covers is resolved and served (R78, R85, R319). An unbound tensor refuses it
(R350). -/
def State.takeReg (s : State) (t : Nat) (x : NameMsg) : State :=
  match (s.part (s.partOf t)).binding x.name.ns x.name.tensor with
  | none => s.failSub t x { cause := .namecfg, cw2 := x.name.hi, cw3 := x.name.lo x.ver }
  | some b =>
    let l := expandNames b x.name x.mask
    (List.range l.length).foldl (fun s j => match l[j]? with
      | some y => s.subscribe t x y b.kind (j + 1 == l.length)
      | none => s) s

/-- A name-control message that needs an entry or a record waits at the ingress where the directory is full (R81). -/
def State.orWait (s : State) (t m : Nat) (need : Nat × Nat) (f : State → State) : State :=
  match s.net[m]? with
  | none => s
  | some msg =>
    if (s.n t).admits need then f (s.takeMsg m)
    else (s.takeMsg m).modN t fun n => { n with ingress := n.ingress ++ [msg] }

/-- A name message that was applied before a field revival and is sent again is only acknowledged (R399). -/
def State.ackAgain (s : State) (t : Nat) (op : NameOp) (x : NameMsg) : State :=
  let y : NameMsg := { x with bytes := [] }
  match op with
  | .reg | .rearm =>
    let l := s.covered? (s.partOf t) x
    (List.range l.length).foldl (fun s j => match (l[j]?).bind (s.n t).entry? with
      | some e =>
        let v := match (e.subs.find? fun r => sameSub r.reg x).bind (·.resolved) with | some v => v | none => x.ver
        s.post (.tile t) x.who .reply (.name .regReply { y with name := e.name, ver := v, completion := j + 1 == l.length })
      | none => s) s
  | .claim =>
    let held := match (s.n t).entry? x.name with | some e => e.claim == some x.taskId | none => false
    s.post (.tile t) x.who .reply (.name .claimReply { y with accepted := held })
  | _ => if x.origin = 0 then s else s.post (.tile t) x.who .reply (.name .ack y)

/-- REGISTRATION_AT_HOME (R85): a registration or a re-arm reaches the directory. -/
def execRegistrationAtHome (m : Nat) (s : State) : Host.Outcome State Fault Refusal :=
  match s.nameMsg m (fun op => op == .reg || op == .rearm) false with
  | none => .next s
  | some (t, op, x) => .next (if (s.n t).seen x then (s.takeMsg m).ackAgain t op x
      else s.orWait t m ((s.n t).needs (s.covered? (s.partOf t) x) x) fun s => s.takeReg t x)

/-- A registration or a re-arm of the subscriber that waits at the ingress. -/
def Msg.regOf (y : Msg) (x : NameMsg) : Bool :=
  match y.body with | .name op z => (op == .reg || op == .rearm) && sameSub z x | _ => false

/-- PRUNE_AT_HOME (R81): the subscriber's records go, and its registration where that still waits at the ingress, unanswered (log 87:
DESIGN CHOICE, unsafe); the prune is acknowledged. -/
def execPruneAtHome (m : Nat) (s : State) : Host.Outcome State Fault Refusal :=
  match s.nameMsg m (fun op => op == .prune) false with
  | none => .next s
  | some (t, op, x) =>
    if (s.n t).seen x then .next ((s.takeMsg m).ackAgain t op x) else
    let s := s.takeMsg m
    let hit (e : NameEntry) : Bool := e.subs.any fun r => sameSub r.reg x
    let cut (e : NameEntry) : NameEntry :=
      if hit e then { e with subs := e.subs.filter (fun r => !sameSub r.reg x), touched := s.quartz } else e
    let s := s.modN t fun n => { n with names := n.names.map cut, ingress := n.ingress.filter fun y => !y.regOf x }
    .next (if x.origin = 0 then s else s.post (.tile t) x.who .reply (.name .ack x))

/-! ### Claims (R83, R317) -/

/-- A claim is granted or refused. -/
def State.takeClaimAt (s : State) (t : Nat) (x : NameMsg) : State :=
  let p := s.partOf t
  let bound := match (s.part p).binding x.name.ns x.name.tensor with | some b => b.kind == 1 | none => false
  let holder := ((s.n t).entry? x.name).bind fun e => e.claim.map fun h => (h, e.claimFar)
  let ok := bound && (match holder with | some h => h == (x.taskId, x.who.far) || (!h.2 && !s.liveTask p h.1) | none => true)
  let s := if ok then s.atEntry t x.name fun e => { e with claim := some x.taskId, claimFar := x.who.far } else s
  s.post (.tile t) x.who .reply (.name .claimReply { x with accepted := ok })

/-- CLAIM_AT_HOME (R83). -/
def execClaimAtHome (m : Nat) (s : State) : Host.Outcome State Fault Refusal :=
  match s.nameMsg m (fun op => op == .claim) false with
  | none => .next s
  | some (t, op, x) => .next (if (s.n t).seen x then (s.takeMsg m).ackAgain t op x
      else s.orWait t m (if ((s.n t).entry? x.name).isSome then (0, 0) else (1, 0)) fun s => s.takeClaimAt t x)

/-- CLAIM_RELEASE_AT_HOME (R83). -/
def execClaimReleaseAtHome (m : Nat) (s : State) : Host.Outcome State Fault Refusal :=
  match s.nameMsg m (fun op => op == .claimRel) false with
  | none => .next s
  | some (t, op, x) =>
    if (s.n t).seen x then .next ((s.takeMsg m).ackAgain t op x) else
    .next ((s.takeMsg m).modN t fun n => n.modEntry x.name fun e =>
      if e.claim = some x.taskId ∧ e.claimFar = x.who.far then { e with claim := none, touched := s.quartz } else e)

/-! ### Retention (R86, R321) -/

/-- The retention time of a tensor in ticks (R75, R86). -/
def State.rett (s : State) (t : Nat) (x : TileName) : Nat :=
  match (s.part (s.partOf t)).binding x.ns x.tensor with
  | some b => if b.rett = 0 then 65536 else b.rett
  | none => 65536

def State.retn (s : State) (t : Nat) (x : TileName) : Nat :=
  match (s.part (s.partOf t)).binding x.ns x.tensor with | some b => b.retn | none => 0

/-- The expected count and time that a RETAIN word gives (R321). -/
def State.retainWord (s : State) (t : Nat) (x : TileName) (w : W64) : Nat × Nat :=
  (if bits w 15 0 = 0 then s.retn t x else bits w 15 0, if bits w 47 16 = 0 then s.rett t x else bits w 47 16)

/-- RETAIN is applied to a retained version, kept for one to come, or ignored and counted. -/
def State.takeRetain (s : State) (t : Nat) (x : NameMsg) : State :=
  let e := ((s.n t).entry? x.name).getD (freshEntry x.name s.quartz)
  let w := s.retainWord t x.name x.word
  let s := match e.ret? x.ver with
    | some r =>
      if s.quartz ≤ r.accepted + 65536 then
        let put (q : Retained) : Retained := if q.ver = x.ver then { q with expected := w.1, time := w.2 } else q
        (s.atEntry t x.name fun e => { e with retained := e.retained.map put }).credit t x.name x.ver 0
      else s.countT t 9 1
    | none =>
      if e.fresh x.ver then s.atEntry t x.name fun e => { e with keptRetain := (e.keptRetain.filter fun (k : BitVec 16 × W64) => k.1 != x.ver) ++ [(x.ver, x.word)] }
      else s.countT t 9 1
  s.post (.tile t) x.who .reply (.name .ack x)

/-- RETAIN_AT_HOME (R321). -/
def execRetainAtHome (m : Nat) (s : State) : Host.Outcome State Fault Refusal :=
  match s.nameMsg m (fun op => op == .retain) false with
  | none => .next s
  | some (t, op, x) =>
    if (s.n t).seen x then .next ((s.takeMsg m).ackAgain t op x) else
    if ((s.part (s.partOf t)).binding x.name.ns x.name.tensor).isNone then
      .next (((s.takeMsg m).countT t 9 1).post (.tile t) x.who .reply (.name .ack x))
    else .next (s.orWait t m (if ((s.n t).entry? x.name).isSome then (0, 0) else (1, 0)) fun s => s.takeRetain t x)

/-- RETENTION_EXPIRY (R86): the retention time of a version has passed; registrations of the same cycle come first (R82). -/
def execRetentionExpiry (t : Nat) (name : TileName) (ver : BitVec 16) (s : State) : Host.Outcome State Fault Refusal :=
  onTile t s fun s =>
    match ((s.n t).entry? name).bind (·.ret? ver) with
    | some r => if s.quartz ≥ r.accepted + r.time ∧ !isFaultName name then (s.releaseVer t name ver).noteOrder t 24 else s
    | none => s

/-- NAME_ENTRY_RELEASE (R81). The entry of a name whose versions the device numbers stays (R74), and one that keeps a RETAIN for a version
to come (R321). -/
def execNameEntryRelease (t : Nat) (name : TileName) (s : State) : Host.Outcome State Fault Refusal :=
  onTile t s fun s =>
    match (s.n t).entry? name with
    | none => s
    | some e =>
      if name.ns != 0 && e.claim.isNone && e.subs.isEmpty && e.retained.isEmpty && e.reds.isEmpty && e.fetching.isEmpty && e.keptRetain.isEmpty && decide (s.quartz ≥ e.touched + s.rett t name) then
        s.modN t fun n => { n with names := n.names.filter fun x => x.name != name }
      else s

/-! ### Acceptance (R84) -/

/-- A publish as its home takes it: the version and the bytes, and what kind it is. -/
structure Pub where
  name : TileName
  ver : BitVec 16
  bytes : List Byte
  taskId : BitVec 32
  who : Agent
  frame : Nat
  fallthrough : Bool
  reduction : Bool
  deriving DecidableEq, Repr

/-- The pieces of a backed tile: virtual address, offset in the tile and length, none crossing a sector (R75). -/
def tilePieces (b : Binding) (x : TileName) : List (Nat × Nat × Nat) :=
  let coords := [x.c0.toNat, x.c1.toNat, x.c2.toNat, x.c3.toNat]
  let base := b.vbase + (List.range 4).foldl (fun n j => n + coords.getD j 0 * b.tstr.getD j 0) 0
  (List.range b.rows).flatMap fun r =>
    let a := (base + r * b.rowp) % 2 ^ 56
    (chunks a b.rowb).map fun (o, len) => (a + o, r * b.rowb + o, len)

/-- The writes of an accepted WB = 1 publish wait for their walks at the nearest rim agent (R84, R115, R123). -/
def State.writeBack (s : State) (t : Nat) (b : Binding) (q : Pub) : State :=
  let p := s.partOf t
  let tile := match q.who with | .tile u => u | _ => t
  let ws : List Walk := (tilePieces b q.name).map fun (va, o, len) =>
    ⟨va / 65536, s.space p, va, true, 2, q.taskId, tile, q.frame, (q.bytes.drop o).take len, none, 0⟩
  s.modRim (s.nearestRim t) fun r => { r with walks := r.walks ++ ws }

/-- Subscribers whose delivery goes by the tree (R84 step 3). -/
def NameEntry.byTree (e : NameEntry) (v : BitVec 16) : List SubRec :=
  e.subs.filter fun r => !r.overflow && !r.detached && r.reg.who.onTree &&
    (r.awaits v || r.hasElem v)

/-- Subscribers served by unicast copies (R84 step 5). -/
def NameEntry.byCopy (e : NameEntry) (v : BitVec 16) : List SubRec :=
  e.subs.filter fun r => r.awaits v && (r.overflow || r.detached || !r.reg.who.onTree)

/-- The version a home retains at acceptance (R84 step 2, R86). -/
def State.retainedOf (s : State) (t : Nat) (e : NameEntry) (q : Pub) : Retained :=
  let w := match e.keptRetain.find? fun k => k.1 == q.ver with
    | some k => s.retainWord t q.name k.2
    | none => (s.retn t q.name, s.rett t q.name)
  { ver := q.ver, bytes := q.bytes, accepted := s.quartz, expected := w.1, time := w.2, delivered := 0, fallthrough := q.fallthrough,
    reduction := q.reduction, order := (s.n t).names.foldl (fun m e => e.retained.foldl (fun m r => max m (r.order + 1)) m) 0 }

/-- A version is accepted or, after a fetch, retained again (R84, R87): it goes down the tree and by unicast copies; a launch
version goes to the loader (R377). One retained again goes down the tree where a subscriber waits for it there. -/
def State.acceptPub (s : State) (t : Nat) (q : Pub) (again : Bool) : State :=
  let s := s.atEntry t q.name id
  match (s.n t).entry? q.name with
  | none => s
  | some e =>
    let k := s.retainedOf t e q
    let tree := (e.byTree q.ver).filter fun r => !again || !r.reg.stream
    let copies := e.byCopy q.ver
    let s := s.atEntry t q.name fun e =>
      let e := if again then e else e.accept q.ver
      { e with retained := e.retained ++ [k], keptRetain := e.keptRetain.filter fun x => x.1 != q.ver, fetching := e.fetching.filter (· != q.ver),
               subs := e.subs.map fun r => if r.awaits q.ver && !r.reg.stream then { r with served := true } else r }
    let s := if again then s else s.countT t 17 1
    let s := if q.name = sysName 2 ∧ !again then s.modPart (s.partOf t) fun p => { p with launches := p.launches ++ [(q.ver, q.bytes)] } else s
    let m : NameMsg := { name := q.name, ver := q.ver, bytes := q.bytes, router := t, tick := s.tick, fallthrough := q.fallthrough, reduction := q.reduction }
    let elem := !again && (s.n t).nmt.any fun e => e.stream && e.name == q.name
    let s := if again && tree.isEmpty then s else s.post (.tile t) (.tile t) .nameData (.name .flit { m with both := elem })
    let s := s.credit t q.name q.ver tree.length
    copies.foldl (fun s r => (s.modSub t q.name r fun x => { x with served := x.served || !x.reg.stream, wants := x.wants.filter (· != q.ver) }).sendCopy t q.name r k false) s

/-- The publish is acknowledged: to the frame of a PUBT, or to the gateway. -/
def State.ackPub (s : State) (t : Nat) (x : NameMsg) : State :=
  match x.who with
  | .gateway _ => s.post (.tile t) x.who .reply (.name .ack { x with bytes := [] })
  | .tile _ | .span _ _ => if x.origin = 0 then s else s.post (.tile t) x.who .reply (.name .ack { x with bytes := [] })
  | _ => s

/-- A publish needs no claim (R83, R316). -/
def State.claimFree (s : State) (t : Nat) (x : NameMsg) (b : Binding) : Bool :=
  b.kind == 2 || x.device || x.completion || x.reduction || !x.who.onTree ||
    (match (s.n t).entry? x.name with
     | some e => (e.claim == some x.taskId && e.claimFar == x.who.far) || e.reds.any fun r => r.ver == x.ver
     | none => false)

/-- The version a device record takes: the next one of its name (R74, R418). -/
def State.deviceVer (s : State) (t : Nat) (x : NameMsg) : BitVec 16 :=
  if !x.device then x.ver else match ((s.n t).entry? x.name).bind (·.newest) with | some n => n + 1 | none => 0

/-- The oldest of 64 fault-name versions that wait is released, and the host told (R374). -/
def State.trimFaults (s : State) (t : Nat) (x : TileName) : State :=
  match (s.n t).entry? x with
  | none => s
  | some e =>
    if !isFaultName x ∨ e.retained.length < 64 then s
    else match e.retained.foldl (fun m r => match m with
        | none => some r
        | some b => if r.order < b.order then some r else some b) (none : Option Retained) with
      | none => s
      | some r => (s.releaseVer t x r.ver).modVf (s.partOf t) fun f => { f with hstat := f.hstat ||| 0x40#64 }

/-- A publish that passed its checks: accepted, or dropped as a duplicate; none where it waits for late-cache space, or for a name entry
where all 1,024 are taken (log 57: DESIGN CHOICE, unsafe). -/
def State.takePub (s : State) (t : Nat) (x : NameMsg) (b : Binding) : Option State :=
  let v := s.deviceVer t x
  let s := s.trimFaults t x.name
  let e := ((s.n t).entry? x.name).getD (freshEntry x.name s.quartz)
  let again := !e.fresh v && x.fallthrough && e.fetching.contains v && (e.ret? v).isNone
  if !e.fresh v && !again then some ((s.countT t 2 1).ackPub t x)
  else if (s.n t).names.length ≥ 1024 && ((s.n t).entry? x.name).isNone then none
  else match s.makeRoom t x.bytes.length with
    | none => none
    | some s =>
      let q : Pub := ⟨x.name, v, x.bytes, x.taskId, x.who, x.frame.getD 64, x.fallthrough, x.reduction⟩
      let s := s.acceptPub t q again
      let s := if b.kind = 2 ∧ b.wb ∧ !x.fallthrough then s.writeBack t b q else s
      some (s.ackPub t x)

/-- A publish waits for late-cache space at a home's ingress: no name data passes it (R86). -/
def NDom.dataStalled (n : NDom) : Bool := n.ingress.any fun m => match m.body with | .name .publish _ | .name .piece _ => true | _ => false

/-- A publish of a tensor that is not bound: dropped, acknowledged as a duplicate is (log 23: DEDUCED, unsafe), and counted, with a record that names its sender as it stands or, once its frame has
ended, as of its last activation (R350, R381); a device's has none. -/
def State.unboundPub (s : State) (t : Nat) (x : NameMsg) : State :=
  let i : FaultInfo := { cause := .namecfg, cw2 := x.name.hi, cw3 := x.name.lo x.ver }
  let who : Nat × BitVec 32 := match x.who with | .tile u => (u, x.taskId) | _ => (t, 0xFFFFFFFF)
  if x.device then s else ((s.countT t 2 1).pathRecord (.tile t) (s.partOf t) who.1 (x.frame.getD 64) who.2 i).ackPub t x

/-- PUBLISH_AT_HOME (R83, R84): a publish reaches its home. One that waits for space stays at the ingress, where it stalls the
name data class (R86); a trace record is then dropped and counted (R418). -/
def execPublishAtHome (m : Nat) (s : State) : Host.Outcome State Fault Refusal :=
  match s.net[m]? with
  | some ⟨src, .tile t, cls, .name .publish x, bi, sm⟩ =>
    if !s.arrivable m || (s.n t).dataStalled || !s.inOrder t (NameOp.rank .publish (s.ingress t ⟨src, .tile t, cls, .name .publish x, bi, sm⟩)) then .next s
    else
      let id := match x.who with | .tile _ => x.taskId | _ => 0xFFFFFFFF
      if (s.n t).seen x then .next ((s.takeMsg m).ackAgain t .publish x) else
      match (s.part (s.partOf t)).binding x.name.ns x.name.tensor with
      | none => .next ((s.takeMsg m).unboundPub t x)
      | some b =>
        if !s.claimFree t x b then
          let i : FaultInfo := { cause := .namecfg, cw1 := 7, cw2 := x.name.hi, cw3 := x.name.lo x.ver }
          .next (match x.who with
            | .tile u => (s.takeMsg m).remoteFault (.tile t) u (x.frame.getD 64) x.taskId i
            | _ => (s.takeMsg m).publishRecord (.tile t) (s.partOf t) faultTensor id false (recordWords s.tick i.cause.code 1 0 0 8 0 0 0 0 id 0 0 0 i))
        else match (s.takeMsg m).takePub t x b with
          | some s' => .next s'
          | none => .next (if x.trace then (s.takeMsg m).countT t 13 1
              else (s.takeMsg m).modN t fun n => { n with ingress := n.ingress ++ [⟨src, .tile t, cls, .name .publish x, bi, sm⟩] })
  | _ => .next s

end Sys2Proof.Machine
end

