-- ==== Sys2Proof/Machine/Reduce.lean ====
section
/-! DEFINITION. In-network reduction (R92, R93, R315, R318), fetches (R87, R123), the answers to registrations (R78), requests of
unicast streams (R88, R90) and messages that waited for the directory (R81). -/

namespace Sys2Proof.Machine

/-! ### The reduction stage (R93) -/

/-- Bytes of a partial's element and of the result's (R92, R93, R315). -/
def partElem (mode : BitVec 2) : Nat := if mode = 1 then 2 else 4
def accElem (mode : BitVec 2) : Nat := if mode = 2 then 8 else 4

/-- The 48-bit number n sign-extended to 64 bits. -/
def ext48 (n : Nat) : Nat := ((BitVec.ofNat 48 n).signExtend 64).toNat

/-- Widen of one element (R93). -/
def widen (mode : BitVec 2) (x : Nat) : Nat :=
  match mode with
  | 0 => x
  | 1 => x * 65536
  | _ => ((BitVec.ofNat 32 x).signExtend 64).toNat

/-- AddInMode of two elements (R93). -/
def addInMode (mode : BitVec 2) (a b : Nat) : Nat := if mode = 2 then ext48 (a + b) else (fadd Fmt.f32 a b).1

/-- Elements of a byte list. -/
def elemsOf (l : List Byte) (n : Nat) : List Nat := (List.range (l.length / n)).map fun k => fromBytes ((l.drop (n * k)).take n)

/-- A partial as the accumulator's elements. -/
def widened (mode : BitVec 2) (part : List Byte) : List Nat := (elemsOf part (partElem mode)).map (widen mode)

def accBytes (mode : BitVec 2) (l : List Nat) : List Byte := l.flatMap fun x => toBytes x (accElem mode)

/-- The accumulator after the next partial. -/
def Red.add (r : Red) (part : List Byte) : Red :=
  let w := widened r.mode part
  let acc := if r.next = 0 then w
    else (elemsOf r.acc (accElem r.mode)).zipWith (addInMode r.mode) w
  { r with acc := accBytes r.mode acc, next := r.next + 1 }

/-- Held partials that are next are added in order. -/
def Red.drain (r : Red) : Nat → Red
  | 0 => r
  | fuel + 1 =>
    match r.heldParts.find? fun h => h.1 == r.next with
    | some h => Red.drain ({ r with heldParts := r.heldParts.filter fun (k : Nat × List Byte) => k.1 != h.1 }.add h.2) fuel
    | none => r

/-! ### COLL (R92, R318) -/

/-- The reduction of a version. -/
def NameEntry.red? (e : NameEntry) (v : BitVec 16) : Option Red := e.reds.find? fun r => r.ver == v

def NDom.red? (n : NDom) (x : TileName) (v : BitVec 16) : Option Red := (n.entry? x).bind (·.red? v)

/-- Reductions of a home. -/
def NDom.redCount (n : NDom) : Nat := n.names.foldl (fun m e => m + e.reds.length) 0

/-- A name message is acknowledged to its sender. -/
def State.ackName (s : State) (t : Nat) (x : NameMsg) : State := s.post (.tile t) x.who .reply (.name .ack { x with bytes := [] })

/-- A reduction whose registration does not fit what the home holds (R318): the frame aborts, or a record names its task. -/
def State.collRefused (s : State) (t : Nat) (x : NameMsg) (cw1 : W64) : State :=
  let i : FaultInfo := { cause := .namecfg, cw1 := cw1, cw2 := x.name.hi, cw3 := x.name.lo x.ver }
  match x.who with
  | .tile u => s.remoteFault (.tile t) u (x.frame.getD 64) x.taskId i
  | _ => s.pathRecord (.tile t) (s.partOf t) t 64 x.taskId i

/-- A COLL at its home; none where it waits for a name entry, for one of 16 reductions or for late-cache space, for which it evicts
versions as a publish does (log 59: DESIGN CHOICE, unsafe). That of a tensor no longer bound is refused (R350), and one for a version that was
never accepted and is older than the window of R84 as well (log 120: DESIGN CHOICE, unsafe). -/
def State.takeColl (s : State) (t : Nat) (x : NameMsg) : Option State :=
  match (s.part (s.partOf t)).binding x.name.ns x.name.tensor, (s.n t).red? x.name x.ver with
  | none, _ => some (s.collRefused t x 0)
  | some b, some r => some (if r.n = x.index ∧ r.mode = x.mode ∧ r.size = partialBytes b x.mode then s.ackName t x else s.collRefused t x 6)
  | some b, none =>
    let size := partialBytes b x.mode
    let e := ((s.n t).entry? x.name).getD (freshEntry x.name s.quartz)
    if !e.fresh x.ver then some (s.collRefused t x 6)
    else if (s.n t).redCount ≥ 16 || ((s.n t).names.length ≥ 1024 && ((s.n t).entry? x.name).isNone) then none
    else
      let r : Red := { ver := x.ver, n := x.index, mode := x.mode, size := size, next := 0, acc := [], heldParts := [] }
      match s.makeRoom t (r.resultBytes + r.size) with
      | none => none
      | some s => some ((s.atEntry t x.name fun e => { e with reds := e.reds ++ [r] }).ackName t x)

/-- COLL_AT_HOME (R92, R318). -/
def execCollAtHome (m : Nat) (s : State) : Host.Outcome State Fault Refusal :=
  match s.nameMsg m (fun op => op == .coll) false with
  | none => .next s
  | some (t, op, x) => if (s.n t).seen x then .next ((s.takeMsg m).ackAgain t op x) else match (s.takeMsg m).takeColl t x with
    | some s' => .next s'
    | none => .next ((s.takeMsg m).modN t fun n => { n with ingress := n.ingress ++ (s.net[m]?).toList })

/-! ### Partials (R92) -/

/-- A partial is refused: its sender keeps it for a retry, the home itself one that a span agent forwarded (log 67: DESIGN CHOICE, safe). -/
def State.refusePart (s : State) (t : Nat) (msg : Msg) (x : NameMsg) : State :=
  s.modN (match x.who with | .tile u => u | _ => t) fun n =>
    { n with retries := n.retries ++ [⟨msg, if x.late then x.tick.toNat else s.quartz, s.quartz⟩] }

/-- A partial that does not fit its registration, or never finds one, is dropped; a record names its sender. -/
def State.dropPart (s : State) (src t : Nat) (x : NameMsg) (cw1 : W64) : State :=
  let i : FaultInfo := { cause := .namecfg, cw1 := cw1, cw2 := x.name.hi, cw3 := x.name.lo x.ver }
  let u := match x.who with | .tile u => u | _ => t
  (s.pathRecord (.tile src) (s.partOf t) u (x.frame.getD 64) x.taskId i).ackName t x

/-- A reduction changed. -/
def State.modRed (s : State) (t : Nat) (x : NameMsg) (g : Red → Red) : State :=
  s.atEntry t x.name fun e => { e with reds := e.reds.map fun r => if r.ver = x.ver then g r else r }

/-- A partial is added, with those held that follow it; the last one publishes the result, which its home accepts (R93). -/
def State.addPart (s : State) (t : Nat) (x : NameMsg) (b : Binding) : State :=
  let s := (s.modRed t x fun r => (r.add x.bytes).drain r.heldParts.length).ackName t x
  match (s.n t).red? x.name x.ver with
  | none => s
  | some r =>
    if r.next < r.n then s
    else
      let s := s.atEntry t x.name fun e => { e with reds := e.reds.filter fun q => q.ver != x.ver }
      let y : NameMsg := { name := x.name, ver := x.ver, who := .tile t, taskId := 0xFFFFFFFF, bytes := r.acc, reduction := true, tick := s.tick }
      (s.takePub t y b).getD s

/-- A partial at its home (R92): without a registration of the result it is refused, also where it was added to a reduction that has since
been completed (log 100: DESIGN CHOICE, unsafe). -/
def State.takePart (s : State) (t : Nat) (msg : Msg) (x : NameMsg) (b : Binding) : State :=
  match (s.n t).red? x.name x.ver with
  | none => s.refusePart t msg x
  | some r =>
    if x.index ≥ r.n ∨ x.mode ≠ r.mode ∨ x.bytes.length ≠ r.size then s.dropPart t t x 6
    else if x.index < r.next ∨ r.heldParts.any fun h => h.1 == x.index then (s.countT t 2 1).ackName t x
    else if x.index = r.next then s.addPart t x b
    else match s.makeRoom t x.bytes.length with
      | some s => (s.modRed t x fun r => { r with heldParts := r.heldParts ++ [(x.index, x.bytes)] }).ackName t x
      | none => s.refusePart t msg x

/-- PARTIAL_AT_HOME (R92); for a tensor that is no longer bound the partial is dropped and counted, with a record (R350). -/
def execPartialAtHome (m : Nat) (s : State) : Host.Outcome State Fault Refusal :=
  match s.net[m]? with
  | some ⟨src, .tile t, cls, .name .piece x, b, sm⟩ =>
    let msg : Msg := ⟨src, .tile t, cls, .name .piece x, b, sm⟩
    if !s.arrivable m || (s.n t).dataStalled || !s.inOrder t (NameOp.rank .piece (s.ingress t msg)) then .next s
    else if (s.n t).seen x then .next ((s.takeMsg m).ackAgain t .piece x)
    else match (s.part (s.partOf t)).binding x.name.ns x.name.tensor with
      | none => .next (((s.takeMsg m).countT t 2 1).dropPart t t x 0)
      | some b => .next ((s.takeMsg m).takePart t msg x b)
  | _ => .next s

/-- A partial refused first at a tick, as its sender injects it again. -/
def NameMsg.again (x : NameMsg) (first : Nat) : NameMsg := { x with late := true, tick := w64 first, hops := 0, trail := none }

/-- PARTIAL_RETRY (R92): 256 ticks after its refusal a partial is sent again, injected anew (R423). -/
def execPartialRetry (t i : Nat) (s : State) : Host.Outcome State Fault Refusal :=
  onTile t s fun s =>
    match (s.n t).retries[i]? with
    | none => s
    | some r =>
      if s.quartz < r.last + 256 then s
      else match r.msg.body with
        | .name op x =>
          (s.modN t fun n => { n with retries := n.retries.eraseIdx i }).send { r.msg with body := .name op (x.again r.first) }
        | _ => s

/-- PARTIAL_UNREGISTERED_DROP (R92): 65,536 ticks without a registration; the partial is dropped with a record. -/
def execPartialUnregisteredDrop (t i : Nat) (s : State) : Host.Outcome State Fault Refusal :=
  onTile t s fun s =>
    match (s.n t).retries[i]? with
    | none => s
    | some r =>
      match r.msg.dst, r.msg.body with
      | .tile h, .name _ x =>
        if s.quartz < r.first + 65536 ∨ ((s.n h).red? x.name x.ver).isSome then s
        else (s.modN t fun n => { n with retries := n.retries.eraseIdx i }).dropPart t h x 6
      | _, _ => s

/-! ### Fetches (R87, R123) -/

/-- A fetch that came to the agent of a stack which a start has excluded since passes to the next agent, where one is left (R87, R400). -/
def State.fetchElsewhere (s : State) (t : Nat) (x : NameMsg) : State :=
  if (s.rim (s.nearestRim t)).excluded then s else s.post (.tile t) (.rim (s.nearestRim t)) .request (.name .fetch x)

/-- FETCH_AT_RIM (R87 step 3): the agent asks the home of each line for the tile's bytes; that of an excluded stack serves no
fall-through (R400). -/
def execFetchAtRim (m : Nat) (s : State) : Host.Outcome State Fault Refusal :=
  match s.net[m]? with
  | some ⟨.tile t, .rim a, _, .name .fetch x, _, _⟩ =>
    if !s.arrivable m then .next s
    else
      let s := s.dropMsg m
      let p := s.partOf t
      if (s.rim a).excluded then .next (s.fetchElsewhere t x) else
      let pieces := match (s.part p).binding x.name.ns x.name.tensor with | some b => tilePieces b x.name | none => []
      let id := (s.rim a).nextFetch
      let s := s.modRim a fun r => { r with nextFetch := id + 1, fetches := r.fetches ++ [⟨id, x, p, t, [], pieces.length, none⟩] }
      .next ((List.range pieces.length).foldl (fun s k => match pieces[k]? with
        | some (va, _, n) => s.post (.rim a) (.tile (s.lineHome p va)) .request
            (.home { op := .load, part := s.space p, fsh := false, addr := va, size := n, sender := .rim a, frame := x.frame.getD 64,
                     taskId := x.taskId, ret := .fetch id k })
        | none => s) s)
  | _ => .next s

/-- The fault of a failed fetch, from what its home reported. -/
def State.fetchInfo (s : State) (p : Nat) (v : W64) : FaultInfo :=
  let q := hostRefusal v
  if q.1 = Cause.xlate.code then xlateInfo (s.space p) 0 q.2.2 q.2.1 (BitVec.ofNat 32 (bits v 63 32)) else protInfo (s.space p) 0 q.2.2 1

/-- A fetch ends without data: each subscriber that waits for it fails, once for each task (R123). -/
def State.fetchFails (s : State) (f : Fetch) (v : W64) : State :=
  match (s.n f.home).entry? f.msg.name with
  | none => s
  | some e =>
    let waiting := (e.subs.filter fun r => r.awaits f.msg.ver).map (·.reg)
    let first (r : NameMsg) : Bool := (waiting.find? fun q => q.who == r.who && q.taskId == r.taskId && (q.slot == codeSlot) == (r.slot == codeSlot)) == some r
    let clear (r : SubRec) : SubRec := if r.awaits f.msg.ver then { r with served := true, wants := r.wants.filter (· != f.msg.ver) } else r
    let s := s.modN f.home fun n => n.modEntry f.msg.name fun e =>
      { e with fetching := e.fetching.filter (· != f.msg.ver), subs := e.subs.map clear }
    (waiting.filter first).foldl (fun s r => s.failSub f.home r (s.fetchInfo f.part v)) s

/-- FETCH_PUBLISH (R87 step 4): every byte of fetch i has been read, and the agent publishes the tile; or a piece has failed, and the fetch
ends (R123); or its stack has been excluded since, and the fetch passes to the next agent (R400). -/
def execFetchPublish (agent i : Nat) (s : State) : Host.Outcome State Fault Refusal :=
  if agent ≥ Config.numRims then .fault .noSuchUnit
  else match (s.rim agent).fetches[i]? with
    | none => .next s
    | some f =>
      if f.left ≠ 0 ∧ f.failed.isNone ∧ (s.rim agent).excluded = false then .next s
      else
        let s := s.modRim agent fun r => { r with fetches := r.fetches.eraseIdx i }
        if (s.rim agent).excluded then .next (s.fetchElsewhere f.home f.msg) else
        match f.failed with
        | some v => .next (s.fetchFails f v)
        | none => .next (s.post (.rim agent) (.tile f.home) .nameData
            (.name .publish { name := f.msg.name, ver := f.msg.ver, who := .rim agent, taskId := f.msg.taskId, fallthrough := true,
                              bytes := f.data.flatMap (·.2), tick := s.tick }))

/-! ### Answers to registrations (R78, R88, R311) -/

/-- A section learns the version its NEXT subscription resolved to: it keeps a provisional copy of that version only. -/
def Section.resolve (q : Section) (v : BitVec 16) : Section :=
  if q.filled ∧ q.ver ≠ some v then { q with resolved := some v, ver := none, filled := false } else { q with resolved := some v }

/-- The sections of a NEXT subscription that hold no copy of a resolved version take the version that a reply names: after a move, that
of the registration from the new tile (R78, R393). -/
def Slot.resolve (x : Slot) (n : TileName) (v : BitVec 16) : Slot :=
  match x.sub with
  | some q => if q.kind = .stream ∨ !q.next then x
    else { x with sections := x.sections.map fun y => if y.name = n ∧ !(y.filled && y.resolved.isSome) then y.resolve v else y }
  | none => x

/-- The provisional copies of a slot that an answer drops, being of another version than it names. -/
def Slot.emptied (x : Slot) (n : TileName) (v : BitVec 16) : Nat :=
  ((x.sections.zip (x.resolve n v).sections).filter fun e => e.1.filled && !e.2.filled).length

/-- The answer reaches the slot of the subscriber, or its place in a parked frame's image; what it drops is counted. -/
def State.resolveSlot (s : State) (t : Nat) (x : NameMsg) : State :=
  let mine (k : Nat) (q : Slot) : Bool := q.taskId == x.taskId && (if x.frame.isSome then q.subnIx == x.slot else k == x.slot)
  let dropped (c : CDom) : Nat := c.slots.foldl (fun n e => if mine e.1 e.2 then n + e.2.emptied x.name x.ver else n) 0
  let s := s.countT t 2 (dropped (s.c t) + (s.tile t).slate.images.foldl (fun n i => n + dropped i.dom) 0)
  let fix (c : CDom) : CDom := c.slots.foldl (fun c e => if mine e.1 e.2 then c.modSlot e.1 (·.resolve x.name x.ver) else c) c
  let s := s.modC t fix
  let image (i : Image) : Image := { i with dom := fix i.dom }
  let s := s.modSlate t fun l => { l with images := l.images.map image }
  ((s.c t).slots.filter fun e => mine e.1 e.2).foldl (fun s e => s.checkFull t e.1) s

/-- One registration of a subscription is answered: the DONE of SUBN and SOPEN, or a task's count (R22, R311). -/
def State.regDone (s : State) (t : Nat) (x : NameMsg) : State :=
  match x.frame with
  | some _ => s.answered t x.origin .order x.src
  | none =>
    if x.slot = codeSlot then
      let waits (q : Placed) : Bool := q.codeReg && q.task.codeSub.name == x.name && nameVer q.task.codelo == x.ver
      s.modC t fun c => c.mapPlaced fun q => if waits q then { q with acks := q.acks - 1, codeReg := false } else q
    else s.modC t fun c => c.modPlaced x.taskId fun q => { q with acks := q.acks - 1 }

/-- A stream that its home had passed already goes over to unicast requests: that of a live frame now, that of a parked one at its
restore (R88, R90). -/
def State.catchUp (s : State) (t : Nat) (x : NameMsg) : State :=
  let hit (id : BitVec 32) (y : Stream) : Bool := id == x.taskId && y.base == x.slot && y.name == x.name && !y.detached
  let late (i : Image) : Image :=
    { i with fr := { i.fr with streams := i.fr.streams.map fun y => if hit i.fr.task.taskId y then { y with cut := true } else y } }
  let s := s.modSlate t fun l => { l with images := l.images.map late }
  (s.c t).frames.foldl (fun s e =>
    if e.2.st = .free then s else (e.2.streams.filter (hit e.2.task.taskId)).foldl (fun s y => s.detachStream t e.1 y) s) s

/-- The answer to a registration at its subscriber: the resolved version reaches its section; a stream that its home had passed
already goes over to unicast requests. -/
def State.takeRegReply (s : State) (t : Nat) (x : NameMsg) : State :=
  let s := if x.stream then if x.late then s.catchUp t x else s else s.resolveSlot t x
  if x.completion then s.regDone t x else s

/-- REGISTRATION_REPLY (R78, R88). -/
def execRegistrationReply (m : Nat) (s : State) : Host.Outcome State Fault Refusal :=
  match s.net[m]? with
  | some ⟨_, .gateway _, _, .name .regReply _, _, _⟩ =>
    if !s.arrivable m then .next s
    else .next (s.dropMsg m)
  | _ => match s.answerMsg m fun op => op == .regReply with
    | none => .next s
    | some (t, _, x, s) => .next (s.takeRegReply t x)

/-! ### Requests of unicast streams (R88, R90) -/

/-- UNICAST_REREQUEST (R90): a detached or catching-up stream asks its home for one element; it is served by R85. -/
def execUnicastRerequest (m : Nat) (s : State) : Host.Outcome State Fault Refusal :=
  match s.nameMsg m (fun op => op == .rerequest) false with
  | none => .next s
  | some (t, _, x) =>
    match ((s.n t).entry? x.name).bind fun e => e.subs.find? fun r => sameSub r.reg x with
    | some r =>
      let s := (s.takeMsg m).modSub t x.name r fun q => { q with detached := true, wants := q.wants ++ [x.ver] }
      .next (s.serveSub t x.name r x.ver)
    | none =>
      let coming := (s.net ++ (s.n t).ingress).any fun y => match y.body with
        | .name .reg z => sameSub z x
        | _ => false
      .next (if coming then s else s.takeMsg m)

/-! ### Messages that waited for the directory (R81, R92) -/

/-- A message that waits at the ingress is taken, where there is room for it now. -/
def State.takeIngress (s : State) (t : Nat) (op : NameOp) (x : NameMsg) : Option State :=
  let need : Nat × Nat := match op with
    | .reg | .rearm => (s.n t).needs (s.covered? (s.partOf t) x) x
    | _ => if ((s.n t).entry? x.name).isSome then (0, 0) else (1, 0)
  if !(s.n t).admits need then none
  else match op with
    | .reg | .rearm => some (s.takeReg t x)
    | .claim => some (s.takeClaimAt t x)
    | .retain => some (s.takeRetain t x)
    | .coll => s.takeColl t x
    | .publish => (match (s.part (s.partOf t)).binding x.name.ns x.name.tensor with
      | some b => s.takePub t x b
      | none => some (s.unboundPub t x))
    | _ => some s

/-- DIRECTORY_INGRESS_RETRY (R81, R92): message i of a home's ingress is tried again. -/
def execDirectoryIngressRetry (t i : Nat) (s : State) : Host.Outcome State Fault Refusal :=
  onTile t s fun s =>
    match (s.n t).ingress[i]? with
    | none => s
    | some msg =>
      match msg.body with
      | .name op x =>
        ((s.modN t fun n => { n with ingress := n.ingress.eraseIdx i }).takeIngress t op x).getD s
      | _ => s

end Sys2Proof.Machine
end

