-- ==== Sys2Proof/Machine/Park.lean ====
section
/-! DEFINITION. What a tile holds for its frames: taken apart for the images of parked frames (R389, R390) and put together again at
restore (R393). -/

namespace Sys2Proof.Machine

/-! ### Part of a compute domain -/

/-- What a compute domain holds for the frames that satisfy p; `rest` keeps what belongs to no frame. -/
def CDom.select (c : CDom) (p : Nat → Bool) (rest : Bool) : CDom :=
  let own (f : Option Nat) : Bool := match f with | some f => p f | none => rest
  { c with
    frames := c.frames.keep fun f _ => p f
    insts := c.insts.keep fun _ i => p i.frame
    toks := c.toks.filter fun k => p k.frame
    sets := c.sets.filter fun x => p x.frame
    arrivals := c.arrivals.filter fun k => p k.frame
    holding := c.holding.filter fun k => p k.frame
    issued := c.issued.filter fun x => p x.set.frame
    loops := c.loops.keep fun _ l => p l.frame
    calls := c.calls.keep fun _ l => p l.frame
    pendCommit := c.pendCommit.filter fun e => match c.insts.get? e with | some i => p i.frame | none => false
    trapEntries := c.trapEntries.filter p
    slots := c.slots.keep fun _ x => own x.frame
    accs := c.accs.keep fun _ x => own x.frame
    ags := c.ags.keep fun _ x => p x.frame
    copies := c.copies.filter fun x => p x.frame
    stash := c.stash.filter fun x => p x.frame
    rxAsked := c.rxAsked.filter fun x => p x.1
    pend := c.pend.filter fun x => p x.frame
    outq := c.outq.filter fun x => p x.frame
    awaited := c.awaited.keep fun _ e => own (e.2.map (·.frame))
    placed := if rest then c.placed else []
    codes := if rest then c.codes else []
    sups := if rest then c.sups else []
    array := match c.array with
      | .firing k a b d u x y => if own (c.accs.getD k {}).frame then .firing k a b d u x y else .idle
      | .idle => .idle }

/-! ### Parking (R389, R390) -/

/-- The stash of every drained frame is flushed and invalidated (R389 step 5). -/
def State.flushParked (s : State) (t : Nat) : State :=
  (((s.c t).framesThat (s.c t).drained).flatMap fun f => (s.c t).stash.filter fun l => l.frame == f && !l.hasP).foldl
    (fun s l => s.evictLine t l) s

/-- The image of a frame (R390). -/
def CDom.image (c : CDom) (f : Nat) : Image :=
  let fr := c.frame f
  let areas := c.frameAreas f
  let code := (c.codeOf fr.task).toList
  { num := f, fr := { fr with park := .none, fsWas := [] }, why := fr.parkWhy, asked := false,
    dom := { c.select (· == f) false with areas := areas, codes := code, scratch := c.scratch.within areas, due := [] } }

/-- A tile without a frame, whose number and areas are free again. -/
def CDom.withoutFrame (c : CDom) (f : Nat) : CDom :=
  let fr := c.frame f
  let own := [(fr.privBase, fr.task.privkb * 1024), (fr.scrBase, fr.task.scrkb * 1024), (fr.stashBase, fr.task.stashu * 65536)] ++
    (c.slots.filter fun e => e.2.frame == some f && e.2.byTask).map fun e => (e.2.base, e.2.size)
  let c := (c.frameLates f).foldl (fun (c : CDom) l => c.subDue l.inst 1) c
  own.foldl (fun c a => c.freeArea a.1 a.2) (c.select (· != f) true)

/-- A frame becomes PARKED: its image is complete (R389 step 6, counted); one parked for heat that has passed is to be
restored at once (R416). -/
def State.parkFrame (s : State) (t f : Nat) : State :=
  let y := (s.c t).image f
  let x := { y with asked := decide (y.why = 4 ∧ (s.hub (fieldOf t)).crit.isNone) }
  let s := s.modC t fun c => c.withoutFrame f
  let s := s.modSlate t fun l => { l with images := l.images ++ [x], snap := l.snap.map fun c => c.withoutFrame f }
  ((s.releaseCode t x.fr.task).countT t 20 1).latchSups (SupWait.parkedAt t x.fr.task.taskId)

/-! ### Restore (R393) -/

/-- A context in a tile whose loops and calls are numbered from n on. -/
def Ctx.shift (n : Nat) : Ctx → Ctx
  | .root => .root
  | .iter l k => .iter (l + n) k
  | .call id => .call (id + n)

def Late.into (f n : Nat) (l : Late) : Late := { l with frame := f, ctx := l.ctx.shift n }

/-- What an image holds, under a frame number and with its loops and calls numbered from n on. -/
def CDom.into (c : CDom) (f n : Nat) : CDom :=
  let late (l : Option Late) : Option Late := l.map (Late.into f n)
  { c with
    insts := c.insts.map fun e => (e.1, { e.2 with frame := f, ctx := e.2.ctx.shift n })
    toks := c.toks.map fun k => { k with frame := f }
    sets := c.sets.map fun x => { x with frame := f }
    holding := c.holding.map fun k => { k with frame := f }
    loops := c.loops.map fun e => (e.1 + n, { e.2 with frame := f, ctx := e.2.ctx.shift n })
    calls := c.calls.map fun e => (e.1 + n, { e.2 with frame := f, ctx := e.2.ctx.shift n })
    trapEntries := c.trapEntries.map fun _ => f
    slots := c.slots.map fun e => (e.1, { e.2 with frame := some f })
    accs := c.accs.map fun e => (e.1, { e.2 with frame := some f })
    ags := c.ags.map fun e => (e.1, { e.2 with frame := f })
    pend := c.pend.map fun q => { q with frame := f, done := late q.done, val := late q.val } }

/-- The frame number of an image at restore (R393 step 2). -/
def CDom.restoreNum (c : CDom) (x : Image) : Option Nat :=
  if (c.frame x.num).st = .free then some x.num else (List.range 63).find? fun f => (c.frame f).st == .free

/-- Pairs of an old and a new number for the physical units of an image: the old one where it is free, else the lowest free one. -/
def renumber (mine : List Nat) (taken : Nat → Bool) (n : Nat) : Option (List (Nat × Nat)) :=
  mine.foldl (fun (r : Option (List (Nat × Nat))) e => r.bind fun l =>
    let free (k : Nat) : Bool := !taken k && !l.any fun y => y.2 == k
    let later (k : Nat) : Bool := k == e || !mine.contains k
    if free e then some (l ++ [(e, e)])
    else ((List.range n).find? fun k => free k && later k).map fun k => l ++ [(e, k)]) (some [])

/-- The physical units of a kind that an image holds or has reserved (R272, R289, R329). -/
def Image.units {α : Type} (x : Image) (own : AMap α) (p : Eff → Bool) : List Nat :=
  (own.map (·.1) ++ (x.dom.effects.filter p).map (·.base)).eraseDups

/-- The new number of an old one. -/
def newNum (l : List (Nat × Nat)) (k : Nat) : Nat := match l.find? fun e => e.1 == k with | some e => e.2 | none => k

/-- The instance-table entries of an image are free on a tile, with no token due (R49, R71). -/
def CDom.entriesFree (c : CDom) (x : Image) : Bool :=
  x.dom.insts.all fun e => !c.insts.has e.1 && c.dueOf (instNum e.1 e.2.gen) == 0

/-- Where an image would stand on a tile: its frame, the moves of its areas (old base, size, new base), the areas then taken and the
numbers of its slots, accumulators and generators. -/
structure Seat where
  frame : Nat
  code : Option (Nat × Nat × Nat)
  moves : List (Nat × Nat × Nat)
  areas : List (Nat × Nat)
  slots : List (Nat × Nat)
  accs : List (Nat × Nat)
  ags : List (Nat × Nat)
  deriving DecidableEq, Repr

/-- A seat for an image, where there is one (R21, R393 step 1). -/
def CDom.seat (c : CDom) (x : Image) : Option Seat :=
  let resident := match c.codeOf x.fr.task with | some y => y.resident | none => false
  let own := if resident then x.dom.areas.drop x.dom.codes.length else x.dom.areas
  match c.restoreNum x, areasPlace c.areas (own.map (·.2)), renumber (x.units x.dom.slots isTalloc) c.slotTaken 256,
      renumber (x.units x.dom.accs isMcfg) c.accTaken 8, renumber (x.units x.dom.ags isAgcfg) c.agTaken 8 with
  | some f, some (bs, areas), some slots, some accs, some ags =>
    let moves := (List.range own.length).map fun k => ((own.getD k (0, 0)).1, (own.getD k (0, 0)).2, bs.getD k 0)
    if c.entriesFree x then
      some ⟨f, if resident then none else moves.head?, if resident then moves else moves.drop x.dom.codes.length, areas, slots, accs, ags⟩
    else none
  | _, _, _, _, _ => none

/-- The new place of an address of an image. -/
def movedTo (l : List (Nat × Nat × Nat)) (a : Nat) : Nat :=
  match l.find? fun m => decide (m.1 ≤ a) && decide (a < m.1 + m.2.1) with
  | some m => m.2.2 + (a - m.1)
  | none => a

/-- A buffered effect names its physical unit by its new number (R293). -/
def Seat.eff (q : Seat) (e : Eff) : Eff :=
  match e.op with
  | .mcfg _ | .msrca _ | .msrcb _ | .marm _ | .mdisarm _ | .mzero _ | .mloadc _ | .mdrain _ | .mscale _ => { e with base := newNum q.accs e.base }
  | .tslotAlloc | .tslotFree | .tsetEmpty | .tsetFull | .tsetRow | .tsetRowfull => { e with base := newNum q.slots e.base }
  | .agcfg _ => { e with base := newNum q.ags e.base }
  | _ => e

/-- A tile with an image seated on it: the frame is as it was when it was parked. -/
def CDom.seated (c : CDom) (x : Image) (q : Seat) : CDom :=
  let moves := q.code.toList ++ q.moves
  let d := x.dom.into q.frame c.nextId
  let base := match q.code, c.codeOf x.fr.task with
    | some m, _ => m.2.2
    | none, some y => y.base
    | none, none => x.fr.codeBase
  let stream (y : Stream) : Stream := { y with keptSlots := y.keptSlots.map fun e => (e.1, e.2.map (Late.into q.frame c.nextId)) }
  let tag := (x.fr.traptag &&& ~~~(w64 (63 * 2 ^ 26))) ||| w64 (q.frame % 64 * 2 ^ 26)
  let fr : Frame := { x.fr with
    traptag := if x.fr.st = .trapped ∨ x.fr.traptag ≠ 0 then tag else x.fr.traptag
    slots := x.fr.slots.mapVal (newNum q.slots), accs := x.fr.accs.mapVal (newNum q.accs), ags := x.fr.ags.mapVal (newNum q.ags)
    codeBase := base, privBase := movedTo (q.moves.take 1) x.fr.privBase, scrBase := movedTo ((q.moves.drop 1).take 1) x.fr.scrBase
    stashBase := movedTo ((q.moves.drop 2).take 1) x.fr.stashBase, streams := x.fr.streams.map stream }
  let scratch := moves.foldl (fun m a => Memory.writeBytes m a.2.2 (x.dom.scratch.readBytes a.1 a.2.1)) c.scratch
  let slots := d.slots.foldl (fun (m : AMap Slot) (e : Nat × Slot) => m.set (newNum q.slots e.1) { e.2 with base := movedTo q.moves e.2.base, usedBy := e.2.usedBy.map (newNum q.accs) }) c.slots
  let lates : List Late := fr.streams.flatMap fun y => y.keptSlots.filterMap (·.2)
  let code : List CodeCopy := match q.code with
    | some m => x.dom.codes.map fun y => { y with base := m.2.2 }
    | none => []
  let c : CDom := { c with
    scratch := scratch, areas := q.areas, frames := c.frames.set q.frame fr, slots := slots
    insts := d.insts.foldl (fun (m : AMap Inst) (e : Nat × Inst) => m.set e.1 { e.2 with effs := e.2.effs.map q.eff }) c.insts
    gens := d.insts.foldl (fun (m : AMap Nat) (e : Nat × Inst) => m.set e.1 e.2.gen) c.gens
    toks := c.toks ++ d.toks, sets := c.sets ++ d.sets, holding := c.holding ++ d.holding
    loops := d.loops.foldl (fun (m : AMap Loop) (e : Nat × Loop) => m.set e.1 e.2) c.loops
    calls := d.calls.foldl (fun (m : AMap Call) (e : Nat × Call) => m.set e.1 e.2) c.calls
    pendCommit := c.pendCommit ++ d.pendCommit, trapEntries := c.trapEntries ++ d.trapEntries
    accs := d.accs.foldl (fun (m : AMap Acc) (e : Nat × Acc) => m.set (newNum q.accs e.1) e.2) c.accs
    ags := d.ags.foldl (fun (m : AMap AgUnit) (e : Nat × AgUnit) => m.set (newNum q.ags e.1) e.2) c.ags
    pend := c.pend ++ d.pend, codes := c.codes ++ code, nextId := c.nextId + d.nextId }
  lates.foldl (fun (c : CDom) l => c.addDue l.inst 1) c

end Sys2Proof.Machine
end

