-- ==== Sys2Proof/Machine/Persist.lean ====
section
/-! DEFINITION. Persistence (R143 to R152): epochs and the durable point, the order of a replay, commits, the loss of a tile's
C domain, its revival (R394 to R398). -/

namespace Sys2Proof.Machine

/-! ### Slots of sectors (R143) -/

/-- The slots of a sector after a write: the slot that holds the newest state at or below D is kept (R143). -/
def writeSlot (q : Option Nat × Option Nat) (d : Nat) (v : Option Nat) : Option Nat × Option Nat :=
  let rank (x : Option Nat) : Nat := match x with | some n => if n ≤ d then n + 1 else 0 | none => 0
  if rank q.1 > rank q.2 then (q.1, v) else (v, q.2)

def Slate.slot (l : Slate) (k : Nat) : Option Nat × Option Nat := l.sectors.getD k (some 0, some 0)

/-- Sectors written with a sequence number, or torn. -/
def Slate.writeSectors (l : Slate) (ks : List Nat) (v : Option Nat) : Slate :=
  { l with sectors := ks.foldl (fun m k => AMap.set m k (writeSlot (l.slot k) l.d v)) l.sectors }

/-! ### Epochs (R144) -/

/-- An epoch is due: 10 µs, PERSISTLAG, a PFENCE, the inbound log, a frame to be imaged. -/
def State.epochDue (s : State) (t : Nat) : Bool :=
  let l := (s.tile t).slate
  let c := s.c t
  decide (s.quartz ≥ l.lastEpoch + 11000) ||
    (match l.oldest with | some q => decide (s.quartz ≥ q + max 2200 (min 1100000 c.lag.toNat)) | none => false) ||
    c.fence || decide (l.inBytes ≥ 229376) || !(c.framesThat c.parkReady).isEmpty

/-- The places of the inbound log that a replay is still to come to: deliveries after later commits, readings it awaits. -/
def Slate.ahead (l : Slate) : List Nat :=
  (List.range l.inlog.length).filter fun k => match l.inlog[k]? with
    | some (.delivery _ n) => decide (n > l.progress)
    | some (.reading _ _ _ _ st) => st == .awaited
    | none => false

/-- The entries of the outbound log that a replay is still to come to: those of its next commit on. -/
def Slate.outAhead (l : Slate) : List (Nat × Nat × W64) :=
  match l.replayLeft with
  | [] => []
  | e :: _ => l.outlog.filter fun x => decide (x.1 ≥ e.2)

/-- What an epoch takes of the compute domain: no latch, which lives only within its bundle instance (R269). -/
def CDom.shadowed (c : CDom) : CDom := { c with issued := c.issued.map fun x => { x with latches := [] } }

/-- PERSIST_EPOCH_START (R144): the epoch takes COMMITSEQ as its target; before it, drained frames that are to be parked flush their
stashes (R389). -/
def execPersistEpochStart (t : Nat) (s : State) : Host.Outcome State Fault Refusal :=
  onTile t s fun s =>
    let l := (s.tile t).slate
    if l.target.isSome || !(s.tile t).powered then s
    else
      let s := s.flushParked t
      if !s.epochDue t then s
      else
        let c := s.c t
        let s := s.modSlate t fun l => { l with
          target := some ⟨c.commitSeq, c.shadowed, s.n t, (l.snap.getD {}).changed c ++ (l.snapN.getD {}).changed (s.n t) ++ l.logSectors, l.inlog.length,
            l.progress, l.outlog.length, l.ahead, l.outAhead⟩
          lastEpoch := s.quartz, epochs := l.epochs + 1, oldest := none }
        s.modC t fun c => { c with fence := false }

/-- The bytes of an entry in the inbound log. -/
def LogEntry.bytes (e : LogEntry) : Nat :=
  match e with
  | .delivery m _ => (match m.body with | .name .copy x => x.logBytes | _ => 32)
  | .reading _ _ _ _ _ => 16

/-- The logs without the entries that D has passed (R148, R149). -/
def Slate.trim (l : Slate) (e : Epoch) : Slate :=
  let cut (x : LogEntry) : LogEntry := match x with | .delivery m n => .delivery m (n - e.comLen) | y => y
  let inlog := (e.stays.filterMap (l.inlog[·]?) ++ l.inlog.drop e.inLen).map cut
  let outlog := e.outStays ++ l.outlog.drop e.outLen
  { l with inlog := inlog, inBytes := (inlog.map LogEntry.bytes).foldl (· + ·) 0, commitlog := l.commitlog.drop e.comLen,
           comBase := l.comBase + e.comLen, outlog := outlog, supWaits := l.supWaits.keep fun o _ => outlog.any fun x => x.1 == o }

/-- The slate after an epoch's D record: the record that does not hold D is written. -/
def Slate.newD (l : Slate) (e : Epoch) : Slate :=
  let toOne := l.d0.isSome && decide (l.d0.getD 0 ≥ l.d1.getD 0)
  let l := l.writeSectors e.sectors (some e.seq)
  { (l.trim e) with d0 := if toOne then l.d0 else some e.seq, d1 := if toOne then some e.seq else l.d1,
                    tornRec := l.tornRec &&& (if toOne then 1 else 2), snap := some e.c, snapN := some { e.n with taken := [] }, target := none, epochsDone := l.epochs }

/-- D_RECORD_WRITTEN (R144): the durable point advances; frames whose image it completes are PARKED (R389 step 6); what waited for D
leaves (R337). -/
def execDRecordWritten (t : Nat) (s : State) : Host.Outcome State Fault Refusal :=
  onTile t s fun s =>
    match (s.tile t).slate.target with
    | none => s
    | some e =>
      let s := (s.modSlate t fun l => l.newD e).life (fieldOf t) 0 e.sectors.length
      let s := s.modN t fun n => { n with taken := n.taken.drop e.n.taken.length }
      let parked := (s.c t).framesThat fun f => (s.c t).parkReady f && e.c.parkReady f
      let s := parked.foldl (fun s f => s.parkFrame t f) s
      (s.releaseHeld t).retrySends t

/-! ### Replay (R148) -/

/-- Durable frames of a tile, by task. -/
def State.durableTask (s : State) (t : Nat) (id : BitVec 32) : Bool :=
  (s.c t).frames.any fun e => e.2.pmode && e.2.st != .free && e.2.task.taskId == id

/-- A logged delivery is applied again, to durable frames; one that the router still holds for its task is not (R148, R389). -/
def State.redeliver (s : State) (t : Nat) (m : Msg) : State :=
  match m.body, m.src with
  | .name .copy m, _ => m.parts.foldl (fun s x =>
      let ok (id : BitVec 32) : Bool := s.durableTask t id && !(s.n t).heldDeliveries.contains (id, x)
      if x.stream then (s.landStream t x ok).2 else (s.landSlots t x ok).2) s
  | .homeReply r _ v, .tile h => (match r.ret with | .pend o => s.performed t h o r v | _ => s)
  | .wbAck f va upto flush, .tile h =>
    let s := s.modC t fun c => c.performPushed f va upto h (s.tile h).slate.epochs
    let s := match flush with | some (iss, w, id) => s.modC t fun c => c.flushAcked iss w id | none => s
    s.goOn t
  | .name op x, _ => (match op with
    | .claimReply => if (s.frame t (x.frame.getD 64)).task.taskId = x.taskId then s.takeClaim t x else s
    | .ack => s.answered t x.origin .order
    | .regReply => s.takeRegReply t x
    | .taskReply => s.answered t x.oseq (.scalar (x.taskId.setWidth 64))
    | _ => s)
  | _, _ => s

/-- The deliveries that followed k commits of the log are applied, in their order. -/
def State.redeliverAt (s : State) (t k : Nat) : State :=
  ((s.tile t).slate.inlog.filterMap fun e => match e with
    | .delivery m n => if n = k then some m else none
    | .reading _ _ _ _ _ => none).foldl (fun s m => s.redeliver t m) s

/-! ### The end of a replay, and the tasks fired again (R394, R395) -/

/-- A lost task is fired again (R395): it waits on its tile with every data subscription open. The old side of a move stays as it is;
a task that finds no place returns to the field's queue. One that heat parked waits again where its field has cooled since (R416). -/
def State.refire (s : State) (t : Nat) (a : Again) : State :=
  let p := s.partOf t
  let k := { a.task with depcnt := a.task.subs.length }
  if a.st == .moving && (match a.moveTo with | some u => (s.c u).placed.any (fun q => q.task.taskId == k.taskId && q.moveTo == some t && !q.slots.isEmpty) | none => false) then
    s.modC t fun c => { c with placed := c.placed ++ [{ task := k, st := .moving, slots := [], codeSat := false, entered := s.quartz, passed := none, reserving := false, moveTo := a.moveTo, acks := 0 }] }
  else match (s.c t).layoutOf (s.part p) k with
    | some l =>
      let s := s.settle t p k l (if a.st = .moving then .moving else .waiting) a.moveTo
      (match a.st with
       | .parked why => if why = 4 ∧ (s.hub (fieldOf t)).crit.isNone then s else s.modC t fun c => c.modPlaced k.taskId fun q => { q with st := .parked why }
       | _ => s)
    | none => s.modHub (fieldOf t) fun h => { h with queue := h.queue ++ [⟨k, p, 0xFFFFFFFF, 0⟩] }

/-- A tile's replay has ended (R394): its restartable tasks are fired again, the revival record is written (R398), readings that nothing took
are no longer awaited, and a destruction may go on (R408). -/
def State.replayEnd (s : State) (t : Nat) : State :=
  let l := (s.tile t).slate
  let s := s.modSlate t fun l => { l with
    record := l.draft.set 4 s.tick, again := [], inlog := markReadings (fun r => match r with | .awaited => .dead | r => r) l.inlog }
  (l.again.foldl (fun s a => s.refire t a) s).destroyOn (s.partOf t)

/-- Logged commits that come next in a replay and whose frame does not resume, or has ended, are no longer awaited. -/
def State.skipGone (s : State) (t : Nat) : State :=
  let gone (e : Nat × Nat) : Bool := let fr := s.frame t (e.1 % 64); !(fr.pmode && (fr.st == .active || fr.st == .trapped))
  s.modSlate t fun l => let left := l.replayLeft.dropWhile gone; { l with replayLeft := left, replaying := l.replaying && !left.isEmpty }

/-- What follows a step of a tile in a replay that had come to commit k of the log: the deliveries up to the commit it has come to now are
applied, and the replay may have ended. -/
def State.replayed (s : State) (t k : Nat) : State :=
  let s := s.skipGone t
  let after := (s.tile t).slate
  let s := (List.range (after.progress - k)).foldl (fun s j => s.redeliverAt t (k + j + 1)) s
  if after.replaying then s else s.replayEnd t

/-- The frame's image is being written (R389 step 6): it commits nothing more. -/
def State.imaging (s : State) (t f : Nat) : Bool :=
  match (s.tile t).slate.target with | some e => e.c.parkReady f && (s.c t).parkReady f | none => false

/-- A commit, and what follows it in a replay. -/
def State.commitOn (s : State) (t e : Nat) : State :=
  match (s.c t).insts.get? e with
  | some i =>
    let before := (s.tile t).slate
    if s.imaging t i.frame then s
    else if before.replaying then (s.commit t e).replayed t before.progress
    else s.commit t e
  | none => s

/-- BLOCK_COMMIT (R32). -/
def execBlockCommit (t i : Nat) (s : State) : Host.Outcome State Fault Refusal := onTile t s fun s => s.commitOn t i

/-- DEFERRED_REPLACEMENT_COMMIT (R50, R67): a commit that waited for an entry. -/
def execDeferredReplacementCommit (t i : Nat) (s : State) : Host.Outcome State Fault Refusal :=
  onTile t s fun s => if ((s.c t).replaceEntry i).isSome then s.commitOn t i else s

/-- REPLAY_STALL_TIMEOUT (R148): the logged commit that is next, one of frame f, has not been made for 65,536 ticks. -/
def execReplayStallTimeout (t f : Nat) (s : State) : Host.Outcome State Fault Refusal :=
  onTile t s fun s =>
    let l := (s.tile t).slate
    match l.replayLeft with
    | (k, _) :: _ =>
      if l.replaying ∧ k % 64 = f ∧ s.quartz ≥ l.replaySince + 65536 then
        (s.diverged t f ⟨0, 0, 0, 0, 0⟩ 1 k).replayed t l.progress
      else s
    | [] => s

/-! ### The loss of a C domain (R152, R394) -/

/-- Word 0 of a revival record (R398). -/
def recordHead (kind attempts : Nat) (over_ : Bool) (nfr nrf nrev : Nat) : W64 :=
  w64 (kind * 2 ^ 60 + min attempts 255 * 2 ^ 52 + (if over_ then 2 ^ 51 else 0) + min nfr 65535 * 2 ^ 32 + min nrf 65535 * 2 ^ 16 + min nrev 65535)

/-- The sectors that a running epoch has written when power is lost. -/
def Slate.written (l : Slate) (torn : Option Nat) : List Nat :=
  match l.target, torn with | some e, some k => e.sectors.filter (· < k) | _, _ => []

/-- The slate at a loss: of a running epoch the sectors below `torn` are written and that sector is torn; where `torn` lies above
every sector, the D record was being written. A loss in a revival keeps its record, which names the D records that are torn then. -/
def Slate.atLoss (l : Slate) (c : CDom) (kind tick : Nat) (torn : Option Nat) : Slate :=
  let fresh := !l.replaying
  let l := match l.target, torn with
    | some e, some k =>
      let l := (l.writeSectors (l.written torn) (some e.seq)).writeSectors (e.sectors.filter (· == k)) none
      if k < 65536 then l
      else if l.d0.isSome && decide (l.d0.getD 0 ≥ l.d1.getD 0) then { l with d1 := none, tornRec := l.tornRec ||| 2 }
      else { l with d0 := none, tornRec := l.tornRec ||| 1 }
    | _, _ => l
  let draft := if fresh then AMap.set (AMap.set [] 0 (recordHead kind 0 false 0 0 0)) 3 (w64 tick) else l.draft
  { l with target := none, lost := some c, replaying := false, replayLeft := [],
           draft := draft.set 6 (w64 l.tornRec) }

/-- A tile loses its C domain. -/
def State.lose (s : State) (t kind : Nat) (torn : Option Nat) : State :=
  if !(s.tile t).powered then s
  else
    let c := s.c t
    let s := c.issued.foldl (fun s x => s.withdrawWaits t x.id) s
    let s := if s.iss.active && s.iss.tile == t then { s with iss := {} } else s
    let x := s.tile t
    let s := s.life (fieldOf t) 0 (x.slate.written torn).length
    (s.setTile t { x with c := {}, powered := false, slate := x.slate.atLoss c kind s.quartz torn }).destroyOn (s.partOf t)

/-- C_DOMAIN_POWER_LOSS (R152). -/
def execCDomainPowerLoss (t : Nat) (torn : Option Nat) (s : State) : Host.Outcome State Fault Refusal :=
  onTile t s fun s => s.lose t 1 torn

/-! ### The revival record (R151, R398) -/

/-- Entries of the reverted list for the sectors that a revival finds: newer than D, torn. -/
def Slate.reverted (l : Slate) : List W64 :=
  let why (q : Option Nat × Option Nat) : Nat :=
    let newer (x : Option Nat) : Bool := match x with | some n => decide (n > l.d) | none => false
    (if newer q.1 || newer q.2 then 1 else 0) + (if q.1.isNone || q.2.isNone then 2 else 0)
  l.sectors.filterMap fun e => if why e.2 = 0 then none else some (w64 (why e.2 * 2 ^ 62 + e.1))

/-- Torn slots. -/
def Slate.tornSlots (l : Slate) : Nat :=
  l.sectors.foldl (fun n e => n + (if e.2.1.isNone then 1 else 0) + (if e.2.2.isNone then 1 else 0)) 0

/-- The highest sequence number in a valid slot. -/
def Slate.seqMax (l : Slate) : Nat := l.sectors.foldl (fun n e => max n (max (e.2.1.getD 0) (e.2.2.getD 0))) l.d

/-- The record of a revival with nfr frames revived and nrf tasks fired again: the reverted list is kept and extended (R152). -/
def Slate.revivalRecord (l : Slate) (nfr nrf : Nat) : Slate :=
  let w0 := l.draft.getD 0 0
  let old := (List.range (bits w0 15 0)).filterMap fun k => l.draft.get? (8 + k)
  let all := old ++ l.reverted.filter fun x => !old.contains x
  let kept := all.take 4088
  let r := l.draft.set 0 (recordHead (bits w0 63 60) (bits w0 59 52 + 1) (decide (all.length > 4088)) nfr nrf all.length)
  let r := (r.set 1 (w64 l.d)).set 2 (w64 l.seqMax)
  let r := (List.range kept.length).foldl (fun m k => AMap.set m (8 + k) (kept.getD k 0)) r
  { l with draft := r }

/-! ### Revival (R394) -/

/-- Frames that a revival resumes: durable as of D. -/
def Slate.resumes (l : Slate) (f : Nat) : Bool :=
  let fr := (l.snap.getD {}).frame f
  (l.d0.isSome || l.d1.isSome) && fr.pmode && fr.st != .free && decide (fr.entrySeq ≤ l.d)

/-- A store as of D: one sent since is known to have been (R148). -/
def Slate.pendAtD (l : Slate) (q : Pend) : Pend :=
  if !q.performed && l.outlog.any fun e => e.1 == q.oseq && e.2.1 == q.frame then { q with place := .again } else q

/-- The stash of a resumed frame: lines with writes as of D that are still to be sent; everything else is fetched again. -/
def Slate.stashAtD (l : Slate) (c lost : CDom) : List StLine :=
  let kept (x : StLine) (q : StSector) (k : Nat) : Bool :=
    (q.st == .d || !q.merge.isEmpty) && c.pend.any fun p => p.frame == x.frame && p.global && p.va / 128 == x.va / 128 + k &&
      (p.place == .stash || p.place == .merging) && !l.outlog.any fun e => e.1 == p.oseq && e.2.1 == p.frame
  (c.stash.filter fun x => lost.stash.any fun y => y.frame == x.frame && y.va == x.va && y.perm == x.perm).filterMap fun x =>
    let qs := (List.range 4).map fun k => let q := x.sectors.getD k emptySector; if kept x q k then { q with loads := [] } else emptySector
    if qs.all fun q => q.st == .i then none else some { x with sectors := qs, probe := none }

/-- A bundle instance as of D: one whose results were withheld goes back to COMPLETE (R340), and so does one that had slots to perform, whose
latches are gone (R269). -/
def CDom.unissue (c : CDom) (x : Issue) : CDom :=
  if !x.withheld && x.todo.isEmpty then c
  else
    let c := (x.waits.filter (·.due)).foldl (fun (c : CDom) _ => c.subDue x.inst 1) c
    CDom.unnote { c.dropIssue x.id with sets := c.sets ++ [x.set] } x

/-- The requests of the waits of a bundle instance that are still to be answered. -/
def Issue.asks (x : Issue) : List Send :=
  x.waits.flatMap fun q => match q.wait with
    | .load els _ => (List.range els.length).filterMap fun j => (els[j]?).bind fun e =>
        if e.val.isSome || isLocal e.ptr then none else some (.load e.ptr e.wb q.acq q.id j)
    | .flush _ _ => (match q.line with | some (line, inv) => [.flush line inv q.id] | none => [])
    | _ => []

/-- The outstanding counts of R50 after a revival: those that the slate shadows (R71), and never fewer than what is held gives: the late
tokens, the waits whose request has left, and the loads that nobody takes any more (log 83: DEDUCED, unsafe). -/
def CDom.recount (c : CDom) : CDom :=
  let lates := ((c.frames.flatMap fun e => c.frameLates e.1) ++ c.awaited.filterMap (·.2.2) ++ c.sups.filterMap (·.2.val)).map (·.inst)
  let waits := c.issued.flatMap fun x => (x.waits.filter (·.due)).map fun _ => x.inst
  let own := (lates ++ waits ++ c.orphans.map (·.inst)).foldl (fun c i => c.addDue i 1) { c with due := [] }
  { own with due := c.due.foldl (fun m e => AMap.set m e.1 (max (AMap.getD m e.1 0) e.2)) own.due }

/-- Tokens that answers are still to bring to frames that do not resume (R49, R50, R71): those of stores and atomics on their way, as
orphans. -/
def Slate.goneStores (l : Slate) (lost : CDom) : List Orphan :=
  (lost.pend.filter fun q => !l.resumes q.frame && !q.performed && (q.place == .sent || q.place == .again)).flatMap fun q =>
    (q.val.toList ++ q.done.toList).map fun x => ⟨0, q.oseq, x.inst, 1⟩

/-- The answers that frames which do not resume still await: their tokens are dropped as they come (R49, R50). -/
def Slate.goneAwaited (l : Slate) (lost : CDom) : AMap (Nat × Option Late) :=
  (lost.awaited.keep fun _ e => match e.2 with | some x => !l.resumes x.frame | none => false).mapVal fun e =>
    (e.1, e.2.map fun x => { x with frame := 64 })

/-- What a tile holds for the frames that resume, as of D: the state that the slate shadows (R71, R145, R354), with the tokens that the
inbound log delivers again first, those in delivery at D (log 83: DEDUCED, unsafe); the CSRs that it does not shadow at their reset
values. -/
def Slate.restored (l : Slate) : CDom :=
  let snap := l.snap.getD {}
  let lost := l.lost.getD {}
  let c := { snap.select l.resumes false with
    sups := snap.sups.keep fun _ x => match x.val with | some q => l.resumes q.frame | none => true }
  let ids := c.frames.map fun (e : Nat × Frame) => e.1
  let codes := snap.codes.filter fun x => c.frames.any fun (e : Nat × Frame) => e.2.task.codeSub.name == x.name && nameVer e.2.task.codelo == x.ver
  let areas := ids.flatMap fun f => (snap.frameAreas f).filter fun a => a.2 != 0
  let outq := c.outq.filter fun h => h.oseq != 0 && !l.outlog.any fun e => e.1 == h.oseq && e.2.1 == h.frame
  let frames := c.frames.map fun (e : Nat × Frame) =>
    if (lost.frame e.1).park ≠ .none ∧ (lost.frame e.1).task.taskId = e.2.task.taskId then
      (e.1, { e.2 with park := .asked, parkWhy := (lost.frame e.1).parkWhy })
    else (e.1, { e.2 with park := .none })
  let pend := c.pend.map l.pendAtD
  let stash := l.stashAtD c lost
  let scratch := snap.scratch.within (ids.flatMap snap.frameAreas)
  let c : CDom := { c with
    codes := codes, areas := areas, scratch := scratch, pend := pend, stash := stash, rxAsked := [], outq := outq, frames := frames
    awaited := (l.goneAwaited lost).foldl (fun m e => AMap.set m e.1 e.2) c.awaited
    nextId := max lost.nextId snap.nextId, oseq := max (max lost.oseq snap.oseq) l.h, cycle := lost.cycle, useTick := lost.useTick
    lag := 22000, tagLow := 512, tagCrit := 64, dbgctl := 0, tracectl := 0, branchstall := 16384, spinesel := 0, bucket := 0, debits := 0 }
  let c := c.issued.foldl CDom.unissue c
  let gone := (lost.issued.filter fun x => !c.issued.any fun y => y.id == x.id).flatMap Issue.orphans
  let issued := c.issued.map fun (x : Issue) => { x with sends := x.asks }
  (CDom.recount { c with areas := c.areas.eraseDups, issued := issued, orphans := lost.orphans ++ l.goneStores lost ++ gone.filter fun o => o.left != 0 })

/-- Copies of resumed frames start again: source bytes that the inbound log holds are taken from it (R340). -/
def State.restartCopy (s : State) (t : Nat) (x : Copy) : State :=
  let data := ((s.tile t).slate.copied x.id).foldl (fun (m : AMap (List Byte)) e => m.set e.1 e.2) x.data
  let rows := (List.range x.rows.length).filterMap fun j => (x.rows[j]?).map fun r => (j, r)
  let asks := rows.flatMap fun (j, src, _, n) => if isLocal src then [] else
    ((chunks (ptrOff src) n).filter fun q => !data.has (copyKey j q.1)).map fun q =>
      let r := s.reqFor t x.frame (src + w64 q.1) .load q.2 (.copyRead x.id j q.1)
      (r.1, { r.2 with at_ := x.at_ })
  let s := s.modC t fun c => c.modCopy x.id fun y => { y with reading := true, data := data, left := asks.length, stalled := false }
  if asks.isEmpty then s.copyWrites t x.id else asks.foldl (fun s r => s.engineSend t x.frame r) s

/-- The restartable tasks of a lost tile (R395). -/
def CDom.again (c : CDom) (resumes : Nat → Bool) : List Again :=
  (c.placed.map fun q => ⟨q.task, q.st, q.moveTo, none⟩) ++
    (c.frames.filter fun e => e.2.st != .free && decide (e.1 < 63) && !resumes e.1).map fun e =>
      ⟨e.2.task, if e.2.park = .none then .waiting else .parked e.2.parkWhy, none, some e⟩

/-- The frame was ending by a fault when it was lost, or is to end since no D record is valid (R396). -/
def Again.ends (a : Again) (valid : Bool) : Bool :=
  match a.frame with
  | some (_, fr) => fr.abortRec.isSome || (!valid && (fr.pmode || fr.pmodeNow))
  | none => false

/-- The subscriptions that a lost task still had are withdrawn; the key of a frame that does not end is free again, a step armed for it
goes (R428). -/
def State.cutOff (s : State) (t : Nat) (lost : CDom) (valid : Bool) (a : Again) : State :=
  let id := a.task.taskId
  let s := (lost.slots.filter fun e => e.2.taskId == id).foldl (fun s e => match e.2.sub with
    | some q =>
      let r : SubReq := ⟨q.hi, q.lo, q.mask, q.next⟩
      (match q.kind with
       | .task => if q.satisfied then s else s.prune t e.1 none id r
       | .subn => s.prune t e.2.subnIx e.2.frame id r
       | .stream => s)
    | none => s) s
  match a.frame with
  | none => s
  | some (f, fr) =>
    let s := (fr.streams.foldl (fun s y => s.pruneOne t fr.part (y.msg t f id)) s).disarm fr.part t f
    if a.ends valid then s
    else s.modHub ((s.part fr.part).fieldList.getD (fr.key.toNat / 16384) 0) fun h => { h with keys := h.keys.filter (· != fr.key) }

/-- A lost frame that ends, with REVDIV and CW1 = 2 where no D record is valid (R396), else with the fault it was ending with: its record
waits until what it had sent is performed at host scope (R383, event ABORT_FAULT_RECORD). -/
def State.endLost (s : State) (t : Nat) (lost : CDom) (a : Again) : State :=
  match a.frame with
  | none => s
  | some (f, fr) =>
    let i : FaultInfo := { cause := .revdiv, cw1 := 2 }
    let ws := fr.abortRec.getD (recordWords s.tick i.cause.code 0 0 0 8 t f fr.task.stage 0 fr.task.taskId 0 0 0 i)
    let sent := (lost.pend.filter fun q => q.frame == f && !q.performed && (q.place == .sent || q.place == .pushed || q.place == .again)).map
      fun q => { q with done := none, val := none }
    let ending : Frame :=
      { st := .ending, task := { fr.task with privkb := 0, scrkb := 0, stashu := 0 }, key := fr.key, part := fr.part, claims := fr.claims
        published := fr.published, abortRec := some ws }
    s.modC t fun c => { c with frames := c.frames.set f ending, pend := c.pend ++ sent }

/-- A tile revives (R394 to R396, R398): what its slate shadows is restored and its durable frames are replayed; the rest follows at the
end of the replay. -/
def State.revive (s : State) (t : Nat) : State :=
  let l := (s.tile t).slate
  let lost := l.lost.getD {}
  let valid := l.d0.isSome || l.d1.isSome
  let c := l.restored
  let all := lost.again l.resumes
  let ended := all.filter fun a => a.ends valid
  let fire := (l.again.map fun a => { a with frame := none }) ++ all.filter fun a => !a.ends valid
  let diverged := (ended.filter fun a => match a.frame with | some (_, fr) => fr.abortRec.isNone | none => false).length
  let s := s.setTile t { s.tile t with c := { c with commitSeq := l.d, health := c.health || (s.c t).health }, powered := true }
  let s := s.modSlate t fun l =>
    let l := l.revivalRecord c.frames.length fire.length
    { l with
      lost := none, replaying := !l.commitlog.isEmpty, replayLeft := l.commitlog, replaySince := s.quartz, oldest := none, lastEpoch := s.quartz
      record := [], again := fire, inlog := markReadings (fun r => if r = .dead then .dead else .awaited) l.inlog
      draft := if diverged = 0 then l.draft else l.draft.set 7 (l.draft.getD 7 0 + w64 diverged) }
  let s := ((s.countT t 19 1).life (fieldOf t) 2 1).life (fieldOf t) 1 l.tornSlots
  let s := all.foldl (fun s a => s.cutOff t lost valid a) s
  let s := (lost.codes.filter fun x => !x.resident).foldl (fun s x =>
    s.prune t codeSlot none 0 ⟨x.name.hi, x.name.lo x.ver, 0, false⟩) s
  let s := ended.foldl (fun s a => s.endLost t lost a) s
  let s := c.copies.foldl (fun s x => s.restartCopy t x) s
  (((s.releaseHeld t).retrySends t).redeliverAt t 0).replayed t 0

/-- The rails of a tile's field are up. -/
def State.railsUp (s : State) (t : Nat) : Bool := (s.hub (fieldOf t)).powered && !(s.hub (fieldOf t)).railsOff && !(s.hub (fieldOf t)).excluded

/-- C_DOMAIN_REVIVAL (R394). -/
def execCDomainRevival (t : Nat) (s : State) : Host.Outcome State Fault Refusal :=
  onTile t s fun s => if (s.tile t).powered || !s.railsUp t then s else s.revive t

end Sys2Proof.Machine
end

