-- ==== Sys2Proof/Machine/Field.lean ====
section
/-! DEFINITION. The loss of a field's power and its revival (R153, R399). -/

namespace Sys2Proof.Machine

/-! ### What the network domains of a field held unanswered -/

/-- The outbound number of a message: 0 for a load or a wait. -/
def Body.oseq (b : Body) : Nat :=
  match b with
  | .home r => r.oseq
  | .bar _ _ _ o _ => o
  | .name _ m => m.oseq
  | .spawn _ _ _ _ o => o
  | _ => 0

/-- The number of a message that is no numbered effect. -/
def Body.nseq (b : Body) : Nat := match b with | .name _ m => m.nseq | _ => 0

/-- A request as its sender sends it again: a registration or a prune from its own router on (R80). A message without any number is sent as
it was. -/
def State.sentAgain (s : State) (m : Msg) : Msg :=
  match m.body with
  | .home r => { m with body := .home { r with resent := true } }
  | .name op x =>
    let y : NameMsg := { x with resent := true, hops := 0, trail := none }
    match op, x.who with
    | .reg, .tile u | .prune, .tile u => if x.oseq = 0 ∧ x.nseq = 0 then m else s.climbMsg u (s.partOf u) op { y with overflow := false, late := false }
    | _, .tile u => if x.oseq = 0 then m else { m with src := .tile u, body := .name op y }
    | _, _ => m
  | _ => m

/-- Messages, each with a note, in the order of their numbers; one without a number follows what goes to the same receiver before it. -/
def byNumber (l : List (Bool × Msg)) : List (Bool × Msg) :=
  let key (r : List (Nat × Bool × Msg)) (m : Msg) : Nat :=
    if m.body.oseq ≠ 0 then m.body.oseq else ((r.filter fun e => e.2.2.dst == m.dst).map (·.1)).foldl max 0
  ((l.foldl (fun r m => r ++ [(key r m.2, m)]) []).mergeSort fun x y => decide (x.1 ≤ y.1)).map (·.2)

/-- The message of a barrier's waiter. -/
def State.waiterMsg (s : State) (t k : Nat) (w : Nat × Nat × Nat × Nat) : Msg :=
  let f := match (s.c w.2.1).issued.find? fun x => x.id == w.2.2.1 with | some x => x.set.frame | none => 0
  ⟨.tile w.2.1, .tile t, .request, .bar k (.barw w.1 w.2.2.1 w.2.2.2) f 0 (s.frame w.2.1 f).task.taskId, 0, false⟩

/-- What tile t's network domain had taken and not answered, beyond what its slate shadows (R399): also what nothing acknowledges, the prunes,
releases and publishes that its frames' ends sent. -/
def State.unanswered (s : State) (t : Nat) (kept : NDom) : List Msg :=
  let n := s.n t
  let reqs := (n.open.filter fun r => !kept.open.contains r).map fun r => (⟨r.sender, .tile t, .request, .home r, 0, false⟩ : Msg)
  let waits := n.barriers.flatMap fun e =>
    (e.2.waiters.filter fun w => !(kept.barriers.getD e.1 {}).waiters.contains w).map fun w => s.waiterMsg t e.1 w
  reqs ++ waits ++ (n.ingress.filter fun m => !kept.ingress.contains m) ++ n.taken.filter fun m => !n.ingress.contains m

/-- The network domain that a slate revives: as of D, with the requests it was serving to be served again. -/
def Slate.domainAtD (l : Slate) : NDom :=
  let n := if l.d0.isSome || l.d1.isSome then l.snapN.getD {} else {}
  { n with
    lines := n.lines.map fun (x : HLine) => { x with busy := none, queue := x.busy.toList ++ x.queue, acks := [], reading := [] }
    walks := [] }

/-! ### The loss (R399) -/

/-- The stalls of a network domain end with it. -/
def State.dropStalls (s : State) (t : Nat) : State :=
  let ids := (s.n t).walks.filterMap (·.stall)
  if ids.isEmpty then s
  else s.modPart (s.partOf t) fun p => { p with stalls := p.stalls.filter fun x => !ids.contains x }

/-- A tile loses both domains: its revival record names a field loss, also where it had lost its C domain before. -/
def State.loseBoth (s : State) (t : Nat) : State :=
  let s := (s.dropStalls t).lose t 2 none
  let s := s.modSlate t fun l => { l with draft := l.draft.set 0 (w64 (2 * 2 ^ 60 + bits (l.draft.getD 0 0) 59 0)) }
  s.setN t { (s.tile t).slate.domainAtD with nameSeq := (s.n t).nameSeq }

/-- Replies of HBM4E, and reads on their way, for homes of a field. -/
def Msg.hbmFor (m : Msg) (field : Nat) : Bool :=
  let here (a : Agent) : Bool := match a with | .tile t => decide (fieldOf t = field) | _ => false
  match m.body with
  | .hbmReply _ _ _ _ _ _ => here m.dst
  | .hbm w _ _ _ _ _ _ _ _ _ _ => !w && here m.src
  | _ => false

/-- A field loses power: every tile's C domain, and its N domain back to its durable point (R153, R399). -/
def State.loseField (s : State) (field : Nat) : State :=
  let ts := fieldTiles field
  let lost := ts.flatMap fun t => s.unanswered t (s.tile t).slate.domainAtD
  let s := ts.foldl (fun s t => s.loseBoth t) s
  let s : State := { s with net := s.net.filter fun m => !m.hbmFor field }
  s.modHub field fun h => { h with powered := false, lost := h.lost ++ lost, tlb := [], life := h.lifePersisted, samples := [] }

/-- FIELD_POWER_LOSS (R399). -/
def execFieldPowerLoss (field : Nat) (s : State) : Host.Outcome State Fault Refusal :=
  onField field s fun s => if (s.hub field).powered then s.loseField field else s

/-! ### The return of power, and the resends (R399) -/

/-- A message of a sender that waits at the boundary of a field. -/
def Msg.outside (m : Msg) (field : Nat) : Bool :=
  m.cls != .reply && (match m.dst with | .tile t => fieldOf t == field | .hub h => h == field | _ => false) &&
    (match m.src with | .tile u => fieldOf u != field | _ => false)

/-- Lost requests of a sender leave again, in the order of their outbound numbers with those of its messages that wait at the field's
boundary; a tile of the field itself sends again only what its revival suppresses, or does not come to again since its own D covers it. -/
def State.resend (s : State) (field : Nat) (ok : Agent → Bool) : State :=
  let ours (m : Msg) : Bool := ok m.sender
  let late (m : Msg) : Bool := match m.sender with
    | .tile t => decide (fieldOf t ≠ field) || decide (0 < m.body.oseq ∧ m.body.oseq ≤ (s.tile t).slate.h) ||
        decide (0 < m.body.nseq ∧ m.body.nseq ≤ ((s.tile t).slate.snapN.getD {}).nameSeq)
    | _ => true
  let lost := (s.hub field).lost.filter ours
  if lost.isEmpty then s else
  let waits (m : Msg) : Bool := ours m && m.outside field
  let l := byNumber ((lost.filter late).map (fun m => (true, s.sentAgain m)) ++ (s.net.filter waits).map fun m => (false, m))
  let s : State := { s with net := s.net.filter fun m => !waits m }
  let s := s.modHub field fun h => { h with lost := h.lost.filter fun m => !ours m }
  l.foldl (fun s m => if m.1 then s.send m.2 else { s with net := s.net ++ [m.2] }) s

/-- The lines of a home go on. -/
def State.linesOn (s : State) (t : Nat) : State := (s.n t).lines.foldl (fun s l => s.lineOn t l.part l.va) s

/-- Agents other than tiles. -/
def Agent.notTile (a : Agent) : Bool := match a with | .tile _ => false | _ => true

/-- FIELD_POWER_RETURN (R399): not for a field that a start excluded, nor in a module that has halted (R400); every tile of the field revives together with its N domain; the agents outside the tiles send again. -/
def execFieldPowerReturn (field : Nat) (s : State) : Host.Outcome State Fault Refusal :=
  onField field s fun s =>
    if (s.hub field).powered || (s.hub field).excluded || s.ctl.halted then s
    else
      let s := s.modHub field fun h => { h with powered := true }
      let s := (fieldTiles field).foldl (fun s t => if (s.tile t).powered || !s.railsUp t then s else s.revive t) s
      let s := (fieldTiles field).foldl (fun s t => s.linesOn t) s
      s.resend field Agent.notTile

/-- FIELD_REVIVAL_RESEND (R399): once the field has revived and nothing from it to the tile is still to arrive, tile t sends again
what it sent into the field and had no answer to. -/
def execFieldRevivalResend (t field : Nat) (s : State) : Host.Outcome State Fault Refusal :=
  if t ≥ Config.numTiles + Config.numRims then .fault .noSuchUnit
  else onField field s fun s =>
    let me := walker t
    let coming := s.net.any fun m => m.dst == me && match m.src with | .tile u => decide (fieldOf u = field) | _ => false
    if !(s.hub field).powered || coming then s else s.resend field (· == me)

end Sys2Proof.Machine
end

