-- ==== Sys2Proof/Machine/Preempt.lean ====
section
/-! DEFINITION. Watchdogs (R386 to R388), the steps of parking a frame (R389, R391, R392) and its restore (R393). -/

namespace Sys2Proof.Machine

/-! ### The order of victims (R392) -/

/-- Task a is parked before task b: lower PRIO, then higher STAGE, then higher TASKID. -/
def Task.parksBefore (a b : Task) : Bool :=
  if a.prio ≠ b.prio then decide (a.prio < b.prio)
  else if a.stage ≠ b.stage then decide (a.stage > b.stage)
  else decide (a.taskId.toNat > b.taskId.toNat)

/-- Frames of a field that are occupied by tasks: tile, number, frame. -/
def State.fieldFrames (s : State) (field : Nat) : List (Nat × Nat × Frame) :=
  (s.tiles.filter fun e => decide (fieldOf e.1 = field)).flatMap fun e =>
    (e.2.c.frames.filter fun f => f.2.st != .free && decide (f.1 < 63)).map fun f => (e.1, f.1, f.2)

/-- WAITING and READY tasks of a field that satisfy a condition are parked for heat (R389, R416). -/
def State.parkTasks (s : State) (field : Nat) (ok : Task → Bool) : State :=
  { s with tiles := s.tiles.map fun e =>
      if fieldOf e.1 = field then (e.1, { e.2 with c := e.2.c.mapPlaced fun q =>
        if (q.st == .waiting || q.st == .ready) && ok q.task then { q with st := .parked 4 } else q })
      else e }

/-- A tile of a field is replayed (R148, R417). -/
def State.fieldReplays (s : State) (field : Nat) : Bool := s.tiles.any fun e => fieldOf e.1 == field && e.2.slate.replaying

/-- The next frame of a critical field to be parked, where none of its frames is being parked (R392, R416). -/
def State.nextVictim (s : State) (field : Nat) : Option (Nat × Nat × Frame) :=
  let l := s.fieldFrames field
  if l.any fun e => e.2.2.park != .none then none
  else (l.filter fun e => e.2.2.parkable).foldl (fun m e => match m with
    | none => some e
    | some b => if e.2.2.task.parksBefore b.2.2.task then some e else some b) none

/-- In a critical field, tasks that come before every frame still to be parked are parked (R416), once its revivals are over (R417). -/
def State.critSweep (s : State) (field : Nat) : State :=
  if s.fieldReplays field then s else match s.nextVictim field with
  | some e => s.parkTasks field fun k => k.parksBefore e.2.2.task
  | none => if (s.fieldFrames field).isEmpty then s.parkTasks field fun _ => true else s

/-! ### Parking (R389) -/

/-- The marker takes effect: from here on the frame's deliveries are held and it spawns nothing. -/
def State.mark (s : State) (t f : Nat) : State :=
  s.modC t fun c => c.modFrame f fun fr => { fr with park := .marked c.cycle }

/-- PREEMPT_MARKER_EFFECT (R389 step 1): between two commits of the tile. A frame that is ending goes on to its end (R391); in a critical
field the next frame in the order of R392 is marked (R416). -/
def execPreemptMarkerEffect (t f : Nat) (s : State) : Host.Outcome State Fault Refusal :=
  onTile t s fun s =>
    let fr := s.frame t f
    let field := fieldOf t
    if !(s.tile t).powered then s
    else if fr.park = .asked then
      if fr.st = .active ∨ fr.st = .trapped then s.mark t f else s.modFrame t f fun fr => { fr with park := .none }
    else if (s.hub field).crit.isSome ∧ !(s.hub field).railsOff ∧ !s.fieldReplays field then
      let next := (s.nextVictim field).map fun e => (e.1, e.2.1)
      let s := s.critSweep field
      if next = some (t, f) then State.mark (s.askPark t f 4) t f else s
    else s

/-- The frame has nothing that could still issue. -/
def State.issuesNothing (s : State) (t f : Nat) : Bool :=
  (s.c t).sets.all (fun x => x.frame != f || !s.ready t x) && !((s.c t).arrivals.any fun k => k.frame == f)

/-- PARK_ISSUE_CUTOFF (R389 step 3): after 4,096 cycles, or with nothing left to issue, the frame issues no more; its waiting SPOP,
WUNTIL, BARW and SIGWAIT instances return to COMPLETE (R340). -/
def execParkIssueCutoff (t f : Nat) (s : State) : Host.Outcome State Fault Refusal :=
  onTile t s fun s =>
    match (s.frame t f).park with
    | .marked k =>
      if (s.c t).cycle < k + 4096 ∧ !s.issuesNothing t f then s
      else
        let back := (s.c t).issued.filter fun x => x.set.frame == f && x.withheld
        let s := back.foldl (fun s x => (s.withdraw t x).modC t fun c => { c with sets := c.sets ++ [x.set] }) s
        s.modFrame t f fun fr => { fr with park := .cutoff }
    | _ => s

/-! ### Restore (R393) -/

/-- An image is seated: a durable frame is shadowed from here on, the deliveries held for it are released (R393 step 4). Its subscriptions
stand as they did, under its task (R95); a stream that a detach notice found parked goes over to unicast requests (R90). -/
def State.seatImage (s : State) (t : Nat) (x : Image) (q : Seat) : State :=
  let s := s.modC t fun c => c.seated x q
  let s := s.modSlate t fun l => { l with
    images := l.images.filter fun y => !x.same y
    snap := if x.fr.pmode then some ((l.snap.getD {}).seated x q) else l.snap }
  let s := (s.releaseDeliveries t x.fr.task.taskId).latchSups (SupWait.restoredAt t x.fr.task.taskId)
  let s := ((s.frame t q.frame).streams.filter (·.cut)).foldl (fun s y =>
    (s.detachStream t q.frame y).modFrame t q.frame fun fr => fr.modStream y.base fun y => { y with cut := false }) s
  s.retrySends t

/-- FRAME_RESTORE (R393): the i-th image of a tile whose restore is asked for; without room it waits, and is passed over. -/
def execFrameRestore (t i : Nat) (s : State) : Host.Outcome State Fault Refusal :=
  onTile t s fun s =>
    match ((s.tile t).slate.images.filter fun x => x.asked)[i]? with
    | none => s
    | some x =>
      if !(s.tile t).powered then s
      else match (s.c t).seat x with
        | some q => s.seatImage t x q
        | none => s.modSlate t fun l =>
            { l with images := l.images.map fun y => if x.same y && y.passed.isNone then { y with passed := some s.quartz } else y }

/-! ### Watchdogs (R386 to R388) -/

/-- What a frame waits on (R382, WDOG): judged from its oldest bundle instance that is COMPLETE or ISSUED. -/
def State.waitsOn (s : State) (t f : Nat) : Nat :=
  let c := s.c t
  let sets : List (Nat × Nat) := (c.sets.filter fun x => x.frame == f && !x.kept).map fun x => (x.cycle, if s.only6 t x then 1 else 0)
  let kind (x : Issue) : Nat := (x.waits.findSome? fun (q : PWait) => match q.wait with
    | .spop _ _ => some 2
    | .barw => some 3
    | .sigwait => some 4
    | .wuntil _ _ => some 5
    | .load _ _ => some 6
    | _ => none).getD 0
  let issued : List (Nat × Nat) := (c.issued.filter fun x => x.set.frame == f).map fun x => (x.set.cycle, kind x)
  ((sets ++ issued).foldl (fun (m : Option (Nat × Nat)) e => match m with
    | none => some e
    | some b => if e.1 < b.1 then some e else some b) none).elim 0 (·.2)

/-- The limit of a partition's frame watchdogs: none where it is 0 (R387). -/
def Partition.watchLimit (p : Partition) : Option Nat := if p.wdlim = 0 then none else some (max 65536 p.wdlim.toNat)

/-- FRAME_WATCHDOG_EXPIRY (R387): the frame aborts with WDOG. -/
def execFrameWatchdogExpiry (t f : Nat) (s : State) : Host.Outcome State Fault Refusal :=
  onTile t s fun s =>
    let fr := s.frame t f
    match (s.part fr.part).watchLimit with
    | none => s
    | some n =>
      if f ≥ 63 ∨ fr.watch < n ∨ !(fr.st == .active || fr.st == .trapped) then s
      else s.abortFrame t f ⟨0, 0, 0, 0, 0⟩ { cause := .wdog, cw2 := w64 (s.waitsOn t f), cw3 := w64 fr.watch }

/-- TILE_WATCHDOG_EXPIRY (R388): the C domain is reset, HEALTH is set and the event counted. -/
def execTileWatchdogExpiry (t : Nat) (s : State) : Host.Outcome State Fault Refusal :=
  onTile t s fun s =>
    if (s.c t).tileWatch < 65536 ∨ !(s.tile t).powered then s
    else ((s.lose t 3 none).modC t fun c => { c with health := true }).life (fieldOf t) 6 1

end Sys2Proof.Machine
end

