-- ==== Sys2Proof/Machine/Thermal.lean ====
section
/-! DEFINITION. Thermal control (R410, R415 to R417): the levels of a field, the critical sequence, grants; the security alarm (R404,
R405). -/

namespace Sys2Proof.Machine

/-- The threshold of a level in 1/16 °C, as it is in force in a field (R406, R410). -/
def Hub.threshold (h : Hub) (level : Nat) : Int :=
  16 * match level with | 1 => h.thresholds.1 | 2 => h.thresholds.2.1 | _ => h.thresholds.2.2

/-- The highest level whose threshold a temperature reaches. -/
def Hub.levelAt (h : Hub) (temp : Int) : Nat :=
  if temp ≥ h.threshold 3 then 3 else if temp ≥ h.threshold 2 then 2 else if temp ≥ h.threshold 1 then 1 else 0

/-- The C-domain rails of a field go (R416 step 3); a destruction that waited for this follows (R417). -/
def State.removeRails (s : State) (field : Nat) : State :=
  let s := s.parkTasks field fun _ => true
  let s := s.modHub field fun h => { h with railsOff := true }
  ((fieldTiles field).foldl (fun s t => s.lose t 1 none) s).destroysOn

/-- CRITICAL_RAIL_REMOVAL (R416 step 3): every frame is parked, or 1 ms has passed. -/
def execCriticalRailRemoval (field : Nat) (s : State) : Host.Outcome State Fault Refusal :=
  onField field s fun s =>
    let h := s.hub field
    match h.crit with
    | some q => if !h.railsOff ∧ ((s.fieldFrames field).isEmpty ∨ s.quartz ≥ q + 1100000) then s.removeRails field else s
    | none => s

/-- The rails of a field return: its tiles revive, what heat parked is restored (R416), stacks leave self-refresh where no field is
critical (log entry 30: DEDUCED, unsafe). -/
def State.cooled (s : State) (field : Nat) : State :=
  let s := s.modHub field fun h => { h with crit := none, railsOff := false }
  let s := (fieldTiles field).foldl (fun s t => if (s.tile t).powered || !s.railsUp t then s else s.revive t) s
  let s := (fieldTiles field).foldl (fun s t => (s.askRestore t fun x => x.why == 4).unparkTasks t 4) s
  let s : State := if s.hubs.any fun e => e.2.crit.isSome then s else { s with rims := s.rims.mapVal fun r => { r with selfRefresh := false } }
  s.destroysOn

/-! ### The security alarm (R404, R405) -/

/-- An erasure (R405): both slots of every sector of the secure region are overwritten with zeros, then with the random bytes, whose CRC is
invalid, and the flag is cleared; with too few bytes to hand for the region it is still under way, its flag set. -/
def State.eraseKeys (s : State) (random : List Byte) : State :=
  let n := Config.secureBytes
  let wiped : SecureSlot := .wiped (random.take n ++ List.replicate (n - random.length) 0) false
  { s with ctl := { s.ctl with erasePending := decide (random.length < n), secureA := wiped, secureB := wiped } }

/-- The random bytes of an erasure that runs through. -/
def secureBytesOf (k : Nat) : List Byte := (List.range Config.secureBytes).map (Config.secureRandom k)

/-- The device holds its key pairs. -/
def Ctl.keysPresent (c : Ctl) : Bool := c.secureA == .keys || c.secureB == .keys

/-- The identity and the attestation key, where the secure region still holds them (R403). -/
def Ctl.keyPairs (c : Ctl) : Option (List Byte × List Byte) := if c.keysPresent then some (Config.identityKey, Config.attestationKey) else none

/-- The compute rails go as at thermal critical (R404, R416): the frames of every field are parked in order, and a field's rails are removed when
all are, or after 1 ms; they stay off until the next start (log 45: DEDUCED, unsafe). A field without power gets none when it returns. -/
def State.alarmRails (s : State) : State :=
  let start (s : State) (f : Nat) : State :=
    if !(s.hub f).powered then s.modHub f fun h => { h with railsOff := true }
    else if (s.hub f).crit.isSome then s
    else State.critSweep (s.modHub f fun h => { h with crit := some s.quartz }) f
  let s := (List.range Config.numFields).foldl start s
  { s with ctl := { s.ctl with alarmOff := true } }

/-- The alarm of a source (R404): its bit is set, and the fused policy acts; policy 3 is not stated and only records. A second alarm
during an erasure is only recorded (R405). -/
def State.alarm (s : State) (source : Nat) (random : List Byte) : State :=
  let s : State := { s with ctl := { s.ctl with alarms := s.ctl.alarms ||| BitVec.ofNat 5 (2 ^ source) } }
  if s.ctl.erasePending then s
  else match Config.erasePolicy.toNat with
  | 1 => s.eraseKeys random
  | 2 =>
    let s := s.eraseKeys random
    if s.ctl.erasePending then s else s.alarmRails
  | _ => s

/-- An alarm whose erasure runs through. -/
def State.fullAlarm (s : State) (source : Nat) : State := State.alarm { s with freeCtr := s.freeCtr + 1 } source (secureBytesOf s.freeCtr)

/-- SECURITY_ALARM (R404, R405): the random bytes are those that the erasure writes. Source 4 is three failed verifications in one start. -/
def execSecurityAlarm (source : BitVec 3) (random : List (BitVec 8)) (s : State) : Host.Outcome State Fault Refusal :=
  if source.toNat ≥ 5 then .fault .noSuchUnit
  else .next (if source = 4 ∧ s.ctl.verifyFails < 3 then s else s.alarm source.toNat random)

/-! ### The levels of a field (R415, R416) -/

/-- A die temperature outside its limits raises the alarm (R404). -/
def State.tempAlarm (s : State) (field : Nat) (temp : BitVec 16) : State :=
  if temp.toInt < -320 ∨ temp.toInt > (s.hub field).threshold 3 + 240 then s.fullAlarm 3 else s

/-- A rise to a level (R415): each level entered is counted; at critical the sequence of R416 begins. -/
def State.levelRise (s : State) (field new : Nat) : State :=
  let h := s.hub field
  let s := s.modHub field fun h => { h with level := new }
  let s := (List.range 3).foldl (fun s k => if h.level < k + 1 ∧ k + 1 ≤ new then s.life field (7 + k) 1 else s) s
  if new = 3 ∧ h.crit.isNone then State.critSweep (s.modHub field fun h => { h with crit := some s.quartz }) field else s

/-- A fall by one level (R415); below throttle a critical sequence is undone (R416), but that of an alarm (R404). -/
def State.levelFall (s : State) (field : Nat) : State :=
  let h := s.hub field
  let s := s.modHub field fun h => { h with level := h.level - 1 }
  if h.level - 1 < 2 ∧ h.crit.isSome ∧ !s.ctl.alarmOff then s.cooled field else s

/-- A reading of a field's hottest sensor (R415): its level rises as soon as a threshold is reached, and falls by one at 5 °C below its
threshold. -/
def State.sensed (s : State) (field : Nat) (temp : BitVec 16) : State :=
  let s := s.modHub field fun h => { h with temp := temp }
  let h := s.hub field
  let s := if h.level < h.levelAt temp.toInt then s.levelRise field (h.levelAt temp.toInt)
    else if h.level ≠ 0 ∧ temp.toInt ≤ h.threshold h.level - 80 then s.levelFall field else s
  s.tempAlarm field temp

/-- THERMAL_LEVEL_RISE (R415). -/
def execThermalLevelRise (field : Nat) (temp : BitVec 16) (s : State) : Host.Outcome State Fault Refusal :=
  onField field s fun s => s.sensed field temp

/-- THERMAL_LEVEL_FALL (R415, R416). -/
def execThermalLevelFall (field : Nat) (temp : BitVec 16) (s : State) : Host.Outcome State Fault Refusal :=
  onField field s fun s => s.sensed field temp

/-! ### Grants (R410) -/

/-- The thresholds written since come into force (R410). -/
def State.newThresholds (s : State) (field : Nat) : State :=
  s.modHub field fun h => { h with thresholds := (s.pf.warn.toNat, s.pf.thr.toNat, s.pf.crit.toNat) }

/-- POWER_GRANT (R410): the grants of an interval, at the level that the field's temperature has by the thresholds in force from it on. -/
def execPowerGrant (field : Nat) (inp : PowerInputs) (s : State) : Host.Outcome State Fault Refusal :=
  onField field s fun s =>
    if s.quartz < (s.hub field).grantTick + 1100 ∨ !(s.hub field).powered ∨ s.kStepWaits field then s
    else
      let s := s.newThresholds field
      (s.sensed field (s.hub field).temp).powerGrant field inp

end Sys2Proof.Machine
end

