-- ==== Sys2Proof/Machine/Boot.lean ====
section
/-! DEFINITION. Boot and security (R400 to R405): the journal, firmware images, a start of the module, attestation. -/

namespace Sys2Proof.Machine

/-! ### The boot journal (R401, R427) -/

/-- The journal entry of a unit in a step (R427). -/
def bootIndex (step unit : Nat) : Nat :=
  match step with
  | 1 => 0
  | 6 => 257 + unit
  | 7 => 289 + unit
  | 8 => 10529
  | k => 1 + 64 * (k - 2) + unit

/-- Steps with an alternate, and steps that may be skipped (R400). -/
def hasAlternate (step : Nat) : Bool := step == 1 || step == 3 || step == 6 || step == 8
def skippable (step : Nat) : Bool := decide (2 ≤ step) && decide (step ≤ 6)

/-- How a step ended for a unit (R401). -/
inductive BootEnd where
  | normal | failed | skipped | alternate
  deriving DecidableEq, Repr

/-- OUTCOME (R401). -/
def BootEnd.code : BootEnd → Nat | .normal => 0 | .failed => 1 | .skipped => 2 | .alternate => 3

def BootEnd.ok (e : BootEnd) : Bool := e == .normal || e == .alternate

/-- NEXT after a failure that makes ATTEMPTS n (R401). -/
def nextAfterFail (step n : Nat) : Nat :=
  if n = 1 then (if hasAlternate step then 1 else 0) else if skippable step then 2 else if hasAlternate step then 1 else 0

/-- A journal entry after its step has ended (R401); `onAlt` says that this start took the alternate. -/
def journalEntry (w : W64) (step unit : Nat) (e : BootEnd) (onAlt : Bool) (detail : BitVec 16) : W64 :=
  let attempts := bits w 45 38
  let sticky := bits w 31 16
  let left := if onAlt then sticky - 1 else sticky
  let done := onAlt && sticky == 1
  let r : Nat × Nat × Nat := match e with
    | .normal => (0, 0, left)
    | .alternate => if sticky = 0 then (0, 1, 16) else (0, if done then 0 else 1, left)
    | .failed => let n := min 255 (attempts + 1); (n, if done && nextAfterFail step n == 1 then 0 else nextAfterFail step n, left)
    | .skipped => (attempts, 2, sticky)
  w64 (step * 2 ^ 60 + unit * 2 ^ 46 + r.1 * 2 ^ 38 + e.code * 2 ^ 34 + r.2.1 * 2 ^ 32 + r.2.2 * 2 ^ 16 + detail.toNat)

/-- The detail code of a failure (R401): as the hardware reports it, else a free value. -/
def State.bootDetail (s : State) (x : BootInputs) (step unit : Nat) : BitVec 16 :=
  match x.details.find? fun d => d.1 == step && d.2.1 == unit with
  | some d => d.2.2
  | none => Config.bootDetail step unit s.freeCtr

/-- A step of a unit: what NEXT calls for is tried, and the entry is written. -/
def State.bootUnit (s : State) (x : BootInputs) (step unit : Nat) (normal alt : Bool) : State × BootEnd :=
  let w := s.ctl.journal.getD (bootIndex step unit) 0
  let next := bits w 33 32
  let onAlt := next == 1 && hasAlternate step
  let e : BootEnd := if next = 2 && skippable step then .skipped
    else if onAlt then (if alt then .alternate else .failed) else if normal then .normal else .failed
  let detail := if e.ok then 0 else if e = .skipped then BitVec.ofNat 16 w.toNat else s.bootDetail x step unit
  let journal := s.ctl.journal.set (bootIndex step unit) (journalEntry w step unit e onAlt detail)
  ({ s with ctl := { s.ctl with journal := journal } }, e)

/-! ### Firmware images (R402) -/

def imageBody (img : List Byte) : List Byte := img.drop 256
def imageField (img : List Byte) (off n : Nat) : Nat := fromBytes ((img.drop off).take n)
def imageDigest (img : List Byte) : List Byte := (img.drop 16).take 64
def imageKey (img : List Byte) : List Byte := (img.drop 194).take 57

/-- The image's key is one of the fused hashes, not revoked. -/
def imageKeyOk (key : List Byte) : Bool := (List.range 4).any fun i => !Config.keyRevoked i && Config.keyHash i == Shake.shake256 key 64

/-- Bedrock accepts an image of a kind (R402). -/
def imageOk (svnmin : BitVec 32) (kind : Nat) (img : List Byte) : Bool :=
  let body := imageBody img
  decide (256 ≤ img.length) && imageField img 0 4 == 0x46584247 && imageField img 4 2 == kind && imageField img 6 2 == 0 &&
    imageField img 251 5 == 0 && imageField img 12 4 == body.length && body.length % 128 == 0 && decide (body.length ≤ 4194304) &&
    imageKeyOk (imageKey img) && Ed448.verify [] (imageKey img) (img.take 80) ((img.drop 80).take 114) &&
    decide (imageField img 8 4 ≥ svnmin.toNat) && imageDigest img == Shake.shake256 body 64

/-! ### The security version (R402) -/

/-- SVNMIN_UPDATE (R402): a signed record of KIND 3 with an empty body. -/
def execSvnminUpdate (record : List (BitVec 8)) (s : State) : Host.Outcome State Fault Refusal :=
  .next (if s.ctl.started && !s.ctl.halted && imageOk s.ctl.svnmin 3 record && (imageBody record).isEmpty then
    { s with ctl := { s.ctl with svnmin := BitVec.ofNat 32 (imageField record 8 4) } } else s)

/-! ### A start (R400) -/

/-- An action of the hardware succeeds. -/
def bootWorks (x : BootInputs) (step unit : Nat) : Bool := !x.normalFails.contains (step, unit)
def bootAltWorks (x : BootInputs) (step unit : Nat) : Bool := !x.altFails.contains (step, unit)

/-- An alarm during a start: the erase is done at once, and under policy 2 the start halts after it (R405). -/
def State.bootAlarm (s : State) (source : Nat) : State :=
  let s := s.fullAlarm source
  if Config.erasePolicy = 2 then { s with ctl := { s.ctl with halted := true } } else s

/-- A failed verification is counted; the third of a start raises the alarm (R402, R404). -/
def State.verifyFailed (s : State) : State :=
  let s : State := { s with ctl := { s.ctl with verifyFails := s.ctl.verifyFails + 1 } }
  if s.ctl.verifyFails ≠ 3 then s else s.bootAlarm 4

/-- A step that verifies an image: copy A, or copy B as its alternate. -/
def State.bootImage (s : State) (x : BootInputs) (step unit kind : Nat) (a b : List Byte) : State × Option (List Byte) :=
  let onAlt := bits (s.ctl.journal.getD (bootIndex step unit) 0) 33 32 == 1
  let good := imageOk s.ctl.svnmin kind (if onAlt then b else a)
  let r := s.bootUnit x step unit (good && bootWorks x step unit) (good && bootAltWorks x step unit)
  if r.2 = .skipped then (r.1, none)
  else if good then (r.1, if r.2.ok then some (imageDigest (if onAlt then b else a)) else none)
  else (r.1.verifyFailed, none)

/-- An excluded field is without power and belongs to no partition (R400). -/
def State.excludeField (s : State) (f : Nat) : State :=
  let s : State := { s with parts := s.parts.mapVal fun q => { q with fields := q.fields &&& ~~~(1#64 <<< f) } }
  s.modHub f fun h => { h with excluded := true, powered := false }

/-- Units of a step, unless the start has halted. -/
def State.eachUnit (s : State) (l : List Nat) (g : State → Nat → State) : State := l.foldl (fun s k => if s.ctl.halted then s else g s k) s

/-- Fields that have not been excluded in this start. -/
def State.fieldsIn (s : State) : List Nat := (List.range Config.numFields).filter fun f => !(s.hub f).excluded

/-- Step 1: the controller's firmware. -/
def State.bootStep1 (s : State) (x : BootInputs) : State :=
  let r := s.bootImage x 1 0 1 x.ctlA x.ctlB
  match r.2 with
  | some d => { r.1 with ctl := { r.1.ctl with ctlDigest := d } }
  | none => { r.1 with ctl := { r.1.ctl with halted := true } }

/-- Step 2: rails and slate. -/
def State.bootStep2 (s : State) (x : BootInputs) : State :=
  s.eachUnit s.fieldsIn fun s f =>
    let r := s.bootUnit x 2 f (bootWorks x 2 f) (bootAltWorks x 2 f)
    if !r.2.ok then r.1.excludeField f else r.1.modHub f fun h => { h with powered := true, railsOff := false, crit := none }

/-- The physical tiles of a field that pass their test, in row-major order. -/
def bootPassing (x : BootInputs) (f : Nat) : List Nat := (List.range Config.physPerField).filter fun k => !x.badTiles.contains (f, k)

/-- Step 4: the 170 tiles of each field are tested, and its logical tiles mapped onto those that pass; it fails where fewer than 160 do
(R3). -/
def State.bootStep4 (s : State) (x : BootInputs) : State :=
  s.eachUnit s.fieldsIn fun s f =>
    let ok := decide (Config.tilesPerField ≤ (bootPassing x f).length)
    let r := s.bootUnit x 4 f ok ok
    if !r.2.ok then r.1.excludeField f else r.1.modHub f fun h => { h with physical := (bootPassing x f).take Config.tilesPerField }

/-- Step 3: the firmware of each field. -/
def State.bootStep3 (s : State) (x : BootInputs) : State :=
  s.eachUnit s.fieldsIn fun s f =>
    let r := s.bootImage x 3 f 2 x.fieldA x.fieldB
    match r.2 with
    | some d => { r.1 with ctl := { r.1.ctl with fieldDigests := r.1.ctl.fieldDigests.set f d } }
    | none => r.1.excludeField f

/-- Step 5: the route tables of each field's tiles are those that boot builds. -/
def State.bootStep5 (s : State) (x : BootInputs) : State :=
  s.eachUnit s.fieldsIn fun s f =>
    let r := s.bootUnit x 5 f (bootWorks x 5 f) (bootAltWorks x 5 f)
    if !r.2.ok then r.1.excludeField f
    else { r.1 with tiles := r.1.tiles.map fun e => if fieldOf e.1 = f then (e.1, { e.2 with n := { e.2.n with routes := [] } }) else e }

/-- Step 6: the stacks. -/
def State.bootStep6 (s : State) (x : BootInputs) : State :=
  s.eachUnit (List.range Config.numRims) fun s a =>
    let r := s.bootUnit x 6 a (bootWorks x 6 a) (bootAltWorks x 6 a)
    r.1.modRim a fun m => { m with excluded := !r.2.ok, conservative := r.2 == .alternate, selfRefresh := false }

/-- Step 7: a tile with a slate to read revives, another starts cold; one that fails stays without power. Then the homes and the agents
outside the tiles go on (R399). -/
def State.bootStep7 (s : State) (x : BootInputs) : State :=
  let s := s.eachUnit (s.fieldsIn.flatMap fieldTiles) fun s t =>
    let r := s.bootUnit x 7 t (bootWorks x 7 t) (bootAltWorks x 7 t)
    if !r.2.ok then (if (r.1.tile t).powered then r.1.setTile t { r.1.tile t with powered := false } else r.1)
    else if (r.1.tile t).powered then r.1 else r.1.revive t
  if s.ctl.halted then s
  else s.fieldsIn.foldl (fun s f => State.resend ((fieldTiles f).foldl (fun s t => s.linesOn t) s) f Agent.notTile) s

/-- Step 8: the host link. -/
def State.bootStep8 (s : State) (x : BootInputs) : State :=
  let r := s.bootUnit x 8 0 (bootWorks x 8 0) (bootAltWorks x 8 0)
  { r.1 with ctl := { r.1.ctl with linkUp := r.2.ok, halted := !r.2.ok } }

/-- Every field of the module loses power. -/
def State.fieldsOff (s : State) : State :=
  (List.range Config.numFields).foldl (fun s f => if (s.hub f).powered then s.loseField f else s) s

/-- The state from which a start runs: a module that was running has lost power (log entry 31: DEDUCED, unsafe), no field has it before step 2; a
pending erasure is completed first (R405). -/
def State.beforeStart (s : State) : State :=
  let s := if s.ctl.started then s.fieldsOff else s
  let s : State := if s.ctl.erasePending then
      State.eraseKeys { s with freeCtr := s.freeCtr + 1 } (secureBytesOf s.freeCtr) else s
  { s with hubs := (List.range Config.numFields).map fun f => (f, { s.hub f with excluded := false, powered := false })
           ctl := { s.ctl with started := true, halted := false, linkUp := false, alarmOff := false, verifyFails := 0, version := false, algorithms := false,
                               vca := [], certs := [], meas := [], response := [], fieldDigests := [] } }

/-- Step k of a start. -/
def State.bootStep (s : State) (x : BootInputs) (k : Nat) : State :=
  match k with
  | 1 => s.bootStep1 x
  | 2 => s.bootStep2 x
  | 3 => s.bootStep3 x
  | 4 => s.bootStep4 x
  | 5 => s.bootStep5 x
  | 6 => s.bootStep6 x
  | 7 => s.bootStep7 x
  | _ => s.bootStep8 x

/-- Step k, with the alarms raised as it begins, unless the start has halted. -/
def State.bootTurn (s : State) (x : BootInputs) (k : Nat) : State :=
  if s.ctl.halted then s
  else
    let s := (x.alarms.filter fun a => a.1 == k && decide (a.2 < 4)).foldl (fun s a => s.bootAlarm a.2) s
    if s.ctl.halted then s else s.bootStep x k

/-- A module that halts, or loses power, runs no further: its fields are without power until the next start (log 81:
DEDUCED, unsafe). -/
def State.haltModule (s : State) : State :=
  let s := s.fieldsOff
  { s with ctl := { s.ctl with halted := true, linkUp := false } }

/-- A start (R400): it ends where a step halts it, or before the step in which power is lost, which writes no entry (R401). -/
def State.start (s : State) (x : BootInputs) : State :=
  let last := match x.lostIn with | some k => min 8 (k - 1) | none => 8
  let s := (List.range last).foldl (fun s k => s.bootTurn x (k + 1)) s.beforeStart
  let s : State := { s with freeCtr := s.freeCtr + 1 }
  if s.ctl.halted || x.lostIn.isSome then s.haltModule else s

/-- MODULE_START (R400). -/
def execModuleStart (inp : BootInputs) (s : State) : Host.Outcome State Fault Refusal := .next (s.start inp)

/-! ### Attestation (R403) -/

/-- An SPDM 1.2 message (log entry 32: PRESUMED, unsafe). -/
def spdmMsg (code p1 p2 : Nat) (body : List Byte) : List Byte := [0x12, BitVec.ofNat 8 code, BitVec.ofNat 8 p1, BitVec.ofNat 8 p2] ++ body

/-- The transcripts of a connection: of its version, capabilities and algorithms, of its certificates, of its measurements. -/
inductive Script where
  | vca | certs | meas
  deriving DecidableEq, Repr

/-- A transcript, from the connection's beginning. -/
def Ctl.script (c : Ctl) (k : Script) : List Byte :=
  match k with | .vca => c.vca | .certs => c.vca ++ c.certs | .meas => c.vca ++ c.meas

/-- An answer leaves, and joins a transcript with its request; one to another request than GET_MEASUREMENTS ends that of the
measurements. -/
def State.spdmAnswer (s : State) (k : Script) (req resp : List Byte) : State :=
  let c : Ctl := { s.ctl with response := resp, meas := if k = .meas then s.ctl.meas else [] }
  { s with ctl := match k with
    | .vca => { c with vca := c.vca ++ req ++ resp }
    | .certs => { c with certs := c.certs ++ req ++ resp }
    | .meas => { c with meas := c.meas ++ req ++ resp } }

/-- The SPDM error of a code. -/
def State.spdmError (s : State) (code : Nat) : State := { s with ctl := { s.ctl with response := spdmMsg 0x7F code 0 [] } }

/-- UnexpectedRequest (R403). -/
def State.spdmUnexpected (s : State) : State := s.spdmError 0x04

/-- A request reaches the controller; a module that has halted answers none (R400; log 81: DEDUCED, unsafe). -/
def State.spdm (s : State) (f : State → State) : Host.Outcome State Fault Refusal := .next (if s.ctl.halted then s else f s)

/-- SPDM_GET_VERSION: the connection starts anew. -/
def execSpdmGetVersion (req : List (BitVec 8)) (s : State) : Host.Outcome State Fault Refusal :=
  s.spdm fun s => (State.spdmAnswer { s with ctl := { s.ctl with version := true, algorithms := false, vca := [], certs := [], meas := [] } } .vca req [0x10, 0x04, 0, 0, 0, 1, 0x00, 0x12])

/-- The body of CAPABILITIES: CERT_CAP, CHAL_CAP and MEAS_CAP with signatures; its timing exponent and sizes are free values. -/
def capabilitiesBody (req : List Byte) : List Byte :=
  [0, (Config.spdmBody 0x61 req).getD 0 0, 0, 0] ++ toBytes 0x16 4 ++ (List.range 8).map fun k => (Config.spdmBody 0x61 req).getD (k + 1) 0

/-- SPDM_GET_CAPABILITIES. -/
def execSpdmGetCapabilities (req : List (BitVec 8)) (s : State) : Host.Outcome State Fault Refusal :=
  s.spdm fun s => (if s.ctl.version then s.spdmAnswer .vca req (spdmMsg 0x61 0 0 (capabilitiesBody req)) else s.spdmUnexpected)

/-- The body of ALGORITHMS: 36 bytes long in all, DMTF measurements, SHA3-512 for measurements and hashes, EdDSA Ed448, no more. -/
def algorithmsBody : List Byte :=
  toBytes 36 2 ++ [1, 0] ++ toBytes 0x40 4 ++ toBytes 0x800 4 ++ toBytes 0x20 4 ++ List.replicate 16 0

/-- SPDM_NEGOTIATE_ALGORITHMS: Ed448 and SHA3-512 (R403). -/
def execSpdmNegotiateAlgorithms (req : List (BitVec 8)) (s : State) : Host.Outcome State Fault Refusal :=
  s.spdm fun s => (if s.ctl.version then
      State.spdmAnswer { s with ctl := { s.ctl with algorithms := true } } .vca req (spdmMsg 0x63 0 0 algorithmsBody)
    else s.spdmUnexpected)

/-- SPDM_GET_DIGESTS: SHA3-512 of the certificate chain, in slot 0. -/
def execSpdmGetDigests (req : List (BitVec 8)) (s : State) : Host.Outcome State Fault Refusal :=
  s.spdm fun s => (if s.ctl.algorithms then s.spdmAnswer .certs req (spdmMsg 0x01 0 1 (Shake.sha3_512 Config.certChain)) else s.spdmUnexpected)

/-- SPDM_GET_CERTIFICATE: the portion of the chain that the request names; slot 0 alone holds one. -/
def execSpdmGetCertificate (req : List (BitVec 8)) (s : State) : Host.Outcome State Fault Refusal :=
  let part := (Config.certChain.drop (imageField req 4 2)).take (imageField req 6 2)
  let left := Config.certChain.length - imageField req 4 2 - part.length
  s.spdm fun s =>
    if !s.ctl.algorithms then s.spdmUnexpected
    else if req.getD 2 0 ≠ 0 then s.spdmError 0x01
    else s.spdmAnswer .certs req (spdmMsg 0x02 0 0 (toBytes part.length 2 ++ toBytes left 2 ++ part))

/-- The boot journal as bytes. -/
def State.journalBytes (s : State) : List Byte := (List.range 10530).flatMap fun k => toBytes (s.ctl.journal.getD k 0).toNat 8

/-- The contents of measurements 1 to 5 (R403). -/
def State.measurement (s : State) (index : Nat) : List Byte :=
  match index with
  | 1 => Shake.shake256 Config.bedrock 64
  | 2 => s.ctl.ctlDigest
  | 3 => Shake.shake256 ((List.range 64).flatMap fun f => if (s.hub f).excluded then List.replicate 64 0 else s.ctl.fieldDigests.getD f (List.replicate 64 0)) 64
  | 4 => Shake.shake256 s.journalBytes 64
  | _ => toBytes s.ctl.svnmin.toNat 4 ++
      [BitVec.ofNat 8 (((List.range 4).filter Config.keyRevoked).foldl (fun m i => m + 2 ^ i) 0), Config.erasePolicy.setWidth 8]

/-- A mask of the numbers below n that satisfy a condition. -/
def maskOf (n : Nat) (p : Nat → Bool) : Nat := ((List.range n).filter p).foldl (fun m i => m + 2 ^ i) 0

/-- Index 0xF0, the report block (R403). -/
def State.report (s : State) : List Byte :=
  toBytes (maskOf 64 fun f => (s.hub f).excluded) 8 ++ toBytes (maskOf 32 fun a => (s.rim a).excluded) 4 ++ [s.ctl.alarms.setWidth 8] ++
    Shake.shake256 ([1, 2, 3, 4, 5].flatMap s.measurement) 64

/-- A measurement block (R403; log entry 32: PRESUMED, unsafe). -/
def measurementBlock (index kind : Nat) (v : List Byte) : List Byte :=
  [BitVec.ofNat 8 index, 1] ++ toBytes (v.length + 3) 2 ++ [BitVec.ofNat 8 kind] ++ toBytes v.length 2 ++ v

def State.blockOf (s : State) (index : Nat) : List Byte :=
  if index = 0xF0 then measurementBlock index 0x82 s.report
  else measurementBlock index (match index with | 1 => 0 | 5 => 0x82 | 4 => 3 | _ => 1) (s.measurement index)

/-- A nonce of the device, a free value. -/
def State.nonce (s : State) : List Byte × State := (Config.spdmNonce s.freeCtr, { s with freeCtr := s.freeCtr + 1 })

/-- The text that separates the signatures of SPDM 1.2: the version four times, zeros up to 100 bytes with the context. -/
def spdmPrefix (context : List Byte) : List Byte :=
  (List.replicate 4 (textBytes "dmtf-spdm-v1.2.*")).flatten ++ List.replicate (36 - context.length) 0 ++ context
where
  /-- The bytes of an ASCII text. -/
  textBytes (x : String) : List Byte := x.toList.map fun c => BitVec.ofNat 8 c.toNat

def challengeContext : List Byte := spdmPrefix.textBytes "responder-challenge_auth signing"
def measurementContext : List Byte := spdmPrefix.textBytes "responder-measurements signing"

/-- The device can sign: it holds its keys, and no erasure has begun (R403, R405). -/
def Ctl.canSign (c : Ctl) : Bool := c.keysPresent && !c.erasePending

/-- An answer with the attestation key's signature over a transcript: none once an erasure has begun (R403, R405). It ends the transcript. -/
def State.spdmSigned (s : State) (k : Script) (context req body : List Byte) : State :=
  match s.ctl.canSign, s.ctl.keyPairs with
  | true, some keys =>
    let sig := Ed448.sign context keys.2 (spdmPrefix context ++ Shake.sha3_512 (s.ctl.script k ++ req ++ body))
    { s with ctl := { s.ctl with response := body ++ sig, certs := if k = .certs then [] else s.ctl.certs, meas := [] } }
  | _, _ => s.spdmUnexpected

/-- The measurement summary hash of a type (R403; log entry 32: PRESUMED, unsafe): left out for type 0, of the trusted computing base for type 1,
of all for type 0xFF. -/
def State.spdmSummary (s : State) (kind : BitVec 8) : Option (List Byte) :=
  let all := [1, 2, 3, 4, 5, 0xF0]
  if kind = 0 then some []
  else if kind = 1 then some (Shake.sha3_512 ((all.filter Config.spdmTcb).flatMap s.blockOf))
  else if kind = 0xFF then some (Shake.sha3_512 (all.flatMap s.blockOf)) else none

/-- SPDM_CHALLENGE: of slot 0, with the summary hash that the request names. -/
def execSpdmChallenge (req : List (BitVec 8)) (s : State) : Host.Outcome State Fault Refusal :=
  s.spdm fun s =>
    if !s.ctl.algorithms || !s.ctl.canSign then s.spdmUnexpected
    else match req.getD 2 0 == 0, s.spdmSummary (req.getD 3 0) with
      | true, some hash =>
        let r := s.nonce
        r.2.spdmSigned .certs challengeContext req (spdmMsg 0x03 0 1 (Shake.sha3_512 Config.certChain ++ r.1 ++ hash ++ [0, 0]))
      | _, _ => s.spdmError 0x01

/-- The blocks a request asks for: all for index 0xFF, none but their number for 0. -/
def spdmIndices (index : BitVec 8) : Option (List Nat) :=
  if index = 0 then some []
  else if index = 0xFF then some [1, 2, 3, 4, 5, 0xF0]
  else if index.toNat ≤ 5 ∨ index = 0xF0 then some [index.toNat] else none

/-- SPDM_GET_MEASUREMENTS: one that is signed needs the keys, and names slot 0 behind its nonce. -/
def execSpdmGetMeasurements (req : List (BitVec 8)) (index : BitVec 8) (signed : Bool) (s : State) : Host.Outcome State Fault Refusal :=
  s.spdm fun s =>
    if !s.ctl.algorithms || (signed && !s.ctl.canSign) then s.spdmUnexpected
    else match signed && (req.getD 36 0).toNat % 16 != 0, spdmIndices index with
      | false, some l =>
        let blocks := l.flatMap s.blockOf
        let r := s.nonce
        let body := spdmMsg 0x60 (if index = 0 then 6 else 0) 0 (BitVec.ofNat 8 l.length :: toBytes blocks.length 3 ++ blocks ++ r.1 ++ [0, 0])
        if signed then r.2.spdmSigned .meas measurementContext req body else r.2.spdmAnswer .meas req body
      | _, _ => s.spdmError 0x01

end Sys2Proof.Machine
end

