-- ==== Sys2Proof/Machine/Host.lean ====
section
/-! DEFINITION. The host interface (R366 to R375, R380): BAR4, the publish window, page-table writes and invalidations, subscriptions
and their deliveries, register writes and reads (R369, R370, R406, R426), function-level reset, single steps (R422). -/

namespace Sys2Proof.Machine

/-- A virtual function, of those of enabled partitions (R367); nothing reaches a module whose start has halted (R400). -/
def onVf (p : Nat) (s : State) (f : State → State) : Host.Outcome State Fault Refusal :=
  if p < 64 then .next (if (s.vf p).enabled && !s.ctl.halted then f s else s) else .fault .noSuchUnit

/-- A partition, by the physical function; nothing reaches a module whose start has halted (R400). -/
def onPart (p : Nat) (s : State) (f : State → State) : Host.Outcome State Fault Refusal :=
  if p < 64 then .next (if s.ctl.halted then s else f s) else .fault .noSuchUnit

/-! ### BAR4 and BAR2 (R142, R368, R371) -/

/-- The virtual address of a BAR4 offset (R370). -/
def Vf.bar4 (f : Vf) (off : BitVec 64) : Nat := bits f.b4base 55 36 * 2 ^ 36 + off.toNat % 2 ^ 36

/-- An access takes its place behind the earlier ones of its function. -/
def State.enqueue (s : State) (p : Nat) (x : Posted) : State :=
  State.postsOn (s.modVf p fun f => { f with posted := f.posted ++ [x] }) p

/-- BAR4_READ (R142). -/
def execBar4Read (p : Nat) (off : BitVec 64) (len : Nat) (s : State) : Host.Outcome State Fault Refusal :=
  onVf p s fun s => s.enqueue p (.read ((s.vf p).bar4 off) len)

/-- BAR4_WRITE (R142). -/
def execBar4Write (p : Nat) (off : BitVec 64) (bytes : List (BitVec 8)) (s : State) : Host.Outcome State Fault Refusal :=
  onVf p s fun s => s.enqueue p (.write ((s.vf p).bar4 off) bytes)

/-- HSTAT bits set (R370). -/
def State.stat (s : State) (p : Nat) (b : W64) : State := s.modVf p fun f => { f with hstat := f.hstat ||| b }

/-- A header is dropped: ERR of its slot, and BADACC (R371). -/
def State.headerDropped (s : State) (p slot : Nat) : State :=
  (s.modVf p fun f => { f with err := f.err ||| slotBit slot }).stat p 4

/-- A header write (R371): to a busy slot it is dropped. -/
def State.writeHeader (s : State) (p slot : Nat) (w0 w1 w2 w3 : W64) : State :=
  if (s.vf p).busy.getLsbD slot then s.headerDropped p slot
  else State.enqueue (s.modVf p fun f => f.takeSlot slot) p (.header slot w0 w1 w2 w3)

/-- PUBLISH_HEADER_PAYLOAD (R371, R372): a header with SRC 0. -/
def execPublishHeaderPayload (p : Nat) (slot : BitVec 4) (w0 w1 w2 w3 : BitVec 64) (s : State) : Host.Outcome State Fault Refusal :=
  onVf p s fun s => s.writeHeader p slot.toNat w0 w1 (w2 &&& ~~~0x10000#64) w3

/-- PUBLISH_HEADER_GLOBAL (R371, R372): a header with SRC 1. -/
def execPublishHeaderGlobal (p : Nat) (slot : BitVec 4) (w0 w1 w2 w3 : BitVec 64) (s : State) : Host.Outcome State Fault Refusal :=
  onVf p s fun s => s.writeHeader p slot.toNat w0 w1 (w2 ||| 0x10000#64) w3

/-! ### Translation (R370, R375) -/

/-- A physical address that HPTEDATA may write (R375). -/
def State.pteOk (s : State) (p : Nat) (pa : Nat) : Bool :=
  pa % 8 == 0 && decide (pa < 2 ^ 41) && (s.part p).inQuota pa && !(s.rim (pa / stackBytes)).excluded

/-- HPTEDATA_WRITE (R375); the write waits for a stack in self-refresh (R416). -/
def execHptedataWrite (p : Nat) (data : BitVec 64) (s : State) : Host.Outcome State Fault Refusal :=
  onVf p s fun s =>
    let pa := (s.vf p).pteaddr.toNat
    if s.pteOk p pa && s.asleep pa then s
    else if s.pteOk p pa then { s with hbm := s.hbm.writeBytes pa (toBytes data.toNat 8) } else s.stat p 2

/-- HTLBINV_ASID (R370). -/
def execHtlbinvAsid (p : Nat) (s : State) : Host.Outcome State Fault Refusal := onVf p s fun s => s.htlbinv p 1 0

/-- HTLBINV_PAGE (R370). -/
def execHtlbinvPage (p : Nat) (va : BitVec 64) (s : State) : Host.Outcome State Fault Refusal :=
  onVf p s fun s => s.htlbinv p 2 (bits va 55 16 * 65536)

/-! ### Subscriptions (R373) -/

/-- The field checks of an entry, R313 and R77 (R373). -/
def subOk (q : Partition) (w0 w1 w2 w3 : W64) : Bool :=
  let e : HostSub := { w2 := w2 }
  let n := nameOf w0 w1
  match nameCheck q 63 w0 w1 e.mask false false, q.binding n.ns n.tensor with
  | none, some b => maskOk b e.mask && decide (e.mode ≠ 3) && (e.mode != 2 || e.mask == 0) && decide (bits w2 8 6 ≠ 7) &&
      bits w2 62 33 == 0 && bits w2 11 9 == 0 && bits w3 11 0 == 0 && decide (bits w2 21 12 ≥ b.tilesec + 1)
  | _, _ => false

/-- The registrations of an entry (R77, R88, R373). -/
def State.subMsgs (s : State) (p i : Nat) (e : HostSub) : List NameMsg :=
  let m : NameMsg := { ver := nameVer e.lo, who := .gateway p, taskId := 0xFFFFFFFF, slot := i, word := w64 e.gen }
  if e.mode = 2 then [{ m with name := e.name, stream := true, credit := e.ring }]
  else match (s.part p).binding e.name.ns e.name.tensor with
    | some b => (b.regKeys e.name e.mask).map fun k => { m with name := k.1, mask := k.2.1, next := decide (e.mode = 1), sect := k.2.2 }
    | none => []

/-- An armed stream asks its home for every element that a free ring slot can take (R374: a returned slot is a credit); over a link that is
down its subscription takes SUBLAPSE (R379). -/
def State.subAsk (s : State) (p i : Nat) : Nat → State
  | 0 => s
  | fuel + 1 =>
    match (s.vf p).subs.get? i with
    | none => s
    | some e =>
      let ci := ((s.vf p).ci.getD i 0).setWidth 32
      if e.armed && !e.closing && decide (e.mode = 2) && decide ((BitVec.ofNat 32 (e.base + e.asked) - ci).toNat < e.ring) then
        if s.linkDown p e.name then
          (s.subMsgs p i e).foldl (fun s m => (s.count p 7 1).failSub ((s.part p).tileAt 0) m { cause := .sublapse }) s
        else
          let s := (s.subMsgs p i e).foldl (fun s m =>
            s.toHome (.gateway p) p .rerequest { m with ver := m.ver + BitVec.ofNat 16 e.asked, index := e.asked }) s
          State.subAsk (s.modVf p fun f => { f with subs := f.subs.adjust i fun e => { e with asked := e.asked + 1 } }) p i fuel
      else s

/-- The entry is armed with its name words and its registrations leave. -/
def State.subArm (s : State) (p i : Nat) (e : HostSub) (op : NameOp) : State :=
  let e := { e with gen := e.gen + 1 }
  let s := s.modVf p fun f => { f with subs := f.subs.set i { e with armed := true, w1Written := false, left := 0 } }
  ((s.subMsgs p i e).foldl (fun s m => s.toHome (.gateway p) p op m) s).subAsk p i 65

/-- The prunes of an armed entry leave (R373); `accepted` marks their acknowledgements. -/
def State.subPrune (s : State) (p i : Nat) (e : HostSub) : State :=
  (s.subMsgs p i e).foldl (fun s m => s.toHome (.gateway p) p .prune { m with accepted := true, origin := 1 }) s

/-- Word 2 as it is held: its reserved fields [62:33] and [11:9] read zero (R11, R373). -/
def subWord (w2 : W64) : W64 := w2 &&& 0x80000001FFFFF1FF

/-- A write of word 2 with V = 1 (R373). To an armed and satisfied entry whose word 1 has not been written, or that is being withdrawn, it
changes nothing (log 78: DESIGN CHOICE, unsafe). -/
def State.hsubArm (s : State) (p i : Nat) (w2 : W64) : State :=
  let e := (s.vf p).subs.getD i {}
  let w2 := w2 ||| (1#64 <<< 63)
  if e.armed && !s.subSatisfied p e then s
  else if e.armed && (!e.w1Written || e.closing) then s
  else if !subOk (s.part p) e.w0 e.w1 w2 e.w3 then
    State.stat ((if e.armed then s.subPrune p i e else s).modVf p fun f => { f with subs := f.subs.set i { e with w2 := subWord w2 &&& ~~~(1#64 <<< 63), armed := false } }) p 0x10
  else if e.armed then s.subArm p i { e with w2 := w2, hi := e.w0, lo := e.w1, base := e.count } .rearm
  else
    (s.modVf p fun f => { f with ci := f.ci.set i 0 }).subArm p i { e with w2 := w2, hi := e.w0, lo := e.w1, count := 0, base := 0, asked := 0, closing := false } .reg

/-- HSUB_ARM (R373). -/
def execHsubArm (p entry : Nat) (w2 : BitVec 64) (s : State) : Host.Outcome State Fault Refusal :=
  onVf p s fun s => if entry < 256 then s.hsubArm p entry w2 else s

/-- Word 2 of an entry with its V bit as given. -/
def withV (w2 : W64) (v : Bool) : W64 := if v then subWord w2 ||| (1#64 <<< 63) else subWord w2 &&& ~~~(1#64 <<< 63)

/-- A write of word 2 with V = 0 (R9, R373): the word's other fields take the values written, and an armed entry is pruned; its V reads 1
until every delivery in flight has landed, by the word as it now stands (log 78: DESIGN CHOICE,
unsafe). -/
def State.hsubWithdraw (s : State) (p i : Nat) (w2 : W64) : State :=
  let e := (s.vf p).subs.getD i {}
  let s' := s.modVf p fun f => { f with subs := f.subs.set i { e with w2 := withV w2 e.armed } }
  if !e.armed || e.closing then s'
  else
    let going := { e with w2 := withV w2 true, closing := true, left := (s.subMsgs p i e).length }
    ((s.modVf p fun f => { f with subs := f.subs.set i going }).subPrune p i e).subClosed p i

/-- HSUB_WITHDRAW (R373). -/
def execHsubWithdraw (p : Nat) (entry : SubWrite) (s : State) : Host.Outcome State Fault Refusal :=
  onVf p s fun s => if entry.index < 256 then s.hsubWithdraw p entry.index entry.w2 else s

/-- HSUBCI_WRITE (R374): ring slots come back, and a stream asks for further elements. -/
def execHsubciWrite (p entry : Nat) (ci : BitVec 32) (s : State) : Host.Outcome State Fault Refusal :=
  onVf p s fun s => if entry < 256 then State.subAsk (s.modVf p fun f => { f with ci := f.ci.set entry (ci.setWidth 64) }) p entry 65 else s

/-! ### Deliveries (R374) -/

/-- Header words of a delivery (R374). -/
def deliveryHeader (b : Binding) (k : Nat) (x : NameMsg) : List W64 :=
  [x.name.hi, x.name.lo x.ver,
   w64 ((k + 1) % 2 ^ 32 + b.tilesec * 2 ^ 32 + b.fs.toNat * 2 ^ 42 + (if x.accepted then 2 ^ 47 else 0) +
     (if x.fallthrough then 2 ^ 48 else 0) + (if x.reduction then 2 ^ 49 else 0)), x.tick, 0, 0, 0, 0]

/-- The host address space of a function (R374): each function has its own IOVAs. -/
def iova (p a : Nat) : Nat := p * 2 ^ 64 + a % 2 ^ 64

/-- The copy is the one that the entry delivers next: the next name in order, or the next element of its stream (R374). -/
def State.nextCopy (s : State) (p : Nat) (e : HostSub) (x : NameMsg) : Bool :=
  let k := e.count - e.base
  e.closing || (if e.mode = 2 then x.ver == nameVer e.lo + BitVec.ofNat 16 k else (s.subNames p e)[k]? == some x.name)

/-- The tile, its header and the MSI-X message are written (R374). -/
def State.hostWrite (s : State) (p i : Nat) (e : HostSub) (x : NameMsg) : State :=
  let b := ((s.part p).binding x.name.ns x.name.tensor).getD {}
  let a := bits e.w3 63 12 * 4096 + e.count % e.ring * (bits e.w2 21 12 * 128)
  let mem := (s.hostMem.writeBytes (iova p (a + 128)) (x.bytes.take (b.tilesec * 128))).writeBytes (iova p a)
    ((deliveryHeader b e.count x).flatMap fun w => toBytes w.toNat 8)
  let s : State := { s with hostMem := mem, msix := s.msix ++ [(p, bits e.w2 32 22)] }
  let s := s.modVf p fun f => { f with subs := f.subs.set i { e with count := e.count + 1 } }
  if isFaultName x.name then s.releaseSeen p else s

/-- HOST_DELIVERY (R374): the next delivery of entry i, while its ring has room; one of an arming that is over is dropped (R374, R380). -/
def execHostDelivery (p i : Nat) (s : State) : Host.Outcome State Fault Refusal :=
  onVf p s fun s =>
    let e := (s.vf p).subs.getD i {}
    let copy (m : Msg) : Option NameMsg := match m.dst, m.body with
      | .gateway q, .name .copy x => if q = p ∧ x.slot = i then some x else none
      | _, _ => none
    let old (x : NameMsg) : Bool := !e.armed || x.word != w64 e.gen
    let ok (m : Msg) : Bool := match copy m with | some x => old x || s.nextCopy p e x | none => false
    let k := s.net.findIdx ok
    match (s.net[k]?).bind copy with
    | none => s
    | some x =>
      if old x then (s.dropMsg k).subClosed p i
      else if (BitVec.ofNat 32 e.count - ((s.vf p).ci.getD i 0).setWidth 32).toNat ≥ e.ring then s
      else State.subClosed ((s.dropMsg k).hostWrite p i e x) p i

/-! ### Function-level reset (R380) -/

/-- What a function-level reset does. -/
def State.resetVf (s : State) (p : Nat) : State :=
  let s := (s.vf p).subs.foldl (fun s e => if e.2.armed && !e.2.closing then s.subPrune p e.1 e.2 else s) s
  let mine (m : Msg) : Bool := match m.dst, m.body with | .gateway q, .name .copy _ => q == p | _, _ => false
  let s : State := { s with net := s.net.filter fun m => !mine m }
  let header (x : Posted) : Bool := match x with | .header _ _ _ _ _ => true | _ => false
  let s := (s.vf p).captures.foldl (fun s c => s.launchGone p c) s
  s.modVf p fun f => { f with
    subs := f.subs.mapVal fun e => { e with armed := false, closing := false, left := 0, w2 := e.w2 &&& ~~~(1#64 <<< 63) }
    ci := [], b4base := 0, hstat := f.hstat &&& 1, payload := [], busy := 0, err := 0, captures := [], headers := [], slotUse := []
    posted := f.posted.filter fun x => !header x }

/-- FUNCTION_LEVEL_RESET (R366, R380): of virtual function p, or of physical function 0 for p = 64, to which R380 gives no effect (log
79: DESIGN CHOICE, unsafe). -/
def execFunctionLevelReset (p : Nat) (s : State) : Host.Outcome State Fault Refusal :=
  if p = 64 then .next s else onVf p s fun s => s.resetVf p

/-! ### Register writes (R368 to R370, R373, R378, R406, R422, R426) -/

/-- Bits of a word under a mask. -/
def masked (old new mask : W64) : W64 := (old &&& ~~~mask) ||| (new &&& mask)

/-- Offsets from which a virtual function's BAR2 is addressed here, beyond its BAR0. -/
def bar2Base : Nat := 0x200000

/-- A write into the publish window other than a header of 32 B (R371). -/
def State.bar2Write (s : State) (p off size : Nat) (data : W64) : State :=
  let slot := off / 0x20000 % 16
  let o := off % 0x20000
  if o < 32 then s.headerDropped p slot
  else if o < 0x10000 ∨ (s.vf p).busy.getLsbD slot then s
  else s.modVf p fun f => { f with payload := f.payload.writeBytes off (toBytes data.toNat (min size 8)) }

/-- A write of BAR0 of a virtual function, 8 B and aligned. -/
def State.vfWrite (s : State) (p off : Nat) (v : W64) : State :=
  if off = 0x0008 then s.modVf p fun f => { f with hstat := f.hstat &&& ~~~(v &&& 0x1F6) }
  else if off = 0x0018 then s.modVf p fun f => { f with err := f.err &&& ~~~(v.setWidth 16) }
  else if off = 0x0028 then s.modVf p fun f => { f with pteaddr := v &&& 0x3FFFFFFFFFF }
  else if off = 0x0048 then s.modVf p fun f => { f with b4base := v &&& 0x00FFFFF000000000 }
  else if 0x4000 ≤ off ∧ off < 0x6000 then
    let i := (off - 0x4000) / 32
    s.modVf p fun f =>
      let e := f.subs.getD i {}
      match (off - 0x4000) / 8 % 4 with
      | 0 => { f with subs := f.subs.set i { e with w0 := v } }
      | 1 => { f with subs := f.subs.set i { e with w1 := v, w1Written := true } }
      | 3 => { f with subs := f.subs.set i { e with w3 := v } }
      | _ => f
  else if 0x8000 ≤ off ∧ off < 0x10000 then s.modVf p fun f => { f with msixTable := f.msixTable.writeBytes (off - 0x8000) (toBytes v.toNat 8) }
  else s

/-- A write of a partition's block of four registers (R406). -/
def State.partWrite (s : State) (off : Nat) (v : W64) : State :=
  s.modPart ((off - 0x1000) / 32) fun q =>
    match (off - 0x1000) / 8 % 4 with
    | 0 => if q.st = 0 then { q with fields := v } else q
    | 1 => if q.st = 0 then { q with asidReg := v.extractLsb' 32 16 } else q
    | 2 => { q with qbase := v.extractLsb' 32 32, qsize := v.setWidth 32 }
    | _ => { q with wdlim := v.extractLsb' 32 32, cap := v.extractLsb' 16 16 }

/-- A write of BAR0 of physical function 0, 8 B and aligned. -/
def State.pfWrite (s : State) (off : Nat) (v : W64) : State :=
  if off = 0x0100 then { s with pf := { s.pf with tilecap := v.setWidth 16 } }
  else if off = 0x0108 then { s with pf := { s.pf with slew := v.setWidth 16 } }
  else if off = 0x0110 then
    let w := bits v 23 16
    let t := bits v 15 8
    let c := bits v 7 0
    if w < t ∧ t < c ∧ c ≤ 125 then
      { s with pf := { s.pf with warn := BitVec.ofNat 8 w, thr := BitVec.ofNat 8 t, crit := BitVec.ofNat 8 c } }
    else s
  else if 0x0400 ≤ off ∧ off < 0x0480 then { s with pf := { s.pf with leak := s.pf.leak.set ((off - 0x0400) / 8) (v &&& 0xFFFF) } }
  else if off = 0x0600 then { s with pf := { s.pf with lifesel := v &&& 0x80000000003FFFFF } }
  else if 0x1000 ≤ off ∧ off < 0x1800 then s.partWrite off v
  else if 0x6000 ≤ off ∧ off < 0x6800 ∧ off % 32 = 0 then
    s.modPart ((off - 0x6000) / 32) fun q => { q with hdctl := v &&& 0xFFFFFFFF000F0001, snapTick := s.quartz }
  else if 0x8000 ≤ off ∧ off < 0x10000 then
    s.modPart ((off - 0x8000) / 0x200) fun q => { q with spanNs := q.spanNs.set ((off - 0x8000) / 8 % 64) (v &&& 0x8FFFFFE000000000) }
  else if 0x10000 ≤ off ∧ off < 0x18000 then
    { s with pf := { s.pf with msixTable := s.pf.msixTable.writeBytes (off - 0x10000) (toBytes v.toNat 8) } }
  else s

/-! ### Register reads (R369, R370, R373, R378, R406, R424, R426) -/

/-- What a read of BAR0 of a virtual function gives, 8 B and aligned. -/
def State.vfRead (s : State) (p off : Nat) : W64 :=
  let f := s.vf p
  if off = 0x0000 then w64 (0x6410 * 65536 + p)
  else if off = 0x0008 then f.hstat ||| (if s.tlbBusy p then 8 else 0)
  else if off = 0x0010 then f.busy.setWidth 64
  else if off = 0x0018 then f.err.setWidth 64
  else if off = 0x0028 then f.pteaddr
  else if off = 0x0048 then f.b4base
  else if 0x0800 ≤ off ∧ off < 0x0A00 then (s.part p).spanNs.getD ((off - 0x0800) / 8) 0
  else if 0x4000 ≤ off ∧ off < 0x6000 then
    let e := f.subs.getD ((off - 0x4000) / 32) {}
    match (off - 0x4000) / 8 % 4 with | 0 => e.w0 | 1 => e.w1 | 2 => e.w2 | _ => e.w3 &&& ~~~0xFFF#64
  else if 0x6000 ≤ off ∧ off < 0x6800 then f.ci.getD ((off - 0x6000) / 8) 0
  else if 0x8000 ≤ off ∧ off < 0x10000 then w64 (fromBytes (f.msixTable.readBytes (off - 0x8000) 8))
  else 0

/-- The life-store word that HLIFESEL selects (R426, R427). -/
def State.lifeWord (s : State) : W64 :=
  let i := bits s.pf.lifesel 15 0
  if s.pf.lifesel.getLsbD 63 then
    if i < 10530 then s.ctl.journal.getD i 0 else if 0x8000 ≤ i ∧ i < 0x8010 then w64 (s.ctl.replays.getD (i - 0x8000) 0) else 0
  else if i < 0x40 then w64 ((s.hub (bits s.pf.lifesel 21 16)).life.getD i 0) else 0

/-- What a read of BAR0 of physical function 0 gives, 8 B and aligned. -/
def State.pfRead (s : State) (off : Nat) : W64 :=
  if off = 0x0100 then s.pf.tilecap.setWidth 64
  else if off = 0x0108 then s.pf.slew.setWidth 64
  else if off = 0x0110 then w64 (s.pf.warn.toNat * 65536 + s.pf.thr.toNat * 256 + s.pf.crit.toNat)
  else if 0x0200 ≤ off ∧ off < 0x0400 then let h := s.hub ((off - 0x0200) / 8); w64 (h.level * 65536 + h.temp.toNat)
  else if 0x0400 ≤ off ∧ off < 0x0480 then w64 (s.leakEntry ((off - 0x0400) / 8))
  else if off = 0x0600 then s.pf.lifesel
  else if off = 0x0608 then s.lifeWord
  else if 0x1000 ≤ off ∧ off < 0x1800 then
    let q := s.part ((off - 0x1000) / 32)
    match (off - 0x1000) / 8 % 4 with
    | 0 => q.fields
    | 1 => w64 (q.st * 2 ^ 62 + q.err.toNat * 2 ^ 48 + q.asidReg.toNat * 2 ^ 32)
    | 2 => w64 (q.qbase.toNat * 2 ^ 32 + q.qsize.toNat)
    | _ => w64 (q.wdlim.toNat * 2 ^ 32 + q.cap.toNat * 2 ^ 16)
  else if 0x2000 ≤ off ∧ off < 0x6000 then (s.part ((off - 0x2000) / 256)).counters.getD ((off - 0x2000) / 8 % 32) 0
  else if 0x6000 ≤ off ∧ off < 0x6800 ∧ off % 32 = 0 then (s.part ((off - 0x6000) / 32)).hdctl
  else if 0x8000 ≤ off ∧ off < 0x10000 then (s.part ((off - 0x8000) / 0x200)).spanNs.getD ((off - 0x8000) / 8 % 64) 0
  else if 0x10000 ≤ off ∧ off < 0x18000 then w64 (fromBytes (s.pf.msixTable.readBytes (off - 0x10000) 8))
  else 0

/-- A read of BAR0, with its size (R368, R369): one that is not 8 B and aligned gives zero, and a virtual function notes it. No event of
the table reads a register: the answer goes to the host. -/
def State.registerRead (s : State) (fn : HostFn) (off size : Nat) : W64 × State :=
  let good : Bool := size == 8 && off % 8 == 0
  match fn with
  | .pf => (if good then s.pfRead off else 0, s)
  | .vf p => if !(s.vf p).enabled then (0, s) else if good then (s.vfRead p off, s) else (0, s.stat p 4)

/-! ### Single steps and the journal (R422, R426) -/

/-- HDSTEP_ARM (R422): a new write replaces an armed step. -/
def execHdstepArm (p : Nat) (w : BitVec 64) (s : State) : Host.Outcome State Fault Refusal :=
  onPart p s fun s => s.modPart p fun q => { q with hdstep := some (bits w 13 0, bits w 21 16) }

/-- HDSTEP_DISARM (R422). -/
def execHdstepDisarm (p : Nat) (s : State) : Host.Outcome State Fault Refusal :=
  onPart p s fun s => s.modPart p fun q => { q with hdstep := none }

/-- HJCLR (R426): ATTEMPTS, NEXT and STICKY of a journal entry become 0. -/
def execHjclr (entry : BitVec 16) (s : State) : Host.Outcome State Fault Refusal :=
  .next (if s.ctl.halted then s else
    { s with ctl := { s.ctl with journal := s.ctl.journal.adjust entry.toNat fun w => w &&& 0xFFFFC03C0000FFFF } })

end Sys2Proof.Machine
end

