-- ==== Sys2Proof/Machine/Partitions.lean ====
section
/-! DEFINITION. Partitions (R74, R406 to R408), the loader (R376, R377), snapshots of the counters (R425). -/

namespace Sys2Proof.Machine

/-! ### Creation (R407) -/

/-- The first check that a creation fails (R407): 0 where it passes (log 75: DEDUCED, unsafe). -/
def State.createErr (s : State) (p : Nat) : Nat :=
  let q := s.part p
  let others := s.parts.filter fun e => e.1 != p && e.2.st != 0
  let bad (f : Nat) : Bool := (s.hub f).excluded || others.any fun e => e.2.fields.getLsbD f
  let base := q.qbase.toNat
  let top := base + q.qsize.toNat
  let meets (o : Partition) : Bool := decide (base < o.quota.1 + o.quota.2 ∧ o.quota.1 < top)
  if q.st ≠ 0 then 1
  else if q.fields = 0 ∨ q.fieldList.any bad then 2
  else if q.qsize = 0 ∨ top > 1024 ∨ others.any (fun e => meets e.2) then 3
  else 0

/-- The bindings of namespace 0x000 (R74, R376, R418, R425). -/
def systemBindings : List Binding :=
  [(1, 1), (2, 512), (3, 1), (4, 2)].map fun (e : Nat × Nat) => { kind := 1, tensor := BitVec.ofNat 20 e.1, tilesec := e.2 }

/-- What a creation makes of the partition's registers: the identity is taken from them, and the quota recorded (R407 step 3). -/
def Partition.fresh (q : Partition) : Partition :=
  { q with
    st := 2, err := 0, asid := q.asidReg, quota := (q.qbase.toNat, q.qsize.toNat), ptroot := 0, counters := [], bindings := systemBindings, nextLaunch := 0, launches := []
    launchSeen := [], loader := [], stalls := [], taskIds := [], hdstep := none }

/-- The tiles of a partition that have rails start with power (R407 step 2). -/
def State.startTiles (s : State) (p : Nat) : State :=
  let mine (e : Nat × Tile) : Bool := s.agentOf p (.tile e.1) && s.railsUp e.1
  { s with tiles := s.tiles.filter fun e => !mine e || e.2.powered }

/-- An accepted creation (R407): state 1 is passed within the event. The loader holds frame 63 of the lowest tile (R377). -/
def State.create (s : State) (p : Nat) : State :=
  let s := ((((s.wipeWay p).wipeTiles p).wipeHubs p).startTiles p).modPart p fun q => { q.fresh with snapTick := s.quartz }
  let s : State := { s with vfs := s.vfs.set p { enabled := true, hstat := 1 } }
  s.modFrame ((s.part p).tileAt 0) 63 fun fr => { fr with st := .active, part := p, task := { fr.task with taskId := 0xFFFFFFFF } }

/-- CMD 1 (R407). -/
def State.createCmd (s : State) (p : Nat) : State :=
  let e := s.createErr p
  if e = 0 then s.create p else s.modPart p fun q => { q with err := BitVec.ofNat 8 e }

/-- HPCTL_CREATE (R407). -/
def execHpctlCreate (p : Nat) (s : State) : Host.Outcome State Fault Refusal := onPart p s fun s => s.createCmd p

/-! ### Destruction (R408) -/

/-- CMD 2 (R408, R417): the function is disabled, and the rest follows once nothing holds it. -/
def State.destroyCmd (s : State) (p : Nat) : State :=
  if (s.part p).st ≠ 2 then s.modPart p fun q => { q with err := 1 }
  else
    let s := (s.resetVf p).modVf p fun f => { f with enabled := false, hstat := 0 }
    State.destroyOn (s.modPart p fun q => { q with st := 3, err := 0 }) p

/-- HPCTL_DESTROY (R408). -/
def execHpctlDestroy (p : Nat) (s : State) : Host.Outcome State Fault Refusal := onPart p s fun s => s.destroyCmd p

/-! ### Register writes (R9) -/

/-- A write of a register of physical function 0; one of HPCTL takes ASID, then its CMD (R406). Of a CMD 1 that fails a check nothing but
ERR is written (R407). -/
def State.pfCommand (s : State) (off : Nat) (v : W64) : State :=
  let s' := s.pfWrite off v
  let p := (off - 0x1000) / 32
  if 0x1000 ≤ off ∧ off < 0x1800 ∧ off / 8 % 4 = 1 then
    match bits v 57 56 with
    | 1 => if s.createErr p = 0 then s'.createCmd p else s.createCmd p
    | 2 => s'.destroyCmd p
    | _ => s'
  else s'

/-- REGISTER_WRITE (R9): a write to a register without behaviour of its own; the others have events of their own. A malformed access
is ignored, and noted by a virtual function (R368, R369). -/
def execRegisterWrite (fn : HostFn) (off size : Nat) (data : BitVec 64) (s : State) : Host.Outcome State Fault Refusal :=
  match fn with
  | .pf => .next (if s.ctl.halted then s else if size = 8 ∧ off % 8 = 0 then s.pfCommand off data else s)
  | .vf p => onVf p s fun s =>
    if bar2Base ≤ off then s.bar2Write p (off - bar2Base) size data
    else if size = 8 ∧ off % 8 = 0 then s.vfWrite p off data else s.stat p 4

/-! ### The loader (R376, R377) -/

/-- The tile that holds the loader. -/
def State.loaderTile (s : State) (p : Nat) : Nat := (s.part p).tileAt 0

/-- The record that the loader publishes for entry k of launch version v (R377, R382). -/
def State.loaderRecord (s : State) (p v k : Nat) (i : FaultInfo) : State :=
  s.taskRecord (.tile (s.loaderTile p)) p 3 0xFFFFFFFF { i with cw4 := w64 (v % 65536 * 65536 + k % 65536) }

/-- A binding record of a launch, as by NSBIND (R377 step 1). -/
def State.launchBind (s : State) (p v k : Nat) (l : List Byte) : State :=
  let b := Machine.bindingOf l
  if bindingOk l && bindChangeOk (s.part p) b then s.modPart p fun q => q.bind b
  else s.loaderRecord p v k { cause := .namecfg, cw2 := b.nameHi }

/-- The task entries of a launch: each record has its subscription entries behind it (R219, R376); behind a record whose SUBCNT is 0 comes
the next one at once (log 82: DESIGN CHOICE, unsafe). -/
def taskEntries (l : List Byte) : Nat → List (List Byte)
  | 0 => []
  | n + 1 =>
    let k := 64 + 32 * (bits (wordAt l 0) 8 2 - 1)
    l.take k :: taskEntries (l.drop k) n

/-- The loader takes the next version, if it has come: the bindings are applied and its task entries listed with their pairs. -/
def State.takeLaunch (s : State) (p : Nat) : State :=
  let v := (s.part p).nextLaunch
  match (s.part p).launches.find? fun e => e.1 == BitVec.ofNat 16 v with
  | none => s
  | some (x, l) =>
    let nb := bits (wordAt l 0) 15 0
    let nt := bits (wordAt l 0) 31 16
    let s := s.modPart p fun q => { q with launches := q.launches.filter fun e => e.1 != x, nextLaunch := v + 1 }
    let s := (List.range nb).foldl (fun s k => s.launchBind p v k ((l.drop (64 + 64 * k)).take 64)) s
    let ts := taskEntries (l.drop (64 + 64 * nb)) nt
    State.retryHeaders (s.modPart p fun q => { q with
      loader := (List.range ts.length).map fun k => (v % 65536 * 65536 + k, ts.getD k [])
      launchSeen := q.launchSeen.filter fun y => y != x }) p

/-- The loader creates its tasks in order, as TSPAWN does (R377 step 2); it waits where the placement queue is full. -/
def State.loaderTasks (s : State) (p : Nat) (ids : List (BitVec 32)) : List (Nat × List Byte) → State
  | [] => s.modPart p fun q => { q with loader := [] }
  | (key, l) :: rest =>
    let h := fieldOf (s.loaderTile p)
    if !taskOk (s.part p) l then State.loaderTasks (s.loaderRecord p (key / 65536) (key % 65536) { cause := .slotcfg }) p ids rest
    else if (s.hub h).pairs.any fun e => e.1 == 0xFFFFFFFF && e.2.1 == key then State.loaderTasks s p ids rest
    else match (s.part p).taskIds.all (fun x => !ids.head?.toList.contains x), ids with
      | true, id :: more =>
        if (s.hub h).queue.length ≥ 4096 then s.modPart p fun q => { q with loader := (key, l) :: rest }
        else
          let s := s.newTaskId p id
          let s := s.modHub h fun x => { x with
            queue := x.queue ++ [⟨{ taskOf l with taskId := id }, p, 0xFFFFFFFF, key⟩], pairs := x.pairs ++ [(0xFFFFFFFF, key, id)] }
          State.loaderTasks s p more rest
      | _, _ => s.modPart p fun q => { q with loader := (key, l) :: rest }

/-- LOADER_LAUNCH (R377): the loader goes on with the version it has, or takes the next; `ids` are the task ids of its creations. -/
def execLoaderLaunch (p : Nat) (ids : List (BitVec 32)) (s : State) : Host.Outcome State Fault Refusal :=
  onPart p s fun s =>
    if (s.part p).st ≠ 2 ∨ !(s.tile (s.loaderTile p)).powered then s
    else
      let s := if (s.part p).loader.isEmpty then s.takeLaunch p else s
      s.loaderTasks p ids (s.part p).loader

/-! ### Counters (R425) -/

/-- COUNTER_SNAPSHOT (R425): every CPER × 1,024 ticks a partition publishes its counters. -/
def execCounterSnapshot (p : Nat) (s : State) : Host.Outcome State Fault Refusal :=
  onPart p s fun s =>
    let q := s.part p
    let per := bits q.hdctl 63 32 * 1024
    if per = 0 ∨ q.st ≠ 2 ∨ s.quartz < q.snapTick + per then s
    else
      let ws := (List.range 32).map fun i => q.counters.getD i 0
      let src := Agent.hub (q.fieldList.headD 0)
      (s.post src (.tile (s.homeOf p (sysName 4))) .nameData
        (.name .publish { name := sysName 4, who := src, taskId := 0xFFFFFFFF, bytes := ws.flatMap fun w => toBytes w.toNat 8, device := true, tick := s.tick })).modPart p
        fun q => { q with snapTick := q.snapTick + per }

end Sys2Proof.Machine
end

