-- ==== Sys2Proof/Machine/Span.lean ====
section
/-! DEFINITION. Span links (R378, R379): frames, the messages they carry, links that go down and come up. -/

namespace Sys2Proof.Machine

/-- A link of the module. -/
def onLink (l : Nat) (s : State) (f : State → State) : Host.Outcome State Fault Refusal :=
  if l < Config.numSpans then .next (if s.ctl.halted then s else f s) else .fault .noSuchUnit

/-! ### The sender's side (R378) -/

/-- SEQ a stands at or before b, modulo 4,096. -/
def seqUpTo (a b : BitVec 12) : Bool := decide ((b - a).toNat < 2048)

/-- Waiting messages become frames while the link takes them; `peer` is the far partition of each. -/
def Span.fill (x : Span) (peer : Msg → Nat) : Nat → Span
  | 0 => x
  | fuel + 1 =>
    match x.waiting with
    | [] => x
    | (m, _) :: rest => if x.room m then Span.fill (Span.put { x with waiting := rest } (peer m) m) peer fuel else x

/-- Frames that the far side has acknowledged leave the replay buffer, and waiting messages enter it. -/
def Span.acked (x : Span) (peer : Msg → Nat) (ack : BitVec 12) : Span :=
  let y : Span := { x with replay := x.replay.filter fun e => !seqUpTo e.1 ack }
  y.fill peer y.waiting.length

/-- Every frame that is not acknowledged goes out again (R378). -/
def Span.again (x : Span) (peer : Msg → Nat) : Span := x.replay.foldl (fun x e => x.frame e.1 (peer e.2.1) e.2) x

/-- A frame of a class has come in order: SEQ is acknowledged from here on, its buffer is free again, and the far side's count of freed
buffers is taken (R378). -/
def Span.received (x : Span) (seq : BitVec 12) (cls credit : Nat) : Span :=
  let add (p : Nat × Nat) (n : Nat) : Nat × Nat := if cls = 0 then (p.1 + n, p.2) else if cls = 1 then (p.1, p.2 + n) else p
  { x with ack := seq, freed := add x.freed 1, credits := add x.credits credit }

/-! ### The receiver's side (R378, R379) -/

/-- Its bytes join those of its message's flits before it (R378): the message, once none of its flits is still to come. -/
def Span.assemble (x : Span) (cls : Nat) (k : SpanFlit) : Span × Option SpanFlit :=
  let l := (if cls = 0 then x.parts.1 else x.parts.2) ++ k.bytes
  let keep : List Byte := if k.left = 0 then [] else l
  ({ x with parts := if cls = 0 then (keep, x.parts.2) else (x.parts.1, keep) }, if k.left = 0 then some { k with bytes := l } else none)

/-- The message of a flit, as this module's tiles know it. -/
def flitMsg (k : SpanFlit) (who : Agent) : NameMsg :=
  { name := nameOf k.hi k.lo, mask := k.mask, ver := nameVer k.lo, next := k.next, stream := k.stream, credit := k.credit, who := who,
    frame := k.frame, taskId := k.taskId, slot := k.slot, sect := k.sect, router := atDirectory, word := k.word, mode := k.mode,
    index := k.index, bytes := k.bytes, tick := k.tick, late := k.late, overflow := k.overflow, both := k.both, fallthrough := k.fallthrough, reduction := k.reduction,
    completion := k.completion, accepted := k.accepted, origin := k.origin }

/-- The operation of a message for a home; none for an answer. -/
def homeKind (k : SpanKind) : Option NameOp :=
  match k with
  | .reg => some .reg | .rearm => some .rearm | .prune => some .prune | .claim => some .claim | .claimRel => some .claimRel
  | .retain => some .retain | .coll => some .coll | .publish => some .publish | .piece => some .piece | .rerequest => some .rerequest
  | .regReply | .claimReply | .ack | .copy | .flit | .element | .credit | .detach => none

/-- The operation of an answer; none for a message to a home or of a branch. -/
def answerKind (k : SpanKind) : Option NameOp :=
  match k with
  | .regReply => some .regReply | .claimReply => some .claimReply | .ack => some .ack | .copy => some .copy
  | .reg | .rearm | .prune | .claim | .claimRel | .retain | .coll | .publish | .piece | .rerequest
  | .flit | .element | .credit | .detach => none

/-- The message of a branch that enters its router from the link, on the owner's side (R80, R88, R379): a tile's registration and its prune,
which climb on to the home, and a credit. -/
def State.branchUp (s : State) (link p : Nat) (k : SpanFlit) : Option NameMsg :=
  let r := s.spanRouter p
  let x := { flitMsg k (.span link k.tile) with router := r, port := 5 + link }
  match k.kind with
  | .reg | .prune => if k.tile < Config.numTiles then some { x with path := (s.climbPath r (s.homeOf p x.name)).drop 1 } else none
  | .credit => some { name := x.name, stream := true, ver := x.ver, router := r, port := 5 + link }
  | _ => none

/-- The same on the side that does not own the namespace (R79, R80, R89, R90, R379): a flit, an element, a detach notice, and a prune of what a
registration installed below. -/
def State.branchDown (s : State) (link p : Nat) (k : SpanFlit) : Option NameMsg :=
  let r := s.spanRouter p
  let x := { flitMsg k (.span link 0) with router := r }
  match k.kind with
  | .flit | .element => some x
  | .detach => some { name := x.name, stream := true, ver := x.ver, router := r }
  | .prune =>
    if s.agentOf p (.tile k.tile) then
      let l := (s.treePath r k.tile).drop 1
      some { x with who := .tile k.tile, path := l, port := pathPort r l (.tile k.tile), mode := 1 }
    else none
  | _ => none

/-- The operation of a message of a branch. -/
def branchOp (k : SpanKind) : NameOp :=
  match k with | .prune => .prune | .credit => .credit | .flit => .flit | .element => .element | .detach => .detach | _ => .reg

def SpanKind.data (k : SpanKind) : Bool := k == .publish || k == .piece || k == .flit || k == .element

/-- The entry of a partition that a frame of a link matches: of its namespace, and naming the link and the sender's partition (R379). -/
def Partition.spanMatch (p : Partition) (link : Nat) (peer : BitVec 6) (ns : BitVec 12) : Option W64 :=
  match p.spanEntry ns with
  | some w => if bits w 47 44 = link ∧ bits w 42 37 = peer.toNat ∧ p.st = 2 then some w else none
  | none => none

/-- A span message is dropped, and counted (R378, R379). -/
def State.spanDrop (s : State) (p : Nat) : State := s.count p 10 1

/-- A message reaches its partition: into the tree of its name at the span agent's router, to the home of its name where this module owns
the namespace, or to the tile or gateway (`tile` from 10,240 on) that its answer is for. -/
def State.spanDeliver (s : State) (link p : Nat) (k : SpanFlit) : State :=
  let n := nameOf k.hi k.lo
  let cls : Cls := if SpanKind.data k.kind then .nameData else .nameCtl
  match (s.part p).spanMatch link k.peer n.ns with
  | none => s.spanDrop p
  | some w =>
    let branch := if w.getLsbD 43 then s.branchUp link p k else s.branchDown link p k
    match branch, w.getLsbD 43, homeKind k.kind, answerKind k.kind with
    | some x, _, _, _ => s.post (.span link 0) (.tile (s.spanRouter p)) cls (.name (branchOp k.kind) x)
    | none, true, some op, _ => s.post (.span link 0) (.tile (s.homeOf p n)) cls (.name op (flitMsg k (.span link k.tile)))
    | none, false, _, some op =>
      let who : Agent := if k.tile < Config.numTiles then .tile k.tile else .gateway p
      if s.agentOf p who then s.post (.span link 0) who .reply (.name op (flitMsg k who)) else s.spanDrop p
    | _, _, _, _ => s.spanDrop p

/-- SPAN_FRAME_RECEIVE (R378): a frame whose CRC fails is discarded; its ACK is taken from every other, the rest from the next in order.
A message is delivered with its last flit. -/
def execSpanFrameReceive (link : Nat) (header : BitVec 96) (crcOk : Bool) (flit : Option SpanFlit) (s : State) :
    Host.Outcome State Fault Refusal :=
  onLink link s fun s =>
    if !crcOk || !(s.span link).up then s
    else
      let seq := header.extractLsb' 84 12
      let cls := (header.extractLsb' 69 3).toNat
      let p := (header.extractLsb' 63 6).toNat
      let s := s.modSpan link fun x => x.acked s.peerOf (header.extractLsb' 72 12)
      if seq ≠ (s.span link).ack + 1 then s
      else
        let s := s.modSpan link fun x => x.received seq cls (header.extractLsb' 56 7).toNat
        if cls ≥ 3 then s.spanDrop p
        else match flit with
          | some k =>
            if cls = 2 then s
            else
              let q := (s.span link).assemble cls k
              let s := s.modSpan link fun _ => q.1
              match q.2 with | some k => s.spanDeliver link p k | none => s
          | none => s

/-- SPAN_REPLAY (R378): the frames from the first that is not acknowledged go out again, and the replay is counted. -/
def execSpanReplay (link : Nat) (s : State) : Host.Outcome State Fault Refusal :=
  onLink link s fun s =>
    if !(s.span link).up || (s.span link).replay.isEmpty then s
    else State.modSpan { s with ctl := { s.ctl with replays := s.ctl.replays.set link (s.ctl.replays.getD link 0 + 1) } } link fun x => x.again s.peerOf

/-! ### Links down and up (R379) -/

/-- The branches of a partition's streams that cross a link are detached (R90, R379): on the owner's side the link's port at the span agent's
router; on the other the notice runs on down the branch. -/
def State.cutBranches (s : State) (link p : Nat) : State :=
  let r := s.spanRouter p
  ((s.n r).nmt.filter (·.stream)).foldl (fun s e =>
    let x : NameMsg := { name := e.name, stream := true }
    if s.nameAgent p e.name = .span link 0 then s.post (.span link 0) (.tile r) .nameCtl (.name .detach { x with router := r })
    else if e.cnt.getD (5 + link) 0 != 0 && !e.det.getD (5 + link) false then s.detach r (5 + link) x
    else s) s

/-- A request for stream elements that waits for a link lapses (R379); the elements, credits and notices of a branch that is cut do not cross
it any more. -/
def State.lapseWaiting (s : State) (link : Nat) : State :=
  let isReq (e : Msg × Nat) : Bool := match e.1.body with | .name .rerequest _ => true | _ => false
  let isCut (e : Msg × Nat) : Bool :=
    match e.1.body with | .name .element _ | .name .credit _ | .name .detach _ => true | _ => false
  let l := (s.span link).waiting.filter isReq
  let s := s.modSpan link fun x => { x with waiting := x.waiting.filter fun e => !isReq e && !isCut e }
  l.foldl (fun s e => match e.1.src, e.1.body with
    | .tile t, .name _ x => s.lapse t x
    | .gateway p, .name _ x => (s.count p 7 1).failSub ((s.part p).tileAt 0) x { cause := .sublapse }
    | _, _ => s) s

/-- SPAN_LINK_DOWN (R379). -/
def execSpanLinkDown (link : Nat) (s : State) : Host.Outcome State Fault Refusal :=
  onLink link s fun s =>
    if !(s.span link).up then s
    else
      let s := s.modSpan link fun x => { x with up := false }
      State.lapseWaiting (s.parts.foldl (fun s e => if e.2.st = 2 then s.cutBranches link e.1 else s) s) link

/-- SPAN_LINK_UP: what waited for the link leaves. -/
def execSpanLinkUp (link : Nat) (s : State) : Host.Outcome State Fault Refusal :=
  onLink link s fun s => s.modSpan link fun x => let y : Span := { x with up := true }; y.fill s.peerOf y.waiting.length

/-- BRANCHSTALL as it stands for a sender: of its tile; the gateway takes the cold value (R90). -/
def State.stallOf (s : State) (a : Agent) : Nat := match a with | .tile t => (s.c t).branchstall | _ => 16384

/-- SPAN_PUBLISH_DROP (R379): a publish that waits for a link that is down, for BRANCHSTALL ticks, is dropped and counted, and SPANDOWN set; its
sender's operation ends. -/
def execSpanPublishDrop (link i : Nat) (s : State) : Host.Outcome State Fault Refusal :=
  onLink link s fun s =>
    match (s.span link).waiting[i]? with
    | some (⟨src, _, _, .name .publish x, _, _⟩, since) =>
      if (s.span link).up ∨ s.quartz < since + s.stallOf src then s
      else
        let s := ((s.modSpan link fun y => { y with waiting := y.waiting.eraseIdx i }).stat (s.agentPart src) 0x80).spanDrop (s.agentPart src)
        match src with
        | .tile t => s.answered t x.origin .order
        | .gateway p => s.gatewayAck p { x with accepted := false }
        | _ => s
    | _ => s

end Sys2Proof.Machine
end

