-- ==== Sys2Proof/Machine/Life.lean ====
section
/-! DEFINITION. Token samples (R423) and the life stores (R427). -/

namespace Sys2Proof.Machine

/-! ### Token samples (R419, R420, R423) -/

/-- The routers that forward a message between two tiles on a plane (R351, R423). -/
def State.forwarders (s : State) (src dst plane : Nat) : List Nat :=
  (src :: walkTurns src (turnSegs (s.route src dst plane))).filter (· != dst)

/-- Ticks of the hops of a list of routers, free values that rise from one tick to another. -/
def hopTicks (ctr lo hi : Nat) : List Nat → List (Nat × Nat)
  | [] => []
  | r :: rest =>
    let k := lo + (Config.freeValue ctr).toNat % (hi - lo + 1)
    (r, k) :: hopTicks (ctr + 1) k hi rest

/-- Source, birth tick and hops of a marked message that tile t ejected. A name message has logged the routers that it stopped at; between the
last of them and t it followed a turn list, as a message of the addressed plane does from its source; the ticks there are free values. -/
def State.trailOf (s : State) (t : Nat) (m : Msg) : Nat × Nat × List (Nat × Nat) :=
  match m.src with
  | .tile u =>
    let logged : Nat × Nat × List (Nat × Nat) := match m.body with | .name _ x => x.trail.getD (u, m.birth, []) | _ => (u, m.birth, [])
    let way := (s.forwarders u t m.plane).filter fun r => !logged.2.2.any fun h => h.1 == r
    let from_ := match logged.2.2.getLast? with | some h => h.2 | none => m.birth
    (logged.1, logged.2.1, logged.2.2 ++ hopTicks s.freeCtr from_ s.quartz way)
  | _ => (t, m.birth, [])

/-- Plane and class of a message (log entry 34: DEDUCED, unsafe). -/
def Msg.planeClass (m : Msg) : Nat :=
  match m.cls with | .nameCtl => 0 | .nameData => 1 | .request | .probe | .writeback => 2 | _ => 3

/-- The kind-4 record of a sample (R420). -/
def State.sampleWords (s : State) (t : Nat) (m : Msg) : List W64 :=
  let (src, birth, hops) := s.trailOf t m
  let kept := hops.take 9
  traceWords s.tick 4 0 0 0 0 0 0 0 0
    ([w64 birth, w64 (min hops.length 255 * 2 ^ 56 + kept.length * 2 ^ 48 + m.planeClass), w64 (src + t * 2 ^ 16)] ++
      kept.map fun k => w64 (k.1 * 2 ^ 50 + k.2 % 2 ^ 48))

/-- TOKEN_SAMPLE_EJECT (R423): the record of the i-th marked message that tile t has ejected. -/
def execTokenSampleEject (t i : Nat) (s : State) : Host.Outcome State Fault Refusal :=
  onTile t s fun s =>
    match (s.n t).samples[i]? with
    | none => s
    | some m =>
      let ws := s.sampleWords t m
      let s := s.modN t fun n => { n with samples := n.samples.eraseIdx i }
      State.publishRecord { s with freeCtr := s.freeCtr + (s.trailOf t m).2.2.length } (.tile t) (s.partOf t) traceTensor 0 true ws

/-! ### Life stores (R427) -/

/-- LIFE_STORE_PERSIST (R427): the store of a field hub is shadowed. -/
def execLifeStorePersist (field : Nat) (s : State) : Host.Outcome State Fault Refusal :=
  onField field s fun s => s.modHub field fun h => { h with lifePersisted := h.life, persistTick := s.quartz }

/-- The bin of a temperature in 1/16 °C: 5 °C each from −20 °C on, the last taking all above (R427). -/
def tempBin (temp : Int) : Nat := min 31 ((temp + 320) / 80).toNat

/-- The bin of a rail voltage in µV: 12.5 mV each from 0.6 V on, the end bins open (R427). -/
def voltBin (microvolt : Nat) : Nat := min 15 ((microvolt - 600000) / 12500)

/-- LIFE_SAMPLE (R427): once per 2^20 ticks. -/
def execLifeSample (field : Nat) (temp : BitVec 16) (microvolt : Nat) (s : State) : Host.Outcome State Fault Refusal :=
  onField field s fun s =>
    if s.quartz < (s.hub field).sampleTick + 2 ^ 20 ∨ !(s.hub field).powered then s
    else
      let s := State.sensed (s.modHub field fun h => { h with sampleTick := s.quartz }) field temp
      let s := if temp.toInt < -320 then s else s.life field (0x10 + tempBin temp.toInt) 1
      (s.life field (0x30 + voltBin microvolt) 1).life field 10 1

end Sys2Proof.Machine
end

