-- ==== Sys2Proof/Machine/Special.lean ====
section
/-! DEFINITION. The special functions on f32 (R178, R264, R265). R264: the correctly rounded RNE value wherever R178
bounds the error. VRCP is an exact quotient. VRSQ, VFEXP and VFLOG round a value enclosed to 2^-70 or better, with an odd last bit that
says the exact one is irrational (log entry 7: DESIGN CHOICE, unsafe). -/

namespace Sys2Proof.Machine

/-- The binary places of the fixed-point values of VFEXP and VFLOG. -/
def fixBits : Nat := 256

/-- ln 2 in fixed point: the sum of 1/(k 2^k). -/
def ln2Fix : Nat := (List.range 260).foldl (fun s k => s + 2 ^ fixBits / ((k + 1) * 2 ^ (k + 1))) 0

/-- The exponential series of y in fixed point, n terms from the term t of index k. -/
def expSum (y : Int) : Nat → Nat → Int → Int
  | 0, _, _ => 0
  | n + 1, k, t => t + expSum y n (k + 1) (t * y / ((k + 1 : Nat) * 2 ^ fixBits))

/-- 2^f in fixed point for a fixed-point f. -/
def exp2Fix (f : Int) : Nat := (expSum (f * ln2Fix / 2 ^ fixBits) 70 0 (2 ^ fixBits)).toNat

/-- The series of atanh z in fixed point: n terms from z^(2k+1). -/
def atanhSum (z2 : Nat) : Nat → Nat → Nat → Nat
  | 0, _, _ => 0
  | n + 1, k, t => t / (2 * k + 1) + atanhSum z2 n (k + 1) (t * z2 / 2 ^ fixBits)

/-- log2 (m / 2^23) in fixed point for 2^23 ≤ m < 2^24. -/
def log2Fix (m : Nat) : Nat :=
  let z := (m - 2 ^ 23) * 2 ^ fixBits / (m + 2 ^ 23)
  2 * atanhSum (z * z / 2 ^ fixBits) 90 0 z * 2 ^ fixBits / ln2Fix

/-- floor(sqrt n) of a number below 2^(2 b), bit by bit. -/
def sqrtFloor (n : Nat) : Nat → Nat → Nat
  | 0, r => r
  | b + 1, r => sqrtFloor n b (if (r + 2 ^ b) * (r + 2 ^ b) ≤ n then r + 2 ^ b else r)

/-- A positive irrational enclosed by n and n + 1 units of 2^q, rounded RNE to f32. -/
def stickyRound (n : Nat) (q : Int) : Nat × FpFlags := roundTo Fmt.f32 .rne false false ⟨2 * n + 1, 1, q - 1⟩

def nan32 : Nat × FpFlags := (Fmt.f32.defaultNan, Fp.nv)

/-- VFEXP (R178): 2^f on [−0.5, 0.5]. -/
def vfexp (a : Nat) : Nat × FpFlags :=
  match unpack Fmt.f32 a with
  | .nan s f m q => convertFl Fmt.f32 .rne false (.nan s f m q)
  | .inf _ => nan32
  | .fin s m e =>
    if m = 0 then (0x3F800000, 0)
    else if dyadicGt m e 1 (-1) then nan32
    else
      let x := (m * 2 ^ (e + fixBits).toNat : Nat)
      stickyRound (exp2Fix (if s then -(x : Int) else x)) (-(fixBits : Int))

/-- VFLOG (R178): log2 m on [1, 2). -/
def vflog (a : Nat) : Nat × FpFlags :=
  match unpack Fmt.f32 a with
  | .nan s f m q => convertFl Fmt.f32 .rne false (.nan s f m q)
  | .inf _ => nan32
  | .fin s m e =>
    if s || e != -23 || decide (m < 2 ^ 23) then nan32
    else if m = 2 ^ 23 then (0, 0)
    else stickyRound (log2Fix m) (-(fixBits : Int))

/-- VRCP (R178). -/
def vrcp (a : Nat) : Nat × FpFlags :=
  match unpack Fmt.f32 a with
  | .nan s f m q => convertFl Fmt.f32 .rne false (.nan s f m q)
  | .inf s => (withSign Fmt.f32 s 0, 0)
  | .fin s m e =>
    if m = 0 then (withSign Fmt.f32 s Fmt.f32.infCode, Fp.dz) else roundTo Fmt.f32 .rne false s ⟨1, m, -e⟩

/-- VRSQ (R178). -/
def vrsq (a : Nat) : Nat × FpFlags :=
  match unpack Fmt.f32 a with
  | .nan s f m q => convertFl Fmt.f32 .rne false (.nan s f m q)
  | .inf s => if s then nan32 else (0, 0)
  | .fin s m e =>
    if m = 0 then (withSign Fmt.f32 s Fmt.f32.infCode, Fp.dz)
    else if s then nan32
    else
      let m' := if e % 2 = 0 then m else 2 * m
      let h := (if e % 2 = 0 then e else e - 1) / 2
      let n := sqrtFloor (2 ^ 160 / m') 81 0
      if n * n * m' = 2 ^ 160 then roundTo Fmt.f32 .rne false false ⟨n, 1, -80 - h⟩ else stickyRound n (-80 - h)

/-- VSCX (R178, R264): a × 2^b rounded once; b beyond ±2^9 acts as ±2^9. -/
def vscx (a : Nat) (b : Int) : Nat × FpFlags :=
  match unpack Fmt.f32 a with
  | .fin s m e => if m = 0 then (a, 0) else roundTo Fmt.f32 .rne false s ⟨m, 1, e + max (-512) (min 512 b)⟩
  | .inf _ => (a, 0)
  | x => convertFl Fmt.f32 .rne false x

/-- VGETX (R265). -/
def vgetx (a : Nat) : Nat × FpFlags :=
  match unpack Fmt.f32 a with
  | .nan _ _ _ q => (0x7FFFFFFF, if q then 0 else Fp.nv)
  | .inf _ => (0x7FFFFFFF, 0)
  | .fin _ m e => if m = 0 then (0x80000000, 0) else ((((Nat.log2 m : Int) + e) % 2 ^ 32).toNat, 0)

/-- VGETM (R265). -/
def vgetm (a : Nat) : Nat × FpFlags :=
  match unpack Fmt.f32 a with
  | .fin s m _ => if m = 0 then (a, 0) else roundTo Fmt.f32 .rne false s ⟨m, 1, -(Nat.log2 m : Int)⟩
  | .inf _ => nan32
  | x => convertFl Fmt.f32 .rne false x

/-- VRNDI (R260): rounding to an integral value in the format; only a signalling NaN raises a flag. -/
def vrndi (f : Fmt) (rnd : Rnd) (a : Nat) : Nat × FpFlags :=
  match unpack f a with
  | .fin s m e =>
    if m = 0 then (a, 0)
    else
      let k := (roundAt rnd s ⟨m, 1, e⟩ 0).1
      (withSign f s (if k = 0 then 0 else encodeMag f k 0), 0)
  | .inf _ => (a, 0)
  | x => convertFl f .rne false x

end Sys2Proof.Machine
end

