-- ==== Sys2Proof/Machine/Vector.lean ====
section
/-! DEFINITION. The VA and VB operations (spec/10): each meaning performs one vector slot of the bundle instance being
issued. A vector value lists the active lanes of the run (R251); every other lane reads zero. -/

namespace Sys2Proof

open Machine

/-- The types with two elements in a lane (R253). -/
def Ty.packed : Ty → Bool | .bf16 | .f16 | .i16x2 => true | _ => false

/-- Bits of an element of a lane type (R253). -/
def Ty.elemWidth : Ty → Nat
  | .i8 | .n8 | .e4m3 | .e5m2 => 8 | .i16 | .n16 | .i16x2 | .bf16 | .f16 => 16 | .e2m1 => 4 | _ => 32

end Sys2Proof

namespace Sys2Proof.Machine

/-! ### Lanes and elements (R251 to R253) -/

/-- The elements of a lane. -/
def elems (t : Ty) (x : W32) : List Nat :=
  if t.packed then [x.toNat % 65536, x.toNat / 65536] else [x.toNat % 2 ^ t.elemWidth]

/-- A lane from its result elements. -/
def joinElems (t : Ty) (l : List Nat) : W32 :=
  if t.packed then BitVec.ofNat 32 (l.getD 0 0 % 65536 + l.getD 1 0 % 65536 * 65536) else BitVec.ofNat 32 (l.getD 0 0)

/-- Flags of all elements. -/
def orFlags (l : List (Nat × FpFlags)) : FpFlags := l.foldl (fun f e => f ||| e.2) 0

/-- One lane of an operation on elements. -/
def laneOp (t : Ty) (f : Nat → Nat → Nat → Nat × FpFlags) (a b c : W32) : W32 × FpFlags :=
  let ea := elems t a
  let r := (List.range ea.length).map fun k => f (ea.getD k 0) ((elems t b).getD k 0) ((elems t c).getD k 0)
  (joinElems t (r.map (·.1)), orFlags r)

/-- Lane j of a list; 0 where it has none. -/
def lane (l : List W32) (j : Nat) : W32 := l.getD j 0

/-- A vector result with the flags of its lanes. -/
def State.vecResult (s : State) (d : Dst) (l : List (W32 × FpFlags)) : State :=
  (s.raiseFlags (l.foldl (fun f e => f ||| e.2) 0)).deliver d (s.vecVal (l.map (·.1)))

/-- An operation of three sources on the elements of every active lane. -/
def State.vop (s : State) (t : Ty) (d : Dst) (f : Nat → Nat → Nat → Nat × FpFlags) (a b c : Src) : State :=
  s.vecResult d ((List.range s.iss.set.len).map fun j =>
    laneOp t f (lane (s.vec a) j) (lane (s.vec b) j) (lane (s.vec c) j))

/-- An element read as its integer type. -/
def elemInt (t : Ty) (x : Nat) : Int := opnd t (w64 x)

/-- An integer result as the bits of its element, extended as R253 lays down. -/
def elemRes (t : Ty) (v : Int) : Nat := (res t v).toNat % 2 ^ 32

/-- An operation of integer elements. -/
def intElem (t : Ty) (f : Int → Int → Int) (x y : Nat) : Nat × FpFlags := (elemRes t (f (elemInt t x) (elemInt t y)), 0)

/-- An operation by kind of type. -/
def arith (t : Ty) (g : Int → Int → Int) (f : Fmt → Nat → Nat → Nat × FpFlags) (x y : Nat) : Nat × FpFlags :=
  if t.isFloat then f t.fmt x y else intElem t g x y

/-- A result computed on the element's bits. -/
def bitElem (t : Ty) (f : Nat → Nat → Nat) (x y : Nat) : Nat × FpFlags := (elemRes t (f x y : Nat), 0)

/-- Every bit of an element when true (R257). -/
def boolElem (t : Ty) (b : Bool) : Nat := if b then (if t.packed then 0xFFFF else 0xFFFFFFFF) else 0

/-- A comparison by an ordering; NaN gives `un` (R257). -/
def cmpElem (t : Ty) (un : Bool) (p : Ordering → Bool) (x y : Nat) : Nat × FpFlags :=
  if t.isFloat then
    let u := unpack t.fmt x
    let v := unpack t.fmt y
    let fl : FpFlags := if u.isSnan || v.isSnan then Fp.nv else 0
    (boolElem t (if u.isNan || v.isNan then un else p (cmpFl u v)), fl)
  else (boolElem t (p (compare (elemInt t x) (elemInt t y))), 0)

/-- The shift count of an element. -/
def elemShift (t : Ty) (y : Nat) : Nat := y % t.elemWidth

/-- VMIN and VMAX of elements (R254, R230). -/
def minmaxElem (t : Ty) (mx : Bool) (x y : Nat) : Nat × FpFlags :=
  arith t (fun a b => if mx then max a b else min a b) (fun f => fminmax f mx) x y

/-! ### Arithmetic (R254, R255) -/

/-- VADD (R254). -/
def execVadd (t : Ty) (a b : Src) (d : Dst) (s : State) : Host.Outcome State Fault Refusal :=
  .next (s.vop t d (fun x y _ => arith t (· + ·) fadd x y) a b .zero)

/-- VSUB (R254). -/
def execVsub (t : Ty) (a b : Src) (d : Dst) (s : State) : Host.Outcome State Fault Refusal :=
  .next (s.vop t d (fun x y _ => arith t (· - ·) fsub x y) a b .zero)

/-- VMUL (R254). -/
def execVmul (t : Ty) (a b : Src) (d : Dst) (s : State) : Host.Outcome State Fault Refusal :=
  .next (s.vop t d (fun x y _ => arith t (· * ·) fmul x y) a b .zero)

/-- VFMA (R254). -/
def execVfma (t : Ty) (a b c : Src) (d : Dst) (s : State) : Host.Outcome State Fault Refusal :=
  .next (s.vop t d (fmaWith t.fmt false false) a b c)

/-- VFMS (R254, R255): the addend negated. -/
def execVfms (t : Ty) (a b c : Src) (d : Dst) (s : State) : Host.Outcome State Fault Refusal :=
  .next (s.vop t d (fmaWith t.fmt false true) a b c)

/-- VFNMA (R254, R255): the product negated. -/
def execVfnma (t : Ty) (a b c : Src) (d : Dst) (s : State) : Host.Outcome State Fault Refusal :=
  .next (s.vop t d (fmaWith t.fmt true false) a b c)

/-- VMIN (R254). -/
def execVmin (t : Ty) (a b : Src) (d : Dst) (s : State) : Host.Outcome State Fault Refusal :=
  .next (s.vop t d (fun x y _ => minmaxElem t false x y) a b .zero)

/-- VMAX (R254). -/
def execVmax (t : Ty) (a b : Src) (d : Dst) (s : State) : Host.Outcome State Fault Refusal :=
  .next (s.vop t d (fun x y _ => minmaxElem t true x y) a b .zero)

/-- The sign bit of a floating element. -/
def signBit (t : Ty) : Nat := 2 ^ (t.fmt.width - 1)

/-- VABS (R254, R255): floats lose the sign bit only. -/
def execVabs (t : Ty) (a : Src) (d : Dst) (s : State) : Host.Outcome State Fault Refusal :=
  .next (s.vop t d (fun x y _ => arith t (fun v _ => v.natAbs) (fun _ u _ => (u % signBit t, 0)) x y) a .zero .zero)

/-- VNEG (R254, R255). -/
def execVneg (t : Ty) (a : Src) (d : Dst) (s : State) : Host.Outcome State Fault Refusal :=
  .next (s.vop t d (fun x y _ => arith t (fun v _ => -v) (fun _ u _ => (u ^^^ signBit t, 0)) x y) a .zero .zero)

/-- VMULH (R254): floor(a × b / 2^w). -/
def execVmulh (t : Ty) (a b : Src) (d : Dst) (s : State) : Host.Outcome State Fault Refusal :=
  .next (s.vop t d (fun x y _ => intElem t (fun u v => u * v / 2 ^ t.elemWidth) x y) a b .zero)

/-- VCLAMP (R254): VMIN(VMAX(a, b), c). -/
def execVclamp (t : Ty) (a b c : Src) (d : Dst) (s : State) : Host.Outcome State Fault Refusal :=
  .next (s.vop t d (fun x y z =>
    let m := minmaxElem t true x y
    let r := minmaxElem t false m.1 z
    (r.1, m.2 ||| r.2)) a b c)

/-! ### Logic, shifts and counts (R256) -/

/-- VAND (R256). -/
def execVand (t : Ty) (a b : Src) (d : Dst) (s : State) : Host.Outcome State Fault Refusal :=
  .next (s.vop t d (fun x y _ => bitElem t (· &&& ·) x y) a b .zero)

/-- VOR (R256). -/
def execVor (t : Ty) (a b : Src) (d : Dst) (s : State) : Host.Outcome State Fault Refusal :=
  .next (s.vop t d (fun x y _ => bitElem t (· ||| ·) x y) a b .zero)

/-- VXOR (R256). -/
def execVxor (t : Ty) (a b : Src) (d : Dst) (s : State) : Host.Outcome State Fault Refusal :=
  .next (s.vop t d (fun x y _ => bitElem t (· ^^^ ·) x y) a b .zero)

/-- VANDN (R256): a AND NOT b. -/
def execVandn (t : Ty) (a b : Src) (d : Dst) (s : State) : Host.Outcome State Fault Refusal :=
  .next (s.vop t d (fun x y _ => bitElem t (fun u v => u ^^^ (u &&& v)) x y) a b .zero)

/-- VSHL (R256). -/
def execVshl (t : Ty) (a b : Src) (d : Dst) (s : State) : Host.Outcome State Fault Refusal :=
  .next (s.vop t d (fun x y _ => bitElem t (fun u v => u * 2 ^ elemShift t v) x y) a b .zero)

/-- VSHR (R256). -/
def execVshr (t : Ty) (a b : Src) (d : Dst) (s : State) : Host.Outcome State Fault Refusal :=
  .next (s.vop t d (fun x y _ => bitElem t (fun u v => u / 2 ^ elemShift t v) x y) a b .zero)

/-- VSRA (R256): bit w − 1 fills, whatever the sign of the type. -/
def execVsra (t : Ty) (a b : Src) (d : Dst) (s : State) : Host.Outcome State Fault Refusal :=
  .next (s.vop t d (fun x y _ => (elemRes t (signedOf t.elemWidth x / 2 ^ elemShift t y), 0)) a b .zero)

/-- VCLZ (R256). -/
def execVclz (t : Ty) (a : Src) (d : Dst) (s : State) : Host.Outcome State Fault Refusal :=
  .next (s.vop t d (fun x _ _ => (if x = 0 then t.elemWidth else t.elemWidth - 1 - Nat.log2 x, 0)) a .zero .zero)

/-- VPOPC (R256). -/
def execVpopc (t : Ty) (a : Src) (d : Dst) (s : State) : Host.Outcome State Fault Refusal :=
  .next (s.vop t d (fun x _ _ => (((List.range t.elemWidth).filter fun k => x.testBit k).length, 0)) a .zero .zero)

/-! ### Comparison, selection and classification (R257, R258) -/

/-- VCEQ (R257). -/
def execVceq (t : Ty) (a b : Src) (d : Dst) (s : State) : Host.Outcome State Fault Refusal :=
  .next (s.vop t d (fun x y _ => cmpElem t false (· == .eq) x y) a b .zero)

/-- VCNE (R257). -/
def execVcne (t : Ty) (a b : Src) (d : Dst) (s : State) : Host.Outcome State Fault Refusal :=
  .next (s.vop t d (fun x y _ => cmpElem t true (· != .eq) x y) a b .zero)

/-- VCLT (R257). -/
def execVclt (t : Ty) (a b : Src) (d : Dst) (s : State) : Host.Outcome State Fault Refusal :=
  .next (s.vop t d (fun x y _ => cmpElem t false (· == .lt) x y) a b .zero)

/-- VCLE (R257). -/
def execVcle (t : Ty) (a b : Src) (d : Dst) (s : State) : Host.Outcome State Fault Refusal :=
  .next (s.vop t d (fun x y _ => cmpElem t false (· != .gt) x y) a b .zero)

/-- VCUN (R257). -/
def execVcun (t : Ty) (a b : Src) (d : Dst) (s : State) : Host.Outcome State Fault Refusal :=
  .next (s.vop t d (fun x y _ => cmpElem t true (fun _ => false) x y) a b .zero)

/-- The type whose elements are whole lanes, or halves for the packed types (R258). -/
def selTy (t : Ty) : Ty := if t.packed then .i16x2 else .n32

/-- VSEL (R258): bits pass unchanged. -/
def execVsel (t : Ty) (a b c : Src) (d : Dst) (s : State) : Host.Outcome State Fault Refusal :=
  .next (s.vop (selTy t) d (fun x y z => (if x ≠ 0 then y else z, 0)) a b c)

/-- VCLASS (R258). -/
def execVclass (t : Ty) (a : Src) (d : Dst) (s : State) : Host.Outcome State Fault Refusal :=
  .next (s.vop t d (fun x _ _ => (fclass t.fmt x, 0)) a .zero .zero)

/-! ### Conversions (R259 to R263) -/

/-- The value of an element of type t. -/
def elemVal (t : Ty) (x : Nat) : Fl := if t.isFloat then unpack t.fmt (x % 2 ^ t.fmt.width) else flOfInt (elemInt t x)

/-- The iteration of lane j. -/
def State.laneIter (s : State) (j : Nat) : W32 := s.iss.set.base + BitVec.ofNat 32 j

/-- The slot index of a B operand of the conversions, or none (R259). -/
def slotIndex (b : W64) : Option Nat := if b.toNat < 32 then some b.toNat else none

/-- The integer type that C selects. -/
def cvtTy (k : Nat) : Ty :=
  match k with
  | 1 => .i64 | 2 => .i32 | 3 => .i16 | 4 => .i8 | 5 => .n64 | 6 => .n32 | 7 => .n16 | _ => .n8

/-- One element converted under slot word w to the destination k of C (R231, R259): its code or its w bits. -/
def State.cvtElem (s : State) (w : W64) (k : Nat) (j elem : Nat) (x : Fl) : Nat × FpFlags :=
  let rnd := s.rnd w (s.laneIter j) elem
  if k = 0 then convertSlot w rnd x
  else
    let t := cvtTy k
    let r := toIntRange rnd (if t.signed then -(2 ^ (t.width - 1)) else 0) (if t.signed then 2 ^ (t.width - 1) - 1 else 2 ^ t.width - 1) x
    ((r.1 % 2 ^ t.width).toNat, r.2)

/-- The destination of VCVT is 32 bits wide. -/
def cvtWide (w : W64) (k : Nat) : Bool := k == 2 || k == 6 || (k == 0 && FmtSlot.fmt w == 0)

/-- The rows of R259 that fault. -/
def vcvtBad (w : W64) (b c : W64) : Bool :=
  (slotIndex b).isNone || decide (c.toNat ≥ 32) || decide (c.toNat % 16 > 8) || c.toNat % 16 == 1 || c.toNat % 16 == 5 ||
    (c.toNat % 16 == 0 && (FmtSlot.fmt w == 5 || FmtSlot.fmt w == 6 || FmtSlot.fmt w == 9))

/-- VCVT (R259). A code of a slot of format INT8 or INT4 from an unpacked source is zero-extended, as R231 has it for FCVT (log 65: DESIGN
CHOICE, unsafe). -/
def execVcvt (t : Ty) (a b c : Src) (d : Dst) (s : State) : Host.Outcome State Fault Refusal :=
  let w := s.iss.frame.fsOf (s.sc b).toNat
  let cv := s.sc c
  if vcvtBad w (s.sc b) cv then .next (s.fault { cause := .fmtcfg })
  else
    let k := cv.toNat % 16
    let hi := cv.toNat / 16
    .next (s.vecResult d ((List.range s.iss.set.len).map fun j =>
      let e := elems t (lane (s.vec a) j)
      if t.packed then
        if cvtWide w k then
          let r := s.cvtElem w k j hi (elemVal t (e.getD hi 0))
          (BitVec.ofNat 32 r.1, r.2)
        else
          let r0 := s.cvtElem w k j 0 (elemVal t (e.getD 0 0))
          let r1 := s.cvtElem w k j 1 (elemVal t (e.getD 1 0))
          (joinElems .i16x2 [r0.1, r1.1], r0.2 ||| r1.2)
      else
        let r := s.cvtElem w k j 0 (elemVal t (e.getD 0 0))
        (BitVec.ofNat 32 (if k = 0 then r.1 else elemRes (cvtTy k) (elemInt (cvtTy k) r.1)), r.2)))

/-- The directions of VRNDI (R260). -/
def rndiDir (n : Nat) : Rnd := match n with | 0 => .rne | 1 => .rtz | 2 => .rdn | 3 => .rup | _ => .rna

/-- VRNDI (R260). -/
def execVrndi (t : Ty) (a b : Src) (d : Dst) (s : State) : Host.Outcome State Fault Refusal :=
  let n := (s.sc b).toNat
  if n > 4 then .next (s.fault { cause := .fmtcfg })
  else .next (s.vop t d (fun x _ _ => vrndi t.fmt (rndiDir n) x) a .zero .zero)

/-- VCVTI (R260): only RND and SEED of the slot count. -/
def execVcvti (t : Ty) (a b : Src) (d : Dst) (s : State) : Host.Outcome State Fault Refusal :=
  match slotIndex (s.sc b) with
  | none => .next (s.fault { cause := .fmtcfg })
  | some n =>
    let w := s.iss.frame.fsOf n
    .next (s.vecResult d ((List.range s.iss.set.len).map fun j =>
      let x := (lane (s.vec a) j).toNat
      let r := if t = .f32 then s.cvtElem w 2 j 0 (unpack Fmt.f32 x)
        else convertFl Fmt.f32 (s.rnd w (s.laneIter j) 0) false (flOfInt (elemInt .i32 x))
      (BitVec.ofNat 32 r.1, r.2)))

/-- A compacting form of VPACK: n elements of w bits to a lane (R261). -/
def packLane (l : List W32) (n w k : Nat) : W32 :=
  BitVec.ofNat 32 ((List.range n).foldl (fun v i => v + (lane l (n * k + i)).toNat % 2 ^ w * 2 ^ (w * i)) 0)

/-- VPACK (R261). -/
def execVpack (t : Ty) (a b c : Src) (d : Dst) (s : State) : Host.Outcome State Fault Refusal :=
  if t = .f32 then
    match slotIndex (s.sc c) with
    | none => .next (s.fault { cause := .fmtcfg })
    | some n =>
      let w := s.iss.frame.fsOf n
      if FmtSlot.fmt w = 1 ∨ FmtSlot.fmt w = 2 then
        .next (s.vecResult d ((List.range s.iss.set.len).map fun j =>
          let r0 := s.cvtElem w 0 j 0 (unpack Fmt.f32 (lane (s.vec a) j).toNat)
          let r1 := s.cvtElem w 0 j 1 (unpack Fmt.f32 (lane (s.vec b) j).toNat)
          (joinElems .i16x2 [r0.1, r1.1], r0.2 ||| r1.2)))
      else .next (s.fault { cause := .fmtcfg })
  else
    let l := s.vec a
    let w := t.elemWidth
    .next (s.vecResult d ((List.range s.iss.set.len).map fun k => (packLane l (32 / w) w k, 0)))

/-- The 32 lanes as a little-endian number (R262). -/
def laneString (l : List W32) : Nat := (List.range 32).foldl (fun v j => v + (lane l j).toNat * 2 ^ (32 * j)) 0

/-- VUNPK (R262). -/
def execVunpk (t : Ty) (a b : Src) (d : Dst) (s : State) : Host.Outcome State Fault Refusal :=
  let str := laneString (s.vec a)
  let w := t.elemWidth
  .next (s.vecResult d ((List.range s.iss.set.len).map fun j =>
    let e := 32 * (s.sc b).toNat + j
    if e ≥ 1024 / w then (0, 0)
    else
      let x := str / 2 ^ (e * w) % 2 ^ w
      if t.isFloat then
        let r := convertFl Fmt.f32 .rne false (unpack t.fmt x)
        (BitVec.ofNat 32 r.1, r.2)
      else (BitVec.ofNat 32 (elemRes t (elemInt t x)), 0)))

/-- The scale X of a block (R171), from the magnitudes of its elements. -/
def mxScale (emax : Int) (l : List Fl) : Nat :=
  if l.any fun x => x.isNan || x.isInf then 255
  else
    let mags : List Int := l.filterMap fun x => match x with
      | .fin _ m e => if m = 0 then none else some ((Nat.log2 m : Int) + e)
      | _ => none
    match mags with
    | [] => 0
    | m :: ms => (max 0 (min 254 (ms.foldl max m - emax + 127))).toNat

/-- x / 2^(X − 127). -/
def unscale (x : Fl) (sc : Nat) : Fl := match x with | .fin s m e => .fin s m (e - ((sc : Int) - 127)) | x => x

/-- The codes of a block with its scale and flags (R171). -/
def State.quantBlock (s : State) (w : W64) (l : List Fl) : List (Nat × FpFlags) × Nat × FpFlags :=
  let f := if FmtSlot.fmt w = 5 then Fmt.e2m1 else Fmt.e4m3
  let sc := mxScale (if FmtSlot.fmt w = 5 then 2 else 8) l
  if sc = 255 then (l.map fun _ => (0, 0), 255, Fp.nv)
  else ((List.range l.length).map fun j =>
    convertFl f (s.rnd w (s.laneIter j) j) true (unscale (l.getD j (.fin false 0 0)) sc), sc, 0)

/-- VQNT (R263). -/
def execVqnt (a b : Src) (d : Dst) (s : State) : Host.Outcome State Fault Refusal :=
  match slotIndex (s.sc b) with
  | none => .next (s.fault { cause := .fmtcfg })
  | some n =>
    let w := s.iss.frame.fsOf n
    let l := (List.range s.iss.set.len).map fun j => unpack Fmt.f32 (lane (s.vec a) j).toNat
    let put (r : List (Nat × FpFlags)) (x : Nat) (fl : FpFlags) : State :=
      (s.raiseFlags (fl ||| orFlags r)).twoTargets d (s.vecVal (r.map fun e => BitVec.ofNat 32 e.1)) (.scalar (w64 x))
    if FmtSlot.isQ w then
      .next (put ((List.range l.length).map fun j => convertSlot w (s.rnd w (s.laneIter j) j) (l.getD j (.fin false 0 0))) 0 0)
    else if FmtSlot.fmt w = 5 ∨ FmtSlot.fmt w = 6 then
      let q := s.quantBlock w l
      .next (put q.1 q.2.1 q.2.2)
    else .next (s.fault { cause := .fmtcfg })

/-- VDQNT (R263). -/
def execVdqnt (a b c : Src) (d : Dst) (s : State) : Host.Outcome State Fault Refusal :=
  match slotIndex (s.sc b) with
  | none => .next (s.fault { cause := .fmtcfg })
  | some n =>
    let w := s.iss.frame.fsOf n
    let x := (s.sc c).toNat
    let code (j : Nat) : Nat := (lane (s.vec a) j).toNat
    let lanes (f : Nat → Nat × FpFlags) : List (W32 × FpFlags) :=
      (List.range s.iss.set.len).map fun j => let r := f j; (BitVec.ofNat 32 r.1, r.2)
    if FmtSlot.isQ w then
      .next (s.vecResult d (lanes fun j => convertFl Fmt.f32 .rne false (decodeSlotFmt w (code j))))
    else if FmtSlot.fmt w = 5 ∨ FmtSlot.fmt w = 6 then
      if x ≥ 256 then .next (s.fault { cause := .fmtcfg })
      else
        let f := if FmtSlot.fmt w = 5 then Fmt.e2m1 else Fmt.e4m3
        .next (s.vecResult d (lanes fun j =>
          if x = 255 then nan32
          else
            let v := match unpack f (code j % 2 ^ f.width) with
              | .fin sg m e => .fin sg m (e + ((x : Int) - 127))
              | y => y
            convertFl Fmt.f32 (s.rnd w (s.laneIter j) j) (FmtSlot.sat w) v))
    else .next (s.fault { cause := .fmtcfg })

/-! ### Special functions (R264, R265) -/

/-- VRCP (R264). -/
def execVrcp (a : Src) (d : Dst) (s : State) : Host.Outcome State Fault Refusal :=
  .next (s.vop .f32 d (fun x _ _ => vrcp x) a .zero .zero)

/-- VRSQ (R264). -/
def execVrsq (a : Src) (d : Dst) (s : State) : Host.Outcome State Fault Refusal :=
  .next (s.vop .f32 d (fun x _ _ => vrsq x) a .zero .zero)

/-- VFEXP (R264). -/
def execVfexp (a : Src) (d : Dst) (s : State) : Host.Outcome State Fault Refusal :=
  .next (s.vop .f32 d (fun x _ _ => vfexp x) a .zero .zero)

/-- VFLOG (R264). -/
def execVflog (a : Src) (d : Dst) (s : State) : Host.Outcome State Fault Refusal :=
  .next (s.vop .f32 d (fun x _ _ => vflog x) a .zero .zero)

/-- VSCX (R264). -/
def execVscx (a b : Src) (d : Dst) (s : State) : Host.Outcome State Fault Refusal :=
  .next (s.vop .f32 d (fun x y _ => vscx x (elemInt .i32 y)) a b .zero)

/-- VGETX (R265). -/
def execVgetx (a : Src) (d : Dst) (s : State) : Host.Outcome State Fault Refusal :=
  .next (s.vop .f32 d (fun x _ _ => vgetx x) a .zero .zero)

/-- VGETM (R265). -/
def execVgetm (a : Src) (d : Dst) (s : State) : Host.Outcome State Fault Refusal :=
  .next (s.vop .f32 d (fun x _ _ => vgetm x) a .zero .zero)

/-! ### Lane movement, runs and reductions (R266, R267) -/

/-- A vector result computed lane by lane, without flags. -/
def State.vmove (s : State) (d : Dst) (f : Nat → W32) : State :=
  s.deliver d (s.vecVal ((List.range s.iss.set.len).map f))

/-- VBCAST (R266). -/
def execVbcast (a b : Src) (d : Dst) (s : State) : Host.Outcome State Fault Refusal :=
  .next (s.vmove d fun _ => lane (s.vec a) ((s.sc b).toNat % 32))

/-- VEXTR (R266). -/
def execVextr (a b : Src) (d : Dst) (s : State) : Host.Outcome State Fault Refusal :=
  .next (s.deliver d (.scalar ((lane (s.vec a) ((s.sc b).toNat % 32)).setWidth 64)))

/-- VPERM (R266). -/
def execVperm (a b : Src) (d : Dst) (s : State) : Host.Outcome State Fault Refusal :=
  .next (s.vmove d fun j => lane (s.vec a) ((lane (s.vec b) j).toNat % 32))

/-- The lane VSHFL reads, or none (R266). -/
def shflIndex (mode sh j : Nat) : Option Nat :=
  match mode with
  | 0 => some (j ^^^ sh)
  | 1 => some ((j + sh) % 32)
  | 2 => if j + sh ≤ 31 then some (j + sh) else none
  | _ => if sh ≤ j then some (j - sh) else none

/-- VSHFL (R266). -/
def execVshfl (a b : Src) (d : Dst) (s : State) : Host.Outcome State Fault Refusal :=
  .next (s.vmove d fun j => match shflIndex ((s.sc b).toNat / 32 % 4) ((s.sc b).toNat % 32) j with
    | some k => lane (s.vec a) k
    | none => 0)

/-- Op of a lane-ordered reduction on whole lanes (R267, R177). -/
def redOp (t : Ty) (op : Nat) (x y : Nat) : Nat × FpFlags :=
  match op with
  | 0 => if t.isFloat then fadd Fmt.f32 x y else ((x + y) % 2 ^ 32, 0)
  | 1 => minmaxElem t true x y
  | _ => minmaxElem t false x y

/-- The running values of a reduction in lane order, the last first, with the flags raised. -/
def redScan (t : Ty) (op : Nat) : List Nat → List Nat × FpFlags
  | [] => ([], 0)
  | x :: xs => xs.foldl (fun r y =>
      let v := redOp t op (r.1.getD 0 0) y
      (v.1 :: r.1, r.2 ||| v.2)) ([x], 0)

/-- The lanes a reduction takes: integer elements extended to 32 bits, f32 bits as they are. -/
def redLanes (t : Ty) (l : List W32) : List Nat :=
  l.map fun x => if t.isFloat then x.toNat else elemRes t (elemInt t (x.toNat % 2 ^ t.elemWidth))

/-- A 32-bit result widened to 64 bits by its type: f32 with zeros (R267). -/
def redWiden (t : Ty) (x : Nat) : W64 :=
  if !t.isFloat && t.signed then BitVec.ofInt 64 (signedOf 32 x) else w64 (x % 2 ^ 32)

/-- A scalar reduction (R267). -/
def State.reduce (s : State) (t : Ty) (op : Nat) (a : Src) (d : Dst) : State :=
  let r := redScan t op (redLanes t (s.vec a))
  (s.raiseFlags r.2).deliver d (.scalar (redWiden t (r.1.getD 0 0)))

/-- VSUM (R267). -/
def execVsum (t : Ty) (a : Src) (d : Dst) (s : State) : Host.Outcome State Fault Refusal := .next (s.reduce t 0 a d)

/-- VMAXR (R267). -/
def execVmaxr (t : Ty) (a : Src) (d : Dst) (s : State) : Host.Outcome State Fault Refusal := .next (s.reduce t 1 a d)

/-- VMINR (R267). -/
def execVminr (t : Ty) (a : Src) (d : Dst) (s : State) : Host.Outcome State Fault Refusal := .next (s.reduce t 2 a d)

/-- VSCAN (R267): integer lanes are Res at the element width. -/
def execVscan (t : Ty) (a : Src) (d : Dst) (s : State) : Host.Outcome State Fault Refusal :=
  let r := redScan t 0 (redLanes t (s.vec a))
  .next ((s.raiseFlags r.2).deliver d (s.vecVal (r.1.reverse.map fun x =>
    BitVec.ofNat 32 (if t.isFloat then x else elemRes t (elemInt t (x % 2 ^ t.elemWidth))))))

/-- VIOTA (R266). -/
def execViota (a b : Src) (d : Dst) (s : State) : Host.Outcome State Fault Refusal :=
  .next (s.vmove d fun j => ((s.sc a) + w64 j * (s.sc b)).setWidth 32)

/-- VCMPR (R266). -/
def execVcmpr (a b : Src) (d : Dst) (s : State) : Host.Outcome State Fault Refusal :=
  let n := s.iss.set.len
  let l := ((List.range n).filter fun j => lane (s.vec b) j != 0).map fun j => lane (s.vec a) j
  .next (s.twoTargets d (s.vecVal (l ++ List.replicate (n - l.length) 0)) (.scalar (w64 l.length)))

/-- VRUN (R266): the result has its own base and length, every lane above the length 0; with C = 0 no token is delivered. -/
def execVrun (a b c : Src) (d : Dst) (s : State) : Host.Outcome State Fault Refusal :=
  let n := min (s.sc c).toNat 32
  let v : Val := .vector ((s.sc b).setWidth 32) ((List.range n).map fun j => lane (s.vec a) j)
  if n = 0 then
    match d with
    | .latch r | .targetLatch _ r => .next (s.modIss fun i => i.latch r v)
    | .reg r => .next (s.modIss fun i => i.wreg r v)
    | .targets _ _ => .next s
  else .next (s.deliver d v)

end Sys2Proof.Machine
end

