-- ==== Sys2Proof/Machine/Dispatch.lean ====
section
/-! DEFINITION. The meaning of every instruction of the opcode table, one arm each. -/

namespace Sys2Proof.Machine

def exec (i : Instr) (s : State) : Host.Outcome State Fault Refusal :=
  match i with
  | .add t a b d => Sys2Proof.Machine.execAdd t a b d s
  | .sub t a b d => Sys2Proof.Machine.execSub t a b d s
  | .mul t a b d => Sys2Proof.Machine.execMul t a b d s
  | .mulh t a b d => Sys2Proof.Machine.execMulh t a b d s
  | .div t a b d => Sys2Proof.Machine.execDiv t a b d s
  | .rem t a b d => Sys2Proof.Machine.execRem t a b d s
  | .absOp t a d => Sys2Proof.Machine.execAbsOp t a d s
  | .andOp t a b d => Sys2Proof.Machine.execAndOp t a b d s
  | .orOp t a b d => Sys2Proof.Machine.execOrOp t a b d s
  | .xor t a b d => Sys2Proof.Machine.execXor t a b d s
  | .andn t a b d => Sys2Proof.Machine.execAndn t a b d s
  | .shl t a b d => Sys2Proof.Machine.execShl t a b d s
  | .shr t a b d => Sys2Proof.Machine.execShr t a b d s
  | .sra t a b d => Sys2Proof.Machine.execSra t a b d s
  | .rol t a b d => Sys2Proof.Machine.execRol t a b d s
  | .min t a b d => Sys2Proof.Machine.execMin t a b d s
  | .max t a b d => Sys2Proof.Machine.execMax t a b d s
  | .clz t a d => Sys2Proof.Machine.execClz t a d s
  | .ctz t a d => Sys2Proof.Machine.execCtz t a d s
  | .popc t a d => Sys2Proof.Machine.execPopc t a d s
  | .brev t a d => Sys2Proof.Machine.execBrev t a d s
  | .bfx t a b d => Sys2Proof.Machine.execBfx t a b d s
  | .bfi t a b c d => Sys2Proof.Machine.execBfi t a b c d s
  | .ceq t a b d => Sys2Proof.Machine.execCeq t a b d s
  | .cne t a b d => Sys2Proof.Machine.execCne t a b d s
  | .clt t a b d => Sys2Proof.Machine.execClt t a b d s
  | .cle t a b d => Sys2Proof.Machine.execCle t a b d s
  | .sel a b c d => Sys2Proof.Machine.execSel a b c d s
  | .mov t a d => Sys2Proof.Machine.execMov t a d s
  | .fadd t a b d => Sys2Proof.Machine.execFadd t a b d s
  | .fsub t a b d => Sys2Proof.Machine.execFsub t a b d s
  | .fmul t a b d => Sys2Proof.Machine.execFmul t a b d s
  | .fma t a b c d => Sys2Proof.Machine.execFma t a b c d s
  | .fmin t a b d => Sys2Proof.Machine.execFmin t a b d s
  | .fmax t a b d => Sys2Proof.Machine.execFmax t a b d s
  | .fcmp t a b d => Sys2Proof.Machine.execFcmp t a b d s
  | .fcvt t a b c d => Sys2Proof.Machine.execFcvt t a b c d s
  | .fclass t a d => Sys2Proof.Machine.execFclass t a d s
  | .adda a b d => Sys2Proof.Machine.execAdda a b d s
  | .spq a d => Sys2Proof.Machine.execSpq a d s
  | .spcvTooff k a d => Sys2Proof.Machine.execSpcvTooff k a d s
  | .spcvToptr k a d => Sys2Proof.Machine.execSpcvToptr k a d s
  | .mkwin k a d => Sys2Proof.Machine.execMkwin k a d s
  | .nameh a b c d => Sys2Proof.Machine.execNameh a b c d s
  | .namel a b c d => Sys2Proof.Machine.execNamel a b c d s
  | .steer a b d => Sys2Proof.Machine.execSteer a b d s
  | .merge d => Sys2Proof.Machine.execMerge d s
  | .loop a b c d => Sys2Proof.Machine.execLoop a b c d s
  | .loopVec a b c d => Sys2Proof.Machine.execLoopVec a b c d s
  | .whileOp a c d => Sys2Proof.Machine.execWhileOp a c d s
  | .exitOp a b d => Sys2Proof.Machine.execExitOp a b d s
  | .join a b c d => Sys2Proof.Machine.execJoin a b c d s
  | .goto c => Sys2Proof.Machine.execGoto c s
  | .callb a b c d => Sys2Proof.Machine.execCallb a b c d s
  | .retb a b d => Sys2Proof.Machine.execRetb a b d s
  | .sink => Sys2Proof.Machine.execSink s
  | .gate a b d => Sys2Proof.Machine.execGate a b d s
  | .tagq k a d => Sys2Proof.Machine.execTagq k a d s
  | .frameq a d => Sys2Proof.Machine.execFrameq a d s
  | .qtime a d => Sys2Proof.Machine.execQtime a d s
  | .vadd t a b d => Sys2Proof.Machine.execVadd t a b d s
  | .vsub t a b d => Sys2Proof.Machine.execVsub t a b d s
  | .vmul t a b d => Sys2Proof.Machine.execVmul t a b d s
  | .vfma t a b c d => Sys2Proof.Machine.execVfma t a b c d s
  | .vfms t a b c d => Sys2Proof.Machine.execVfms t a b c d s
  | .vfnma t a b c d => Sys2Proof.Machine.execVfnma t a b c d s
  | .vmin t a b d => Sys2Proof.Machine.execVmin t a b d s
  | .vmax t a b d => Sys2Proof.Machine.execVmax t a b d s
  | .vabs t a d => Sys2Proof.Machine.execVabs t a d s
  | .vneg t a d => Sys2Proof.Machine.execVneg t a d s
  | .vmulh t a b d => Sys2Proof.Machine.execVmulh t a b d s
  | .vclamp t a b c d => Sys2Proof.Machine.execVclamp t a b c d s
  | .vand t a b d => Sys2Proof.Machine.execVand t a b d s
  | .vor t a b d => Sys2Proof.Machine.execVor t a b d s
  | .vxor t a b d => Sys2Proof.Machine.execVxor t a b d s
  | .vandn t a b d => Sys2Proof.Machine.execVandn t a b d s
  | .vshl t a b d => Sys2Proof.Machine.execVshl t a b d s
  | .vshr t a b d => Sys2Proof.Machine.execVshr t a b d s
  | .vsra t a b d => Sys2Proof.Machine.execVsra t a b d s
  | .vclz t a d => Sys2Proof.Machine.execVclz t a d s
  | .vpopc t a d => Sys2Proof.Machine.execVpopc t a d s
  | .vceq t a b d => Sys2Proof.Machine.execVceq t a b d s
  | .vcne t a b d => Sys2Proof.Machine.execVcne t a b d s
  | .vclt t a b d => Sys2Proof.Machine.execVclt t a b d s
  | .vcle t a b d => Sys2Proof.Machine.execVcle t a b d s
  | .vcun t a b d => Sys2Proof.Machine.execVcun t a b d s
  | .vsel t a b c d => Sys2Proof.Machine.execVsel t a b c d s
  | .vclass t a d => Sys2Proof.Machine.execVclass t a d s
  | .vcvt t a b c d => Sys2Proof.Machine.execVcvt t a b c d s
  | .vrndi t a b d => Sys2Proof.Machine.execVrndi t a b d s
  | .vcvti t a b d => Sys2Proof.Machine.execVcvti t a b d s
  | .vpack t a b c d => Sys2Proof.Machine.execVpack t a b c d s
  | .vunpk t a b d => Sys2Proof.Machine.execVunpk t a b d s
  | .vqnt a b d => Sys2Proof.Machine.execVqnt a b d s
  | .vdqnt a b c d => Sys2Proof.Machine.execVdqnt a b c d s
  | .vrcp a d => Sys2Proof.Machine.execVrcp a d s
  | .vrsq a d => Sys2Proof.Machine.execVrsq a d s
  | .vfexp a d => Sys2Proof.Machine.execVfexp a d s
  | .vflog a d => Sys2Proof.Machine.execVflog a d s
  | .vscx a b d => Sys2Proof.Machine.execVscx a b d s
  | .vgetx a d => Sys2Proof.Machine.execVgetx a d s
  | .vgetm a d => Sys2Proof.Machine.execVgetm a d s
  | .vbcast a b d => Sys2Proof.Machine.execVbcast a b d s
  | .vextr a b d => Sys2Proof.Machine.execVextr a b d s
  | .vperm a b d => Sys2Proof.Machine.execVperm a b d s
  | .vshfl a b d => Sys2Proof.Machine.execVshfl a b d s
  | .vsum t a d => Sys2Proof.Machine.execVsum t a d s
  | .vmaxr t a d => Sys2Proof.Machine.execVmaxr t a d s
  | .vminr t a d => Sys2Proof.Machine.execVminr t a d s
  | .vscan t a d => Sys2Proof.Machine.execVscan t a d s
  | .viota a b d => Sys2Proof.Machine.execViota a b d s
  | .vcmpr a b d => Sys2Proof.Machine.execVcmpr a b d s
  | .vrun a b c d => Sys2Proof.Machine.execVrun a b c d s
  | .mcfg n a => Sys2Proof.Machine.execMcfg n a s
  | .msrca n a b => Sys2Proof.Machine.execMsrca n a b s
  | .msrcb n a b => Sys2Proof.Machine.execMsrcb n a b s
  | .marm n a => Sys2Proof.Machine.execMarm n a s
  | .mdisarm n => Sys2Proof.Machine.execMdisarm n s
  | .mzero n => Sys2Proof.Machine.execMzero n s
  | .mloadc n a b => Sys2Proof.Machine.execMloadc n a b s
  | .mdrain n a b => Sys2Proof.Machine.execMdrain n a b s
  | .mscale n a => Sys2Proof.Machine.execMscale n a s
  | .msort k a b d => Sys2Proof.Machine.execMsort k a b d s
  | .mstat n d => Sys2Proof.Machine.execMstat n d s
  | .tslotAlloc a b => Sys2Proof.Machine.execTslotAlloc a b s
  | .tslotFree a => Sys2Proof.Machine.execTslotFree a s
  | .tslotqNow a d => Sys2Proof.Machine.execTslotqNow a d s
  | .tslotqFull a d => Sys2Proof.Machine.execTslotqFull a d s
  | .tslotqEmpty a d => Sys2Proof.Machine.execTslotqEmpty a d s
  | .tsetEmpty a => Sys2Proof.Machine.execTsetEmpty a s
  | .tsetFull a => Sys2Proof.Machine.execTsetFull a s
  | .tsetRow a b c => Sys2Proof.Machine.execTsetRow a b c s
  | .tsetRowfull a b c => Sys2Proof.Machine.execTsetRowfull a b c s
  | .ld w a b ord v done => Sys2Proof.Machine.execLd w a b ord v done s
  | .ldv w a b ord v done => Sys2Proof.Machine.execLdv w a b ord v done s
  | .lds w a b ord v done => Sys2Proof.Machine.execLds w a b ord v done s
  | .ldx w a b ord v done => Sys2Proof.Machine.execLdx w a b ord v done s
  | .ldag w a b ord v done => Sys2Proof.Machine.execLdag w a b ord v done s
  | .ldq w a b ord v done => Sys2Proof.Machine.execLdq w a b ord v done s
  | .ldacq w a b ord v done => Sys2Proof.Machine.execLdacq w a b ord v done s
  | .pref rx a b ord => Sys2Proof.Machine.execPref rx a b ord s
  | .stashq a ord v done => Sys2Proof.Machine.execStashq a ord v done s
  | .st sc w a b e ord done => Sys2Proof.Machine.execSt sc w a b e ord done s
  | .stv sc w a b e ord done => Sys2Proof.Machine.execStv sc w a b e ord done s
  | .sts sc w a b e ord done => Sys2Proof.Machine.execSts sc w a b e ord done s
  | .stx sc w a b e ord done => Sys2Proof.Machine.execStx sc w a b e ord done s
  | .stag sc w a b e ord done => Sys2Proof.Machine.execStag sc w a b e ord done s
  | .strel sc w a b e ord done => Sys2Proof.Machine.execStrel sc w a b e ord done s
  | .aadd sc w a b ord v done => Sys2Proof.Machine.execAadd sc w a b ord v done s
  | .amin sc w a b e ord v done => Sys2Proof.Machine.execAmin sc w a b e ord v done s
  | .amax sc w a b e ord v done => Sys2Proof.Machine.execAmax sc w a b e ord v done s
  | .aand sc w a b ord v done => Sys2Proof.Machine.execAand sc w a b ord v done s
  | .aor sc w a b ord v done => Sys2Proof.Machine.execAor sc w a b ord v done s
  | .axor sc w a b ord v done => Sys2Proof.Machine.execAxor sc w a b ord v done s
  | .axchg sc w a b ord v done => Sys2Proof.Machine.execAxchg sc w a b ord v done s
  | .acas sc w a b e ord v done => Sys2Proof.Machine.execAcas sc w a b e ord v done s
  | .afadd sc w a b ord v done => Sys2Proof.Machine.execAfadd sc w a b ord v done s
  | .afadd2 sc w a b e ord v done => Sys2Proof.Machine.execAfadd2 sc w a b e ord v done s
  | .aincw sc w a b ord v done => Sys2Proof.Machine.execAincw sc w a b ord v done s
  | .adecw sc w a b ord v done => Sys2Proof.Machine.execAdecw sc w a b ord v done s
  | .drain sc ord done => Sys2Proof.Machine.execDrain sc ord done s
  | .ordjoin a b e ord done => Sys2Proof.Machine.execOrdjoin a b e ord done s
  | .pfence sc ord done => Sys2Proof.Machine.execPfence sc ord done s
  | .flushsLine sc a ord done => Sys2Proof.Machine.execFlushsLine sc a ord done s
  | .flushsAll sc ord done => Sys2Proof.Machine.execFlushsAll sc ord done s
  | .invsLine sc a ord done => Sys2Proof.Machine.execInvsLine sc a ord done s
  | .invsAll sc ord done => Sys2Proof.Machine.execInvsAll sc ord done s
  | .pubt a b e ord done => Sys2Proof.Machine.execPubt a b e ord done s
  | .pubr k a b e ord done => Sys2Proof.Machine.execPubr k a b e ord done s
  | .subn a b e ord done => Sys2Proof.Machine.execSubn a b e ord done s
  | .subnAgain a b e ord done => Sys2Proof.Machine.execSubnAgain a b e ord done s
  | .unsub a ord done => Sys2Proof.Machine.execUnsub a ord done s
  | .claim a b ord done => Sys2Proof.Machine.execClaim a b ord done s
  | .retain a b e ord done => Sys2Proof.Machine.execRetain a b e ord done s
  | .sopen a b e ord done => Sys2Proof.Machine.execSopen a b e ord done s
  | .sclose a ord done => Sys2Proof.Machine.execSclose a ord done s
  | .spop a ord v done => Sys2Proof.Machine.execSpop a ord v done s
  | .spopKeep a ord v done => Sys2Proof.Machine.execSpopKeep a ord v done s
  | .circ a b e ord done => Sys2Proof.Machine.execCirc a b e ord done s
  | .circrel a b ord done => Sys2Proof.Machine.execCircrel a b ord done s
  | .coll k a b e ord done => Sys2Proof.Machine.execColl k a b e ord done s
  | .copy a b e ord v done => Sys2Proof.Machine.execCopy a b e ord v done s
  | .copyx n a b e ord v done => Sys2Proof.Machine.execCopyx n a b e ord v done s
  | .agcfg n a ord done => Sys2Proof.Machine.execAgcfg n a ord done s
  | .agfree n ord done => Sys2Proof.Machine.execAgfree n ord done s
  | .wuntil a ord y => Sys2Proof.Machine.execWuntil a ord y s
  | .barc a b ord x => Sys2Proof.Machine.execBarc a b ord x s
  | .barcReset a b ord x => Sys2Proof.Machine.execBarcReset a b ord x s
  | .bara sc a b ord x => Sys2Proof.Machine.execBara sc a b ord x s
  | .barw a b ord x y => Sys2Proof.Machine.execBarw a b ord x y s
  | .sigadd sc a b ord => Sys2Proof.Machine.execSigadd sc a b ord s
  | .sigwait a b ord y => Sys2Proof.Machine.execSigwait a b ord y s
  | .tspawn a ord y => Sys2Proof.Machine.execTspawn a ord y s
  | .tend ord => Sys2Proof.Machine.execTend ord s
  | .trapRaise a ord => Sys2Proof.Machine.execTrapRaise a ord s
  | .trapVec a ord => Sys2Proof.Machine.execTrapVec a ord s
  | .tretRetry ord => Sys2Proof.Machine.execTretRetry ord s
  | .tretSkip ord => Sys2Proof.Machine.execTretSkip ord s
  | .fmtw a ord x => Sys2Proof.Machine.execFmtw a ord x s
  | .fmtr ord x y => Sys2Proof.Machine.execFmtr ord x y s
  | .trace tag a b ord => Sys2Proof.Machine.execTrace tag a b ord s
  | .brk tag ord => Sys2Proof.Machine.execBrk tag ord s
  | .pmodeDurable ord => Sys2Proof.Machine.execPmodeDurable ord s
  | .pmodeRestartable ord => Sys2Proof.Machine.execPmodeRestartable ord s
  | .csrr ord x y => Sys2Proof.Machine.execCsrr ord x y s
  | .csrw a ord x => Sys2Proof.Machine.execCsrw a ord x s
  | .tlbinvAll a b ord y => Sys2Proof.Machine.execTlbinvAll a b ord y s
  | .tlbinvAsid a b ord y => Sys2Proof.Machine.execTlbinvAsid a b ord y s
  | .tlbinvPage a b ord y => Sys2Proof.Machine.execTlbinvPage a b ord y s
  | .nsbind a ord y => Sys2Proof.Machine.execNsbind a ord y s
  | .parkStop a ord y => Sys2Proof.Machine.execParkStop a ord y s
  | .parkResume a ord y => Sys2Proof.Machine.execParkResume a ord y s
  | .frkill a b ord y => Sys2Proof.Machine.execFrkill a b ord y s
  | .tmove a b ord y => Sys2Proof.Machine.execTmove a b ord y s
  | .preemptStop a b ord y => Sys2Proof.Machine.execPreemptStop a b ord y s
  | .preemptResume a b ord y => Sys2Proof.Machine.execPreemptResume a b ord y s
  | .routew a b ord y => Sys2Proof.Machine.execRoutew a b ord y s
  | .slateqRec a ord y => Sys2Proof.Machine.execSlateqRec a ord y s
  | .slateqSector a ord y => Sys2Proof.Machine.execSlateqSector a ord y s
  | .slateqDrec a ord y => Sys2Proof.Machine.execSlateqDrec a ord y s
  | .watchArrive sig a b ord x y => Sys2Proof.Machine.execWatchArrive sig a b ord x y s
  | .watchLast sig a b ord x y => Sys2Proof.Machine.execWatchLast sig a b ord x y s
  | .watchFlip sig a b ord x y => Sys2Proof.Machine.execWatchFlip sig a b ord x y s
  | .tokenArrival t => Sys2Proof.Machine.execTokenArrival t s
  | .holdingQueueDrain t => Sys2Proof.Machine.execHoldingQueueDrain t s
  | .bundleIssue t => Sys2Proof.Machine.execBundleIssue t s
  | .trapEntry t f => Sys2Proof.Machine.execTrapEntry t f s
  | .abortFaultRecord t f => Sys2Proof.Machine.execAbortFaultRecord t f s
  | .instancePromotion t k => Sys2Proof.Machine.execInstancePromotion t k s
  | .bundleFinish t k => Sys2Proof.Machine.execBundleFinish t k s
  | .blockCommit t k => Sys2Proof.Machine.execBlockCommit t k s
  | .deferredReplacementCommit t k => Sys2Proof.Machine.execDeferredReplacementCommit t k s
  | .loopSpawn t l => Sys2Proof.Machine.execLoopSpawn t l s
  | .loopContinuation t l => Sys2Proof.Machine.execLoopContinuation t l s
  | .tagDeadlockCheck t => Sys2Proof.Machine.execTagDeadlockCheck t s
  | .throttleEvent t => Sys2Proof.Machine.execThrottleEvent t s
  | .tspawnAtHub m taskId => Sys2Proof.Machine.execTspawnAtHub m taskId s
  | .taskPlacement field taskId t => Sys2Proof.Machine.execTaskPlacement field taskId t s
  | .tileDelivery m => Sys2Proof.Machine.execTileDelivery m s
  | .activation t => Sys2Proof.Machine.execActivation t s
  | .taskReserving t taskId => Sys2Proof.Machine.execTaskReserving t taskId s
  | .frameEndDone t f => Sys2Proof.Machine.execFrameEndDone t f s
  | .moveComplete t taskId => Sys2Proof.Machine.execMoveComplete t taskId s
  | .powerGrant field inp => Sys2Proof.Machine.execPowerGrant field inp s
  | .railCurrentSample field units => Sys2Proof.Machine.execRailCurrentSample field units s
  | .matrixFiringStart t => Sys2Proof.Machine.execMatrixFiringStart t s
  | .kStep t => Sys2Proof.Machine.execKStep t s
  | .matrixFiringEnd t => Sys2Proof.Machine.execMatrixFiringEnd t s
  | .matrixJobDone t acc => Sys2Proof.Machine.execMatrixJobDone t acc s
  | .msortPass t => Sys2Proof.Machine.execMsortPass t s
  | .loadReply m => Sys2Proof.Machine.execLoadReply m s
  | .doneTokenFire t f k => Sys2Proof.Machine.execDoneTokenFire t f k s
  | .drainWaitEnd t k => Sys2Proof.Machine.execDrainWaitEnd t k s
  | .pfenceWaitEnd t k => Sys2Proof.Machine.execPfenceWaitEnd t k s
  | .stashFlushDone t k => Sys2Proof.Machine.execStashFlushDone t k s
  | .wuntilTick t k => Sys2Proof.Machine.execWuntilTick t k s
  | .copyComplete t k => Sys2Proof.Machine.execCopyComplete t k s
  | .spopDelivery t k => Sys2Proof.Machine.execSpopDelivery t k s
  | .tslotqWaitDelivery t k => Sys2Proof.Machine.execTslotqWaitDelivery t k s
  | .claimReply m => Sys2Proof.Machine.execClaimReply m s
  | .taskidReply m => Sys2Proof.Machine.execTaskidReply m s
  | .registrationAtRouter m => Sys2Proof.Machine.execRegistrationAtRouter m s
  | .pruneAtRouter m => Sys2Proof.Machine.execPruneAtRouter m s
  | .publishFlitAtRouter m => Sys2Proof.Machine.execPublishFlitAtRouter m s
  | .registrationAtHome m => Sys2Proof.Machine.execRegistrationAtHome m s
  | .pruneAtHome m => Sys2Proof.Machine.execPruneAtHome m s
  | .directoryIngressRetry t k => Sys2Proof.Machine.execDirectoryIngressRetry t k s
  | .publishAtHome m => Sys2Proof.Machine.execPublishAtHome m s
  | .claimAtHome m => Sys2Proof.Machine.execClaimAtHome m s
  | .retainAtHome m => Sys2Proof.Machine.execRetainAtHome m s
  | .retentionExpiry t name ver => Sys2Proof.Machine.execRetentionExpiry t name ver s
  | .collAtHome m => Sys2Proof.Machine.execCollAtHome m s
  | .partialAtHome m => Sys2Proof.Machine.execPartialAtHome m s
  | .partialRetry t k => Sys2Proof.Machine.execPartialRetry t k s
  | .partialUnregisteredDrop t k => Sys2Proof.Machine.execPartialUnregisteredDrop t k s
  | .registrationReply m => Sys2Proof.Machine.execRegistrationReply m s
  | .fetchAtRim m => Sys2Proof.Machine.execFetchAtRim m s
  | .fetchPublish agent k => Sys2Proof.Machine.execFetchPublish agent k s
  | .streamElementAtRouter m => Sys2Proof.Machine.execStreamElementAtRouter m s
  | .creditReturn m => Sys2Proof.Machine.execCreditReturn m s
  | .branchstallExpiry t k => Sys2Proof.Machine.execBranchstallExpiry t k s
  | .detachNotice m => Sys2Proof.Machine.execDetachNotice m s
  | .unicastRerequest m => Sys2Proof.Machine.execUnicastRerequest m s
  | .circAtRouter m => Sys2Proof.Machine.execCircAtRouter m s
  | .circrelAtRouter m => Sys2Proof.Machine.execCircrelAtRouter m s
  | .circIdleExpiry t k => Sys2Proof.Machine.execCircIdleExpiry t k s
  | .requestAtHome m => Sys2Proof.Machine.execRequestAtHome m s
  | .probeAckAtHome m => Sys2Proof.Machine.execProbeAckAtHome m s
  | .writebackAtHome m => Sys2Proof.Machine.execWritebackAtHome m s
  | .atomicAtHome m => Sys2Proof.Machine.execAtomicAtHome m s
  | .fillReply m => Sys2Proof.Machine.execFillReply m s
  | .rxGrant m => Sys2Proof.Machine.execRxGrant m s
  | .probeDown m => Sys2Proof.Machine.execProbeDown m s
  | .probeInv m => Sys2Proof.Machine.execProbeInv m s
  | .pageWalk t k stall => Sys2Proof.Machine.execPageWalk t k stall s
  | .hbmSectorReply m st => Sys2Proof.Machine.execHbmSectorReply m st s
  | .pageMigration src dst => Sys2Proof.Machine.execPageMigration src dst s
  | .migrationForward agent k => Sys2Proof.Machine.execMigrationForward agent k s
  | .barcAtBarrier m => Sys2Proof.Machine.execBarcAtBarrier m s
  | .baraAtBarrier m => Sys2Proof.Machine.execBaraAtBarrier m s
  | .barwAtBarrier m => Sys2Proof.Machine.execBarwAtBarrier m s
  | .sigaddAtHome m => Sys2Proof.Machine.execSigaddAtHome m s
  | .sigwaitAtHome m => Sys2Proof.Machine.execSigwaitAtHome m s
  | .persistEpochStart t => Sys2Proof.Machine.execPersistEpochStart t s
  | .dRecordWritten t => Sys2Proof.Machine.execDRecordWritten t s
  | .cDomainPowerLoss t torn => Sys2Proof.Machine.execCDomainPowerLoss t torn s
  | .cDomainRevival t => Sys2Proof.Machine.execCDomainRevival t s
  | .replayStallTimeout t f => Sys2Proof.Machine.execReplayStallTimeout t f s
  | .fieldPowerLoss field => Sys2Proof.Machine.execFieldPowerLoss field s
  | .fieldRevivalResend t field => Sys2Proof.Machine.execFieldRevivalResend t field s
  | .preemptMarkerEffect t f => Sys2Proof.Machine.execPreemptMarkerEffect t f s
  | .parkIssueCutoff t f => Sys2Proof.Machine.execParkIssueCutoff t f s
  | .frameRestore t k => Sys2Proof.Machine.execFrameRestore t k s
  | .frameWatchdogExpiry t f => Sys2Proof.Machine.execFrameWatchdogExpiry t f s
  | .tileWatchdogExpiry t => Sys2Proof.Machine.execTileWatchdogExpiry t s
  | .thermalLevelRise field temp => Sys2Proof.Machine.execThermalLevelRise field temp s
  | .criticalRailRemoval field => Sys2Proof.Machine.execCriticalRailRemoval field s
  | .thermalLevelFall field temp => Sys2Proof.Machine.execThermalLevelFall field temp s
  | .spineSwitch t => Sys2Proof.Machine.execSpineSwitch t s
  | .moduleStart inp => Sys2Proof.Machine.execModuleStart inp s
  | .svnminUpdate record => Sys2Proof.Machine.execSvnminUpdate record s
  | .securityAlarm source random => Sys2Proof.Machine.execSecurityAlarm source random s
  | .spdmGetVersion req => Sys2Proof.Machine.execSpdmGetVersion req s
  | .spdmGetCapabilities req => Sys2Proof.Machine.execSpdmGetCapabilities req s
  | .spdmNegotiateAlgorithms req => Sys2Proof.Machine.execSpdmNegotiateAlgorithms req s
  | .spdmGetDigests req => Sys2Proof.Machine.execSpdmGetDigests req s
  | .spdmGetCertificate req => Sys2Proof.Machine.execSpdmGetCertificate req s
  | .spdmChallenge req => Sys2Proof.Machine.execSpdmChallenge req s
  | .spdmGetMeasurements req index signed => Sys2Proof.Machine.execSpdmGetMeasurements req index signed s
  | .bar4Read p off len => Sys2Proof.Machine.execBar4Read p off len s
  | .bar4Write p off bytes => Sys2Proof.Machine.execBar4Write p off bytes s
  | .publishHeaderPayload p slot w0 w1 w2 w3 => Sys2Proof.Machine.execPublishHeaderPayload p slot w0 w1 w2 w3 s
  | .publishHeaderGlobal p slot w0 w1 w2 w3 => Sys2Proof.Machine.execPublishHeaderGlobal p slot w0 w1 w2 w3 s
  | .hxresMapped p stall => Sys2Proof.Machine.execHxresMapped p stall s
  | .hxresDeclined p stall => Sys2Proof.Machine.execHxresDeclined p stall s
  | .hptedataWrite p data => Sys2Proof.Machine.execHptedataWrite p data s
  | .htlbinvAsid p => Sys2Proof.Machine.execHtlbinvAsid p s
  | .htlbinvPage p va => Sys2Proof.Machine.execHtlbinvPage p va s
  | .hsubArm p entry w2 => Sys2Proof.Machine.execHsubArm p entry w2 s
  | .hsubWithdraw p entry => Sys2Proof.Machine.execHsubWithdraw p entry s
  | .hsubciWrite p entry ci => Sys2Proof.Machine.execHsubciWrite p entry ci s
  | .hostDelivery p k => Sys2Proof.Machine.execHostDelivery p k s
  | .hpctlCreate p => Sys2Proof.Machine.execHpctlCreate p s
  | .hpctlDestroy p => Sys2Proof.Machine.execHpctlDestroy p s
  | .hdstepArm p w => Sys2Proof.Machine.execHdstepArm p w s
  | .hdstepDisarm p => Sys2Proof.Machine.execHdstepDisarm p s
  | .hjclr entry => Sys2Proof.Machine.execHjclr entry s
  | .registerWrite fn off size data => Sys2Proof.Machine.execRegisterWrite fn off size data s
  | .functionLevelReset p => Sys2Proof.Machine.execFunctionLevelReset p s
  | .loaderLaunch p ids => Sys2Proof.Machine.execLoaderLaunch p ids s
  | .spanFrameReceive link header crcOk flit => Sys2Proof.Machine.execSpanFrameReceive link header crcOk flit s
  | .spanReplay link => Sys2Proof.Machine.execSpanReplay link s
  | .spanLinkDown link => Sys2Proof.Machine.execSpanLinkDown link s
  | .spanPublishDrop link k => Sys2Proof.Machine.execSpanPublishDrop link k s
  | .tokenSampleEject t k => Sys2Proof.Machine.execTokenSampleEject t k s
  | .counterSnapshot p => Sys2Proof.Machine.execCounterSnapshot p s
  | .lifeStorePersist field => Sys2Proof.Machine.execLifeStorePersist field s
  | .lifeSample field temp microvolt => Sys2Proof.Machine.execLifeSample field temp microvolt s
  | .fieldPowerReturn field => Sys2Proof.Machine.execFieldPowerReturn field s
  | .spanLinkUp link => Sys2Proof.Machine.execSpanLinkUp link s
  | .hbmAccessAtRim m crcOk => Sys2Proof.Machine.execHbmAccessAtRim m crcOk s
  | .stackSelfRefresh agent => Sys2Proof.Machine.execStackSelfRefresh agent s
  | .supervisorOperationComplete t k => Sys2Proof.Machine.execSupervisorOperationComplete t k s
  | .nameOperationAcknowledgement m => Sys2Proof.Machine.execNameOperationAcknowledgement m s
  | .claimReleaseAtHome m => Sys2Proof.Machine.execClaimReleaseAtHome m s
  | .nameEntryRelease t name => Sys2Proof.Machine.execNameEntryRelease t name s

end Sys2Proof.Machine
end

