-- ==== Sys2Proof/Machine/Step.lean ====
section
/-! DEFINITION. One step of the module: the next slot of the bundle instance being issued; else the next scheduled event
after the ticks it waits for; else one tick passes (log entry 3: DESIGN CHOICE, safe). -/

namespace Sys2Proof.Machine

/-- One step. -/
def step (s : State) : Host.Outcome State Fault Refusal :=
  if s.iss.active then
    match s.nextSlot with
    | .perform i s => exec i s
    | .done s => .next s
  else
    match s.sched with
    | (dt, i) :: rest => exec i (({ s with sched := rest } : State).advance dt)
    | [] => .next (s.advance 1)

/-- The state with a bundle of the given bits as the bundle instance being issued, in frame 63 of tile 0 at depth 0: the
next step performs its first present slot (log entry 8: DESIGN CHOICE, safe). -/
def State.withFetchWord (s : State) (nbits w : Nat) : State :=
  let b : BitVec 512 := BitVec.ofNat 512 (w % 2 ^ nbits)
  { s with iss := { active := true, id := 0, tile := 0, pe := 0, set := ⟨63, 0, 0, 0, 0, 0, [], 0, 0, 32, false, 0, 0, false, [], false, []⟩,
                    frame := s.frame 0 63, inst := 0, bundle := b, tick := s.tick, tag := tagWord 63 0 0 0, todo := presentSlots b } }

end Sys2Proof.Machine
end

