-- ==== Sys2Proof/Safety.lean ====
section
/-! DEFINITION. The terms that claims use: the canonical form of the memories, what a slot operation delivers, the values of float codes,
and which instructions are events and name which units. -/

namespace Sys2Proof

open Machine

/-! ### Memories -/

/-- Every byte memory that a slate holds is in canonical form. -/
def Slate.memOk (l : Machine.Slate) : Bool :=
  l.snap.all (fun c => Machine.Memory.wf c.scratch) && l.snapN.all (fun n => Machine.Memory.wf n.fshared) &&
    l.target.all (fun e => Machine.Memory.wf e.c.scratch && Machine.Memory.wf e.n.fshared) &&
    l.lost.all (fun c => Machine.Memory.wf c.scratch) && l.images.all fun x => Machine.Memory.wf x.dom.scratch

/-- Every byte memory of a tile is in canonical form. -/
def Tile.memOk (t : Machine.Tile) : Bool :=
  Machine.Memory.wf t.c.scratch && Machine.Memory.wf t.n.fshared && Slate.memOk t.slate

/-- Every memory of the tiles' domains is in canonical form. -/
def tilesOk (s : Machine.State) : Bool := s.tiles.all fun e => Tile.memOk e.2

/-- The memories outside the tiles, HBM and host memory, are in canonical form. -/
def memOk (s : Machine.State) : Bool := Machine.Memory.wf s.hbm && Machine.Memory.wf s.hostMem

/-! ### Results of slot operations -/

/-- The state after a slot operation that raises the flags fl and delivers v at d: only the bundle instance being issued
changes. -/
def delivered (s : Machine.State) (d : Dst) (fl : FpFlags) (v : Val) : Machine.State :=
  s.modIss fun x => { x with flags := x.flags ||| fl }.dst d v

/-- Operation i delivers v at d, raises fl and changes nothing else; where a tag-op of d is not allowed here (R54, R61), it
takes that fault instead. -/
def Delivers (i : Instr) (s : Machine.State) (d : Dst) (fl : FpFlags) (v : Val) : Prop :=
  (s.tgtsFault d.tgts = none → exec i s = .next (delivered s d fl v)) ∧
    ∀ f, s.tgtsFault d.tgts = some f → exec i s = .next (s.fault f)

/-- As Delivers, for the system format (R190). -/
def DeliversY (i : Instr) (s : Machine.State) (d : YDst) (v : Val) : Prop :=
  (s.tgtsFault d.tgts = none → exec i s = .next (s.modIss fun x => x.ydst d v)) ∧
    ∀ f, s.tgtsFault d.tgts = some f → exec i s = .next (s.fault f)

/-- Operation i delivers a vector over the run whose lane j is g j, with the flags of its lanes. -/
def DeliversLanes (i : Instr) (s : Machine.State) (d : Dst) (g : Nat → W32 × FpFlags) : Prop :=
  Delivers i s d (((List.range s.iss.set.len).map g).foldl (fun f e => f ||| e.2) 0)
    (.vector s.iss.set.base (((List.range s.iss.set.len).map g).map (·.1)))

/-- Lane j of three vector operands, element by element in the lane type t (R253). -/
def lanes3 (s : Machine.State) (t : Ty) (f : Nat → Nat → Nat → Nat × FpFlags) (a b c : Src) (j : Nat) : W32 × FpFlags :=
  laneOp t f (lane (s.vec a) j) (lane (s.vec b) j) (lane (s.vec c) j)

/-! ### Values of float codes -/

/-- A number, neither an infinity nor a NaN. -/
def Machine.Fl.finite : Fl → Bool
  | .fin _ _ _ => true
  | _ => false

/-- The value of a number as an exact rational (R155). -/
def Machine.Fl.value : Fl → ℚ
  | .fin s m e => (if s then -1 else 1) * (m : ℚ) * (2 : ℚ) ^ e
  | _ => 0

/-- Code c of format f is v rounded once to nearest even (R166): no number of f is nearer, of two equally near c is the even one, and from half
a unit past the largest number on it is an infinity of v's sign. -/
def NearestCode (f : Fmt) (v : ℚ) (c : Nat) : Prop :=
  let top : ℚ := (2 : ℚ) ^ (f.bias + 1) - (2 : ℚ) ^ ((f.bias : Int) - f.m - 1)
  match unpack f c with
  | .nan _ _ _ _ => False
  | .inf neg => top ≤ |v| ∧ neg = decide (v < 0)
  | .fin neg m e =>
    |v| < top ∧ ∀ d, (unpack f d).finite = true →
      |(Fl.fin neg m e).value - v| ≤ |(unpack f d).value - v| ∧
        (|(Fl.fin neg m e).value - v| = |(unpack f d).value - v| → (unpack f d).value ≠ (Fl.fin neg m e).value → c % 2 = 0)

/-- w is what a rounding code picks for v among the numbers of a set (R166): v itself where the set has it, else one of its two neighbours, by
the code; under SR the greater in magnitude where t + R reaches 2^24 (R167). -/
def Rounds (rnd : Rnd) (v w : ℚ) (has : ℚ → Prop) (even : Prop) : Prop :=
  (∀ u, has u → ¬ (w < u ∧ u ≤ v) ∧ ¬ (v ≤ u ∧ u < w)) ∧
    match rnd with
    | .rtz => |w| ≤ |v|
    | .rdn => w ≤ v
    | .rup => v ≤ w
    | .rne => ∀ u, has u → |w - v| ≤ |u - v| ∧ (|w - v| = |u - v| → u ≠ w → even)
    | .rna => ∀ u, has u → |w - v| ≤ |u - v| ∧ (|w - v| = |u - v| → u ≠ w → |v| < |w|)
    | .sr r => ∀ u, has u → min u w < v → v < max u w → (∀ x, has x → ¬ (min u w < x ∧ x < max u w)) →
        (|u| < |w| ↔ 2 ^ 24 ≤ ⌊2 ^ 24 * ((|v| - min |u| |w|) / (max |u| |w| - min |u| |w|))⌋ + (r : Int))

/-- Code c of format f is what a finite v, of sign neg, converts to under a rounding code and SAT (R166, R168): past the largest magnitude M, where
the number before it would be half a unit more, it is ±M or the code that overflow gives. -/
def ConvertsTo (f : Fmt) (rnd : Rnd) (sat neg : Bool) (v : ℚ) (c : Nat) : Prop :=
  let has (u : ℚ) : Prop := ∃ d, (unpack f d).finite = true ∧ (unpack f d).value = u
  let most := (unpack f f.maxCode).value
  let half : ℚ := (2 : ℚ) ^ ((if f.top = .ieee then (f.bias : Int) else f.bias + 1) - f.m - 1)
  let past := match f.top with | .ieee => f.infCode | .e4m3 => 0x7F | .finite => f.maxCode
  let nearest := rnd = .rne ∨ rnd = .rna
  let away := (rnd = .rup ∧ neg = false) ∨ (rnd = .rdn ∧ neg = true)
  let toward := rnd = .rtz ∨ (rnd = .rup ∧ neg = true) ∨ (rnd = .rdn ∧ neg = false)
  c / 2 ^ (f.width - 1) = (if neg then 1 else 0) ∧
    (|v| ≤ most → (unpack f c).finite = true ∧ Rounds rnd v (unpack f c).value has (c % 2 = 0)) ∧
    (most < |v| →
      (sat = true ∨ toward ∨ (nearest ∧ |v| < most + half) ∨ (|v| = most + half ∧ rnd = .rne ∧ f.top = .e4m3) → c = withSign f neg f.maxCode) ∧
      (sat = false → away ∨ (nearest ∧ most + half < |v|) ∨ (|v| = most + half ∧ (rnd = .rna ∨ (rnd = .rne ∧ f.top = .ieee))) ∨
        ((∃ r, rnd = .sr r) ∧ most + 2 * half ≤ |v|) → c = withSign f neg past))

/-- v is a w-bit pattern with the bits f, extended by its type as Res does (R224). -/
def HasBits (t : Ty) (v : W64) (f : Nat → Bool) : Prop := (∀ j < t.width, v.getLsbD j = f j) ∧ v = res t v.toNat

/-- Operation i buffers the effect e until its block instance commits (R312), in the slot being performed; where the tag-op of a
token it reports later is not allowed, it takes that fault. -/
def Buffers (i : Instr) (s : Machine.State) (e : Eff) (late : List (Option Target)) : Prop :=
  ((∀ t ∈ late, lateFault s.inst.ctx t = none) → exec i s = .next (s.addEff e)) ∧
    ((∃ t ∈ late, lateFault s.inst.ctx t ≠ none) → ∃ f, exec i s = .next (s.fault f))

/-! ### Events, and the units that they name -/

/-- Instruction i is an event of the opcode table, not an operation of a slot. -/
def isEvent (i : Instr) : Bool :=
  match i with
  | .tokenArrival _ | .holdingQueueDrain _ | .bundleIssue _ | .trapEntry _ _ | .abortFaultRecord _ _ | .instancePromotion _ _
  | .bundleFinish _ _ | .blockCommit _ _ | .deferredReplacementCommit _ _ | .loopSpawn _ _ | .loopContinuation _ _ | .tagDeadlockCheck _
  | .throttleEvent _ | .tspawnAtHub _ _ | .taskPlacement _ _ _ | .tileDelivery _ | .activation _ | .taskReserving _ _ | .frameEndDone _ _
  | .moveComplete _ _ | .powerGrant _ _ | .railCurrentSample _ _ | .matrixFiringStart _ | .kStep _ | .matrixFiringEnd _
  | .matrixJobDone _ _ | .msortPass _ | .loadReply _ | .doneTokenFire _ _ _ | .drainWaitEnd _ _ | .pfenceWaitEnd _ _ | .stashFlushDone _ _
  | .wuntilTick _ _ | .copyComplete _ _ | .spopDelivery _ _ | .tslotqWaitDelivery _ _ | .claimReply _ | .taskidReply _
  | .registrationAtRouter _ | .pruneAtRouter _ | .publishFlitAtRouter _ | .registrationAtHome _ | .pruneAtHome _
  | .directoryIngressRetry _ _ | .publishAtHome _ | .claimAtHome _ | .retainAtHome _ | .retentionExpiry _ _ _ | .collAtHome _
  | .partialAtHome _ | .partialRetry _ _ | .partialUnregisteredDrop _ _ | .registrationReply _ | .fetchAtRim _ | .fetchPublish _ _
  | .streamElementAtRouter _ | .creditReturn _ | .branchstallExpiry _ _ | .detachNotice _ | .unicastRerequest _ | .circAtRouter _
  | .circrelAtRouter _ | .circIdleExpiry _ _ | .requestAtHome _ | .probeAckAtHome _ | .writebackAtHome _ | .atomicAtHome _ | .fillReply _
  | .rxGrant _ | .probeDown _ | .probeInv _ | .pageWalk _ _ _ | .hbmSectorReply _ _ | .pageMigration _ _ | .migrationForward _ _
  | .barcAtBarrier _ | .baraAtBarrier _ | .barwAtBarrier _ | .sigaddAtHome _ | .sigwaitAtHome _ | .persistEpochStart _ | .dRecordWritten _
  | .cDomainPowerLoss _ _ | .cDomainRevival _ | .replayStallTimeout _ _ | .fieldPowerLoss _ | .fieldRevivalResend _ _
  | .preemptMarkerEffect _ _ | .parkIssueCutoff _ _ | .frameRestore _ _ | .frameWatchdogExpiry _ _ | .tileWatchdogExpiry _
  | .thermalLevelRise _ _ | .criticalRailRemoval _ | .thermalLevelFall _ _ | .spineSwitch _ | .moduleStart _ | .svnminUpdate _
  | .securityAlarm _ _ | .spdmGetVersion _ | .spdmGetCapabilities _ | .spdmNegotiateAlgorithms _ | .spdmGetDigests _
  | .spdmGetCertificate _ | .spdmChallenge _ | .spdmGetMeasurements _ _ _ | .bar4Read _ _ _ | .bar4Write _ _ _
  | .publishHeaderPayload _ _ _ _ _ _ | .publishHeaderGlobal _ _ _ _ _ _ | .hxresMapped _ _ | .hxresDeclined _ _ | .hptedataWrite _ _
  | .htlbinvAsid _ | .htlbinvPage _ _ | .hsubArm _ _ _ | .hsubWithdraw _ _ | .hsubciWrite _ _ _ | .hostDelivery _ _ | .hpctlCreate _
  | .hpctlDestroy _ | .hdstepArm _ _ | .hdstepDisarm _ | .hjclr _ | .registerWrite _ _ _ _ | .functionLevelReset _ | .loaderLaunch _ _
  | .spanFrameReceive _ _ _ _ | .spanReplay _ | .spanLinkDown _ | .spanPublishDrop _ _ | .tokenSampleEject _ _ | .counterSnapshot _
  | .lifeStorePersist _ | .lifeSample _ _ _ | .fieldPowerReturn _ | .spanLinkUp _ | .hbmAccessAtRim _ _ | .stackSelfRefresh _
  | .supervisorOperationComplete _ _ | .nameOperationAcknowledgement _ | .claimReleaseAtHome _ | .nameEntryRelease _ _ => true
  | _ => false

/-- Instruction i is an event that names a unit which the module does not have. -/
def missingUnit (i : Instr) : Bool :=
  match i with
  | .tokenArrival u | .holdingQueueDrain u | .bundleIssue u | .trapEntry u _ | .abortFaultRecord u _ | .instancePromotion u _
  | .bundleFinish u _ | .blockCommit u _ | .deferredReplacementCommit u _ | .loopSpawn u _ | .loopContinuation u _ | .tagDeadlockCheck u
  | .throttleEvent u | .activation u | .taskReserving u _ | .frameEndDone u _ | .moveComplete u _ | .matrixFiringStart u | .kStep u
  | .matrixFiringEnd u | .matrixJobDone u _ | .msortPass u | .doneTokenFire u _ _ | .drainWaitEnd u _ | .pfenceWaitEnd u _
  | .stashFlushDone u _ | .wuntilTick u _ | .copyComplete u _ | .spopDelivery u _ | .tslotqWaitDelivery u _ | .directoryIngressRetry u _
  | .retentionExpiry u _ _ | .partialRetry u _ | .partialUnregisteredDrop u _ | .branchstallExpiry u _ | .circIdleExpiry u _
  | .persistEpochStart u | .dRecordWritten u | .cDomainPowerLoss u _ | .cDomainRevival u | .replayStallTimeout u _
  | .preemptMarkerEffect u _ | .parkIssueCutoff u _ | .frameRestore u _ | .frameWatchdogExpiry u _ | .tileWatchdogExpiry u | .spineSwitch u
  | .tokenSampleEject u _ | .supervisorOperationComplete u _ | .nameEntryRelease u _ => Config.numTiles ≤ u
  | .taskPlacement u _ _ | .powerGrant u _ | .railCurrentSample u _ | .fieldPowerLoss u | .thermalLevelRise u _ | .criticalRailRemoval u
  | .thermalLevelFall u _ | .lifeStorePersist u | .lifeSample u _ _ | .fieldPowerReturn u => Config.numFields ≤ u
  | .bar4Read u _ _ | .bar4Write u _ _ | .publishHeaderPayload u _ _ _ _ _ | .publishHeaderGlobal u _ _ _ _ _ | .hptedataWrite u _
  | .htlbinvAsid u | .htlbinvPage u _ | .hsubArm u _ _ | .hsubWithdraw u _ | .hsubciWrite u _ _ | .hostDelivery u _ | .hxresMapped u _
  | .hxresDeclined u _ | .hpctlCreate u | .hpctlDestroy u | .hdstepArm u _ | .hdstepDisarm u | .loaderLaunch u _ | .counterSnapshot u => 64 ≤ u
  | .spanFrameReceive u _ _ _ | .spanReplay u | .spanLinkDown u | .spanPublishDrop u _ | .spanLinkUp u => Config.numSpans ≤ u
  | .registerWrite (.vf u) _ _ _ => 64 ≤ u
  | .functionLevelReset u => 64 < u
  | .fetchPublish u _ | .migrationForward u _ => Config.numRims ≤ u
  | .stackSelfRefresh r => Config.numRims ≤ r.agent
  | .pageMigration src dst => Config.numRims ≤ src / Machine.stackBytes ∨ Config.numRims ≤ dst / Machine.stackBytes
  | .pageWalk u _ _ => Config.numTiles + Config.numRims ≤ u
  | .fieldRevivalResend u f => Config.numTiles + Config.numRims ≤ u ∨ Config.numFields ≤ f
  | .securityAlarm k _ => 5 ≤ k.toNat
  | _ => false

/-- Message m of the network is x, and may arrive next. -/
def Arrives (s : Machine.State) (m : Nat) (x : Msg) : Prop := s.net[m]? = some x ∧ s.arrivable m = true

/-- Operation i takes fault f. -/
def Faults (i : Instr) (s : Machine.State) (f : FaultInfo) : Prop := exec i s = .next (s.fault f)

end Sys2Proof
end

