-- ==== Sys2Proof/Certificates/Slice0/Obligations.lean ====
section
/-! DEFINITION. The statements for the provers, file by file of the spec. Each docstring names the rules it formalises. -/

open Sys2Proof Sys2Proof.Machine

/-! ### Scalar operations (spec/09) -/

/-- R225 with R224: the arithmetic operations, comparisons, SEL and MOV. -/
def Obligations.ScalarArithmeticResults : Prop :=
  ∀ (t : Ty) (a b c : Src) (d : Dst) (s : State),
    let x := opnd t (s.sc a)
    let y := opnd t (s.sc b)
    let truth (p : Bool) : Val := .scalar (if p then 1 else 0)
    Delivers (.add t a b d) s d 0 (.scalar (res t (x + y))) ∧
    Delivers (.sub t a b d) s d 0 (.scalar (res t (x - y))) ∧
    Delivers (.mul t a b d) s d 0 (.scalar (res t (x * y))) ∧
    Delivers (.mulh t a b d) s d 0 (.scalar (res t (x * y / 2 ^ t.width))) ∧
    Delivers (.absOp t a d) s d 0 (.scalar (res t (if x < 0 then -x else x))) ∧
    Delivers (.min t a b d) s d 0 (.scalar (res t (if x ≤ y then x else y))) ∧
    Delivers (.max t a b d) s d 0 (.scalar (res t (if x ≤ y then y else x))) ∧
    Delivers (.ceq t a b d) s d 0 (truth (x = y)) ∧
    Delivers (.cne t a b d) s d 0 (truth (x ≠ y)) ∧
    Delivers (.clt t a b d) s d 0 (truth (x < y)) ∧
    Delivers (.cle t a b d) s d 0 (truth (x ≤ y)) ∧
    Delivers (.sel a b c d) s d 0 (.scalar (if s.sc a ≠ 0 then s.sc b else s.sc c)) ∧
    Delivers (.mov t a d) s d 0 (.scalar (res t x))

/-- R224: Res keeps the value modulo 2^w and extends it by the type; Opnd reads the low w bits, signed or unsigned. -/
def Obligations.ResAndOpndOfIntegerTypes : Prop :=
  ∀ (t : Ty) (v : Int) (x : W64),
    (t.signed = true → (res t v).toInt % 2 ^ t.width = v % 2 ^ t.width ∧
      -(2 ^ (t.width - 1)) ≤ (res t v).toInt ∧ (res t v).toInt < 2 ^ (t.width - 1)) ∧
    (t.signed = false → ((res t v).toNat : Int) = v % 2 ^ t.width) ∧
    opnd t x % 2 ^ t.width = (x.toNat : Int) % 2 ^ t.width ∧
    (t.signed = true → -(2 ^ (t.width - 1)) ≤ opnd t x ∧ opnd t x < 2 ^ (t.width - 1)) ∧
    (t.signed = false → 0 ≤ opnd t x ∧ opnd t x < 2 ^ t.width)

/-- R226: DIV and REM, with division by 0 and the most negative value divided by −1. -/
def Obligations.DivideAndRemainderCases : Prop :=
  ∀ (t : Ty) (a b : Src) (d : Dst) (s : State),
    let x := opnd t (s.sc a)
    let y := opnd t (s.sc b)
    (y = 0 → Delivers (.div t a b d) s d 0 (.scalar (res t (2 ^ t.width - 1))) ∧
      Delivers (.rem t a b d) s d 0 (.scalar (res t x))) ∧
    (t.signed = true → x = -(2 ^ (t.width - 1)) → y = -1 → Delivers (.div t a b d) s d 0 (.scalar (res t x)) ∧
      Delivers (.rem t a b d) s d 0 (.scalar 0)) ∧
    (y ≠ 0 → Delivers (.div t a b d) s d 0 (.scalar (res t (x.tdiv y))) ∧
      Delivers (.rem t a b d) s d 0 (.scalar (res t (x.tmod y))))

/-- R225: the bitwise operations, shifts and rotation, bit by bit, with the count B[63:0] mod w; CLZ, CTZ, POPC and BREV of the w-bit pattern. -/
def Obligations.ScalarBitsShiftsAndCounts : Prop :=
  (∀ (t : Ty) (a b : Src) (d : Dst) (s : State),
      let x := s.sc a
      let y := s.sc b
      let w := t.width
      let k := y.toNat % w
      (∃ v, Delivers (.andOp t a b d) s d 0 (.scalar v) ∧ HasBits t v fun j => x.getLsbD j && y.getLsbD j) ∧
      (∃ v, Delivers (.orOp t a b d) s d 0 (.scalar v) ∧ HasBits t v fun j => x.getLsbD j || y.getLsbD j) ∧
      (∃ v, Delivers (.xor t a b d) s d 0 (.scalar v) ∧ HasBits t v fun j => x.getLsbD j ^^ y.getLsbD j) ∧
      (∃ v, Delivers (.andn t a b d) s d 0 (.scalar v) ∧ HasBits t v fun j => x.getLsbD j && !y.getLsbD j) ∧
      (∃ v, Delivers (.shl t a b d) s d 0 (.scalar v) ∧ HasBits t v fun j => decide (k ≤ j) && x.getLsbD (j - k)) ∧
      (∃ v, Delivers (.shr t a b d) s d 0 (.scalar v) ∧ HasBits t v fun j => decide (j + k < w) && x.getLsbD (j + k)) ∧
      (∃ v, Delivers (.sra t a b d) s d 0 (.scalar v) ∧ HasBits t v fun j => x.getLsbD (if j + k < w then j + k else w - 1)) ∧
      (∃ v, Delivers (.rol t a b d) s d 0 (.scalar v) ∧ HasBits t v fun j => x.getLsbD ((j + w - k) % w))) ∧
  (∀ (t : Ty) (a : Src) (d : Dst) (s : State),
      let w := t.width
      let p := (s.sc a).toNat % 2 ^ w
      (∃ n, Delivers (.clz t a d) s d 0 (.scalar (BitVec.ofNat 64 n)) ∧
        n ≤ w ∧ p < 2 ^ (w - n) ∧ (n < w → 2 ^ (w - 1 - n) ≤ p)) ∧
      (∃ n, Delivers (.ctz t a d) s d 0 (.scalar (BitVec.ofNat 64 n)) ∧
        n ≤ w ∧ p % 2 ^ n = 0 ∧ (n < w → p.testBit n = true)) ∧
      Delivers (.popc t a d) s d 0 (.scalar (BitVec.ofNat 64 ((Finset.range w).filter fun j => p.testBit j = true).card)) ∧
      (∃ v, Delivers (.brev t a d) s d 0 (.scalar v) ∧ HasBits t v fun j => (s.sc a).getLsbD (w - 1 - j)))

/-- R227: BFX and BFI, bit by bit. -/
def Obligations.BitFieldExtractAndInsert : Prop :=
  ∀ (t : Ty) (a b c : Src) (d : Dst) (s : State),
    let x := s.sc a
    (let pos := (s.sc b).toNat % 64
     let len := min ((s.sc b).toNat / 64 % 128) (64 - pos)
     ∃ v, Delivers (.bfx t a b d) s d 0 (.scalar v) ∧ (len = 0 → v = 0) ∧
       (0 < len → ∀ j < 64, v.getLsbD j =
         if j < len then x.getLsbD (pos + j) else decide (t = .i64) && x.getLsbD (pos + len - 1))) ∧
    (let pos := (s.sc c).toNat % 64
     let len := min ((s.sc c).toNat / 64 % 128) (64 - pos)
     ∃ v, Delivers (.bfi t a b c d) s d 0 (.scalar v) ∧
       ∀ j < 64, v.getLsbD j = if pos ≤ j ∧ j < pos + len then (s.sc b).getLsbD (j - pos) else x.getLsbD j)

/-- R229, R230: the floating operations deliver the code of their format, zero-extended, and raise their flags. R231: FCVT faults FMTCFG on a slot index above 31, a destination above 8, or a block format; else it converts the value of A under
the slot. -/
def Obligations.ScalarFloatOperations : Prop :=
  (∀ (t : Ty) (a b c : Src) (d : Dst) (s : State),
      let f := t.fmt
      let x := (s.sc a).toNat % 2 ^ f.width
      let y := (s.sc b).toNat % 2 ^ f.width
      let z := (s.sc c).toNat % 2 ^ f.width
      let out (r : Nat × FpFlags) (i : Instr) : Prop := Delivers i s d r.2 (.scalar (BitVec.ofNat 64 r.1))
      out (fadd f x y) (.fadd t a b d) ∧ out (fsub f x y) (.fsub t a b d) ∧ out (fmul f x y) (.fmul t a b d) ∧
      out (fma f x y z) (.fma t a b c d) ∧ out (fminmax f false x y) (.fmin t a b d) ∧
      out (fminmax f true x y) (.fmax t a b d) ∧ out (fcmp f x y) (.fcmp t a b d) ∧ out (fclass f x, 0) (.fclass t a d)) ∧
  (∀ (t : Ty) (a b c : Src) (d : Dst) (s : State),
      let n := (s.sc b).toNat
      let k := (s.sc c).toNat
      let w := s.iss.frame.fsOf n
      let x := if t.isFloat then unpack t.fmt ((s.sc a).toNat % 2 ^ t.fmt.width) else flOfInt (opnd t (s.sc a))
      let rnd := s.rnd w s.inst.iter 0
      (31 < n ∨ 8 < k ∨ (k = 0 ∧ (FmtSlot.fmt w = 5 ∨ FmtSlot.fmt w = 6)) → Faults (.fcvt t a b c d) s { cause := .fmtcfg }) ∧
      (n ≤ 31 → k = 0 → FmtSlot.fmt w ≠ 5 → FmtSlot.fmt w ≠ 6 →
        let r := if t.isFloat then convertCode t.fmt ((s.sc a).toNat % 2 ^ t.fmt.width) w rnd else convertSlot w rnd x
        Delivers (.fcvt t a b c d) s d r.2 (.scalar (BitVec.ofNat 64 r.1))) ∧
      (n ≤ 31 → 1 ≤ k → k ≤ 8 →
        let u := fcvtTy k
        let r := toIntRange rnd (if u.signed then -(2 ^ (u.width - 1)) else 0) (if u.signed then 2 ^ (u.width - 1) - 1 else 2 ^ u.width - 1) x
        Delivers (.fcvt t a b c d) s d r.2 (.scalar (res u r.1))))

/-- R230: FCMP is one-hot in bits 0 to 3, by the ordering of the operands, and a NaN is unordered; FCLASS is one-hot in bits 0 to 9
and raises nothing. R169, R230: FMIN and FMAX return the smaller and the larger operand, −0 below +0; the other operand beside a NaN, of two NaNs
the first, quieted; a signalling NaN raises NV. -/
def Obligations.FloatCompareAndClassAreOneHot : Prop :=
  (∀ f ∈ [Fmt.f32, Fmt.f16, Fmt.bf16, Fmt.a48], ∀ x y : Nat,
    let u := unpack f x
    let v := unpack f y
    let a := x % 2 ^ f.width
    let b := y % 2 ^ f.width
    let least := (fminmax f false x y).1
    let most := (fminmax f true x y).1
    (∀ g, (fminmax f g x y).2 = if u.isSnan || v.isSnan then Fp.nv else 0) ∧
    (u.isNan = false → v.isNan = true → least = a ∧ most = a) ∧ (u.isNan = true → v.isNan = false → least = b ∧ most = b) ∧
    (u.isNan = true → v.isNan = true → least = a ||| 2 ^ (f.m - 1) ∧ most = a ||| 2 ^ (f.m - 1)) ∧
    (u.isNan = false → v.isNan = false →
      (least = a ∨ least = b) ∧ (most = a ∨ most = b) ∧
      (u = .inf true ∨ v = .inf false → least = a ∧ most = b) ∧ (u = .inf false ∨ v = .inf true → least = b ∧ most = a) ∧
      (u.finite = true → v.finite = true → (unpack f least).value = min u.value v.value ∧ (unpack f most).value = max u.value v.value) ∧
      (u.isZero = true → v.isZero = true → (unpack f least).neg = (u.neg || v.neg) ∧ (unpack f most).neg = (u.neg && v.neg)))) ∧
  ∀ (f : Fmt) (x y : Nat),
    let u := unpack f x
    let v := unpack f y
    (fcmp f x y).1 = (if u.isNan || v.isNan then 8 else match cmpFl u v with | .lt => 1 | .eq => 2 | .gt => 4) ∧
    (fcmp f x y).2 = (if u.isSnan || v.isSnan then Fp.nv else 0) ∧
    ∃ k, k < 10 ∧ fclass f x = 2 ^ k ∧ (u.isNan = true ↔ 8 ≤ k) ∧ (u.isInf = true ↔ k = 0 ∨ k = 7) ∧
      (u.isZero = true ↔ k = 3 ∨ k = 4)

/-- R232: ADDA adds within the offset field of the pointer's window and never faults. -/
def Obligations.AddaKeepsWindowAndKey : Prop :=
  ∀ (a b : Src) (d : Dst) (s : State),
    let p := (s.sc a).toNat
    let n := p / 2 ^ 60
    let k := if n = 0 then 56 else if n = 12 then 16 else if n = 13 then 20 else if n = 14 then 24 else 64
    ∃ v : W64, Delivers (.adda a b d) s d 0 (.scalar v) ∧ v.toNat / 2 ^ k = p / 2 ^ k ∧
      v.toNat % 2 ^ k = (p + (s.sc b).toNat) % 2 ^ k

/-- R234: NAMEH and NAMEL build the name words, or take NAMECFG; that the fault's CW2 and CW3 are 0 there, where R382 names the halves of a name, is
log entry 63 (the model's choice). -/
def Obligations.NameWordsAreBuilt : Prop :=
  ∀ (a b c : Src) (d : Dst) (s : State),
    let x := (s.sc a).toNat
    let y := (s.sc b).toNat
    let z := (s.sc c).toNat
    (x / 2 ^ 32 ≠ 0 ∨ 4095 < y ∨ 4095 < z → Faults (.nameh a b c d) s { cause := .namecfg }) ∧
    (x / 2 ^ 32 = 0 → y ≤ 4095 → z ≤ 4095 →
      Delivers (.nameh a b c d) s d 0 (.scalar (BitVec.ofNat 64 (x * 2 ^ 24 + y * 2 ^ 12 + z)))) ∧
    (4095 < x ∨ 4095 < y ∨ 65535 < z → Faults (.namel a b c d) s { cause := .namecfg }) ∧
    (x ≤ 4095 → y ≤ 4095 → z ≤ 65535 →
      Delivers (.namel a b c d) s d 0 (.scalar (BitVec.ofNat 64 (x * 2 ^ 28 + y * 2 ^ 16 + z))))

/-- R100, R233: SPQ answers kind, key and validity; SPCV to an offset checks the pointer and its kind; SPCV to a pointer and MKWIN build
one alike, or take WINFAULT. R100: a pointer that MKWIN makes passes the checks of R97 for one byte, is of the kind asked for, and its offset is the operand. The field ordinal MKWIN puts in is that of the field
that holds the frame now (log entry 19), and the address of its WINFAULT is the operand (log entry 98): the model's choices. -/
def Obligations.WindowOperations : Prop :=
  (∀ (k : BitVec 2) (a : Src) (d : Dst) (s : State),
      let p := s.sc a
      let n := ptrCheck s.acc p 1 1
      Delivers (.spq a d) s d 0
        (.scalar (BitVec.ofNat 64 (ptrKind p + (if ptrKind p ≠ 7 ∧ keyOk s.acc p then 8 else 0) + (if n = 0 then 16 else 0)))) ∧
      (n = 0 → ptrKind p = k.toNat → Delivers (.spcvTooff k a d) s d 0 (.scalar (BitVec.ofNat 64 (ptrOff p)))) ∧
      (n = 0 → ptrKind p ≠ k.toNat → Faults (.spcvTooff k a d) s { cause := .winfault, addr := p }) ∧
      (n ≠ 0 → Faults (.spcvTooff k a d) s { cause := if n = 3 then .scrforeign else if n = 6 then .align else .winfault, addr := p }) ∧
      (∀ q, mkwin s.acc (s.fieldOrdinal s.iss.tile) k p = some q →
        Delivers (.mkwin k a d) s d 0 (.scalar q) ∧ Delivers (.spcvToptr k a d) s d 0 (.scalar q)) ∧
      (mkwin s.acc (s.fieldOrdinal s.iss.tile) k p = none →
        Faults (.mkwin k a d) s { cause := .winfault, addr := p } ∧ Faults (.spcvToptr k a d) s { cause := .winfault, addr := p })) ∧
  (∀ (x : Access) (ord : Nat) (k : BitVec 2) (off p : W64), ord < 64 → ord < x.nfields → x.privkb ≤ 64 →
      mkwin x ord k off = some p → ptrCheck x p 1 1 = 0 ∧ ptrKind p = k.toNat ∧ ptrOff p = off.toNat)

/-! ### Tag-level control (spec/09) -/

/-- R237 to R239: STEER, MERGE, GATE and JOIN. A GATE that delivers nothing leaves the state as it is, but for a latch, which then
holds a free value that depends on A and on what it held (log entry 4), and that value is a scalar whatever A is (log entry 107): the model's choices. R236, R240, R243: the terminal operations of the S slot, and where GOTO and RETB fault; which
of ILLOP, TAGX and ILLBUN comes first where several hold is log entry 61, and that RETB is ILLOP in every context that is not a call child log entry 95
(the model's choices). -/
def Obligations.SteersAndTerminals : Prop :=
  (∀ (a b c : Src) (t0 t1 : Option Target) (d : Dst) (s : State),
      let path : TagOp := if s.sc a ≠ 0 then .path1 else .path0
      let pick (t : Option Target) : Option Target := t.filter fun x => x.top == path
      (s.tgtsFault ((pick t0).toList ++ (pick t1).toList) = none →
        exec (.steer a b (.targets t0 t1)) s = .next (delivered s (.targets (pick t0) (pick t1)) 0 (s.carried b))) ∧
      Delivers (.merge d) s d 0 (s.carried (.p (BitVec.ofNat 2 s.iss.set.formed))) ∧
      Delivers (.join a b c d) s d 0 (s.carried a) ∧
      (s.sc b ≠ 0 → Delivers (.gate a b d) s d 0 (s.carried a)) ∧
      (s.sc b = 0 → (∀ r, d ≠ .latch r) → exec (.gate a b d) s = .next s) ∧
      (s.sc b = 0 → ∀ r, exec (.gate a b (.latch r)) s =
        .next (delivered s (.latch r) 0 (.scalar (Config.gateLatch (s.carried a) ((s.iss.latches.get? r.toNat).map (·.2))))))) ∧
  (∀ (a b c : Src) (t0 t1 : Option Target) (s : State),
      let off := (s.sc c).toNat % 2 ^ 20
      let block := (s.iss.set.block + off) % 2 ^ 20
      let both (t : Term) : State := s.modIss fun x => ({ x with term := some t }.put 0 t0 (s.carried a)).put 1 t1 (s.carried b)
      exec .sink s = .next (s.modIss fun x => { x with term := some .sink }) ∧
      (s.tgtsFault (t0.toList ++ t1.toList) = none → exec (.exitOp a b (.targets t0 t1)) s = .next (both .exit)) ∧
      (s.inst.issuedSpawn = true → Faults (.goto c) s { cause := .illop } ∧ Faults (.retb a b (.targets t0 t1)) s { cause := .illop }) ∧
      (s.inst.issuedSpawn = false → off % 64 = 0 → block < s.iss.frame.task.codekb * 1024 →
        exec (.goto c) s = .next (s.modIss fun x => { x with term := some (.goto block) })) ∧
      (s.inst.issuedSpawn = false → (off % 64 ≠ 0 ∨ s.iss.frame.task.codekb * 1024 ≤ block) → exec (.goto c) s = .next s.illBun) ∧
      (∀ n, s.inst.issuedSpawn = false → s.inst.ctx = .call n → s.tgtsFault (t0.toList ++ t1.toList) = none →
        exec (.retb a b (.targets t0 t1)) s = .next (both .retb)) ∧
      ((∀ n, s.inst.ctx ≠ .call n) → Faults (.retb a b (.targets t0 t1)) s { cause := .illop }))

/-- R52, R203, R236, R241 to R243: LOOP, LOOP vec, WHILE and CALLB record what their commit starts; their spawn targets take the trip count or
the carried values, their same targets an order token. A second one, or one beside GOTO or RETB, is ILLOP, one at depth 7 TAGX, and an offset
that names no block header ILLBUN. The order of ILLOP, TAGX and ILLBUN is log entry 61 (the model's choice). -/
def Obligations.LoopsAndCallsAreRecorded : Prop :=
  ∀ (a b c : Src) (t0 t1 : Option Target) (s : State),
    let d : Dst := .targets t0 t1
    let o0 := (s.sc c).toNat % 2 ^ 20
    let o1 := (s.sc c).toNat / 2 ^ 20 % 2 ^ 20
    let at0 := (s.iss.set.block + o0) % 2 ^ 20
    let at1 := (s.iss.set.block + o1) % 2 ^ 20
    let trip := (s.sc a).toNat % 2 ^ 32
    let p := s.iss.set.p
    let pd := s.iss.set.pd
    let bun := s.iss.set.bun
    let started (sp : Spawn) (v0 v1 : Val) : State := s.modIss fun x =>
      ({ x with spawn := some sp }.put 0 t0 (if t0.map Target.top = some TagOp.spawn then v0 else .order)).put 1 t1
        (if t1.map Target.top = some TagOp.spawn then v1 else .order)
    (s.inst.issuedSpawn = false → s.inst.term ≠ some .retb → (∀ n, s.inst.term ≠ some (.goto n)) → s.inst.depth < 7 →
      o0 % 64 = 0 → o1 % 64 = 0 → at0 < s.iss.frame.task.codekb * 1024 → at1 < s.iss.frame.task.codekb * 1024 →
      s.tgtsFault d.tgts = none →
      exec (.loop a b c d) s = .next (started (.loop false trip (s.sc b) at0 at1 p pd bun) (.scalar (w64 trip)) (.scalar (w64 trip))) ∧
      exec (.loopVec a b c d) s = .next (started (.loop true trip (s.sc b) at0 at1 p pd bun) (.scalar (w64 trip)) (.scalar (w64 trip))) ∧
      exec (.whileOp a c d) s = .next (started (.whileLoop at0 at1 p pd bun) (s.carried a) (s.carried a)) ∧
      exec (.callb a b c d) s = .next (started (.call at0 at1 p pd bun) (s.carried a) (s.carried b))) ∧
    (∀ i ∈ [Instr.loop a b c d, .loopVec a b c d, .whileOp a c d, .callb a b c d],
      (s.inst.issuedSpawn = true ∨ s.inst.term = some .retb ∨ (∃ n, s.inst.term = some (.goto n)) → Faults i s { cause := .illop }) ∧
      (s.inst.issuedSpawn = false → s.inst.term ≠ some .retb → (∀ n, s.inst.term ≠ some (.goto n)) → 7 ≤ s.inst.depth →
        Faults i s { cause := .tagx, cw1 := 3, cw2 := w64 (s.c s.iss.tile).tagFree, cw3 := w64 (s.c s.iss.tile).dmax }) ∧
      (s.inst.issuedSpawn = false → s.inst.term ≠ some .retb → (∀ n, s.inst.term ≠ some (.goto n)) → s.inst.depth < 7 →
        (o0 % 64 ≠ 0 ∨ o1 % 64 ≠ 0 ∨ s.iss.frame.task.codekb * 1024 ≤ at0 ∨ s.iss.frame.task.codekb * 1024 ≤ at1) →
        Faults i s { cause := .illbun, addr := w64 (s.iss.set.block + 64 * bun) }))

/-- R51, R244, R245, R247: the queries of a frame that is not durable; FRAMEQ of a supervisor CSR is PRIV, and of an address above 0x7FF
ILLOP; TAGQ reads an entry of its own frame, and in frame 63 any entry, where R244 alone would give 0 (log entry 112: the
model's choice). R248: outside a replay, each query of a durable frame enters the inbound log under the replay key, with the value it delivers. -/
def Obligations.QueriesOfAFrame : Prop :=
  (∀ (k : BitVec 2) (a : Src) (d : Dst) (s : State), s.iss.frame.pmodeNow = false →
      let x := (s.sc a).toNat
      let f := s.iss.set.frame
      Delivers (.qtime a d) s d 0 (.scalar (s.iss.tick + s.sc a)) ∧
      (x < 0x400 → Delivers (.frameq a d) s d 0 (.scalar (s.frameCsr s.iss.tile f s.iss.frame s.iss.tick x))) ∧
      (0x400 ≤ x → x ≤ 0x7FF → Faults (.frameq a d) s { cause := .priv }) ∧
      (0x7FF < x → Faults (.frameq a d) s { cause := .illop }) ∧
      (let g := x / 2 ^ 26 % 64
       let e := (s.c s.iss.tile).inst? (x / 2 ^ 11 % 2 ^ 15)
       (∀ i : Inst, (g = f ∨ f = 63) → e = some i → i.frame = g →
         Delivers (.tagq k a d) s d 0 (.scalar (w64 (i.entryBits / 2 ^ (64 * k.toNat))))) ∧
       ((g ≠ f ∧ f ≠ 63) ∨ (∀ i, e = some i → i.frame ≠ g) → Delivers (.tagq k a d) s d 0 (.scalar 0)))) ∧
  (∀ (k : BitVec 2) (a : Src) (d : Dst) (s : State), s.iss.frame.pmodeNow = true → (s.tile s.iss.tile).slate.replaying = false →
      s.tgtsFault d.tgts = none →
      let x := (s.sc a).toNat
      let own (g : Nat) : Bool := decide (g = s.iss.set.frame) || decide (s.iss.set.frame = 63)
      let entry : W64 := match (s.c s.iss.tile).inst? (x / 2 ^ 11 % 2 ^ 15) with
        | some i => if own (x / 2 ^ 26 % 64) = true ∧ i.frame = x / 2 ^ 26 % 64 then w64 (i.entryBits / 2 ^ (64 * k.toNat)) else 0
        | none => 0
      let logged (i : Instr) (v : W64) : Prop := ∃ s', exec i s = .next s' ∧
        (s'.tile s.iss.tile).slate.inlog = (s.tile s.iss.tile).slate.inlog ++ [.reading (readKey s.inst s.iss.set) s.iss.slot 1 v .taken] ∧
        s'.iss = s.iss.dst d (.scalar v)
      logged (.qtime a d) (s.iss.tick + s.sc a) ∧ logged (.tagq k a d) entry ∧
      (x < 0x400 → logged (.frameq a d) (s.frameCsr s.iss.tile s.iss.set.frame s.iss.frame s.iss.tick x)))


/-! ### Vector operations (spec/10) -/

/-- R254, R255: lanewise arithmetic; integer elements wrap by Res, floating ones round once and raise their flags. R256 to R258: lanewise
logic, shifts, counts, comparisons, selection and classification; a true comparison sets every bit of its element. -/
def Obligations.VectorArithmeticAndLogic : Prop :=
  (∀ (t : Ty) (a b c : Src) (d : Dst) (s : State),
      let int (g : Int → Int → Int) (x y : Nat) : Nat × FpFlags := ((res t (g (opnd t (w64 x)) (opnd t (w64 y)))).toNat % 2 ^ 32, 0)
      let two (g : Int → Int → Int) (f : Fmt → Nat → Nat → Nat × FpFlags) (x y _z : Nat) : Nat × FpFlags :=
        if t.isFloat then f t.fmt x y else int g x y
      let sign : Nat := 2 ^ (t.fmt.width - 1)
      DeliversLanes (.vadd t a b d) s d (lanes3 s t (two (fun x y => x + y) fadd) a b .zero) ∧
      DeliversLanes (.vsub t a b d) s d (lanes3 s t (two (fun x y => x - y) fsub) a b .zero) ∧
      DeliversLanes (.vmul t a b d) s d (lanes3 s t (two (fun x y => x * y) fmul) a b .zero) ∧
      DeliversLanes (.vmin t a b d) s d (lanes3 s t (two (fun x y => if x ≤ y then x else y) fun f => fminmax f false) a b .zero) ∧
      DeliversLanes (.vmax t a b d) s d (lanes3 s t (two (fun x y => if x ≤ y then y else x) fun f => fminmax f true) a b .zero) ∧
      DeliversLanes (.vmulh t a b d) s d (lanes3 s t (fun x y _ => int (fun x y => x * y / 2 ^ t.elemWidth) x y) a b .zero) ∧
      DeliversLanes (.vabs t a d) s d (lanes3 s t (two (fun x _ => if x < 0 then -x else x) fun _ x _ => (x % sign, 0)) a .zero .zero) ∧
      DeliversLanes (.vneg t a d) s d (lanes3 s t (two (fun x _ => -x) fun _ x _ => (x ^^^ sign, 0)) a .zero .zero) ∧
      DeliversLanes (.vfma t a b c d) s d (lanes3 s t (fmaWith t.fmt false false) a b c) ∧
      DeliversLanes (.vfms t a b c d) s d (lanes3 s t (fmaWith t.fmt false true) a b c) ∧
      DeliversLanes (.vfnma t a b c d) s d (lanes3 s t (fmaWith t.fmt true false) a b c) ∧
      DeliversLanes (.vclamp t a b c d) s d (lanes3 s t (fun x y z =>
        let m := two (fun x y => if x ≤ y then y else x) (fun f => fminmax f true) x y 0
        let r := two (fun x y => if x ≤ y then x else y) (fun f => fminmax f false) m.1 z 0
        (r.1, m.2 ||| r.2)) a b c)) ∧
  (∀ (t : Ty) (a b c : Src) (d : Dst) (s : State),
      let w := t.elemWidth
      let bits (f : Nat → Nat → Nat) (x y _z : Nat) : Nat × FpFlags := ((res t (f x y : Nat)).toNat % 2 ^ 32, 0)
      let cmp (un : Bool) (p : Ordering → Bool) (x y _z : Nat) : Nat × FpFlags :=
        let u := unpack t.fmt x
        let v := unpack t.fmt y
        let truth (q : Bool) : Nat := if q then (if t.packed then 0xFFFF else 0xFFFFFFFF) else 0
        if t.isFloat then (truth (if u.isNan || v.isNan then un else p (cmpFl u v)), if u.isSnan || v.isSnan then Fp.nv else 0)
        else (truth (p (compare (opnd t (w64 x)) (opnd t (w64 y)))), 0)
      DeliversLanes (.vand t a b d) s d (lanes3 s t (bits fun x y => x &&& y) a b .zero) ∧
      DeliversLanes (.vor t a b d) s d (lanes3 s t (bits fun x y => x ||| y) a b .zero) ∧
      DeliversLanes (.vxor t a b d) s d (lanes3 s t (bits fun x y => x ^^^ y) a b .zero) ∧
      DeliversLanes (.vandn t a b d) s d (lanes3 s t (bits fun x y => x ^^^ (x &&& y)) a b .zero) ∧
      DeliversLanes (.vshl t a b d) s d (lanes3 s t (bits fun x y => x * 2 ^ (y % w)) a b .zero) ∧
      DeliversLanes (.vshr t a b d) s d (lanes3 s t (bits fun x y => x / 2 ^ (y % w)) a b .zero) ∧
      DeliversLanes (.vsra t a b d) s d (lanes3 s t (fun x y _ => ((res t (signedOf w x / 2 ^ (y % w))).toNat % 2 ^ 32, 0)) a b .zero) ∧
      DeliversLanes (.vclz t a d) s d (lanes3 s t (fun x _ _ => (if x = 0 then w else w - 1 - Nat.log2 x, 0)) a .zero .zero) ∧
      DeliversLanes (.vpopc t a d) s d (lanes3 s t (fun x _ _ => (((List.range w).filter fun k => x.testBit k).length, 0)) a .zero .zero) ∧
      DeliversLanes (.vceq t a b d) s d (lanes3 s t (cmp false fun o => o == .eq) a b .zero) ∧
      DeliversLanes (.vcne t a b d) s d (lanes3 s t (cmp true fun o => o != .eq) a b .zero) ∧
      DeliversLanes (.vclt t a b d) s d (lanes3 s t (cmp false fun o => o == .lt) a b .zero) ∧
      DeliversLanes (.vcle t a b d) s d (lanes3 s t (cmp false fun o => o != .gt) a b .zero) ∧
      DeliversLanes (.vcun t a b d) s d (lanes3 s t (cmp true fun _ => false) a b .zero) ∧
      DeliversLanes (.vsel t a b c d) s d (lanes3 s (if t.packed then .i16x2 else .n32) (fun x y z => (if x ≠ 0 then y else z, 0)) a b c) ∧
      DeliversLanes (.vclass t a d) s d (lanes3 s t (fun x _ _ => (fclass t.fmt x, 0)) a .zero .zero))

/-- R259 to R262: the conversions, VRNDI, VPACK and VUNPK, and where they take FMTCFG; log entry 65 says what the model chose in them. R166 to R170,
R231: a number converts into a format, or clamps into the range of an integer, as it rounds under the code, an infinity and a NaN as the rules say, and so
into the formats of a slot. -/
def Obligations.VectorConversionsAndPacking : Prop :=
  (∀ f ∈ [Fmt.f32, Fmt.f16, Fmt.bf16, Fmt.e4m3, Fmt.e5m2, Fmt.e2m1, Fmt.a48], ∀ (rnd : Rnd) (sat neg : Bool),
    (∀ k e, ConvertsTo f rnd sat neg (Fl.fin neg k e).value (convertFl f rnd sat (.fin neg k e)).1 ∧
      ((unpack f (convertFl f rnd sat (.fin neg k e)).1).finite = true →
        (unpack f (convertFl f rnd sat (.fin neg k e)).1).value = (Fl.fin neg k e).value → (convertFl f rnd sat (.fin neg k e)).2 = 0)) ∧
    (sat = true ∨ f.top = .finite → convertFl f rnd sat (.inf neg) = (withSign f neg f.maxCode, Fp.sat)) ∧
    (sat = false → f.top = .ieee → convertFl f rnd sat (.inf neg) = (withSign f neg f.infCode, 0)) ∧
    (sat = false → f.top = .e4m3 → (rnd = .rne ∨ rnd = .rna ∨ ∃ r, rnd = .sr r) → convertFl f rnd sat (.inf neg) = (withSign f neg 0x7F, Fp.nv)) ∧
    (∀ frac m quiet, frac < 2 ^ m →
      (convertFl f rnd sat (.nan neg frac m quiet)).2 = (if quiet = false ∨ f.top = .finite then Fp.nv else 0) ∧
      (convertFl f rnd sat (.nan neg frac m quiet)).1 = match f.top with
        | .finite => 0
        | .e4m3 => withSign f neg 0x7F
        | .ieee => withSign f neg (f.infCode ||| 2 ^ (f.m - 1) ||| if f.m ≤ m then frac / 2 ^ (m - f.m) else frac * 2 ^ (f.m - m)))) ∧
  (∀ (rnd : Rnd) (lo hi : Int) (neg : Bool) (k : Nat) (e : Int), lo ≤ hi →
    let v := (Fl.fin neg k e).value
    let n := toIntRange rnd lo hi (.fin neg k e)
    lo ≤ n.1 ∧ n.1 ≤ hi ∧ (v ≤ lo → n.1 = lo) ∧ ((hi : ℚ) ≤ v → n.1 = hi) ∧
    ((lo : ℚ) ≤ v → v ≤ hi → Rounds rnd v n.1 (fun u => ∃ z : Int, u = z) (n.1 % 2 = 0) ∧ n.2 = if (n.1 : ℚ) = v then 0 else Fp.nx) ∧
    (v ≤ lo - 1 ∨ (hi : ℚ) + 1 ≤ v → n.2 = Fp.nv) ∧
    toIntRange rnd lo hi (.inf neg) = (if neg then lo else hi, Fp.nv) ∧ ∀ frac m quiet, toIntRange rnd lo hi (.nan neg frac m quiet) = (0, Fp.nv)) ∧
  (∀ (w : W64) (rnd : Rnd) (x : Fl),
    (∀ f, FmtSlot.float (FmtSlot.fmt w) = some f → convertSlot w rnd x = convertFl f rnd (FmtSlot.sat w) x) ∧
    (FmtSlot.fmt w = 10 → convertSlot w rnd x = (((toIntRange rnd (-128) 127 x).1 % 256).toNat, (toIntRange rnd (-128) 127 x).2)) ∧
    (FmtSlot.fmt w = 11 → convertSlot w rnd x = (((toIntRange rnd (-8) 7 x).1 % 16).toNat, (toIntRange rnd (-8) 7 x).2))) ∧
  ∀ (t : Ty) (a b c : Src) (d : Dst) (s : State),
    let n := (s.sc b).toNat
    let m := (s.sc c).toNat
    let k := m % 16
    let w := s.iss.frame.fsOf n
    let fmtcfg : FaultInfo := { cause := .fmtcfg }
    (31 < n ∨ 32 ≤ m ∨ 8 < k ∨ k = 1 ∨ k = 5 ∨ (k = 0 ∧ (FmtSlot.fmt w = 5 ∨ FmtSlot.fmt w = 6 ∨ FmtSlot.fmt w = 9)) →
      Faults (.vcvt t a b c d) s fmtcfg) ∧
    (n ≤ 31 → m < 32 → k ≤ 8 → k ≠ 1 → k ≠ 5 → (k = 0 → FmtSlot.fmt w ≠ 5 ∧ FmtSlot.fmt w ≠ 6 ∧ FmtSlot.fmt w ≠ 9) →
      DeliversLanes (.vcvt t a b c d) s d fun j =>
        let x := (lane (s.vec a) j).toNat
        let half (h : Nat) : Nat × FpFlags := s.cvtElem w k j h (elemVal t (x / 65536 ^ h % 65536))
        if t.packed then
          if k = 2 ∨ k = 6 ∨ (k = 0 ∧ FmtSlot.fmt w = 0) then (BitVec.ofNat 32 (half (m / 16)).1, (half (m / 16)).2)
          else (BitVec.ofNat 32 ((half 0).1 % 65536 + (half 1).1 % 65536 * 65536), (half 0).2 ||| (half 1).2)
        else
          let r := s.cvtElem w k j 0 (elemVal t (x % 2 ^ t.elemWidth))
          (BitVec.ofNat 32 (if k = 0 then r.1 else (res (cvtTy k) (opnd (cvtTy k) (w64 r.1))).toNat % 2 ^ 32), r.2)) ∧
    (4 < n → Faults (.vrndi t a b d) s fmtcfg) ∧
    (n ≤ 4 → DeliversLanes (.vrndi t a b d) s d (lanes3 s t (fun x _ _ => vrndi t.fmt (rndiDir n) x) a .zero .zero)) ∧
    (31 < n → Faults (.vcvti t a b d) s fmtcfg) ∧
    (n ≤ 31 → DeliversLanes (.vcvti t a b d) s d fun j =>
      let x := (lane (s.vec a) j).toNat
      let r := if t = .f32 then s.cvtElem w 2 j 0 (unpack Fmt.f32 x)
        else convertFl Fmt.f32 (s.rnd w (s.laneIter j) 0) false (flOfInt (signedOf 32 x))
      (BitVec.ofNat 32 r.1, r.2)) ∧
    (t ≠ .f32 → DeliversLanes (.vpack t a b c d) s d fun j => (packLane (s.vec a) (32 / t.elemWidth) t.elemWidth j, 0)) ∧
    (let u := s.iss.frame.fsOf m
     (t = .f32 → (31 < m ∨ (FmtSlot.fmt u ≠ 1 ∧ FmtSlot.fmt u ≠ 2)) → Faults (.vpack t a b c d) s fmtcfg) ∧
     (t = .f32 → m ≤ 31 → (FmtSlot.fmt u = 1 ∨ FmtSlot.fmt u = 2) → DeliversLanes (.vpack t a b c d) s d fun j =>
       let r0 := s.cvtElem u 0 j 0 (unpack Fmt.f32 (lane (s.vec a) j).toNat)
       let r1 := s.cvtElem u 0 j 1 (unpack Fmt.f32 (lane (s.vec b) j).toNat)
       (BitVec.ofNat 32 (r0.1 % 65536 + r1.1 % 65536 * 65536), r0.2 ||| r1.2))) ∧
    DeliversLanes (.vunpk t a b d) s d fun j =>
      let e := 32 * n + j
      let x := laneString (s.vec a) / 2 ^ (e * t.elemWidth) % 2 ^ t.elemWidth
      let r := convertFl Fmt.f32 .rne false (unpack t.fmt x)
      if 1024 / t.elemWidth ≤ e then (0, 0)
      else if t.isFloat then (BitVec.ofNat 32 r.1, r.2)
      else (BitVec.ofNat 32 ((res t (opnd t (w64 x))).toNat % 2 ^ 32), 0)

/-- R263: VQNT and VDQNT: by element under a Q slot, by block with a scale under an MX slot, else FMTCFG. R170: the code of a number under a Q slot
is its quotient by the scale, rounded to an integer, plus the zero point, clamped; a NaN gives the zero point. R171: the scale of a block is that of its
largest magnitude, and its elements are converted over it, saturating; a block with an infinity or a NaN has scale 255 and only zeros. -/
def Obligations.VectorQuantization : Prop :=
  (∀ (rnd : Rnd) (w scale z k : Nat) (neg : Bool) (e : Int), z < 2 ^ w → 0 < (unpack Fmt.f16 scale).value → (unpack Fmt.f16 scale).neg = false →
    let v := (Fl.fin neg k e).value / (unpack Fmt.f16 scale).value
    let q := toQ rnd w scale z (.fin neg k e)
    (∃ n : Int, Rounds rnd v n (fun u => ∃ y : Int, u = y) (n % 2 = 0) ∧ (q.1 : Int) = max 0 (min (2 ^ w - 1) (n + z)) ∧
      (n + z < 0 ∨ 2 ^ w ≤ n + z → q.2 = Fp.sat ||| Fp.ovf) ∧
      (0 ≤ n + z → n + z < 2 ^ w → q.2 = if (n : ℚ) = v ∧ ¬ (k = 0 ∧ neg = true) then 0 else Fp.nx)) ∧
    toQ rnd w scale z (.inf neg) = (if neg then 0 else 2 ^ w - 1, Fp.sat ||| Fp.ovf) ∧
    ∀ frac m quiet, toQ rnd w scale z (.nan neg frac m quiet) = (z, Fp.nv)) ∧
  (∀ (w : W64) (rnd : Rnd) (x : Fl), (FmtSlot.fmt w = 7 → convertSlot w rnd x = toQ rnd 8 (FmtSlot.scale w) (FmtSlot.zp w) x) ∧
    (FmtSlot.fmt w = 8 → convertSlot w rnd x = toQ rnd 4 (FmtSlot.scale w) (FmtSlot.zp w % 16) x)) ∧
  (∀ (w : W64) (l : List Fl) (s : State),
    let f := if FmtSlot.fmt w = 5 then Fmt.e2m1 else Fmt.e4m3
    let emax : Int := if FmtSlot.fmt w = 5 then 2 else 8
    let r := s.quantBlock w l
    ((∃ x ∈ l, x.finite = false) → r = (l.map fun _ => (0, 0), 255, Fp.nv)) ∧
    ((∀ x ∈ l, x.finite = true) →
      r.2.1 ≤ 254 ∧ r.2.2 = 0 ∧ r.1.length = l.length ∧ ((∀ x ∈ l, x.value = 0) → r.2.1 = 0) ∧
      (0 < r.2.1 → ∃ x ∈ l, (2 : ℚ) ^ ((r.2.1 : Int) - 127 + emax) ≤ |x.value|) ∧
      (r.2.1 < 254 → ∀ x ∈ l, |x.value| < (2 : ℚ) ^ ((r.2.1 : Int) - 126 + emax)) ∧
      ∀ j (h : j < l.length), ConvertsTo f (s.rnd w (s.laneIter j) j) true (l.getD j (.inf false)).neg
        ((l.getD j (.inf false)).value / (2 : ℚ) ^ ((r.2.1 : Int) - 127)) (r.1.getD j (0, 0)).1)) ∧
  ∀ (a b c : Src) (t0 t1 : Option Target) (d : Dst) (s : State),
    let n := (s.sc b).toNat
    let m := (s.sc c).toNat
    let w := s.iss.frame.fsOf n
    let mx := FmtSlot.fmt w = 5 ∨ FmtSlot.fmt w = 6
    let f := if FmtSlot.fmt w = 5 then Fmt.e2m1 else Fmt.e4m3
    let src : List Fl := (List.range s.iss.set.len).map fun j => unpack Fmt.f32 (lane (s.vec a) j).toNat
    let q : List (Nat × FpFlags) := (List.range s.iss.set.len).map fun j => convertSlot w (s.rnd w (s.laneIter j) j) (src.getD j (.fin false 0 0))
    let out (r : List (Nat × FpFlags)) (scale : Nat) (fl : FpFlags) : State := s.modIss fun x =>
      ({ x with flags := x.flags ||| (fl ||| orFlags r) }.put 0 t0 (s.vecVal (r.map fun (e : Nat × FpFlags) => BitVec.ofNat 32 e.1))).put 1 t1
        (.scalar (w64 scale))
    (31 < n → Faults (.vqnt a b d) s { cause := .fmtcfg } ∧ Faults (.vdqnt a b c d) s { cause := .fmtcfg }) ∧
    (n ≤ 31 → FmtSlot.isQ w = false → ¬ mx → Faults (.vqnt a b d) s { cause := .fmtcfg } ∧ Faults (.vdqnt a b c d) s { cause := .fmtcfg }) ∧
    (n ≤ 31 → mx → 256 ≤ m → Faults (.vdqnt a b c d) s { cause := .fmtcfg }) ∧
    (n ≤ 31 → FmtSlot.isQ w = true → s.tgtsFault (t0.toList ++ t1.toList) = none →
      exec (.vqnt a b (.targets t0 t1)) s = .next (out q 0 0)) ∧
    (n ≤ 31 → mx → s.tgtsFault (t0.toList ++ t1.toList) = none →
      exec (.vqnt a b (.targets t0 t1)) s = .next (out (s.quantBlock w src).1 (s.quantBlock w src).2.1 (s.quantBlock w src).2.2)) ∧
    (n ≤ 31 → FmtSlot.isQ w = true → DeliversLanes (.vdqnt a b c d) s d fun j =>
      let v := convertFl Fmt.f32 .rne false (decodeSlotFmt w (lane (s.vec a) j).toNat)
      (BitVec.ofNat 32 v.1, v.2)) ∧
    (n ≤ 31 → mx → m < 256 → DeliversLanes (.vdqnt a b c d) s d fun j =>
      let x := unpack f ((lane (s.vec a) j).toNat % 2 ^ f.width)
      let y := match x with | .fin sg k e => .fin sg k (e + ((m : Int) - 127)) | o => o
      let v := if m = 255 then nan32 else convertFl Fmt.f32 (s.rnd w (s.laneIter j) j) (FmtSlot.sat w) y
      (BitVec.ofNat 32 v.1, v.2))

/-- R264, R265: the special functions apply to every active lane; their results within the bounds of the spec are those of log
entry 7 (the model's choice). R266: lane movement, VIOTA, VCMPR and VRUN. R267: the lane-ordered reductions and VSCAN, from lane 0 upwards. -/
def Obligations.VectorSpecialLaneAndReductions : Prop :=
  ((∀ (a b : Src) (d : Dst) (s : State),
        DeliversLanes (.vrcp a d) s d (lanes3 s .f32 (fun x _ _ => vrcp x) a .zero .zero) ∧
        DeliversLanes (.vrsq a d) s d (lanes3 s .f32 (fun x _ _ => vrsq x) a .zero .zero) ∧
        DeliversLanes (.vfexp a d) s d (lanes3 s .f32 (fun x _ _ => vfexp x) a .zero .zero) ∧
        DeliversLanes (.vflog a d) s d (lanes3 s .f32 (fun x _ _ => vflog x) a .zero .zero) ∧
        DeliversLanes (.vscx a b d) s d (lanes3 s .f32 (fun x y _ => vscx x (opnd .i32 (w64 y))) a b .zero) ∧
        DeliversLanes (.vgetx a d) s d (lanes3 s .f32 (fun x _ _ => vgetx x) a .zero .zero) ∧
        DeliversLanes (.vgetm a d) s d (lanes3 s .f32 (fun x _ _ => vgetm x) a .zero .zero)) ∧
    (∀ (a b c : Src) (t0 t1 : Option Target) (d : Dst) (s : State),
        let l := s.vec a
        let n := (s.sc b).toNat
        let at_ (j : Nat) : W32 := l.getD j 0
        let run := s.iss.set.len
        let out (i : Instr) (g : Nat → W32) : Prop := Delivers i s d 0 (.vector s.iss.set.base ((List.range run).map g))
        let kept := ((List.range run).filter fun j => (s.vec b).getD j 0 != 0).map at_
        let k := min (s.sc c).toNat 32
        out (.vbcast a b d) (fun _ => at_ (n % 32)) ∧
        Delivers (.vextr a b d) s d 0 (.scalar ((at_ (n % 32)).setWidth 64)) ∧
        out (.vperm a b d) (fun j => at_ (((s.vec b).getD j 0).toNat % 32)) ∧
        out (.vshfl a b d) (fun j =>
          let sh := n % 32
          match n / 32 % 4 with
          | 0 => at_ (j ^^^ sh)
          | 1 => at_ ((j + sh) % 32)
          | 2 => if j + sh ≤ 31 then at_ (j + sh) else 0
          | _ => if sh ≤ j then at_ (j - sh) else 0) ∧
        out (.viota a b d) (fun j => (s.sc a + w64 j * s.sc b).setWidth 32) ∧
        (s.tgtsFault (t0.toList ++ t1.toList) = none → exec (.vcmpr a b (.targets t0 t1)) s = .next (s.modIss fun x =>
          (x.put 0 t0 (s.vecVal (kept ++ List.replicate (run - kept.length) 0))).put 1 t1 (.scalar (w64 kept.length)))) ∧
        (0 < k → Delivers (.vrun a b c d) s d 0 (.vector ((s.sc b).setWidth 32) ((List.range k).map at_))) ∧
        (k = 0 → exec (.vrun a b c d) s = .next (match d with
          | .targets _ _ => s
          | .latch r | .targetLatch _ r => s.modIss fun x => x.latch r (.vector ((s.sc b).setWidth 32) [])
          | .reg r => s.modIss fun x => x.wreg r (.vector ((s.sc b).setWidth 32) []))))) ∧
  (∀ (t : Ty) (a : Src) (d : Dst) (s : State), 0 < s.iss.set.len →
      let l := redLanes t (s.vec a)
      let prefix_ (op j : Nat) : Nat := (redScan t op (l.take (j + 1))).1.headD 0
      let fl (op : Nat) : FpFlags := (redScan t op l).2
      let all (op : Nat) : Val := .scalar (redWiden t (prefix_ op (l.length - 1)))
      Delivers (.vsum t a d) s d (fl 0) (all 0) ∧ Delivers (.vmaxr t a d) s d (fl 1) (all 1) ∧ Delivers (.vminr t a d) s d (fl 2) (all 2) ∧
      Delivers (.vscan t a d) s d (fl 0) (.vector s.iss.set.base ((List.range s.iss.set.len).map fun j =>
        BitVec.ofNat 32 (if t.isFloat then prefix_ 0 j else (res t (opnd t (w64 (prefix_ 0 j % 2 ^ t.elemWidth)))).toNat % 2 ^ 32))) ∧
      ∀ op j, j + 1 < l.length → prefix_ op (j + 1) = (redOp t op (prefix_ op j) (l.getD (j + 1) 0)).1)


/-! ### Matrix array and tile slots at issue (spec/11) -/

/-- R272 to R283: the accumulator operations buffer a job or an effect for the physical accumulator of the name, where their checks pass
and an entry of the job queue is free; else they take MATCFG or SLOTCFG. The model's choices: MARM and MSCALE with an operand that R273 does not
allow take MATCFG with cause word 0 (log entry 116), a queued drain or load does not change its slot's state in the view (log entry 118), and of
several cause words the first of 0, 2, 3 is reported (log entry 119). -/
def Obligations.AccumulatorOperationsAreQueued : Prop :=
  ∀ (n : BitVec 3) (a b : Src) (s : State),
    let k := n.toNat
    let x := s.sc a
    let y := s.sc b
    let fs (j : Nat) : W64 := s.iss.frame.fsOf j
    let job (op : EffOp) (phys : Nat) (x y : W64) : Host.Outcome State Fault Refusal :=
      .next (s.addEff { bun := 0, slot := 0, op := op, a := x, b := y, base := phys })
    (∀ phys m, mcfgMode x (fs (MConf.fsa x)) (fs (MConf.fsb x)) = some m → s.accFor k = some phys → s.jobsUsed < 256 →
      exec (.mcfg n a) s = job (.mcfg k) phys x (if m then 1 else 0)) ∧
    (mcfgMode x (fs (MConf.fsa x)) (fs (MConf.fsb x)) = none → Faults (.mcfg n a) s (matcfg 0 k)) ∧
    (∀ v w, s.configured k = some (v, w) → s.jobsUsed < 256 →
      exec (.mzero n) s = job (.mzero k) v.phys 0 0 ∧
      (1 ≤ x.toNat → x.toNat ≤ 65535 → exec (.marm n a) s = job (.marm k) v.phys x 0) ∧
      (x.toNat < 2 ^ 32 → s.accInteger k = false → exec (.mscale n a) s = job (.mscale k) v.phys x 0) ∧
      (∀ q, s.mview.slots.get? (MDesc.slot y) = some q →
        (MDesc.fs x = MConf.fsa w → MDesc.ok x y (operandRow (fs (MConf.fsa w)) (MConf.k w)) = true →
          MDesc.fits x y (MConf.rows w) q.size = true → exec (.msrca n a b) s = job (.msrca k) v.phys x y) ∧
        (MDesc.fs x = MConf.fsb w → MDesc.ok x y (operandRow (fs (MConf.fsb w)) (MConf.k w)) = true →
          MDesc.fits x y (MConf.cols w) q.size = true → exec (.msrcb n a b) s = job (.msrcb k) v.phys x y) ∧
        (MDesc.ok x y (rowSize (fs (MDesc.fs x)) (MConf.cols w)) = true → MDesc.rep y = 1 → MDesc.fits x y (MConf.rows w) q.size = true →
          (loadcOk (fs (MDesc.fs x)) (s.accInteger k) = true → exec (.mloadc n a b) s = job (.mloadc k) v.phys x y) ∧
          (drainOk (fs (MDesc.fs x)) = true → exec (.mdrain n a b) s = job (.mdrain k) v.phys x y)))) ∧
    (∀ v w, s.mview.accs.get? k = some v → v.conf = some w → exec (.mdisarm n) s = job (.mdisarm k) v.phys 0 0) ∧
    ((∀ v w, s.mview.accs.get? k = some v → v.conf ≠ some w) → Faults (.mdisarm n) s (matcfg 0 k)) ∧
    (∀ m, mcfgMode x (fs (MConf.fsa x)) (fs (MConf.fsb x)) = some m →
      (s.accFor k = none → Faults (.mcfg n a) s (matcfg 2 k)) ∧
      (s.accFor k ≠ none → 256 ≤ s.jobsUsed → Faults (.mcfg n a) s (matcfg 3 k))) ∧
    (∀ v w, s.configured k = some (v, w) →
      let at_ := s.mview.slots.get? (MDesc.slot y)
      let rowsOk (f : Nat) : Bool := MDesc.ok x y (operandRow (fs f) (MConf.k w))
      let tileOk : Bool := MDesc.ok x y (rowSize (fs (MDesc.fs x)) (MConf.cols w)) && decide (MDesc.rep y = 1)
      let drain := drainOk (fs (MDesc.fs x))
      let loadc := loadcOk (fs (MDesc.fs x)) (s.accInteger k)
      (256 ≤ s.jobsUsed → Faults (.mzero n) s (matcfg 3 k) ∧
        (1 ≤ x.toNat → x.toNat ≤ 65535 → Faults (.marm n a) s (matcfg 3 k)) ∧
        (x.toNat < 2 ^ 32 → s.accInteger k = false → Faults (.mscale n a) s (matcfg 3 k)) ∧
        (∀ q, at_ = some q →
          (MDesc.fs x = MConf.fsa w → rowsOk (MConf.fsa w) = true → MDesc.fits x y (MConf.rows w) q.size = true →
            Faults (.msrca n a b) s (matcfg 3 k)) ∧
          (MDesc.fs x = MConf.fsb w → rowsOk (MConf.fsb w) = true → MDesc.fits x y (MConf.cols w) q.size = true →
            Faults (.msrcb n a b) s (matcfg 3 k)) ∧
          (tileOk = true → MDesc.fits x y (MConf.rows w) q.size = true →
            (loadc = true → Faults (.mloadc n a b) s (matcfg 3 k)) ∧ (drain = true → Faults (.mdrain n a b) s (matcfg 3 k))))) ∧
      (x.toNat = 0 ∨ 65535 < x.toNat → Faults (.marm n a) s (matcfg 0 k)) ∧
      (2 ^ 32 ≤ x.toNat ∨ s.accInteger k = true → Faults (.mscale n a) s (matcfg 0 k)) ∧
      (MDesc.fs x ≠ MConf.fsa w ∨ rowsOk (MConf.fsa w) = false → Faults (.msrca n a b) s (matcfg 0 k)) ∧
      (MDesc.fs x ≠ MConf.fsb w ∨ rowsOk (MConf.fsb w) = false → Faults (.msrcb n a b) s (matcfg 0 k)) ∧
      (tileOk = false ∨ loadc = false → Faults (.mloadc n a b) s (matcfg 0 k)) ∧
      (tileOk = false ∨ drain = false → Faults (.mdrain n a b) s (matcfg 0 k)) ∧
      (MDesc.fs x = MConf.fsa w → rowsOk (MConf.fsa w) = true → (∀ q, at_ = some q → MDesc.fits x y (MConf.rows w) q.size = false) →
        Faults (.msrca n a b) s { cause := .slotcfg }) ∧
      (MDesc.fs x = MConf.fsb w → rowsOk (MConf.fsb w) = true → (∀ q, at_ = some q → MDesc.fits x y (MConf.cols w) q.size = false) →
        Faults (.msrcb n a b) s { cause := .slotcfg }) ∧
      (tileOk = true → (∀ q, at_ = some q → MDesc.fits x y (MConf.rows w) q.size = false) →
        (loadc = true → Faults (.mloadc n a b) s { cause := .slotcfg }) ∧ (drain = true → Faults (.mdrain n a b) s { cause := .slotcfg }))) ∧
    (s.configured k = none → ∀ i ∈ [Instr.msrca n a b, .msrcb n a b, .marm n a, .mzero n, .mloadc n a b, .mdrain n a b, .mscale n a],
      Faults i s (matcfg 0 k))

/-- R284 to R287: MSORT reads its keys at issue and waits for the passes of the sort network; MSTAT gives the status word, 0 for a name that
is not mapped; the keys of a sort come out in ascending order of key and index, and every key comes out once. R289 to R291: the tile-slot
operations: what they buffer, the status word, the waits, and SLOTCFG. That a queued drain or load does not change its slot's state in the view
they are checked against is log entry 118 (the model's choice). -/
def Obligations.SortsAndTileSlots : Prop :=
  (∀ (k : BitVec 2) (l : List W32),
    ((sortKeys k l).Perm (l.zip (List.range l.length))) ∧
    (sortKeys k l).Pairwise fun x y => sortKey k x.1 < sortKey k y.1 ∨ (sortKey k x.1 = sortKey k y.1 ∧ x.2 ≤ y.2)) ∧
  (∀ (k : BitVec 2) (m : BitVec 3) (a b : Src) (t0 t1 : Option Target) (d : Dst) (s : State),
      let p := s.sc a
      let n := (s.sc b).toNat
      (n = 0 ∨ 1024 < n → Faults (.msort k a b d) s (matcfg 0 0)) ∧
      (1 ≤ n → n ≤ 1024 → isLocal p = true → ptrFault s.acc p (4 * n) 4 0 = none → s.tgtsFault (t0.toList ++ t1.toList) = none →
        exec (.msort k a b (.targets t0 t1)) s = .next (s.addWait (.msort k
          ((List.range n).map fun j => (((s.loadEl (p + w64 (4 * j)) 4 true).val.getD 0).setWidth 32 : W32)) (sortPasses n) t0 t1)
          { toks := t0.toList ++ t1.toList } {})) ∧
      (∀ x, ((s.c s.iss.tile).frame s.iss.set.frame).accs.get? m.toNat = some x →
        Delivers (.mstat m d) s d 0 (.scalar ((s.c s.iss.tile).accs.getD x {}).status)) ∧
      (((s.c s.iss.tile).frame s.iss.set.frame).accs.get? m.toNat = none → Delivers (.mstat m d) s d 0 (.scalar 0))) ∧
  (∀ (a b c : Src) (d : Dst) (s : State),
      let ix := (s.sc a).toNat
      let off := (s.sc b).toNat % 2 ^ 20
      let size := (s.sc b).toNat / 2 ^ 20 % 2 ^ 20
      let e (op : EffOp) (phys : Nat) : Eff := { bun := 0, slot := 0, op := op, a := s.sc a, base := phys }
      (∀ k, ix < 256 → (s.sc b).toNat < 2 ^ 40 → off % 128 = 0 → size % 128 = 0 → 0 < size → s.mview.slots.has ix = false →
        off + size ≤ s.iss.frame.task.scrkb * 1024 → s.freeSlot = some k →
        exec (.tslotAlloc a b) s = .next (s.addEff { e .tslotAlloc k with b := s.sc b })) ∧
      (∀ q, ix < 256 → s.mview.slots.get? ix = some q →
        (q.st = 0 → q.subbed = false → (∀ v ∈ s.mview.accs, v.2.conf.isSome = true → v.2.a ≠ some ix ∧ v.2.b ≠ some ix) →
          exec (.tslotFree a) s = .next (s.addEff (e .tslotFree q.phys))) ∧
        (q.st = 2 → exec (.tsetEmpty a) s = .next (s.addEff (e .tsetEmpty q.phys))) ∧
        (q.st ≠ 2 → Faults (.tsetEmpty a) s slotFault) ∧
        (q.st = 0 → q.subbed = false → exec (.tsetFull a) s = .next (s.addEff (e .tsetFull q.phys)) ∧
          ((s.sc c).toNat % 128 = 0 → (s.sc c).toNat < 2 ^ 20 → (s.sc c).toNat + 128 ≤ q.size →
            exec (.tsetRow a b c) s = .next (s.addEff { e .tsetRow q.phys with lanes := s.vec b, e := s.sc c }) ∧
            exec (.tsetRowfull a b c) s = .next (s.addEff { e .tsetRowfull q.phys with lanes := s.vec b, e := s.sc c }))) ∧
        (q.subbed = true → Faults (.tsetFull a) s slotFault)) ∧
      (∀ x, s.querySlot a = some x →
        Delivers (.tslotqNow a d) s d 0 (.scalar x.status) ∧
        (x.full = true → Delivers (.tslotqFull a d) s d 0 .order) ∧
        (x.full = false → s.tgtsFault d.tgts = none → exec (.tslotqFull a d) s = .next (s.addWait (.tslotq ix true false) d.dest {})) ∧
        (x.stateNum = 0 → Delivers (.tslotqEmpty a d) s d 0 .order) ∧
        (x.stateNum ≠ 0 → s.tgtsFault d.tgts = none → exec (.tslotqEmpty a d) s = .next (s.addWait (.tslotq ix false false) d.dest {}))) ∧
      (s.querySlot a = none → ∀ i ∈ [Instr.tslotqNow a d, .tslotqFull a d, .tslotqEmpty a d], Faults i s slotFault))

/-- R229, R254 with R166, R169: the float addition, subtraction, multiplication and fused multiply of finite operands give the code whose
value is nearest the exact result, with one rounding to nearest even; a result past the largest number is an infinity of its sign. -/
def Obligations.FloatArithmeticRoundsOnce : Prop :=
  ∀ f ∈ [Fmt.f32, Fmt.f16, Fmt.bf16], ∀ a b c : Nat,
    let x := unpack f a
    let y := unpack f b
    let z := unpack f c
    x.finite = true → y.finite = true →
      NearestCode f (x.value + y.value) (fadd f a b).1 ∧
      NearestCode f (x.value - y.value) (fsub f a b).1 ∧
      NearestCode f (x.value * y.value) (fmul f a b).1 ∧
      (z.finite = true →
        NearestCode f (x.value * y.value + z.value) (fma f a b c).1 ∧
        NearestCode f (x.value * y.value - z.value) (fmaWith f false true a b c).1 ∧
        NearestCode f (z.value - x.value * y.value) (fmaWith f true false a b c).1)

/-! ### Loads, stores, atomics and order (spec/12) -/

/-- R96, R97, R135, R297 to R301: a load whose lanes pass the checks delivers its value and its order token at once where every element
is bound, else it waits, with one request for each element left. -/
def Obligations.LoadsDeliverOrWait : Prop :=
  ∀ (w : BitVec 2) (a b o : Src) (v : VDst) (done : Option Target) (s : State),
    let wb := 2 ^ w.toNat
    let lanes := List.range s.iss.set.len
    let run := some s.iss.set.base
    s.tgtsFault (v.tgts ++ done.toList) = none →
    ∀ (i : Instr) (ps : List W64) (vec : Option W32) (acq : Bool),
      ((i = .ld w a b o v done ∧ ps = [adda (s.sc a) (s.sc b)] ∧ vec = none ∧ acq = false ∧ s.lanesFault ps wb = none) ∨
       (i = .ldacq w a b o v done ∧ ps = [adda (s.sc a) (s.sc b)] ∧ vec = none ∧ acq = true ∧ s.lanesFault ps wb = none) ∨
       (i = .ldv w a b o v done ∧ ps = lanes.map (fun j => adda (s.sc a) (s.sc b + w64 (j * wb))) ∧ vec = run ∧ acq = false ∧ s.lanesFault ps wb = none) ∨
       (i = .lds w a b o v done ∧ ps = lanes.map (fun j => adda (s.sc a) (w64 j * s.sc b)) ∧ vec = run ∧ acq = false ∧ s.lanesFault ps wb = none) ∨
       (i = .ldx w a b o v done ∧ s.indexed a b wb = .ok ps ∧ vec = run ∧ acq = false) ∨
       (i = .ldag w a b o v done ∧ s.genLanes a b wb = .ok ps ∧ vec = run ∧ acq = false)) →
      let els := ps.map fun p => s.loadEl p wb (!acq)
      let wait := s.addWait (.load els vec) v.dest (doneDest done) acq
      let asks := (List.range ps.length).filterMap fun j =>
        if ((els.getD j ⟨0, 0, [], none⟩).val).isSome then none else some (Send.load (ps.getD j 0) wb acq s.iss.nextWait j)
      ((∀ e ∈ els, e.val.isSome = true) → exec i s = .next (s.modIss fun x => (x.vdst v (loadValue els vec)).put 1 done .order)) ∧
      ((∃ e ∈ els, e.val = none) → exec i s = .next (wait.modIss fun x => { x with sends := x.sends ++ asks }))

/-- R97, R120, R298 to R300: a load or store whose pointer fails a check takes the fault of the first lane that fails, and that lane is the lowest one
whose pointer fails; an index at or above the limit of its pair is IDXBOUND, in the lowest lane that fails, before any check of its pointer. R30, R301: an element in local memory is the bytes of the scratchpad at its address, with the bytes of the stores ordered before it
in their place; nothing is forwarded to an acquire. -/
def Obligations.AccessChecksAndLocalElements : Prop :=
  (∀ (w sc : BitVec 2) (a b e o : Src) (v : VDst) (done : Option Target) (s : State) (f : FaultInfo),
      let wb := 2 ^ w.toNat
      let lanes := List.range s.iss.set.len
      (s.lanesFault [adda (s.sc a) (s.sc b)] wb = some f → Faults (.ld w a b o v done) s f ∧ Faults (.ldacq w a b o v done) s f) ∧
      (s.lanesFault (lanes.map fun j => adda (s.sc a) (s.sc b + w64 (j * wb))) wb = some f → Faults (.ldv w a b o v done) s f) ∧
      (s.lanesFault (lanes.map fun j => adda (s.sc a) (w64 j * s.sc b)) wb = some f → Faults (.lds w a b o v done) s f) ∧
      (s.lanesFault [adda (s.sc a) (s.sc e)] wb = some f → Faults (.st sc w a b e o done) s f ∧ Faults (.strel sc w a b e o done) s f) ∧
      (s.lanesFault (lanes.map fun j => adda (s.sc a) (s.sc e + w64 (j * wb))) wb = some f → Faults (.stv sc w a b e o done) s f) ∧
      (s.lanesFault (lanes.map fun j => adda (s.sc a) (w64 j * s.sc e)) wb = some f → Faults (.sts sc w a b e o done) s f) ∧
      (s.indexed a b wb = .error f → Faults (.ldx w a b o v done) s f) ∧
      (s.indexed a e wb = .error f → Faults (.stx sc w a b e o done) s f) ∧
      (s.genLanes a b wb = .error f → Faults (.ldag w a b o v done) s f) ∧
      (s.genLanes a e wb = .error f → Faults (.stag sc w a b e o done) s f) ∧
      (s.lanesFault [adda (s.sc a) (s.sc e)] wb = none → isLocal (adda (s.sc a) (s.sc e)) = true →
        Faults (.strel sc w a b e o done) s { cause := .winfault, addr := adda (s.sc a) (s.sc e) })) ∧
  (∀ (s : State) (ps : List W64) (wb : Nat) (f : FaultInfo), s.lanesFault ps wb = some f ↔
      ∃ j, j < ps.length ∧ ptrFault s.acc (ps.getD j 0) wb wb j = some f ∧ ∀ k < j, ptrFault s.acc (ps.getD k 0) wb wb k = none) ∧
  (∀ (s : State) (a x : Src) (wb j : Nat), j < s.iss.set.len →
      let n (k : Nat) : Nat := ((s.vec x).getD k 0).toNat
      let at_ (k : Nat) : Option FaultInfo := ptrFault s.acc (adda (s.sc a) (w64 (n k * wb))) wb wb k
      let limit := (s.pairLimit a).toNat
      (∀ k < j, n k < limit ∧ at_ k = none) →
      (limit ≤ n j → s.indexed a x wb = .error { cause := .idxbound, addr := w64 (n j), lane := j }) ∧
      (∀ f, n j < limit → at_ j = some f → s.indexed a x wb = .error f)) ∧
  (∀ (s : State) (a x : Src) (wb : Nat), (∀ g, s.genOf a = some g → g.esize ≠ wb) → s.genLanes a x wb = .error { cause := .agbound }) ∧
  (∀ (s : State) (a x : Src) (wb j : Nat) (g : Gen), s.genOf a = some g → g.esize = wb → j < s.iss.set.len →
      let e := (s.sc x).toNat % 2 ^ 32 + s.iss.set.base.toNat + j
      (g.total ≤ e → (∀ k < j, (s.sc x).toNat % 2 ^ 32 + s.iss.set.base.toNat + k < g.total) →
        s.genLanes a x wb = .error { cause := .idxbound, addr := w64 e, lane := j })) ∧
  (∀ (p : W64) (wb : Nat) (s : State), isLocal p = true →
      let bytes := (s.c s.iss.tile).scratch.readBytes (s.iss.frame.localAddr p) wb
      (s.loadEl p wb false).val = some (w64 (fromBytes bytes)) ∧
      ((∀ k < wb, s.forwarded p (ptrOff p + k) = none) → (s.loadEl p wb true).val = some (w64 (fromBytes bytes))) ∧
      ∀ x, wb = 1 → s.forwarded p (ptrOff p) = some x → (s.loadEl p wb true).val = some (x.setWidth 64))

/-- R301, R302, R310: LDQ never faults on the checks: a pointer that fails gives its code, a local one its value, and any other waits; PREF
asks for a line or does nothing; STASHQ gives the state of a line. Stated for frames that are not durable, whose readings are not logged. -/
def Obligations.QueryLoadsAndPrefetches : Prop :=
  ∀ (w : BitVec 2) (rx : Bool) (a b o : Src) (v : VDst) (done : Option Target) (s : State),
    let wb := 2 ^ w.toNat
    let p := adda (s.sc a) (s.sc b)
    let n := ptrCheck s.acc p wb wb
    let give (x : W64) : Host.Outcome State Fault Refusal := .next (s.modIss fun i => (i.vdst v (.scalar x)).put 1 done .order)
    (s.iss.frame.pmodeNow = false → s.tgtsFault (v.tgts ++ done.toList) = none →
      (n ≠ 0 → exec (.ldq w a b o v done) s = give (w64 ((if n = 3 then 2 else if n = 6 then 3 else 1) * 2 ^ 32))) ∧
      (n = 0 → isLocal p = true → exec (.ldq w a b o v done) s = give ((s.loadEl p wb true).val.getD 0)) ∧
      (∀ x, n = 0 → isLocal p = false → (s.loadEl p wb true).val = some x → exec (.ldq w a b o v done) s = give x) ∧
      (n = 0 → (s.loadEl p wb true).val = none → exec (.ldq w a b o v done) s =
        .next ((s.addWait (.load [s.loadEl p wb true] none) v.dest (doneDest done)).modIss fun x =>
          { x with sends := x.sends ++ [.load p wb false s.iss.nextWait 0] })) ∧
      (∀ l, ptrCheck s.acc (s.sc a) 1 1 = 0 → ptrKind (s.sc a) = 0 →
        (s.c s.iss.tile).stLine s.iss.set.frame (ptrOff (s.sc a)) = some l → exec (.stashq a o v done) s = give l.query) ∧
      (ptrCheck s.acc (s.sc a) 1 1 ≠ 0 → exec (.stashq a o v done) s = give 0)) ∧
    (ptrCheck s.acc p 1 1 = 0 → ptrKind p = 0 →
      exec (.pref rx a b o) s = .next (s.modIss fun i => { i with sends := i.sends ++ [.pref p rx] })) ∧
    (ptrCheck s.acc p 1 1 ≠ 0 ∨ ptrKind p ≠ 0 → exec (.pref rx a b o) s = .next s)

/-- R30, R297, R303: a store whose lanes pass the checks is buffered with its lanes, scope and done token, and nothing else changes:
no byte of memory is written before its block instance commits. -/
def Obligations.StoresAreBuffered : Prop :=
  ∀ (sc w : BitVec 2) (a b e o : Src) (done : Option Target) (s : State),
    let wb := 2 ^ w.toNat
    let lanes := List.range s.iss.set.len
    let one := [adda (s.sc a) (s.sc e)]
    let data := (s.vec b).map fun (x : W32) => x.setWidth 64
    lateFault s.inst.ctx done = none →
    ∀ (i : Instr) (ps ds : List W64) (rel : Bool),
      ((i = .st sc w a b e o done ∧ ps = one ∧ ds = [s.sc b] ∧ rel = false ∧ s.lanesFault ps wb = none) ∨
       (i = .strel sc w a b e o done ∧ ps = one ∧ ds = [s.sc b] ∧ rel = true ∧ s.lanesFault ps wb = none ∧ isLocal (adda (s.sc a) (s.sc e)) = false) ∨
       (i = .stv sc w a b e o done ∧ ps = lanes.map (fun j => adda (s.sc a) (s.sc e + w64 (j * wb))) ∧ ds = data ∧ rel = false ∧ s.lanesFault ps wb = none) ∨
       (i = .sts sc w a b e o done ∧ ps = lanes.map (fun j => adda (s.sc a) (w64 j * s.sc e)) ∧ ds = data ∧ rel = false ∧ s.lanesFault ps wb = none) ∨
       (i = .stx sc w a b e o done ∧ s.indexed a e wb = .ok ps ∧ ds = data ∧ rel = false) ∨
       (i = .stag sc w a b e o done ∧ s.genLanes a e wb = .ok ps ∧ ds = data ∧ rel = false)) →
      exec i s = .next (s.modIss fun x => { x with stores := x.stores ++ [⟨x.set.bun, (List.range ps.length).map fun j =>
        ⟨s.iss.set.base.toNat - s.inst.runBase.toNat + j, ps.getD j 0, wb, ds.getD j 0⟩, sc, rel, done.map fun t => t.held .order, x.id, x.set.p, x.set.pd⟩] })

/-- R134, R298, R304: an atomic on local memory, or of a durable frame, is buffered with its operands until commit; a restartable frame's
atomic on other memory is ATOMRST; a form selector above 1 is ILLOP. The new value of an integer atomic, on operands within its width. -/
def Obligations.AtomicsAreBufferedAndComputed : Prop :=
  (∀ (wb o x d : Nat), 1 ≤ wb → o < 2 ^ (8 * wb) → x < 2 ^ (8 * wb) →
    atomicNew 0x10 wb o x d = (o + x) % 2 ^ (8 * wb) ∧
    atomicNew 0x11 wb o x 1 = min o x ∧ atomicNew 0x12 wb o x 1 = max o x ∧
    signedOf (8 * wb) (atomicNew 0x11 wb o x 0) = min (signedOf (8 * wb) o) (signedOf (8 * wb) x) ∧
    signedOf (8 * wb) (atomicNew 0x12 wb o x 0) = max (signedOf (8 * wb) o) (signedOf (8 * wb) x) ∧
    atomicNew 0x13 wb o x d = o &&& x ∧ atomicNew 0x14 wb o x d = o ||| x ∧ atomicNew 0x15 wb o x d = o ^^^ x ∧
    atomicNew 0x16 wb o x d = x ∧ (o = x → atomicNew 0x17 wb o x d = d % 2 ^ (8 * wb)) ∧ (o ≠ x → atomicNew 0x17 wb o x d = o) ∧
    atomicNew 0x1A wb o x d = (if o ≥ x then 0 else o + 1) ∧ atomicNew 0x1B wb o x d = (if o = 0 ∨ o > x then x else o - 1)) ∧
  ∀ (sc w : BitVec 2) (a b e o : Src) (v : VDst) (done : Option Target) (s : State),
    let p := s.sc a
    let vt : Option Target := match v with | .target t => t | _ => none
    let atomics : List (Instr × Nat × Src × Bool) :=
      [(.aadd sc w a b o v done, 0x10, .zero, false), (.amin sc w a b e o v done, 0x11, e, true), (.amax sc w a b e o v done, 0x12, e, true),
       (.aand sc w a b o v done, 0x13, .zero, false), (.aor sc w a b o v done, 0x14, .zero, false), (.axor sc w a b o v done, 0x15, .zero, false),
       (.axchg sc w a b o v done, 0x16, .zero, false), (.acas sc w a b e o v done, 0x17, e, false), (.afadd sc w a b o v done, 0x18, .zero, false),
       (.afadd2 sc w a b e o v done, 0x19, e, true), (.aincw sc w a b o v done, 0x1A, .zero, false), (.adecw sc w a b o v done, 0x1B, .zero, false)]
    ∀ x ∈ atomics,
      (∀ f, ptrFault s.acc p (2 ^ w.toNat) (2 ^ w.toNat) 0 = some f → Faults x.1 s f) ∧
      (ptrFault s.acc p (2 ^ w.toNat) (2 ^ w.toNat) 0 = none → isLocal p = false → s.iss.frame.pmodeNow = false →
        Faults x.1 s { cause := .atomrst }) ∧
      (ptrFault s.acc p (2 ^ w.toNat) (2 ^ w.toNat) 0 = none → (isLocal p = true ∨ s.iss.frame.pmodeNow = true) →
        (x.2.2.2 = true → 1 < (s.sc x.2.2.1).toNat → Faults x.1 s { cause := .illop }) ∧
        ((x.2.2.2 = true → (s.sc x.2.2.1).toNat ≤ 1) → lateFault s.inst.ctx vt = none → lateFault s.inst.ctx done = none →
          exec x.1 s = .next (s.addEff { bun := 0, slot := 0, op := .atomic x.2.1 (2 ^ w.toNat) sc, a := p, b := s.sc b, e := s.sc x.2.2.1,
                                         val := vt.map fun t => t.held (.scalar 0), done := done.map fun t => t.held .order })))

/-- R136, R147, R306 to R308: DRAIN, ORDJOIN, PFENCE, FLUSHS and INVS. -/
def Obligations.OrderAndPersistenceOperations : Prop :=
  ∀ (sc : BitVec 2) (a b e o : Src) (done : Option Target) (s : State),
    let n := (s.c s.iss.tile).commitSeq
    let wait (w : Wait) : State := s.addWait w {} { toks := done.toList }
    let ask (line : Option W64) (inv : Bool) : State :=
      (s.addWait (.flush sc []) {} { toks := done.toList } false (some (line, inv))).modIss fun x =>
        { x with sends := x.sends ++ [.flush line inv s.iss.nextWait] }
    let line := w64 (ptrOff (s.sc a) / 512 * 512)
    (sc = 3 → Faults (.pfence sc o done) s { cause := .illop }) ∧
    (s.tgtsFault done.toList = none →
      exec (.drain sc o done) s = .next (wait (.drain sc n)) ∧
      exec (.ordjoin a b e o done) s = .next (s.modIss fun x => x.put 1 done .order) ∧
      (sc ≠ 3 → exec (.pfence sc o done) s = .next (wait (.pfence sc n n))) ∧
      (s.iss.active = true →
        exec (.flushsAll sc o done) s = .next (ask none false) ∧ exec (.invsAll sc o done) s = .next (ask none true) ∧
        (ptrFault s.acc (s.sc a) 1 1 0 = none →
          (ptrKind (s.sc a) = 0 →
            exec (.flushsLine sc a o done) s = .next (ask (some line) false) ∧ exec (.invsLine sc a o done) s = .next (ask (some line) true)) ∧
          (ptrKind (s.sc a) ≠ 0 →
            exec (.flushsLine sc a o done) s = .next (wait (.flush sc [])) ∧ exec (.invsLine sc a o done) s = .next (wait (.flush sc [])))))) ∧
    (∀ f, ptrFault s.acc (s.sc a) 1 1 0 = some f → Faults (.flushsLine sc a o done) s f ∧ Faults (.invsLine sc a o done) s f)

/-! ### Names, streams, engines (spec/13) -/

/-- R77, R312 to R318, R321, R322: the operations on a name buffer their effect where the name and their operand pass the checks. -/
def Obligations.NameOperationsAreBuffered : Prop :=
  ∀ (k : BitVec 2) (a b e o : Src) (done : Option Target) (s : State),
    let hi := s.sc a
    let lo := s.sc b
    let d := s.sc e
    let q := s.bindingOf hi lo
    let eff (op : EffOp) (d : W64) : Eff := { bun := 0, slot := 0, op := op, a := hi, b := lo, e := d }
    let narrowOk := k = 0 ∨ q.tilesec % 2 = 0
    (s.nameFault hi lo 0 false false = none →
      (s.localFault d (q.tilesec * 128) 128 = none → Buffers (.pubt a b e o done) s { eff .pubt d with done := doneTok done } [done]) ∧
      (d ≠ 0 → d.toNat ≤ 65536 → narrowOk → Buffers (.coll k a b e o done) s { eff (.coll k) d with done := doneTok done } [done]) ∧
      (d.toNat < 2 ^ 48 → Buffers (.retain a b e o done) s { eff .retain d with done := doneTok done } [done]) ∧
      (d.toNat % 2 ^ 16 ≠ 0 → d.toNat < 2 ^ 29 → Buffers (.circ a b e o done) s { eff .circ d with done := doneTok done } [done]) ∧
      Buffers (.circrel a b o done) s { eff .circrel 0 with done := doneTok done } [done]) ∧
    (s.nameFault hi lo 0 true false = none → narrowOk → s.localFault d (partialBytes q k) 128 = none →
      Buffers (.pubr k a b e o done) s { eff (.pubr k) d with done := doneTok done } [done]) ∧
    (s.nameFault hi lo 0 false true = none → s.claimsOpen < 256 →
      Buffers (.claim a b o done) s { eff .claim 0 with done := doneTok done } [done]) ∧
    (∀ f, s.nameFault hi lo 0 false false = some f →
      ∀ i ∈ [Instr.pubt a b e o done, .coll k a b e o done, .retain a b e o done, .circ a b e o done, .circrel a b o done], Faults i s f)

/-- R319, R320, R323 to R325: subscriptions and streams at issue; a stream or a slot that does not fit takes STREAM or SLOTCFG. -/
def Obligations.SubscriptionsAndStreamsAtIssue : Prop :=
  ∀ (a b e o : Src) (v : VDst) (done : Option Target) (s : State),
    let hi := s.sc a
    let lo := s.sc b
    let d := s.sc e
    let mask : BitVec 4 := d.extractLsb' 8 4
    let q := s.bindingOf hi lo
    let c := s.c s.iss.tile
    let f := s.iss.set.frame
    let eff (op : EffOp) : Eff := { bun := 0, slot := 0, op := op, a := hi, b := lo, e := d, done := doneTok done }
    let one (op : EffOp) : Eff := { bun := 0, slot := 0, op := op, a := hi, done := doneTok done }
    let pop (keep : Bool) (x : Stream) : State := (s.addWait (.spop x.base x.open_) v.dest {}).addEff
      { bun := 0, slot := 0, op := .spop keep, a := w64 x.base, e := w64 x.open_, done := doneTok done }
    (∀ k x, s.nameFault hi lo mask false false = none → d.toNat < 2 ^ 14 → bits d 13 12 ≤ 1 → maskOk q mask = true →
      c.slotOf f (bits d 7 0) = some (k, x) →
      (s.subsOpen < 64 → subnOk x false hi lo d q = true → Buffers (.subn a b e o done) s (eff .subn) [done]) ∧
      (s.subsOpen < 64 → subnOk x false hi lo d q = false → Faults (.subn a b e o done) s { cause := .slotcfg }) ∧
      (subnOk x true hi lo d q = true → Buffers (.subnAgain a b e o done) s (eff .subnAgain) [done]) ∧
      (subnOk x true hi lo d q = false → Faults (.subnAgain a b e o done) s { cause := .slotcfg })) ∧
    (s.nameFault hi lo mask false false = none → d.toNat < 2 ^ 14 → bits d 13 12 ≤ 1 → maskOk q mask = true → c.slotOf f (bits d 7 0) = none →
      (s.subsOpen < 64 → Faults (.subn a b e o done) s { cause := .slotcfg }) ∧ Faults (.subnAgain a b e o done) s { cause := .slotcfg }) ∧
    (s.nameFault hi lo 0 false false = none → 1 ≤ bits d 14 8 → bits d 14 8 ≤ 64 → d.toNat < 2 ^ 15 → bits d 7 0 + bits d 14 8 ≤ 256 →
      s.subsOpen < 64 → (c.sopenOk f d q = true → Buffers (.sopen a b e o done) s (eff .sopen) [done]) ∧
        (c.sopenOk f d q = false → Faults (.sopen a b e o done) s { cause := .slotcfg })) ∧
    (∀ k x, c.slotOf f (bits hi 7 0) = some (k, x) →
      (x.hasSubn = true → Buffers (.unsub a o done) s (one .unsub) [done]) ∧
      (x.hasSubn = false → Faults (.unsub a o done) s { cause := .slotcfg })) ∧
    (∀ x, s.streamOf a = some x → Buffers (.sclose a o done) s (one .sclose) [done] ∧
      (s.tgtsFault v.tgts = none → lateFault s.inst.ctx done = none →
        exec (.spop a o v done) s = .next (pop false x) ∧ exec (.spopKeep a o v done) s = .next (pop true x))) ∧
    (s.streamOf a = none → ∀ i ∈ [Instr.sclose a o done, .spop a o v done, .spopKeep a o v done], Faults i s { cause := .stream })

/-- R326 to R329: COPY and COPYX deliver their promise, which becomes the tile's horizon, and are buffered for their launch; AGCFG and AGFREE are
buffered. What a COPY of no bytes checks is log entry 122 (the model's choice). -/
def Obligations.CopiesAndGenerators : Prop :=
  ∀ (n : BitVec 3) (a b e o : Src) (v : VDst) (done : Option Target) (s : State),
    let d := s.sc a
    let p := s.sc b
    let len := (s.sc e).toNat
    let rs := 128 * 2 ^ n.toNat
    let idx := s.vec e
    let c := s.c s.iss.tile
    let mhz := spineMhz c.spine
    let prom (bytes : Nat) : W64 := w64 (max s.iss.tick.toNat c.horizon.toNat +
      ((512 + (if isLocal d && isLocal p then 2 else 8) * ((bytes + 127) / 128)) * 1100 + mhz - 1) / mhz)
    let out (bytes : Nat) (x : Eff) : Host.Outcome State Fault Refusal := .next (((s.modC s.iss.tile fun c =>
      { c with horizon := prom bytes }).modIss fun i => i.vdst v (.scalar (prom bytes))).addEff
        { x with a := d, b := p, base := (prom bytes).toNat, tick := s.iss.tick, done := doneTok done })
    (s.tgtsFault v.tgts = none → lateFault s.inst.ctx done = none →
      (len ≤ 16777216 → ptrFault s.acc p len 1 0 = none → ptrFault s.acc d len 1 0 = none →
        exec (.copy a b e o v done) s = out len { bun := 0, slot := 0, op := .copy none, e := s.sc e }) ∧
      (s.rowsFault d p (s.pairLimit b) rs idx = none →
        exec (.copyx n a b e o v done) s = out (idx.length * rs) { bun := 0, slot := 0, op := .copy (some rs), lanes := idx })) ∧
    (16777216 < len → Faults (.copy a b e o v done) s { cause := .winfault, addr := p }) ∧
    (∀ f, len ≤ 16777216 → ptrFault s.acc p len 1 0 = some f → Faults (.copy a b e o v done) s f) ∧
    (∀ f, s.rowsFault d p (s.pairLimit b) rs idx = some f → Faults (.copyx n a b e o v done) s f) ∧
    (∀ k, s.localFault d 64 64 = none → genFault s.acc (s.localBytes d 64) = none → s.agFor n.toNat = some k →
      Buffers (.agcfg n a o done) s { bun := 0, slot := 0, op := .agcfg n.toNat, base := k, bytes := s.localBytes d 64, done := doneTok done } [done]) ∧
    Buffers (.agfree n o done) s { bun := 0, slot := 0, op := .agfree n.toNat, done := doneTok done } [done]

/-! ### Waiting, synchronisation, tasks and traps (spec/13, spec/14) -/

/-- R330 to R334: WUNTIL, barriers and signals at issue; BARA and SIGADD of a restartable frame are ATOMRST. CW3 of
BAROVR at issue is the phase the barrier has then (log entry 86: the model's choice). -/
def Obligations.WaitsBarriersAndSignals : Prop :=
  ∀ (sc : BitVec 2) (a b o : Src) (x : BitVec 8) (y : YDst) (s : State),
    let p := s.sc a
    let n := (s.sc b).toNat
    let w := s.iss.nextWait
    let late := (s.c s.iss.tile).lateCopies s.iss.set.frame p
    let eff (op : EffOp) : State := s.addEff { bun := 0, slot := 0, op := op, a := p, b := s.sc b }
    let ask (k : Wait) (r : Send) : State := (s.addWait k y.dest {}).modIss fun i => { i with sends := i.sends ++ [r] }
    (p.toNat ≤ s.quartz → late = [] → DeliversY (.wuntil a o y) s y .order) ∧
    (s.quartz < p.toNat → s.tgtsFault y.tgts = none →
      exec (.wuntil a o y) s = .next (s.addWait (.wuntil p (late.map (·.id))) y.dest {})) ∧
    (p.toNat ≤ s.quartz → s.tgtsFault y.tgts = none → late ≠ [] →
      ∃ f : FaultInfo, f.cause = .promise ∧ exec (.wuntil a o y) s = .next ((s.missed s.iss.tile).fault f)) ∧
    (s.barFault p = none →
      (1 ≤ n → n ≤ 65535 → exec (.barc a b o x) s = .next (eff (.barc false x.toNat)) ∧ exec (.barcReset a b o x) s = .next (eff (.barc true x.toNat))) ∧
      (n = 0 ∨ 65535 < n → Faults (.barc a b o x) s (s.barovr 2 p x) ∧ Faults (.barcReset a b o x) s (s.barovr 2 p x)) ∧
      (n ≤ 65535 → s.iss.frame.pmodeNow = true → exec (.bara sc a b o x) s = .next (eff (.bara sc x.toNat))) ∧
      (n ≤ 65535 → s.iss.frame.pmodeNow = false → Faults (.bara sc a b o x) s { cause := .atomrst }) ∧
      (65535 < n → Faults (.bara sc a b o x) s (s.barovr 1 p x)) ∧
      (s.tgtsFault y.tgts = none → exec (.barw a b o x y) s = .next (ask .barw (.barw p x.toNat (n % 65536) w)))) ∧
    (∀ f, s.barFault p = some f → ∀ i ∈ [Instr.barc a b o x, .barcReset a b o x, .bara sc a b o x, .barw a b o x y], Faults i s f) ∧
    (s.sigFault p = none →
      (s.iss.frame.pmodeNow = true → exec (.sigadd sc a b o) s = .next (eff (.sigadd sc))) ∧
      (s.iss.frame.pmodeNow = false → Faults (.sigadd sc a b o) s { cause := .atomrst }) ∧
      (s.tgtsFault y.tgts = none → exec (.sigwait a b o y) s = .next (ask .sigwait (.sigwait p (s.sc b) w)))) ∧
    (∀ f, s.sigFault p = some f → Faults (.sigadd sc a b o) s f ∧ Faults (.sigwait a b o y) s f)

/-- R335 to R339, R346: TSPAWN, TEND, FMTW, FMTR, TRACE, BRK and PMODE. R342, R345: TRAP raise takes TRAPSW with its address; TRAP vec buffers the new vector, which is ILLBUN where it names no block header; TRET is allowed once, in the trap block's tree
of a TRAPPED frame. -/
def Obligations.TaskModeTraceAndTrapOperations : Prop :=
  (∀ (tag : BitVec 4) (n : BitVec 5) (a b o : Src) (y : YDst) (s : State),
      let p := s.sc a
      let len := 64 + 32 * (bits (wordAt (s.localBytes p 64) 0) 8 2 - 1)
      let eff (op : EffOp) : Eff := { bun := 0, slot := 0, op := op }
      exec (.tend o) s = .next (s.modIss fun i => { i with term := some .tend }) ∧
      DeliversY (.fmtr o n y) s y (.scalar (s.iss.frame.fsOf n.toNat)) ∧
      (FmtSlot.ok p = true → (s.fmtValues.contains p = true ∨ s.fmtValues.length < 32) →
        exec (.fmtw a o n) s = .next (s.addEff { eff (.fmtw n.toNat) with a := p })) ∧
      (FmtSlot.ok p = false → Faults (.fmtw a o n) s { cause := .fmtcfg }) ∧
      exec (.trace tag a b o) s = .next (s.addEff { eff (.trace tag) with a := p, b := s.sc b }) ∧
      exec (.brk tag o) s = .next (s.addEff (eff (.brk tag))) ∧
      (s.inst.entry = true → exec (.pmodeDurable o) s = .next (s.addEff (eff (.pmode true))) ∧
        exec (.pmodeRestartable o) s = .next (s.addEff (eff (.pmode false)))) ∧
      (s.inst.entry = false → Faults (.pmodeDurable o) s { cause := .illop } ∧ Faults (.pmodeRestartable o) s { cause := .illop }) ∧
      (s.localFault p 64 64 = none → s.localFault p len 64 = none →
        (taskOk s.myPart (s.localBytes p len) = true → Buffers (.tspawn a o y) s
          { eff .tspawn with a := p, bytes := s.localBytes p len, val := y.tgts.head?.map fun t => t.held (.scalar 0), reg := y.dest.reg } [y.tgts.head?]) ∧
        (taskOk s.myPart (s.localBytes p len) = false → Faults (.tspawn a o y) s { cause := .slotcfg }))) ∧
  (∀ (a o : Src) (s : State),
      let v := (s.sc a).toNat
      let at_ := (s.iss.set.block + v % 2 ^ 20) % 2 ^ 20
      Faults (.trapRaise a o) s { cause := .trapsw, addr := s.sc a } ∧
      (2 ^ 21 ≤ v → Faults (.trapVec a o) s { cause := .illop }) ∧
      (v < 2 ^ 20 → exec (.trapVec a o) s = .next (s.addEff { bun := 0, slot := 0, op := .trapVec, a := 0 })) ∧
      (2 ^ 20 ≤ v → v < 2 ^ 21 → v % 64 = 0 → at_ < s.iss.frame.task.codekb * 1024 →
        exec (.trapVec a o) s = .next (s.addEff { bun := 0, slot := 0, op := .trapVec, a := w64 (2 ^ 20 + at_) })) ∧
      (2 ^ 20 ≤ v → v < 2 ^ 21 → (v % 64 ≠ 0 ∨ s.iss.frame.task.codekb * 1024 ≤ at_) →
        Faults (.trapVec a o) s { cause := .illbun, addr := w64 (s.iss.set.block + 64 * s.iss.set.bun) }) ∧
      (s.iss.frame.st = .trapped → s.inst.tt = true → s.inst.issuedTret = false →
        exec (.tretRetry o) s = .next ((s.modIss fun i => { i with tret := true }).addEff { bun := 0, slot := 0, op := .tret false }) ∧
        exec (.tretSkip o) s = .next ((s.modIss fun i => { i with tret := true }).addEff { bun := 0, slot := 0, op := .tret true })) ∧
      (s.iss.frame.st ≠ .trapped ∨ s.inst.tt = false ∨ s.inst.issuedTret = true →
        Faults (.tretRetry o) s { cause := .illop } ∧ Faults (.tretSkip o) s { cause := .illop }))

/-- R347 to R353: CSRR reads at issue; the other supervisor operations are buffered, with the register or token that reports their status. -/
def Obligations.SupervisorOperationsAreBuffered : Prop :=
  ∀ (r : BitVec 11) (k : BitVec 8) (sig : Bool) (a b o : Src) (y : YDst) (s : State),
    let p := s.sc a
    let late (e : Eff) : Eff := { e with val := y.tgts.head?.map fun t => t.held (.scalar 0), reg := y.dest.reg }
    let eff (op : EffOp) (a b : W64) : Eff := { bun := 0, slot := 0, op := op, a := a, b := b }
    let buf (i : Instr) (e : Eff) : Prop := Buffers i s (late e) [y.tgts.head?]
    DeliversY (.csrr o r y) s y (.scalar (s.supCsr s.iss.tile s.iss.set.frame s.iss.frame s.iss.tick r.toNat)) ∧
    exec (.csrw a o r) s = .next (s.addEff (eff (.csrw r) p 0)) ∧
    (p.toNat < 2 ^ 16 → buf (.tlbinvAll a b o y) (eff (.tlbinv 0) p (s.sc b)) ∧ buf (.tlbinvAsid a b o y) (eff (.tlbinv 1) p (s.sc b)) ∧
      buf (.tlbinvPage a b o y) (eff (.tlbinv 2) p (s.sc b))) ∧
    (2 ^ 16 ≤ p.toNat → ∀ i ∈ [Instr.tlbinvAll a b o y, .tlbinvAsid a b o y, .tlbinvPage a b o y], Faults i s { cause := .illop }) ∧
    (s.localFault p 64 64 = none → bindingOk (s.localBytes p 64) = true →
      buf (.nsbind a o y) { eff .nsbind p 0 with bytes := s.localBytes p 64 }) ∧
    (s.localFault p 64 64 = none → bindingOk (s.localBytes p 64) = false →
      ∃ f : FaultInfo, f.cause = .namecfg ∧ Faults (.nsbind a o y) s f) ∧
    buf (.parkStop a o y) (eff (.park false) p 0) ∧ buf (.parkResume a o y) (eff (.park true) p 0) ∧
    buf (.frkill a b o y) (eff .frkill p (s.sc b)) ∧ buf (.tmove a b o y) (eff .tmove p (s.sc b)) ∧
    buf (.preemptStop a b o y) (eff (.preempt false) p (s.sc b)) ∧ buf (.preemptResume a b o y) (eff (.preempt true) p (s.sc b)) ∧
    buf (.routew a b o y) (eff .routew p (s.sc b)) ∧
    buf (.slateqRec a o y) (eff (.slateq 0) p 0) ∧ buf (.slateqSector a o y) (eff (.slateq 1) p 0) ∧ buf (.slateqDrec a o y) (eff (.slateq 2) p 0) ∧
    ((if sig then s.sigFault p else s.barFault p) = none →
      buf (.watchArrive sig a b o k y) (eff (.watch 0 sig k.toNat) p (s.sc b)) ∧ buf (.watchLast sig a b o k y) (eff (.watch 1 sig k.toNat) p (s.sc b)) ∧
      (sig = false → buf (.watchFlip sig a b o k y) (eff (.watch 2 sig k.toNat) p (s.sc b)))) ∧
    (sig = true → Faults (.watchFlip sig a b o k y) s { cause := .illop })

/-- R202 order 12, R341: a supervisor opcode in slot 7 outside frame 63 is PRIV, where every other check of the bundle passes; the same
bundle passes in frame 63. -/
def Obligations.SupervisorOperationsNeedFrame63 : Prop :=
  ∀ (b : BitVec 512) (depth f : Nat), f ≠ 63 → slotPresent b 7 = true →
    0x40#8 ≤ (slotWord b 7).extractLsb' 52 8 → (slotWord b 7).extractLsb' 52 8 ≤ 0x4A#8 →
    issueCheck b 63 depth = none → issueCheck b f depth = some (7, .priv)

/-! ### Events inside a tile (spec/01, spec/02) -/

/-- R55 to R60, R28, R37 to R39: the token that arrives next, which of a cycle's tokens that is, tokens that arrive or drain, the issue of the bundle that is next, promotion, the end of a bundle
instance. -/
def Obligations.TokensAndIssue : Prop :=
  ∀ (t : Nat) (s : State), t < Config.numTiles →
    let c := s.c t
    let arrived (ks : List Tok) : State := s.modC t fun c => { c with arrivals := ks }
    let drained (ks : List Tok) : State := s.modC t fun c => { c with holding := ks }
    (∀ k ks, c.arrivals = k :: ks → c.cycle ≤ k.cycle → c.nextArrival = none) ∧
    (∀ k ks, c.arrivals = k :: ks → k.cycle < c.cycle → k.port = 0 → c.nextArrival = some (k, ks)) ∧
    (∀ k ks y, c.arrivals = k :: ks → k.cycle < c.cycle → k.port = 1 →
      bundleRule (c.bundle k.frame ((c.receiver k).getD 0) k.bun) = 1 →
      (ks.find? fun y => y.cycle == k.cycle && y.port == 0 && y.sameKey k) = some y →
      c.nextArrival = some (y, c.arrivals.erase y)) ∧
    (c.nextArrival = none → exec (.tokenArrival t) s = .next s) ∧
    (∀ k ks, c.nextArrival = some (k, ks) → exec (.tokenArrival t) s = .next ((arrived ks).arrive t k)) ∧
    (∀ k ks, c.nextArrival = some (k, ks) → ((arrived ks).c t).receiver k = none →
      exec (.tokenArrival t) s = .next ((arrived ks).countT t 0 1)) ∧
    (∀ k ks block, c.nextArrival = some (k, ks) → ((arrived ks).c t).receiver k = some block →
      kindMatches (((arrived ks).c t).bundle k.frame block k.bun) k.port k.val = false →
      exec (.tokenArrival t) s = .next ((arrived ks).abortFrame t k.frame ⟨k.inst, k.p, k.pd, block, k.bun⟩
        { cause := .illbun, addr := w64 (block + 64 * k.bun) })) ∧
    (∀ k ks, c.holding = k :: ks → c.hasRoom k = true →
      (((drained ks).c t).receiver k = none → exec (.holdingQueueDrain t) s = .next ((drained ks).countT t 0 1)) ∧
      (∀ block, ((drained ks).c t).receiver k = some block → ((drained ks).c t).liveParts k = [k] → ((drained ks).frame t k.frame).st ≠ .ending →
        (((drained ks).c t).overlaps k = false → exec (.holdingQueueDrain t) s =
          .next (((drained ks).setC t (((drained ks).c t).insert k)).checkHolding t)) ∧
        (((drained ks).c t).overlaps k = true → exec (.holdingQueueDrain t) s =
          .next ((drained ks).deliveryFault t k block { cause := .illbun })))) ∧
    (∀ pe k x, s.iss.active = false → c.nextPe = some pe → s.pick t = some (k, x) →
      (∀ e, issueCheck (c.bundle x.frame x.block x.bun) x.frame (c.instD x.frame x.inst).depth = some e →
        exec (.bundleIssue t) s = .next (s.issueSet t k pe x)) ∧
      (issueCheck (c.bundle x.frame x.block x.bun) x.frame (c.instD x.frame x.inst).depth = none →
        ∃ u, exec (.bundleIssue t) s = .next u ∧ u.iss.active = true ∧ u.iss.tile = t ∧ u.iss.pe = pe ∧
          u.iss.set = { x with count := 0, promoted := false } ∧
          u.iss.bundle = c.bundle x.frame x.block x.bun ∧ u.iss.todo = presentSlots u.iss.bundle ∧
          (u.c t).bucket = c.bucket - bundleCost u.iss.bundle ∧ (u.c t).sets = c.sets.eraseIdx k)) ∧
    (∀ i x, c.sets[i]? = some x → 2048 ≤ x.count →
      ∃ u, exec (.instancePromotion t i) s = .next u ∧ (u.c t).sets = c.sets.set i { x with promoted := true }) ∧
    (∀ i x, c.issue? i = some x → x.todo = [] → x.waits = [] →
      ∃ u, exec (.bundleFinish t i) s = .next u ∧ (u.c t).issue? i = none ∧
        (u.c t).pendCommit = c.pendCommit ++ (if x.term.isSome then [x.inst % 4096] else []) ∧
        ∀ y, c.inst? x.inst = some y → ∃ z, (u.c t).inst? x.inst = some z ∧ z.ran = true)

/-- R32, R35, R50, R61 to R68, R70, R172, R347, R354: block commits, with what they write to the scratchpad (a store lane's bytes and
an atomic's new value, where nothing later in bundle order writes them, and nothing else), to general registers (the later bundle, then the later
path of a bundle's firings, then the later slot wins), to FPFLAGS and to the CSRs that CSRW names; loops that spawn and continue, the throttle, a
deadlock of the tag pool, the entry of a trap block. The order of the firings of one bundle, BRANCHSTALL standing per tile, and which loops wait
for a spawn in a deadlock, are log entries 96, 90 and 113 (the model's choices). -/
def Obligations.CommitsLoopsAndTrapEntries : Prop :=
  ∀ (t : Nat) (s : State), t < Config.numTiles →
    let c := s.c t
    (∀ e i first u, (s.tile t).slate.replaying = false → s.imaging t i.frame = false → c.insts.get? e = some i → c.pendCommit.contains e = true → i.finished = true →
      s.commitTurn t i = some first →
      let k := Com.effects ⟨s, t, instNum e i.gen, i, c.commitSeq + 1, first, [], none, none, none⟩
      k.bad = none → ((k.book first).tokens).retire e = some u → u.refused = none →
      exec (.blockCommit t e) s = .next ((((u.stops false).s.checkHolding t).releaseHeld t).retrySends t) ∧
      ((c.replaceEntry e).isSome = true → exec (.deferredReplacementCommit t e) s = exec (.blockCommit t e) s)) ∧
    (∀ k : Com,
      let written := (List.range 32).foldl Com.fwrites ((List.range 32).foldl Com.stores k.pmode)
      let sent := (List.range 32).foldl Com.outbound written
      k.effects = (if (sent.s.c sent.t).outq.any (fun h => h.frame == sent.f && h.upto == sent.seq) then sent.mod fun s => s.pushAll sent.t sent.f else sent) ∧
      (∀ first, (k.book first).frame.fpflags = k.frame.fpflags ||| k.i.flags) ∧
      let regs := ((List.range 32).foldl Com.fwrites k).frame.regs
      (∀ r, (∀ x ∈ k.i.fwrites, x.bun < 32 → x.reg ≠ r) → regs.getD r 0 = k.frame.regs.getD r 0) ∧
      (∀ w ∈ k.i.fwrites, w.bun < 32 → (∀ x ∈ k.i.fwrites, x.bun < 32 → x.reg = w.reg → x ≠ w → x.bun < w.bun ∨ (x.bun = w.bun ∧
          (pathRank x.p x.pd < pathRank w.p w.pd ∨ (pathRank x.p x.pd = pathRank w.p w.pd ∧ x.slot < w.slot)))) →
        regs.getD w.reg 0 = w.val) ∧
      (let scratch (k : Com) : Memory := (k.s.c k.t).scratch
       let stored (b : Nat) : List (Nat × List Byte) := (k.i.storesOf b).flatMap fun x =>
         (x.lanes.filter fun l => isLocal l.ptr).map fun l => (k.frame.localAddr l.ptr, toBytes l.data.toNat l.wb)
       let storeHits (w : Nat × List Byte) (a : Nat) : Prop := w.1 ≤ a ∧ a < w.1 + w.2.length
       let atomicHits (e : Eff) (a : Nat) : Prop := ∃ op wb sc, e.op = .atomic op wb sc ∧ isLocal e.a = true ∧
         k.frame.localAddr e.a ≤ a ∧ a < k.frame.localAddr e.a + wb
       let later (b a : Nat) : Prop := ∀ b', b < b' → b' < 32 → (∀ w ∈ stored b', ¬ storeHits w a) ∧ ∀ e ∈ k.i.effsOf b', ¬ atomicHits e a
       let atom (k : Com) (e : Eff) : Com := match e.op with | .atomic op wb _ => if isLocal e.a then k.localAtomic e op wb else k | _ => k
       let done : Com := (List.range 32).foldl Com.stores k
       (∀ a, (∀ b < 32, (∀ w ∈ stored b, ¬ storeHits w a) ∧ ∀ e ∈ k.i.effsOf b, ¬ atomicHits e a) → (scratch done).read a = (scratch k).read a) ∧
       (∀ b < 32, ∀ l₁ w l₂ a, stored b = l₁ ++ w :: l₂ → storeHits w a → (∀ x ∈ l₂, ¬ storeHits x a) → (∀ e ∈ k.i.effsOf b, ¬ atomicHits e a) →
         later b a → (scratch done).read a = w.2.getD (a - w.1) 0) ∧
       (∀ b < 32, ∀ l₁ e l₂ op wb sc a, k.i.effsOf b = l₁ ++ e :: l₂ → e.op = .atomic op wb sc → isLocal e.a = true →
         k.frame.localAddr e.a ≤ a → a < k.frame.localAddr e.a + wb → (∀ x ∈ l₂, ¬ atomicHits x a) → later b a →
         let before : Com := l₁.foldl atom ((k.i.storesOf b).foldl Com.storeHere ((List.range b).foldl Com.stores k))
         let old := fromBytes ((scratch before).readBytes (k.frame.localAddr e.a) wb)
         (scratch done).read a = (toBytes (atomicNew op wb old (e.b.toNat % 256 ^ wb) (e.e.toNat % 256 ^ wb)) wb).getD (a - k.frame.localAddr e.a) 0) ∧
       scratch written = scratch ((List.range 32).foldl Com.stores k.pmode) ∧
       ((∀ e ∈ k.i.effs, ∃ op wb sc, e.op = .atomic op wb sc) → scratch k.effects = scratch written)) ∧
      ∀ site e x, e.op = .csrw x → k.frame.pmode = false →
        (k.supEffect site e).s = k.s.csrWrite k.t x.toNat e.a) ∧
    (∀ v : W64,
      let p := s.partOf t
      let wrote (x : Nat) : State := s.csrWrite t x v
      (∀ n < 32, ((wrote (0x410 + n)).c t).srseed.getD n 0 = v) ∧
      ((wrote 0x011).c t).tagLow = v.toNat % 2 ^ 13 ∧ ((wrote 0x012).c t).tagCrit = v.toNat % 2 ^ 13 ∧
      ((wrote 0x032).c t).lag = v.setWidth 32 ∧ ((wrote 0x405).c t).branchstall = max 1024 (min 4194304 (v.toNat % 2 ^ 23)) ∧
      ((wrote 0x406).c t).dbgctl = v ∧ ((wrote 0x407).c t).tracectl = v ∧ ((wrote 0x408).c t).health = v.getLsbD 0 ∧ ((wrote 0x409).c t).spinesel = v.setWidth 3 ∧
      ((wrote 0x403).part p).asid = v.setWidth 16 ∧ ((wrote 0x404).part p).ptroot.toNat = v.toNat % 2 ^ 42 / 2 ^ 13 * 2 ^ 13 ∧
      ∀ x < 0x800, x ∉ [0x011, 0x012, 0x032, 0x403, 0x404, 0x405, 0x406, 0x407, 0x408, 0x409] → ¬ (0x410 ≤ x ∧ x ≤ 0x42F) → wrote x = s) ∧
    (∀ l x e, c.loops.get? l = some x → x.wants = true → x.lastSpawn ≠ some c.cycle → (c.frame x.frame).spawns = true → c.throttleAllows x.depth = true → c.freeEntry = some e →
      ∃ (u : State) (i : Inst), exec (.loopSpawn t l) s = .next (u.checkHolding t) ∧ (u.c t).insts.get? e = some i ∧ i.block = x.body ∧ i.frame = x.frame ∧ i.depth = x.depth ∧
        i.iter = BitVec.ofNat 32 (if x.vec then 32 * x.next else x.next) ∧ i.ctx = .iter l x.next ∧
        ∃ y, (u.c t).loops.get? l = some y ∧ y.next = x.next + 1 ∧ y.lastSpawn = some c.cycle ∧ y.live = x.live ++ [(x.next, instNum e (c.nextGen e))]) ∧
    (∀ l x e, c.loops.get? l = some x → c.freeEntry = some e → x.over_ = true →
      ∃ (u : State) (i : Inst), exec (.loopContinuation t l) s = .next (u.checkHolding t) ∧ (u.c t).loops.get? l = none ∧ (u.c t).insts.get? e = some i ∧ i.block = x.cont ∧
        i.frame = x.frame ∧ i.iter = x.iter ∧ i.depth = x.depth - 1) ∧
    (c.holding.length ≤ Config.holdingEntries → s.checkHolding t = s) ∧
    (c.tagFree < min c.tagLow 4096 → c.throttleTick + 1024 ≤ s.quartz →
      exec (.throttleEvent t) s = .next (((s.modC t fun c => { c with throttleTick := s.quartz }).countT t 5 1).life (fieldOf t) 3 1)) ∧
    (let s1 : State := s.modC t fun c => { c with deadTick := s.quartz }
     let held (f : Nat) : Nat := ((s1.c t).insts.filter fun e => e.2.frame == f).length
     (c.deadTick + 1024 ≤ s.quartz → s1.tagDeadlock t = true →
      ∃ f ∈ s1.spawnWaiters t, (∀ g ∈ s1.spawnWaiters t, held g < held f ∨ (held g = held f ∧ f ≤ g)) ∧
        exec (.tagDeadlockCheck t) s = .next (s1.abortFrame t f ⟨0, 0, 0, 0, 0⟩
          { cause := .tagx, cw1 := 1, cw2 := w64 (s1.c t).tagFree, cw3 := w64 (s1.c t).dmax }))) ∧
    (∀ f e, c.trapEntries.contains f = true → c.freeEntry = some e →
      ∃ u i, exec (.trapEntry t f) s = .next u ∧ (u.c t).insts.get? e = some i ∧ i.frame = f ∧ i.tt = true ∧ i.depth = 0 ∧
        i.block = (c.frame f).trapv.toNat % 2 ^ 20 ∧ (u.c t).trapEntries.contains f = false ∧
        ∃ k ∈ (u.c t).arrivals, k.inst = instNum e (c.nextGen e) ∧ k.bun = 0 ∧ k.port = 0 ∧ k.val = .order)

/-! ### Tasks (spec/01) -/

/-- R15 to R27, R78, R335: the life of a task, from its creation at a hub to the end of its frame. -/
def Obligations.TasksRunFromCreationToEnd : Prop :=
  ∀ (m t f h : Nat) (id : BitVec 32) (s : State), t < Config.numTiles → h < Config.numFields →
    (∀ src cls k creator ordinal fr o b sm,
      Arrives s m ⟨src, .hub h, cls, .spawn k creator ordinal fr o, b, sm⟩ →
      let reply (s : State) (id : BitVec 32) : State :=
        s.post (.hub h) src .reply (.name .taskReply { who := src, frame := some fr, taskId := id, oseq := o })
      (∀ e, ((s.hub h).pairs.find? fun e => e.1 == creator && e.2.1 == ordinal) = some e →
        exec (.tspawnAtHub m id) s = .next (reply (s.dropMsg m) e.2.2)) ∧
      (((s.hub h).pairs.find? fun e => e.1 == creator && e.2.1 == ordinal) = none → (s.hub h).queue.length < 4096 →
        (s.part (s.partOfField h)).taskIds.contains id = false →
        ∃ u, exec (.tspawnAtHub m id) s = .next u ∧
          (u.hub h).queue = (s.hub h).queue ++ [⟨{ k with taskId := id }, s.partOfField h, creator, ordinal⟩] ∧
          (u.hub h).pairs = (s.hub h).pairs ++ [(creator, ordinal, id)])) ∧
    (∀ q, ((s.hub h).queue.find? fun q => q.task.taskId == id) = some q →
      let off : State := s.modHub h fun h => { h with queue := h.queue.filter fun x => x.task.taskId != id }
      (∀ i, q.task.placeFault (s.part q.part) = some i → exec (.taskPlacement h id t) s = .next
        ((off.modPart q.part fun p => { p with taskIds := p.taskIds.filter (· != id) }).taskRecord (.hub h) q.part 3 id i)) ∧
      (∀ l, q.task.placeFault (s.part q.part) = none → (s.part q.part).tiles.contains t = true → s.eligible q.part q.task t = true →
        (fieldOf t = h ∨ ∀ u, fieldOf u = h → s.eligible q.part q.task u = false) →
        (∀ u, fieldOf u = fieldOf t → s.eligible q.part q.task u = true →
          lexLt (s.placeRank q.part q.task u) (s.placeRank q.part q.task t) = false) →
        (s.c t).layoutOf (s.part q.part) q.task = some l →
        exec (.taskPlacement h id t) s = .next (off.settle t q.part q.task l .waiting none))) ∧
    (∀ src cls x b sm, Arrives s m ⟨src, .tile t, cls, .name .copy x, b, sm⟩ → (s.tile t).powered = true → (s.tile t).slate.replaying = false →
      s.logRoom t x.logBytes = true →
      exec (.tileDelivery m) s =
        .next (((s.dropMsg m).logDelivery t ⟨src, .tile t, cls, .name .copy x, b, sm⟩ x.logBytes).land t x)) ∧
    (∀ g e q past bs areas, ((List.range 63).find? fun f => ((s.c t).frame f).st == .free) = some g → (s.c t).freeEntry = some e →
      (s.tile t).powered = true →
      let restores := (s.tile t).slate.images.any fun x => x.asked && match x.passed with | some k => decide (k + 65536 ≤ s.quartz) | none => false
      (s.c t).pickReady ((s.c t).throttleAllows 0) s.quartz (s.c t).readyQueue restores [] = (some q, past) →
      areasPlace (s.c t).areas q.task.frameSizes = some (bs, areas) →
      ∃ u i, exec (.activation t) s = .next u ∧ (u.frame t g).st = .active ∧ (u.frame t g).task = q.task ∧
        (u.frame t g).regs.getD 0 0 = q.task.arg0 ∧ (u.frame t g).regs.getD 1 0 = q.task.arg1 ∧
        (u.c t).insts.get? e = some i ∧ i.frame = g ∧ i.block = q.task.entry ∧ i.depth = 0 ∧ i.entry = true) ∧
    (∃ u, exec (.taskReserving t id) s = .next u ∧ (u.c t).placed = (s.c t).placed.map fun q =>
      if q.task.taskId = id ∧ q.st = .ready ∧ q.passedLong s.quartz = true then { q with reserving := true } else q) ∧
    (∀ q old y, ((s.c t).placed.find? fun q => q.task.taskId == id && q.st == .moving && q.acks == 0) = some q → q.moveTo = some old →
      ((s.c old).placed.find? fun y => y.task.taskId == id && y.moveTo == some t) = some y → old ≠ t →
      ∃ u, exec (.moveComplete t id) s = .next u ∧ ∀ z ∈ (u.c old).placed, z.task.taskId ≠ id) ∧
    ((s.frame t f).st = .ending → (s.frame t f).abortRec = none → (s.frame t f).park = .none → s.frameQuiet t f = true → s.covered t f = true →
      (∀ x ∈ (s.frame t f).claims, x.answer ≠ some false) →
      exec (.frameEndDone t f) s = .next (((s.completion t f).releaseClaims t f).freeFrame t f)) ∧
    ((s.frame t f).abortRec = none ∨ s.frameQuiet t f = false → exec (.abortFaultRecord t f) s = .next (s.endImages t f)) ∧
    (∀ ws, (s.frame t f).abortRec = some ws → s.frameQuiet t f = true →
      exec (.abortFaultRecord t f) s = .next
        ((((s.closeSubs t f).publishRecord (.tile t) (s.frame t f).part faultTensor (s.frame t f).task.taskId false ws).releaseClaims t f).freeFrame t f))

/-! ### Engines, power and waits (spec/11, spec/12, spec/13, spec/25) -/

/-- R40, R42, R43, R274 to R286, R410 to R414, R417: firings and jobs of the matrix array, sort passes, grants, which come after the K-steps of
their cycle, rail samples, spines. That MATRIX_JOB_DONE starts a rescale and ends it, and that a firing ends behind the jobs that can go on, is log
entry 72, that a drain reads SRSEED when it converts log entry 105, the unit of a rail sample log entry 6, and how the ballast of R413 meets
the caps log entry 74 (the model's choices). -/
def Obligations.MatrixArrayAndPower : Prop :=
  ∀ (t f : Nat) (s : State), t < Config.numTiles → f < Config.numFields →
    let c := s.c t
    (∀ k x w, c.array = .idle → c.oldestSort = none → c.nextFiring = some k → x = c.accs.getD k {} → w = x.conf.getD 0 →
      let fsa := (c.frame (x.frame.getD 0)).fsOf (MConf.fsa w)
      let fsb := (c.frame (x.frame.getD 0)).fsOf (MConf.fsb w)
      (slotsMode fsa fsb (MConf.k w) = some x.integer → ∃ u, exec (.matrixFiringStart t) s = .next u ∧
        (u.c t).array = .firing k 0 ((MConf.k w + kdOf fsa fsb - 1) / kdOf fsa fsb) (x.st == .empty) (kUnits fsa fsb) fsa fsb ∧
        (u.c t).accs.getD k {} = { x with left := x.left - 1, st := .busy }) ∧
      (slotsMode fsa fsb (MConf.k w) ≠ some x.integer →
        exec (.matrixFiringStart t) s = .next (s.abortFrame t (x.frame.getD 0) x.armed { matcfg 1 x.name with }))) ∧
    (∀ k done left first units fsa fsb, c.array = .firing k done (left + 1) first units fsa fsb → units ≤ c.bucket → s.promotedWaits t = false →
      c.cycleFresh = true → c.arrayDue ≤ c.cycle → ∃ u, exec (.kStep t) s = .next u ∧ (u.c t).array = .firing k (done + 1) left first units fsa fsb ∧ (u.c t).bucket = c.bucket - units ∧
        (u.c t).arrayDue = c.cycle + 32 ∧ ((u.c t).accs.getD k {}).elems = (CDom.kStep
          { c with bucket := c.bucket - units, debits := c.debits + units, arrayDue := c.cycle + 32 } (c.accs.getD k {}) done first fsa fsb).1) ∧
    (∀ k done first units fsa fsb, c.array = .firing k done 0 first units fsa fsb → c.accs.has k = true → (List.range 8).any c.jobDue = false →
      ∃ u, exec (.matrixFiringEnd t) s = .next u ∧ (u.c t).array = .idle ∧ ((u.c t).accs.getD k {}).st = .accum ∧
        ((u.c t).accs.getD k {}).fired = (c.accs.getD k {}).fired + 1) ∧
    (∀ k, c.firingDue = false → (c.accParked k = false ∨ (c.accs.getD k {}).work.isSome = true) →
      exec (.matrixJobDone t k) s = .next (s.jobDone t k) ∧
      ∀ j rest g, (c.accs.getD k {}).jobs = j :: rest → (c.accs.getD k {}).frame = some g →
        (∀ n, j.op = .marm n → ((s.jobDone t k).c t).accs.getD k {} =
          { c.accs.getD k {} with left := min ((c.accs.getD k {}).left + j.a.toNat) 65535, armed := j.site, jobs := rest }) ∧
        (∀ n, j.op = .mzero n → (c.accs.getD k {}).quiet = true → ((s.jobDone t k).c t).accs.getD k {} =
          { c.accs.getD k {} with elems := [], st := .empty, flags := 0, jobs := rest }) ∧
        (∀ n, j.op = .mscale n → (c.accs.getD k {}).quiet = true → (c.accs.getD k {}).work = none →
          ((s.jobDone t k).c t).accs.getD k {} = { c.accs.getD k {} with work := some ((c.accs.getD k {}).st, 0), st := .busy }) ∧
        (∀ n st fs, j.op = .mscale n → (c.accs.getD k {}).work = some (st, fs) →
          let w := (c.accs.getD k {}).conf.getD 0
          let l := (List.range (MConf.rows w * MConf.cols w)).map fun e => scaleElem j.a.toNat ((c.accs.getD k {}).elems.getD e 0)
          ((s.jobDone t k).c t).accs.getD k {} = { c.accs.getD k {} with
            elems := (List.range l.length).map fun e => (e, BitVec.ofNat 48 (l.getD e (0, 0)).1), st := st, work := none, jobs := rest,
            flags := l.foldl (fun f r => f ||| r.2) (c.accs.getD k {}).flags }) ∧
        (let x := c.accs.getD k {}
         let v : State := s.jobDone t k
         let u : CDom := v.c t
         let w := x.conf.getD 0
         let fs := (c.frame g).fsOf (MDesc.fs j.a)
         let off (n : Nat) : State := (s.setC t { c with accs := c.accs.set k { x with jobs := rest } }).abortFrame t g j.site (matcfg 1 n)
         (∀ n, j.op = .mcfg n → x.quiet = true → u.accs.getD k {} = { x with
           conf := some j.a, integer := j.b == 1, elems := [], st := .empty, fired := 0, srcA := none, srcB := none, flags := 0, jobs := rest }) ∧
         (∀ n, j.op = .msrca n → x.quiet = true → u.accs.getD k {} = { x with srcA := some ⟨j.a, j.b, 0⟩, jobs := rest }) ∧
         (∀ n, j.op = .msrcb n → x.quiet = true → u.accs.getD k {} = { x with srcB := some ⟨j.a, j.b, 0⟩, jobs := rest }) ∧
         (∀ n ix q, j.op = .mloadc n → x.work = none → x.quiet = true → c.slotOf g (MDesc.slot j.b) = some (ix, q) → q.full = true →
           (loadcOk fs x.integer = false → v = off n) ∧
           (loadcOk fs x.integer = true → u.accs.getD k {} = { x with
             elems := c.loadElems q.base w j.a fs x.integer, work := some (x.st, fs), st := .busy })) ∧
         (∀ n fs' ix q, j.op = .mloadc n → x.work = some fs' → c.slotOf g (MDesc.slot j.b) = some (ix, q) →
           u.accs.getD k {} = { x with st := .accum, work := none, flags := 0, jobs := rest } ∧
           u.slotOf g (MDesc.slot j.b) = some (ix, if MDesc.keep j.b then q else q.cleared)) ∧
         (∀ n ix q, j.op = .mdrain n → x.work = none → x.quiet = true → c.slotOf g (MDesc.slot j.b) = some (ix, q) → q.stateNum = 0 →
           (drainOk fs = false → v = off n) ∧
           (drainOk fs = true → u.accs.getD k {} = { x with work := some (x.st, fs), st := .busy })) ∧
         (∀ n st fs ix q, j.op = .mdrain n → x.work = some (st, fs) → c.slotOf g (MDesc.slot j.b) = some (ix, q) →
           let bs := FmtSlot.elemBits (FmtSlot.fmt fs)
           let elem (i e : Nat) : Nat × FpFlags := drainElem fs (c.drainRnd fs j.sr (i * 32 + e)) x.integer (x.elems.getD (i * MConf.cols w + e) 0)
           u.accs.getD k {} = { x with elems := [], st := .empty, work := none, jobs := rest, flags := x.flags |||
             (List.range (MConf.rows w)).foldl (fun f i => (List.range (MConf.cols w)).foldl (fun f e => f ||| (elem i e).2) f) 0 } ∧
           u.slotOf g (MDesc.slot j.b) = some (ix, { q with full := true }) ∧
           (MDesc.ok j.a j.b (MConf.cols w * bs / 8) = true →
             (∀ i < MConf.rows w, ∀ e < MConf.cols w, bs ≠ 4 → ∀ z < bs / 8, u.scratch.read (q.base + MDesc.rowByte j.a 0 i (e * (bs / 8) + z)) =
               (toBytes (elem i e).1 (bs / 8)).getD z 0) ∧
             (bs = 4 → ∀ i < MConf.rows w, ∀ b < MConf.cols w / 2, u.scratch.read (q.base + MDesc.rowByte j.a 0 i b) =
               BitVec.ofNat 8 ((elem i (2 * b)).1 + 16 * (elem i (2 * b + 1)).1)) ∧
             ∀ a, (∀ i < MConf.rows w, ∀ b < MConf.cols w * bs / 8, a ≠ q.base + MDesc.rowByte j.a 0 i b) → u.scratch.read a = c.scratch.read a)))) ∧
    (∀ x q, c.array = .idle → c.oldestSort = some (x, q) → 96 ≤ c.bucket → s.promotedWaits t = false →
      c.cycleFresh = true → c.arrayDue ≤ c.cycle →
      ∀ k keys n t0 t1, q.wait = .msort k keys n t0 t1 →
        exec (.msortPass t) s = .next (if 1 < n then
          (s.payKStep t 96).modC t fun c => c.modIssue x.id fun y => { y with waits := y.waits.map fun p =>
            if p.id = q.id then { p with wait := .msort k keys (n - 1) t0 t1 } else p }
          else (s.payKStep t 96).endWaitToks t x.id q.id (sortTokens k keys q.slot t0 t1))) ∧
    (∀ inp, (s.hub f).grantTick + 1100 ≤ s.quartz → (s.hub f).powered = true → s.kStepWaits f = false →
      let v := s.newThresholds f
      let u := v.sensed f (v.hub f).temp
      exec (.powerGrant f inp) s = .next (u.powerGrant f inp) ∧ ((u.powerGrant f inp).hub f).grantTick = u.quartz ∧
      ∀ j < 160, ((u.powerGrant f inp).c (160 * f + j)).debits = 0 ∧
        ((u.c (160 * f + j)).bucket ≤ 65527 → (u.c (160 * f + j)).bucket + 8 ≤ ((u.powerGrant f inp).c (160 * f + j)).bucket) ∧
        ((u.powerGrant f inp).c (160 * f + j)).bucket ≤ 65535) ∧
    (∀ n, (s.hub f).railTick + 550 ≤ s.quartz → ∃ u, exec (.railCurrentSample f n) s = .next u ∧ (u.hub f).railTick = s.quartz ∧
      (u.hub f).samples = ((s.hub f).samples ++ [s.railPower f n]).drop ((s.hub f).samples.length - 1)) ∧
    (∀ n, s.railPower f n = n.toNat * spineMv (s.fastestSpine f) * Config.railUnit) ∧
    (∀ n, s.quartz < (s.hub f).railTick + 550 → exec (.railCurrentSample f n) s = .next s) ∧
    (∃ u, exec (.spineSwitch t) s = .next u ∧ (u.c t).spine = s.effSpine t)

/-- R133 to R139, R147, R149, R286, R290, R301, R302, R305, R308, R311, R317, R324, R330, R335, R347: what ends a wait of a tile, and the
answers that reach it, with the port they come by (R57); a reply to a durable frame waits while the inbound log is full, and the answer to an
effect while the frame is replayed. What waits through a replay, and when a register of a supervisor operation is written, are log entries 35 and 73
(the model's choices). -/
def Obligations.WaitsEndAndAnswersArrive : Prop :=
  ∀ (t i m h : Nat) (s : State), t < Config.numTiles → (s.tile t).powered = true →
    let c := s.c t
    let gone : State := s.dropMsg m
    let msg (src : Agent) (cls : Cls) (b : Body) (n : Nat) (sm : Bool) : Msg := ⟨src, .tile t, cls, b, n, sm⟩
    (∀ x, c.issue? i = some x →
      exec (.drainWaitEnd t i) s = .next (x.waits.foldl (fun (u : State) (q : PWait) => match q.wait with
        | .drain sc upto => if u.performedUpTo t x.set.frame sc upto then u.endWait t i q.id .order else u
        | _ => u) s) ∧
      exec (.pfenceWaitEnd t i) s = .next (x.waits.foldl (fun (u : State) (q : PWait) => match q.wait with
        | .pfence sc target upto => if x.todo.isEmpty && u.fenced t x.set.frame sc target upto x.frame.pmodeNow then u.endWait t i q.id .order else u
        | _ => u) s) ∧
      exec (.stashFlushDone t i) s = .next (x.waits.foldl (fun (u : State) (q : PWait) => match q.wait with
        | .flush sc ids =>
          if !(x.sends.any fun y => match y with | .flush _ _ w => w == q.id | _ => false) && ids.isEmpty &&
            (sc != 3 || u.hostDone t x.set.frame q.upto) then u.endWait t i q.id .order else u
        | _ => u) s) ∧
      exec (.wuntilTick t i) s = .next (x.waits.foldl (fun (u : State) (q : PWait) => match q.wait with
        | .wuntil tick copies => u.endWuntil t i q tick copies
        | _ => u) s) ∧
      exec (.tslotqWaitDelivery t i) s = .next (x.waits.foldl (fun (u : State) (q : PWait) => match q.wait with
        | .tslotq _ _ seen => if seen then u.endWait t i q.id .order else u
        | _ => u) s) ∧
      exec (.spopDelivery t i) s = .next (x.waits.foldl (fun (u : State) (q : PWait) => match q.wait with
        | .spop base n => (match (((u.c t).frame x.set.frame).stream? base).filter fun y => y.open_ == n with
          | none => if ((u.c t).issue? i).isSome then (u.withdraw t x).takeFault t x.set { cause := .stream, slot := q.slot } else u
          | some st => (match (u.c t).slotOf x.set.frame (st.slotIx st.cursor) with
            | some (_, sl) =>
              if sl.full && sl.ver == st.version st.cursor && !(u.c t).popsBefore x.set.frame base n i then
                u.endWait t i q.id (.scalar (spopWord sl.ver (st.slotIx st.cursor) sl.offset)) else u
            | none => u))
        | _ => u) s)) ∧
    (∀ f q, (c.pend.find? fun q => q.frame == f && q.oseq == i && (q.done.isSome || q.val.isSome)) = some q →
      (q.rmw = false ∨ q.performed = true) → (∀ x ∈ c.pend, x.frame = f → i - q.span ≤ x.oseq → x.oseq ≤ i → s.pendDone t x q.scope = true) →
      exec (.doneTokenFire t f i) s = .next (s.firePend t q)) ∧
    (∀ x, (c.copies.find? fun x => x.id == i) = some x → x.reading = false → x.left = 0 →
      let rows := (List.range x.rows.length).filterMap fun j => (x.rows[j]?).map fun r => (j, r)
      let scratch := rows.foldl (fun (m : Memory) r =>
        if isLocal r.2.2.1 then m.writeBytes ((s.frame t x.frame).localAddr r.2.2.1) ((x.rowBytes r.1).take r.2.2.2) else m) c.scratch
      exec (.copyComplete t i) s = .next
        ((s.modC t fun c => { c with copies := c.copies.filter (fun y => y.id != i), scratch := scratch }).fireDone t x.done)) ∧
    (∀ x, c.sups.get? i = some x → s.supDone x.wait = true →
      exec (.supervisorOperationComplete t i) s =
        .next ((s.modC t fun c => { c with sups := c.sups.erase i }).supValue t x.val x.reg x.key (s.supStatus x.wait)) ∧
      ∀ l, x.val = some l → x.reg = none → x.key = none →
        exec (.supervisorOperationComplete t i) s =
          .next ((s.modC t fun c => { c with sups := c.sups.erase i }).fireLate t l (s.supStatus x.wait))) ∧
    (∀ cls r data v b sm, Arrives s m (msg (.tile h) cls (.homeReply r data v) b sm) →
      let port := 2 + gone.ingress t (msg (.tile h) cls (.homeReply r data v) b sm)
      (∀ rx, r.op = .fill rx → r.size ≠ 0 → s.replyWaits t r.frame = false → exec (.fillReply m) s =
        .next (gone.fillLands t r rx data (2 + s.ingress t (msg (.tile h) cls (.homeReply r data v) b sm)))) ∧
      (∀ rx, r.op = .fill rx → r.size = 0 → s.replyWaits t r.frame = false → exec (.fillReply m) s = .next (gone.fillDropped t r)) ∧
      (∀ rx, r.op = .fill rx → s.replyWaits t r.frame = true → exec (.fillReply m) s = .next s) ∧
      ((∀ rx, r.op ≠ .fill rx) → r.op ≠ .rx → s.homeWaits t r = false →
        exec (.loadReply m) s = .next (gone.tileReply t h (msg (.tile h) cls (.homeReply r data v) b sm) r data v) ∧
        ∀ iss w j, r.ret = .load iss w j → exec (.loadReply m) s = .next (gone.bindEl t iss w j data port)) ∧
      ((∀ rx, r.op ≠ .fill rx) → r.op ≠ .rx → s.homeWaits t r = true → exec (.loadReply m) s = .next s) ∧
      (r.op = .rx → ∀ l, c.stLine r.frame (lineOf r.addr) = some l →
        exec (.rxGrant m) s = .next ((gone.modC t fun c => { c with rxAsked := c.rxAsked.filter (· != (r.frame, lineOf r.addr)) }).modC t
          fun c => c.putLine { l with perm := 2, strel := false }))) ∧
    (∀ cls down va f b sm, Arrives s m (msg (.tile h) cls (.probe down va f) b sm) →
      (down = true → exec (.probeDown m) s = .next (gone.probe t h va f true)) ∧
      (down = false → exec (.probeInv m) s = .next (gone.probe t h va f false))) ∧
    (∀ src cls op x b sm, Arrives s m (msg src cls (.name op x) b sm) → s.answerWaits t (x.frame.getD 64) = false →
      let u := gone.logReply t (x.frame.getD 64) (msg src cls (.name op x) b sm)
      let y : NameMsg := { x with port := s.ingress t (msg src cls (.name op x) b sm) }
      (op = .claimReply → (u.frame t (x.frame.getD 64)).task.taskId = x.taskId → exec (.claimReply m) s = .next (u.takeClaim t y)) ∧
      (op = .claimReply → (u.frame t (x.frame.getD 64)).task.taskId ≠ x.taskId →
        exec (.claimReply m) s = .next (u.answered t x.origin .order (2 + y.port))) ∧
      (op = .taskReply → exec (.taskidReply m) s = .next (u.answered t x.oseq (.scalar (x.taskId.setWidth 64)) (2 + y.port))) ∧
      (op = .ack → exec (.nameOperationAcknowledgement m) s = .next (u.answered t x.origin .order (2 + y.port))) ∧
      (op = .regReply → exec (.registrationReply m) s = .next (u.takeRegReply t y)))

/-! ### The name plane (spec/03) -/

/-- R79, R80, R88 to R91: a message at a router: registrations and prunes are counted in the name-match table, flits and elements go
out on the ports of the matching entries, credits, detached branches, circuits; a message that is sent again after a field revival (R399) passes a router
that counted it. The model's choices: BRANCHSTALL is read at the router's tile (log entry 90), a second CIRC keeps the reservation as it stands
(log entry 91), a registration at a port whose count has fallen to 0 is a first one, so that it is not served late (log entry 103), and the ports
from 5 on are the span links at the router of the partition's first tile (log entry 88). -/
def Obligations.RoutersForwardByTheirTables : Prop :=
  ∀ (m r i : Nat) (s : State), r < Config.numTiles →
    let gone : State := s.dropMsg m
    let n := gone.n r
    let here (src : Agent) (cls : Cls) (op : NameOp) (x : NameMsg) (b : Nat) (sm : Bool) : Prop := Arrives s m ⟨src, .tile r, cls, .name op x, b, sm⟩
    let isElem (x : NameMsg) (e : Nmt) : Bool := e.stream && e.name == x.name
    (∀ src cls x b sm, x.router ≠ atDirectory → here src cls .reg x b sm → gone.passes r x = false →
      let noted : State := gone.modN r fun n => n.noteName x
      (x.overflow = true → exec (.registrationAtRouter m) s = .next (noted.climbOn r .reg x)) ∧
      (x.overflow = false → (n.nmt.find? fun e => e.is x) = none → n.nmt.length < 2048 →
        exec (.registrationAtRouter m) s = .next ((noted.modN r fun n => { n with nmt := n.nmt ++ [freshNmt x x.port] }).climbOn r .reg x)) ∧
      (∀ e, x.overflow = false → (n.nmt.find? fun e => e.is x) = some e → e.cnt.getD x.port 0 < 255 →
        exec (.registrationAtRouter m) s = .next ((noted.modN r fun n => n.modNmt x fun e => e.more x.port x.credit).climbOn r .reg
          { x with late := x.late || (e.det.getD x.port false && e.cnt.getD x.port 0 != 0) })) ∧
      (x.overflow = false → (((n.nmt.find? fun e => e.is x) = none ∧ 2048 ≤ n.nmt.length) ∨
          ∃ e, (n.nmt.find? fun e => e.is x) = some e ∧ 255 ≤ e.cnt.getD x.port 0) →
        exec (.registrationAtRouter m) s = .next (((noted.countT r 3 1).pruneBelow r x.anew (noted.below (noted.partOf r) r x)).climbOn r .reg
          { x with overflow := true }))) ∧
    (∀ src cls x b sm, x.router ≠ atDirectory → here src cls .prune x b sm → gone.passes r x = false →
      let noted : State := gone.modN r fun n => n.noteName x
      let cut : State := if x.overflow then noted
        else (noted.modN r fun n => n.modNmt x fun e => if e.cnt.getD x.port 0 ≥ 1 then e.less x.port else e).sweepNmt r
      exec (.pruneAtRouter m) s = .next (if x.mode = 1 then cut.pruneBelow r x x.path else cut.climbOn r .prune x)) ∧
    (∀ src cls x b sm, x.router ≠ atDirectory → gone.passes r x = true →
      (here src cls .reg x b sm → exec (.registrationAtRouter m) s = .next (gone.climbOn r .reg
        { x with overflow := x.overflow || !n.nmt.any fun e => e.is x && e.cnt.getD x.port 0 != 0 })) ∧
      (here src cls .prune x b sm → exec (.pruneAtRouter m) s = .next (gone.climbOn r .prune x))) ∧
    (∀ src cls x b sm, x.router ≠ atDirectory → here src cls .flit x b sm →
      let ports := n.portsOf (n.nmt.filter fun e => e.hits x.name && !e.stream)
      let carry (e : Nmt) : Nmt := if e.hits x.name && !e.stream then e.carried gone.quartz else e
      let out : State := gone.modN r fun n => { n with nmt := n.nmt.map carry }
      let elem : NameMsg := { x with stream := true, both := false }
      let above := upstream r src
      let leave (go : List Nat) (u : State) : State := (List.range numPorts).foldl (fun (s : State) k =>
        if ports.contains k || go.contains k then s.postCopy r k (ports.contains k) (go.contains k) x else s) u
      (x.both = false → exec (.publishFlitAtRouter m) s = .next (leave [] out)) ∧
      (∀ go u, x.both = true → out.elementAt r above elem = some (go, u) → exec (.publishFlitAtRouter m) s = .next (leave go u)) ∧
      (x.both = true → out.elementAt r above elem = none →
        let net := s.net.set m ⟨src, .tile r, cls, .name .element { elem with waits := true }, b, sm⟩
        exec (.publishFlitAtRouter m) s = .next { leave [] out with net := net ++ (leave [] out).net.drop (net.length - 1) })) ∧
    (∀ src cls y b sm, here src cls .element y b sm →
      let u := upstream r src
      let x : NameMsg := { y with waits := false }
      (n.nmt.find? (isElem x) = none → exec (.streamElementAtRouter m) s = .next (gone.countT r 8 1)) ∧
      ∀ e, n.nmt.find? (isElem x) = some e →
        let free (q : Nat) : Bool := decide (e.cr.getD q 0 > 0) && (q != 4 || gone.localRoom r x) &&
          !n.heldElems.any fun h => h.port == q && h.msg.name == x.name
        let go := e.ports.filter free
        let stay := e.ports.filter fun q => !free q
        (go = [] → stay ≠ [] → exec (.streamElementAtRouter m) s =
          .next { s with net := s.net.set m ⟨src, .tile r, cls, .name .element { y with waits := true }, b, sm⟩ }) ∧
        (go ≠ [] ∨ stay = [] →
          let s1 : State := gone.modN r fun n => n.modNmt { x with stream := true, mask := 0 } fun e => e.carried gone.quartz
          let s2 := stay.foldl (fun (s : State) q => s.holdElem r q x 6) (go.foldl (fun (s : State) q => s.noteElem r q x) s1)
          let s3 := if stay.isEmpty && !go.isEmpty then
            s2.modN r fun n => n.modNmt { x with stream := true, mask := 0 } fun e => { e with due := e.due ++ [(x.ver, u)] }
            else s2.creditUp r u x x.ver
          exec (.streamElementAtRouter m) s = .next (go.foldl (fun (s : State) q => s.postCopy r q false true x) s3))) ∧
    (∀ src cls x b sm e, x.router ≠ atDirectory → here src cls .credit x b sm → n.nmt.find? (isElem x) = some e →
      let s1 : State := gone.modN r fun n => n.modNmt { x with stream := true, mask := 0 } fun e =>
        { e with cr := e.cr.set x.port (min 64 (e.cr.getD x.port 0 + 1)), sent := e.sent.erase (x.port, x.ver), due := e.due.filter fun d => d.1 != x.ver }
      exec (.creditReturn m) s = .next (State.kick (match e.due.find? fun d => d.1 == x.ver with
        | some d => s1.creditUp r d.2 x x.ver
        | none => s1) r x.port x 65)) ∧
    (∀ src cls x b sm, x.router ≠ atDirectory → here src cls .detach x b sm → x.completion = true → (s.tile r).powered = true →
      let cut (i : Image) : Image := { i with fr := { i.fr with streams := i.fr.streams.map fun y =>
        if y.name = x.name ∧ !y.detached then { y with cut := true } else y } }
      let parked : State := gone.modSlate r fun l => { l with images := l.images.map cut }
      exec (.detachNotice m) s = .next (((parked.c r).frames.flatMap fun e =>
        (e.2.streams.filter fun y => y.name == x.name && !y.detached).map fun y => (e.1, y)).foldl (fun (s : State) e => s.detachStream r e.1 e.2) parked)) ∧
    (∀ src cls x b sm, x.router ≠ atDirectory → here src cls .detach x b sm → x.completion = false →
      let ports := n.portsOf (n.nmt.filter (isElem x))
      let out := (ports.filter (5 ≤ ·)).foldl (fun (s : State) q =>
        s.post (.tile r) (.span (q - 5) 0) .nameCtl (.name .detach { x with router := atDirectory })) (gone.spread r ports .nameCtl .detach x)
      exec (.detachNotice m) s = .next (if ports.contains 4 then
        out.post (.tile r) (.tile r) .nameCtl (.name .detach { x with router := r, completion := true }) else out)) ∧
    (∀ src cls op x b sm, here src cls op x b sm →
      (x.router = atDirectory →
        let up (op : NameOp) : State := (gone.post (.tile r) x.who .reply (.name .ack x)).post (.tile r) (.tile r) .nameCtl (.name op { x.anew with router := r })
        (op = .circ → exec (.circAtRouter m) s = .next (up .circ)) ∧ (op = .circrel → exec (.circrelAtRouter m) s = .next (up .circrel))) ∧
      (x.router ≠ atDirectory →
        let w := circWord x.word
        let take (n : NDom) (k : Nat) : NDom := match n.nmt[k]? with
          | some e => if e.hits x.name && !e.circ && n.circuitFree e then
              { n with nmt := n.nmt.set k { e with circ := true, circLeft := w.1, circIdle := w.2, circTick := gone.quartz } } else n
          | none => n
        let tree := (List.range numPorts).filter fun q => (n.entriesOf x.name).any fun e => e.cnt.getD q 0 != 0
        let drop (e : Nmt) : Nmt := if e.hits x.name then { e with circ := false, circLeft := 0 } else e
        let out (g : NDom → NDom) (ports : List Nat) (op : NameOp) : State := (gone.modN r g).spread r ports .nameCtl op x
        (op = .circ → exec (.circAtRouter m) s =
          .next (out (fun n => (List.range n.nmt.length).foldl take n) tree .circ)) ∧
        (op = .circrel → exec (.circrelAtRouter m) s = .next (out (fun n => { n with nmt := n.nmt.map drop }) tree .circrel)))) ∧
    (∀ e, (s.n r).nmt[i]? = some e → e.circ = true → e.circTick + e.circIdle ≤ s.quartz →
      ∃ u, exec (.circIdleExpiry r i) s = .next u ∧ (u.n r).nmt = (s.n r).nmt.set i { e with circ := false, circLeft := 0 }) ∧
    (∀ h, (s.n r).heldElems[i]? = some h → h.since + (s.c r).branchstall ≤ s.quartz →
      exec (.branchstallExpiry r i) s = .next (s.detach r h.port h.msg))

/-- R74, R81 to R87, R311, R317, R318, R321, R350: messages at the directory of a name's home, in the order of R82, those that waited at its ingress, retention and the
release of an entry; a message that is sent again after a field revival and was applied before is only acknowledged (R399). R87, R400: a stack that a
start excluded serves no fall-through, and the next rim does. The model's choices: a publish of a new name waits where all 1,024 entries are taken
(log entry 57), a COLL registration makes room as a publish does (log entry 59), a partial for no registered reduction is dropped with CW1 6 (log
entry 22), one that comes after the reduction was completed among them (log entry 100), and a COLL of an old version is refused (log entry 120). -/
def Obligations.DirectoriesKeepTheirNames : Prop :=
  ∀ (m t i : Nat) (name : TileName) (ver : BitVec 16) (s : State), t < Config.numTiles →
    let taken : State := s.takeMsg m
    let p := s.partOf t
    let here (src : Agent) (cls : Cls) (op : NameOp) (x : NameMsg) (b : Nat) (sm : Bool) : Prop :=
      Arrives s m ⟨src, .tile t, cls, .name op x, b, sm⟩ ∧ s.inOrder t (op.rank (s.ingress t ⟨src, .tile t, cls, .name op x, b, sm⟩)) = true
    let bound (x : NameMsg) : Option Binding := (s.part p).binding x.name.ns x.name.tensor
    let one (x : NameMsg) : Nat × Nat := if ((s.n t).entry? x.name).isSome then (0, 0) else (1, 0)
    (∀ src cls op x b sm, x.router = atDirectory → here src cls op x b sm → (s.n t).seen x = true →
      (op = .reg ∨ op = .rearm → exec (.registrationAtHome m) s = .next (taken.ackAgain t op x)) ∧
      (op = .prune → exec (.pruneAtHome m) s = .next (taken.ackAgain t op x)) ∧ (op = .claim → exec (.claimAtHome m) s = .next (taken.ackAgain t op x)) ∧
      (op = .claimRel → exec (.claimReleaseAtHome m) s = .next (taken.ackAgain t op x)) ∧
      (op = .retain → exec (.retainAtHome m) s = .next (taken.ackAgain t op x)) ∧ (op = .coll → exec (.collAtHome m) s = .next (taken.ackAgain t op x))) ∧
    (∀ src cls op x b sm, here src cls op x b sm → (s.n t).dataStalled = false → (s.n t).seen x = true →
      (op = .publish → exec (.publishAtHome m) s = .next (taken.ackAgain t op x)) ∧ (op = .piece → exec (.partialAtHome m) s = .next (taken.ackAgain t op x))) ∧
    (∀ src cls op x b sm, x.router = atDirectory → here src cls op x b sm → (s.n t).seen x = false →
      (op = .reg ∨ op = .rearm → (s.n t).admits ((s.n t).needs (s.covered? p x) x) = true →
        exec (.registrationAtHome m) s = .next (taken.takeReg t x)) ∧
      (op = .claim → (s.n t).admits (one x) = true → exec (.claimAtHome m) s = .next (taken.takeClaimAt t x)) ∧
      (op = .claim → (s.n t).admits (one x) = false → ∃ u, exec (.claimAtHome m) s = .next u ∧
        (u.n t).ingress = (taken.n t).ingress ++ [⟨src, .tile t, cls, .name op x, b, sm⟩]) ∧
      (op = .retain → (bound x).isSome = true → (s.n t).admits (one x) = true → exec (.retainAtHome m) s = .next (taken.takeRetain t x)) ∧
      (op = .claimRel → ∃ u, exec (.claimReleaseAtHome m) s = .next u ∧ (u.n t).names = (taken.n t).names.map fun e =>
        if e.name = x.name ∧ e.claim = some x.taskId ∧ e.claimFar = x.who.far then { e with claim := none, touched := s.quartz } else e) ∧
      (op = .prune → ∃ u, exec (.pruneAtHome m) s = .next u ∧ ∀ e ∈ (u.n t).names, ∀ q ∈ e.subs, sameSub q.reg x = false) ∧
      (∀ u, op = .coll → taken.takeColl t x = some u → exec (.collAtHome m) s = .next u) ∧
      (op = .coll → taken.takeColl t x = none → ∃ u, exec (.collAtHome m) s = .next u ∧
        (u.n t).ingress = (taken.n t).ingress ++ [⟨src, .tile t, cls, .name op x, b, sm⟩]) ∧
      (∀ e q, op = .rerequest → (s.n t).entry? x.name = some e → (e.subs.find? fun r => sameSub r.reg x) = some q →
        exec (.unicastRerequest m) s = .next ((taken.modSub t x.name q fun q => { q with detached := true, wants := q.wants ++ [x.ver] }).serveSub t x.name q x.ver))) ∧
    (∀ src cls x b sm, here src cls .publish x b sm → (s.n t).dataStalled = false → (s.n t).seen x = false →
      (∀ q u, bound x = some q → s.claimFree t x q = true → taken.takePub t x q = some u → exec (.publishAtHome m) s = .next u) ∧
      (∀ q, bound x = some q → s.claimFree t x q = true → taken.takePub t x q = none → x.trace = false →
        ∃ u, exec (.publishAtHome m) s = .next u ∧
          (u.n t).ingress = (taken.n t).ingress ++ [⟨src, .tile t, cls, .name .publish x, b, sm⟩] ∧ (u.n t).dataStalled = true) ∧
      (∀ q v, bound x = some q → s.claimFree t x q = false → x.who = .tile v →
        exec (.publishAtHome m) s = .next (taken.remoteFault (.tile t) v (x.frame.getD 64) x.taskId
          { cause := .namecfg, cw1 := 7, cw2 := x.name.hi, cw3 := x.name.lo x.ver }))) ∧
    (∀ src cls x b sm, here src cls .piece x b sm → (s.n t).dataStalled = false → (s.n t).seen x = false →
      (∀ q, bound x = some q → exec (.partialAtHome m) s = .next (taken.takePart t ⟨src, .tile t, cls, .name .piece x, b, sm⟩ x q)) ∧
      (bound x = none → exec (.partialAtHome m) s = .next ((taken.countT t 2 1).dropPart t t x 0))) ∧
    ((s.n t).dataStalled = true → ∀ src cls op x b sm, here src cls op x b sm →
      (op = .publish → exec (.publishAtHome m) s = .next s) ∧ (op = .piece → exec (.partialAtHome m) s = .next s)) ∧
    (∀ r op x, (s.n t).retries[i]? = some r → r.msg.body = .name op x → r.last + 256 ≤ s.quartz →
      exec (.partialRetry t i) s = .next ((s.modN t fun n => { n with retries := n.retries.eraseIdx i }).send
        { r.msg with body := .name op { x with late := true, tick := w64 r.first, hops := 0, trail := none } })) ∧
    (∀ r h op x, (s.n t).retries[i]? = some r → r.msg.dst = .tile h → r.msg.body = .name op x → r.first + 65536 ≤ s.quartz →
      (s.n h).red? x.name x.ver = none →
      exec (.partialUnregisteredDrop t i) s = .next ((s.modN t fun n => { n with retries := n.retries.eraseIdx i }).dropPart t h x 6)) ∧
    (∀ msg op x u, (s.n t).ingress[i]? = some msg → msg.body = .name op x →
      (s.modN t fun n => { n with ingress := n.ingress.eraseIdx i }).takeIngress t op x = some u → exec (.directoryIngressRetry t i) s = .next u) ∧
    (∀ e r, (s.n t).entry? name = some e → e.ret? ver = some r → r.accepted + r.time ≤ s.quartz → isFaultName name = false →
      exec (.retentionExpiry t name ver) s = .next ((s.releaseVer t name ver).noteOrder t 24)) ∧
    (∀ e, (s.n t).entry? name = some e → name.ns ≠ 0 → e.claim = none → e.subs = [] → e.retained = [] → e.reds = [] → e.fetching = [] → e.keptRetain = [] →
      e.touched + s.rett t name ≤ s.quartz →
      ∃ u, exec (.nameEntryRelease t name) s = .next u ∧ (u.n t).names = (s.n t).names.filter fun e => e.name != name) ∧
    (∀ a cls x b sm, Arrives s m ⟨.tile t, .rim a, cls, .name .fetch x, b, sm⟩ → (s.rim a).excluded = true →
      exec (.fetchAtRim m) s = .next ((s.dropMsg m).fetchElsewhere t x)) ∧
    (∀ a cls x b sm, Arrives s m ⟨.tile t, .rim a, cls, .name .fetch x, b, sm⟩ → (s.rim a).excluded = false → ∀ q, bound x = some q →
      let pieces := tilePieces q x.name
      ∃ u, exec (.fetchAtRim m) s = .next u ∧ (u.rim a).nextFetch = (s.rim a).nextFetch + 1 ∧
        (u.rim a).fetches = (s.rim a).fetches ++ [⟨(s.rim a).nextFetch, x, p, t, [], pieces.length, none⟩]) ∧
    (∀ a f, a < Config.numRims → (s.rim a).fetches[i]? = some f → (s.rim a).excluded = true → exec (.fetchPublish a i) s = .next
      ((s.modRim a fun r => { r with fetches := r.fetches.eraseIdx i }).fetchElsewhere f.home f.msg)) ∧
    (∀ a f, a < Config.numRims → (s.rim a).fetches[i]? = some f → (s.rim a).excluded = false → f.left = 0 → f.failed = none →
      exec (.fetchPublish a i) s = .next ((s.modRim a fun r => { r with fetches := r.fetches.eraseIdx i }).post (.rim a) (.tile f.home) .nameData
        (.name .publish { name := f.msg.name, ver := f.msg.ver, who := .rim a, taskId := f.msg.taskId, fallthrough := true,
                          bytes := f.data.flatMap (·.2), tick := s.tick })))

/-- R84: a version that a home takes counts as accepted and is not fresh any more; nor is one accepted before it, within 32,767
versions. -/
def Obligations.VersionsAreAcceptedOnce : Prop :=
  ∀ (e : NameEntry) (v : BitVec 16), e.fresh v = true →
    (e.accept v).accepted v = true ∧ (e.accept v).fresh v = false ∧
    ∀ w, e.accepted w = true → (v - w).toNat ≤ 32767 → (e.accept v).fresh w = false

/-! ### Memory behind the tiles (spec/04, spec/05, spec/13) -/

/-- R99, R107, R109, R110, R132, R138, R333: requests, probe acknowledgements and writebacks at a home slice, a writeback behind what
its tile asked for before; what a field-shared access does. A writeback by a tile that does not own the line, beside other copies, is applied as
writes, which invalidate those (log entry 101: the model's choice). -/
def Obligations.HomesServeTheirLines : Prop :=
  ∀ (m t u : Nat) (cls : Cls) (b : Nat) (sm : Bool) (s : State),
    let gone : State := s.dropMsg m
    let noted (r : HomeReq) : State := gone.modN t fun n => n.noteApplied r.sender r.oseq
    (∀ src r, Arrives s m ⟨src, .tile t, cls, .home r, b, sm⟩ → s.homeTakes t r = true →
      let i : Instr := match r.op with | .fill _ | .rx | .load | .write => .requestAtHome m | .atomic _ => .atomicAtHome m | .sigadd => .sigaddAtHome m | .sigwait => .sigwaitAtHome m
      exec i s = .next (gone.enterHome t r) ∧
      (r.fsh = true → r.op = .load →
        exec (.requestAtHome m) s = .next ((noted r).homeAnswer t r ((gone.n t).fshared.readBytes r.addr r.size) 0)) ∧
      (r.fsh = true → r.op = .write → r.resent = false → ∃ v, exec (.requestAtHome m) s = .next v ∧
        ∀ a, (v.n t).fshared.read a = if r.addr ≤ a ∧ a < r.addr + r.data.length then r.data.getD (a - r.addr) 0 else (s.n t).fshared.read a) ∧
      (r.fsh = true → r.op = .sigwait → r.b.toNat ≤ fromBytes ((gone.n t).fshared.readBytes r.addr 8) →
        exec (.sigwaitAtHome m) s = .next ((noted r).homeAnswer t r [] 0)) ∧
      (∀ op, r.fsh = true → r.op = .atomic op → (s.n t).kept.get? r.keptKey = none →
        let old := fromBytes ((gone.n t).fshared.readBytes r.addr r.size)
        ∃ v, exec (.atomicAtHome m) s = .next v ∧ (v.n t).fshared =
          (gone.n t).fshared.writeBytes r.addr (toBytes (atomicNew op r.size old (r.b.toNat % 256 ^ r.size) (r.d.toNat % 256 ^ r.size)) r.size))) ∧
    (∀ va f data upto kept l, Arrives s m ⟨.tile u, .tile t, cls, .probeAck va f data upto kept, b, sm⟩ →
      let p := gone.copySpace t u f va
      (gone.n t).line? p va = some l →
      let r : HomeReq := { op := .write, part := p, fsh := false, addr := va, size := 512, sender := .tile u }
      let taken := gone.takeSectors t p va data r
      let told := if data.isEmpty then taken else taken.post (.tile t) (.tile u) .reply (.wbAck f va upto none)
      exec (.probeAckAtHome m) s = .next (((told.modN t fun n => n.modLine p va fun l =>
        { l with acks := l.acks.erase (u, f), dir := if f ≥ 65 then l.dir.afterWriter u kept else l.dir }).lineOn t p va).retryHome t)) ∧
    (∀ va f data keep upto flush l, Arrives s m ⟨.tile u, .tile t, cls, .writeback va f data keep upto flush, b, sm⟩ →
      let p := gone.copySpace t u f va
      let apart : Prop := (l.acks.any fun c => c.1 == u) = false ∧ data ≠ [] ∧ l.dir ≠ .x u f ∧ l.dir.others (some (u, f)) ≠ []
      (gone.n t).line? p va = some l → (l.acks.any fun c => c.1 == u) = true ∨ l.owes u data = false →
      (apart → exec (.writebackAtHome m) s = .next
        ((gone.modN t fun n => n.modLine p va fun l => { l with queue := l.queue ++ backWrites p u f va data upto flush }).lineOn t p va)) ∧
      (¬ apart →
      let r : HomeReq := { op := .write, part := p, fsh := false, addr := va, size := 512, sender := .tile u }
      let taken := gone.takeSectors t p va data r
      let own := if !keep && !(l.acks.any fun c => c.1 == u) && l.dir == .x u f then taken.modN t fun n => n.modLine p va fun l => { l with dir := .u } else taken
      exec (.writebackAtHome m) s = .next ((own.post (.tile t) (.tile u) .reply (.wbAck f va upto flush)).lineOn t p va))) ∧
    (∀ va f data keep upto flush l, Arrives s m ⟨.tile u, .tile t, cls, .writeback va f data keep upto flush, b, sm⟩ →
      (s.n t).line? (s.copySpace t u f va) va = some l → (l.acks.any fun c => c.1 == u) = false → l.owes u data = true →
      exec (.writebackAtHome m) s = .next s)

/-- R331, R332: BARC, BARA and BARW take effect at their barrier once per number; an arrival of the running phase counts, and the last one
ends the phase. The effects on the barrier are stated for a tile without watchpoints. -/
def Obligations.BarriersCountTheirArrivals : Prop :=
  ∀ (m t u k f o : Nat) (id : BitVec 32) (cls : Cls) (b : Nat) (sm : Bool) (s : State),
    let gone : State := s.dropMsg m
    let x : BarSender := ⟨u, f, o, id⟩
    let here (op : BarOp) : Prop := Arrives s m ⟨.tile u, .tile t, cls, .bar k op f o id, b, sm⟩
    let kept (s : State) : State :=
      (s.modN t fun n => { n with keptBar := n.keptBar.set (64 * u + f) ⟨o, 0⟩ }).modN t fun n => n.noteApplied (.tile u) o
    let new := ∀ q, (gone.n t).keptBar.get? (64 * u + f) = some q → q.oseq < o
    (∀ count reset, here (.barc count reset) → new → exec (.barcAtBarrier m) s = .next ((kept gone).barc t k count reset x)) ∧
    (∀ ph, here (.bara ph) → new → exec (.baraAtBarrier m) s = .next ((kept gone).barArrive t k ph x)) ∧
    (∀ ph, here (.bara ph) → new → let y := gone.bar t k
      (gone.n t).watches = [] → ph = y.phase → 1 ≤ y.count → y.early = 0 →
      (y.arr + 1 < y.count → ∃ v, exec (.baraAtBarrier m) s = .next v ∧ v.bar t k = { y with arr := y.arr + 1 }) ∧
      (y.arr + 1 = y.count → ∃ v, exec (.baraAtBarrier m) s = .next v ∧
        v.bar t k = { y with arr := 0, phase := (y.phase + 1) % 65536, waiters := y.waiters.filter fun w => w.1 != y.phase })) ∧
    (∀ ph, here (.bara ph) → ∀ q, (gone.n t).keptBar.get? (64 * u + f) = some q → o < q.oseq →
      exec (.baraAtBarrier m) s = .next (gone.countT t 11 1)) ∧
    (∀ ph iss w, here (.barw ph iss w) →
      (newer (s.bar t k).phase ph = true → exec (.barwAtBarrier m) s = .next (gone.releaseWaiter t (ph, u, iss, w))) ∧
      (newer (s.bar t k).phase ph = false → (s.n t).barWaiters < 1024 → exec (.barwAtBarrier m) s =
        .next (gone.setBar t k { s.bar t k with waiters := (s.bar t k).waiters ++ [(ph, u, iss, w)] })))

/-- R112 to R117, R121, R122, R416: translations are walked, stalled and resolved; HBM4E is read and written by its rim agents, each
sector with its CRC; a page moves, and the accesses queued for it are performed at its destination once the TLBINV is complete. What waits at a home, and
what DECLINED discards, are log entries 25 and 28 (the model's choices). -/
def Obligations.TranslationAndHbmAccesses : Prop :=
  ∀ (t i p m a : Nat) (stall : BitVec 32) (s : State), a < Config.numRims →
    let gone : State := s.dropMsg m
    (∀ w, t < Config.numTiles + Config.numRims → (s.walksOf t)[i]? = some w →
      walkFree (s.walksOf t) i (match s.walkReq t w with | some r => r.isHost | none => false) = true →
      ((s.tlbLeaf t w.part w.va).isNone && s.walkWaits w.part w.va) = false →
      let q := s.translate t w.part w.va
      let off : State := q.2.setWalks t ((q.2.walksOf t).eraseIdx i)
      (∀ x pa, q.1 = .leaf x pa → off.protOf w.part x pa (off.walkPerm t w).1 (off.walkPerm t w).2 = none →
        exec (.pageWalk t i stall) s = .next (off.issueHbm t w pa)) ∧
      (∀ x pa c, q.1 = .leaf x pa → off.protOf w.part x pa (off.walkPerm t w).1 (off.walkPerm t w).2 = some c →
        exec (.pageWalk t i stall) s = .next (off.refuse t w (protInfo w.part w.va c w.kind))) ∧
      (∀ reason, q.1 = .miss reason → exec (.pageWalk t i stall) s = .next (q.2.missed? t i w reason stall))) ∧
    (∀ y w x pa, p < 64 → (s.vf p).enabled = true → s.ctl.halted = false → s.findStall p stall = some (y, w) →
      s.walkWaits w.part w.va = false → s.walk w.part w.va = .leaf x pa →
      let s1 : State := (s.dropPage y w).tlbFill y x
      exec (.hxresMapped p stall) s = .next (((s.pageWalks y w).foldl (fun (s : State) z =>
        match s.protOf w.part x (x.pa + (z.va - x.base)) (s.walkPerm y z).1 (s.walkPerm y z).2 with
        | none => s.issueHbm y z (x.pa + (z.va - x.base))
        | some c => s.refuse y z (protInfo w.part z.va c z.kind)) s1).liftStall y p stall)) ∧
    (∀ y w, p < 64 → (s.vf p).enabled = true → s.ctl.halted = false → s.findStall p stall = some (y, w) → Config.numTiles ≤ y →
      exec (.hxresDeclined p stall) s = .next
        (((s.pageWalks y w).foldl (fun (s : State) z => s.refuse y z (xlateInfo w.part z.va 1 w.reason stall)) (s.dropPage y w)).liftStall y p stall)) ∧
    (∀ y w, p < 64 → (s.vf p).enabled = true → s.ctl.halted = false → s.findStall p stall = some (y, w) → y < Config.numTiles →
      let late (r : HomeReq) : Bool := r.part == w.part && r.addr / 65536 == w.page && !r.isHost
      let s2 : State := (s.dropPage y w).modN y fun n => { n with waitReq := n.waitReq.filter fun r => !late r }
      let info (va : Nat) : FaultInfo := xlateInfo w.part va 1 w.reason stall
      exec (.hxresDeclined p stall) s = .next (State.liftStall (((s.n y).waitReq.filter late).foldl
        (fun (s : State) r => s.failReq y r (info r.addr))
        ((s.pageWalks y w).foldl (fun (s : State) z => s.refuse y z (info z.va)) s2)) y p stall)) ∧
    (∀ src cls w pa data va q id f tl path tries crc b sm ok, Arrives s m ⟨src, .rim a, cls, .hbm w pa data va q id f tl path tries crc, b, sm⟩ →
      (s.rim a).selfRefresh = false → (s.rim a).full = false →
      let whole : Prop := ok = true ∧ crc = sectorCrc data pa
      ((s.rim a).moving pa = false → w = false →
        exec (.hbmAccessAtRim m ok) s = .next (gone.hbmAnswer a src pa va q tries b)) ∧
      ((s.rim a).moving pa = false → w = true → whole → ∃ v, exec (.hbmAccessAtRim m ok) s = .next v ∧ v.hbm = s.hbm.writeBytes pa data) ∧
      (w = true → ¬ whole → resends tries < 3 → exec (.hbmAccessAtRim m ok) s = .next
        (((gone.postAged src (.rim a) .request (.hbm w pa data va q id f tl path (tries + 1) (sectorCrc data pa)) b).life (fieldOf tl) 5 1).count
          (spacePart q) 11 1)) ∧
      (w = true → ¬ whole → 3 ≤ resends tries → exec (.hbmAccessAtRim m ok) s = .next
        ((gone.pathRecord (.rim a) (spacePart q) tl f id (protInfo q va 3 path)).invOn (spacePart q))) ∧
      ((s.rim a).moving pa = true → (w = true → whole) → ∃ v, exec (.hbmAccessAtRim m ok) s = .next v ∧
        (v.rim a).queue = (s.rim a).queue ++ [⟨src, .rim a, cls, .hbm w pa data va q id f tl path tries crc, b, sm⟩] ∧ v.hbm = s.hbm)) ∧
    ((s.rim a).full = true → ∀ src cls w pa data va q id f tl path tries crc b sm ok,
      Arrives s m ⟨src, .rim a, cls, .hbm w pa data va q id f tl path tries crc, b, sm⟩ → exec (.hbmAccessAtRim m ok) s = .next s) ∧
    (∀ cls pa data va q tries crc b sm, Arrives s m ⟨.rim a, .tile t, cls, .hbmReply pa data va q tries crc, b, sm⟩ →
      (crc = sectorCrc data pa → exec (.hbmSectorReply m .good) s = .next ((gone.sectorRead t q va data).invOn (spacePart q))) ∧
      (resends tries < 3 →
        let again : State := ((gone.postAged (.rim a) (.tile t) cls (.hbmReply pa data va q (tries + 1) (sectorCrc data pa)) b).life (fieldOf t) 5 1).count
          (spacePart q) 11 1
        exec (.hbmSectorReply m .crcBad) s = .next again ∧
        (crc ≠ sectorCrc data pa → exec (.hbmSectorReply m .good) s = .next again)) ∧
      (3 ≤ resends tries → exec (.hbmSectorReply m .crcBad) s = .next ((gone.sectorFails t q va).invOn (spacePart q))) ∧
      (reissues tries < 1 → exec (.hbmSectorReply m .uncorrectable) s =
        .next (gone.postAged (.tile t) (.rim a) .request (.hbm false pa [] va q 0xFFFFFFFF 0 t 0 (tries + 8) (sectorCrc [] pa)) b)) ∧
      (1 ≤ reissues tries → exec (.hbmSectorReply m .uncorrectable) s = .next ((gone.sectorFails t q va).invOn (spacePart q)))) ∧
    (∀ src dst, src / stackBytes = a → dst / stackBytes < Config.numRims → src % 65536 = 0 → dst % 65536 = 0 → (s.rim a).mig = none →
      s.asleep src = false → s.asleep dst = false →
      ∃ v, exec (.pageMigration src dst) s = .next v ∧ v.hbm = s.hbm.writeBytes dst (s.hbm.readBytes src 65536) ∧ (v.rim a).mig = some (src, dst) ∧
        (v.rim a).inv = none) ∧
    ((s.rim a).inv = none → exec (.migrationForward a 0) s = .next s) ∧
    (∀ src dst q tick, (s.rim a).mig = some (src, dst) → (s.rim a).inv = some (q, tick) →
      (s.accessesDone q tick = false → exec (.migrationForward a 0) s = .next s) ∧
      (s.asleep dst = true → exec (.migrationForward a 0) s = .next s) ∧
      (s.accessesDone q tick = true → s.asleep dst = false →
        let late := s.behindQueue a src q tick
        let rest : State := { s with net := s.net.map fun y => if late y then y.redirected src dst else y }
        exec (.migrationForward a 0) s = .next (((s.rim a).queue.foldl (fun (s : State) y => s.forwardOne a src dst y)
          (rest.modRim a fun r => { r with mig := none, inv := none, queue := [] })).invOn q))) ∧
    (∀ (u : State) src dst x y cls pa data va q id f tl path tries crc b sm,
      u.forwardOne a src dst ⟨x, y, cls, .hbm false pa [] va q id f tl path tries crc, b, sm⟩ =
        u.hbmAnswer a x (dst + (pa - src)) va q tries b ∧
      (⟨x, y, cls, .hbm true pa data va q id f tl path tries crc, b, sm⟩ : Msg).redirected src dst = ⟨x, .rim (dst / stackBytes), cls, .hbm true (dst + (pa - src))
        data va q id f tl path tries (if crc = sectorCrc data pa then sectorCrc data (dst + (pa - src)) else ~~~sectorCrc data (dst + (pa - src))), b, sm⟩ ∧
      (u.forwardOne a src dst ⟨x, y, cls, .hbm true pa data va q id f tl path tries crc, b, sm⟩).hbm = u.hbm.writeBytes (dst + (pa - src)) data) ∧
    (∀ x : StackReading, x.agent = a →
      ((16 * s.pf.crit.toNat : Nat) ≤ x.temp.toInt ∨ s.attachedCritical a = true →
        ∃ v, exec (.stackSelfRefresh x) s = .next v ∧ (v.rim a).selfRefresh = true) ∧
      (x.temp.toInt < (16 * s.pf.crit.toNat : Nat) → s.attachedCritical a = false → exec (.stackSelfRefresh x) s = .next s))

/-! ### Persistence, power and preemption (spec/05, spec/23, spec/25) -/

/-- R143 to R153, R269, R394 to R400: an epoch takes COMMITSEQ as its target and its D record makes it the durable point; a tile or a field that
loses power keeps its slate, and revives, but for a field that a start excluded and in a halted module. What a field's loss takes is log entry 35, what a
halted module still does log entry 81 (the model's choices). -/
def Obligations.EpochsAndRevivals : Prop :=
  ∀ (t f : Nat) (s : State), t < Config.numTiles → f < Config.numFields →
    let l := (s.tile t).slate
    (l.target = none → (s.tile t).powered = true → (s.flushParked t).epochDue t = true →
      ∃ u e, exec (.persistEpochStart t) s = .next u ∧ (u.tile t).slate.target = some e ∧ e.seq = ((s.flushParked t).c t).commitSeq ∧
        e.c = { (s.flushParked t).c t with issued := ((s.flushParked t).c t).issued.map fun x => { x with latches := [] } } ∧ e.n = (s.flushParked t).n t ∧ (u.tile t).slate.lastEpoch = (s.flushParked t).quartz ∧
        (u.tile t).slate.epochs = ((s.flushParked t).tile t).slate.epochs + 1) ∧
    (∀ e, l.target = some e →
      let s1 : State := (s.modSlate t fun l => l.newD e).life (fieldOf t) 0 e.sectors.length
      let parked := (s1.c t).framesThat fun f => (s1.c t).parkReady f && e.c.parkReady f
      exec (.dRecordWritten t) s = .next ((State.releaseHeld (parked.foldl (fun (s : State) f => s.parkFrame t f) s1) t).retrySends t) ∧
      (l.newD e).d = max e.seq l.d ∧ (l.newD e).target = none ∧ (l.newD e).snap = some e.c) ∧
    (∀ torn, (s.tile t).powered = true → exec (.cDomainPowerLoss t torn) s = .next (s.lose t 1 torn)) ∧
    ((s.tile t).powered = false → s.railsUp t = true → exec (.cDomainRevival t) s = .next (s.revive t)) ∧
    (∀ g k r rest, l.replayLeft = (k, r) :: rest → l.replaying = true → k % 64 = g → l.replaySince + 65536 ≤ s.quartz →
      exec (.replayStallTimeout t g) s = .next ((s.diverged t g ⟨0, 0, 0, 0, 0⟩ 1 k).replayed t l.progress)) ∧
    ((s.hub f).powered = true → ∃ u, exec (.fieldPowerLoss f) s = .next u ∧ u = s.loseField f ∧ (u.hub f).powered = false ∧ (u.hub f).tlb = [] ∧
      (u.hub f).life = (u.hub f).lifePersisted) ∧
    ((s.hub f).powered = true ∨ (s.hub f).excluded = true ∨ s.ctl.halted = true → exec (.fieldPowerReturn f) s = .next s) ∧
    ((s.hub f).powered = false → (s.hub f).excluded = false → s.ctl.halted = false →
      let s1 : State := s.modHub f fun h => { h with powered := true }
      let s2 := (fieldTiles f).foldl (fun (s : State) t => if (s.tile t).powered || !s.railsUp t then s else s.revive t) s1
      exec (.fieldPowerReturn f) s = .next (((fieldTiles f).foldl (fun (s : State) t => s.linesOn t) s2).resend f Agent.notTile)) ∧
    (∀ r, r < Config.numTiles + Config.numRims → (s.hub f).powered = true →
      (∀ m ∈ s.net, m.dst = walker r → ∀ u, m.src = .tile u → fieldOf u ≠ f) →
      exec (.fieldRevivalResend r f) s = .next (s.resend f (· == walker r)))

/-- R386 to R393, R415 to R417: watchdogs, the steps of parking and restore, and the thermal levels of a field with the critical sequence.
Which hub acts for a partition of several fields, and that a rise goes to the highest level reached, is log entry 44, and that rails which an alarm
removed stay off log entry 45 (the model's choices). -/
def Obligations.PreemptionWatchdogsAndHeat : Prop :=
  ∀ (t f i h : Nat) (temp : BitVec 16) (s : State), t < Config.numTiles → h < Config.numFields →
    let fr := s.frame t f
    let x := s.hub h
    let level := x.levelAt temp.toInt
    let read : State := s.modHub h fun y => { y with temp := temp }
    ((s.tile t).powered = true → fr.park = .asked → (fr.st = .active ∨ fr.st = .trapped) →
      ∃ u, exec (.preemptMarkerEffect t f) s = .next u ∧ u.frame t f = { fr with park := .marked (s.c t).cycle }) ∧
    (∀ k, fr.park = .marked k → (k + 4096 ≤ (s.c t).cycle ∨ s.issuesNothing t f = true) →
      ∃ u, exec (.parkIssueCutoff t f) s = .next u ∧ (u.frame t f).park = .cutoff) ∧
    (∀ x q, ((s.tile t).slate.images.filter fun x => x.asked)[i]? = some x → (s.tile t).powered = true → (s.c t).seat x = some q →
      exec (.frameRestore t i) s = .next (s.seatImage t x q)) ∧
    (∀ n, (s.part fr.part).watchLimit = some n → f < 63 → n ≤ fr.watch → (fr.st = .active ∨ fr.st = .trapped) →
      exec (.frameWatchdogExpiry t f) s = .next (s.abortFrame t f ⟨0, 0, 0, 0, 0⟩
        { cause := .wdog, cw2 := w64 (s.waitsOn t f), cw3 := w64 fr.watch })) ∧
    (65536 ≤ (s.c t).tileWatch → (s.tile t).powered = true → exec (.tileWatchdogExpiry t) s =
      .next (((s.lose t 3 none).modC t fun c => { c with health := true }).life (fieldOf t) 6 1)) ∧
    exec (.thermalLevelRise h temp) s = .next (s.sensed h temp) ∧ exec (.thermalLevelFall h temp) s = .next (s.sensed h temp) ∧
    (x.level < level → s.sensed h temp = (read.levelRise h level).tempAlarm h temp) ∧
    (level ≤ x.level → x.level ≠ 0 → temp.toInt ≤ x.threshold x.level - 80 → s.sensed h temp = (read.levelFall h).tempAlarm h temp) ∧
    (level ≤ x.level → (x.level = 0 ∨ x.threshold x.level - 80 < temp.toInt) → s.sensed h temp = read.tempAlarm h temp) ∧
    (∀ n, n < 3 ∨ x.crit.isSome = true → ((read.levelRise h n).hub h).level = n ∧ ((read.levelRise h n).hub h).crit = x.crit ∧
      ((read.levelRise h n).hub h).temp = temp) ∧
    (x.crit = none → ∃ u : State, read.levelRise h 3 = u.critSweep h ∧ (u.hub h).crit = some s.quartz ∧ (u.hub h).level = 3) ∧
    (let less : State := read.modHub h fun y => { y with level := y.level - 1 }
     (x.level - 1 < 2 → x.crit.isSome = true → s.ctl.alarmOff = false → read.levelFall h = less.cooled h) ∧
     (¬ (x.level - 1 < 2 ∧ x.crit.isSome = true ∧ s.ctl.alarmOff = false) → read.levelFall h = less)) ∧
    (∀ u : State, (temp.toInt < -320 ∨ (u.hub h).threshold 3 + 240 < temp.toInt → u.tempAlarm h temp = u.fullAlarm 3) ∧
      (-320 ≤ temp.toInt → temp.toInt ≤ (u.hub h).threshold 3 + 240 → u.tempAlarm h temp = u)) ∧
    (∀ q, (s.hub h).crit = some q → (s.hub h).railsOff = false → ((s.fieldFrames h).isEmpty = true ∨ q + 1100000 ≤ s.quartz) →
      exec (.criticalRailRemoval h) s = .next (s.removeRails h))

/-- R400 to R405: a start, its journal, the alarm, the security version and the attestation answers, with the signature that each carries. A nonce,
the size of the secure region and its random bytes, the timing and the sizes of CAPABILITIES and what the spec leaves to SPDM and RFC 8032 are log
entries 6, 32 and 77; that a start first takes every field's power is log entry 31; that an erasure is one event, after which its flag is set where the
random bytes ran short, is log entry 45; that a halted module answers no request is log entry 81; that a unit which does not exist stops an event is log
entry 8 (the model's choices). -/
def Obligations.BootAndAttestation : Prop :=
  ∀ (inp : BootInputs) (req record : List (BitVec 8)) (src : BitVec 3) (index : BitVec 8) (signed : Bool) (s : State),
    exec (.moduleStart inp) s = .next (s.start inp) ∧ s.beforeStart.ctl.started = true ∧ s.beforeStart.ctl.halted = false ∧
    (∀ f < Config.numFields, (s.beforeStart.hub f).powered = false ∧ (s.beforeStart.hub f).excluded = false) ∧
    (∀ step unit alt, bits (s.ctl.journal.getD (bootIndex step unit) 0) 33 32 = 0 →
      (s.bootUnit inp step unit true alt).2 = .normal ∧ (s.bootUnit inp step unit false alt).2 = .failed) ∧
    (∀ step unit normal, hasAlternate step = true → bits (s.ctl.journal.getD (bootIndex step unit) 0) 33 32 = 1 →
      (s.bootUnit inp step unit normal true).2 = .alternate ∧ (s.bootUnit inp step unit normal false).2 = .failed) ∧
    (∀ step unit normal alt, skippable step = true → bits (s.ctl.journal.getD (bootIndex step unit) 0) 33 32 = 2 →
      (s.bootUnit inp step unit normal alt).2 = .skipped) ∧
    (let ok : Prop := s.ctl.started = true ∧ s.ctl.halted = false ∧ imageOk s.ctl.svnmin 3 record = true ∧ imageBody record = []
     ∃ u, exec (.svnminUpdate record) s = .next u ∧ s.ctl.svnmin ≤ u.ctl.svnmin ∧
      (ok → u.ctl.svnmin = BitVec.ofNat 32 (imageField record 8 4)) ∧ (¬ ok → u = s)) ∧
    (src.toNat < 5 → (src.toNat = 4 → 3 ≤ s.ctl.verifyFails) →
      exec (.securityAlarm src req) s = .next (s.alarm src.toNat req) ∧ (s.alarm src.toNat req).ctl.alarms.getLsbD src.toNat = true) ∧
    (src.toNat = 4 → s.ctl.verifyFails < 3 → exec (.securityAlarm src req) s = .next s) ∧
    (5 ≤ src.toNat → exec (.securityAlarm src req) s = .fault .noSuchUnit) ∧
    (s.ctl.erasePending = true → s.alarm src.toNat req =
      { s with ctl := { s.ctl with alarms := s.ctl.alarms ||| BitVec.ofNat 5 (2 ^ src.toNat) } }) ∧
    ((s.eraseKeys req).ctl.keysPresent = false ∧ (s.eraseKeys req).ctl.erasePending = decide (req.length < Config.secureBytes) ∧
      (Config.secureBytes ≤ req.length → ∀ a ∈ [(s.eraseKeys req).ctl.secureA, (s.eraseKeys req).ctl.secureB], a = .wiped (req.take Config.secureBytes) false)) ∧
    (s.ctl.halted = true → ∀ i ∈ [Instr.spdmGetVersion req, .spdmGetCapabilities req, .spdmNegotiateAlgorithms req, .spdmGetDigests req,
      .spdmGetCertificate req, .spdmChallenge req, .spdmGetMeasurements req index signed], exec i s = .next s) ∧
    (s.ctl.halted = false → ∃ u, exec (.spdmGetVersion req) s = .next u ∧ u.ctl.version = true ∧ u.ctl.algorithms = false ∧
      u.ctl.response = [0x10, 0x04, 0, 0, 0, 1, 0x00, 0x12] ∧ u.ctl.vca = req ++ u.ctl.response ∧ u.ctl.certs = [] ∧ u.ctl.meas = []) ∧
    (s.ctl.halted = false → s.ctl.version = true →
      exec (.spdmGetCapabilities req) s = .next (s.spdmAnswer .vca req (spdmMsg 0x61 0 0 (capabilitiesBody req))) ∧
      ((capabilitiesBody req).drop 4).take 4 = toBytes 0x16 4 ∧
      ∃ u, exec (.spdmNegotiateAlgorithms req) s = .next u ∧ u.ctl.algorithms = true ∧ u.ctl.response = spdmMsg 0x63 0 0 algorithmsBody ∧
        u.ctl.vca = s.ctl.vca ++ req ++ u.ctl.response) ∧
    (s.ctl.halted = false → s.ctl.algorithms = true →
      exec (.spdmGetDigests req) s = .next (s.spdmAnswer .certs req (spdmMsg 0x01 0 1 (Shake.sha3_512 Config.certChain))) ∧
      (let part := (Config.certChain.drop (imageField req 4 2)).take (imageField req 6 2)
       (req.getD 2 0 = 0 → exec (.spdmGetCertificate req) s = .next (s.spdmAnswer .certs req (spdmMsg 0x02 0 0
        (toBytes part.length 2 ++ toBytes (Config.certChain.length - imageField req 4 2 - part.length) 2 ++ part)))) ∧
       (req.getD 2 0 ≠ 0 → exec (.spdmGetCertificate req) s = .next (s.spdmError 1))) ∧
      (let sign (context transcript : List (BitVec 8)) : List (BitVec 8) :=
         Ed448.sign context Config.attestationKey (spdmPrefix context ++ Shake.sha3_512 transcript)
       let auth (summary : List (BitVec 8)) := spdmMsg 0x03 0 1 (Shake.sha3_512 Config.certChain ++ Config.spdmNonce s.freeCtr ++ summary ++ [0, 0])
       let hash (l : List Nat) := Shake.sha3_512 (l.flatMap s.blockOf)
       let kind := req.getD 3 0
       let meas (l : List Nat) := spdmMsg 0x60 (if index = 0 then 6 else 0) 0 (BitVec.ofNat 8 l.length :: toBytes (l.flatMap s.blockOf).length 3 ++
         l.flatMap s.blockOf ++ Config.spdmNonce s.freeCtr ++ [0, 0])
       let next : State := { s with freeCtr := s.freeCtr + 1 }
       (s.ctl.keysPresent = true → s.ctl.erasePending = false →
         (∀ summary, req.getD 2 0 = 0 → ((kind = 0 ∧ summary = []) ∨ (kind = 1 ∧ summary = hash ([1, 2, 3, 4, 5, 0xF0].filter Config.spdmTcb)) ∨
             (kind = 0xFF ∧ summary = hash [1, 2, 3, 4, 5, 0xF0])) →
           ∃ u, exec (.spdmChallenge req) s = .next u ∧ u.ctl.certs = [] ∧ u.ctl.meas = [] ∧
             u.ctl.response = auth summary ++ sign challengeContext (s.ctl.vca ++ s.ctl.certs ++ req ++ auth summary)) ∧
         (req.getD 2 0 ≠ 0 ∨ (kind ≠ 0 ∧ kind ≠ 1 ∧ kind ≠ 0xFF) → exec (.spdmChallenge req) s = .next (s.spdmError 1)) ∧
         (signed = true → (req.getD 36 0).toNat % 16 ≠ 0 → exec (.spdmGetMeasurements req index signed) s = .next (s.spdmError 1)) ∧
         ∀ l, spdmIndices index = some l → signed = true → (req.getD 36 0).toNat % 16 = 0 →
           ∃ u, exec (.spdmGetMeasurements req index signed) s = .next u ∧ u.ctl.meas = [] ∧
             u.ctl.response = meas l ++ sign measurementContext (s.ctl.vca ++ s.ctl.meas ++ req ++ meas l)) ∧
       (∀ l, spdmIndices index = some l → signed = false →
         exec (.spdmGetMeasurements req index signed) s = .next (next.spdmAnswer .meas req (meas l))) ∧
       (spdmIndices index = none → (signed = true → s.ctl.keysPresent = true ∧ s.ctl.erasePending = false) →
         exec (.spdmGetMeasurements req index signed) s = .next (s.spdmError 1)) ∧
       (s.ctl.keysPresent = false ∨ s.ctl.erasePending = true → exec (.spdmChallenge req) s = .next s.spdmUnexpected ∧
         (signed = true → exec (.spdmGetMeasurements req index signed) s = .next s.spdmUnexpected)))) ∧
    (s.ctl.halted = false → s.ctl.version = false → ∀ i ∈ [Instr.spdmGetCapabilities req, .spdmNegotiateAlgorithms req], exec i s = .next s.spdmUnexpected) ∧
    (s.ctl.halted = false → s.ctl.algorithms = false → ∀ i ∈ [Instr.spdmGetDigests req, .spdmGetCertificate req, .spdmChallenge req, .spdmGetMeasurements req index signed],
      exec i s = .next s.spdmUnexpected)

/-! ### The host and the span links (spec/22, spec/26) -/

/-- R142, R366 to R375, R380: the accesses of a virtual function: BAR4, the publish window, page-table writes, invalidations, the
subscription table, register writes and function-level reset (the model's choices: log entries 37, 38, 78 and 79). -/
def Obligations.VirtualFunctionAccesses : Prop :=
  ∀ (p e off len : Nat) (w w0 w1 w2 w3 data : BitVec 64) (bytes : List (BitVec 8)) (k : BitVec 4) (ci : BitVec 32) (s : State),
    p < 64 → (s.vf p).enabled = true → s.ctl.halted = false →
    let f := s.vf p
    let slot := k.toNat
    let entry := f.subs.getD e {}
    let taken : State := s.modVf p fun f => f.takeSlot slot
    exec (.bar4Read p w len) s = .next (s.enqueue p (.read (f.bar4 w) len)) ∧
    exec (.bar4Write p w bytes) s = .next (s.enqueue p (.write (f.bar4 w) bytes)) ∧
    (f.busy.getLsbD slot = false →
      exec (.publishHeaderPayload p k w0 w1 w2 w3) s = .next (taken.enqueue p (.header slot w0 w1 (w2 &&& ~~~0x10000#64) w3)) ∧
      exec (.publishHeaderGlobal p k w0 w1 w2 w3) s = .next (taken.enqueue p (.header slot w0 w1 (w2 ||| 0x10000#64) w3))) ∧
    (f.busy.getLsbD slot = true → ∀ i ∈ [Instr.publishHeaderPayload p k w0 w1 w2 w3, .publishHeaderGlobal p k w0 w1 w2 w3],
      ∃ u, exec i s = .next u ∧ (u.vf p).err = f.err ||| slotBit slot ∧ (u.vf p).hstat = f.hstat ||| 4 ∧ (u.vf p).posted = f.posted) ∧
    (s.pteOk p f.pteaddr.toNat = true → s.asleep f.pteaddr.toNat = true → exec (.hptedataWrite p data) s = .next s) ∧
    (s.pteOk p f.pteaddr.toNat = true → s.asleep f.pteaddr.toNat = false → ∃ u, exec (.hptedataWrite p data) s = .next u ∧ u = { s with hbm := u.hbm } ∧
      ∀ a, u.hbm.read a = if f.pteaddr.toNat ≤ a ∧ a < f.pteaddr.toNat + 8 then data.extractLsb' (8 * (a - f.pteaddr.toNat)) 8 else s.hbm.read a) ∧
    (s.pteOk p f.pteaddr.toNat = false → ∃ u, exec (.hptedataWrite p data) s = .next u ∧ (u.vf p).hstat = f.hstat ||| 2 ∧ u.hbm = s.hbm) ∧
    (∀ (kind : BitVec 2) (va : Nat) (i : Instr), ((i = .htlbinvAsid p ∧ kind = 1 ∧ va = 0) ∨
        (i = .htlbinvPage p w ∧ kind = 2 ∧ va = w.toNat / 65536 % 2 ^ 40 * 65536)) →
      (s.tlbBusy p = false → ∃ u : State, exec i s = .next u ∧ (u.vf p).invTick = some s.quartz ∧ (u.vf p).invWait = [] ∧
        (∀ t, (u.n t).tlb = ((s.tlbRemove p kind (s.part p).asid va).n t).tlb) ∧
        ∀ h, (u.hub h).tlb = ((s.tlbRemove p kind (s.part p).asid va).hub h).tlb) ∧
      (s.invDone p = false → exec i s = .next (s.modVf p fun f => { f with invWait := f.invWait ++ [(kind, va)] }))) ∧
    (e < 256 → entry.armed = false →
      let v := w2 ||| (1#64 <<< 63)
      (subOk (s.part p) entry.w0 entry.w1 v entry.w3 = true → exec (.hsubArm p e w2) s =
        .next ((s.modVf p fun f => { f with ci := f.ci.set e 0 }).subArm p e
          { entry with w2 := v, hi := entry.w0, lo := entry.w1, count := 0, base := 0, asked := 0, closing := false } .reg)) ∧
      (subOk (s.part p) entry.w0 entry.w1 v entry.w3 = false → ∃ u, exec (.hsubArm p e w2) s = .next u ∧
        (u.vf p).hstat = f.hstat ||| 0x10 ∧ ((u.vf p).subs.getD e {}).armed = false)) ∧
    (e < 256 → entry.armed = true → s.subSatisfied p entry = false → exec (.hsubArm p e w2) s = .next s) ∧
    (e < 256 → entry.armed = true → s.subSatisfied p entry = true → entry.w1Written = true → entry.closing = false →
      let v := w2 ||| (1#64 <<< 63)
      subOk (s.part p) entry.w0 entry.w1 v entry.w3 = true → exec (.hsubArm p e w2) s =
        .next (s.subArm p e { entry with w2 := v, hi := entry.w0, lo := entry.w1, base := entry.count } .rearm)) ∧
    (e < 256 → entry.armed = true → entry.closing = false →
      let going : HostSub := { entry with w2 := withV w2 true, closing := true, left := (s.subMsgs p e entry).length }
      exec (.hsubWithdraw p ⟨e, w2⟩) s = .next (((s.modVf p fun f => { f with subs := f.subs.set e going }).subPrune p e entry).subClosed p e)) ∧
    (e < 256 → entry.armed = false → exec (.hsubWithdraw p ⟨e, w2⟩) s =
      .next (s.modVf p fun f => { f with subs := f.subs.set e { entry with w2 := withV w2 false } })) ∧
    (withV w2 true = w2 &&& 0x80000001FFFFF1FF ||| (1#64 <<< 63) ∧ withV w2 false = w2 &&& 0x00000001FFFFF1FF) ∧
    (e < 256 → exec (.hsubciWrite p e ci) s = .next (State.subAsk (s.modVf p fun f => { f with ci := f.ci.set e (ci.setWidth 64) }) p e 65)) ∧
    (∀ n x m, s.net[n]? = some m → m.dst = .gateway p → m.body = .name .copy x → x.slot = e →
      (∀ j < n, ∀ y, s.net[j]? = some y → y.dst = .gateway p → ∀ z, y.body = .name .copy z → z.slot = e →
        entry.armed = true ∧ z.word = w64 entry.gen ∧ s.nextCopy p entry z = false) →
      (entry.armed = true → x.word = w64 entry.gen → s.nextCopy p entry x = true →
        (BitVec.ofNat 32 entry.count - (f.ci.getD e 0).setWidth 32).toNat < entry.ring →
        exec (.hostDelivery p e) s = .next (((s.dropMsg n).hostWrite p e entry x).subClosed p e)) ∧
      (entry.armed = false ∨ x.word ≠ w64 entry.gen → exec (.hostDelivery p e) s = .next ((s.dropMsg n).subClosed p e))) ∧
    (off < bar2Base → off % 8 = 0 → exec (.registerWrite (.vf p) off 8 data) s = .next (s.vfWrite p off data)) ∧
    (off < bar2Base → off % 8 ≠ 0 ∨ len ≠ 8 → ∃ u, exec (.registerWrite (.vf p) off len data) s = .next u ∧ (u.vf p).hstat = f.hstat ||| 4) ∧
    (∃ u, exec (.functionLevelReset p) s = .next u ∧ (u.vf p).ci = [] ∧ (u.vf p).busy = 0 ∧ (u.vf p).err = 0 ∧ (u.vf p).b4base = 0 ∧
      (u.vf p).payload = [] ∧ ∀ x ∈ (u.vf p).subs, x.2.armed = false) ∧
    exec (.functionLevelReset 64) s = .next s

/-- R369, R376, R377, R406 to R408, R422, R425, R426: what the physical function does with partitions, steps, the journal and its registers
(that the hub of the lowest field publishes a snapshot is log entry 44, the model's choice). -/
def Obligations.PhysicalFunctionAccesses : Prop :=
  ∀ (p off : Nat) (w : BitVec 64) (j : BitVec 16) (ids : List (BitVec 32)) (s : State), p < 64 → s.ctl.halted = false →
    (s.createErr p = 0 → exec (.hpctlCreate p) s = .next (s.create p)) ∧
    (s.createErr p ≠ 0 → ∃ u, exec (.hpctlCreate p) s = .next u ∧ u = { s with parts := u.parts } ∧ (u.part p).err = BitVec.ofNat 8 (s.createErr p)) ∧
    ((s.part p).st = 2 →
      exec (.hpctlDestroy p) s = .next (State.destroyOn (((s.resetVf p).modVf p fun f => { f with enabled := false, hstat := 0 }).modPart p
        fun q => { q with st := 3, err := 0 }) p)) ∧
    ((s.part p).st ≠ 2 → ∃ u, exec (.hpctlDestroy p) s = .next u ∧ (u.part p).err = 1 ∧ (u.part p).st = (s.part p).st) ∧
    (∃ u, exec (.hdstepArm p w) s = .next u ∧ (u.part p).hdstep = some (w.toNat % 2 ^ 14, w.toNat / 2 ^ 16 % 64)) ∧
    (∃ u, exec (.hdstepDisarm p) s = .next u ∧ (u.part p).hdstep = none) ∧
    (∀ v, s.ctl.journal.get? j.toNat = some v → ∃ u, exec (.hjclr j) s = .next u ∧
      u.ctl.journal.get? j.toNat = some (v &&& 0xFFFFC03C0000FFFF) ∧ ∀ n, n ≠ j.toNat → u.ctl.journal.get? n = s.ctl.journal.get? n) ∧
    (off % 8 = 0 → exec (.registerWrite .pf off 8 w) s = .next (s.pfCommand off w)) ∧
    ((∀ q < 64, off ≠ 0x1008 + 32 * q) → off % 8 = 0 → s.pfCommand off w = s.pfWrite off w) ∧
    (let v : State := s.modPart p fun q => if q.st = 0 then { q with asidReg := w.extractLsb' 32 16 } else q
     s.pfCommand (0x1008 + 32 * p) w =
      if w.extractLsb' 56 2 = 1 then (if s.createErr p = 0 then v.createCmd p else s.createCmd p) else if w.extractLsb' 56 2 = 2 then v.destroyCmd p else v) ∧
    ((s.part p).st = 2 → (s.tile (s.loaderTile p)).powered = true →
      let v := if (s.part p).loader.isEmpty then s.takeLaunch p else s
      exec (.loaderLaunch p ids) s = .next (v.loaderTasks p ids (v.part p).loader)) ∧
    (let q := s.part p
     let per := q.hdctl.toNat / 2 ^ 32 * 1024
     per ≠ 0 → q.st = 2 → q.snapTick + per ≤ s.quartz → exec (.counterSnapshot p) s =
      .next ((s.post (.hub (q.fieldList.headD 0)) (.tile (s.homeOf p (sysName 4))) .nameData (.name .publish
        { name := sysName 4, who := .hub (q.fieldList.headD 0), taskId := 0xFFFFFFFF, device := true, tick := s.tick,
          bytes := ((List.range 32).map fun i => q.counters.getD i 0).flatMap fun w => toBytes w.toNat 8 })).modPart p
        fun q => { q with snapTick := q.snapTick + per }))

/-- R378, R379, R423, R427: span frames and links, samples, and the life stores; a message takes a frame for each of its flits and is delivered with its last; a halted module takes part in no link (the model's choices: log entries 46, 47 and
81). -/
def Obligations.SpanLinksSamplesAndLife : Prop :=
  ∀ (l t i f mv : Nat) (temp : BitVec 16) (header : BitVec 96) (flit : Option SpanFlit) (s : State),
    l < Config.numSpans → t < Config.numTiles → f < Config.numFields →
    let x := s.span l
    let acked := x.acked s.peerOf (header.extractLsb' 72 12)
    (s.ctl.halted = true → ∀ ok, ∀ i' ∈ [Instr.spanFrameReceive l header ok flit, .spanReplay l, .spanLinkDown l, .spanLinkUp l, .spanPublishDrop l i],
      exec i' s = .next s) ∧
    (s.ctl.halted = false →
    (x.up = true → header.extractLsb' 84 12 ≠ x.ack + 1 → ∃ u, exec (.spanFrameReceive l header true flit) s = .next u ∧
      u.span l = acked ∧ u.net = s.net) ∧
    (∀ k, x.up = true → header.extractLsb' 84 12 = x.ack + 1 → header.extractLsb' 69 3 < 2 → flit = some k →
      let cls := (header.extractLsb' 69 3).toNat
      let came := acked.received (header.extractLsb' 84 12) cls (header.extractLsb' 56 7).toNat
      let before := if cls = 0 then acked.parts.1 else acked.parts.2
      let kept (l : List Byte) : Span := { came with parts := if cls = 0 then (l, acked.parts.2) else (acked.parts.1, l) }
      exec (.spanFrameReceive l header true flit) s = .next (if k.left = 0 then
        (s.modSpan l fun _ => kept []).spanDeliver l (header.extractLsb' 63 6).toNat { k with bytes := before ++ k.bytes }
        else s.modSpan l fun _ => kept (before ++ k.bytes))) ∧
    (∀ m, (x.put i m).replay = x.replay ++ ((List.range m.flits).map fun n => (x.seq + BitVec.ofNat 12 n, m, n)) ∧
      (x.put i m).seq = x.seq + BitVec.ofNat 12 m.flits ∧ (∀ op y, m.body = .name op y → m.flits = max 1 ((y.bytes.length + 127) / 128)) ∧
      (x.room m = true ↔ x.up = true ∧ x.replay.length + m.flits ≤ 1024)) ∧
    (∀ seq, (x.received seq 0 i).ack = seq ∧ (x.received seq 0 i).freed = (x.freed.1 + 1, x.freed.2) ∧
      (x.received seq 0 i).credits = (x.credits.1 + i, x.credits.2) ∧ (x.received seq 1 i).freed = (x.freed.1, x.freed.2 + 1) ∧
      (x.received seq 1 i).credits = (x.credits.1, x.credits.2 + i)) ∧
    (∀ ack, x.waiting = [] → (x.acked s.peerOf ack).replay = x.replay.filter fun e => !seqUpTo e.1 ack) ∧
    (x.up = true → header.extractLsb' 84 12 = x.ack + 1 → 3 ≤ (header.extractLsb' 69 3).toNat →
      exec (.spanFrameReceive l header true flit) s = .next (((s.modSpan l fun _ => acked).modSpan l fun y =>
        y.received (header.extractLsb' 84 12) (header.extractLsb' 69 3).toNat (header.extractLsb' 56 7).toNat).spanDrop
          (header.extractLsb' 63 6).toNat)) ∧
    (x.up = false → exec (.spanFrameReceive l header true flit) s = .next s) ∧ exec (.spanFrameReceive l header false flit) s = .next s ∧
    (x.up = true → x.replay ≠ [] → exec (.spanReplay l) s = .next (State.modSpan { s with ctl := { s.ctl with
      replays := s.ctl.replays.set l (s.ctl.replays.getD l 0 + 1) } } l fun x => x.again s.peerOf)) ∧
    ((x.again s.peerOf).sent.map (·.2) = x.sent.map (·.2) ++ x.replay.map (·.2) ∧ (x.again s.peerOf).replay = x.replay) ∧
    (x.up = true → exec (.spanLinkDown l) s = .next (State.lapseWaiting (s.parts.foldl (fun (s : State) e => if e.2.st = 2 then s.cutBranches l e.1 else s)
      (s.modSpan l fun x => { x with up := false })) l)) ∧
    (∃ u, exec (.spanLinkUp l) s = .next u ∧ (u.span l).up = true ∧
      (x.replay.length + ((x.waiting.map fun e => e.1.flits).foldl (· + ·) 0) ≤ 1024 → (u.span l).waiting = [] ∧
        (u.span l).replay.map (·.2) = x.replay.map (·.2) ++ x.waiting.flatMap fun e => (List.range e.1.flits).map fun n => (e.1, n))) ∧
    (∀ src d cls n b sm since, x.waiting[i]? = some (⟨src, d, cls, .name .publish n, b, sm⟩, since) → x.up = false → since + s.stallOf src ≤ s.quartz →
      let u : State := ((s.modSpan l fun y => { y with waiting := y.waiting.eraseIdx i }).stat (s.agentPart src) 0x80).spanDrop (s.agentPart src)
      exec (.spanPublishDrop l i) s = .next (match src with
        | .tile t => u.answered t n.origin .order
        | .gateway p => u.gatewayAck p { n with accepted := false }
        | _ => u))) ∧
    (∀ m, (s.n t).samples[i]? = some m → exec (.tokenSampleEject t i) s = .next (State.publishRecord
      { s.modN t (fun n => { n with samples := n.samples.eraseIdx i }) with freeCtr := s.freeCtr + (s.trailOf t m).2.2.length }
      (.tile t) (s.partOf t) traceTensor 0 true (s.sampleWords t m))) ∧
    (∃ u, exec (.lifeStorePersist f) s = .next u ∧ (u.hub f).lifePersisted = (s.hub f).life ∧ (u.hub f).life = (s.hub f).life ∧
      (u.hub f).persistTick = s.quartz) ∧
    ((s.hub f).sampleTick + 2 ^ 20 ≤ s.quartz → (s.hub f).powered = true →
      let v := State.sensed (s.modHub f fun h => { h with sampleTick := s.quartz }) f temp
      ∃ u, exec (.lifeSample f temp mv) s = .next u ∧ u = { v with hubs := u.hubs } ∧
        (u.hub f).life.getD (0x30 + min 15 ((mv - 600000) / 12500)) 0 = (v.hub f).life.getD (0x30 + min 15 ((mv - 600000) / 12500)) 0 + 1 ∧
        (u.hub f).life.getD 10 0 = (v.hub f).life.getD 10 0 + 1 ∧
        (-320 ≤ temp.toInt → (u.hub f).life.getD (0x10 + min 31 ((temp.toInt + 320) / 80).toNat) 0 =
          (v.hub f).life.getD (0x10 + min 31 ((temp.toInt + 320) / 80).toNat) 0 + 1)) ∧
    (s.quartz < (s.hub f).sampleTick + 2 ^ 20 → exec (.lifeSample f temp mv) s = .next s)

/-! ### The whole machine (spec/01, spec/07, spec/12, spec/14, spec/23) -/

/-- R34, R35, R343, R345, R381: a trapping cause traps where TRAPV is valid and the instance is not of the trap block's tree: the trap
registers are written, the set is kept and the trap block's entry asked for; every other fault ends the frame with its one record;
at the return every kept set of the frame is COMPLETE again, the frame is ACTIVE, and no other frame changes. -/
def Obligations.FaultsTrapOrAbort : Prop :=
  ∀ (t : Nat) (x : OpSet) (i : FaultInfo) (s : State),
    let c := s.c t
    let fr := c.frame x.frame
    let traps := i.cause.trapping = true ∧ fr.trapv.getLsbD 20 = true ∧ ∀ y, c.inst? x.inst = some y → y.tt = false
    let u := s.takeFault t x i
    (traps → fr.st ≠ .trapped →
      u.frame t x.frame = { fr with st := .trapped, trapcause := BitVec.ofNat 64 i.cause.code, traptag := tagWord x.frame x.inst x.p x.pd, trapaddr := i.addr,
                                    trapslot := BitVec.ofNat 64 (i.lane * 2 ^ 16 + x.bun * 2 ^ 8 + i.slot) } ∧
      (u.c t).sets = c.sets ++ [{ x with kept := true, count := 0, promoted := false }] ∧ (u.c t).trapEntries = c.trapEntries ++ [x.frame]) ∧
    (traps → fr.st = .trapped → u.frame t x.frame = fr ∧ (u.c t).sets = c.sets ++ [{ x with kept := true, count := 0, promoted := false }] ∧ (u.c t).trapEntries = c.trapEntries) ∧
    (traps → ∀ f, f ≠ x.frame → u.frame t f = s.frame t f) ∧
    (¬ traps → fr.abortRec = none →
      u.frame t x.frame = { fr with st := .ending, park := .none, abortRec := some (recordWords s.tick i.cause.code 0 i.lane x.bun i.slot t x.frame
        fr.task.stage x.block fr.task.taskId (tagWord x.frame x.inst x.p x.pd) i.addr (w64 c.commitSeq) i) } ∧
      (∀ f, f ≠ x.frame → u.frame t f = s.frame t f) ∧ (∀ e ∈ (u.c t).insts, e.2.frame ≠ x.frame) ∧ (∀ y ∈ (u.c t).sets, y.frame ≠ x.frame)) ∧
    (¬ traps → fr.abortRec ≠ none → u = s) ∧
    ∀ f, ((c.trapReturn f).frame f).st = .active ∧
      (c.trapReturn f).sets = (c.sets.map fun y => if y.frame = f then { y with kept := false } else y) ∧
      ∀ g, g ≠ f → (c.trapReturn f).frame g = c.frame g

/-- R30, R312, R335 and the commit rules: a slot operation writes no general register, no byte of memory, no stash sector and no line of a home
when it is performed, in any form, nor where it faults: its stores and register writes are buffered until its block instance commits. -/
def Obligations.SlotOperationsWriteNoRegisterOrMemory : Prop :=
  ∀ (i : Instr) (s u : State), encode i ≠ none → exec i s = .next u →
    u.hbm = s.hbm ∧ u.hostMem = s.hostMem ∧ ∀ t,
      (u.c t).scratch = (s.c t).scratch ∧ (u.c t).stash = (s.c t).stash ∧ (u.n t).fshared = (s.n t).fshared ∧ (u.n t).lines = (s.n t).lines ∧
        ∀ f, (u.frame t f).regs = (s.frame t f).regs

/-- Every slot operation answers a next state, and so does every event whose units the module has; an event that names a unit which
it does not have ends in a fault (the model's choice: log entry 8). -/
def Obligations.OnlyMissingUnitsStop : Prop :=
  ∀ (i : Instr) (s : State),
    (missingUnit i = false → ∃ u, exec i s = .next u) ∧ (missingUnit i = true → exec i s = .fault .noSuchUnit) ∧
      (encode i ≠ none → missingUnit i = false)

/-- A memory reads what was written last, and stays canonical. -/
def Obligations.MemoryReadsWhatWasWritten : Prop :=
  ∀ (m : Memory) (a : Nat) (l : List Byte),
    (∀ b, (m.writeBytes a l).read b = if a ≤ b ∧ b < a + l.length then l.getD (b - a) 0 else m.read b) ∧
    (m.writeBytes a l).readBytes a l.length = l ∧
    (m.wf = true → (m.writeBytes a l).wf = true) ∧
    (∀ n : Memory, m.wf = true → n.wf = true → (∀ b, m.read b = n.read b) → m = n)

/-- Whatever a step does, HBM and host memory stay in canonical form. -/
def Obligations.MemoryStaysCanonical : Prop :=
  ∀ (s u : State), memOk s = true → step s = .next u → memOk u = true

/-- Whatever a step does, the scratchpads and field-shared memories stay in canonical form, and with them those that the slates hold: of
the state as of D, of an epoch under way, of a domain that lost its power, of parked frames. -/
def Obligations.TileMemoriesStayCanonical : Prop :=
  ∀ (s u : State), tilesOk s = true → step s = .next u → tilesOk u = true

/-- R8, R9 and the reset values of spec/14, spec/24 and spec/25, with those that log entries 1 and 2 choose (the model's choice): after reset no
time has passed, nothing runs or is on its way, every memory reads 0 and is canonical, and the platform has not started. -/
def Obligations.ResetState : Prop :=
  State.reset.quartz = 0 ∧ State.reset.iss.active = false ∧ State.reset.net = [] ∧ State.reset.sched = [] ∧ memOk State.reset = true ∧
    tilesOk State.reset = true ∧ State.reset.ctl.started = false ∧
    ∀ t f r a, State.reset.hbm.read a = 0 ∧ State.reset.hostMem.read a = 0 ∧ (State.reset.c t).scratch.read a = 0 ∧
      (State.reset.n t).fshared.read a = 0 ∧ ((State.reset.frame t f).regs.getD r 0) = 0 ∧
      (State.reset.frame t f).st = .free ∧ (State.reset.c t).lag = 22000 ∧ (State.reset.c t).branchstall = 16384

/-- The next step performs the next slot of the bundle being issued where it decodes, in the state that names the slot; with no bundle
being issued, the scheduled event that is next, once its ticks have passed; else one tick passes (the model's choice of what a step is: log
entry 3). -/
def Obligations.AStepRunsTheNextInstruction : Prop :=
  ∀ (s : State),
    (∀ k ks i, s.iss.active = true → s.iss.todo = k :: ks → decodeBundleSlot s.iss.bundle k = .ok i → s.iss.owes i = false →
      step s = exec i (s.modIss fun x => { x with slot := k, todo := ks })) ∧
    (∀ k ks i, s.iss.active = true → s.iss.todo = k :: ks → decodeBundleSlot s.iss.bundle k = .ok i → s.iss.owes i = true →
      step s = .next s.suspend) ∧
    (∀ k ks, s.iss.active = true → s.iss.todo = k :: ks → decodeBundleSlot s.iss.bundle k = .illOp →
      step s = .next (s.fault { cause := .illop, slot := k })) ∧
    (∀ k ks, s.iss.active = true → s.iss.todo = k :: ks → decodeBundleSlot s.iss.bundle k = .illSrc →
      step s = .next (s.fault { cause := .illsrc, slot := k })) ∧
    (s.iss.active = true → s.iss.todo = [] → step s = .next s.launch) ∧
    (∀ dt i rest, s.iss.active = false → s.sched = (dt, i) :: rest → step s = exec i (State.advance { s with sched := rest } dt)) ∧
    (s.iss.active = false → s.sched = [] → step s = .next (s.advance 1))

/-- Every well-formed slot operation has words, and they decode to it with every operand. -/
def Obligations.EncodeDecodeRoundTrip : Prop :=
  ∀ (i : Instr), i.wellFormed = true →
    ((∀ (k : SlotKind) (w : BitVec 60), encode i = some (k, w) → decodeSlot k w = .ok i) ∧ ((encode i).isSome = true ↔ isEvent i = false))

/-- R183 to R202: words written out bit by bit from the encodings of spec/07, spec/09 to spec/14 and spec/18 decode to the operations they
stand for, one of each map; an unassigned opcode, an invalid type code, a set unused field and a reserved source code are refused. -/
def Obligations.DecodeWords : Prop :=
  decodeSlot .s 0x011831A28900000#60 = .ok (.add .i32 (.p 0) (.lit 1) (.targets (some ⟨2, 1, .same⟩) none)) ∧
    decodeSlot .s 0x42017DC68562100#60 = .ok (.loop (.f 5) .sixteen (.lit 1) (.targets (some ⟨1, 1, .spawn⟩) (some ⟨1, 0, .same⟩))) ∧
    decodeSlot .v 0x0488210C4000000#60 = .ok (.vfma .f32 (.p 0) (.p 1) (.f 3) (.latch 1)) ∧
    decodeSlot .v 0x548968A29400000#60 = .ok (.vsum .f32 (.b 1) (.targets (some ⟨5, 0, .same⟩) none)) ∧
    decodeSlot .m 0x010C68A20000000#60 = .ok (.mcfg 0 (.lit 1)) ∧
    decodeSlot .ld 0x012128A28A30000#60 = .ok (.ld 2 (.f 4) .zero .zero (.target (some ⟨3, 0, .same⟩)) none) ∧
    decodeSlot .sa 0x10A1B8A28A05000#60 = .ok (.aadd 2 2 (.f 6) .one .zero (.target (some ⟨0, 1, .exit⟩)) none) ∧
    decodeSlot .cp 0x100B64A31540000#60 = .ok (.copy .privBase (.b 0) (.lit 1) .zero (.reg 10) none) ∧
    decodeSlot .sy 0x410128A20980000#60 = .ok (.csrw (.f 4) .zero 0x413) ∧
    decodeSlot .s 0x000A28A28000000#60 = .illOp ∧ decodeSlot .s 0x018831A28900000#60 = .illOp ∧
    decodeSlot .s 0x011831928900000#60 = .illOp ∧ decodeSlot .s 0x011BB1A28900000#60 = .illSrc
end

