-- ==== Sys2Proof/Laws/Encoding.lean ====
section
/-! SUPPORT. The parts of an encoding, each decoded after it is encoded: sources, tag-ops, types, targets, destinations, the fields of the
three slot formats, and the checks of the decoder on encoded fields. -/

namespace Sys2Proof

/-! ### Operands -/

@[simp] theorem decSrc_encSrc (x : Src) : decSrc (encSrc x) = some x := by
  cases x <;> (try rfl)
  all_goals (rename_i r; revert r; decide)

@[simp] theorem decTop_encTop (x : TagOp) : decTop (encTop x) = some x := by cases x <;> rfl

@[simp] theorem decTy_encTy (x : Ty) : decTy (encTy x) = x := by cases x <;> rfl

@[simp] theorem decShort_encShort (t : Option Target) : decShort (encShort t) = some t := by
  rcases t with _ | ⟨b, p, o⟩
  · rfl
  · cases o <;> (revert b p; decide)

/-! ### Fields of a word -/

theorem extract_append_lo {n m : Nat} (x : BitVec n) (y : BitVec m) (s k : Nat) (h : s + k ≤ m) :
    (x ++ y).extractLsb' s k = y.extractLsb' s k := BitVec.extractLsb'_append_eq_of_add_le h

theorem extract_append_hi {n m : Nat} (x : BitVec n) (y : BitVec m) (s k : Nat) (h : m ≤ s) :
    (x ++ y).extractLsb' s k = x.extractLsb' (s - m) k := BitVec.extractLsb'_append_eq_of_le h

theorem extract_append_left {n m : Nat} (x : BitVec n) (y : BitVec m) : (x ++ y).extractLsb' m n = x := by
  rw [extract_append_hi x y m n le_rfl, Nat.sub_self, BitVec.extractLsb'_eq_self]

theorem extract_append_right {n m : Nat} (x : BitVec n) (y : BitVec m) : (x ++ y).extractLsb' 0 m = y := by
  rw [extract_append_lo x y 0 m (by omega), BitVec.extractLsb'_eq_self]

@[simp] theorem decFull_encFull (t : Option Target) : decFull (encFull t) = some t := by
  rw [decFull, encFull, extract_append_right, extract_append_left, if_pos (by rfl), decShort_encShort]

/-- The generic format's fields are read as they were written (R183). -/
theorem rawG_encG (op : BitVec 8) (mod : BitVec 4) (sa sb sc : BitVec 6) (d : Dst) :
    rawG (encG op mod sa sb sc d) = ⟨op, mod, sa, sb, sc, encDk d, encDst d⟩ := by
  simp (disch := omega) only [rawG, encG, extract_append_lo, extract_append_hi, Nat.sub_self, BitVec.extractLsb'_eq_self]

/-- The four-source format's fields are read as they were written (R188). -/
theorem rawF_encF (op : BitVec 8) (mod : BitVec 4) (sa sb sc sd : BitVec 6) (v : VDst) (n : Option Target) :
    rawF (encF op mod sa sb sc sd v n) = ⟨op, mod, sa, sb, sc, sd, encVk v, encVal v, encShort n⟩ := by
  simp (disch := omega) only [rawF, encF, extract_append_lo, extract_append_hi, Nat.sub_self, BitVec.extractLsb'_eq_self]

/-- The system format's fields are read as they were written (R190). -/
theorem rawY_encY (op : BitVec 8) (mod : BitVec 4) (sa sb sc : BitVec 6) (x : BitVec 11) (y : YDst) :
    rawY (encY op mod sa sb sc x y) = ⟨op, mod, sa, sb, sc, x, 0, encYk y, encYd y⟩ := by
  simp (disch := omega) only [rawY, encY, RawY.mk.injEq, extract_append_lo, extract_append_hi, Nat.sub_self, BitVec.extractLsb'_eq_self, and_self]
  trivial

/-! ### Destinations -/

/-- Where the second target word of a destination names a latch, its encoding says so. -/
theorem encFull_ne_latch (t : Option Target) : (encFull t).extractLsb' 2 12 ≠ 1 := by
  intro h
  have h2 : ((encFull t).extractLsb' 2 12).getLsbD 0 = true := by rw [h]; rfl
  have h3 : (encFull t).getLsbD 2 = false := by rw [encFull, BitVec.getLsbD_append]; rfl
  rw [BitVec.getLsbD_extractLsb', Bool.and_eq_true] at h2
  exact absurd (h2.2.symm.trans h3) (by decide)

@[simp] theorem decDst_encDst (d : Dst) : decDst (encDk d) (encDst d) = some d := by
  cases d with
  | latch b => revert b; decide
  | reg r => revert r; decide
  | targets a b =>
    have h : decDst 2#2 (encFull a ++ encFull b) = some (.targets a b) := by
      simp only [decDst, extract_append_left, extract_append_right, decFull_encFull]
      rw [extract_append_lo _ _ _ _ (by omega), if_neg (encFull_ne_latch b)]
    exact h
  | targetLatch a b =>
    have h : decDst 2#2 (encFull a ++ (1#12 ++ b)) = some (.targetLatch a b) := by
      simp only [decDst, extract_append_left, decFull_encFull]
      rw [extract_append_lo _ _ _ _ (by omega), extract_append_left, if_pos (by rfl), extract_append_lo _ _ _ _ (by omega), extract_append_right]
    exact h

@[simp] theorem decVDst_encVal (d : VDst) : decVDst (encVk d) (encVal d) = some d := by
  cases d with
  | latch b => revert b; decide
  | reg r => revert r; decide
  | target t =>
    have h : decVDst 2#2 (encShort t) = some (.target t) := by simp only [decVDst, decShort_encShort]
    exact h
  | none => rfl

@[simp] theorem decYDst_encYd (d : YDst) : decYDst (encYk d) (encYd d) = some d := by
  cases d with
  | none => rfl
  | reg r => revert r; decide
  | target t =>
    have h : decYDst 2#2 (encFull t) = some (.target t) := by simp only [decYDst, decFull_encFull]
    exact h

/-! ### The decoder's checks on encoded fields -/

@[simp] theorem w32_eq (w : BitVec 2) : w32 w = (w != 3) := rfl
@[simp] theorem wAtom_eq (w : BitVec 2) : wAtom w = (w == 2 || w == 3) := rfl
@[simp] theorem wOnly32_eq (w : BitVec 2) : wOnly32 w = (w == 2) := rfl

@[simp] theorem wAny_true (w : BitVec 2) : wAny w = true := rfl
@[simp] theorem encVk_none : encVk .none = 3#2 := rfl
@[simp] theorem encVal_none : encVal .none = 0#11 := rfl
@[simp] theorem encShort_none : encShort none = 0#11 := rfl
@[simp] theorem encYk_none : encYk .none = 0#2 := rfl
@[simp] theorem encYd_none : encYd .none = 0#14 := rfl
@[simp] theorem encDk_noTargets : encDk (.targets none none) = 2#2 := rfl
@[simp] theorem encDst_noTargets : encDst (.targets none none) = 0#28 := rfl

@[simp] theorem need_true (k : Dec Instr) : need true k = k := rfl

@[simp] theorem withSrc_enc (x : Src) (k : Src → Dec Instr) : withSrc (encSrc x) k = k x := by simp [withSrc]

theorem withTy_enc (t : Ty) (ok : Ty → Bool) (k : Ty → Dec Instr) (h : ok t = true) : withTy (encTy t) ok k = k t := by
  simp [withTy, h]

theorem withDst_enc (d : Dst) (ok : Dst → Bool) (k : Dst → Dec Instr) (h : ok d = true) : withDst (encDk d) (encDst d) ok k = k d := by
  simp [withDst, h]

theorem withVDst_enc (d : VDst) (ok : VDst → Bool) (k : VDst → Dec Instr) (h : ok d = true) :
    withVDst (encVk d) (encVal d) ok k = k d := by simp [withVDst, h]

theorem withYDst_enc (d : YDst) (ok : YDst → Bool) (k : YDst → Dec Instr) (h : ok d = true) :
    withYDst (encYk d) (encYd d) ok k = k d := by simp [withYDst, h]

theorem withDone_enc (t : Option Target) (k : Option Target → Dec Instr) (h : doneOk t = true) : withDone (encShort t) k = k t := by
  simp [withDone, h]

@[simp] theorem withN_enc (n : BitVec 3) (k : BitVec 3 → Dec Instr) : withN (0#1 ++ n) k = k n := by
  have h : ∀ n : BitVec 3, ((0#1 ++ n).extractLsb' 3 1 == 0) = true ∧ (0#1 ++ n).extractLsb' 0 3 = n := by decide
  simp only [withN, (h n).1, (h n).2, need_true]

theorem withKind_enc (hi k : BitVec 2) (no3 : Bool) (f : BitVec 2 → Dec Instr) (h : (!no3 || k != 3) = true) :
    withKind (hi ++ k) hi no3 f = f k := by
  have e1 : (hi ++ k).extractLsb' 2 2 = hi := extract_append_left ..
  have e2 : (hi ++ k).extractLsb' 0 2 = k := extract_append_right ..
  have e3 : (!(no3 && k == 3)) = true := by cases no3 <;> simp_all
  simp only [withKind, e1, e2, e3, beq_self_eq_true, Bool.and_self, need_true]

@[simp] theorem withBit_enc (b : Bool) (k : Bool → Dec Instr) : withBit (0#3 ++ BitVec.ofBool b) k = k b := by cases b <;> rfl

theorem withWidth_enc (w : BitVec 2) (ok : BitVec 2 → Bool) (k : BitVec 2 → Dec Instr) (h : ok w = true) :
    withWidth (0#2 ++ w) ok k = k w := by
  have e1 : (0#2 ++ w).extractLsb' 2 2 = 0 := extract_append_left ..
  have e2 : (0#2 ++ w).extractLsb' 0 2 = w := extract_append_right ..
  simp only [withWidth, e1, e2, h, beq_self_eq_true, Bool.and_self, need_true]

theorem withScopeWidth_enc (sc w : BitVec 2) (ok : BitVec 2 → Bool) (k : BitVec 2 → BitVec 2 → Dec Instr) (h : ok w = true) :
    withScopeWidth (sc ++ w) ok k = k sc w := by
  have e1 : (sc ++ w).extractLsb' 2 2 = sc := extract_append_left ..
  have e2 : (sc ++ w).extractLsb' 0 2 = w := extract_append_right ..
  simp only [withScopeWidth, e1, e2, h, need_true]

theorem withScope_enc (sc lo : BitVec 2) (no3 : Bool) (k : BitVec 2 → Dec Instr) (h : (!no3 || sc != 3) = true) :
    withScope (sc ++ lo) lo no3 k = k sc := by
  have e1 : (sc ++ lo).extractLsb' 2 2 = sc := extract_append_left ..
  have e2 : (sc ++ lo).extractLsb' 0 2 = lo := extract_append_right ..
  have e3 : (!(no3 && sc == 3)) = true := by cases no3 <;> simp_all
  simp only [withScope, e1, e2, e3, beq_self_eq_true, Bool.and_self, need_true]

theorem withSig_enc (sig : Bool) (lo : BitVec 2) (noSig : Bool) (k : Bool → Dec Instr) (h : (!noSig || !sig) = true) :
    withSig (0#1 ++ (BitVec.ofBool sig ++ lo)) lo noSig k = k sig := by
  have e : ∀ (b : Bool) (lo : BitVec 2), (0#1 ++ (BitVec.ofBool b ++ lo)).extractLsb' 0 2 = lo ∧
      (0#1 ++ (BitVec.ofBool b ++ lo)).extractLsb' 3 1 = 0 ∧ ((0#1 ++ (BitVec.ofBool b ++ lo)).extractLsb' 2 1 == 1) = b := by decide
  have e3 : (!(noSig && sig)) = true := by cases noSig <;> simp_all
  simp only [withSig, (e sig lo).1, (e sig lo).2.1, (e sig lo).2.2, e3, beq_self_eq_true, Bool.and_self, need_true]

/-- The form bits of a modifier that holds a signal bit. -/
theorem sig_low (sig : Bool) (lo : BitVec 2) : (0#1 ++ (BitVec.ofBool sig ++ lo)).extractLsb' 0 2 = lo := by
  revert sig lo; decide

@[simp] theorem withX8_enc (x : BitVec 8) (k : BitVec 8 → Dec Instr) : withX8 (0#3 ++ x) k = k x := by
  have e1 : (0#3 ++ x).extractLsb' 8 3 = 0 := extract_append_left ..
  have e2 : (0#3 ++ x).extractLsb' 0 8 = x := extract_append_right ..
  simp only [withX8, e1, e2, beq_self_eq_true, need_true]

@[simp] theorem withX5_enc (x : BitVec 5) (k : BitVec 5 → Dec Instr) : withX5 (0#6 ++ x) k = k x := by
  have e1 : (0#6 ++ x).extractLsb' 5 6 = 0 := extract_append_left ..
  have e2 : (0#6 ++ x).extractLsb' 0 5 = x := extract_append_right ..
  simp only [withX5, e1, e2, beq_self_eq_true, need_true]

/-- The sources that VPACK leaves unused in its compacting forms (R261). -/
theorem packRaw_enc (t : Ty) (b c : Src) : packRaw t (encSrc b) (encSrc c) = packOk t b c := by
  have h : ∀ x : Src, (encSrc x == (0x28 : BitVec 6)) = (x == .zero) := by
    intro x
    cases x <;> (try rfl)
    all_goals (rename_i r; revert r; decide)
  simp only [packRaw, packOk, h]

end Sys2Proof
end

