-- ==== Sys2Proof/Laws/Memory.lean ====
section
/-! SUPPORT. Laws of sparse tables and of byte memory: reads after writes, the canonical form and its preservation. -/

namespace Sys2Proof.Machine

namespace AMap

variable {α : Type}

@[simp] theorem get?_nil (k : Nat) : get? ([] : AMap α) k = none := rfl

@[simp] theorem getD_nil (k : Nat) (d : α) : getD ([] : AMap α) k d = d := rfl

theorem get?_set (m : AMap α) (k j : Nat) (v : α) : (m.set k v).get? j = if j = k then some v else m.get? j := by
  induction m with
  | nil => simp [set, get?]
  | cons e m ih =>
    obtain ⟨i, w⟩ := e
    simp only [set]
    split
    · simp [get?]
    · split
      · subst_vars; simp only [get?]; split <;> rfl
      · simp only [get?]
        split
        · subst_vars; rw [if_neg (by omega)]
        · exact ih

@[simp] theorem get?_set_self (m : AMap α) (k : Nat) (v : α) : (m.set k v).get? k = some v := by simp [get?_set]

theorem get?_set_ne (m : AMap α) {k j : Nat} (v : α) (h : j ≠ k) : (m.set k v).get? j = m.get? j := by simp [get?_set, h]

theorem set_set (m : AMap α) (k : Nat) (v w : α) : (m.set k v).set k w = m.set k w := by
  induction m with
  | nil => simp [set]
  | cons e m ih =>
    simp only [set]
    split
    · simp [set]
    · split <;> simp_all [set]

@[simp] theorem getD_set_self (m : AMap α) (k : Nat) (v d : α) : (m.set k v).getD k d = v := by simp [getD]

theorem getD_set_ne (m : AMap α) {k j : Nat} (v d : α) (h : j ≠ k) : (m.set k v).getD j d = m.getD j d := by
  simp [getD, get?_set_ne m v h]

theorem getD_set (m : AMap α) (k j : Nat) (v d : α) : (m.set k v).getD j d = if j = k then v else m.getD j d := by
  simp only [getD, get?_set]; split <;> rfl

theorem get?_erase (m : AMap α) (k j : Nat) : (m.erase k).get? j = if j = k then none else m.get? j := by
  induction m with
  | nil => simp [erase]
  | cons e m ih =>
    obtain ⟨i, w⟩ := e
    simp only [erase, List.filter_cons, bne_iff_ne, ne_eq]
    split
    · rename_i h
      simp only [get?]
      split
      · subst_vars; rw [if_neg h]
      · exact ih
    · rename_i h
      simp only [not_not] at h
      subst h
      refine ih.trans ?_
      simp only [get?]
      split <;> rfl

theorem getD_erase (m : AMap α) (k j : Nat) (d : α) : (m.erase k).getD j d = if j = k then d else m.getD j d := by
  simp only [getD, get?_erase]; split <;> rfl

theorem get?_mapVal (m : AMap α) (f : α → α) (k : Nat) : (m.mapVal f).get? k = (m.get? k).map f := by
  induction m with
  | nil => rfl
  | cons e m ih =>
    obtain ⟨i, w⟩ := e
    simp only [mapVal, List.map_cons, get?]
    split
    · rfl
    · exact ih

/-- A change of every value that leaves the default as it is commutes with reading. -/
theorem getD_mapVal (m : AMap α) (f : α → α) (k : Nat) (d : α) (h : f d = d) : (m.mapVal f).getD k d = f (m.getD k d) := by
  simp only [getD, get?_mapVal]; cases m.get? k <;> simp [h]

/-- Every key of a rising table lies above a bound that lies below its first key. -/
theorem sorted_cons (j : Nat) (v : α) (m : AMap α) : sorted ((j, v) :: m) = true ↔ (∀ e ∈ m, j < e.1) ∧ sorted m = true := by
  induction m generalizing j v with
  | nil => simp [sorted]
  | cons e m ih =>
    obtain ⟨i, w⟩ := e
    simp only [sorted, Bool.and_eq_true, decide_eq_true_eq, List.mem_cons, forall_eq_or_imp]
    constructor
    · rintro ⟨h, hs⟩
      exact ⟨⟨h, fun e he => lt_trans h (((ih i w).1 hs).1 e he)⟩, hs⟩
    · rintro ⟨⟨h, -⟩, hs⟩
      exact ⟨h, hs⟩

theorem mem_set (m : AMap α) (k : Nat) (v : α) {e : Nat × α} (h : e ∈ m.set k v) : e = (k, v) ∨ e ∈ m := by
  induction m with
  | nil => simpa [set] using h
  | cons e' m ih =>
    obtain ⟨i, w⟩ := e'
    simp only [set] at h
    split at h
    · simpa [or_assoc] using h
    · split at h
      · simp only [List.mem_cons] at h ⊢; tauto
      · simp only [List.mem_cons] at h ⊢
        rcases h with h | h
        · exact .inr (.inl h)
        · exact (ih h).imp id .inr

theorem sorted_set (m : AMap α) (k : Nat) (v : α) (h : sorted m = true) : sorted (m.set k v) = true := by
  induction m with
  | nil => rfl
  | cons e m ih =>
    obtain ⟨i, w⟩ := e
    have h' := (sorted_cons i w m).1 h
    simp only [set]
    split
    · rename_i hk
      rw [sorted_cons]
      refine ⟨?_, h⟩
      intro e he
      rcases List.mem_cons.1 he with rfl | he
      · exact hk
      · exact lt_trans hk (h'.1 e he)
    · split
      · subst_vars; rw [sorted_cons]; exact h'
      · rw [sorted_cons]
        refine ⟨?_, ih h'.2⟩
        intro e he
        rcases mem_set m k v he with rfl | he
        · omega
        · exact h'.1 e he

theorem sorted_filter (m : AMap α) (p : Nat × α → Bool) (h : sorted m = true) : sorted (m.filter p) = true := by
  induction m with
  | nil => rfl
  | cons e m ih =>
    obtain ⟨i, w⟩ := e
    have h' := (sorted_cons i w m).1 h
    simp only [List.filter_cons]
    split
    · rw [sorted_cons]
      exact ⟨fun e he => h'.1 e (List.mem_of_mem_filter he), ih h'.2⟩
    · exact ih h'.2

theorem get?_none_of_lt (m : AMap α) (j : Nat) (h : ∀ e ∈ m, j < e.1) : get? m j = none := by
  induction m with
  | nil => rfl
  | cons e m ih =>
    obtain ⟨i, w⟩ := e
    have := h (i, w) (by simp)
    simp only [get?]
    rw [if_neg (by simp only at this; omega)]
    exact ih fun e he => h e (by simp [he])

end AMap

namespace Memory

@[simp] theorem read_nil (a : Nat) : read [] a = 0 := rfl

/-- A byte reads as it was written last. -/
theorem read_write (m : Memory) (a c : Nat) (b : Byte) : (m.write a b).read c = if c = a then b else m.read c := by
  simp only [read, write]
  split
  · subst_vars; simp only [AMap.getD_erase]
  · simp only [AMap.getD_set]

theorem read_writeBytes (m : Memory) (a c : Nat) (l : List Byte) :
    (m.writeBytes a l).read c = if a ≤ c ∧ c < a + l.length then l.getD (c - a) 0 else m.read c := by
  induction l generalizing m a with
  | nil => simp [writeBytes]
  | cons b l ih =>
    simp only [writeBytes, ih, read_write, List.length_cons]
    by_cases h1 : c = a
    · subst h1; simp
    · by_cases h2 : a + 1 ≤ c ∧ c < a + 1 + l.length
      · rw [if_pos h2, if_pos (by omega)]
        obtain ⟨n, rfl⟩ : ∃ n, c = a + 1 + n := ⟨c - (a + 1), by omega⟩
        rw [show a + 1 + n - (a + 1) = n by omega, show a + 1 + n - a = n + 1 by omega]
        simp
      · rw [if_neg h2, if_neg h1, if_neg (by omega)]

/-- Bytes outside the stored ones read as before. -/
theorem read_writeBytes_outside (m : Memory) (a c : Nat) (l : List Byte) (h : c < a ∨ a + l.length ≤ c) :
    (m.writeBytes a l).read c = m.read c := by
  rw [read_writeBytes, if_neg (by omega)]

theorem readBytes_eq (m : Memory) (a n : Nat) : m.readBytes a n = (List.range n).map fun k => m.read (a + k) := by
  induction n generalizing a with
  | zero => rfl
  | succ n ih =>
    rw [readBytes, ih, List.range_succ_eq_map, List.map_cons, List.map_map]
    congr 1
    apply List.map_congr_left
    intro k _
    simp only [Function.comp]
    congr 1
    omega

@[simp] theorem readBytes_length (m : Memory) (a n : Nat) : (m.readBytes a n).length = n := by simp [readBytes_eq]

/-- The bytes written are the bytes read. -/
theorem readBytes_writeBytes (m : Memory) (a : Nat) (l : List Byte) : (m.writeBytes a l).readBytes a l.length = l := by
  apply List.ext_getElem
  · simp
  · intro k h1 h2
    simp [readBytes_eq, read_writeBytes, h2]

/-- A write keeps the canonical form. -/
theorem wf_write (m : Memory) (a : Nat) (b : Byte) (h : m.wf = true) : (m.write a b).wf = true := by
  simp only [wf, Bool.and_eq_true, List.all_eq_true, bne_iff_ne] at h ⊢
  simp only [write]
  split
  · exact ⟨AMap.sorted_filter m _ h.1, fun e he => h.2 e (List.mem_of_mem_filter he)⟩
  · rename_i hb
    refine ⟨AMap.sorted_set m a b h.1, fun e he => ?_⟩
    rcases AMap.mem_set m a b he with rfl | he
    · exact hb
    · exact h.2 e he

/-- Writing any bytes keeps the canonical form. -/
theorem wf_writeBytes (m : Memory) (a : Nat) (l : List Byte) (h : m.wf = true) : (m.writeBytes a l).wf = true := by
  induction l generalizing m a with
  | nil => exact h
  | cons b l ih => exact ih _ _ (wf_write m a b h)

/-- Dropping entries keeps the canonical form. -/
theorem wf_filter (m : Memory) (p : Host.Cell → Bool) (h : m.wf = true) : Memory.wf (m.filter p) = true := by
  simp only [wf, Bool.and_eq_true, List.all_eq_true] at h ⊢
  exact ⟨AMap.sorted_filter m p h.1, fun e he => h.2 e (List.mem_of_mem_filter he)⟩

theorem wf_nil : Memory.wf [] = true := rfl

theorem wf_cons (j : Nat) (b : Byte) (m : Memory) :
    Memory.wf ((j, b) :: m) = true ↔ b ≠ 0 ∧ (∀ e ∈ m, j < e.1) ∧ Memory.wf m = true := by
  simp only [wf, Bool.and_eq_true, AMap.sorted_cons, List.all_cons, bne_iff_ne]
  tauto

/-- Canonical memories that read alike are equal. -/
theorem ext_of_wf (m n : Memory) (hm : m.wf = true) (hn : n.wf = true) (h : ∀ a, m.read a = n.read a) : m = n := by
  induction m generalizing n with
  | nil =>
    cases n with
    | nil => rfl
    | cons e n =>
      obtain ⟨j, b⟩ := e
      have := h j
      simp only [read, AMap.getD, AMap.get?, if_true, Option.getD_none, Option.getD_some] at this
      exact absurd this.symm ((wf_cons j b n).1 hn).1
  | cons e m ih =>
    obtain ⟨i, c⟩ := e
    obtain ⟨hc, hlt, hw⟩ := (wf_cons i c m).1 hm
    cases n with
    | nil =>
      have := h i
      simp only [read, AMap.getD, AMap.get?, if_true, Option.getD_none, Option.getD_some] at this
      exact absurd this hc
    | cons e n =>
      obtain ⟨j, b⟩ := e
      obtain ⟨hb, hlt', hw'⟩ := (wf_cons j b n).1 hn
      have hij : i = j := by
        rcases Nat.lt_trichotomy i j with hlt2 | hij | hlt2
        · have := h i
          rw [read, read, AMap.getD, AMap.getD, AMap.get?_none_of_lt ((j, b) :: n) i
            (by intro e he; rcases List.mem_cons.1 he with rfl | he; exact hlt2; exact lt_trans hlt2 (hlt' e he))] at this
          simp only [AMap.get?, if_true, Option.getD_none, Option.getD_some] at this
          exact absurd this hc
        · exact hij
        · have := h j
          rw [read, read, AMap.getD, AMap.getD, AMap.get?_none_of_lt ((i, c) :: m) j
            (by intro e he; rcases List.mem_cons.1 he with rfl | he; exact hlt2; exact lt_trans hlt2 (hlt e he))] at this
          simp only [AMap.get?, if_true, Option.getD_none, Option.getD_some] at this
          exact absurd this.symm hb
      subst hij
      have hcb : c = b := by
        have := h i
        simpa [read, AMap.getD, AMap.get?] using this
      subst hcb
      congr 1
      refine ih n hw hw' fun a => ?_
      by_cases ha : a = i
      · subst ha
        rw [read, read, AMap.getD, AMap.getD, AMap.get?_none_of_lt m a hlt, AMap.get?_none_of_lt n a hlt']
      · have := h a
        simpa [read, AMap.getD, AMap.get?, ha] using this

end Memory

end Sys2Proof.Machine
end

