-- ==== Sys2Proof/Laws/State.lean ====
section
/-! SUPPORT. What each update of the state leaves and gives, field by field; reading a tile, a domain, a frame or a unit after an update. -/

namespace Sys2Proof.Machine

/-! ### Fields that an update leaves -/

@[simp] theorem State.modIss_quartz (s : State) (f : Issue → Issue) : (s.modIss f).quartz = s.quartz := rfl
@[simp] theorem State.modIss_hbm (s : State) (f : Issue → Issue) : (s.modIss f).hbm = s.hbm := rfl
@[simp] theorem State.modIss_hostMem (s : State) (f : Issue → Issue) : (s.modIss f).hostMem = s.hostMem := rfl
@[simp] theorem State.modIss_msix (s : State) (f : Issue → Issue) : (s.modIss f).msix = s.msix := rfl
@[simp] theorem State.modIss_net (s : State) (f : Issue → Issue) : (s.modIss f).net = s.net := rfl
@[simp] theorem State.modIss_sched (s : State) (f : Issue → Issue) : (s.modIss f).sched = s.sched := rfl
@[simp] theorem State.modIss_freeCtr (s : State) (f : Issue → Issue) : (s.modIss f).freeCtr = s.freeCtr := rfl
@[simp] theorem State.modIss_tiles (s : State) (f : Issue → Issue) : (s.modIss f).tiles = s.tiles := rfl
@[simp] theorem State.modIss_hubs (s : State) (f : Issue → Issue) : (s.modIss f).hubs = s.hubs := rfl
@[simp] theorem State.modIss_rims (s : State) (f : Issue → Issue) : (s.modIss f).rims = s.rims := rfl
@[simp] theorem State.modIss_parts (s : State) (f : Issue → Issue) : (s.modIss f).parts = s.parts := rfl
@[simp] theorem State.modIss_vfs (s : State) (f : Issue → Issue) : (s.modIss f).vfs = s.vfs := rfl
@[simp] theorem State.modIss_pf (s : State) (f : Issue → Issue) : (s.modIss f).pf = s.pf := rfl
@[simp] theorem State.modIss_ctl (s : State) (f : Issue → Issue) : (s.modIss f).ctl = s.ctl := rfl
@[simp] theorem State.modIss_spans (s : State) (f : Issue → Issue) : (s.modIss f).spans = s.spans := rfl

@[simp] theorem State.setTile_quartz (s : State) (t : Nat) (x : Tile) : (s.setTile t x).quartz = s.quartz := rfl
@[simp] theorem State.setTile_hbm (s : State) (t : Nat) (x : Tile) : (s.setTile t x).hbm = s.hbm := rfl
@[simp] theorem State.setTile_hostMem (s : State) (t : Nat) (x : Tile) : (s.setTile t x).hostMem = s.hostMem := rfl
@[simp] theorem State.setTile_msix (s : State) (t : Nat) (x : Tile) : (s.setTile t x).msix = s.msix := rfl
@[simp] theorem State.setTile_net (s : State) (t : Nat) (x : Tile) : (s.setTile t x).net = s.net := rfl
@[simp] theorem State.setTile_iss (s : State) (t : Nat) (x : Tile) : (s.setTile t x).iss = s.iss := rfl
@[simp] theorem State.setTile_sched (s : State) (t : Nat) (x : Tile) : (s.setTile t x).sched = s.sched := rfl
@[simp] theorem State.setTile_freeCtr (s : State) (t : Nat) (x : Tile) : (s.setTile t x).freeCtr = s.freeCtr := rfl
@[simp] theorem State.setTile_hubs (s : State) (t : Nat) (x : Tile) : (s.setTile t x).hubs = s.hubs := rfl
@[simp] theorem State.setTile_rims (s : State) (t : Nat) (x : Tile) : (s.setTile t x).rims = s.rims := rfl
@[simp] theorem State.setTile_parts (s : State) (t : Nat) (x : Tile) : (s.setTile t x).parts = s.parts := rfl
@[simp] theorem State.setTile_vfs (s : State) (t : Nat) (x : Tile) : (s.setTile t x).vfs = s.vfs := rfl
@[simp] theorem State.setTile_pf (s : State) (t : Nat) (x : Tile) : (s.setTile t x).pf = s.pf := rfl
@[simp] theorem State.setTile_ctl (s : State) (t : Nat) (x : Tile) : (s.setTile t x).ctl = s.ctl := rfl
@[simp] theorem State.setTile_spans (s : State) (t : Nat) (x : Tile) : (s.setTile t x).spans = s.spans := rfl

@[simp] theorem State.setC_quartz (s : State) (t : Nat) (x : CDom) : (s.setC t x).quartz = s.quartz := rfl
@[simp] theorem State.setC_hbm (s : State) (t : Nat) (x : CDom) : (s.setC t x).hbm = s.hbm := rfl
@[simp] theorem State.setC_hostMem (s : State) (t : Nat) (x : CDom) : (s.setC t x).hostMem = s.hostMem := rfl
@[simp] theorem State.setC_msix (s : State) (t : Nat) (x : CDom) : (s.setC t x).msix = s.msix := rfl
@[simp] theorem State.setC_net (s : State) (t : Nat) (x : CDom) : (s.setC t x).net = s.net := rfl
@[simp] theorem State.setC_iss (s : State) (t : Nat) (x : CDom) : (s.setC t x).iss = s.iss := rfl
@[simp] theorem State.setC_sched (s : State) (t : Nat) (x : CDom) : (s.setC t x).sched = s.sched := rfl
@[simp] theorem State.setC_freeCtr (s : State) (t : Nat) (x : CDom) : (s.setC t x).freeCtr = s.freeCtr := rfl
@[simp] theorem State.setC_hubs (s : State) (t : Nat) (x : CDom) : (s.setC t x).hubs = s.hubs := rfl
@[simp] theorem State.setC_rims (s : State) (t : Nat) (x : CDom) : (s.setC t x).rims = s.rims := rfl
@[simp] theorem State.setC_parts (s : State) (t : Nat) (x : CDom) : (s.setC t x).parts = s.parts := rfl
@[simp] theorem State.setC_vfs (s : State) (t : Nat) (x : CDom) : (s.setC t x).vfs = s.vfs := rfl
@[simp] theorem State.setC_pf (s : State) (t : Nat) (x : CDom) : (s.setC t x).pf = s.pf := rfl
@[simp] theorem State.setC_ctl (s : State) (t : Nat) (x : CDom) : (s.setC t x).ctl = s.ctl := rfl
@[simp] theorem State.setC_spans (s : State) (t : Nat) (x : CDom) : (s.setC t x).spans = s.spans := rfl

@[simp] theorem State.setN_quartz (s : State) (t : Nat) (x : NDom) : (s.setN t x).quartz = s.quartz := rfl
@[simp] theorem State.setN_hbm (s : State) (t : Nat) (x : NDom) : (s.setN t x).hbm = s.hbm := rfl
@[simp] theorem State.setN_hostMem (s : State) (t : Nat) (x : NDom) : (s.setN t x).hostMem = s.hostMem := rfl
@[simp] theorem State.setN_msix (s : State) (t : Nat) (x : NDom) : (s.setN t x).msix = s.msix := rfl
@[simp] theorem State.setN_net (s : State) (t : Nat) (x : NDom) : (s.setN t x).net = s.net := rfl
@[simp] theorem State.setN_iss (s : State) (t : Nat) (x : NDom) : (s.setN t x).iss = s.iss := rfl
@[simp] theorem State.setN_sched (s : State) (t : Nat) (x : NDom) : (s.setN t x).sched = s.sched := rfl
@[simp] theorem State.setN_freeCtr (s : State) (t : Nat) (x : NDom) : (s.setN t x).freeCtr = s.freeCtr := rfl
@[simp] theorem State.setN_hubs (s : State) (t : Nat) (x : NDom) : (s.setN t x).hubs = s.hubs := rfl
@[simp] theorem State.setN_rims (s : State) (t : Nat) (x : NDom) : (s.setN t x).rims = s.rims := rfl
@[simp] theorem State.setN_parts (s : State) (t : Nat) (x : NDom) : (s.setN t x).parts = s.parts := rfl
@[simp] theorem State.setN_vfs (s : State) (t : Nat) (x : NDom) : (s.setN t x).vfs = s.vfs := rfl
@[simp] theorem State.setN_pf (s : State) (t : Nat) (x : NDom) : (s.setN t x).pf = s.pf := rfl
@[simp] theorem State.setN_ctl (s : State) (t : Nat) (x : NDom) : (s.setN t x).ctl = s.ctl := rfl
@[simp] theorem State.setN_spans (s : State) (t : Nat) (x : NDom) : (s.setN t x).spans = s.spans := rfl

@[simp] theorem State.modC_quartz (s : State) (t : Nat) (f : CDom → CDom) : (s.modC t f).quartz = s.quartz := rfl
@[simp] theorem State.modC_hbm (s : State) (t : Nat) (f : CDom → CDom) : (s.modC t f).hbm = s.hbm := rfl
@[simp] theorem State.modC_hostMem (s : State) (t : Nat) (f : CDom → CDom) : (s.modC t f).hostMem = s.hostMem := rfl
@[simp] theorem State.modC_msix (s : State) (t : Nat) (f : CDom → CDom) : (s.modC t f).msix = s.msix := rfl
@[simp] theorem State.modC_net (s : State) (t : Nat) (f : CDom → CDom) : (s.modC t f).net = s.net := rfl
@[simp] theorem State.modC_iss (s : State) (t : Nat) (f : CDom → CDom) : (s.modC t f).iss = s.iss := rfl
@[simp] theorem State.modC_sched (s : State) (t : Nat) (f : CDom → CDom) : (s.modC t f).sched = s.sched := rfl
@[simp] theorem State.modC_freeCtr (s : State) (t : Nat) (f : CDom → CDom) : (s.modC t f).freeCtr = s.freeCtr := rfl
@[simp] theorem State.modC_hubs (s : State) (t : Nat) (f : CDom → CDom) : (s.modC t f).hubs = s.hubs := rfl
@[simp] theorem State.modC_rims (s : State) (t : Nat) (f : CDom → CDom) : (s.modC t f).rims = s.rims := rfl
@[simp] theorem State.modC_parts (s : State) (t : Nat) (f : CDom → CDom) : (s.modC t f).parts = s.parts := rfl
@[simp] theorem State.modC_vfs (s : State) (t : Nat) (f : CDom → CDom) : (s.modC t f).vfs = s.vfs := rfl
@[simp] theorem State.modC_pf (s : State) (t : Nat) (f : CDom → CDom) : (s.modC t f).pf = s.pf := rfl
@[simp] theorem State.modC_ctl (s : State) (t : Nat) (f : CDom → CDom) : (s.modC t f).ctl = s.ctl := rfl
@[simp] theorem State.modC_spans (s : State) (t : Nat) (f : CDom → CDom) : (s.modC t f).spans = s.spans := rfl

@[simp] theorem State.modN_quartz (s : State) (t : Nat) (f : NDom → NDom) : (s.modN t f).quartz = s.quartz := rfl
@[simp] theorem State.modN_hbm (s : State) (t : Nat) (f : NDom → NDom) : (s.modN t f).hbm = s.hbm := rfl
@[simp] theorem State.modN_hostMem (s : State) (t : Nat) (f : NDom → NDom) : (s.modN t f).hostMem = s.hostMem := rfl
@[simp] theorem State.modN_msix (s : State) (t : Nat) (f : NDom → NDom) : (s.modN t f).msix = s.msix := rfl
@[simp] theorem State.modN_net (s : State) (t : Nat) (f : NDom → NDom) : (s.modN t f).net = s.net := rfl
@[simp] theorem State.modN_iss (s : State) (t : Nat) (f : NDom → NDom) : (s.modN t f).iss = s.iss := rfl
@[simp] theorem State.modN_sched (s : State) (t : Nat) (f : NDom → NDom) : (s.modN t f).sched = s.sched := rfl
@[simp] theorem State.modN_freeCtr (s : State) (t : Nat) (f : NDom → NDom) : (s.modN t f).freeCtr = s.freeCtr := rfl
@[simp] theorem State.modN_hubs (s : State) (t : Nat) (f : NDom → NDom) : (s.modN t f).hubs = s.hubs := rfl
@[simp] theorem State.modN_rims (s : State) (t : Nat) (f : NDom → NDom) : (s.modN t f).rims = s.rims := rfl
@[simp] theorem State.modN_parts (s : State) (t : Nat) (f : NDom → NDom) : (s.modN t f).parts = s.parts := rfl
@[simp] theorem State.modN_vfs (s : State) (t : Nat) (f : NDom → NDom) : (s.modN t f).vfs = s.vfs := rfl
@[simp] theorem State.modN_pf (s : State) (t : Nat) (f : NDom → NDom) : (s.modN t f).pf = s.pf := rfl
@[simp] theorem State.modN_ctl (s : State) (t : Nat) (f : NDom → NDom) : (s.modN t f).ctl = s.ctl := rfl
@[simp] theorem State.modN_spans (s : State) (t : Nat) (f : NDom → NDom) : (s.modN t f).spans = s.spans := rfl

@[simp] theorem State.setSlate_quartz (s : State) (t : Nat) (x : Slate) : (s.setSlate t x).quartz = s.quartz := rfl
@[simp] theorem State.setSlate_hbm (s : State) (t : Nat) (x : Slate) : (s.setSlate t x).hbm = s.hbm := rfl
@[simp] theorem State.setSlate_hostMem (s : State) (t : Nat) (x : Slate) : (s.setSlate t x).hostMem = s.hostMem := rfl
@[simp] theorem State.setSlate_msix (s : State) (t : Nat) (x : Slate) : (s.setSlate t x).msix = s.msix := rfl
@[simp] theorem State.setSlate_net (s : State) (t : Nat) (x : Slate) : (s.setSlate t x).net = s.net := rfl
@[simp] theorem State.setSlate_iss (s : State) (t : Nat) (x : Slate) : (s.setSlate t x).iss = s.iss := rfl
@[simp] theorem State.setSlate_sched (s : State) (t : Nat) (x : Slate) : (s.setSlate t x).sched = s.sched := rfl
@[simp] theorem State.setSlate_freeCtr (s : State) (t : Nat) (x : Slate) : (s.setSlate t x).freeCtr = s.freeCtr := rfl
@[simp] theorem State.setSlate_hubs (s : State) (t : Nat) (x : Slate) : (s.setSlate t x).hubs = s.hubs := rfl
@[simp] theorem State.setSlate_rims (s : State) (t : Nat) (x : Slate) : (s.setSlate t x).rims = s.rims := rfl
@[simp] theorem State.setSlate_parts (s : State) (t : Nat) (x : Slate) : (s.setSlate t x).parts = s.parts := rfl
@[simp] theorem State.setSlate_vfs (s : State) (t : Nat) (x : Slate) : (s.setSlate t x).vfs = s.vfs := rfl
@[simp] theorem State.setSlate_pf (s : State) (t : Nat) (x : Slate) : (s.setSlate t x).pf = s.pf := rfl
@[simp] theorem State.setSlate_ctl (s : State) (t : Nat) (x : Slate) : (s.setSlate t x).ctl = s.ctl := rfl
@[simp] theorem State.setSlate_spans (s : State) (t : Nat) (x : Slate) : (s.setSlate t x).spans = s.spans := rfl

@[simp] theorem State.modSlate_quartz (s : State) (t : Nat) (f : Slate → Slate) : (s.modSlate t f).quartz = s.quartz := rfl
@[simp] theorem State.modSlate_hbm (s : State) (t : Nat) (f : Slate → Slate) : (s.modSlate t f).hbm = s.hbm := rfl
@[simp] theorem State.modSlate_hostMem (s : State) (t : Nat) (f : Slate → Slate) : (s.modSlate t f).hostMem = s.hostMem := rfl
@[simp] theorem State.modSlate_msix (s : State) (t : Nat) (f : Slate → Slate) : (s.modSlate t f).msix = s.msix := rfl
@[simp] theorem State.modSlate_net (s : State) (t : Nat) (f : Slate → Slate) : (s.modSlate t f).net = s.net := rfl
@[simp] theorem State.modSlate_iss (s : State) (t : Nat) (f : Slate → Slate) : (s.modSlate t f).iss = s.iss := rfl
@[simp] theorem State.modSlate_sched (s : State) (t : Nat) (f : Slate → Slate) : (s.modSlate t f).sched = s.sched := rfl
@[simp] theorem State.modSlate_freeCtr (s : State) (t : Nat) (f : Slate → Slate) : (s.modSlate t f).freeCtr = s.freeCtr := rfl
@[simp] theorem State.modSlate_hubs (s : State) (t : Nat) (f : Slate → Slate) : (s.modSlate t f).hubs = s.hubs := rfl
@[simp] theorem State.modSlate_rims (s : State) (t : Nat) (f : Slate → Slate) : (s.modSlate t f).rims = s.rims := rfl
@[simp] theorem State.modSlate_parts (s : State) (t : Nat) (f : Slate → Slate) : (s.modSlate t f).parts = s.parts := rfl
@[simp] theorem State.modSlate_vfs (s : State) (t : Nat) (f : Slate → Slate) : (s.modSlate t f).vfs = s.vfs := rfl
@[simp] theorem State.modSlate_pf (s : State) (t : Nat) (f : Slate → Slate) : (s.modSlate t f).pf = s.pf := rfl
@[simp] theorem State.modSlate_ctl (s : State) (t : Nat) (f : Slate → Slate) : (s.modSlate t f).ctl = s.ctl := rfl
@[simp] theorem State.modSlate_spans (s : State) (t : Nat) (f : Slate → Slate) : (s.modSlate t f).spans = s.spans := rfl

@[simp] theorem State.modFrame_quartz (s : State) (t f : Nat) (g : Frame → Frame) : (s.modFrame t f g).quartz = s.quartz := rfl
@[simp] theorem State.modFrame_hbm (s : State) (t f : Nat) (g : Frame → Frame) : (s.modFrame t f g).hbm = s.hbm := rfl
@[simp] theorem State.modFrame_hostMem (s : State) (t f : Nat) (g : Frame → Frame) : (s.modFrame t f g).hostMem = s.hostMem := rfl
@[simp] theorem State.modFrame_msix (s : State) (t f : Nat) (g : Frame → Frame) : (s.modFrame t f g).msix = s.msix := rfl
@[simp] theorem State.modFrame_net (s : State) (t f : Nat) (g : Frame → Frame) : (s.modFrame t f g).net = s.net := rfl
@[simp] theorem State.modFrame_iss (s : State) (t f : Nat) (g : Frame → Frame) : (s.modFrame t f g).iss = s.iss := rfl
@[simp] theorem State.modFrame_sched (s : State) (t f : Nat) (g : Frame → Frame) : (s.modFrame t f g).sched = s.sched := rfl
@[simp] theorem State.modFrame_freeCtr (s : State) (t f : Nat) (g : Frame → Frame) : (s.modFrame t f g).freeCtr = s.freeCtr := rfl
@[simp] theorem State.modFrame_hubs (s : State) (t f : Nat) (g : Frame → Frame) : (s.modFrame t f g).hubs = s.hubs := rfl
@[simp] theorem State.modFrame_rims (s : State) (t f : Nat) (g : Frame → Frame) : (s.modFrame t f g).rims = s.rims := rfl
@[simp] theorem State.modFrame_parts (s : State) (t f : Nat) (g : Frame → Frame) : (s.modFrame t f g).parts = s.parts := rfl
@[simp] theorem State.modFrame_vfs (s : State) (t f : Nat) (g : Frame → Frame) : (s.modFrame t f g).vfs = s.vfs := rfl
@[simp] theorem State.modFrame_pf (s : State) (t f : Nat) (g : Frame → Frame) : (s.modFrame t f g).pf = s.pf := rfl
@[simp] theorem State.modFrame_ctl (s : State) (t f : Nat) (g : Frame → Frame) : (s.modFrame t f g).ctl = s.ctl := rfl
@[simp] theorem State.modFrame_spans (s : State) (t f : Nat) (g : Frame → Frame) : (s.modFrame t f g).spans = s.spans := rfl

@[simp] theorem State.modHub_quartz (s : State) (f : Nat) (g : Hub → Hub) : (s.modHub f g).quartz = s.quartz := rfl
@[simp] theorem State.modHub_hbm (s : State) (f : Nat) (g : Hub → Hub) : (s.modHub f g).hbm = s.hbm := rfl
@[simp] theorem State.modHub_hostMem (s : State) (f : Nat) (g : Hub → Hub) : (s.modHub f g).hostMem = s.hostMem := rfl
@[simp] theorem State.modHub_msix (s : State) (f : Nat) (g : Hub → Hub) : (s.modHub f g).msix = s.msix := rfl
@[simp] theorem State.modHub_net (s : State) (f : Nat) (g : Hub → Hub) : (s.modHub f g).net = s.net := rfl
@[simp] theorem State.modHub_iss (s : State) (f : Nat) (g : Hub → Hub) : (s.modHub f g).iss = s.iss := rfl
@[simp] theorem State.modHub_sched (s : State) (f : Nat) (g : Hub → Hub) : (s.modHub f g).sched = s.sched := rfl
@[simp] theorem State.modHub_freeCtr (s : State) (f : Nat) (g : Hub → Hub) : (s.modHub f g).freeCtr = s.freeCtr := rfl
@[simp] theorem State.modHub_tiles (s : State) (f : Nat) (g : Hub → Hub) : (s.modHub f g).tiles = s.tiles := rfl
@[simp] theorem State.modHub_rims (s : State) (f : Nat) (g : Hub → Hub) : (s.modHub f g).rims = s.rims := rfl
@[simp] theorem State.modHub_parts (s : State) (f : Nat) (g : Hub → Hub) : (s.modHub f g).parts = s.parts := rfl
@[simp] theorem State.modHub_vfs (s : State) (f : Nat) (g : Hub → Hub) : (s.modHub f g).vfs = s.vfs := rfl
@[simp] theorem State.modHub_pf (s : State) (f : Nat) (g : Hub → Hub) : (s.modHub f g).pf = s.pf := rfl
@[simp] theorem State.modHub_ctl (s : State) (f : Nat) (g : Hub → Hub) : (s.modHub f g).ctl = s.ctl := rfl
@[simp] theorem State.modHub_spans (s : State) (f : Nat) (g : Hub → Hub) : (s.modHub f g).spans = s.spans := rfl

@[simp] theorem State.modRim_quartz (s : State) (a : Nat) (g : Rim → Rim) : (s.modRim a g).quartz = s.quartz := rfl
@[simp] theorem State.modRim_hbm (s : State) (a : Nat) (g : Rim → Rim) : (s.modRim a g).hbm = s.hbm := rfl
@[simp] theorem State.modRim_hostMem (s : State) (a : Nat) (g : Rim → Rim) : (s.modRim a g).hostMem = s.hostMem := rfl
@[simp] theorem State.modRim_msix (s : State) (a : Nat) (g : Rim → Rim) : (s.modRim a g).msix = s.msix := rfl
@[simp] theorem State.modRim_net (s : State) (a : Nat) (g : Rim → Rim) : (s.modRim a g).net = s.net := rfl
@[simp] theorem State.modRim_iss (s : State) (a : Nat) (g : Rim → Rim) : (s.modRim a g).iss = s.iss := rfl
@[simp] theorem State.modRim_sched (s : State) (a : Nat) (g : Rim → Rim) : (s.modRim a g).sched = s.sched := rfl
@[simp] theorem State.modRim_freeCtr (s : State) (a : Nat) (g : Rim → Rim) : (s.modRim a g).freeCtr = s.freeCtr := rfl
@[simp] theorem State.modRim_tiles (s : State) (a : Nat) (g : Rim → Rim) : (s.modRim a g).tiles = s.tiles := rfl
@[simp] theorem State.modRim_hubs (s : State) (a : Nat) (g : Rim → Rim) : (s.modRim a g).hubs = s.hubs := rfl
@[simp] theorem State.modRim_parts (s : State) (a : Nat) (g : Rim → Rim) : (s.modRim a g).parts = s.parts := rfl
@[simp] theorem State.modRim_vfs (s : State) (a : Nat) (g : Rim → Rim) : (s.modRim a g).vfs = s.vfs := rfl
@[simp] theorem State.modRim_pf (s : State) (a : Nat) (g : Rim → Rim) : (s.modRim a g).pf = s.pf := rfl
@[simp] theorem State.modRim_ctl (s : State) (a : Nat) (g : Rim → Rim) : (s.modRim a g).ctl = s.ctl := rfl
@[simp] theorem State.modRim_spans (s : State) (a : Nat) (g : Rim → Rim) : (s.modRim a g).spans = s.spans := rfl

@[simp] theorem State.modPart_quartz (s : State) (p : Nat) (g : Partition → Partition) : (s.modPart p g).quartz = s.quartz := rfl
@[simp] theorem State.modPart_hbm (s : State) (p : Nat) (g : Partition → Partition) : (s.modPart p g).hbm = s.hbm := rfl
@[simp] theorem State.modPart_hostMem (s : State) (p : Nat) (g : Partition → Partition) : (s.modPart p g).hostMem = s.hostMem := rfl
@[simp] theorem State.modPart_msix (s : State) (p : Nat) (g : Partition → Partition) : (s.modPart p g).msix = s.msix := rfl
@[simp] theorem State.modPart_net (s : State) (p : Nat) (g : Partition → Partition) : (s.modPart p g).net = s.net := rfl
@[simp] theorem State.modPart_iss (s : State) (p : Nat) (g : Partition → Partition) : (s.modPart p g).iss = s.iss := rfl
@[simp] theorem State.modPart_sched (s : State) (p : Nat) (g : Partition → Partition) : (s.modPart p g).sched = s.sched := rfl
@[simp] theorem State.modPart_freeCtr (s : State) (p : Nat) (g : Partition → Partition) : (s.modPart p g).freeCtr = s.freeCtr := rfl
@[simp] theorem State.modPart_tiles (s : State) (p : Nat) (g : Partition → Partition) : (s.modPart p g).tiles = s.tiles := rfl
@[simp] theorem State.modPart_hubs (s : State) (p : Nat) (g : Partition → Partition) : (s.modPart p g).hubs = s.hubs := rfl
@[simp] theorem State.modPart_rims (s : State) (p : Nat) (g : Partition → Partition) : (s.modPart p g).rims = s.rims := rfl
@[simp] theorem State.modPart_vfs (s : State) (p : Nat) (g : Partition → Partition) : (s.modPart p g).vfs = s.vfs := rfl
@[simp] theorem State.modPart_pf (s : State) (p : Nat) (g : Partition → Partition) : (s.modPart p g).pf = s.pf := rfl
@[simp] theorem State.modPart_ctl (s : State) (p : Nat) (g : Partition → Partition) : (s.modPart p g).ctl = s.ctl := rfl
@[simp] theorem State.modPart_spans (s : State) (p : Nat) (g : Partition → Partition) : (s.modPart p g).spans = s.spans := rfl

@[simp] theorem State.modVf_quartz (s : State) (p : Nat) (g : Vf → Vf) : (s.modVf p g).quartz = s.quartz := rfl
@[simp] theorem State.modVf_hbm (s : State) (p : Nat) (g : Vf → Vf) : (s.modVf p g).hbm = s.hbm := rfl
@[simp] theorem State.modVf_hostMem (s : State) (p : Nat) (g : Vf → Vf) : (s.modVf p g).hostMem = s.hostMem := rfl
@[simp] theorem State.modVf_msix (s : State) (p : Nat) (g : Vf → Vf) : (s.modVf p g).msix = s.msix := rfl
@[simp] theorem State.modVf_net (s : State) (p : Nat) (g : Vf → Vf) : (s.modVf p g).net = s.net := rfl
@[simp] theorem State.modVf_iss (s : State) (p : Nat) (g : Vf → Vf) : (s.modVf p g).iss = s.iss := rfl
@[simp] theorem State.modVf_sched (s : State) (p : Nat) (g : Vf → Vf) : (s.modVf p g).sched = s.sched := rfl
@[simp] theorem State.modVf_freeCtr (s : State) (p : Nat) (g : Vf → Vf) : (s.modVf p g).freeCtr = s.freeCtr := rfl
@[simp] theorem State.modVf_tiles (s : State) (p : Nat) (g : Vf → Vf) : (s.modVf p g).tiles = s.tiles := rfl
@[simp] theorem State.modVf_hubs (s : State) (p : Nat) (g : Vf → Vf) : (s.modVf p g).hubs = s.hubs := rfl
@[simp] theorem State.modVf_rims (s : State) (p : Nat) (g : Vf → Vf) : (s.modVf p g).rims = s.rims := rfl
@[simp] theorem State.modVf_parts (s : State) (p : Nat) (g : Vf → Vf) : (s.modVf p g).parts = s.parts := rfl
@[simp] theorem State.modVf_pf (s : State) (p : Nat) (g : Vf → Vf) : (s.modVf p g).pf = s.pf := rfl
@[simp] theorem State.modVf_ctl (s : State) (p : Nat) (g : Vf → Vf) : (s.modVf p g).ctl = s.ctl := rfl
@[simp] theorem State.modVf_spans (s : State) (p : Nat) (g : Vf → Vf) : (s.modVf p g).spans = s.spans := rfl

@[simp] theorem State.modSpan_quartz (s : State) (l : Nat) (g : Span → Span) : (s.modSpan l g).quartz = s.quartz := rfl
@[simp] theorem State.modSpan_hbm (s : State) (l : Nat) (g : Span → Span) : (s.modSpan l g).hbm = s.hbm := rfl
@[simp] theorem State.modSpan_hostMem (s : State) (l : Nat) (g : Span → Span) : (s.modSpan l g).hostMem = s.hostMem := rfl
@[simp] theorem State.modSpan_msix (s : State) (l : Nat) (g : Span → Span) : (s.modSpan l g).msix = s.msix := rfl
@[simp] theorem State.modSpan_net (s : State) (l : Nat) (g : Span → Span) : (s.modSpan l g).net = s.net := rfl
@[simp] theorem State.modSpan_iss (s : State) (l : Nat) (g : Span → Span) : (s.modSpan l g).iss = s.iss := rfl
@[simp] theorem State.modSpan_sched (s : State) (l : Nat) (g : Span → Span) : (s.modSpan l g).sched = s.sched := rfl
@[simp] theorem State.modSpan_freeCtr (s : State) (l : Nat) (g : Span → Span) : (s.modSpan l g).freeCtr = s.freeCtr := rfl
@[simp] theorem State.modSpan_tiles (s : State) (l : Nat) (g : Span → Span) : (s.modSpan l g).tiles = s.tiles := rfl
@[simp] theorem State.modSpan_hubs (s : State) (l : Nat) (g : Span → Span) : (s.modSpan l g).hubs = s.hubs := rfl
@[simp] theorem State.modSpan_rims (s : State) (l : Nat) (g : Span → Span) : (s.modSpan l g).rims = s.rims := rfl
@[simp] theorem State.modSpan_parts (s : State) (l : Nat) (g : Span → Span) : (s.modSpan l g).parts = s.parts := rfl
@[simp] theorem State.modSpan_vfs (s : State) (l : Nat) (g : Span → Span) : (s.modSpan l g).vfs = s.vfs := rfl
@[simp] theorem State.modSpan_pf (s : State) (l : Nat) (g : Span → Span) : (s.modSpan l g).pf = s.pf := rfl
@[simp] theorem State.modSpan_ctl (s : State) (l : Nat) (g : Span → Span) : (s.modSpan l g).ctl = s.ctl := rfl

@[simp] theorem State.count_quartz (s : State) (p i n : Nat) : (s.count p i n).quartz = s.quartz := rfl
@[simp] theorem State.count_hbm (s : State) (p i n : Nat) : (s.count p i n).hbm = s.hbm := rfl
@[simp] theorem State.count_hostMem (s : State) (p i n : Nat) : (s.count p i n).hostMem = s.hostMem := rfl
@[simp] theorem State.count_msix (s : State) (p i n : Nat) : (s.count p i n).msix = s.msix := rfl
@[simp] theorem State.count_net (s : State) (p i n : Nat) : (s.count p i n).net = s.net := rfl
@[simp] theorem State.count_iss (s : State) (p i n : Nat) : (s.count p i n).iss = s.iss := rfl
@[simp] theorem State.count_sched (s : State) (p i n : Nat) : (s.count p i n).sched = s.sched := rfl
@[simp] theorem State.count_freeCtr (s : State) (p i n : Nat) : (s.count p i n).freeCtr = s.freeCtr := rfl
@[simp] theorem State.count_tiles (s : State) (p i n : Nat) : (s.count p i n).tiles = s.tiles := rfl
@[simp] theorem State.count_hubs (s : State) (p i n : Nat) : (s.count p i n).hubs = s.hubs := rfl
@[simp] theorem State.count_rims (s : State) (p i n : Nat) : (s.count p i n).rims = s.rims := rfl
@[simp] theorem State.count_vfs (s : State) (p i n : Nat) : (s.count p i n).vfs = s.vfs := rfl
@[simp] theorem State.count_pf (s : State) (p i n : Nat) : (s.count p i n).pf = s.pf := rfl
@[simp] theorem State.count_ctl (s : State) (p i n : Nat) : (s.count p i n).ctl = s.ctl := rfl
@[simp] theorem State.count_spans (s : State) (p i n : Nat) : (s.count p i n).spans = s.spans := rfl

@[simp] theorem State.countT_quartz (s : State) (t i n : Nat) : (s.countT t i n).quartz = s.quartz := rfl
@[simp] theorem State.countT_hbm (s : State) (t i n : Nat) : (s.countT t i n).hbm = s.hbm := rfl
@[simp] theorem State.countT_hostMem (s : State) (t i n : Nat) : (s.countT t i n).hostMem = s.hostMem := rfl
@[simp] theorem State.countT_msix (s : State) (t i n : Nat) : (s.countT t i n).msix = s.msix := rfl
@[simp] theorem State.countT_net (s : State) (t i n : Nat) : (s.countT t i n).net = s.net := rfl
@[simp] theorem State.countT_iss (s : State) (t i n : Nat) : (s.countT t i n).iss = s.iss := rfl
@[simp] theorem State.countT_sched (s : State) (t i n : Nat) : (s.countT t i n).sched = s.sched := rfl
@[simp] theorem State.countT_freeCtr (s : State) (t i n : Nat) : (s.countT t i n).freeCtr = s.freeCtr := rfl
@[simp] theorem State.countT_tiles (s : State) (t i n : Nat) : (s.countT t i n).tiles = s.tiles := rfl
@[simp] theorem State.countT_hubs (s : State) (t i n : Nat) : (s.countT t i n).hubs = s.hubs := rfl
@[simp] theorem State.countT_rims (s : State) (t i n : Nat) : (s.countT t i n).rims = s.rims := rfl
@[simp] theorem State.countT_vfs (s : State) (t i n : Nat) : (s.countT t i n).vfs = s.vfs := rfl
@[simp] theorem State.countT_pf (s : State) (t i n : Nat) : (s.countT t i n).pf = s.pf := rfl
@[simp] theorem State.countT_ctl (s : State) (t i n : Nat) : (s.countT t i n).ctl = s.ctl := rfl
@[simp] theorem State.countT_spans (s : State) (t i n : Nat) : (s.countT t i n).spans = s.spans := rfl

@[simp] theorem State.life_quartz (s : State) (f i n : Nat) : (s.life f i n).quartz = s.quartz := rfl
@[simp] theorem State.life_hbm (s : State) (f i n : Nat) : (s.life f i n).hbm = s.hbm := rfl
@[simp] theorem State.life_hostMem (s : State) (f i n : Nat) : (s.life f i n).hostMem = s.hostMem := rfl
@[simp] theorem State.life_msix (s : State) (f i n : Nat) : (s.life f i n).msix = s.msix := rfl
@[simp] theorem State.life_net (s : State) (f i n : Nat) : (s.life f i n).net = s.net := rfl
@[simp] theorem State.life_iss (s : State) (f i n : Nat) : (s.life f i n).iss = s.iss := rfl
@[simp] theorem State.life_sched (s : State) (f i n : Nat) : (s.life f i n).sched = s.sched := rfl
@[simp] theorem State.life_freeCtr (s : State) (f i n : Nat) : (s.life f i n).freeCtr = s.freeCtr := rfl
@[simp] theorem State.life_tiles (s : State) (f i n : Nat) : (s.life f i n).tiles = s.tiles := rfl
@[simp] theorem State.life_rims (s : State) (f i n : Nat) : (s.life f i n).rims = s.rims := rfl
@[simp] theorem State.life_parts (s : State) (f i n : Nat) : (s.life f i n).parts = s.parts := rfl
@[simp] theorem State.life_vfs (s : State) (f i n : Nat) : (s.life f i n).vfs = s.vfs := rfl
@[simp] theorem State.life_pf (s : State) (f i n : Nat) : (s.life f i n).pf = s.pf := rfl
@[simp] theorem State.life_ctl (s : State) (f i n : Nat) : (s.life f i n).ctl = s.ctl := rfl
@[simp] theorem State.life_spans (s : State) (f i n : Nat) : (s.life f i n).spans = s.spans := rfl

@[simp] theorem State.raiseFlags_quartz (s : State) (f : FpFlags) : (s.raiseFlags f).quartz = s.quartz := rfl
@[simp] theorem State.raiseFlags_hbm (s : State) (f : FpFlags) : (s.raiseFlags f).hbm = s.hbm := rfl
@[simp] theorem State.raiseFlags_hostMem (s : State) (f : FpFlags) : (s.raiseFlags f).hostMem = s.hostMem := rfl
@[simp] theorem State.raiseFlags_msix (s : State) (f : FpFlags) : (s.raiseFlags f).msix = s.msix := rfl
@[simp] theorem State.raiseFlags_net (s : State) (f : FpFlags) : (s.raiseFlags f).net = s.net := rfl
@[simp] theorem State.raiseFlags_sched (s : State) (f : FpFlags) : (s.raiseFlags f).sched = s.sched := rfl
@[simp] theorem State.raiseFlags_freeCtr (s : State) (f : FpFlags) : (s.raiseFlags f).freeCtr = s.freeCtr := rfl
@[simp] theorem State.raiseFlags_tiles (s : State) (f : FpFlags) : (s.raiseFlags f).tiles = s.tiles := rfl
@[simp] theorem State.raiseFlags_hubs (s : State) (f : FpFlags) : (s.raiseFlags f).hubs = s.hubs := rfl
@[simp] theorem State.raiseFlags_rims (s : State) (f : FpFlags) : (s.raiseFlags f).rims = s.rims := rfl
@[simp] theorem State.raiseFlags_parts (s : State) (f : FpFlags) : (s.raiseFlags f).parts = s.parts := rfl
@[simp] theorem State.raiseFlags_vfs (s : State) (f : FpFlags) : (s.raiseFlags f).vfs = s.vfs := rfl
@[simp] theorem State.raiseFlags_pf (s : State) (f : FpFlags) : (s.raiseFlags f).pf = s.pf := rfl
@[simp] theorem State.raiseFlags_ctl (s : State) (f : FpFlags) : (s.raiseFlags f).ctl = s.ctl := rfl
@[simp] theorem State.raiseFlags_spans (s : State) (f : FpFlags) : (s.raiseFlags f).spans = s.spans := rfl

@[simp] theorem State.addWait_quartz (s : State) (w : Wait) (d e : Dest) : (s.addWait w d e).quartz = s.quartz := rfl
@[simp] theorem State.addWait_hbm (s : State) (w : Wait) (d e : Dest) : (s.addWait w d e).hbm = s.hbm := rfl
@[simp] theorem State.addWait_hostMem (s : State) (w : Wait) (d e : Dest) : (s.addWait w d e).hostMem = s.hostMem := rfl
@[simp] theorem State.addWait_msix (s : State) (w : Wait) (d e : Dest) : (s.addWait w d e).msix = s.msix := rfl
@[simp] theorem State.addWait_net (s : State) (w : Wait) (d e : Dest) : (s.addWait w d e).net = s.net := rfl
@[simp] theorem State.addWait_sched (s : State) (w : Wait) (d e : Dest) : (s.addWait w d e).sched = s.sched := rfl
@[simp] theorem State.addWait_freeCtr (s : State) (w : Wait) (d e : Dest) : (s.addWait w d e).freeCtr = s.freeCtr := rfl
@[simp] theorem State.addWait_tiles (s : State) (w : Wait) (d e : Dest) : (s.addWait w d e).tiles = s.tiles := rfl
@[simp] theorem State.addWait_hubs (s : State) (w : Wait) (d e : Dest) : (s.addWait w d e).hubs = s.hubs := rfl
@[simp] theorem State.addWait_rims (s : State) (w : Wait) (d e : Dest) : (s.addWait w d e).rims = s.rims := rfl
@[simp] theorem State.addWait_parts (s : State) (w : Wait) (d e : Dest) : (s.addWait w d e).parts = s.parts := rfl
@[simp] theorem State.addWait_vfs (s : State) (w : Wait) (d e : Dest) : (s.addWait w d e).vfs = s.vfs := rfl
@[simp] theorem State.addWait_pf (s : State) (w : Wait) (d e : Dest) : (s.addWait w d e).pf = s.pf := rfl
@[simp] theorem State.addWait_ctl (s : State) (w : Wait) (d e : Dest) : (s.addWait w d e).ctl = s.ctl := rfl
@[simp] theorem State.addWait_spans (s : State) (w : Wait) (d e : Dest) : (s.addWait w d e).spans = s.spans := rfl

@[simp] theorem State.addEff_quartz (s : State) (e : Eff) : (s.addEff e).quartz = s.quartz := rfl
@[simp] theorem State.addEff_hbm (s : State) (e : Eff) : (s.addEff e).hbm = s.hbm := rfl
@[simp] theorem State.addEff_hostMem (s : State) (e : Eff) : (s.addEff e).hostMem = s.hostMem := rfl
@[simp] theorem State.addEff_msix (s : State) (e : Eff) : (s.addEff e).msix = s.msix := rfl
@[simp] theorem State.addEff_net (s : State) (e : Eff) : (s.addEff e).net = s.net := rfl
@[simp] theorem State.addEff_sched (s : State) (e : Eff) : (s.addEff e).sched = s.sched := rfl
@[simp] theorem State.addEff_freeCtr (s : State) (e : Eff) : (s.addEff e).freeCtr = s.freeCtr := rfl
@[simp] theorem State.addEff_tiles (s : State) (e : Eff) : (s.addEff e).tiles = s.tiles := rfl
@[simp] theorem State.addEff_hubs (s : State) (e : Eff) : (s.addEff e).hubs = s.hubs := rfl
@[simp] theorem State.addEff_rims (s : State) (e : Eff) : (s.addEff e).rims = s.rims := rfl
@[simp] theorem State.addEff_parts (s : State) (e : Eff) : (s.addEff e).parts = s.parts := rfl
@[simp] theorem State.addEff_vfs (s : State) (e : Eff) : (s.addEff e).vfs = s.vfs := rfl
@[simp] theorem State.addEff_pf (s : State) (e : Eff) : (s.addEff e).pf = s.pf := rfl
@[simp] theorem State.addEff_ctl (s : State) (e : Eff) : (s.addEff e).ctl = s.ctl := rfl
@[simp] theorem State.addEff_spans (s : State) (e : Eff) : (s.addEff e).spans = s.spans := rfl

/-! ### Units that an update leaves -/

@[simp] theorem State.modIss_c (s : State) (f : Issue → Issue) (y : Nat) : (s.modIss f).c y = s.c y := rfl
@[simp] theorem State.modIss_n (s : State) (f : Issue → Issue) (y : Nat) : (s.modIss f).n y = s.n y := rfl
@[simp] theorem State.modIss_tile (s : State) (f : Issue → Issue) (y : Nat) : (s.modIss f).tile y = s.tile y := rfl
@[simp] theorem State.modIss_frame (s : State) (f : Issue → Issue) (y z : Nat) : (s.modIss f).frame y z = s.frame y z := rfl
@[simp] theorem State.modIss_hub (s : State) (f : Issue → Issue) (y : Nat) : (s.modIss f).hub y = s.hub y := rfl
@[simp] theorem State.modIss_rim (s : State) (f : Issue → Issue) (y : Nat) : (s.modIss f).rim y = s.rim y := rfl
@[simp] theorem State.modIss_part (s : State) (f : Issue → Issue) (y : Nat) : (s.modIss f).part y = s.part y := rfl
@[simp] theorem State.modIss_vf (s : State) (f : Issue → Issue) (y : Nat) : (s.modIss f).vf y = s.vf y := rfl
@[simp] theorem State.modIss_span (s : State) (f : Issue → Issue) (y : Nat) : (s.modIss f).span y = s.span y := rfl
@[simp] theorem State.modIss_partOfField (s : State) (f : Issue → Issue) (y : Nat) : (s.modIss f).partOfField y = s.partOfField y := rfl
@[simp] theorem State.modIss_partOf (s : State) (f : Issue → Issue) (y : Nat) : (s.modIss f).partOf y = s.partOf y := rfl
@[simp] theorem State.modIss_tick (s : State) (f : Issue → Issue) : (s.modIss f).tick  = s.tick  := rfl

@[simp] theorem State.setTile_hub (s : State) (t : Nat) (x : Tile) (y : Nat) : (s.setTile t x).hub y = s.hub y := rfl
@[simp] theorem State.setTile_rim (s : State) (t : Nat) (x : Tile) (y : Nat) : (s.setTile t x).rim y = s.rim y := rfl
@[simp] theorem State.setTile_part (s : State) (t : Nat) (x : Tile) (y : Nat) : (s.setTile t x).part y = s.part y := rfl
@[simp] theorem State.setTile_vf (s : State) (t : Nat) (x : Tile) (y : Nat) : (s.setTile t x).vf y = s.vf y := rfl
@[simp] theorem State.setTile_span (s : State) (t : Nat) (x : Tile) (y : Nat) : (s.setTile t x).span y = s.span y := rfl
@[simp] theorem State.setTile_partOfField (s : State) (t : Nat) (x : Tile) (y : Nat) : (s.setTile t x).partOfField y = s.partOfField y := rfl
@[simp] theorem State.setTile_partOf (s : State) (t : Nat) (x : Tile) (y : Nat) : (s.setTile t x).partOf y = s.partOf y := rfl
@[simp] theorem State.setTile_tick (s : State) (t : Nat) (x : Tile) : (s.setTile t x).tick  = s.tick  := rfl

@[simp] theorem State.setC_hub (s : State) (t : Nat) (x : CDom) (y : Nat) : (s.setC t x).hub y = s.hub y := rfl
@[simp] theorem State.setC_rim (s : State) (t : Nat) (x : CDom) (y : Nat) : (s.setC t x).rim y = s.rim y := rfl
@[simp] theorem State.setC_part (s : State) (t : Nat) (x : CDom) (y : Nat) : (s.setC t x).part y = s.part y := rfl
@[simp] theorem State.setC_vf (s : State) (t : Nat) (x : CDom) (y : Nat) : (s.setC t x).vf y = s.vf y := rfl
@[simp] theorem State.setC_span (s : State) (t : Nat) (x : CDom) (y : Nat) : (s.setC t x).span y = s.span y := rfl
@[simp] theorem State.setC_partOfField (s : State) (t : Nat) (x : CDom) (y : Nat) : (s.setC t x).partOfField y = s.partOfField y := rfl
@[simp] theorem State.setC_partOf (s : State) (t : Nat) (x : CDom) (y : Nat) : (s.setC t x).partOf y = s.partOf y := rfl
@[simp] theorem State.setC_tick (s : State) (t : Nat) (x : CDom) : (s.setC t x).tick  = s.tick  := rfl

@[simp] theorem State.setN_hub (s : State) (t : Nat) (x : NDom) (y : Nat) : (s.setN t x).hub y = s.hub y := rfl
@[simp] theorem State.setN_rim (s : State) (t : Nat) (x : NDom) (y : Nat) : (s.setN t x).rim y = s.rim y := rfl
@[simp] theorem State.setN_part (s : State) (t : Nat) (x : NDom) (y : Nat) : (s.setN t x).part y = s.part y := rfl
@[simp] theorem State.setN_vf (s : State) (t : Nat) (x : NDom) (y : Nat) : (s.setN t x).vf y = s.vf y := rfl
@[simp] theorem State.setN_span (s : State) (t : Nat) (x : NDom) (y : Nat) : (s.setN t x).span y = s.span y := rfl
@[simp] theorem State.setN_partOfField (s : State) (t : Nat) (x : NDom) (y : Nat) : (s.setN t x).partOfField y = s.partOfField y := rfl
@[simp] theorem State.setN_partOf (s : State) (t : Nat) (x : NDom) (y : Nat) : (s.setN t x).partOf y = s.partOf y := rfl
@[simp] theorem State.setN_tick (s : State) (t : Nat) (x : NDom) : (s.setN t x).tick  = s.tick  := rfl

@[simp] theorem State.modC_hub (s : State) (t : Nat) (f : CDom → CDom) (y : Nat) : (s.modC t f).hub y = s.hub y := rfl
@[simp] theorem State.modC_rim (s : State) (t : Nat) (f : CDom → CDom) (y : Nat) : (s.modC t f).rim y = s.rim y := rfl
@[simp] theorem State.modC_part (s : State) (t : Nat) (f : CDom → CDom) (y : Nat) : (s.modC t f).part y = s.part y := rfl
@[simp] theorem State.modC_vf (s : State) (t : Nat) (f : CDom → CDom) (y : Nat) : (s.modC t f).vf y = s.vf y := rfl
@[simp] theorem State.modC_span (s : State) (t : Nat) (f : CDom → CDom) (y : Nat) : (s.modC t f).span y = s.span y := rfl
@[simp] theorem State.modC_partOfField (s : State) (t : Nat) (f : CDom → CDom) (y : Nat) : (s.modC t f).partOfField y = s.partOfField y := rfl
@[simp] theorem State.modC_partOf (s : State) (t : Nat) (f : CDom → CDom) (y : Nat) : (s.modC t f).partOf y = s.partOf y := rfl
@[simp] theorem State.modC_tick (s : State) (t : Nat) (f : CDom → CDom) : (s.modC t f).tick  = s.tick  := rfl

@[simp] theorem State.modN_hub (s : State) (t : Nat) (f : NDom → NDom) (y : Nat) : (s.modN t f).hub y = s.hub y := rfl
@[simp] theorem State.modN_rim (s : State) (t : Nat) (f : NDom → NDom) (y : Nat) : (s.modN t f).rim y = s.rim y := rfl
@[simp] theorem State.modN_part (s : State) (t : Nat) (f : NDom → NDom) (y : Nat) : (s.modN t f).part y = s.part y := rfl
@[simp] theorem State.modN_vf (s : State) (t : Nat) (f : NDom → NDom) (y : Nat) : (s.modN t f).vf y = s.vf y := rfl
@[simp] theorem State.modN_span (s : State) (t : Nat) (f : NDom → NDom) (y : Nat) : (s.modN t f).span y = s.span y := rfl
@[simp] theorem State.modN_partOfField (s : State) (t : Nat) (f : NDom → NDom) (y : Nat) : (s.modN t f).partOfField y = s.partOfField y := rfl
@[simp] theorem State.modN_partOf (s : State) (t : Nat) (f : NDom → NDom) (y : Nat) : (s.modN t f).partOf y = s.partOf y := rfl
@[simp] theorem State.modN_tick (s : State) (t : Nat) (f : NDom → NDom) : (s.modN t f).tick  = s.tick  := rfl

@[simp] theorem State.setSlate_hub (s : State) (t : Nat) (x : Slate) (y : Nat) : (s.setSlate t x).hub y = s.hub y := rfl
@[simp] theorem State.setSlate_rim (s : State) (t : Nat) (x : Slate) (y : Nat) : (s.setSlate t x).rim y = s.rim y := rfl
@[simp] theorem State.setSlate_part (s : State) (t : Nat) (x : Slate) (y : Nat) : (s.setSlate t x).part y = s.part y := rfl
@[simp] theorem State.setSlate_vf (s : State) (t : Nat) (x : Slate) (y : Nat) : (s.setSlate t x).vf y = s.vf y := rfl
@[simp] theorem State.setSlate_span (s : State) (t : Nat) (x : Slate) (y : Nat) : (s.setSlate t x).span y = s.span y := rfl
@[simp] theorem State.setSlate_partOfField (s : State) (t : Nat) (x : Slate) (y : Nat) : (s.setSlate t x).partOfField y = s.partOfField y := rfl
@[simp] theorem State.setSlate_partOf (s : State) (t : Nat) (x : Slate) (y : Nat) : (s.setSlate t x).partOf y = s.partOf y := rfl
@[simp] theorem State.setSlate_tick (s : State) (t : Nat) (x : Slate) : (s.setSlate t x).tick  = s.tick  := rfl

@[simp] theorem State.modSlate_hub (s : State) (t : Nat) (f : Slate → Slate) (y : Nat) : (s.modSlate t f).hub y = s.hub y := rfl
@[simp] theorem State.modSlate_rim (s : State) (t : Nat) (f : Slate → Slate) (y : Nat) : (s.modSlate t f).rim y = s.rim y := rfl
@[simp] theorem State.modSlate_part (s : State) (t : Nat) (f : Slate → Slate) (y : Nat) : (s.modSlate t f).part y = s.part y := rfl
@[simp] theorem State.modSlate_vf (s : State) (t : Nat) (f : Slate → Slate) (y : Nat) : (s.modSlate t f).vf y = s.vf y := rfl
@[simp] theorem State.modSlate_span (s : State) (t : Nat) (f : Slate → Slate) (y : Nat) : (s.modSlate t f).span y = s.span y := rfl
@[simp] theorem State.modSlate_partOfField (s : State) (t : Nat) (f : Slate → Slate) (y : Nat) : (s.modSlate t f).partOfField y = s.partOfField y := rfl
@[simp] theorem State.modSlate_partOf (s : State) (t : Nat) (f : Slate → Slate) (y : Nat) : (s.modSlate t f).partOf y = s.partOf y := rfl
@[simp] theorem State.modSlate_tick (s : State) (t : Nat) (f : Slate → Slate) : (s.modSlate t f).tick  = s.tick  := rfl

@[simp] theorem State.modFrame_hub (s : State) (t f : Nat) (g : Frame → Frame) (y : Nat) : (s.modFrame t f g).hub y = s.hub y := rfl
@[simp] theorem State.modFrame_rim (s : State) (t f : Nat) (g : Frame → Frame) (y : Nat) : (s.modFrame t f g).rim y = s.rim y := rfl
@[simp] theorem State.modFrame_part (s : State) (t f : Nat) (g : Frame → Frame) (y : Nat) : (s.modFrame t f g).part y = s.part y := rfl
@[simp] theorem State.modFrame_vf (s : State) (t f : Nat) (g : Frame → Frame) (y : Nat) : (s.modFrame t f g).vf y = s.vf y := rfl
@[simp] theorem State.modFrame_span (s : State) (t f : Nat) (g : Frame → Frame) (y : Nat) : (s.modFrame t f g).span y = s.span y := rfl
@[simp] theorem State.modFrame_partOfField (s : State) (t f : Nat) (g : Frame → Frame) (y : Nat) : (s.modFrame t f g).partOfField y = s.partOfField y := rfl
@[simp] theorem State.modFrame_partOf (s : State) (t f : Nat) (g : Frame → Frame) (y : Nat) : (s.modFrame t f g).partOf y = s.partOf y := rfl
@[simp] theorem State.modFrame_tick (s : State) (t f : Nat) (g : Frame → Frame) : (s.modFrame t f g).tick  = s.tick  := rfl

@[simp] theorem State.modHub_c (s : State) (f : Nat) (g : Hub → Hub) (y : Nat) : (s.modHub f g).c y = s.c y := rfl
@[simp] theorem State.modHub_n (s : State) (f : Nat) (g : Hub → Hub) (y : Nat) : (s.modHub f g).n y = s.n y := rfl
@[simp] theorem State.modHub_tile (s : State) (f : Nat) (g : Hub → Hub) (y : Nat) : (s.modHub f g).tile y = s.tile y := rfl
@[simp] theorem State.modHub_frame (s : State) (f : Nat) (g : Hub → Hub) (y z : Nat) : (s.modHub f g).frame y z = s.frame y z := rfl
@[simp] theorem State.modHub_rim (s : State) (f : Nat) (g : Hub → Hub) (y : Nat) : (s.modHub f g).rim y = s.rim y := rfl
@[simp] theorem State.modHub_part (s : State) (f : Nat) (g : Hub → Hub) (y : Nat) : (s.modHub f g).part y = s.part y := rfl
@[simp] theorem State.modHub_vf (s : State) (f : Nat) (g : Hub → Hub) (y : Nat) : (s.modHub f g).vf y = s.vf y := rfl
@[simp] theorem State.modHub_span (s : State) (f : Nat) (g : Hub → Hub) (y : Nat) : (s.modHub f g).span y = s.span y := rfl
@[simp] theorem State.modHub_partOfField (s : State) (f : Nat) (g : Hub → Hub) (y : Nat) : (s.modHub f g).partOfField y = s.partOfField y := rfl
@[simp] theorem State.modHub_partOf (s : State) (f : Nat) (g : Hub → Hub) (y : Nat) : (s.modHub f g).partOf y = s.partOf y := rfl
@[simp] theorem State.modHub_tick (s : State) (f : Nat) (g : Hub → Hub) : (s.modHub f g).tick  = s.tick  := rfl

@[simp] theorem State.modRim_c (s : State) (a : Nat) (g : Rim → Rim) (y : Nat) : (s.modRim a g).c y = s.c y := rfl
@[simp] theorem State.modRim_n (s : State) (a : Nat) (g : Rim → Rim) (y : Nat) : (s.modRim a g).n y = s.n y := rfl
@[simp] theorem State.modRim_tile (s : State) (a : Nat) (g : Rim → Rim) (y : Nat) : (s.modRim a g).tile y = s.tile y := rfl
@[simp] theorem State.modRim_frame (s : State) (a : Nat) (g : Rim → Rim) (y z : Nat) : (s.modRim a g).frame y z = s.frame y z := rfl
@[simp] theorem State.modRim_hub (s : State) (a : Nat) (g : Rim → Rim) (y : Nat) : (s.modRim a g).hub y = s.hub y := rfl
@[simp] theorem State.modRim_part (s : State) (a : Nat) (g : Rim → Rim) (y : Nat) : (s.modRim a g).part y = s.part y := rfl
@[simp] theorem State.modRim_vf (s : State) (a : Nat) (g : Rim → Rim) (y : Nat) : (s.modRim a g).vf y = s.vf y := rfl
@[simp] theorem State.modRim_span (s : State) (a : Nat) (g : Rim → Rim) (y : Nat) : (s.modRim a g).span y = s.span y := rfl
@[simp] theorem State.modRim_partOfField (s : State) (a : Nat) (g : Rim → Rim) (y : Nat) : (s.modRim a g).partOfField y = s.partOfField y := rfl
@[simp] theorem State.modRim_partOf (s : State) (a : Nat) (g : Rim → Rim) (y : Nat) : (s.modRim a g).partOf y = s.partOf y := rfl
@[simp] theorem State.modRim_tick (s : State) (a : Nat) (g : Rim → Rim) : (s.modRim a g).tick  = s.tick  := rfl

@[simp] theorem State.modPart_c (s : State) (p : Nat) (g : Partition → Partition) (y : Nat) : (s.modPart p g).c y = s.c y := rfl
@[simp] theorem State.modPart_n (s : State) (p : Nat) (g : Partition → Partition) (y : Nat) : (s.modPart p g).n y = s.n y := rfl
@[simp] theorem State.modPart_tile (s : State) (p : Nat) (g : Partition → Partition) (y : Nat) : (s.modPart p g).tile y = s.tile y := rfl
@[simp] theorem State.modPart_frame (s : State) (p : Nat) (g : Partition → Partition) (y z : Nat) : (s.modPart p g).frame y z = s.frame y z := rfl
@[simp] theorem State.modPart_hub (s : State) (p : Nat) (g : Partition → Partition) (y : Nat) : (s.modPart p g).hub y = s.hub y := rfl
@[simp] theorem State.modPart_rim (s : State) (p : Nat) (g : Partition → Partition) (y : Nat) : (s.modPart p g).rim y = s.rim y := rfl
@[simp] theorem State.modPart_vf (s : State) (p : Nat) (g : Partition → Partition) (y : Nat) : (s.modPart p g).vf y = s.vf y := rfl
@[simp] theorem State.modPart_span (s : State) (p : Nat) (g : Partition → Partition) (y : Nat) : (s.modPart p g).span y = s.span y := rfl
@[simp] theorem State.modPart_tick (s : State) (p : Nat) (g : Partition → Partition) : (s.modPart p g).tick  = s.tick  := rfl

@[simp] theorem State.modVf_c (s : State) (p : Nat) (g : Vf → Vf) (y : Nat) : (s.modVf p g).c y = s.c y := rfl
@[simp] theorem State.modVf_n (s : State) (p : Nat) (g : Vf → Vf) (y : Nat) : (s.modVf p g).n y = s.n y := rfl
@[simp] theorem State.modVf_tile (s : State) (p : Nat) (g : Vf → Vf) (y : Nat) : (s.modVf p g).tile y = s.tile y := rfl
@[simp] theorem State.modVf_frame (s : State) (p : Nat) (g : Vf → Vf) (y z : Nat) : (s.modVf p g).frame y z = s.frame y z := rfl
@[simp] theorem State.modVf_hub (s : State) (p : Nat) (g : Vf → Vf) (y : Nat) : (s.modVf p g).hub y = s.hub y := rfl
@[simp] theorem State.modVf_rim (s : State) (p : Nat) (g : Vf → Vf) (y : Nat) : (s.modVf p g).rim y = s.rim y := rfl
@[simp] theorem State.modVf_part (s : State) (p : Nat) (g : Vf → Vf) (y : Nat) : (s.modVf p g).part y = s.part y := rfl
@[simp] theorem State.modVf_span (s : State) (p : Nat) (g : Vf → Vf) (y : Nat) : (s.modVf p g).span y = s.span y := rfl
@[simp] theorem State.modVf_partOfField (s : State) (p : Nat) (g : Vf → Vf) (y : Nat) : (s.modVf p g).partOfField y = s.partOfField y := rfl
@[simp] theorem State.modVf_partOf (s : State) (p : Nat) (g : Vf → Vf) (y : Nat) : (s.modVf p g).partOf y = s.partOf y := rfl
@[simp] theorem State.modVf_tick (s : State) (p : Nat) (g : Vf → Vf) : (s.modVf p g).tick  = s.tick  := rfl

@[simp] theorem State.modSpan_c (s : State) (l : Nat) (g : Span → Span) (y : Nat) : (s.modSpan l g).c y = s.c y := rfl
@[simp] theorem State.modSpan_n (s : State) (l : Nat) (g : Span → Span) (y : Nat) : (s.modSpan l g).n y = s.n y := rfl
@[simp] theorem State.modSpan_tile (s : State) (l : Nat) (g : Span → Span) (y : Nat) : (s.modSpan l g).tile y = s.tile y := rfl
@[simp] theorem State.modSpan_frame (s : State) (l : Nat) (g : Span → Span) (y z : Nat) : (s.modSpan l g).frame y z = s.frame y z := rfl
@[simp] theorem State.modSpan_hub (s : State) (l : Nat) (g : Span → Span) (y : Nat) : (s.modSpan l g).hub y = s.hub y := rfl
@[simp] theorem State.modSpan_rim (s : State) (l : Nat) (g : Span → Span) (y : Nat) : (s.modSpan l g).rim y = s.rim y := rfl
@[simp] theorem State.modSpan_part (s : State) (l : Nat) (g : Span → Span) (y : Nat) : (s.modSpan l g).part y = s.part y := rfl
@[simp] theorem State.modSpan_vf (s : State) (l : Nat) (g : Span → Span) (y : Nat) : (s.modSpan l g).vf y = s.vf y := rfl
@[simp] theorem State.modSpan_partOfField (s : State) (l : Nat) (g : Span → Span) (y : Nat) : (s.modSpan l g).partOfField y = s.partOfField y := rfl
@[simp] theorem State.modSpan_partOf (s : State) (l : Nat) (g : Span → Span) (y : Nat) : (s.modSpan l g).partOf y = s.partOf y := rfl
@[simp] theorem State.modSpan_tick (s : State) (l : Nat) (g : Span → Span) : (s.modSpan l g).tick  = s.tick  := rfl

@[simp] theorem State.count_c (s : State) (p i n : Nat) (y : Nat) : (s.count p i n).c y = s.c y := rfl
@[simp] theorem State.count_n (s : State) (p i n : Nat) (y : Nat) : (s.count p i n).n y = s.n y := rfl
@[simp] theorem State.count_tile (s : State) (p i n : Nat) (y : Nat) : (s.count p i n).tile y = s.tile y := rfl
@[simp] theorem State.count_frame (s : State) (p i n : Nat) (y z : Nat) : (s.count p i n).frame y z = s.frame y z := rfl
@[simp] theorem State.count_hub (s : State) (p i n : Nat) (y : Nat) : (s.count p i n).hub y = s.hub y := rfl
@[simp] theorem State.count_rim (s : State) (p i n : Nat) (y : Nat) : (s.count p i n).rim y = s.rim y := rfl
@[simp] theorem State.count_vf (s : State) (p i n : Nat) (y : Nat) : (s.count p i n).vf y = s.vf y := rfl
@[simp] theorem State.count_span (s : State) (p i n : Nat) (y : Nat) : (s.count p i n).span y = s.span y := rfl
@[simp] theorem State.count_tick (s : State) (p i n : Nat) : (s.count p i n).tick  = s.tick  := rfl

@[simp] theorem State.countT_c (s : State) (t i n : Nat) (y : Nat) : (s.countT t i n).c y = s.c y := rfl
@[simp] theorem State.countT_n (s : State) (t i n : Nat) (y : Nat) : (s.countT t i n).n y = s.n y := rfl
@[simp] theorem State.countT_tile (s : State) (t i n : Nat) (y : Nat) : (s.countT t i n).tile y = s.tile y := rfl
@[simp] theorem State.countT_frame (s : State) (t i n : Nat) (y z : Nat) : (s.countT t i n).frame y z = s.frame y z := rfl
@[simp] theorem State.countT_hub (s : State) (t i n : Nat) (y : Nat) : (s.countT t i n).hub y = s.hub y := rfl
@[simp] theorem State.countT_rim (s : State) (t i n : Nat) (y : Nat) : (s.countT t i n).rim y = s.rim y := rfl
@[simp] theorem State.countT_vf (s : State) (t i n : Nat) (y : Nat) : (s.countT t i n).vf y = s.vf y := rfl
@[simp] theorem State.countT_span (s : State) (t i n : Nat) (y : Nat) : (s.countT t i n).span y = s.span y := rfl
@[simp] theorem State.countT_tick (s : State) (t i n : Nat) : (s.countT t i n).tick  = s.tick  := rfl

@[simp] theorem State.life_c (s : State) (f i n : Nat) (y : Nat) : (s.life f i n).c y = s.c y := rfl
@[simp] theorem State.life_n (s : State) (f i n : Nat) (y : Nat) : (s.life f i n).n y = s.n y := rfl
@[simp] theorem State.life_tile (s : State) (f i n : Nat) (y : Nat) : (s.life f i n).tile y = s.tile y := rfl
@[simp] theorem State.life_frame (s : State) (f i n : Nat) (y z : Nat) : (s.life f i n).frame y z = s.frame y z := rfl
@[simp] theorem State.life_rim (s : State) (f i n : Nat) (y : Nat) : (s.life f i n).rim y = s.rim y := rfl
@[simp] theorem State.life_part (s : State) (f i n : Nat) (y : Nat) : (s.life f i n).part y = s.part y := rfl
@[simp] theorem State.life_vf (s : State) (f i n : Nat) (y : Nat) : (s.life f i n).vf y = s.vf y := rfl
@[simp] theorem State.life_span (s : State) (f i n : Nat) (y : Nat) : (s.life f i n).span y = s.span y := rfl
@[simp] theorem State.life_partOfField (s : State) (f i n : Nat) (y : Nat) : (s.life f i n).partOfField y = s.partOfField y := rfl
@[simp] theorem State.life_partOf (s : State) (f i n : Nat) (y : Nat) : (s.life f i n).partOf y = s.partOf y := rfl
@[simp] theorem State.life_tick (s : State) (f i n : Nat) : (s.life f i n).tick  = s.tick  := rfl

@[simp] theorem State.raiseFlags_c (s : State) (f : FpFlags) (y : Nat) : (s.raiseFlags f).c y = s.c y := rfl
@[simp] theorem State.raiseFlags_n (s : State) (f : FpFlags) (y : Nat) : (s.raiseFlags f).n y = s.n y := rfl
@[simp] theorem State.raiseFlags_tile (s : State) (f : FpFlags) (y : Nat) : (s.raiseFlags f).tile y = s.tile y := rfl
@[simp] theorem State.raiseFlags_frame (s : State) (f : FpFlags) (y z : Nat) : (s.raiseFlags f).frame y z = s.frame y z := rfl
@[simp] theorem State.raiseFlags_hub (s : State) (f : FpFlags) (y : Nat) : (s.raiseFlags f).hub y = s.hub y := rfl
@[simp] theorem State.raiseFlags_rim (s : State) (f : FpFlags) (y : Nat) : (s.raiseFlags f).rim y = s.rim y := rfl
@[simp] theorem State.raiseFlags_part (s : State) (f : FpFlags) (y : Nat) : (s.raiseFlags f).part y = s.part y := rfl
@[simp] theorem State.raiseFlags_vf (s : State) (f : FpFlags) (y : Nat) : (s.raiseFlags f).vf y = s.vf y := rfl
@[simp] theorem State.raiseFlags_span (s : State) (f : FpFlags) (y : Nat) : (s.raiseFlags f).span y = s.span y := rfl
@[simp] theorem State.raiseFlags_partOfField (s : State) (f : FpFlags) (y : Nat) : (s.raiseFlags f).partOfField y = s.partOfField y := rfl
@[simp] theorem State.raiseFlags_partOf (s : State) (f : FpFlags) (y : Nat) : (s.raiseFlags f).partOf y = s.partOf y := rfl
@[simp] theorem State.raiseFlags_tick (s : State) (f : FpFlags) : (s.raiseFlags f).tick  = s.tick  := rfl

@[simp] theorem State.addWait_c (s : State) (w : Wait) (d e : Dest) (y : Nat) : (s.addWait w d e).c y = s.c y := rfl
@[simp] theorem State.addWait_n (s : State) (w : Wait) (d e : Dest) (y : Nat) : (s.addWait w d e).n y = s.n y := rfl
@[simp] theorem State.addWait_tile (s : State) (w : Wait) (d e : Dest) (y : Nat) : (s.addWait w d e).tile y = s.tile y := rfl
@[simp] theorem State.addWait_frame (s : State) (w : Wait) (d e : Dest) (y z : Nat) : (s.addWait w d e).frame y z = s.frame y z := rfl
@[simp] theorem State.addWait_hub (s : State) (w : Wait) (d e : Dest) (y : Nat) : (s.addWait w d e).hub y = s.hub y := rfl
@[simp] theorem State.addWait_rim (s : State) (w : Wait) (d e : Dest) (y : Nat) : (s.addWait w d e).rim y = s.rim y := rfl
@[simp] theorem State.addWait_part (s : State) (w : Wait) (d e : Dest) (y : Nat) : (s.addWait w d e).part y = s.part y := rfl
@[simp] theorem State.addWait_vf (s : State) (w : Wait) (d e : Dest) (y : Nat) : (s.addWait w d e).vf y = s.vf y := rfl
@[simp] theorem State.addWait_span (s : State) (w : Wait) (d e : Dest) (y : Nat) : (s.addWait w d e).span y = s.span y := rfl
@[simp] theorem State.addWait_partOfField (s : State) (w : Wait) (d e : Dest) (y : Nat) : (s.addWait w d e).partOfField y = s.partOfField y := rfl
@[simp] theorem State.addWait_partOf (s : State) (w : Wait) (d e : Dest) (y : Nat) : (s.addWait w d e).partOf y = s.partOf y := rfl
@[simp] theorem State.addWait_tick (s : State) (w : Wait) (d e : Dest) : (s.addWait w d e).tick  = s.tick  := rfl

@[simp] theorem State.addEff_c (s : State) (e : Eff) (y : Nat) : (s.addEff e).c y = s.c y := rfl
@[simp] theorem State.addEff_n (s : State) (e : Eff) (y : Nat) : (s.addEff e).n y = s.n y := rfl
@[simp] theorem State.addEff_tile (s : State) (e : Eff) (y : Nat) : (s.addEff e).tile y = s.tile y := rfl
@[simp] theorem State.addEff_frame (s : State) (e : Eff) (y z : Nat) : (s.addEff e).frame y z = s.frame y z := rfl
@[simp] theorem State.addEff_hub (s : State) (e : Eff) (y : Nat) : (s.addEff e).hub y = s.hub y := rfl
@[simp] theorem State.addEff_rim (s : State) (e : Eff) (y : Nat) : (s.addEff e).rim y = s.rim y := rfl
@[simp] theorem State.addEff_part (s : State) (e : Eff) (y : Nat) : (s.addEff e).part y = s.part y := rfl
@[simp] theorem State.addEff_vf (s : State) (e : Eff) (y : Nat) : (s.addEff e).vf y = s.vf y := rfl
@[simp] theorem State.addEff_span (s : State) (e : Eff) (y : Nat) : (s.addEff e).span y = s.span y := rfl
@[simp] theorem State.addEff_partOfField (s : State) (e : Eff) (y : Nat) : (s.addEff e).partOfField y = s.partOfField y := rfl
@[simp] theorem State.addEff_partOf (s : State) (e : Eff) (y : Nat) : (s.addEff e).partOf y = s.partOf y := rfl
@[simp] theorem State.addEff_tick (s : State) (e : Eff) : (s.addEff e).tick  = s.tick  := rfl

/-! ### Tiles and their domains -/

theorem State.tile_setTile (s : State) (t u : Nat) (x : Tile) : (s.setTile t x).tile u = if u = t then x else s.tile u :=
  AMap.getD_set ..

@[simp] theorem State.tile_setTile_self (s : State) (t : Nat) (x : Tile) : (s.setTile t x).tile t = x := by simp [tile_setTile]

theorem State.c_setTile (s : State) (t u : Nat) (x : Tile) : (s.setTile t x).c u = if u = t then x.c else s.c u := by
  simp only [c, tile_setTile]; split <;> rfl

theorem State.n_setTile (s : State) (t u : Nat) (x : Tile) : (s.setTile t x).n u = if u = t then x.n else s.n u := by
  simp only [n, tile_setTile]; split <;> rfl

theorem State.c_setC (s : State) (t u : Nat) (x : CDom) : (s.setC t x).c u = if u = t then x else s.c u := c_setTile ..

@[simp] theorem State.c_setC_self (s : State) (t : Nat) (x : CDom) : (s.setC t x).c t = x := by simp [c_setC]

theorem State.c_modC (s : State) (t u : Nat) (f : CDom → CDom) : (s.modC t f).c u = if u = t then f (s.c t) else s.c u := c_setTile ..

@[simp] theorem State.c_modC_self (s : State) (t : Nat) (f : CDom → CDom) : (s.modC t f).c t = f (s.c t) := by simp [c_modC]

theorem State.c_modC_ne (s : State) {t u : Nat} (f : CDom → CDom) (h : u ≠ t) : (s.modC t f).c u = s.c u := by simp [c_modC, h]

@[simp] theorem State.n_setC (s : State) (t u : Nat) (x : CDom) : (s.setC t x).n u = s.n u := by
  refine (n_setTile ..).trans ?_
  split
  · subst_vars; rfl
  · rfl

@[simp] theorem State.n_modC (s : State) (t u : Nat) (f : CDom → CDom) : (s.modC t f).n u = s.n u := n_setC ..

theorem State.n_setN (s : State) (t u : Nat) (x : NDom) : (s.setN t x).n u = if u = t then x else s.n u := n_setTile ..

@[simp] theorem State.n_setN_self (s : State) (t : Nat) (x : NDom) : (s.setN t x).n t = x := by simp [n_setN]

theorem State.n_modN (s : State) (t u : Nat) (f : NDom → NDom) : (s.modN t f).n u = if u = t then f (s.n t) else s.n u := n_setTile ..

@[simp] theorem State.n_modN_self (s : State) (t : Nat) (f : NDom → NDom) : (s.modN t f).n t = f (s.n t) := by simp [n_modN]

theorem State.n_modN_ne (s : State) {t u : Nat} (f : NDom → NDom) (h : u ≠ t) : (s.modN t f).n u = s.n u := by simp [n_modN, h]

@[simp] theorem State.c_setN (s : State) (t u : Nat) (x : NDom) : (s.setN t x).c u = s.c u := by
  refine (c_setTile ..).trans ?_
  split
  · subst_vars; rfl
  · rfl

@[simp] theorem State.c_modN (s : State) (t u : Nat) (f : NDom → NDom) : (s.modN t f).c u = s.c u := c_setN ..

@[simp] theorem State.frame_modN (s : State) (t u g : Nat) (f : NDom → NDom) : (s.modN t f).frame u g = s.frame u g := by
  simp [frame]

@[simp] theorem State.c_setSlate (s : State) (t u : Nat) (x : Slate) : (s.setSlate t x).c u = s.c u := by
  refine (c_setTile ..).trans ?_
  split
  · subst_vars; rfl
  · rfl

@[simp] theorem State.c_modSlate (s : State) (t u : Nat) (f : Slate → Slate) : (s.modSlate t f).c u = s.c u := c_setSlate ..

@[simp] theorem State.n_setSlate (s : State) (t u : Nat) (x : Slate) : (s.setSlate t x).n u = s.n u := by
  refine (n_setTile ..).trans ?_
  split
  · subst_vars; rfl
  · rfl

@[simp] theorem State.n_modSlate (s : State) (t u : Nat) (f : Slate → Slate) : (s.modSlate t f).n u = s.n u := n_setSlate ..

@[simp] theorem State.frame_modSlate (s : State) (t u g : Nat) (f : Slate → Slate) : (s.modSlate t f).frame u g = s.frame u g := by
  simp [frame]

theorem State.slate_modSlate (s : State) (t u : Nat) (f : Slate → Slate) :
    ((s.modSlate t f).tile u).slate = if u = t then f (s.tile t).slate else (s.tile u).slate := by
  refine (congrArg Tile.slate (tile_setTile ..)).trans ?_
  split <;> rfl

@[simp] theorem State.slate_modSlate_self (s : State) (t : Nat) (f : Slate → Slate) :
    ((s.modSlate t f).tile t).slate = f (s.tile t).slate := by simp [slate_modSlate]

@[simp] theorem State.slate_modC (s : State) (t u : Nat) (f : CDom → CDom) : ((s.modC t f).tile u).slate = (s.tile u).slate := by
  refine (congrArg Tile.slate (tile_setTile ..)).trans ?_
  split
  · subst_vars; rfl
  · rfl

@[simp] theorem State.slate_modN (s : State) (t u : Nat) (f : NDom → NDom) : ((s.modN t f).tile u).slate = (s.tile u).slate := by
  refine (congrArg Tile.slate (tile_setTile ..)).trans ?_
  split
  · subst_vars; rfl
  · rfl

/-! ### Frames -/

theorem CDom.frame_setFrame (c : CDom) (f g : Nat) (x : Frame) : (c.setFrame f x).frame g = if g = f then x else c.frame g :=
  AMap.getD_set ..

theorem CDom.frame_modFrame (c : CDom) (f g : Nat) (h : Frame → Frame) :
    (c.modFrame f h).frame g = if g = f then h (c.frame f) else c.frame g := frame_setFrame ..

@[simp] theorem CDom.frame_modFrame_self (c : CDom) (f : Nat) (h : Frame → Frame) : (c.modFrame f h).frame f = h (c.frame f) := by
  simp [frame_modFrame]

theorem CDom.frame_modFrame_ne (c : CDom) {f g : Nat} (h : Frame → Frame) (n : g ≠ f) : (c.modFrame f h).frame g = c.frame g := by
  simp [frame_modFrame, n]

theorem State.frame_modC (s : State) (t u g : Nat) (f : CDom → CDom) :
    (s.modC t f).frame u g = if u = t then (f (s.c t)).frame g else s.frame u g := by
  simp only [frame, c_modC]; split <;> rfl

@[simp] theorem State.frame_modC_self (s : State) (t g : Nat) (f : CDom → CDom) : (s.modC t f).frame t g = (f (s.c t)).frame g := by
  simp [frame_modC]

theorem State.frame_modFrame (s : State) (t f u g : Nat) (h : Frame → Frame) :
    (s.modFrame t f h).frame u g = if u = t ∧ g = f then h (s.frame t f) else s.frame u g := by
  simp only [modFrame, frame_modC, CDom.frame_modFrame]
  by_cases h1 : u = t
  · subst h1; by_cases h2 : g = f <;> simp [h2, frame]
  · simp [h1]

@[simp] theorem State.frame_modFrame_self (s : State) (t f : Nat) (h : Frame → Frame) :
    (s.modFrame t f h).frame t f = h (s.frame t f) := by simp [frame_modFrame]

/-! ### Hubs, Rims, partitions, functions, links -/

theorem State.hub_modHub (s : State) (f u : Nat) (g : Hub → Hub) : (s.modHub f g).hub u = if u = f then g (s.hub f) else s.hub u :=
  AMap.getD_set ..

@[simp] theorem State.hub_modHub_self (s : State) (f : Nat) (g : Hub → Hub) : (s.modHub f g).hub f = g (s.hub f) := by simp [hub_modHub]

theorem State.rim_modRim (s : State) (a u : Nat) (g : Rim → Rim) : (s.modRim a g).rim u = if u = a then g (s.rim a) else s.rim u :=
  AMap.getD_set ..

@[simp] theorem State.rim_modRim_self (s : State) (a : Nat) (g : Rim → Rim) : (s.modRim a g).rim a = g (s.rim a) := by simp [rim_modRim]

theorem State.part_modPart (s : State) (p u : Nat) (g : Partition → Partition) :
    (s.modPart p g).part u = if p < 64 ∧ u = p then g (s.part p) else s.part u := by
  by_cases h : p < 64
  · simpa [part, modPart, h] using AMap.getD_set ..
  · simp [part, modPart, h]

theorem State.part_modPart_self (s : State) {p : Nat} (h : p < 64) (g : Partition → Partition) : (s.modPart p g).part p = g (s.part p) := by
  simp [part_modPart, h]

@[simp] theorem State.part_modPart_none (s : State) {p : Nat} (h : 64 ≤ p) (g : Partition → Partition) (u : Nat) :
    (s.modPart p g).part u = s.part u := by simp [part_modPart, Nat.not_lt.2 h]

theorem State.vf_modVf (s : State) (p u : Nat) (g : Vf → Vf) : (s.modVf p g).vf u = if p < 64 ∧ u = p then g (s.vf p) else s.vf u := by
  by_cases h : p < 64
  · simpa [vf, modVf, h] using AMap.getD_set ..
  · simp [vf, modVf, h]

theorem State.vf_modVf_self (s : State) {p : Nat} (h : p < 64) (g : Vf → Vf) : (s.modVf p g).vf p = g (s.vf p) := by simp [vf_modVf, h]

theorem State.span_modSpan (s : State) (l u : Nat) (g : Span → Span) :
    (s.modSpan l g).span u = if u = l then g (s.span l) else s.span u := AMap.getD_set ..

@[simp] theorem State.span_modSpan_self (s : State) (l : Nat) (g : Span → Span) : (s.modSpan l g).span l = g (s.span l) := by
  simp [span_modSpan]

/-- Two updates of a link are one. -/
theorem State.modSpan_modSpan (s : State) (l : Nat) (f g : Span → Span) : (s.modSpan l f).modSpan l g = s.modSpan l fun x => g (f x) := by
  simp only [modSpan, span, AMap.getD_set_self, AMap.set_set]

/-! ### Held tokens -/

@[simp] theorem HeldTok.from_top (h : HeldTok) (fid slot : Nat) : (h.from fid slot).top = h.top := rfl
@[simp] theorem HeldTok.from_bun (h : HeldTok) (fid slot : Nat) : (h.from fid slot).bun = h.bun := rfl
@[simp] theorem HeldTok.from_port (h : HeldTok) (fid slot : Nat) : (h.from fid slot).port = h.port := rfl
@[simp] theorem HeldTok.from_val (h : HeldTok) (fid slot : Nat) : (h.from fid slot).val = h.val := rfl

/-- No token is lost or made where one enters. -/
theorem insertTok_perm (l : List HeldTok) (h : HeldTok) : (insertTok l h).Perm (h :: l) := by
  unfold insertTok
  split
  · next k _ => simpa using List.perm_middle (l₁ := l.take k) (l₂ := l.drop k) (a := h)
  · exact List.perm_append_singleton h l

/-! ### Instances -/

theorem CDom.insts_modFrame (c : CDom) (f : Nat) (g : Frame → Frame) : (c.modFrame f g).insts = c.insts := rfl

end Sys2Proof.Machine
end

