-- ==== Sys2Proof/Laws/Faults.lean ====
section
/-! SUPPORT. What taking a fault does and leaves: withdrawn waits, an aborted frame, a trap (R34, R35). -/

namespace Sys2Proof.Machine

/-! ### Withdrawn waits -/

@[simp] theorem State.c_withdrawWaits (s : State) (t id u : Nat) : (s.withdrawWaits t id).c u = s.c u := by
  simp only [State.c, State.tile, State.withdrawWaits]
  rw [AMap.getD_mapVal _ _ _ _ rfl]

@[simp] theorem State.frame_withdrawWaits (s : State) (t id u f : Nat) : (s.withdrawWaits t id).frame u f = s.frame u f := by
  simp [State.frame]

@[simp] theorem State.fshared_withdrawWaits (s : State) (t id u : Nat) : ((s.withdrawWaits t id).n u).fshared = (s.n u).fshared := by
  simp only [State.n, State.tile, State.withdrawWaits]
  rw [AMap.getD_mapVal _ _ _ _ rfl]

@[simp] theorem State.lines_withdrawWaits (s : State) (t id u : Nat) : ((s.withdrawWaits t id).n u).lines = (s.n u).lines := by
  simp only [State.n, State.tile, State.withdrawWaits]
  rw [AMap.getD_mapVal _ _ _ _ rfl]

@[simp] theorem State.withdrawWaits_hbm (s : State) (t id : Nat) : (s.withdrawWaits t id).hbm = s.hbm := rfl
@[simp] theorem State.withdrawWaits_hostMem (s : State) (t id : Nat) : (s.withdrawWaits t id).hostMem = s.hostMem := rfl
@[simp] theorem State.withdrawWaits_tick (s : State) (t id : Nat) : (s.withdrawWaits t id).tick = s.tick := rfl
@[simp] theorem State.withdrawWaits_iss (s : State) (t id : Nat) : (s.withdrawWaits t id).iss = s.iss := rfl

/-- The waits of several bundle instances withdrawn. -/
def State.withdrawAll (s : State) (t : Nat) (l : List Issue) : State := l.foldl (fun s x => s.withdrawWaits t x.id) s

@[simp] theorem State.c_withdrawAll (s : State) (t u : Nat) (l : List Issue) : (s.withdrawAll t l).c u = s.c u := by
  induction l generalizing s with
  | nil => rfl
  | cons x l ih => exact (ih _).trans (by simp)

@[simp] theorem State.frame_withdrawAll (s : State) (t u f : Nat) (l : List Issue) : (s.withdrawAll t l).frame u f = s.frame u f := by
  simp [State.frame]

@[simp] theorem State.fshared_withdrawAll (s : State) (t u : Nat) (l : List Issue) : ((s.withdrawAll t l).n u).fshared = (s.n u).fshared := by
  induction l generalizing s with
  | nil => rfl
  | cons x l ih => exact (ih _).trans (by simp)

@[simp] theorem State.lines_withdrawAll (s : State) (t u : Nat) (l : List Issue) : ((s.withdrawAll t l).n u).lines = (s.n u).lines := by
  induction l generalizing s with
  | nil => rfl
  | cons x l ih => exact (ih _).trans (by simp)

@[simp] theorem State.withdrawAll_hbm (s : State) (t : Nat) (l : List Issue) : (s.withdrawAll t l).hbm = s.hbm := by
  induction l generalizing s with
  | nil => rfl
  | cons x l ih => exact (ih _).trans rfl

@[simp] theorem State.withdrawAll_hostMem (s : State) (t : Nat) (l : List Issue) : (s.withdrawAll t l).hostMem = s.hostMem := by
  induction l generalizing s with
  | nil => rfl
  | cons x l ih => exact (ih _).trans rfl

/-! ### An aborted frame -/

/-- A fall of the counts of late tokens leaves the frames, the scratchpad and the stash. -/
theorem CDom.subDue_each (c : CDom) (l : List Orphan) :
    (l.foldl (fun (c : CDom) o => c.subDue o.inst 1) c).frames = c.frames ∧ (l.foldl (fun (c : CDom) o => c.subDue o.inst 1) c).scratch = c.scratch ∧
      (l.foldl (fun (c : CDom) o => c.subDue o.inst 1) c).stash = c.stash := by
  induction l generalizing c with
  | nil => exact ⟨rfl, rfl, rfl⟩
  | cons x l ih => exact ih (c.subDue x.inst 1)

@[simp] theorem CDom.frames_dropIssued (c : CDom) (g : Issue → Bool) : (c.dropIssued g).frames = c.frames := (c.subDue_each _).1
@[simp] theorem CDom.scratch_dropIssued (c : CDom) (g : Issue → Bool) : (c.dropIssued g).scratch = c.scratch := (c.subDue_each _).2.1
@[simp] theorem CDom.stash_dropIssued (c : CDom) (g : Issue → Bool) : (c.dropIssued g).stash = c.stash := (c.subDue_each _).2.2

@[simp] theorem CDom.frame_discardFrame (c : CDom) (f g : Nat) : (c.discardFrame f).frame g = c.frame g := by
  simp only [CDom.frame, CDom.discardFrame, CDom.frames_dropIssued]
@[simp] theorem CDom.scratch_discardFrame (c : CDom) (f : Nat) : (c.discardFrame f).scratch = c.scratch := c.scratch_dropIssued _
@[simp] theorem CDom.stash_discardFrame (c : CDom) (f : Nat) : (c.discardFrame f).stash = c.stash := c.stash_dropIssued _
@[simp] theorem CDom.scratch_dropJobs (c : CDom) (f : Nat) : (c.dropJobs f).scratch = c.scratch := rfl
@[simp] theorem CDom.scratch_modFrame (c : CDom) (f : Nat) (g : Frame → Frame) : (c.modFrame f g).scratch = c.scratch := rfl
@[simp] theorem CDom.stash_dropJobs (c : CDom) (f : Nat) : (c.dropJobs f).stash = c.stash := rfl
@[simp] theorem CDom.stash_modFrame (c : CDom) (f : Nat) (g : Frame → Frame) : (c.modFrame f g).stash = c.stash := rfl
@[simp] theorem CDom.stash_unnote (c : CDom) (x : Issue) : (c.unnote x).stash = c.stash := by
  simp only [CDom.unnote, CDom.modInst]; split <;> rfl
@[simp] theorem CDom.scratch_unnote (c : CDom) (x : Issue) : (c.unnote x).scratch = c.scratch := by
  simp only [CDom.unnote, CDom.modInst]; split <;> rfl
@[simp] theorem CDom.frame_unnote (c : CDom) (x : Issue) (f : Nat) : (c.unnote x).frame f = c.frame f := by
  simp only [CDom.unnote, CDom.modInst, CDom.frame]; split <;> rfl
@[simp] theorem CDom.frame_dropJobs (c : CDom) (f g : Nat) : (c.dropJobs f).frame g = c.frame g := rfl

/-- What an abort makes of the tile's C domain. -/
def CDom.aborted (c : CDom) (f : Nat) (words : List W64) : CDom :=
  ((c.discardFrame f).dropJobs f).modFrame f fun fr => { fr with st := .ending, abortRec := some words, park := .none }

theorem CDom.scratch_aborted (c : CDom) (f : Nat) (words : List W64) : (c.aborted f words).scratch = c.scratch := by
  simp only [CDom.aborted, CDom.scratch_modFrame, CDom.scratch_dropJobs, CDom.scratch_discardFrame]

theorem CDom.stash_aborted (c : CDom) (f : Nat) (words : List W64) : (c.aborted f words).stash = c.stash := by
  simp only [CDom.aborted, CDom.stash_modFrame, CDom.stash_dropJobs, CDom.stash_discardFrame]

theorem CDom.regs_aborted (c : CDom) (f g : Nat) (words : List W64) : ((c.aborted f words).frame g).regs = (c.frame g).regs := by
  rw [CDom.aborted, CDom.frame_modFrame]
  split
  · subst_vars
    show ((CDom.dropJobs _ _).frame _).regs = _
    rw [CDom.frame_dropJobs, CDom.frame_discardFrame]
  · rw [CDom.frame_dropJobs, CDom.frame_discardFrame]

/-- A frame that has aborted aborts no more. -/
theorem State.abortFrame_again (s : State) (t f : Nat) (site : Site) (i : FaultInfo) (h : (s.frame t f).abortRec ≠ none) :
    s.abortFrame t f site i = s := by
  rw [State.abortFrame]
  exact if_pos (Option.isSome_iff_ne_none.2 h)

/-- A frame that aborts: its waits are withdrawn, its instances discarded, its record kept. -/
theorem State.abortFrame_first (s : State) (t f : Nat) (site : Site) (i : FaultInfo) (h : (s.frame t f).abortRec = none) :
    s.abortFrame t f site i = (s.withdrawAll t ((s.c t).issued.filter fun x => x.set.frame == f)).modC t fun c =>
      c.aborted f (recordWords s.tick i.cause.code 0 i.lane site.bun i.slot t f (s.frame t f).task.stage site.block (s.frame t f).task.taskId
        (tagWord f site.inst site.p site.pd) i.addr (w64 (s.c t).commitSeq) i) := by
  rw [State.abortFrame]
  exact if_neg (by simpa [State.frame] using h)

/-! ### Stores and registers that taking a fault leaves -/

/-- u holds the memories, the stash sectors, the home lines and the frame registers that s holds. -/
def State.SameStore (s u : State) : Prop :=
  u.hbm = s.hbm ∧ u.hostMem = s.hostMem ∧ ∀ t,
    (u.c t).scratch = (s.c t).scratch ∧ (u.c t).stash = (s.c t).stash ∧ (u.n t).fshared = (s.n t).fshared ∧ (u.n t).lines = (s.n t).lines ∧
      ∀ f, (u.frame t f).regs = (s.frame t f).regs

theorem State.SameStore.refl (s : State) : s.SameStore s := ⟨rfl, rfl, fun _ => ⟨rfl, rfl, rfl, rfl, fun _ => rfl⟩⟩

theorem State.SameStore.trans {s u v : State} (h : s.SameStore u) (k : u.SameStore v) : s.SameStore v :=
  ⟨k.1.trans h.1, k.2.1.trans h.2.1, fun t =>
    ⟨(k.2.2 t).1.trans (h.2.2 t).1, (k.2.2 t).2.1.trans (h.2.2 t).2.1, (k.2.2 t).2.2.1.trans (h.2.2 t).2.2.1,
      (k.2.2 t).2.2.2.1.trans (h.2.2 t).2.2.2.1, fun f => ((k.2.2 t).2.2.2.2 f).trans ((h.2.2 t).2.2.2.2 f)⟩⟩

/-- A change of the C domain that leaves scratch, stash and the registers. -/
theorem State.sameStore_modC (s : State) (t : Nat) (g : CDom → CDom) (h : (g (s.c t)).scratch = (s.c t).scratch)
    (h' : (g (s.c t)).stash = (s.c t).stash) (k : ∀ f, ((g (s.c t)).frame f).regs = (s.frame t f).regs) : s.SameStore (s.modC t g) := by
  refine ⟨rfl, rfl, fun u => ⟨?_, ?_, by simp, by simp, fun f => ?_⟩⟩
  · rw [State.c_modC]; split
    · subst_vars; exact h
    · rfl
  · rw [State.c_modC]; split
    · subst_vars; exact h'
    · rfl
  · rw [State.frame_modC]; split
    · subst_vars; exact k f
    · rfl

theorem State.sameStore_withdrawAll (s : State) (t : Nat) (l : List Issue) : s.SameStore (s.withdrawAll t l) :=
  ⟨by simp, by simp, fun u => ⟨by simp, by simp, by simp, by simp, fun f => by simp⟩⟩

theorem State.sameStore_withdrawWaits (s : State) (t id : Nat) : s.SameStore (s.withdrawWaits t id) :=
  ⟨rfl, rfl, fun u => ⟨by simp, by simp, by simp, by simp, fun f => by simp⟩⟩

theorem State.sameStore_abortFrame (s : State) (t f : Nat) (site : Site) (i : FaultInfo) : s.SameStore (s.abortFrame t f site i) := by
  by_cases h : (s.frame t f).abortRec = none
  · rw [s.abortFrame_first t f site i h]
    exact (s.sameStore_withdrawAll t _).trans
      (State.sameStore_modC _ _ _ (CDom.scratch_aborted _ _ _) (CDom.stash_aborted _ _ _) fun g => CDom.regs_aborted _ _ _ _)
  · rw [s.abortFrame_again t f site i h]; exact .refl s

theorem State.sameStore_takeTrap (s : State) (t : Nat) (x : OpSet) (i : FaultInfo) : s.SameStore (s.takeTrap t x i) := by
  refine State.sameStore_modC _ _ _ ?_ ?_ fun g => ?_
  · dsimp only; split <;> rfl
  · dsimp only; split <;> rfl
  · dsimp only; split
    · rfl
    · rw [CDom.frame_modFrame]; split
      · subst_vars; rfl
      · rfl

/-- What holds of both branches holds of the choice. -/
theorem apply_ite_pred {α : Type} {p : α → Prop} (c : Prop) [Decidable c] {a b : α} (ha : c → p a) (hb : ¬c → p b) :
    p (if c then a else b) := by
  split
  · exact ha ‹_›
  · exact hb ‹_›

theorem State.sameStore_takeFault (s : State) (t : Nat) (x : OpSet) (i : FaultInfo) : s.SameStore (s.takeFault t x i) := by
  rw [State.takeFault]
  refine apply_ite_pred _ (fun _ => s.sameStore_takeTrap t x i) fun _ => s.sameStore_abortFrame t x.frame x.site i

/-- A fault of the bundle instance being issued writes no memory, no stash sector, no home line and no register. -/
theorem State.sameStore_fault (s : State) (i : FaultInfo) : s.SameStore (s.fault i) := by
  have a : State.SameStore (s.withdrawWaits s.iss.tile s.iss.id) { s.withdrawWaits s.iss.tile s.iss.id with iss := {} } :=
    ⟨rfl, rfl, fun _ => ⟨rfl, rfl, rfl, rfl, fun _ => rfl⟩⟩
  have b (u : State) : u.SameStore (u.modC s.iss.tile fun c => c.unnote s.iss) :=
    State.sameStore_modC _ _ _ (CDom.scratch_unnote _ _) (CDom.stash_unnote _ _) fun f => congrArg Frame.regs (CDom.frame_unnote _ _ f)
  exact (((s.sameStore_withdrawWaits _ _).trans a).trans (b _)).trans (State.sameStore_takeFault _ _ _ _)

/-! ### A trap -/

/-- The first trap of a frame: the trap registers are written and the frame is TRAPPED. -/
theorem State.takeTrap_frame (s : State) (t : Nat) (x : OpSet) (i : FaultInfo) (h : (s.frame t x.frame).st ≠ .trapped) :
    (s.takeTrap t x i).frame t x.frame =
      { s.frame t x.frame with st := .trapped, trapcause := w64 i.cause.code, traptag := tagWord x.frame x.inst x.p x.pd, trapaddr := i.addr,
                               trapslot := w64 (i.lane * 2 ^ 16 + x.bun * 2 ^ 8 + i.slot) } := by
  have h' : ¬ ((s.c t).frame x.frame).st = .trapped := h
  simp only [State.takeTrap, State.frame_modC_self]
  rw [if_neg (by exact h'), CDom.frame_modFrame_self]
  rfl

end Sys2Proof.Machine
end

