-- ==== Sys2Proof/Laws/Slots.lean ====
section
/-! SUPPORT. What the shared operations of the slots can do, each once: the outcome of a meaning that ends in one of them, and that
none writes a memory or a register (R30, R203, R312). -/

namespace Sys2Proof.Machine

/-! ### Outcomes of a meaning that ends in a shared operation -/

theorem deliver_delivers {i : Instr} {s : State} {d : Dst} {v : Val} (h : exec i s = .next (s.deliver d v)) : Delivers i s d 0 v := by
  constructor
  · intro h0; rw [h]; simp [State.deliver, h0, delivered, State.modIss]
  · intro f hf; rw [h]; simp [State.deliver, hf]

theorem raise_delivers {i : Instr} {s : State} {d : Dst} {fl : FpFlags} {v : Val} (h : exec i s = .next ((s.raiseFlags fl).deliver d v)) :
    Delivers i s d fl v := by
  have e : (s.raiseFlags fl).tgtsFault d.tgts = s.tgtsFault d.tgts := rfl
  constructor
  · intro h0; rw [h]; unfold State.deliver; rw [e, h0]; rfl
  · intro f hf; rw [h]; unfold State.deliver; rw [e, hf]; rfl

theorem vecResult_delivers {i : Instr} {s : State} {d : Dst} {g : Nat → W32 × FpFlags}
    (h : exec i s = .next (s.vecResult d ((List.range s.iss.set.len).map g))) : DeliversLanes i s d g :=
  raise_delivers (by rw [h]; rfl)

theorem vop_delivers {i : Instr} {s : State} {t : Ty} {d : Dst} {f : Nat → Nat → Nat → Nat × FpFlags} {a b c : Src}
    (h : exec i s = .next (s.vop t d f a b c)) : DeliversLanes i s d (lanes3 s t f a b c) :=
  vecResult_delivers h

theorem deliverY_delivers {i : Instr} {s : State} {d : YDst} {v : Val} (h : exec i s = .next (s.deliverY d v)) : DeliversY i s d v := by
  constructor
  · intro h0; rw [h]; simp [State.deliverY, h0]
  · intro f hf; rw [h]; simp [State.deliverY, hf]

theorem cp_buffers {i : Instr} {s : State} {e : Eff} {done : Option Target} (h : exec i s = .next (s.cp e done)) :
    Buffers i s { e with done := doneTok done } [done] := by
  constructor
  · intro h0; rw [h]; simp only [State.cp]; rw [h0 done (by simp)]
  · rintro ⟨t, ht, h1⟩
    simp only [List.mem_singleton] at ht
    subst ht
    obtain ⟨f, hf⟩ := Option.ne_none_iff_exists'.1 h1
    exact ⟨f, by rw [h]; simp only [State.cp]; rw [hf]⟩

theorem lateValue_buffers {i : Instr} {s : State} {e : Eff} {y : YDst} (h : exec i s = .next (s.lateValue y e)) :
    Buffers i s { e with val := y.tgts.head?.map fun t => t.held (.scalar 0), reg := y.dest.reg } [y.tgts.head?] := by
  have w : YDst.tgt? y = y.tgts.head? := by cases y <;> simp [YDst.tgt?, YDst.tgts]
  constructor
  · intro h0; rw [h]; simp only [State.lateValue]; rw [w, h0 _ (by simp)]
  · rintro ⟨t, ht, h1⟩
    simp only [List.mem_singleton] at ht
    subst ht
    obtain ⟨f, hf⟩ := Option.ne_none_iff_exists'.1 h1
    exact ⟨f, by rw [h]; simp only [State.lateValue]; rw [w, hf]⟩

/-! ### No shared operation writes a memory or a register -/

theorem State.sameStore_iss (s : State) (x : Issue) : s.SameStore { s with iss := x } := ⟨rfl, rfl, fun _ => ⟨rfl, rfl, rfl, rfl, fun _ => rfl⟩⟩

theorem State.sameStore_modIss (s : State) (g : Issue → Issue) : s.SameStore (s.modIss g) := s.sameStore_iss _

theorem State.sameStore_addWait (s : State) (k : Wait) (d e : Dest) : s.SameStore (s.addWait k d e) := s.sameStore_iss _

theorem State.sameStore_addEff (s : State) (e : Eff) : s.SameStore (s.addEff e) := s.sameStore_iss _

theorem State.sameStore_raiseFlags (s : State) (f : FpFlags) : s.SameStore (s.raiseFlags f) := s.sameStore_iss _

theorem State.sameStore_deliver (s : State) (d : Dst) (v : Val) : s.SameStore (s.deliver d v) := by
  unfold State.deliver
  split
  · exact s.sameStore_fault _
  · exact s.sameStore_iss _

theorem State.sameStore_deliverY (s : State) (d : YDst) (v : Val) : s.SameStore (s.deliverY d v) := by
  unfold State.deliverY
  split
  · exact s.sameStore_fault _
  · exact s.sameStore_iss _

theorem State.sameStore_twoTargets (s : State) d v w : s.SameStore (s.twoTargets d v w) := by
  unfold State.twoTargets
  split
  · exact s.sameStore_fault _
  · exact s.sameStore_iss _

theorem State.sameStore_vecResult (s : State) (d : Dst) l : s.SameStore (s.vecResult d l) :=
  (s.sameStore_modIss _).trans (State.sameStore_deliver _ _ _)

theorem State.sameStore_vop (s : State) t d f a b c : s.SameStore (s.vop t d f a b c) := s.sameStore_vecResult _ _

theorem State.sameStore_cp (s : State) (e : Eff) (done : Option Target) : s.SameStore (s.cp e done) := by
  unfold State.cp
  split
  · exact s.sameStore_fault _
  · exact s.sameStore_iss _

theorem State.sameStore_cpName (s : State) op a b e mask bad done : s.SameStore (s.cpName op a b e mask bad done) := by
  unfold State.cpName
  split
  · exact s.sameStore_fault _
  · split
    · exact s.sameStore_fault _
    · exact s.sameStore_cp _ _

theorem State.sameStore_lateValue (s : State) (y : YDst) (e : Eff) : s.SameStore (s.lateValue y e) := by
  unfold State.lateValue
  split
  · exact s.sameStore_fault _
  · exact s.sameStore_iss _

theorem State.sameStore_reading (s : State) k v : s.SameStore (s.reading k v).2 := by
  unfold State.reading
  split
  · unfold State.readUnder
    dsimp only
    split <;> exact ⟨rfl, rfl, fun u => ⟨by simp, by simp, by simp, by simp, fun f => by simp⟩⟩
  · exact .refl s

theorem State.sameStore_orderWait (s : State) k done : s.SameStore (s.orderWait k done) := by
  unfold State.orderWait
  split
  · exact s.sameStore_fault _
  · exact s.sameStore_iss _

theorem State.sameStore_doLoad (s : State) a b c d e f : s.SameStore (s.doLoad a b c d e f) := by
  unfold State.doLoad
  split
  · exact s.sameStore_fault _
  · dsimp only
    split <;> exact s.sameStore_iss _

theorem State.sameStore_buffer (s : State) a b c d e f : s.SameStore (s.buffer a b c d e f) := by
  unfold State.buffer
  split
  · exact s.sameStore_fault _
  · exact s.sameStore_iss _

theorem State.sameStore_atomic (s : State) a b c d e f g h i : s.SameStore (s.atomic a b c d e f g h i) := by
  unfold State.atomic
  dsimp only
  repeat' split
  all_goals first | exact s.sameStore_fault _ | exact s.sameStore_iss _

end Sys2Proof.Machine
end

