-- ==== Sys2Proof/Tests/Slice0.lean ====
section
/-! SUPPORT. The tests of this slice: well-formedness refuses, words decode, the examples of the spec, and for every statement
with hypotheses a state and operands that meet them. Expected values come from the spec's text and examples. -/

namespace Sys2Proof.Tests

open Machine

-- Each `decide +kernel` waits until everything before it is checked: elaborated side by side, the tests below would each
-- hold a waiting thread with its own stack. One after the other, they need one.
set_option Elab.async false

/-! ### Small states -/

def words (l : List Nat) : AMap W64 := (List.range l.length).map fun k => (k, w64 (l.getD k 0))

def frame (r : List Nat) : Frame := { st := .active, regs := words r, key := 0x12345, task := { codekb := 4, scrkb := 4, privkb := 4 } }

def opSet (bun len : Nat) (ports : AMap Val) : OpSet := ⟨5, 1, 0, 0, bun, 0, ports, 0, 0, len, true, 0, 0, false, [], false, []⟩

/-- Frame 5 of tile 0 issues bundle 0 of block 0 at depth 0, with registers f0, f1, … and a run of 4 lanes. -/
def bench (r : List Nat) (f : Frame → Frame := id) (i : Inst → Inst := id) (c : CDom → CDom := id) : State :=
  let fr := f (frame r)
  let dom : CDom := c { frames := [(5, fr)], insts := [(1, i (Inst.blank 5))] }
  let ports : AMap Val := [(0, .scalar 7), (1, .vector 0 [1, 2, 3, 4]), (2, .vector 0 [0, 1, 0, 1])]
  { State.reset with
    tiles := [(0, { c := dom })]
    iss := { active := true, id := 7, set := opSet 0 4 ports, frame := fr, inst := 1 } }

/-- The scalar that an operation leaves in latch b0. -/
def latch0 (i : Instr) (s : State) : Option W64 :=
  match exec i s with
  | .next u => (u.iss.latches.get? 0).map fun e => e.2.word
  | _ => none

/-- The flags an operation raises. -/
def flags (i : Instr) (s : State) : Option FpFlags :=
  match exec i s with
  | .next u => some u.iss.flags
  | _ => none

/-- The cause of the frame's abort after an operation. -/
def abortCause (i : Instr) (s : State) : Option Nat :=
  match exec i s with
  | .next u => (u.frame 0 5).abortRec.map fun r => (r.getD 1 0).toNat % 256
  | _ => none

/-! ### Well-formedness: an ill-formed term for each check -/

def same (b p : Nat) : Option Target := some ⟨BitVec.ofNat 5 b, BitVec.ofNat 2 p, .same⟩
def spawn (b p : Nat) : Option Target := some ⟨BitVec.ofNat 5 b, BitVec.ofNat 2 p, .spawn⟩
def tgt (t : Option Target) : Dst := .targets t none

theorem test_wf_accepts : (Instr.add .i32 (.p 0) .one (tgt (same 2 1))).wellFormed = true ∧
    (Instr.ldv 2 (.f 1) .zero .zero (.latch 0) none).wellFormed = true ∧ (Instr.barw (.f 0) .one .zero 4 (.target (same 1 0))).wellFormed = true := by decide +kernel

theorem test_wf_scalar_types : (Instr.add .f32 (.p 0) .one noDst).wellFormed = false ∧ (Instr.absOp .n32 (.p 0) noDst).wellFormed = false ∧
    (Instr.bfx .i32 (.p 0) .one noDst).wellFormed = false ∧ (Instr.fadd .e4m3 (.p 0) .one noDst).wellFormed = false ∧
    (Instr.fcmp .e2m1 (.p 0) .one noDst).wellFormed = false ∧ (Instr.fcvt .i16x2 (.p 0) .one .one noDst).wellFormed = false ∧
    (Instr.fclass .i32 (.p 0) noDst).wellFormed = false := by decide +kernel

theorem test_wf_vector_types : (Instr.vadd .i64 (.p 0) .one noDst).wellFormed = false ∧ (Instr.vfma .i32 (.p 0) .one .one noDst).wellFormed = false ∧
    (Instr.vabs .n32 (.p 0) noDst).wellFormed = false ∧ (Instr.vand .f32 (.p 0) .one noDst).wellFormed = false ∧
    (Instr.vcvt .i16x2 (.p 0) .one .one noDst).wellFormed = false ∧ (Instr.vcvti .i16 (.p 0) .one noDst).wellFormed = false ∧
    (Instr.vpack .i32 (.p 0) .zero .zero noDst).wellFormed = false ∧ (Instr.vpack .i8 (.p 0) .one .zero noDst).wellFormed = false ∧
    (Instr.vunpk .f32 (.p 0) .one noDst).wellFormed = false ∧ (Instr.vsum .bf16 (.p 0) noDst).wellFormed = false := by decide +kernel

theorem test_wf_destinations : (Instr.add .i32 (.p 0) .one (tgt (spawn 2 1))).wellFormed = false ∧ (Instr.vadd .i32 (.p 0) .one (.reg 3)).wellFormed = false ∧
    (Instr.vqnt (.p 0) .one (.targetLatch none 1)).wellFormed = false ∧ (Instr.steer (.p 0) .one (tgt (same 2 1))).wellFormed = false ∧
    (Instr.merge (tgt (same 2 1))).wellFormed = false ∧ (Instr.exitOp (.p 0) .one (tgt (some ⟨2, 1, .path0⟩))).wellFormed = false ∧
    (Instr.retb (.p 0) .one (tgt (same 2 1))).wellFormed = false ∧ (Instr.loop (.p 0) .one .one (tgt (some ⟨2, 1, .next⟩))).wellFormed = false ∧
    (Instr.join (.p 0) .one .one (.targetLatch none 1)).wellFormed = false ∧ (Instr.qtime (.p 0) (tgt (some ⟨2, 1, .next⟩))).wellFormed = false ∧
    (Instr.msort 0 (.p 0) .one (.latch 1)).wellFormed = false := by decide +kernel

theorem test_wf_memory : (Instr.ldv 3 (.f 1) .zero .zero (.latch 0) none).wellFormed = false ∧ (Instr.ldv 2 (.f 1) .zero .zero (.reg 0) none).wellFormed = false ∧
    (Instr.ld 2 (.f 1) .zero .zero (.target (spawn 1 0)) none).wellFormed = false ∧ (Instr.ld 2 (.f 1) .zero .zero (.latch 0) (spawn 1 0)).wellFormed = false ∧
    (Instr.aadd 0 1 (.f 1) .one .zero (.target none) none).wellFormed = false ∧ (Instr.aadd 0 2 (.f 1) .one .zero (.reg 1) none).wellFormed = false ∧
    (Instr.afadd2 0 3 (.f 1) .one .zero .zero (.target none) none).wellFormed = false ∧ (Instr.pfence 3 .zero none).wellFormed = false := by decide +kernel

theorem test_wf_system : (Instr.wuntil (.f 1) .zero (.reg 2)).wellFormed = false ∧ (Instr.csrr .zero 0 .none).wellFormed = false ∧
    (Instr.csrr .zero 0 (.target (spawn 1 0))).wellFormed = false ∧ (Instr.watchFlip true (.f 1) .one .zero 0 (.reg 1)).wellFormed = false ∧
    (Instr.tagq 3 (.f 1) noDst).wellFormed = false ∧ (Instr.pubr 3 (.f 1) .one .one .zero none).wellFormed = false ∧
    (Instr.coll 3 (.f 1) .one .one .zero none).wellFormed = false ∧ (Instr.msort 3 (.p 0) .one noDst).wellFormed = false ∧
    (Instr.tlbinvAll (.f 1) .one .zero .none).wellFormed = false ∧ (Instr.tlbinvAsid (.f 1) .one .zero .none).wellFormed = false ∧
    (Instr.watchArrive false (.f 1) .one .zero 0 (.reg 1)).wellFormed = false ∧ (Instr.watchLast false (.f 1) .one .zero 0 (.reg 1)).wellFormed = false ∧
    (Instr.watchFlip false (.f 1) .one .zero 0 (.reg 1)).wellFormed = false := by decide +kernel

/-! ### Decoding: words written out from the encodings of the spec's examples -/

theorem test_decode_s : decodeSlot .s 0x0C4ABBA28C00000#60 = .ok (.shl .n64 .iter .four (.targets (same 3 0) none)) ∧
    decodeSlot .s 0x3108A8A00000000#60 = .ok (.spq (.p 2) (.latch 0)) := by decide +kernel

theorem test_decode_v : decodeSlot .v 0x545828A28D00000#60 = .ok (.vsum .n32 (.p 0) (.targets (same 3 1) none)) := by decide +kernel

theorem test_decode_sa : decodeSlot .sa 0x10A921A28C00000#60 = .ok (.aadd 2 2 (.b 0) (.p 1) .zero .none none) ∧
    decodeSlot .sa 0x013864A3DC00000#60 = .ok (.st 0 3 (.p 1) (.b 0) .sixteen .zero none) := by decide +kernel

theorem test_loop_word : decodeSlot .s 0x42017DC68562100#60 = .ok (.loop (.f 5) .sixteen (.lit 1) (.targets (spawn 1 1) (same 1 0))) := by decide +kernel

theorem test_decode_table_word : decodeTableWord 512 (bundleOf 0 0x011831A28900000 0).toNat = some (.add .i32 (.p 0) (.lit 1) (.targets (same 2 1) none)) := by decide +kernel

/-! ### Examples of the spec (R226, R231, R241) -/

theorem test_div_examples : latch0 (.div .i8 (.f 0) (.f 1) (.latch 0)) (bench [0xF9, 2]) = some (BitVec.ofInt 64 (-3)) ∧
    latch0 (.rem .i8 (.f 0) (.f 1) (.latch 0)) (bench [0xF9, 2]) = some (BitVec.ofInt 64 (-1)) ∧
    latch0 (.div .n8 (.f 0) (.f 1) (.latch 0)) (bench [7, 0]) = some 255 ∧ latch0 (.rem .n8 (.f 0) (.f 1) (.latch 0)) (bench [7, 0]) = some 7 ∧
    latch0 (.div .i8 (.f 0) (.f 1) (.latch 0)) (bench [0x80, 0xFF]) = some 0xFFFFFFFFFFFFFF80 := by decide +kernel

theorem test_fcvt_to_e4m3 : latch0 (.fcvt .f32 (.f 0) (.f 1) (.f 2) (.latch 0)) (bench [0x43960000, 3, 0] fun f => { f with fs := [(3, 0x83)] }) = some 0x79 ∧
    flags (.fcvt .f32 (.f 0) (.f 1) (.f 2) (.latch 0)) (bench [0x43960000, 3, 0] fun f => { f with fs := [(3, 0x83)] }) = some Fp.nx := by decide +kernel

theorem test_fcvt_to_i32 : latch0 (.fcvt .f32 (.f 0) (.f 1) (.f 2) (.latch 0)) (bench [0x4F800000, 0, 2]) = some 0x7FFFFFFF ∧
    flags (.fcvt .f32 (.f 0) (.f 1) (.f 2) (.latch 0)) (bench [0x4F800000, 0, 2]) = some Fp.nv := by decide +kernel

theorem test_add_wraps : latch0 (.add .i32 (.f 0) (.f 1) (.latch 0)) (bench [0x7FFFFFFF, 1]) = some 0xFFFFFFFF80000000 ∧
    latch0 (.add .n32 (.f 0) (.f 1) (.latch 0)) (bench [0xFFFFFFFF, 1]) = some 0 := by decide +kernel

/-! ### Witnesses: scalar operations -/

/-- The two cases of Delivers: targets allowed here, and a tag-op that faults. -/
theorem test_targets_witness : (bench []).tgtsFault (tgt (same 2 1)).tgts = none ∧ (bench []).tgtsFault (tgt (some ⟨2, 1, .exit⟩)).tgts ≠ none ∧
    (bench []).tgtsFault (tgt (some ⟨2, 1, .strip⟩)).tgts ≠ none ∧ lateFault (bench []).inst.ctx (same 1 0) = none ∧
    lateFault (bench []).inst.ctx (some ⟨1, 0, .next⟩) ≠ none := by decide +kernel

theorem test_ResAndOpndOfIntegerTypes_witness : Ty.i8.signed = true ∧ Ty.i64.signed = true ∧ Ty.n8.signed = false ∧ Ty.n64.signed = false := by decide +kernel

theorem test_DivideAndRemainderCases_witness : opnd .i32 ((bench [5, 0]).sc (.f 1)) = 0 ∧ opnd .i32 ((bench [0x80000000, 0xFFFFFFFF]).sc (.f 0)) = -(2 ^ 31) ∧
    opnd .i32 ((bench [0x80000000, 0xFFFFFFFF]).sc (.f 1)) = -1 ∧ opnd .i32 ((bench [5, 0xFFFFFFFF]).sc (.f 1)) ≠ 0 := by decide +kernel

/-- An empty field, a field of one bit at position 63, and one of 64 bits. -/
theorem test_BitFieldExtractAndInsert_witness : (min (((bench [0]).sc (.f 0)).toNat / 64 % 128) (64 - ((bench [0]).sc (.f 0)).toNat % 64)) = 0 ∧
    min (((bench [63 + 64 * 127]).sc (.f 0)).toNat / 64 % 128) (64 - ((bench [63 + 64 * 127]).sc (.f 0)).toNat % 64) = 1 ∧
    min (((bench [64 * 64]).sc (.f 0)).toNat / 64 % 128) (64 - ((bench [64 * 64]).sc (.f 0)).toNat % 64) = 64 := by decide +kernel

theorem test_ScalarFloatOperations_witness : 31 < ((bench [32]).sc (.f 0)).toNat ∧ ((bench [31]).sc (.f 0)).toNat ≤ 31 ∧ 8 < ((bench [9]).sc (.f 0)).toNat ∧
    FmtSlot.fmt ((bench [] fun f => { f with fs := [(31, 5)] }).iss.frame.fsOf 31) = 5 ∧ FmtSlot.fmt ((bench []).iss.frame.fsOf 31) ≠ 5 ∧
    FmtSlot.fmt ((bench []).iss.frame.fsOf 31) ≠ 6 ∧ 1 ≤ ((bench [8]).sc (.f 0)).toNat ∧ ((bench [8]).sc (.f 0)).toNat ≤ 8 := by decide +kernel

theorem test_NameWordsAreBuilt_witness : ((bench [2 ^ 32]).sc (.f 0)).toNat / 2 ^ 32 ≠ 0 ∧ ((bench [2 ^ 32 - 1, 4095]).sc (.f 0)).toNat / 2 ^ 32 = 0 ∧
    ((bench [0, 4095]).sc (.f 1)).toNat ≤ 4095 ∧ 4095 < ((bench [4096]).sc (.f 0)).toNat ∧ 65535 < ((bench [65536]).sc (.f 0)).toNat ∧
    ((bench [65535]).sc (.f 0)).toNat ≤ 65535 := by decide +kernel

/-- The pointers of the owner key 0x12345: its private window is 0xC·key·offset. -/
def privPtr (off : Nat) : Nat := 0xC * 2 ^ 60 + 0x12345 * 2 ^ 40 + off
def scrPtr (off : Nat) : Nat := 0xD * 2 ^ 60 + 0x12345 * 2 ^ 40 + off

theorem test_WindowOperations_witness : ptrCheck (bench []).acc (w64 (privPtr 4095)) 1 1 = 0 ∧ ptrKind (w64 (privPtr 4095)) = 1 ∧
    ptrCheck (bench []).acc (w64 (privPtr 4096)) 1 1 = 5 ∧ ptrCheck (bench []).acc (w64 (privPtr 0 + 2 ^ 40)) 1 1 = 3 ∧
    mkwin (bench []).acc 0 1 4095 = some (w64 (privPtr 4095)) ∧ mkwin (bench []).acc 0 1 4096 = none ∧
    mkwin ⟨0x12345, 64, 4, 1⟩ 0 3 10485759 ≠ none := by decide +kernel

theorem test_SteersAndTerminals_witness : (bench [1]).sc (.f 0) ≠ 0 ∧ (bench [0]).sc (.f 0) = 0 ∧ tgt (same 1 0) ≠ .latch 0 ∧ tgt (same 1 0) ≠ .latch 3 ∧
    (bench []).inst.issuedSpawn = false ∧ (bench [] id fun i => { i with issuedSpawn := true }).inst.issuedSpawn = true ∧
    ((bench [4032]).sc (.f 0)).toNat % 2 ^ 20 % 64 = 0 ∧ ((bench [4032]).iss.set.block + 4032) % 2 ^ 20 < (bench [4032]).iss.frame.task.codekb * 1024 ∧
    ((bench [4033]).sc (.f 0)).toNat % 2 ^ 20 % 64 ≠ 0 ∧ (bench [4096]).iss.frame.task.codekb * 1024 ≤ ((bench [4096]).iss.set.block + 4096) % 2 ^ 20 ∧
    (bench [] id fun i => { i with ctx := .call 3 }).inst.ctx = .call 3 ∧ (bench []).inst.ctx = .root := by decide +kernel

theorem test_RootIsNoCall : ∀ n, (bench []).inst.ctx ≠ .call n := by
  intro n h
  rw [show (bench []).inst.ctx = .root by decide +kernel] at h
  cases h

theorem test_LoopsAndCallsAreRecorded_witness : (bench []).inst.issuedSpawn = false ∧ (bench []).inst.term = none ∧ (bench []).inst.depth < 7 ∧
    (bench [] id fun i => { i with depth := 6 }).inst.depth < 7 ∧ 7 ≤ (bench [] id fun i => { i with depth := 7 }).inst.depth ∧
    (bench [] id fun i => { i with depth := 7 }).inst.term = none ∧ (bench []).tgtsFault (Dst.targets (spawn 1 0) (same 1 1)).tgts = none := by decide +kernel

theorem test_QueriesOfAFrame_witness : (bench []).iss.frame.pmodeNow = false ∧ ((bench [0x3FF]).sc (.f 0)).toNat < 0x400 ∧
    0x400 ≤ ((bench [0x400]).sc (.f 0)).toNat ∧ ((bench [0x7FF]).sc (.f 0)).toNat ≤ 0x7FF ∧ 0x7FF < ((bench [0x800]).sc (.f 0)).toNat ∧
    ((bench [5 * 2 ^ 26 + 2 ^ 11]).sc (.f 0)).toNat / 2 ^ 26 % 64 = 5 ∧
    (((bench []).c 0).inst? (((bench [5 * 2 ^ 26 + 2 ^ 11]).sc (.f 0)).toNat / 2 ^ 11 % 2 ^ 15)).isSome = true ∧
    ((bench []).c 0).inst? 2 = none ∧ (bench [] fun f => { f with pmodeNow := true }).iss.frame.pmodeNow = true ∧
    ((bench []).tile 0).slate.replaying = false ∧ (5 : Nat) ≠ 63 := by decide +kernel

/-! ### Witnesses: vector operations -/

theorem test_VectorConversionsAndPacking_witness : 31 < ((bench [32]).sc (.f 0)).toNat ∧ ((bench [31, 31]).sc (.f 1)).toNat < 32 ∧
    32 ≤ ((bench [32]).sc (.f 0)).toNat ∧ 8 < ((bench [9]).sc (.f 0)).toNat % 16 ∧ ((bench [24]).sc (.f 0)).toNat % 16 = 8 ∧
    ((bench [1]).sc (.f 0)).toNat % 16 = 1 ∧ ((bench [5]).sc (.f 0)).toNat % 16 = 5 ∧ ((bench [16]).sc (.f 0)).toNat % 16 = 0 ∧
    FmtSlot.fmt ((bench [] fun f => { f with fs := [(0, 9)] }).iss.frame.fsOf 0) = 9 ∧ FmtSlot.fmt ((bench []).iss.frame.fsOf 0) = 0 ∧
    FmtSlot.fmt ((bench [] fun f => { f with fs := [(2, 2)] }).iss.frame.fsOf 2) = 2 ∧ 4 < ((bench [5]).sc (.f 0)).toNat ∧
    ((bench [4]).sc (.f 0)).toNat ≤ 4 ∧ Ty.f32 ≠ .i8 := by decide +kernel

/-- Slot 3 holds Q8 with scale 1, slot 4 MXFP8. -/
def quant (r : List Nat) : State := bench r fun f => { f with fs := [(3, w64 (7 + 0x3C00 * 2 ^ 11)), (4, 6)] }

theorem test_VectorQuantization_witness : 31 < ((quant [32]).sc (.f 0)).toNat ∧ ((quant [31]).sc (.f 0)).toNat ≤ 31 ∧
    FmtSlot.isQ ((quant []).iss.frame.fsOf 3) = true ∧ FmtSlot.fmt ((quant []).iss.frame.fsOf 4) = 6 ∧ FmtSlot.isQ ((quant []).iss.frame.fsOf 0) = false ∧
    FmtSlot.fmt ((quant []).iss.frame.fsOf 0) = 0 ∧ 256 ≤ ((quant [256]).sc (.f 0)).toNat ∧ ((quant [255]).sc (.f 0)).toNat < 256 ∧
    (quant []).tgtsFault ((same 1 0).toList ++ (same 1 1).toList) = none := by decide +kernel

theorem test_VectorSpecialLaneAndReductions_witness : 0 < (bench []).iss.set.len ∧ 0 < min ((bench [1]).sc (.f 0)).toNat 32 ∧
    min ((bench [0]).sc (.f 0)).toNat 32 = 0 ∧ min ((bench [33]).sc (.f 0)).toNat 32 = 32 ∧
    (bench []).tgtsFault ((same 1 0).toList ++ (none : Option Target).toList) = none ∧ (redLanes .i32 ((bench []).vec (.p 1))).length = 4 := by decide +kernel

theorem test_vsum_adds_lanes : latch0 (.vsum .i32 (.p 1) (.latch 0)) (bench []) = some 10 ∧ latch0 (.vminr .i32 (.p 1) (.latch 0)) (bench []) = some 1 := by
  decide +kernel

/-! ### Witnesses: matrix array and tile slots -/

/-- A tile slot of 4 KiB at the scratch area's start. -/
def tslot (k : Nat) (full sub : Bool) : Slot where
  frame := some 5
  taskId := 0
  localIx := k
  base := 0
  off := 0
  size := 4096
  sub := if sub then some ⟨.subn, 0, 0, 0, false, true⟩ else none
  sections := []
  full := full
  ver := 0
  fs := 0
  inUse := 0
  usedBy := []
  emptyAsked := false
  byTask := false

/-- acc0 of frame 5 is physical accumulator 2, configured for 8 × 8 × 8 FP16; slot 1 is EMPTY, slot 2 FULL, slot 3 carries a
subscription. -/
def mat (r : List Nat) (jobs : List Job := []) : State :=
  bench r (fun f => { f with fs := [(0, 1)], accs := [(0, 2)], slots := [(1, 1), (2, 2), (3, 3)] }) id fun c =>
    { c with accs := [(2, { frame := some 5, conf := some 128, jobs := jobs })],
             slots := [(1, tslot 1 false false), (2, tslot 2 true false), (3, tslot 3 false true)] }

theorem test_AccumulatorOperationsAreQueued_witness : (mcfgMode 128 1 1).isSome = true ∧ (mat []).accFor 0 = some 2 ∧ (mat []).accFor 1 = some 0 ∧
    (mat []).jobsUsed < 256 ∧ mcfgMode 127 1 1 = none ∧ ((mat []).configured 0).isSome = true ∧ 1 ≤ ((mat [65535]).sc (.f 0)).toNat ∧
    ((mat [65535]).sc (.f 0)).toNat ≤ 65535 ∧ ((mat [2 ^ 32 - 1]).sc (.f 0)).toNat < 2 ^ 32 ∧ (mat []).accInteger 0 = false ∧
    ((mat []).mview.slots.get? (MDesc.slot 0x102)).map VSlot.size = some 4096 ∧ MDesc.fs 0x1000000 = MConf.fsa 128 ∧
    MDesc.ok 0x1000000 0x102 (operandRow 1 (MConf.k 128)) = true ∧ MDesc.fits 0x1000000 0x102 (MConf.rows 128) 4096 = true ∧
    MDesc.ok 0x1000000 0x102 (rowSize 1 (MConf.cols 128)) = true ∧ MDesc.rep 0x102 = 1 ∧ loadcOk 1 false = true ∧ drainOk 1 = true ∧
    ((mat []).mview.accs.get? 0).map VAcc.conf = some (some 128) ∧
    256 ≤ (mat [] (List.replicate 256 ⟨.mzero 0, 0, 0, ⟨0, 0, 0, 0, 0⟩, []⟩)).jobsUsed ∧
    ((mat [] (List.replicate 256 ⟨.mzero 0, 0, 0, ⟨0, 0, 0, 0, 0⟩, []⟩)).configured 0).isSome = true ∧ ((mat []).configured 1).isNone = true := by decide +kernel

theorem test_SortsAndTileSlots_witness : 1024 < ((mat [1025]).sc (.f 0)).toNat ∧ 1 ≤ ((mat [1024]).sc (.f 0)).toNat ∧
    ptrFault (mat []).acc (w64 (privPtr 0)) (4 * 1024) 4 0 = none ∧ isLocal (w64 (privPtr 0)) = true ∧
    (mat []).tgtsFault ((same 1 0).toList ++ (same 1 1).toList) = none ∧ (((mat []).c 0).frame 5).accs.get? 0 = some 2 ∧
    (((mat []).c 0).frame 5).accs.get? 1 = none ∧ ((mat []).mview.slots.has 255) = false ∧ (mat []).freeSlot = some 0 ∧
    ((mat [128 * 2 ^ 20 + 3968]).sc (.f 0)).toNat % 2 ^ 20 + 128 ≤ (mat []).iss.frame.task.scrkb * 1024 ∧
    ((mat []).mview.slots.get? 1).map VSlot.st = some 0 ∧ ((mat []).mview.slots.get? 1).map VSlot.subbed = some false ∧
    ((mat []).mview.slots.get? 2).map VSlot.st = some 2 ∧ ((mat []).mview.slots.get? 3).map VSlot.subbed = some true ∧
    ((mat []).mview.accs.all fun v => v.2.a.isNone && v.2.b.isNone) = true ∧
    ((mat [2]).querySlot (.f 0)).map Slot.full = some true ∧ ((mat [1]).querySlot (.f 0)).map Slot.stateNum = some 0 ∧
    ((mat [1]).querySlot (.f 0)).map Slot.full = some false ∧ ((mat [2]).querySlot (.f 0)).map Slot.stateNum = some 2 ∧
    (mat [9]).querySlot (.f 0) = none ∧ ((mat [3968]).sc (.f 0)).toNat + 128 ≤ 4096 := by decide +kernel

/-! ### Witnesses: loads, stores, atomics and order -/

/-- A local word read at once, and a global one that is waited for; f0 holds the pointer, f1 the limit of its pair. -/
theorem test_LoadsDeliverOrWait_witness : (bench []).tgtsFault ((VDst.target (same 1 0)).tgts ++ (same 1 1).toList) = none ∧
    (bench [privPtr 8]).lanesFault [adda ((bench [privPtr 8]).sc (.f 0)) 0] 8 = none ∧ ((bench []).loadEl (w64 (privPtr 8)) 8 true).val.isSome = true ∧
    (bench [4096]).lanesFault [adda ((bench [4096]).sc (.f 0)) 0] 8 = none ∧ ((bench []).loadEl 4096 8 true).val = none ∧
    ((bench [privPtr 0, 5]).indexed (.f 0) (.p 1) 4).toOption = some [w64 (privPtr 4), w64 (privPtr 8), w64 (privPtr 12), w64 (privPtr 16)] ∧
    ((bench [2] (fun f => { f with ags := [(2, 0)] }) id fun c => { c with ags := [(0, ⟨5, some ⟨64, 1, 4, [4], [8]⟩⟩)] }).genLanes (.f 0) .zero 4).toOption =
      some [64, 72, 80, 88] := by decide +kernel

theorem test_AccessChecksAndLocalElements_witness : (bench [privPtr 4096]).lanesFault [adda ((bench [privPtr 4096]).sc (.f 0)) 0] 8 ≠ none ∧
    ((bench [privPtr 0, 4]).indexed (.f 0) (.p 1) 4).toOption = none ∧ ((bench [2]).genLanes (.f 0) .zero 4).toOption = none ∧
    0 < (bench []).iss.set.len ∧ ((bench [privPtr 0, 1]).pairLimit (.f 0)).toNat ≤ (((bench [privPtr 0, 1]).vec (.p 1)).getD 0 0).toNat ∧
    isLocal (w64 (scrPtr 0)) = true ∧ (∀ k < 8, (bench []).forwarded (w64 (scrPtr 0)) (ptrOff (w64 (scrPtr 0)) + k) = none) := by decide +kernel

/-- A generator of 4 elements of 4 bytes in f0 = 2. -/
def genState : State :=
  bench [2] (fun f => { f with ags := [(2, 0)] }) id fun c => { c with ags := [(0, ⟨5, some ⟨64, 1, 4, [4], [8]⟩⟩)] }

/-- A store of bundle 3 that the bundle being issued follows is forwarded. -/
theorem test_forwarding : ((bench [] id fun i => { i with stores := [⟨3, [⟨0, w64 (scrPtr 0), 1, 0xAB⟩], 1, false, none, 8, 0, 0⟩] }).modIss fun x =>
    { x with set := { x.set with bun := 4, chain := [8] } }).forwarded (w64 (scrPtr 0)) 0 = some 0xAB := by decide +kernel

theorem test_QueryLoadsAndPrefetches_witness : (bench []).iss.frame.pmodeNow = false ∧ ptrCheck (bench []).acc (w64 (privPtr 4096)) 8 8 ≠ 0 ∧
    ptrCheck (bench []).acc (w64 (privPtr 4088)) 8 8 = 0 ∧ ptrCheck (bench []).acc (w64 (2 ^ 56 - 8)) 8 8 = 0 ∧ isLocal (w64 (2 ^ 56 - 8)) = false ∧
    ((bench []).loadEl (w64 (2 ^ 56 - 8)) 8 true).val = none ∧ ptrKind 512 = 0 ∧ ptrKind (w64 (privPtr 0)) ≠ 0 ∧
    (((bench [] id id fun c => { c with stash := [⟨5, 512, 1, [], 0, none, false⟩] }).c 0).stLine 5 512).isSome = true := by decide +kernel

theorem test_StoresAreBuffered_witness : lateFault (bench []).inst.ctx (same 1 0) = none ∧
    (bench [4096]).lanesFault [adda ((bench [4096]).sc (.f 0)) 0] 8 = none ∧ isLocal (adda ((bench [4096]).sc (.f 0)) 0) = false ∧
    ((bench [privPtr 4080, 5]).indexed (.f 0) (.p 1) 4).toOption = none ∧ ((bench [privPtr 0, 5]).indexed (.f 0) (.p 1) 4).toOption ≠ none := by decide +kernel

theorem test_AtomicsAreBufferedAndComputed_witness : ptrFault (bench []).acc (w64 (privPtr 4)) 8 8 0 ≠ none ∧ ptrFault (bench []).acc (w64 (privPtr 8)) 8 8 0 = none ∧
    isLocal (w64 (privPtr 8)) = true ∧ ptrFault (bench []).acc 8 8 8 0 = none ∧ isLocal (8 : W64) = false ∧ (bench []).iss.frame.pmodeNow = false ∧
    (bench [] fun f => { f with pmodeNow := true }).iss.frame.pmodeNow = true ∧ 1 < ((bench [2]).sc (.f 0)).toNat ∧ ((bench [1]).sc (.f 0)).toNat ≤ 1 := by decide +kernel

theorem test_AtomicsAreBufferedAndComputed_values : 1 ≤ 4 ∧ (0xFFFFFFFF : Nat) < 2 ^ (8 * 4) ∧ atomicNew 0x10 4 0xFFFFFFFF 1 0 = 0 ∧ atomicNew 0x17 4 3 3 9 = 9 ∧
    atomicNew 0x17 4 4 3 9 = 4 := by decide +kernel

theorem test_OrderAndPersistenceOperations_witness : (bench []).tgtsFault (same 1 0).toList = none ∧ (bench []).iss.active = true ∧ (2 : BitVec 2) ≠ 3 ∧
    ptrFault (bench []).acc 512 1 1 0 = none ∧ ptrKind (512 : W64) = 0 ∧ ptrFault (bench []).acc (w64 (privPtr 0)) 1 1 0 = none ∧
    ptrKind (w64 (privPtr 0)) ≠ 0 ∧ ptrFault (bench []).acc (w64 (privPtr 4096)) 1 1 0 ≠ none := by decide +kernel

/-! ### Witnesses: names, streams, engines, tasks, supervisor operations -/

/-- Tensor 0x50 of namespace 9, bound as produced, with 4 values of coordinate 0 and tiles of one sector. -/
def bound : Binding := { kind := 1, tilesec := 1, ns := 9, tensor := 0x50, ext := [3, 0, 0, 0] }
def hiWord : Nat := 9 * 2 ^ 44 + 0x50 * 2 ^ 24

/-- A slot with no subscription, with one of SUBN that is satisfied, and with a stream's. -/
def nslot (k : Nat) (sub : Option SlotSub) : Slot := { tslot k false false with sub := sub }
def subn1 (kind : SubKind) : SlotSub := ⟨kind, w64 hiWord, 0, 1, false, true⟩

/-- The namespace is bound; slot 1 is free, slot 2 carries SUBN, slots 4 and 5 a stream; scratch memory holds bytes at 0. -/
def nm (r : List Nat) (bytes : List Nat := []) (f : Frame → Frame := id) (i : Inst → Inst := id) (cd : CDom → CDom := id) : State :=
  let st : Stream := ⟨4, 2, nameOf (w64 hiWord) 0, 0, 0, 2, false, [], false, 1, 0, []⟩
  { bench r (fun x => f { x with slots := [(1, 1), (2, 2), (4, 4), (5, 5)], streams := [st] }) i (fun x => cd { x with
      scratch := Memory.writeBytes [] 0 (bytes.map (BitVec.ofNat 8)),
      slots := [(1, nslot 1 none), (2, nslot 2 (some (subn1 .subn))), (4, nslot 4 (some (subn1 .stream))), (5, nslot 5 (some (subn1 .stream)))] }) with
    parts := [(0, { fields := 1, st := 2, bindings := [bound] })] }

theorem test_NameOperationsAreBuffered_witness : (nm []).nameFault (w64 hiWord) 7 0 false false = none ∧
    (nm []).localFault (w64 (privPtr 3968)) ((nm []).bindingOf (w64 hiWord) 7).tilesec.succ.pred 128 = none ∧
    (nm []).localFault (w64 (privPtr 3968)) (((nm []).bindingOf (w64 hiWord) 7).tilesec * 128) 128 = none ∧
    ((nm [65536]).sc (.f 0)).toNat ≤ 65536 ∧ (nm [1]).sc (.f 0) ≠ 0 ∧ ((nm [2 ^ 48 - 1]).sc (.f 0)).toNat < 2 ^ 48 ∧
    ((nm [2 ^ 29 - 1]).sc (.f 0)).toNat % 2 ^ 16 ≠ 0 ∧ ((nm [2 ^ 29 - 1]).sc (.f 0)).toNat < 2 ^ 29 ∧
    (nm []).nameFault (w64 hiWord) (w64 (2 ^ 40 * 65535)) 0 true false = none ∧ partialBytes ((nm []).bindingOf (w64 hiWord) 0) 0 = 128 ∧
    (nm []).nameFault (w64 hiWord) 0 0 false true = none ∧ (nm []).claimsOpen < 256 ∧
    ((nm []).nameFault (w64 (hiWord + 2 ^ 56)) 0 0 false false).isSome = true ∧ ((nm []).nameFault 0 0 0 false false).isSome = true := by decide +kernel

/-- A SUBN over all four names of coordinate 0 in slot 1, one again in slot 2, a stream of one slot. -/
theorem test_SubscriptionsAndStreamsAtIssue_witness : (nm []).nameFault (w64 hiWord) 3 1 false false = none ∧
    (w64 0x101).extractLsb' 8 4 = (1 : BitVec 4) ∧ bits (w64 0x101) 13 12 ≤ 1 ∧ maskOk bound 1 = true ∧ maskOk bound 2 = false ∧
    (((nm []).c 0).slotOf 5 1).isSome = true ∧ (nm []).subsOpen < 64 ∧ subnOk (nslot 1 none) false (w64 hiWord) 3 (w64 0x101) bound = true ∧
    (((nm []).c 0).slotOf 5 (bits (w64 0x102) 7 0)).map (fun q => subnOk q.2 true (w64 hiWord) 3 (w64 0x102) bound) = some true ∧
    ((nm []).c 0).sopenOk 5 (w64 0x101) bound = true ∧ 1 ≤ bits (w64 0x101) 14 8 ∧ bits (w64 (64 * 256)) 14 8 ≤ 64 ∧
    bits (w64 0x1FF) 7 0 + bits (w64 0x1FF) 14 8 ≤ 256 ∧ (nslot 2 (some (subn1 .subn))).hasSubn = true ∧ (nslot 1 none).hasSubn = false ∧
    ((nm [4]).streamOf (.f 0)).isSome = true ∧ (nm [1]).streamOf (.f 0) = none ∧ (nm []).tgtsFault (VDst.target (same 1 0)).tgts = none := by decide +kernel

/-- A slot that carries SUBN takes no other; a free one no SUBN again; slot 9 is not mapped; a stream needs slots without SUBN. -/
theorem test_SubscriptionsThatDoNotFit_witness : subnOk (nslot 2 (some (subn1 .subn))) false (w64 hiWord) 3 (w64 0x102) bound = false ∧
    subnOk (nslot 1 none) true (w64 hiWord) 3 (w64 0x101) bound = false ∧ ((nm []).c 0).slotOf 5 9 = none ∧ (w64 0x109).toNat < 2 ^ 14 ∧
    (w64 0x109).extractLsb' 8 4 = (1 : BitVec 4) ∧ ((nm []).c 0).sopenOk 5 (w64 0x102) bound = false := by decide +kernel

/-- The longest copy; one byte more; a source outside its window; rows 0 to 3 and a row at the limit; a generator over 4 words. -/
def genBytes : List Nat := [0, 0, 0, 0, 0, 0, 0, 0, 2, 1, 0, 0, 0, 0, 0, 0, 4, 0, 0, 0, 0, 0, 0, 0, 0, 0, 0, 0, 0, 0, 0, 0, 4]

theorem test_CopiesAndGenerators_witness : ((nm [16777216]).sc (.f 0)).toNat ≤ 16777216 ∧ 16777216 < ((nm [16777217]).sc (.f 0)).toNat ∧
    ptrFault (nm []).acc 0 16777216 1 0 = none ∧ ptrFault (nm []).acc (w64 (privPtr 0)) 4096 1 0 = none ∧
    (ptrFault (nm []).acc (w64 (privPtr 0)) 4097 1 0).isSome = true ∧ (nm [privPtr 0, 5]).pairLimit (.f 0) = 5 ∧
    (nm []).rowsFault (w64 (privPtr 0)) (w64 (privPtr 0)) 5 128 ((nm []).vec (.p 1)) = none ∧
    ((nm []).rowsFault (w64 (privPtr 0)) (w64 (privPtr 0)) 4 128 ((nm []).vec (.p 1))).isSome = true ∧
    (nm []).localFault (w64 (privPtr 0)) 64 64 = none ∧ genFault (nm [] genBytes).acc ((nm [] genBytes).localBytes (w64 (privPtr 0)) 64) = none ∧
    (nm []).agFor 7 = some 0 ∧ (nm []).tgtsFault (VDst.target (same 1 0)).tgts = none ∧ lateFault (nm []).inst.ctx none = none := by decide +kernel

/-- A copy of frame 5 whose promise is tick 40. -/
def lateCopy : Copy := ⟨9, 5, [], 40, 0, true, [], 1, none, none, false, {}, 0⟩

theorem test_WaitsBarriersAndSignals_witness : ((nm [0]).sc (.f 0)).toNat ≤ (nm []).quartz ∧ ((nm []).c 0).lateCopies 5 0 = [] ∧
    (nm []).quartz < ((nm [40]).sc (.f 0)).toNat ∧ (nm []).tgtsFault (YDst.target (same 1 0)).tgts = none ∧
    ((nm [] [] id id fun c => { c with copies := [{ lateCopy with promise := 0 }] }).c 0).lateCopies 5 0 ≠ [] ∧
    (nm []).barFault 0 = none ∧ ((nm []).barFault (w64 (privPtr 0))).isSome = true ∧ 1 ≤ ((nm [65535]).sc (.f 0)).toNat ∧
    ((nm [65535]).sc (.f 0)).toNat ≤ 65535 ∧ ((nm [0]).sc (.f 0)).toNat = 0 ∧ 65535 < ((nm [65536]).sc (.f 0)).toNat ∧
    (nm [] [] fun f => { f with pmodeNow := true }).iss.frame.pmodeNow = true ∧ (nm []).iss.frame.pmodeNow = false ∧
    (nm []).sigFault (w64 (2 ^ 56 - 8)) = none ∧ ((nm []).sigFault 4).isSome = true ∧ ((nm []).sigFault (w64 (privPtr 0))).isSome = true := by decide +kernel

/-- A record of 4 KiB of code with DEPCNT 1, and one with no code. -/
def taskBytes (kb : Nat) : List Nat := [4, 0, 0, 0, 0, 0, 0, 0, 0, 0, 0, 0, 0, 0, 4 * kb]

theorem test_TaskModeTraceAndTrapOperations_witness : FmtSlot.ok (w64 1) = true ∧ FmtSlot.ok (w64 15) = false ∧ (nm []).fmtValues.length < 32 ∧
    (nm [] [] id fun i => { i with entry := true }).inst.entry = true ∧ (nm [] [] id fun i => { i with entry := false }).inst.entry = false ∧
    (nm []).localFault (w64 (privPtr 4032)) 64 64 = none ∧ taskOk (nm []).myPart ((nm [] (taskBytes 4)).localBytes (w64 (privPtr 0)) 64) = true ∧
    64 + 32 * (bits (wordAt ((nm [] (taskBytes 4)).localBytes (w64 (privPtr 0)) 64) 0) 8 2 - 1) = 64 ∧
    taskOk (nm []).myPart ((nm [] (taskBytes 0)).localBytes (w64 (privPtr 0)) 64) = false ∧
    2 ^ 21 ≤ ((nm [2 ^ 21]).sc (.f 0)).toNat ∧ ((nm [2 ^ 20 - 1]).sc (.f 0)).toNat < 2 ^ 20 ∧ ((nm [2 ^ 20 + 4032]).sc (.f 0)).toNat % 64 = 0 ∧
    ((nm []).iss.set.block + (2 ^ 20 + 4032) % 2 ^ 20) % 2 ^ 20 < (nm []).iss.frame.task.codekb * 1024 ∧
    (nm [] [] (fun f => { f with st := .trapped }) fun i => { i with tt := true }).iss.frame.st = .trapped ∧
    (nm [] [] (fun f => { f with st := .trapped }) fun i => { i with tt := true }).inst.tt = true ∧ (nm []).inst.issuedTret = false ∧
    (nm []).iss.frame.st ≠ .trapped ∧ (nm []).inst.tt = false := by decide +kernel

/-- A binding record of kind 1 with tiles of one sector, and one of kind 3. -/
theorem test_SupervisorOperationsAreBuffered_witness : ((nm [2 ^ 16 - 1]).sc (.f 0)).toNat < 2 ^ 16 ∧ 2 ^ 16 ≤ ((nm [2 ^ 16]).sc (.f 0)).toNat ∧
    (nm []).localFault (w64 (privPtr 0)) 64 64 = none ∧ bindingOk ((nm [] [1, 0, 0x40]).localBytes (w64 (privPtr 0)) 64) = true ∧
    bindingOk ((nm [] [3, 0, 0x40]).localBytes (w64 (privPtr 0)) 64) = false ∧ (nm []).sigFault 8 = none ∧ (nm []).barFault 0 = none ∧
    lateFault (nm []).inst.ctx (same 1 0) = none := by decide +kernel

/-- CSRW 0x413 with operand I, alone in slot 7. -/
def csrwBundle : BitVec 512 := bundleOf 7 0x410228A20980000 0

theorem test_SupervisorOperationsNeedFrame63_witness : slotPresent csrwBundle 7 = true ∧ 0x40#8 ≤ (slotWord csrwBundle 7).extractLsb' 52 8 ∧
    (slotWord csrwBundle 7).extractLsb' 52 8 ≤ 0x4A#8 ∧ issueCheck csrwBundle 63 0 = none ∧ issueCheck csrwBundle 62 0 = some (7, .priv) := by decide +kernel

/-! ### Witnesses: events inside a tile -/

/-- The code of frame 5: one bundle at block 0. -/
def code (b : BitVec 512) : Memory := Memory.writeBytes [] 0 (toBytes b.toNat 64)
def addBundle : BitVec 512 := bundleOf 0 0x011831A28900000 0x010000

/-- Tile 0 with frame 5, its instance 1 and a bundle that adds 1 to port 0. -/
def tl (c : CDom → CDom) (f : Frame → Frame := id) : State :=
  { State.reset with
    tiles := [(0, { c := c { frames := [(5, f (frame []))], insts := [(1, Inst.blank 5)], scratch := code addBundle } })]
    parts := [(0, { fields := 1, st := 2, bindings := [bound] })] }
def tok (inst port : Nat) (v : Val) : Tok := ⟨5, inst, 0, 0, 0, port, v, none, 0, 0, [], 0, 6, 0⟩

/-- A loop of 2 trips, of which `k` have been spawned. -/
def lp (k : Nat) : Loop := ⟨5, false, false, 2, 1, 64, 128, 32, 1, 0, 0, 0, 0, 0, 0, 0, 0, 0, .root, [], false, 0, k, [], [], none, [], [], [], 0, [], [], none, []⟩

/-- Tile 0 in cycle 1 with a token that was sent in cycle 0, and one that was sent in cycle 1. -/
def sent (k : Tok) (more : List Tok) : CDom := (tl fun c => { c with arrivals := k :: more, cycle := 1 }).c 0
/-- Two ports of one kind under rule 1, and the run of lanes 0 to 3 of a loop that has not ended. -/
def ruleOne : CDom → CDom := fun c => { c with scratch := code (bundleOf 0 0x011831A28900000 0x051000), cycle := 1, arrivals := [tok 1 1 .order, tok 1 0 .order] }
def lane4 (inst : Nat) : Tok := { tok inst 0 (.vector 0 [1, 2, 3, 4]) with loopKey := some 32 }
def lanes (stored : Bool) : State := tl fun c => { c with loops := [(0, { lp 0 with vec := true })], toks := if stored then [lane4 0] else [], holding := [lane4 0] }

/-- A token of this cycle, of the last one, a port 1 token that gives way to port 0; a run in the holding queue, alone or beside one stored. -/
theorem test_arrival_order_witness : (sent { tok 1 0 .order with cycle := 1 } []).nextArrival = none ∧
    (sent (tok 1 0 .order) []).nextArrival = some (tok 1 0 .order, []) ∧
    ((tl ruleOne).c 0).nextArrival = some (tok 1 0 .order, [tok 1 1 .order]) ∧
    bundleRule (((tl ruleOne).c 0).bundle 5 0 0) = 1 ∧ (tok 1 0 .order).sameKey (tok 1 1 .order) = true ∧
    ((lanes false).c 0).receiver (lane4 0) = some 0 ∧ ((lanes false).c 0).liveParts (lane4 0) = [lane4 0] ∧ ((lanes false).c 0).hasRoom (lane4 0) = true ∧
    (((lanes false).modC 0 fun c => { c with holding := [] }).c 0).overlaps (lane4 0) = false ∧
    (((lanes true).modC 0 fun c => { c with holding := [] }).c 0).overlaps (lane4 0) = true ∧ ((lanes true).frame 0 5).st ≠ .ending := by decide +kernel

/-- A token for no instance, one for an absent port, one held back with room, a set that issues, and one 2,048 cycles old. -/
theorem test_TokensAndIssue_witness : ((tl id).c 0).receiver (tok 1 0 (.scalar 7)) = some 0 ∧ ((tl id).c 0).receiver (tok 2 0 .order) = none ∧
    kindMatches (((tl id).c 0).bundle 5 0 0) 1 (.scalar 7) = false ∧ kindMatches (((tl id).c 0).bundle 5 0 0) 0 (.scalar 7) = true ∧
    ((tl id).c 0).hasRoom (tok 1 0 (.scalar 7)) = true ∧ ((tl fun c => { c with sets := [opSet 0 0 [(0, .scalar 7)]], bucket := 64 }).c 0).nextPe = some 0 ∧
    (tl fun c => { c with sets := [opSet 0 0 [(0, .scalar 7)]], bucket := 64 }).pick 0 = some (0, opSet 0 0 [(0, .scalar 7)]) ∧
    issueCheck (((tl id).c 0).bundle 5 0 0) 5 0 = none ∧ issueCheck csrwBundle 5 0 = some (7, .priv) ∧
    2048 ≤ ({ opSet 0 0 [] with count := 2048 } : OpSet).count ∧ ({ todo := [], waits := [] } : Issue).term.isSome = false ∧
    ((tl fun c => { c with issued := [{ id := 3 }] }).c 0).issue? 3 = some { id := 3 } := by decide +kernel

def done : Inst := { Inst.blank 5 with finished := true }

theorem test_CommitsLoopsAndTrapEntries_witness : ((tl id).tile 0).slate.replaying = false ∧
    ((tl fun c => { c with insts := [(1, done)], pendCommit := [1] }).c 0).insts.get? 1 = some done ∧ done.finished = true ∧
    (tl id).commitTurn 0 done = some 1 ∧
    (Com.effects ⟨tl fun c => { c with insts := [(1, done)], pendCommit := [1] }, 0, 1, done, 1, 1, [], none, none, none⟩).bad.isNone = true ∧
    ((((Com.effects ⟨tl fun c => { c with insts := [(1, done)], pendCommit := [1] }, 0, 1, done, 1, 1, [], none, none, none⟩).book 1).tokens).retire 1).map
      (fun u => u.refused.isNone) = some true ∧
    (((tl fun c => { c with insts := [(1, done)] }).c 0).replaceEntry 1).isSome = true := by decide +kernel

theorem test_LoopsAndTrapEntries_witness : (lp 0).wants = true ∧ (frame []).spawns = true ∧
    ((tl fun c => { c with loops := [(0, lp 0)] }).c 0).throttleAllows 1 = true ∧ ((tl id).c 0).freeEntry = some 0 ∧ (lp 2).over_ = true ∧
    ((tl fun c => { c with trapEntries := [5] }).c 0).trapEntries.contains 5 = true := by decide +kernel

/-- Two bundles write f3, one f4, and a CSRW of SRSEED3 is buffered. -/
def writes : List FWrite := [⟨1, 0, 3, 9, 0, 0⟩, ⟨0, 4, 3, 7, 0, 0⟩, ⟨0, 1, 4, 5, 0, 0⟩]
def writer : Com := ⟨tl id, 0, 1, { done with fwrites := writes, flags := 5 }, 1, 1, [], none, none, none⟩

theorem test_CommitWrites_witness : writer.i.fwrites = writes ∧ (writes.all fun x => x == ⟨1, 0, 3, 9, 0, 0⟩ || x.reg != 3 || decide (x.bun < 1)) = true ∧ (writes.all fun x => x.reg != 31) = true ∧
    writer.frame.pmode = false ∧ ({ bun := 0, slot := 7, op := .csrw 0x413 } : Eff).op = .csrw 0x413 ∧
    ((writer.supEffect (writer.site 0) { bun := 0, slot := 7, op := .csrw 0x413, a := 6 }).s.c 0).srseed.getD 3 0 = 6 := by decide +kernel

/-- The pool holds 4,096 instances of frame 5, one short of 512 free, and a trap block that waits to be entered. -/
def pool (n : Nat) : State := { tl fun c => { c with insts := (List.range n).map fun k => (k, Inst.blank 5), trapEntries := [5] } with quartz := 1024 }

theorem test_TagPool_witness : ((pool 3585).c 0).tagFree < ((pool 3585).c 0).tagLow ∧ ((pool 3585).c 0).throttleTick + 1024 ≤ (pool 3585).quartz ∧
    (pool 4096).tagDeadlock 0 = true ∧ ((pool 4096).c 0).deadTick + 1024 ≤ (pool 4096).quartz ∧ (pool 4096).spawnWaiters 0 = [5] ∧
    ((pool 0).c 0).holding.length ≤ Config.holdingEntries := by decide +kernel

/-- A task of 4 KiB of code named 0x50. -/
def task1 (id : BitVec 32) : Task := { codehi := w64 hiWord, codekb := 4, scrkb := 1, privkb := 1, taskId := id, depcnt := 1, subcnt := 1 }
def placed1 (st : TaskSt) (to1 : Option Nat) : Placed := ⟨task1 7, st, [], true, 0, some 0, false, to1, 0, false⟩

/-- Only tile 0 of field 0 is powered, with a task queued at its hub. -/
def placing (ns : BitVec 12) : State :=
  { State.reset with
    quartz := 65536
    tiles := (List.range 160).map fun k => (k, { powered := k == 0 })
    hubs := [(0, { queue := [⟨{ task1 7 with codehi := w64 (hiWord - 9 * 2 ^ 44 + ns.toNat * 2 ^ 44) }, 0, 3, 0⟩] })]
    parts := [(0, { fields := 1, st := 2, bindings := [bound] })] }

/-- No other tile is eligible, and tile 0 is not before itself. -/
theorem test_lexLt_self (l : List Nat) : lexLt l l = false := by
  induction l <;> simp_all [lexLt]

theorem test_TaskPlacement_witness : (((placing 9).hub 0).queue.find? fun q => q.task.taskId == 7).isSome = true ∧
    ((task1 7).placeFault ((placing 9).part 0)).isNone = true ∧
    (({ task1 7 with codehi := w64 (hiWord + 2 ^ 44) } : Task).placeFault ((placing 9).part 0)).isSome = true ∧
    ((placing 9).part 0).tiles.contains 0 = true ∧ (placing 9).eligible 0 (task1 7) 0 = true ∧
    ((List.range 160).all fun u => u == 0 || !(placing 9).eligible 0 (task1 7) u) = true ∧
    (((placing 9).c 0).layoutOf ((placing 9).part 0) (task1 7)).isSome = true := by decide +kernel

/-- A message from tile 1 to a unit of field 0. -/
def spawnMsg : Msg := { src := .tile 1, dst := .hub 0, cls := .request, body := .spawn (task1 7) 3 0 5 1 }
def copyMsg : Msg := { src := .tile 1, dst := .tile 0, cls := .nameData, body := .name .copy { bytes := List.replicate 128 0 } }
def withNet (s : State) (m : Msg) : State := { s with net := [m] }

theorem test_TasksRunFromCreationToEnd_witness : (withNet (placing 9) spawnMsg).arrivable 0 = true ∧
    (((placing 9).hub 0).pairs.find? fun e => e.1 == 3 && e.2.1 == 0) = none ∧ ((placing 9).hub 0).queue.length < 4096 ∧
    ((placing 9).part ((placing 9).partOfField 0)).taskIds.contains 7 = false ∧ (withNet (tl id) copyMsg).arrivable 0 = true ∧
    ((tl id).tile 0).powered = true ∧ ((tl id).tile 0).slate.replaying = false ∧ (tl id).logRoom 0 160 = true ∧
    (((List.range 63).find? fun f => (((tl id).c 0).frame f).st == .free) = some 0) ∧ ((tl id).c 0).freeEntry = some 0 ∧
    ((((tl id).c 0).pickReady (((tl id).c 0).throttleAllows 0) 0 [placed1 .ready none] false []).1.isSome) = true ∧
    (areasPlace [] (task1 7).frameSizes).isSome = true ∧ (placed1 .ready none).passedLong 65536 = true ∧ (placed1 .ready none).passedLong 65535 = false ∧
    (([placed1 .moving (some 0)].find? fun q => q.task.taskId == 7 && q.st == .moving && q.acks == 0).bind Placed.moveTo) = some 0 ∧
    (([placed1 .moving (some 3)].find? fun y => y.task.taskId == 7 && y.moveTo == some 3).isSome) = true ∧ (0 : Nat) ≠ 3 ∧
    (((tl id fun f => { f with st := .ending }).frame 0 5).st = .ending ∧ (tl id).frameQuiet 0 5 = true ∧ ((tl id).frame 0 5).abortRec = none ∧
      ((tl id).frame 0 5).park = .none) ∧ ((tl id fun f => { f with st := .ending, abortRec := some [] }).frame 0 5).abortRec = some [] := by decide +kernel

/-! ### Witnesses: engines, waits, the name plane -/

/-- Accumulator 2 of `mat` with one firing armed, its two sources in the FULL slot 2. -/
def armed (integer : Bool) (arr : ArrayOp := .idle) (issued : List Issue := []) : State :=
  (mat []).modC 0 fun c => { c with
    array := arr, issued := issued, bucket := 128
    accs := [(2, { (c.accs.getD 2 {}) with integer := integer, left := 1, srcA := some ⟨0x1000000, 0x102, 0⟩, srcB := some ⟨0x1000000, 0x102, 0⟩,
                                           jobs := [⟨.marm 0, 65535, 0, ⟨0, 0, 0, 0, 0⟩, []⟩] })] }

def sort1 : Issue := { id := 3, waits := [{ id := 1, slot := 2, wait := .msort 0 [3, 1] 1 none none, dst := {}, done := {} }] }

theorem test_MatrixArrayAndPower_witness : ((armed false).c 0).nextFiring = some 2 ∧ ((armed false).c 0).oldestSort = none ∧
    slotsMode (((armed false).c 0).frame 5 |>.fsOf (MConf.fsa 128)) (((armed false).c 0).frame 5 |>.fsOf (MConf.fsb 128)) (MConf.k 128) = some false ∧
    (((armed true).c 0).accs.getD 2 {}).integer = true ∧ kUnits 1 1 ≤ ((armed false).c 0).bucket ∧ (armed false).promotedWaits 0 = false ∧
    ((armed false (.firing 2 0 1 true 96 1 1)).c 0).array = .firing 2 0 (0 + 1) true 96 1 1 ∧ ((armed false).c 0).accs.has 2 = true ∧
    ((armed false).c 0).accParked 2 = false ∧ ((armed false).c 0).cycleFresh = true ∧ ((armed false).c 0).arrayDue ≤ ((armed false).c 0).cycle ∧
    ((({ work := some (.accum, 0), st := .busy } : Acc).work).isSome = true) ∧ (((armed false).c 0).accs.getD 2 {}).jobs.map (·.op) = [.marm 0] ∧ Acc.quiet {} = true ∧
    ((armed false .idle [sort1]).c 0).oldestSort.isSome = true ∧ 96 ≤ ((armed false).c 0).bucket ∧
    ((State.reset.hub 63).grantTick + 1100 ≤ ({ State.reset with quartz := 1100 } : State).quartz) ∧ (State.reset.hub 63).powered = true ∧ ({ State.reset with quartz := 1100 } : State).kStepWaits 63 = false ∧
    ((armed false).c 159).bucket ≤ 65527 := by decide +kernel

def pend1 : Pend := ⟨5, 4, 1, 1, true, 512, .stash, 1, true, none, some ⟨5, 1, .root, { top := .same, bun := 1, port := 0, val := .order }⟩, none, 0, 0, false⟩
def reply1 (op : HomeOp) (ret : Ret) : Msg :=
  { src := .tile 1, dst := .tile 0, cls := .reply
    body := .homeReply { op := op, part := 0, fsh := false, addr := 512, size := 8, sender := .tile 0, frame := 5, ret := ret } [] 0 }
def nameMsg (op : NameOp) (x : NameMsg) : Msg := { src := .tile 1, dst := .tile 0, cls := .nameCtl, body := .name op x }

def drain1 : Issue := { id := 3, waits := [{ id := 1, slot := 4, wait := .drain 3 0, dst := {}, done := {} }] }

theorem test_WaitsEndAndAnswersArrive_witness : ((tl fun c => { c with issued := [drain1] }).c 0).issue? 3 = some drain1 ∧
    (([pend1].find? fun q => q.frame == 5 && q.oseq == 4 && (q.done.isSome || q.val.isSome)) = some pend1) ∧ pend1.rmw = false ∧
    (tl id).answerWaits 0 5 = false ∧
    ((List.map (fun r => (tl id).homeWaits 0 { op := .load, part := 0, fsh := false, addr := 512, size := 8, sender := .tile 0, frame := 5, ret := r })
      [.load 3 1 0, .pend 4]) = [false, false]) ∧
    (((tl id fun f => { f with pmode := true }).modSlate 0 fun l => { l with inBytes := 262144 }).answerWaits 0 5 = true) ∧
    (((tl id fun f => { f with pmode := true }).modSlate 0 fun l => { l with replaying := true }).homeWaits 0
      { op := .load, part := 0, fsh := false, addr := 512, size := 8, sender := .tile 0, frame := 5, ret := .pend 4 } = true) ∧
    (tl id).pendDone 0 pend1 1 = true ∧
    (tl id).pendDone 0 { pend1 with performed := false } 1 = false ∧
    (([{ lateCopy with reading := false, left := 0 }].find? fun x => x.id == 9).map fun x => (x.reading, x.left)) = some (false, 0) ∧
    (tl id).supDone (.ended 0 6 7) = true ∧ (tl id).supDone (.ended 0 5 0) = false ∧ (withNet (tl id) (reply1 (.fill true) .fill)).arrivable 0 = true ∧
    (withNet (tl id) (reply1 .load (.load 3 1 0))).arrivable 0 = true ∧ HomeOp.load ≠ .rx ∧
    (((tl fun c => { c with stash := [⟨5, 512, 1, [], 0, none, false⟩] }).c 0).stLine 5 (lineOf 512)).isSome = true ∧
    (withNet (tl id) { reply1 .load .none with body := .probe true 512 5, cls := .probe }).arrivable 0 = true ∧
    (withNet (tl id) (nameMsg .claimReply { frame := some 5 })).arrivable 0 = true ∧ ((tl id).frame 0 5).task.taskId = 0 := by decide +kernel

def tensor0 : TileName := nameOf (w64 hiWord) 0
def regMsg : NameMsg := { name := tensor0, who := .tile 1, taskId := 7, frame := some 5, port := 1 }

/-- A router that holds an entry with `n` registrations through port 1 and credit `cr` there. -/
def rt (n cr : Nat) (stream : Bool) (g : Nmt → Nmt := id) : State :=
  (tl id).modN 0 fun y => { y with nmt := [g { freshNmt { regMsg with stream := stream } 1 with cnt := [0, n, 0, 0, 0], cr := [0, cr, 0, 0, 0] }] }

theorem test_RoutersForwardByTheirTables_witness : regMsg.router ≠ atDirectory ∧ (withNet (rt 1 0 false) (nameMsg .reg regMsg)).arrivable 0 = true ∧
    ((tl id).n 0).nmt.find? (fun e => e.is regMsg) = none ∧ ((tl id).n 0).nmt.length < 2048 ∧
    (((rt 254 0 false).n 0).nmt.find? fun e => e.is regMsg).map (fun e => e.cnt.getD 1 0) = some 254 ∧
    (((rt 255 0 false).n 0).nmt.find? fun e => e.is regMsg).map (fun e => e.cnt.getD 1 0) = some 255 ∧ regMsg.overflow = false ∧
    ({ regMsg with overflow := true } : NameMsg).overflow = true ∧ regMsg.mode ≠ 1 ∧ ((rt 1 1 false).n 0).nmt.find? (fun e => e.stream && e.name == tensor0) = none ∧
    (((rt 1 1 true).n 0).nmt.find? fun e => e.stream && e.name == tensor0).map (fun e => (e.ports, e.cr.getD 1 0)) = some ([1], 1) ∧
    ((rt 1 1 true).tile 0).powered = true ∧ ({ regMsg with completion := true } : NameMsg).completion = true ∧ regMsg.completion = false ∧
    ({ regMsg with router := atDirectory } : NameMsg).router = atDirectory ∧
    ((rt 1 1 false fun e => { e with circ := true }).n 0).nmt[0]?.map (fun e => (e.circ, decide (e.circTick + e.circIdle ≤ 0))) = some (true, true) ∧
    ((State.reset.c 0).branchstall ≤ 16384) ∧ (([⟨regMsg, 1, 0⟩] : List HeldElem)[0]?.isSome = true) ∧
    ({ regMsg with both := true } : NameMsg).both = true ∧ regMsg.both = false ∧ (((rt 1 1 true).elementAt 0 1 regMsg).map (·.1)) = some [1] ∧
    ((rt 1 0 true).elementAt 0 1 regMsg).isNone = true := by decide +kernel

def entry0 (g : NameEntry → NameEntry) : NameEntry := g (freshEntry tensor0 0)
def kept1 : Retained := ⟨3, [], 0, 1, 65536, 0, false, false, 0⟩

/-- The home of the tensor is tile 0, with its entry there. -/
def home (g : NameEntry → NameEntry) (rest : NDom → NDom := id) : State :=
  { (tl id).modN 0 fun n => rest { n with names := [entry0 g] } with quartz := 65536 }
def dirMsg (op : NameOp) (x : NameMsg) : Msg := nameMsg op { x with router := atDirectory }
def piece1 : Msg := { src := .tile 0, dst := .tile 0, cls := .nameData, body := .name .piece { name := tensor0, ver := 3 } }

theorem test_DirectoriesKeepTheirNames_witness : (withNet (home id) (dirMsg .reg regMsg)).arrivable 0 = true ∧
    ((home id).n 0).admits (((home id).n 0).needs ((home id).covered? 0 regMsg) regMsg) = true ∧
    ((tl id).n 0).admits (1, 0) = true ∧ (NDom.admits { names := List.replicate 1024 (entry0 id) } (1, 0) = false) ∧
    (((home id).part 0).binding 9 0x50).isSome = true ∧ (((home id).takeColl 0 { regMsg with index := 2 }).isSome = true) ∧
    (((home fun e => { e with subs := [⟨regMsg, none, false, false, false, []⟩] }).n 0).entry? tensor0).map
      (fun e => (e.subs.find? fun r => sameSub r.reg regMsg).isSome) = some true ∧
    (home fun e => { e with claim := some 7 }).claimFree 0 regMsg bound = true ∧ (home id).claimFree 0 regMsg bound = false ∧
    ((home fun e => { e with claim := some 7 }).takePub 0 { regMsg with bytes := List.replicate 128 1 } bound).isSome = true ∧ regMsg.who = .tile 1 ∧
    (([⟨piece1, 0, 65280⟩] : List Retry)[0]?.map fun r => (decide (r.last + 256 ≤ 65536), decide (r.first + 65536 ≤ 65536))) = some (true, true) ∧
    (((home id).n 0).red? tensor0 3).isNone = true ∧ ((home id).takeIngress 0 .claim regMsg).isSome = true ∧
    (((home fun e => { e with retained := [kept1] }).n 0).entry? tensor0).bind (fun e => (e.ret? 3).map fun r => r.accepted + r.time) = some 65536 ∧
    isFaultName tensor0 = false ∧ (entry0 id).touched + (home id).rett 0 tensor0 ≤ (home id).quartz ∧ (entry0 id).subs = [] ∧
    (withNet (home id) { piece1 with dst := .rim 31, body := .name .fetch { name := tensor0, ver := 3 } }).arrivable 0 = true ∧
    (31 < Config.numRims) ∧ (home id).inOrder 0 (NameOp.rank .reg 1) = true ∧ (home id).inOrder 0 (NameOp.rank .publish 4) = true ∧
    ((home id).n 0).dataStalled = false ∧ ((home id fun n => { n with ingress := [dirMsg .publish regMsg] }).n 0).dataStalled = true ∧
    (tensor0.ns ≠ 0) ∧ (((home id).part 0).binding 8 0x50).isNone = true := by decide +kernel

/-- A message of tile 1 with number 3 that a field revival sends again, at a router and at a home that applied it. -/
def again : NameMsg := { regMsg with resent := true, oseq := 3 }

theorem test_Resends_witness : ((rt 1 0 false).modN 0 fun n => n.noteApplied (.tile 1) 3 true).passes 0 again = true ∧ (rt 1 0 false).passes 0 again = false ∧
    (((home id).modN 0 fun n => n.noteApplied (.tile 1) 3).n 0).seen again = true ∧ ((home id).n 0).seen again = false ∧
    ((home id).n 0).seen regMsg = false := by decide +kernel

theorem test_VersionsAreAcceptedOnce_witness : (entry0 id).fresh 5 = true ∧ (entry0 fun e => { e with newest := some 65535, map := 1 }).fresh 2 = true ∧
    (entry0 fun e => { e with newest := some 65535, map := 1 }).accepted 65535 = true ∧ ((2 : BitVec 16) - 65535).toNat ≤ 32767 := by decide +kernel

/-! ### Witnesses: memory behind the tiles -/

def req (op : HomeOp) (fsh : Bool) : HomeReq := { op := op, part := 0, fsh := fsh, addr := 64, size := 8, data := List.replicate 8 1, sender := .tile 1, frame := 5, oseq := 2 }
def reqMsg (op : HomeOp) (fsh : Bool) : Msg := { src := .tile 1, dst := .tile 0, cls := .request, body := .home (req op fsh) }
def hline : HLine := ⟨512, 0, [], .x 1 5, none, [(1, 70)], [], false, [], 0⟩
def ackMsg : Msg := { src := .tile 1, dst := .tile 0, cls := .writeback, body := .probeAck 512 70 [] 0 false }

theorem test_HomesServeTheirLines_witness : (withNet (tl id) (reqMsg .load true)).arrivable 0 = true ∧ (tl id).homeTakes 0 (req .load true) = true ∧
    (req .write true).resent = false ∧ (req .sigwait true).b.toNat ≤ fromBytes (((tl id).n 0).fshared.readBytes 64 8) ∧
    (((tl id).n 0).kept.get? (req (.atomic 2) true).keptKey).isNone = true ∧ (withNet (tl id) ackMsg).arrivable 0 = true ∧
    ((((tl id).modN 0 fun n => { n with lines := [hline] }).n 0).line? (((tl id).modN 0 fun n => { n with lines := [hline] }).copySpace 0 1 70 512) 512) =
      some hline := by decide +kernel

/-- A writeback of frame 6 of tile 2 into a line that tile 1 owns. -/
theorem test_WritebackApart_witness : hline.dir ≠ .x 2 6 ∧ hline.dir.others (some (2, 6)) ≠ [] ∧ ({ hline with acks := [] }.acks.any fun c => c.1 == 2) = false ∧
    hline.owes 2 [(0, [])] = false ∧ hline.dir = .x 1 5 := by decide +kernel

/-- Barrier 3 of tile 0 at its last phase, waiting for `n` arrivals. -/
def barrier (n : Nat) : State := (tl id).modN 0 fun y => { y with barriers := [(3, { count := n, phase := 65535 })], keptBar := [(69, ⟨4, 0⟩)] }
def barMsg (op : BarOp) (o : Nat) : Msg := { src := .tile 1, dst := .tile 0, cls := .request, body := .bar 3 op 5 o 7 }

theorem test_BarriersCountTheirArrivals_witness : (withNet (barrier 2) (barMsg (.bara 65535) 5)).arrivable 0 = true ∧
    ((barrier 2).n 0).keptBar.get? (64 * 1 + 5) = some ⟨4, 0⟩ ∧ (4 : Nat) < 5 ∧ (3 : Nat) < 4 ∧ ((barrier 2).n 0).watches = [] ∧ 1 ≤ ((barrier 2).bar 0 3).count ∧
    ((barrier 2).bar 0 3).early = 0 ∧ ((barrier 2).bar 0 3).arr + 1 < 2 ∧ ((barrier 1).bar 0 3).arr + 1 = ((barrier 1).bar 0 3).count ∧
    newer ((barrier 2).bar 0 3).phase 65534 = true ∧ newer ((barrier 2).bar 0 3).phase 65535 = false ∧ ((barrier 2).n 0).barWaiters < 1024 := by decide +kernel

/-- A page table whose first leaf maps 2³⁶ bytes at 0, a quota that holds it or none, and a walk at a home or a rim agent. -/
def wk (stall : Option (BitVec 32)) : Walk := ⟨0, 0, 512, false, 0, 7, 1, 5, [], stall, 0⟩
def xl (q : BitVec 32) (w : Walk) (rim : Bool) (mapped : Bool) : State :=
  let s : State := { tl id with
    hbm := if mapped then Memory.writeBytes (Memory.writeBytes [] 0 [1, 0x20]) 8192 [0xF] else []
    parts := [(0, { fields := 1, st := 2, quota := (0, q.toNat) })] }
  s.setWalks (if rim then Config.numTiles else 0) [w]
def leaf0 : TlbEntry := ⟨0, 0, 2 ^ 36, 0, true, true⟩
def hbmMsg (w : Bool) (tries : Nat) : Msg := { src := .tile 0, dst := .rim 0, cls := .request, body := .hbm w 128 [] 0 0 0 5 1 0 tries (sectorCrc [] 128) }
def hbmBack (tries : Nat) : Msg := { src := .rim 0, dst := .tile 0, cls := .reply, body := .hbmReply 128 [] 512 0 tries (sectorCrc [] 128) }

theorem test_TranslationAndHbmAccesses_witness : walkFree ((xl 1 (wk none) false true).walksOf 0) 0 false = true ∧
    ((xl 1 (wk none) false true).translate 0 0 512).1 = .leaf leaf0 512 ∧ (xl 1 (wk none) false true).protOf 0 leaf0 512 true false = none ∧
    (xl 0 (wk none) false true).protOf 0 leaf0 512 true false = some 1 ∧ ((xl 1 (wk none) false false).translate 0 0 512).1 = .miss 0 ∧
    (xl 1 (wk (some 3)) false true).findStall 0 3 = some (0, wk (some 3)) ∧ (xl 1 (wk (some 3)) false true).walk 0 512 = .leaf leaf0 512 ∧
    ((xl 1 (wk (some 3)) true true).findStall 0 3).map (·.1) = some Config.numTiles ∧ (withNet (tl id) (hbmMsg true 2)).arrivable 0 = true ∧
    ((tl id).rim 0).selfRefresh = false ∧ ((tl id).rim 0).moving 128 = false ∧ resends 2 < 3 ∧ reissues 7 < 1 ∧
    (Rim.moving { mig := some (0, 65536) } 128 = true) ∧ ((tl id).rim 0).queue.length < 256 ∧ (withNet (tl id) (hbmBack 2)).arrivable 0 = true ∧
    (65536 / stackBytes = 0) ∧ (2 ^ 36 * 31 / stackBytes < Config.numRims) ∧ ((tl id).rim 0).mig = none ∧ (tl id).accessesDone 0 0 = true ∧
    (withNet (tl id) (hbmMsg true 2)).accessesDone 0 0 = false ∧ Rim.full { queue := List.replicate 256 (hbmMsg true 2) } = true ∧ ((tl id).rim 0).full = false ∧
    sectorCrc [] 128 ≠ sectorCrc [] 0 := by decide +kernel

/-! ### Witnesses: persistence, preemption, boot -/

/-- Tile 0 at a tick, its slate changed by `l`. -/
def at0 (q : Nat) (l : Slate → Slate) (f : Frame → Frame := id) : State := { (tl id f).modSlate 0 l with quartz := q }
def dark : State := { at0 0 id with tiles := [(0, { powered := false })] }
def epoch1 : Epoch := ⟨9, {}, {}, [3], 0, 0, 0, [], []⟩

theorem test_EpochsAndRevivals_witness : ((at0 11000 id).tile 0).slate.target.isNone = true ∧ ((at0 11000 id).tile 0).powered = true ∧
    ((at0 11000 id).flushParked 0).epochDue 0 = true ∧ ((at0 0 fun l => { l with target := some epoch1 }).tile 0).slate.target = some epoch1 ∧
    dark.railsUp 0 = true ∧
    (dark.tile 0).powered = false ∧
    (at0 0 fun l => { l with target := some epoch1 }).imaging 0 5 = false ∧
    ((at0 65536 fun l => { l with replayLeft := [(5 + 64, 1)], replaying := true }).tile 0).slate.replayLeft = [(5 + 64, 1)] ∧ (5 + 64) % 64 = 5 ∧
    (State.reset.hub 0).powered = true ∧ ((State.reset.modHub 0 fun h => { h with powered := false }).hub 0).powered = false ∧
    (10240 + 31 < Config.numTiles + Config.numRims) ∧ State.reset.net = [] := by decide +kernel

def image1 : Image := ⟨5, { frame [] with st := .active }, {}, 1, true, none, none⟩

theorem test_PreemptionWatchdogsAndHeat_witness : ((at0 0 id fun f => { f with park := .asked }).frame 0 5).park = .asked ∧
    ((at0 0 id).frame 0 5).st = .active ∧ ((at0 0 id fun f => { f with park := .marked 0 }).frame 0 5).park = .marked 0 ∧ (at0 0 id).issuesNothing 0 5 = true ∧
    ((((at0 0 fun l => { l with images := [image1] }).tile 0).slate.images.filter fun x => x.asked)[0]?.isSome = true) ∧
    (CDom.seat {} image1).isSome = true ∧ ((tl id).part 0).watchLimit = some 1100000000 ∧
    (1100000000 ≤ ((at0 0 id fun f => { f with watch := 1100000000 }).frame 0 5).watch) ∧ ((at0 0 id).frame 0 5).part = 0 ∧
    65536 ≤ ((tl fun c => { c with tileWatch := 65536 }).c 0).tileWatch ∧ (State.reset.hub 0).levelAt (16 * 115 - 1) = 2 ∧ (State.reset.hub 0).levelAt (16 * 115) = 3 ∧
    (State.reset.hub 0).crit = none ∧ (BitVec.toInt (16 * 115 : BitVec 16) = 16 * 115) ∧
    ((State.reset.modHub 0 fun h => { h with crit := some 0 }).fieldFrames 0).isEmpty = true ∧ (State.reset.hub 0).railsOff = false ∧
    ((State.reset.modHub 0 fun h => { h with level := 1 }).hub 0).level ≠ 0 ∧ (BitVec.toInt (16 * 90 : BitVec 16) ≤ (State.reset.hub 0).threshold 1 - 80) := by decide +kernel

/-- The controller after a start and a version and algorithm exchange. -/
def ctl1 (keys : Bool) : State := { State.reset with ctl := { started := true, version := true, algorithms := true, secureA := if keys then .keys else .wiped [] false, secureB := if keys then .keys else .wiped [] false, verifyFails := 3, journal := [(bootIndex 1 0, 2 ^ 32), (bootIndex 2 0, 2 ^ 33)] } }

theorem test_BootAndAttestation_witness : bits (State.reset.ctl.journal.getD (bootIndex 0 0) 0) 33 32 = 0 ∧
    bits ((ctl1 true).ctl.journal.getD (bootIndex 1 0) 0) 33 32 = 1 ∧ hasAlternate 1 = true ∧ bits ((ctl1 true).ctl.journal.getD (bootIndex 2 0) 0) 33 32 = 2 ∧
    skippable 2 = true ∧ (4#3).toNat < 5 ∧ 5 ≤ (5#3).toNat ∧ (ctl1 true).ctl.version = true ∧ (ctl1 true).ctl.algorithms = true ∧
    (ctl1 true).ctl.keysPresent = true ∧ 3 ≤ (ctl1 true).ctl.verifyFails ∧ State.reset.ctl.verifyFails < 3 ∧ (ctl1 true).ctl.erasePending = false ∧ (ctl1 false).ctl.keysPresent = false ∧ (spdmIndices 5).isSome = true ∧
    (spdmIndices 0xF0).isSome = true ∧ State.reset.ctl.version = false ∧ State.reset.ctl.algorithms = false := by decide +kernel

/-- Requests that name slot 0 and slot 1, a summary of each type and of none; enough random bytes for an erasure. -/
theorem test_AttestationRequests_witness : (ctl1 true).ctl.halted = false ∧ ([0x12, 0x83, 0, 1] : List (BitVec 8)).getD 2 0 = 0 ∧
    ([0x12, 0x83, 0, 1] : List (BitVec 8)).getD 3 0 = 1 ∧ ([0x12, 0x83, 1, 2] : List (BitVec 8)).getD 2 0 ≠ 0 ∧
    ((List.replicate 36 0 ++ [16] : List (BitVec 8)).getD 36 0).toNat % 16 = 0 ∧ ((List.replicate 36 0 ++ [1] : List (BitVec 8)).getD 36 0).toNat % 16 ≠ 0 ∧
    State.reset.ctl.alarmOff = false ∧ (State.reset.hub 0).excluded = false ∧ State.reset.ctl.halted = false := by decide +kernel

theorem test_ErasureBytes_witness : Config.secureBytes ≤ (List.replicate Config.secureBytes (0 : BitVec 8)).length := by simp

/-! ### Witnesses: host and span links -/

/-- Function 0 of partition 0, with an entry of its subscription table. -/
def host (e : HostSub) (f : Vf → Vf := id) : State :=
  { tl id with vfs := [(0, f { enabled := true, subs := [(255, e)] })], parts := [(0, { fields := 1, st := 2, quota := (0, 1), bindings := [bound] })] }
/-- An unarmed entry of one name, with room for a tile of one sector and its header; word 2 without ARMED. -/
def sub0 : HostSub := { w0 := w64 hiWord }
def sub1 : HostSub := { sub0 with armed := true, hi := w64 hiWord, w2 := w64 (2 * 2 ^ 12) }
/-- The delivery of its name has been made, and its name words have been written again. -/
def sub2 : HostSub := { sub1 with count := 1, w1Written := true }
def toHost : Msg := { src := .tile 0, dst := .gateway 0, cls := .nameData, body := .name .copy { name := tensor0, slot := 255 } }

theorem test_VirtualFunctionAccesses_witness : ((host sub0).vf 0).enabled = true ∧ ((host sub0).vf 0).busy.getLsbD 15 = false ∧
    (((host sub0 fun f => { f with busy := 0x8000 }).vf 0).busy.getLsbD 15 = true) ∧ (host sub0).pteOk 0 (2 ^ 26 - 8) = true ∧
    (host sub0).pteOk 0 (2 ^ 26) = false ∧ (host sub0).tlbBusy 0 = false ∧
    (withNet (host sub0 fun f => { f with invTick := some 0 }) (hbmMsg true 2)).invDone 0 = false ∧ (((host sub0).vf 0).subs.getD 255 {}).armed = false ∧
    subOk ((host sub0).part 0) (w64 hiWord) 0 (w64 (2 * 2 ^ 12) ||| (1#64 <<< 63)) 0 = true ∧
    subOk ((host sub0).part 0) (w64 hiWord) 0 (w64 (2 ^ 12) ||| (1#64 <<< 63)) 0 = false ∧ (((host sub1).vf 0).subs.getD 255 {}).armed = true ∧
    sub1.closing = false ∧ (host sub1).nextCopy 0 sub1 { name := tensor0, slot := 255 } = true ∧
    (BitVec.ofNat 32 sub1.count - (((host sub1).vf 0).ci.getD 255 0).setWidth 32).toNat < sub1.ring ∧ (withNet (host sub1) toHost).net[0]? = some toHost ∧
    w64 sub1.gen = 0 ∧ w64 { sub1 with gen := 1 }.gen ≠ 0 ∧ (((host sub0).vf 0).subs.getD 255 {}).armed = false ∧
    (bar2Base - 8 < bar2Base ∧ (bar2Base - 8) % 8 = 0 ∧ 12 % 8 ≠ 0) := by decide +kernel

/-- A partition that may be created, one that exists, a step of the journal, and counters published every 1,024 ticks. -/
def phys (st : Nat) : State :=
  { State.reset with
    quartz := 1024
    ctl := { journal := [(7, 0x3C0000FFFF)] }
    parts := [(0, { fields := 1, st := st, qsize := 1, hdctl := w64 (2 ^ 32) })] }

theorem test_PhysicalFunctionAccesses_witness : (phys 0).createErr 0 = 0 ∧ (phys 2).createErr 0 ≠ 0 ∧ ((phys 2).part 0).st = 2 ∧ ((phys 0).part 0).st ≠ 2 ∧
    (phys 0).ctl.journal.get? 7 = some 0x3C0000FFFF ∧ 0x206008 % 8 = 0 ∧ ((phys 2).tile ((phys 2).loaderTile 0)).powered = true ∧
    (((phys 2).part 0).hdctl.toNat / 2 ^ 32 * 1024 = 1024) ∧ ((phys 2).part 0).snapTick + 1024 ≤ (phys 2).quartz := by decide +kernel

/-- Link 15, up or down, with a frame to replay and a publish that has waited for 16,384 ticks. -/
def link (up : Bool) : State :=
  { State.reset with
    quartz := 2 ^ 20
    spans := [(15, { up := up, replay := [(3, toHost, 0)], waiting := [({ toHost with body := .name .publish {} }, 0)] })]
    tiles := [(0, { n := { samples := [toHost] } })] }

theorem test_SpanLinksSamplesAndLife_witness : (15 < Config.numSpans) ∧ ((link true).span 15).up = true ∧
    (0#96).extractLsb' 84 12 = ((link true).span 15).ack + 1 ∧ (0#96).extractLsb' 69 3 < 2#3 ∧ (1#96 <<< 84).extractLsb' 84 12 ≠ ((link true).span 15).ack + 1 ∧
    ((link false).span 15).up = false ∧ ((link true).span 15).replay ≠ [] ∧ ((link false).span 15).replay.length + ((((link false).span 15).waiting.map fun e => e.1.flits).foldl (· + ·) 0) ≤ 1024 ∧
    Msg.flits { toHost with body := .name .publish { bytes := List.replicate 129 0 } } = 2 ∧ ({ kind := .publish, hi := 0, lo := 0, left := 1 } : SpanFlit).left ≠ 0 ∧
    ((link false).span 15).waiting[0]? = some ({ toHost with body := .name .publish {} }, 0) ∧ 0 + (link false).stallOf toHost.src ≤ (link false).quartz ∧
    ((link true).n 0).samples[0]? = some toHost ∧ ((link true).hub 63).sampleTick + 2 ^ 20 ≤ (link true).quartz ∧ ((link true).hub 63).powered = true ∧
    -320 ≤ BitVec.toInt (0xFEC0 : BitVec 16) := by decide +kernel

/-! ### Witnesses: the whole machine -/

/-- Frame 5 with a valid trap vector, in a state. -/
def trapping (st : FrameSt) : State := tl id fun f => { f with trapv := w64 (2 ^ 20 + 64), st := st }

theorem test_FaultsTrapOrAbort_witness : Cause.align.trapping = true ∧ ((trapping .active).frame 0 5).trapv.getLsbD 20 = true ∧
    ((trapping .active).c 0).inst? 1 = some (Inst.blank 5) ∧ (Inst.blank 5).tt = false ∧ ((trapping .active).frame 0 5).st ≠ .trapped ∧
    ((trapping .trapped).frame 0 5).st = .trapped ∧ Cause.illop.trapping = false ∧ ((trapping .active).frame 0 5).abortRec = none ∧
    ((tl id fun f => { f with abortRec := some [] }).frame 0 5).abortRec ≠ none := by decide +kernel

theorem test_SlotOperations_witness : encode (.add .i32 (.p 0) .one (.latch 0)) ≠ none ∧ (latch0 (.add .i32 (.p 0) .one (.latch 0)) (bench [])) = some 8 := by
  decide +kernel

theorem test_EncodeDecodeRoundTrip_witness : (Instr.add .i32 (.p 0) (.lit 1) (tgt (same 2 1))).wellFormed = true ∧
    encode (.add .i32 (.p 0) (.lit 1) (tgt (same 2 1))) = some (.s, 0x011831A28900000#60) := by decide +kernel

theorem test_MemoryReadsWhatWasWritten_witness : Memory.wf [] = true ∧ Memory.wf [(3, 1)] = true ∧ Memory.wf [(3, 0)] = false ∧ Memory.wf [(3, 1), (3, 2)] = false := by
  decide +kernel

/-- A state without an issue or an event takes the step that lets a tick pass. -/
theorem test_MemoryStaysCanonical_witness : memOk State.reset = true ∧ step State.reset = .next (State.reset.advance 1) := ⟨by decide +kernel, rfl⟩

/-- Tile 3's memories, those of its slate among them, and one that is not canonical. -/
theorem test_TileMemoriesStayCanonical_witness : tilesOk State.reset = true ∧
    tilesOk { State.reset with tiles := [(3, { c := { scratch := [(4, 1)] }, n := { fshared := [(0, 9)] }, slate := { snap := some {}, lost := some {}, images := [image1], target := some epoch1 } })] } = true ∧
    tilesOk { State.reset with tiles := [(3, { slate := { snapN := some { fshared := [(5, 0)] } } })] } = false := by decide +kernel

theorem test_OnlyMissingUnitsStop_witness : missingUnit (.tokenArrival 10240) = true ∧ missingUnit (.tokenArrival 10239) = false ∧
    missingUnit (.functionLevelReset 65) = true ∧ missingUnit (.functionLevelReset 64) = false ∧ missingUnit (.securityAlarm 5 []) = true ∧
    missingUnit (.pageWalk (Config.numTiles + Config.numRims) 0 0) = true ∧ missingUnit (.pageWalk Config.numTiles 0 0) = false ∧
    missingUnit (.pageMigration 0 (2 ^ 41)) = true ∧ missingUnit (.spanReplay 16) = true ∧ missingUnit (.spanReplay 15) = false ∧
    encode (.sink) ≠ none ∧ isEvent .sink = false ∧ isEvent (.tokenArrival 0) = true := by decide +kernel

/-! ### Witnesses: further cases of the statements above -/

/-- 1.0, the smallest subnormal and the largest number of FP16; their codes are finite, an infinity's is not. -/
theorem test_FloatArithmeticRoundsOnce_witness : (unpack .f16 0x3C00).finite = true ∧ (unpack .f16 1).finite = true ∧ (unpack .f16 0x7BFF).finite = true ∧
    (unpack .f16 0x7C00).finite = false ∧ (fadd .f16 0x7BFF 0x7BFF).1 = 0x7C00 ∧ (fadd .f16 0x3C00 1).1 = 0x3C00 ∧ (fmul .f16 1 0x4000).1 = 2 := by decide +kernel

/-- Operand words whose FS is not that of the accumulator, an accumulator in an integer mode, eight of another frame's, a slot that is too small. -/
theorem test_AccumulatorOperations_else_witness : MDesc.fs (w64 (2 ^ 60)) ≠ MConf.fsa 128 ∧ MDesc.fs (w64 (2 ^ 60)) ≠ MConf.fsb 128 ∧ (armed true).accInteger 0 = true ∧
    ((armed true).configured 0).isSome = true ∧ 65535 < ((mat [65536]).sc (.f 0)).toNat ∧ 2 ^ 32 ≤ ((mat [2 ^ 32]).sc (.f 0)).toNat ∧
    ((mat []).modC 0 fun c => { c with accs := (List.range 8).map fun k => (k, { frame := some 6 }) }).accFor 1 = none ∧
    MDesc.fits 0x1000000 0x102 (MConf.rows 128) 64 = false ∧ ((mat []).mview.slots.get? (MDesc.slot 0x1FF)).isNone = true ∧
    MDesc.ok 0x1000000 0x1FF (operandRow 1 (MConf.k 128)) = true ∧ loadcOk 1 true = false := by decide +kernel

/-- An index at its limit in lane 3 with the lanes before it good, a lane past its window, a generator of 4 elements at element 2. -/
theorem test_AccessChecks_lanes_witness : (∀ k < 3, ((bench [privPtr 0, 4]).vec (.p 1)).getD k 0 < (4 : W32)) ∧
    ((bench [privPtr 0, 4]).pairLimit (.f 0)).toNat ≤ (((bench [privPtr 0, 4]).vec (.p 1)).getD 3 0).toNat ∧
    ptrFault (bench []).acc (w64 (privPtr 4096)) 8 8 1 ≠ none ∧ ptrFault (bench []).acc (w64 (privPtr 4088)) 8 8 0 = none ∧
    (genState.genOf (.f 0)).map Gen.esize = some 4 ∧ (genState.genOf (.f 0)).map Gen.total = some 4 ∧ (genState.genOf (.f 1)) = none ∧
    4 ≤ (genState.sc (.f 0)).toNat % 2 ^ 32 + genState.iss.set.base.toNat + 2 ∧ (genState.sc (.f 0)).toNat % 2 ^ 32 + genState.iss.set.base.toNat + 1 < 4 ∧
    isLocal (adda ((bench [privPtr 8]).sc (.f 0)) 0) = true := by decide +kernel

/-- No job of accumulator 2 is due, a rail sample after 550 ticks, a loop that last spawned in the cycle before. -/
theorem test_MatrixArray_due_witness : (List.range 8).any (((mat []).modC 0 fun c => { c with array := .firing 2 0 0 true 96 1 1 }).c 0).jobDue = false ∧
    ((mat []).c 0).accs.has 2 = true ∧ (State.reset.hub 0).railTick + 550 ≤ ({ State.reset with quartz := 550 } : State).quartz ∧
    State.reset.quartz < (State.reset.hub 0).railTick + 550 ∧ (lp 0).lastSpawn ≠ some ((tl id).c 0).cycle := by decide +kernel

/-- A reply to a frame that may take it, to a durable frame whose log is full, a claim answer for another task, a line that owes a
request of the tile that writes back. -/
theorem test_Replies_wait_witness : (tl id).replyWaits 0 5 = false ∧
    (((tl id fun f => { f with pmode := true }).modSlate 0 fun l => { l with inBytes := 262144 }).replyWaits 0 5 = true) ∧
    ((tl id).frame 0 5).task.taskId ≠ 7 ∧ hline.owes 1 [(0, [])] = false ∧ (hline.acks.any fun c => c.1 == 1) = true ∧
    ({ hline with queue := [req .write false], acks := [] } : HLine).owes 1 [(0, [])] = true ∧ (entry0 id).keptRetain = [] ∧ (entry0 id).reds = [] ∧
    (entry0 id).fetching = [] ∧ (entry0 id).claim = none := by decide +kernel

/-- The function of partition 0 resolves a stall; a stack at CRIT, one degree below it, and one in self-refresh. -/
theorem test_Translation_enabled_witness : ((xl 1 (wk (some 3)) false true).walkWaits 0 512 = false) ∧
    (({ xl 1 (wk (some 3)) false true with vfs := [(0, { enabled := true })] } : State).vf 0).enabled = true ∧ (xl 1 (wk none) false true).ctl.halted = false ∧
    ((16 * State.reset.pf.crit.toNat : Nat) ≤ (BitVec.ofNat 16 (16 * 115)).toInt) ∧ ((BitVec.ofNat 16 (16 * 115 - 1)).toInt < (16 * State.reset.pf.crit.toNat : Nat)) ∧
    State.reset.attachedCritical 0 = false ∧ State.reset.asleep 0 = false ∧ (State.reset.modRim 0 fun r => { r with selfRefresh := true }).asleep 8 = true := by
  decide +kernel

/-- A field at level 0 that rises, one at level 1 that falls, stays at the limit, or reads a temperature beyond the alarm's. -/
theorem test_Thermal_levels_witness : (State.reset.hub 0).level < (State.reset.hub 0).levelAt (16 * 95) ∧ (State.reset.hub 0).levelAt (16 * 95 - 1) = 0 ∧
    ((State.reset.modHub 0 fun h => { h with level := 1 }).hub 0).level ≠ 0 ∧ (16 * 90 : Int) ≤ (State.reset.hub 0).threshold 1 - 80 ∧
    (State.reset.hub 0).threshold 1 - 80 < (16 * 90 + 1 : Int) ∧ (State.reset.hub 0).threshold 3 + 240 < (16 * 130 + 1 : Int) := by decide +kernel

/-- An entry of one EXACT name with its delivery made and word 1 written again, one still to be delivered; a stack asleep under HPTEADDR. -/
theorem test_VirtualFunction_rearm_witness : (host sub2).subSatisfied 0 sub2 = true ∧ sub2.w1Written = true ∧ sub2.closing = false ∧
    subOk ((host sub2).part 0) (w64 hiWord) 0 (w64 (2 * 2 ^ 12) ||| (1#64 <<< 63)) 0 = true ∧ (host sub1).subSatisfied 0 sub1 = false ∧
    (host sub2).ctl.halted = false ∧ ((host sub2).pteOk 0 8 = true) ∧ ((host sub2).modRim 0 fun r => { r with selfRefresh := true }).pteOk 0 8 = true ∧
    ((host sub2).modRim 0 fun r => { r with selfRefresh := true }).asleep 8 = true ∧ (host sub2).asleep 8 = false ∧ (phys 2).ctl.halted = false ∧
    (1#64 <<< 56).extractLsb' 56 2 = 1#2 ∧ (2#64 <<< 56).extractLsb' 56 2 = 2#2 := by decide +kernel

/-- A frame of class 3 in order, and a link with nothing waiting. -/
theorem test_Span_classes_witness : 3 ≤ ((3#96 <<< 69).extractLsb' 69 3).toNat ∧ (3#96 <<< 69).extractLsb' 84 12 = ((link true).span 15).ack + 1 ∧
    (State.reset.span 15).waiting = [] ∧ State.reset.quartz < (State.reset.hub 63).sampleTick + 2 ^ 20 := by decide +kernel

/-- An instance whose bundle 3 stores 0xAB and 1 at bytes 0 and 4 of its scratch area, and whose bundle 4 adds 1 to the word at 0. -/
def storing (atomic : Bool) : Com :=
  let store : BufStore := ⟨3, [⟨0, w64 (scrPtr 0), 1, 0xAB⟩, ⟨1, w64 (scrPtr 4), 1, 1⟩], 1, false, none, 8, 0, 0⟩
  let add : Eff := { bun := 4, slot := 5, op := .atomic 0x10 4 0, a := w64 (scrPtr 0), b := 1 }
  ⟨tl fun c => { c with scratch := [] }, 0, 1, { done with stores := [store], effs := if atomic then [add] else [] }, 1, 1, [], none, none, none⟩

/-- Byte 0 holds the store or, behind it, the sum; byte 4 the store; byte 5 is not written. -/
theorem test_CommittedScratchpad_witness : (storing true).frame.localAddr (w64 (scrPtr 4)) = 4 ∧ ((storing true).i.storesOf 3).length = 1 ∧
    ((storing true).i.effsOf 4).length = 1 ∧ (storing true).i.effsOf 3 = [] ∧
    ((List.range 8).map fun a => ((((List.range 32).foldl Com.stores (storing false)).s.c 0).scratch.read a).toNat) = [0xAB, 0, 0, 0, 1, 0, 0, 0] ∧
    ((List.range 8).map fun a => ((((List.range 32).foldl Com.stores (storing true)).s.c 0).scratch.read a).toNat) = [0xAC, 0, 0, 0, 1, 0, 0, 0] := by
  decide +kernel

/-- Accumulator 2 with one job at its head over tile slot 1 or the FULL slot 2, which has started or not. -/
def jobAt (op : EffOp) (a b : W64) (work : Option (AccSt × W64)) : State :=
  (mat []).modC 0 fun c => { c with accs := [(2, { frame := some 5, conf := some 128, jobs := [⟨op, a, b, ⟨0, 0, 0, 0, 0⟩, []⟩], work := work })] }
def readyJob (s : State) : Bool := (s.c 0).firingDue == false && (s.c 0).accParked 2 == false && (((s.c 0).accs.getD 2 {}).frame == some 5)
def acc2 (s : State) : Acc := (s.c 0).accs.getD 2 {}

theorem test_MatrixJobs_witness : readyJob (jobAt (.mcfg 0) 128 1 none) = true ∧ readyJob (jobAt (.msrca 0) 0x1000000 0x102 none) = true ∧
    (acc2 (jobAt (.msrcb 0) 0x1000000 0x102 none)).quiet = true ∧
    (((jobAt (.mloadc 0) 0x1000000 0x102 none).c 0).slotOf 5 (MDesc.slot 0x102)).map (fun q => q.2.full) = some true ∧ loadcOk 1 false = true ∧
    loadcOk 1 true = false ∧ (acc2 (jobAt (.mloadc 0) 0x1000000 0x102 (some (.accum, 1)))).work = some (.accum, 1) ∧
    (((jobAt (.mdrain 0) 0x1000000 0x101 none).c 0).slotOf 5 (MDesc.slot 0x101)).map (fun q => q.2.stateNum) = some 0 ∧ drainOk 1 = true ∧
    drainOk (w64 5) = false ∧ (((mat []).c 0).frame 5).fsOf (MDesc.fs 0x1000000) = 1 ∧ FmtSlot.elemBits 1 = 16 ∧
    MDesc.ok 0x1000000 0x101 (MConf.cols 128 * 16 / 8) = true ∧ FmtSlot.elemBits 8 = 4 := by decide +kernel

/-- An offset of LOOP within a header, one past the code area, a GOTO beside it; a trap vector within a header, and one past the code area. -/
theorem test_BlockHeaders_witness : ((bench [4033]).sc (.f 0)).toNat % 2 ^ 20 % 64 ≠ 0 ∧ ((bench [4033 * 2 ^ 20]).sc (.f 0)).toNat / 2 ^ 20 % 2 ^ 20 % 64 ≠ 0 ∧
    (bench [4096]).iss.frame.task.codekb * 1024 ≤ ((bench [4096]).iss.set.block + 4096) % 2 ^ 20 ∧
    (bench [] id fun i => { i with term := some (.goto 1) }).inst.term = some (.goto 1) ∧
    (bench [] id fun i => { i with term := some (.goto 1) }).inst.issuedSpawn = false ∧
    (bench [] id fun i => { i with term := some .retb }).inst.term = some .retb ∧
    2 ^ 20 ≤ ((bench [2 ^ 20 + 1]).sc (.f 0)).toNat ∧ ((bench [2 ^ 21 - 1]).sc (.f 0)).toNat < 2 ^ 21 ∧ ((bench [2 ^ 20 + 1]).sc (.f 0)).toNat % 64 ≠ 0 ∧
    (bench [2 ^ 20 + 4096]).iss.frame.task.codekb * 1024 ≤
      ((bench [2 ^ 20 + 4096]).iss.set.block + ((bench [2 ^ 20 + 4096]).sc (.f 0)).toNat % 2 ^ 20) % 2 ^ 20 := by decide +kernel

/-- Beside the largest number of FP16 and of E4M3: NaNs of both kinds, infinities, zeros of both signs; a NaN that converts. -/
theorem test_FloatValues_witness : (unpack .f16 0x7C01).isSnan = true ∧ (unpack .f16 0x7E00).isNan = true ∧ (unpack .f16 0x7E00).isSnan = false ∧
    unpack .f16 0x7C00 = .inf false ∧ unpack .f16 0xFC00 = .inf true ∧ (unpack .f16 0x8000).isZero = true ∧ (unpack .f16 0x8000).neg = true ∧
    Fmt.f16.top = .ieee ∧ Fmt.e4m3.top = .e4m3 ∧ Fmt.e2m1.top = .finite ∧ (2 ^ 10 - 1 : Nat) < 2 ^ 10 ∧
    (FmtSlot.float (FmtSlot.fmt 3)).isSome = true ∧ FmtSlot.fmt 10 = 10 ∧ FmtSlot.fmt 11 = 11 ∧ FmtSlot.fmt 7 = 7 ∧ FmtSlot.fmt 8 = 8 ∧ ((-8 : Int) ≤ 7) := by
  decide +kernel

/-- A scale of 1 is positive; a block of zeros, one with an infinity. -/
theorem test_Quantization_values_witness : (unpack Fmt.f16 0x3C00).neg = false ∧ (unpack Fmt.f16 0x3C00).finite = true ∧ (unpack Fmt.f16 0x3C00).isZero = false ∧
    (255 : Nat) < 2 ^ 8 ∧ Fl.finite (.fin true 0 0) = true ∧ Fl.finite (.inf true) = false ∧ (bench []).quantBlock 5 [.fin true 0 0] = ([(8, 0)], 0, 0) ∧
    (bench []).quantBlock 6 [.inf false, .fin false 1 0] = ([(0, 0), (0, 0)], 255, Fp.nv) := by decide +kernel

/-- A port whose registrations have gone, and which was detached before, in an entry that another port keeps; an element that came over a link. -/
theorem test_RouterPorts_witness : (((rt 1 0 false fun e => { e with det := [true, false, false, false, false] }).n 0).nmt.find? fun e =>
      e.is { regMsg with port := 0 }).map (fun e => (e.cnt.getD 0 0, e.det.getD 0 false, decide (e.cnt.getD 0 0 < 255))) = some (0, true, true) ∧
    upstream 0 (.span 3 0) = atDirectory + 4 ∧ branchEnd 0 5 = (.span 0 0, atDirectory) ∧ numPorts = 21 ∧
    (withNet (rt 1 1 true) { nameMsg .element { regMsg with stream := true } with src := .span 0 0 }).arrivable 0 = true := by decide +kernel

/-- All 1,024 entries of the home hold other names, and the publish needs no claim; a stack that a start excluded. -/
def full1 : State := (home id).modN 0 fun n => { n with names := List.replicate 1024 (freshEntry { tensor0 with tensor := 0x51 } 0) }

theorem test_DirectoryFull_witness : full1.claimFree 0 { regMsg with who := .gateway 0, bytes := [1] } bound = true ∧
    (full1.takePub 0 { regMsg with who := .gateway 0, bytes := [1] } bound).isNone = true ∧ regMsg.trace = false ∧
    ((State.reset.modRim 31 fun r => { r with excluded := true }).rim 31).excluded = true ∧ (State.reset.rim 31).excluded = false := by decide +kernel

/-- A bundle being issued with one slot still to perform. -/
def issuing (k : Nat) (b : BitVec 512) (waits : List PWait) : Issue := { active := true, bundle := b, todo := [k], waits := waits }
def okAnd (x : Dec Instr) (p : Instr → Bool) : Bool := match x with | .ok i => p i | _ => false

theorem test_AStepRunsTheNextInstruction_witness : okAnd (decodeBundleSlot addBundle 0) (fun i => !(issuing 0 addBundle []).owes i) = true ∧
    okAnd (decodeBundleSlot (bundleOf 5 0x10A921A28C00000 0) 5)
      (fun i => (issuing 5 (bundleOf 5 0x10A921A28C00000 0) [{ id := 1, slot := 4, wait := .barw, dst := { latch := some 0 }, done := {} }]).owes i) = true ∧
    decodeBundleSlot (bundleOf 0 0x000A28A28000000 0) 0 = .illOp ∧ decodeBundleSlot (bundleOf 0 0x011BB1A28900000 0) 0 = .illSrc ∧
    State.reset.iss.active = false ∧ State.reset.sched = [] := by decide +kernel

/-- The word of an instruction placed where the next step takes it: ADD with port 0 = 0 writes b0. -/
theorem test_step_runs_the_word : (match step (State.reset.withFetchWord 512 (bundleOf 0 0x011831A28900000 0).toNat) with
    | .next u => u.iss.todo == [] && u.iss.slot == 0
    | _ => false) = true := by decide +kernel
end Sys2Proof.Tests
end

/-! PROOFS. Integer division, bit fields and ADDA (R226, R227, R232). -/

section

namespace Sys2Proof

theorem Ty.width_pos (t : Ty) : 0 < t.width := by cases t <;> decide

end Sys2Proof

namespace Sys2Proof.Machine

/-! ### Res and two's complement (R224) -/

/-- Res sees a value modulo 2^w only. -/
theorem res_congr {t : Ty} {v v' : Int} (h : v ≡ v' [ZMOD 2 ^ t.width]) : res t v = res t v' := by
  unfold res
  rw [h.eq]

theorem res_zero (t : Ty) : res t 0 = 0 := by cases t <;> decide

/-- signedOf is the library's two's complement reading of a bit vector. -/
theorem signedOf_eq_toInt {w : Nat} (hw : 0 < w) (x : Nat) : signedOf w x = (BitVec.ofNat w x).toInt := by
  have double : 2 ^ w = 2 * 2 ^ (w - 1) := by rw [← pow_succ', Nat.sub_add_cancel hw]
  rw [signedOf, BitVec.toInt_eq_toNat_cond, BitVec.toNat_ofNat]
  by_cases neg : x % 2 ^ w ≥ 2 ^ (w - 1)
  · rw [if_pos neg, if_neg (by omega)]
    push_cast
    rfl
  · rw [if_neg neg, if_pos (by omega)]

/-- Two's complement keeps the low w bits and repeats bit w − 1 above them. -/
theorem getLsbD_ofInt_signedOf {w j : Nat} (hw : 0 < w) (hj : j < 64) (x : Nat) :
    (BitVec.ofInt 64 (signedOf w x)).getLsbD j = x.testBit (if j < w then j else w - 1) := by
  rw [signedOf_eq_toInt hw, ← BitVec.signExtend, BitVec.getLsbD_signExtend]
  split
  · next h => simp only [BitVec.getLsbD_ofNat, h, hj, decide_true, Bool.true_and]
  · simp only [BitVec.msb_eq_getLsbD_last, BitVec.getLsbD_ofNat, hj, show w - 1 < w by omega, decide_true, Bool.true_and]

theorem getLsbD_w64 {j : Nat} (hj : j < 64) (n : Nat) : (w64 n).getLsbD j = n.testBit j := by
  rw [w64, BitVec.getLsbD_ofNat, decide_eq_true hj, Bool.true_and]

/-! ### DIV and REM (R226) -/

theorem div_delivers (t : Ty) (a b : Src) (d : Dst) (s : State) :
    Delivers (.div t a b d) s d 0 (.scalar (res t (divInt t (opnd t (s.sc a)) (opnd t (s.sc b))))) := deliver_delivers rfl

theorem rem_delivers (t : Ty) (a b : Src) (d : Dst) (s : State) :
    Delivers (.rem t a b d) s d 0 (.scalar (res t (remInt t (opnd t (s.sc a)) (opnd t (s.sc b))))) := deliver_delivers rfl

theorem divInt_zero (t : Ty) (x : Int) : divInt t x 0 = -1 := rfl

theorem remInt_zero (t : Ty) (x : Int) : remInt t x 0 = x := rfl

theorem divInt_of_ne_zero (t : Ty) (x : Int) {y : Int} (h : y ≠ 0) : divInt t x y = x.tdiv y := if_neg h

theorem remInt_of_ne_zero (t : Ty) (x : Int) {y : Int} (h : y ≠ 0) : remInt t x y = x.tmod y := by
  rw [remInt, if_neg h, Int.tmod_def]

/-- All w bits one are the pattern of −1. -/
theorem res_neg_one (t : Ty) : res t (-1) = res t (2 ^ t.width - 1) :=
  res_congr (Int.modEq_iff_dvd.2 ⟨1, by ring⟩)

/-- The most negative value and its negation have one pattern. -/
theorem res_two_pow_pred (t : Ty) : res t (2 ^ (t.width - 1)) = res t (-(2 ^ (t.width - 1))) := by
  have double : (2 : Int) ^ t.width = 2 * 2 ^ (t.width - 1) := by rw [← pow_succ', Nat.sub_add_cancel t.width_pos]
  exact res_congr (Int.modEq_iff_dvd.2 ⟨-1, by rw [double]; ring⟩)

/-- Settles O3: by the three cases of R226, with Res taken modulo 2^w. -/
theorem divideAndRemainderCases : Obligations.DivideAndRemainderCases := by
  unfold Obligations.DivideAndRemainderCases
  intro t a b d s x y
  have hdiv : Delivers (.div t a b d) s d 0 (.scalar (res t (divInt t x y))) := div_delivers t a b d s
  have hrem : Delivers (.rem t a b d) s d 0 (.scalar (res t (remInt t x y))) := rem_delivers t a b d s
  refine ⟨fun hy => ?zero, fun _ hx hy => ?overflow, fun hy => ?otherwise⟩
  case zero =>
    rw [hy, divInt_zero, res_neg_one] at hdiv
    rw [hy, remInt_zero] at hrem
    exact ⟨hdiv, hrem⟩
  case overflow =>
    have quotient : divInt t x y = 2 ^ (t.width - 1) := by
      rw [divInt_of_ne_zero t x (by omega), hx, hy, Int.tdiv_neg, Int.tdiv_one, neg_neg]
    have remainder : remInt t x y = 0 := by
      rw [remInt_of_ne_zero t x (by omega), hy, Int.tmod_neg, Int.tmod_one]
    rw [quotient, res_two_pow_pred, ← hx] at hdiv
    rw [remainder, res_zero] at hrem
    exact ⟨hdiv, hrem⟩
  case otherwise =>
    rw [divInt_of_ne_zero t x hy] at hdiv
    rw [remInt_of_ne_zero t x hy] at hrem
    exact ⟨hdiv, hrem⟩

/-! ### BFX and BFI (R227) -/

/-- The position of a bit field: bits [5:0] of its control word. -/
theorem bits_5_0 (ctrl : W64) : bits ctrl 5 0 = ctrl.toNat % 64 := by simp [bits, bitsOf]

theorem fieldLen_eq (ctrl : W64) : fieldLen ctrl = min (ctrl.toNat / 64 % 128) (64 - ctrl.toNat % 64) := by
  rw [fieldLen, bits_5_0]; rfl

/-- A bit of the field at pos of length len, taken as a number. -/
theorem testBit_field (x : W64) (pos len j : Nat) :
    (x.toNat / 2 ^ pos % 2 ^ len).testBit j = (decide (j < len) && x.getLsbD (pos + j)) := by
  rw [Nat.testBit_mod_two_pow, Nat.testBit_div_two_pow, Nat.add_comm]; rfl

theorem bfx_of_len_zero (t : Ty) (x ctrl : W64) (h : fieldLen ctrl = 0) : bfx t x ctrl = 0 := if_pos h

/-- BFX, bit by bit: the field, then its top bit for i64 and 0 for n64. -/
theorem getLsbD_bfx (t : Ty) (x ctrl : W64) {j : Nat} (h : 0 < fieldLen ctrl) (hj : j < 64) :
    (bfx t x ctrl).getLsbD j =
      if j < fieldLen ctrl then x.getLsbD (bits ctrl 5 0 + j)
      else decide (t = .i64) && x.getLsbD (bits ctrl 5 0 + fieldLen ctrl - 1) := by
  simp only [bfx, if_neg h.ne']
  by_cases ht : t = .i64
  · rw [if_pos ht, getLsbD_ofInt_signedOf h hj, testBit_field]
    split
    · next hlen => simp only [hlen, decide_true, Bool.true_and]
    · simp only [show fieldLen ctrl - 1 < fieldLen ctrl by omega, ht, decide_true, Bool.true_and, Nat.add_sub_assoc h]
  · rw [if_neg ht, getLsbD_w64 hj, testBit_field]
    split
    · next hlen => simp only [hlen, decide_true, Bool.true_and]
    · next hlen => simp only [hlen, ht, decide_false, Bool.false_and]

/-- The low len bits of n moved up to bit pos. -/
theorem testBit_low_mul_two_pow (n len pos j : Nat) :
    (n % 2 ^ len * 2 ^ pos).testBit j = (decide (pos ≤ j ∧ j < pos + len) && n.testBit (j - pos)) := by
  rw [Nat.testBit_mul_two_pow, Nat.testBit_mod_two_pow, ← Bool.and_assoc, ← Bool.decide_and]
  congr 2
  exact propext (by omega)

/-- The mask of BFI has exactly the bits of the field. -/
theorem testBit_mask (len pos j : Nat) : ((2 ^ len - 1) * 2 ^ pos).testBit j = decide (pos ≤ j ∧ j < pos + len) := by
  rw [Nat.testBit_mul_two_pow, Nat.testBit_two_pow_sub_one, ← Bool.decide_and]
  congr 1
  exact propext (by omega)

/-- BFI, bit by bit: B inside the field, A outside of it; an empty field has no bit inside. -/
theorem getLsbD_bfi (x y ctrl : W64) {j : Nat} (hj : j < 64) :
    (bfi x y ctrl).getLsbD j =
      if bits ctrl 5 0 ≤ j ∧ j < bits ctrl 5 0 + fieldLen ctrl then y.getLsbD (j - bits ctrl 5 0) else x.getLsbD j := by
  by_cases empty : fieldLen ctrl = 0
  · rw [bfi, if_pos empty, if_neg (by omega)]
  · simp only [bfi, if_neg empty, BitVec.getLsbD_or, BitVec.getLsbD_and, BitVec.getLsbD_not, getLsbD_w64 hj, testBit_low_mul_two_pow,
      testBit_mask]
    split
    · next inside => simp [inside, BitVec.getLsbD]
    · next outside => simp [outside, hj]

/-- Settles O5: the bits of bfx and bfi, with the position and length of the control word. -/
theorem bitFieldExtractAndInsert : Obligations.BitFieldExtractAndInsert := by
  unfold Obligations.BitFieldExtractAndInsert
  intro t a b c d s
  simp only [← fieldLen_eq]
  simp only [← bits_5_0]
  constructor
  · exact ⟨bfx t (s.sc a) (s.sc b), deliver_delivers rfl, bfx_of_len_zero _ _ _, fun h _ hj => getLsbD_bfx t _ _ h hj⟩
  · exact ⟨bfi (s.sc a) (s.sc b) (s.sc c), deliver_delivers rfl, fun _ hj => getLsbD_bfi _ _ _ hj⟩

/-! ### ADDA (R232) -/

/-- The offset width by the window code A[63:60], as the table of R232 has it. -/
theorem offsetWidth_eq (p : W64) :
    offsetWidth p = if p.toNat / 2 ^ 60 = 0 then 56 else if p.toNat / 2 ^ 60 = 12 then 16
      else if p.toNat / 2 ^ 60 = 13 then 20 else if p.toNat / 2 ^ 60 = 14 then 24 else 64 := by
  have window : p.toNat / 2 ^ 60 = (p.extractLsb' 60 4).toNat := by
    rw [BitVec.extractLsb'_toNat, Nat.shiftRight_eq_div_pow]
    have := p.isLt
    omega
  rw [window]
  unfold offsetWidth
  generalize p.extractLsb' 60 4 = n
  revert n
  decide

theorem offsetWidth_le (p : W64) : offsetWidth p ≤ 64 := by
  rw [offsetWidth_eq]
  split_ifs <;> decide

/-- The sum stays within the word: the carry out of the offset field is dropped. -/
theorem toNat_adda (p b : W64) :
    (adda p b).toNat = p.toNat / 2 ^ offsetWidth p * 2 ^ offsetWidth p + (p.toNat + b.toNat) % 2 ^ offsetWidth p := by
  have word := offsetWidth_le p
  generalize hk : offsetWidth p = k at word ⊢
  have high : p.toNat / 2 ^ k < 2 ^ (64 - k) := by
    rw [Nat.div_lt_iff_lt_mul (by positivity), ← pow_add, Nat.sub_add_cancel word]
    exact p.isLt
  have low : (p.toNat + b.toNat) % 2 ^ k < 2 ^ k := Nat.mod_lt _ (by positivity)
  rw [adda, hk, w64, BitVec.toNat_ofNat]
  apply Nat.mod_eq_of_lt
  calc p.toNat / 2 ^ k * 2 ^ k + (p.toNat + b.toNat) % 2 ^ k
      < (p.toNat / 2 ^ k + 1) * 2 ^ k := by rw [Nat.add_one_mul]; omega
    _ ≤ 2 ^ (64 - k) * 2 ^ k := Nat.mul_le_mul_right _ high
    _ = 2 ^ 64 := by rw [← pow_add, Nat.sub_add_cancel word]

theorem adda_keeps_high (p b : W64) : (adda p b).toNat / 2 ^ offsetWidth p = p.toNat / 2 ^ offsetWidth p := by
  rw [toNat_adda, Nat.add_comm, Nat.add_mul_div_right _ _ (by positivity), Nat.div_eq_of_lt (Nat.mod_lt _ (by positivity)), Nat.zero_add]

theorem adda_adds_offset (p b : W64) : (adda p b).toNat % 2 ^ offsetWidth p = (p.toNat + b.toNat) % 2 ^ offsetWidth p := by
  rw [toNat_adda, Nat.mul_add_mod_self_right, Nat.mod_mod]

/-- Settles O8: the bits above the offset field and the sum within it. -/
theorem addaKeepsWindowAndKey : Obligations.AddaKeepsWindowAndKey := by
  unfold Obligations.AddaKeepsWindowAndKey
  intro a b d s
  simp only [← offsetWidth_eq]
  exact ⟨adda (s.sc a) (s.sc b), deliver_delivers rfl, adda_keeps_high .., adda_adds_offset ..⟩

end Sys2Proof.Machine
end

/-! PROOFS. The encoding round trip (R183 to R202). -/

section

namespace Sys2Proof

/-! ### The decoder's checks pass on encoded fields, one after the other -/

section

variable {r : Dec Instr}

theorem need_ok {c : Bool} {k : Dec Instr} (hc : c = true) (h : k = r) : need c k = r := by rw [hc, need_true, h]

theorem withSrc_ok {x : Src} {k : Src → Dec Instr} (h : k x = r) : withSrc (encSrc x) k = r := (withSrc_enc x k).trans h

theorem withDst_ok {d : Dst} {ok : Dst → Bool} {k : Dst → Dec Instr} (hd : ok d = true) (h : k d = r) :
    withDst (encDk d) (encDst d) ok k = r := (withDst_enc d ok k hd).trans h

theorem withVDst_ok {d : VDst} {ok : VDst → Bool} {k : VDst → Dec Instr} (hd : ok d = true) (h : k d = r) :
    withVDst (encVk d) (encVal d) ok k = r := (withVDst_enc d ok k hd).trans h

theorem withYDst_ok {d : YDst} {ok : YDst → Bool} {k : YDst → Dec Instr} (hd : ok d = true) (h : k d = r) :
    withYDst (encYk d) (encYd d) ok k = r := (withYDst_enc d ok k hd).trans h

theorem withDone_ok {t : Option Target} {k : Option Target → Dec Instr} (ht : doneOk t = true) (h : k t = r) :
    withDone (encShort t) k = r := (withDone_enc t k ht).trans h

theorem withX8_ok {x : BitVec 8} {k : BitVec 8 → Dec Instr} (h : k x = r) : withX8 (0#3 ++ x) k = r := (withX8_enc x k).trans h

theorem withX5_ok {x : BitVec 5} {k : BitVec 5 → Dec Instr} (h : k x = r) : withX5 (0#6 ++ x) k = r := (withX5_enc x k).trans h

/-! The check that an arm of the decoder begins with, where it is the arm's first one. -/

theorem decTy_ok {t : Ty} {ok : Ty → Bool} (ht : ok t = true) : ok (decTy (encTy t)) = true := by rw [decTy_encTy, ht]

theorem withN_cond {n : BitVec 3} : ((0#1 ++ n).extractLsb' 3 1 == 0) = true := by rw [extract_append_left]; rfl

theorem withKind_cond {hi n : BitVec 2} {no3 : Bool} (hn : (!no3 || n != 3) = true) :
    ((hi ++ n).extractLsb' 2 2 == hi && !(no3 && (hi ++ n).extractLsb' 0 2 == 3)) = true := by
  rw [extract_append_left, extract_append_right, Bool.not_and, beq_self_eq_true, Bool.true_and]
  exact hn

theorem withScope_cond {sc lo : BitVec 2} {no3 : Bool} (hs : (!no3 || sc != 3) = true) :
    ((sc ++ lo).extractLsb' 0 2 == lo && !(no3 && (sc ++ lo).extractLsb' 2 2 == 3)) = true := by
  rw [extract_append_left, extract_append_right, Bool.not_and, beq_self_eq_true, Bool.true_and]
  exact hs

theorem extract_ok {sc w : BitVec 2} {ok : BitVec 2 → Bool} (hw : ok w = true) : ok ((sc ++ w).extractLsb' 0 2) = true := by
  rw [extract_append_right, hw]

theorem withWidth_cond {w : BitVec 2} {ok : BitVec 2 → Bool} (hw : ok w = true) :
    ((0#2 ++ w).extractLsb' 2 2 == 0 && ok ((0#2 ++ w).extractLsb' 0 2)) = true := by
  rw [extract_append_left, extract_ok hw]; rfl

theorem withBit_cond {b : Bool} : ((0#3 ++ BitVec.ofBool b).extractLsb' 1 3 == 0) = true := by cases b <;> rfl

theorem ofBool_bit (b : Bool) : ((0#3 ++ BitVec.ofBool b).extractLsb' 0 1 == 1) = b := by cases b <;> rfl

theorem high_of_append (x y : BitVec 2) : BitVec.extractLsb' (n := 4) 2 2 (x ++ y) = x := extract_append_left x y

theorem low_of_append (x y : BitVec 2) : BitVec.extractLsb' (n := 4) 0 2 (x ++ y) = y := extract_append_right x y

theorem encSrc_zero : encSrc .zero = 0x28 := rfl

theorem withSrc_zero (k : Src → Dec Instr) : withSrc 0x28#6 k = k .zero := rfl

theorem packRaw_ok {t : Ty} {b c : Src} (h : packOk t b c = true) : packRaw (decTy (encTy t)) (encSrc b) (encSrc c) = true := by
  rw [decTy_encTy, packRaw_enc, h]

/-! ### Words of the three formats -/

theorem decodeS_ok {op mod sa sb sc d} (h : decodeS ⟨op, mod, sa, sb, sc, encDk d, encDst d⟩ = r) :
    decodeSlot .s (encG op mod sa sb sc d) = r := (congrArg decodeS (rawG_encG op mod sa sb sc d)).trans h

theorem decodeV_ok {op mod sa sb sc d} (h : decodeV ⟨op, mod, sa, sb, sc, encDk d, encDst d⟩ = r) :
    decodeSlot .v (encG op mod sa sb sc d) = r := (congrArg decodeV (rawG_encG op mod sa sb sc d)).trans h

theorem decodeM_ok {op mod sa sb sc d} (h : decodeM ⟨op, mod, sa, sb, sc, encDk d, encDst d⟩ = r) :
    decodeSlot .m (encG op mod sa sb sc d) = r := (congrArg decodeM (rawG_encG op mod sa sb sc d)).trans h

theorem decodeL_ok {op mod sa sb sc sd v n} (h : decodeL ⟨op, mod, sa, sb, sc, sd, encVk v, encVal v, encShort n⟩ = r) :
    decodeSlot .ld (encF op mod sa sb sc sd v n) = r := (congrArg decodeL (rawF_encF op mod sa sb sc sd v n)).trans h

theorem decodeA_ok {op mod sa sb sc sd v n} (h : decodeA ⟨op, mod, sa, sb, sc, sd, encVk v, encVal v, encShort n⟩ = r) :
    decodeSlot .sa (encF op mod sa sb sc sd v n) = r := (congrArg decodeA (rawF_encF op mod sa sb sc sd v n)).trans h

theorem decodeC_ok {op mod sa sb sc sd v n} (h : decodeC ⟨op, mod, sa, sb, sc, sd, encVk v, encVal v, encShort n⟩ = r) :
    decodeSlot .cp (encF op mod sa sb sc sd v n) = r := (congrArg decodeC (rawF_encF op mod sa sb sc sd v n)).trans h

theorem decodeY_ok {op mod sa sb sc x y} (h : decodeY ⟨op, mod, sa, sb, sc, x, 0, encYk y, encYd y⟩ = r) :
    decodeSlot .sy (encY op mod sa sb sc x y) = r := (congrArg decodeY (rawY_encY op mod sa sb sc x y)).trans h

end

/-! ### One map after the other (R197 to R200) -/

theorem decodeS_encode {i : Instr} {w : BitVec 60} (h : i.wellFormed = true) (e : encode i = some (.s, w)) :
    decodeSlot .s w = .ok i := by
  cases i with
  | add t a b d | sub t a b d | mul t a b d | mulh t a b d | div t a b d | rem t a b d | andOp t a b d | orOp t a b d | xor t a b d
  | andn t a b d | shl t a b d | shr t a b d | sra t a b d | rol t a b d | min t a b d | max t a b d | bfx t a b d | ceq t a b d | cne t a b d
  | clt t a b d | cle t a b d | fadd t a b d | fsub t a b d | fmul t a b d | fmin t a b d | fmax t a b d | fcmp t a b d =>
    obtain ⟨ht, hd⟩ := Bool.and_eq_true_iff.1 h
    cases e
    exact decodeS_ok <| need_ok (decTy_ok ht) <| withDst_ok hd <| need_ok rfl <| withSrc_ok <| withSrc_ok <| by rw [decTy_encTy]
  | absOp t a d | clz t a d | ctz t a d | popc t a d | brev t a d | mov t a d | fclass t a d =>
    obtain ⟨ht, hd⟩ := Bool.and_eq_true_iff.1 h
    cases e
    exact decodeS_ok <| need_ok (decTy_ok ht) <| withDst_ok hd <| need_ok rfl <| need_ok rfl <| withSrc_ok <| by rw [decTy_encTy]
  | bfi t a b c d | fma t a b c d | fcvt t a b c d =>
    obtain ⟨ht, hd⟩ := Bool.and_eq_true_iff.1 h
    cases e
    exact decodeS_ok <| need_ok (decTy_ok ht) <| withDst_ok hd <| withSrc_ok <| withSrc_ok <| withSrc_ok <| by rw [decTy_encTy]
  | sel a b c d | nameh a b c d | namel a b c d | join a b c d | callb a b c d =>
    cases e
    exact decodeS_ok <| need_ok rfl <| withDst_ok h <| withSrc_ok <| withSrc_ok <| withSrc_ok rfl
  | adda a b d | steer a b d | whileOp a c d | exitOp a b d | retb a b d | gate a b d =>
    cases e
    exact decodeS_ok <| need_ok rfl <| withDst_ok h <| need_ok rfl <| withSrc_ok <| withSrc_ok rfl
  | spq a d | frameq a d | qtime a d =>
    cases e
    exact decodeS_ok <| need_ok rfl <| withDst_ok h <| need_ok rfl <| need_ok rfl <| withSrc_ok rfl
  | spcvTooff k a d | spcvToptr k a d =>
    have hd : DstOk.any d = true := h
    cases e
    exact decodeS_ok <| by simp [decodeS, withDst_enc, hd, withKind_enc, high_of_append]
  | mkwin k a d =>
    cases e
    exact decodeS_ok <| need_ok (withKind_cond rfl) <| withDst_ok h <| need_ok rfl <| need_ok rfl <| withSrc_ok <| by rw [extract_append_right]
  | merge d =>
    cases e
    exact decodeS_ok <| need_ok rfl <| withDst_ok h <| need_ok rfl <| need_ok rfl <| need_ok rfl rfl
  | loop a b c d | loopVec a b c d =>
    have hd : DstOk.spawnSame d = true := h
    cases e
    exact decodeS_ok <| by simp [decodeS, withDst_enc, hd]
  | goto c =>
    cases e
    exact decodeS_ok <| need_ok rfl <| need_ok rfl <| need_ok rfl <| need_ok rfl <| withSrc_ok rfl
  | sink =>
    cases e
    exact decodeS_ok <| need_ok rfl <| need_ok rfl <| need_ok rfl <| need_ok rfl <| need_ok rfl rfl
  | tagq k a d =>
    obtain ⟨hk, hd⟩ := Bool.and_eq_true_iff.1 h
    cases e
    exact decodeS_ok <| need_ok (withKind_cond hk) <| withDst_ok hd <| need_ok rfl <| need_ok rfl <| withSrc_ok <| by rw [extract_append_right]
  | _ => cases e

theorem decodeV_encode {i : Instr} {w : BitVec 60} (h : i.wellFormed = true) (e : encode i = some (.v, w)) :
    decodeSlot .v w = .ok i := by
  cases i with
  | vadd t a b d | vsub t a b d | vmul t a b d | vmin t a b d | vmax t a b d | vmulh t a b d | vand t a b d | vor t a b d | vxor t a b d
  | vandn t a b d | vshl t a b d | vshr t a b d | vsra t a b d | vceq t a b d | vcne t a b d | vclt t a b d | vcle t a b d | vcun t a b d
  | vrndi t a b d | vcvti t a b d | vunpk t a b d =>
    obtain ⟨ht, hd⟩ := Bool.and_eq_true_iff.1 h
    cases e
    exact decodeV_ok <| need_ok (decTy_ok ht) <| withDst_ok hd <| need_ok rfl <| withSrc_ok <| withSrc_ok <| by rw [decTy_encTy]
  | vfma t a b c d | vfms t a b c d | vfnma t a b c d | vclamp t a b c d | vsel t a b c d | vcvt t a b c d =>
    obtain ⟨ht, hd⟩ := Bool.and_eq_true_iff.1 h
    cases e
    exact decodeV_ok <| need_ok (decTy_ok ht) <| withDst_ok hd <| withSrc_ok <| withSrc_ok <| withSrc_ok <| by rw [decTy_encTy]
  | vabs t a d | vneg t a d | vclz t a d | vpopc t a d | vclass t a d | vsum t a d | vmaxr t a d | vminr t a d | vscan t a d =>
    obtain ⟨ht, hd⟩ := Bool.and_eq_true_iff.1 h
    cases e
    exact decodeV_ok <| need_ok (decTy_ok ht) <| withDst_ok hd <| need_ok rfl <| need_ok rfl <| withSrc_ok <| by rw [decTy_encTy]
  | vpack t a b c d =>
    obtain ⟨h, hp⟩ := Bool.and_eq_true_iff.1 h
    obtain ⟨ht, hd⟩ := Bool.and_eq_true_iff.1 h
    cases e
    exact decodeV_ok <| need_ok (decTy_ok ht) <| withDst_ok hd <| need_ok (packRaw_ok hp) <| withSrc_ok <| withSrc_ok <| withSrc_ok <| by rw [decTy_encTy]
  | vqnt a b d | vscx a b d | vbcast a b d | vextr a b d | vperm a b d | vshfl a b d | viota a b d | vcmpr a b d =>
    cases e
    exact decodeV_ok <| need_ok rfl <| withDst_ok h <| need_ok rfl <| withSrc_ok <| withSrc_ok rfl
  | vdqnt a b c d | vrun a b c d =>
    cases e
    exact decodeV_ok <| need_ok rfl <| withDst_ok h <| withSrc_ok <| withSrc_ok <| withSrc_ok rfl
  | vrcp a d | vrsq a d | vfexp a d | vflog a d | vgetx a d | vgetm a d =>
    cases e
    exact decodeV_ok <| need_ok rfl <| withDst_ok h <| need_ok rfl <| need_ok rfl <| withSrc_ok rfl
  | _ => cases e

theorem decodeM_encode {i : Instr} {w : BitVec 60} (h : i.wellFormed = true) (e : encode i = some (.m, w)) :
    decodeSlot .m w = .ok i := by
  cases i with
  | mcfg n a | marm n a | mscale n a =>
    cases e
    exact decodeM_ok <| need_ok withN_cond <| need_ok rfl <| need_ok rfl <| need_ok rfl <| withSrc_ok <| by rw [extract_append_right]
  | msrca n a b | msrcb n a b | mloadc n a b | mdrain n a b =>
    cases e
    exact decodeM_ok <| need_ok withN_cond <| need_ok rfl <| need_ok rfl <| withSrc_ok <| withSrc_ok <| by rw [extract_append_right]
  | mdisarm n | mzero n =>
    cases e
    exact decodeM_ok <| need_ok withN_cond <| need_ok rfl <| need_ok rfl <| need_ok rfl <| need_ok rfl <| by rw [extract_append_right]
  | msort k a b d =>
    obtain ⟨hk, hd⟩ := Bool.and_eq_true_iff.1 h
    cases e
    exact decodeM_ok <| need_ok (withKind_cond hk) <| withDst_ok hd <| need_ok rfl <| withSrc_ok <| withSrc_ok <| by rw [extract_append_right]
  | mstat n d =>
    cases e
    exact decodeM_ok <| need_ok withN_cond <| withDst_ok h <| need_ok rfl <| need_ok rfl <| need_ok rfl <| by rw [extract_append_right]
  | tslotAlloc a b | tslotFree a | tsetEmpty a | tsetFull a | tsetRow a b c | tsetRowfull a b c =>
    cases e
    exact decodeM_ok <| by simp [decodeM]
  | tslotqNow a d =>
    have hd : DstOk.query2 d = true := h
    cases e
    exact decodeM_ok <| by simp [decodeM, withDst_enc, hd]
  | tslotqFull a d | tslotqEmpty a d =>
    have hd : DstOk.tgtOnly d = true := h
    cases e
    exact decodeM_ok <| by simp [decodeM, withDst_enc, hd]
  | _ => cases e

theorem decodeL_encode {i : Instr} {w : BitVec 60} (h : i.wellFormed = true) (e : encode i = some (.ld, w)) :
    decodeSlot .ld w = .ok i := by
  cases i with
  | ld w a b ord v done | ldacq w a b ord v done =>
    obtain ⟨hv, hn⟩ := Bool.and_eq_true_iff.1 h
    cases e
    exact decodeL_ok <| need_ok (withWidth_cond (ok := wAny) rfl) <| withVDst_ok hv <| withDone_ok hn <| need_ok rfl <| withSrc_ok <| withSrc_ok <| withSrc_ok <| by rw [extract_append_right]
  | ldv w a b ord v done | lds w a b ord v done | ldx w a b ord v done | ldag w a b ord v done | ldq w a b ord v done =>
    obtain ⟨h, hn⟩ := Bool.and_eq_true_iff.1 h
    obtain ⟨hw, hv⟩ := Bool.and_eq_true_iff.1 h
    cases e
    exact decodeL_ok <| need_ok (withWidth_cond hw) <| withVDst_ok hv <| withDone_ok hn <| need_ok rfl <| withSrc_ok <| withSrc_ok <| withSrc_ok <| by rw [extract_append_right]
  | pref rx a b ord =>
    cases e
    exact decodeL_ok <| need_ok withBit_cond <| need_ok rfl <| need_ok rfl <| need_ok rfl <| withSrc_ok <| withSrc_ok <| withSrc_ok <| by rw [ofBool_bit]
  | stashq a ord v done =>
    obtain ⟨hv, hn⟩ := Bool.and_eq_true_iff.1 h
    cases e
    exact decodeL_ok <| need_ok rfl <| withVDst_ok hv <| withDone_ok hn <| need_ok rfl <| need_ok rfl <| withSrc_ok <| withSrc_ok rfl
  | _ => cases e

theorem decodeA_encode {i : Instr} {w : BitVec 60} (h : i.wellFormed = true) (e : encode i = some (.sa, w)) :
    decodeSlot .sa w = .ok i := by
  cases i with
  | st sc w a b e ord done | strel sc w a b e ord done =>
    cases e
    exact decodeA_ok <| need_ok rfl <| need_ok rfl <| withDone_ok h <| withSrc_ok <| withSrc_ok <| withSrc_ok <| withSrc_ok <| by rw [extract_append_right, extract_append_left]
  | stv sc w a b e ord done | sts sc w a b e ord done | stx sc w a b e ord done | stag sc w a b e ord done =>
    obtain ⟨hw, hn⟩ := Bool.and_eq_true_iff.1 h
    cases e
    exact decodeA_ok <| need_ok (extract_ok hw) <| need_ok rfl <| withDone_ok hn <| withSrc_ok <| withSrc_ok <| withSrc_ok <| withSrc_ok <| by rw [extract_append_right, extract_append_left]
  | aadd sc w a b ord v done | aand sc w a b ord v done | aor sc w a b ord v done | axor sc w a b ord v done | axchg sc w a b ord v done
  | afadd sc w a b ord v done | aincw sc w a b ord v done | adecw sc w a b ord v done =>
    obtain ⟨h, hn⟩ := Bool.and_eq_true_iff.1 h
    obtain ⟨hw, hv⟩ := Bool.and_eq_true_iff.1 h
    cases e
    exact decodeA_ok <| need_ok (extract_ok hw) <| withVDst_ok hv <| withDone_ok hn <| need_ok rfl <| withSrc_ok <| withSrc_ok <| withSrc_ok <| by rw [extract_append_right, extract_append_left]
  | amin sc w a b e ord v done | amax sc w a b e ord v done | acas sc w a b e ord v done | afadd2 sc w a b e ord v done =>
    obtain ⟨h, hn⟩ := Bool.and_eq_true_iff.1 h
    obtain ⟨hw, hv⟩ := Bool.and_eq_true_iff.1 h
    cases e
    exact decodeA_ok <| need_ok (extract_ok hw) <| withVDst_ok hv <| withDone_ok hn <| withSrc_ok <| withSrc_ok <| withSrc_ok <| withSrc_ok <| by rw [extract_append_right, extract_append_left]
  | drain sc ord done =>
    cases e
    exact decodeA_ok <| need_ok (withScope_cond rfl) <| need_ok rfl <| withDone_ok h <| need_ok rfl <| need_ok rfl <| need_ok rfl <| withSrc_ok <| by rw [extract_append_left]
  | ordjoin a b e ord done =>
    cases e
    exact decodeA_ok <| need_ok rfl <| need_ok rfl <| withDone_ok h <| withSrc_ok <| withSrc_ok <| withSrc_ok <| withSrc_ok rfl
  | pfence sc ord done =>
    obtain ⟨hk, hn⟩ := Bool.and_eq_true_iff.1 h
    cases e
    exact decodeA_ok <| need_ok (withScope_cond hk) <| need_ok rfl <| withDone_ok hn <| need_ok rfl <| need_ok rfl <| need_ok rfl <| withSrc_ok <| by rw [extract_append_left]
  | flushsLine sc a ord done | flushsAll sc ord done | invsLine sc a ord done | invsAll sc ord done =>
    have hn : doneOk done = true := h
    cases e
    exact decodeA_ok <| by simp [decodeA, withDone_enc, hn, withScope_enc, low_of_append]
  | _ => cases e

theorem decodeC_encode {i : Instr} {w : BitVec 60} (h : i.wellFormed = true) (e : encode i = some (.cp, w)) :
    decodeSlot .cp w = .ok i := by
  cases i with
  | pubt a b e ord done | retain a b e ord done | sopen a b e ord done | circ a b e ord done =>
    cases e
    exact decodeC_ok <| need_ok rfl <| need_ok rfl <| withDone_ok h <| withSrc_ok <| withSrc_ok <| withSrc_ok <| withSrc_ok rfl
  | pubr k a b e ord done | coll k a b e ord done =>
    obtain ⟨hk, hn⟩ := Bool.and_eq_true_iff.1 h
    cases e
    exact decodeC_ok <| need_ok (withKind_cond hk) <| need_ok rfl <| withDone_ok hn <| withSrc_ok <| withSrc_ok <| withSrc_ok <| withSrc_ok <| by rw [extract_append_right]
  | subn a b e ord done | subnAgain a b e ord done =>
    have hn : doneOk done = true := h
    cases e
    exact decodeC_ok <| by simp [decodeC, withDone_enc, hn]
  | unsub a ord done | sclose a ord done =>
    cases e
    exact decodeC_ok <| need_ok rfl <| need_ok rfl <| withDone_ok h <| need_ok rfl <| need_ok rfl <| withSrc_ok <| withSrc_ok rfl
  | claim a b ord done | circrel a b ord done =>
    cases e
    exact decodeC_ok <| need_ok rfl <| need_ok rfl <| withDone_ok h <| need_ok rfl <| withSrc_ok <| withSrc_ok <| withSrc_ok rfl
  | spop a ord v done | spopKeep a ord v done =>
    obtain ⟨hv, hn⟩ := Bool.and_eq_true_iff.1 h
    cases e
    exact decodeC_ok <| by simp [decodeC, withVDst_enc, hv, withDone_enc, hn]
  | copy a b e ord v done =>
    obtain ⟨hv, hn⟩ := Bool.and_eq_true_iff.1 h
    cases e
    exact decodeC_ok <| need_ok rfl <| withVDst_ok hv <| withDone_ok hn <| withSrc_ok <| withSrc_ok <| withSrc_ok <| withSrc_ok rfl
  | copyx n a b e ord v done =>
    obtain ⟨hv, hn⟩ := Bool.and_eq_true_iff.1 h
    cases e
    exact decodeC_ok <| need_ok withN_cond <| withVDst_ok hv <| withDone_ok hn <| withSrc_ok <| withSrc_ok <| withSrc_ok <| withSrc_ok <| by rw [extract_append_right]
  | agcfg n a ord done =>
    cases e
    exact decodeC_ok <| need_ok withN_cond <| need_ok rfl <| withDone_ok h <| need_ok rfl <| need_ok rfl <| withSrc_ok <| withSrc_ok <| by rw [extract_append_right]
  | agfree n ord done =>
    cases e
    exact decodeC_ok <| need_ok withN_cond <| need_ok rfl <| withDone_ok h <| need_ok rfl <| need_ok rfl <| need_ok rfl <| withSrc_ok <| by rw [extract_append_right]
  | _ => cases e

theorem decodeY_encode {i : Instr} {w : BitVec 60} (h : i.wellFormed = true) (e : encode i = some (.sy, w)) :
    decodeSlot .sy w = .ok i := by
  cases i with
  | wuntil a ord y | tspawn a ord y | nsbind a ord y =>
    cases e
    exact decodeY_ok <| need_ok rfl <| need_ok rfl <| need_ok rfl <| withYDst_ok h <| need_ok rfl <| withSrc_ok <| withSrc_ok rfl
  | barc a b ord x | barcReset a b ord x | trapRaise a ord | trapVec a ord | tretRetry ord | tretSkip ord | pmodeDurable ord
  | pmodeRestartable ord =>
    cases e
    exact decodeY_ok <| by simp [decodeY]
  | bara sc a b ord x =>
    cases e
    exact decodeY_ok <| need_ok (withScope_cond rfl) <| need_ok rfl <| withX8_ok <| need_ok rfl <| withSrc_ok <| withSrc_ok <| withSrc_ok <| by rw [extract_append_left]
  | barw a b ord x y =>
    cases e
    exact decodeY_ok <| need_ok rfl <| need_ok rfl <| withX8_ok <| withYDst_ok h <| withSrc_ok <| withSrc_ok <| withSrc_ok rfl
  | sigadd sc a b ord =>
    cases e
    exact decodeY_ok <| need_ok (withScope_cond rfl) <| need_ok rfl <| need_ok rfl <| need_ok rfl <| withSrc_ok <| withSrc_ok <| withSrc_ok <| by rw [extract_append_left]
  | sigwait a b ord y | frkill a b ord y | tmove a b ord y | routew a b ord y =>
    cases e
    exact decodeY_ok <| need_ok rfl <| need_ok rfl <| need_ok rfl <| withYDst_ok h <| withSrc_ok <| withSrc_ok <| withSrc_ok rfl
  | tend ord =>
    cases e
    exact decodeY_ok <| need_ok rfl <| need_ok rfl <| need_ok rfl <| need_ok rfl <| need_ok rfl <| need_ok rfl <| withSrc_ok rfl
  | fmtw a ord x =>
    cases e
    exact decodeY_ok <| need_ok rfl <| need_ok rfl <| withX5_ok <| need_ok rfl <| need_ok rfl <| withSrc_ok <| withSrc_ok rfl
  | fmtr ord x y =>
    cases e
    exact decodeY_ok <| need_ok rfl <| need_ok rfl <| withX5_ok <| withYDst_ok h <| need_ok rfl <| need_ok rfl <| withSrc_ok rfl
  | trace tag a b ord =>
    cases e
    exact decodeY_ok <| need_ok rfl <| need_ok rfl <| need_ok rfl <| withSrc_ok <| withSrc_ok <| withSrc_ok rfl
  | brk tag ord =>
    cases e
    exact decodeY_ok <| need_ok rfl <| need_ok rfl <| need_ok rfl <| need_ok rfl <| need_ok rfl <| withSrc_ok rfl
  | csrr ord x y =>
    cases e
    exact decodeY_ok <| need_ok rfl <| need_ok rfl <| withYDst_ok h <| need_ok rfl <| need_ok rfl <| withSrc_ok rfl
  | csrw a ord x =>
    cases e
    exact decodeY_ok <| need_ok rfl <| need_ok rfl <| need_ok rfl <| need_ok rfl <| withSrc_ok <| withSrc_ok rfl
  | tlbinvAll a b ord y | tlbinvAsid a b ord y =>
    obtain ⟨hb, hy⟩ := Bool.and_eq_true_iff.1 h
    cases eq_of_beq hb
    cases e
    exact decodeY_ok <| by simp [decodeY, encSrc_zero, withYDst_enc, hy]
  | tlbinvPage a b ord y =>
    have hy : YDstOk.order y = true := h
    cases e
    exact decodeY_ok <| by simp [decodeY, withYDst_enc, hy]
  | parkStop a ord y | parkResume a ord y | preemptStop a b ord y | preemptResume a b ord y | slateqRec a ord y | slateqSector a ord y
  | slateqDrec a ord y =>
    have hy : YDstOk.value y = true := h
    cases e
    exact decodeY_ok <| by simp [decodeY, withYDst_enc, hy]
  | watchArrive sig a b ord x y =>
    obtain ⟨hb, hy⟩ := Bool.and_eq_true_iff.1 h
    cases eq_of_beq hb
    cases e
    exact decodeY_ok <| by cases sig <;> simp [decodeY, withSig, encSrc_zero, withYDst_enc, hy]
  | watchLast sig a b ord x y =>
    obtain ⟨hb, hy⟩ := Bool.and_eq_true_iff.1 h
    cases e
    refine decodeY_ok ?_
    cases sig with
    | true => simp [decodeY, withSig, withYDst_enc, hy]
    | false =>
      cases eq_of_beq hb
      simp [decodeY, withSig, encSrc_zero, withSrc_zero, withYDst_enc, hy]
  | watchFlip sig a b ord x y =>
    obtain ⟨hf, hy⟩ := Bool.and_eq_true_iff.1 h
    obtain ⟨hs, hb⟩ := Bool.and_eq_true_iff.1 hf
    cases eq_of_beq hb
    cases sig with
    | true => cases hs
    | false =>
      cases e
      exact decodeY_ok <| by simp [decodeY, withSig, encSrc_zero, withYDst_enc, hy]
  | _ => cases e
theorem encode_isSome (i : Instr) : (encode i).isSome = !isEvent i := by cases i <;> rfl

/-- Settles O59: map by map, each check of the decoder passes on the fields that the encoder wrote. -/
theorem encodeDecodeRoundTrip : Obligations.EncodeDecodeRoundTrip := by
  unfold Obligations.EncodeDecodeRoundTrip
  intro i h
  refine ⟨fun k w e => ?_, by rw [encode_isSome, Bool.not_eq_true']⟩
  cases k with
  | s => exact decodeS_encode h e
  | v => exact decodeV_encode h e
  | m => exact decodeM_encode h e
  | ld => exact decodeL_encode h e
  | sa => exact decodeA_encode h e
  | cp => exact decodeC_encode h e
  | sy => exact decodeY_encode h e

end Sys2Proof
end

/-! PROOFS. Memories, the reset state, the next step, and words that decode. -/

section

namespace Sys2Proof.Machine

/-! ### Memories -/

/-- Settles O55: each clause is a law of byte memory. -/
theorem memoryReadsWhatWasWritten : Obligations.MemoryReadsWhatWasWritten := by
  unfold Obligations.MemoryReadsWhatWasWritten
  exact fun m a l => ⟨fun b => m.read_writeBytes a b l, m.readBytes_writeBytes a l, m.wf_writeBytes a l, m.ext_of_wf⟩

/-! ### Reset -/

/-- Settles O57: reset is a state written out, whose tables are empty but for the registers with a reset value. -/
theorem resetState : Obligations.ResetState := by
  unfold Obligations.ResetState
  refine ⟨rfl, rfl, rfl, rfl, by decide, by decide, rfl, fun t f r a => ?_⟩
  exact ⟨rfl, rfl, rfl, rfl, rfl, rfl, rfl, rfl⟩

/-! ### The next step -/

theorem step_perform {s u : State} {i : Instr} (h : s.iss.active = true) (n : s.nextSlot = .perform i u) : step s = exec i u := by
  rw [step, if_pos h, n]

theorem step_done {s u : State} (h : s.iss.active = true) (n : s.nextSlot = .done u) : step s = .next u := by
  rw [step, if_pos h, n]

theorem step_scheduled {s : State} {dt : Nat} {i : Instr} {rest : List (Nat × Instr)} (h : s.iss.active = false) (hs : s.sched = (dt, i) :: rest) :
    step s = exec i (State.advance { s with sched := rest } dt) := by
  simp [step, h, hs]

theorem step_tick {s : State} (h : s.iss.active = false) (hs : s.sched = []) : step s = .next (s.advance 1) := by
  simp [step, h, hs]

/-- Settles O58: one case of the next slot and of the schedule each. -/
theorem aStepRunsTheNextInstruction : Obligations.AStepRunsTheNextInstruction := by
  unfold Obligations.AStepRunsTheNextInstruction
  intro s
  refine ⟨fun k ks i ha ht hd ho => step_perform ha ?_, fun k ks i ha ht hd ho => step_done ha ?_, fun k ks ha ht hd => step_done ha ?_,
    fun k ks ha ht hd => step_done ha ?_, fun ha ht => step_done ha ?_, fun dt i rest => step_scheduled, step_tick⟩
  · simp [State.nextSlot, ht, hd, ho]
  · simp [State.nextSlot, ht, hd, ho]
  · simp [State.nextSlot, ht, hd]
  · simp [State.nextSlot, ht, hd]
  · simp [State.nextSlot, ht]

/-! ### Words -/

/-- Settles O60: the decoder evaluated on each word. -/
theorem decodeWords : Obligations.DecodeWords := by
  unfold Obligations.DecodeWords
  decide +kernel

end Sys2Proof.Machine
end

/-! PROOFS. Whether every memory is in canonical form, as a pair that changes of the state keep. -/

section

namespace Sys2Proof.Machine

/-! ### Tables under a test of every entry -/

namespace AMap

variable {α : Type}

theorem all_set (m : AMap α) (k : Nat) (v : α) (p : Nat × α → Bool) (hm : m.all p = true) (hv : p (k, v) = true) : (m.set k v).all p = true := by
  rw [List.all_eq_true] at hm ⊢
  intro e he
  rcases mem_set m k v he with rfl | he
  · exact hv
  · exact hm e he

theorem test_getD {m : AMap α} {p : Nat × α → Bool} (hm : m.all p = true) {k : Nat} {d : α} (hd : p (k, d) = true) : p (k, m.getD k d) = true := by
  induction m with
  | nil => exact hd
  | cons e m ih =>
    obtain ⟨j, w⟩ := e
    rw [List.all_cons, Bool.and_eq_true] at hm
    simp only [getD, get?] at ih ⊢
    split
    · subst_vars; exact hm.1
    · exact ih hm.2

/-- A value replaced by one that the test treats alike. -/
theorem all_set_same (m : AMap α) (k : Nat) (v d : α) (p : Nat × α → Bool) (hd : p (k, d) = true) (hv : p (k, v) = p (k, m.getD k d)) :
    (m.set k v).all p = m.all p := by
  induction m with
  | nil =>
    have : p (k, v) = true := hv.trans hd
    simp only [set, List.all_cons, this, List.all_nil, Bool.and_self]
  | cons e m ih =>
    obtain ⟨j, w⟩ := e
    simp only [set]
    split
    · rename_i lt
      rw [List.all_cons, hv, Bool.and_eq_right_iff_imp]
      exact fun h => test_getD h hd
    · split
      · subst_vars
        have : p (j, v) = p (j, w) := hv.trans (by simp [getD, get?])
        simp only [List.all_cons, this]
      · rename_i ne
        simp only [List.all_cons]
        rw [ih (hv.trans (by simp only [getD, get?, if_neg ne]))]

end AMap

/-! ### The canonical form of every memory of the module -/

/-- Whether the tiles' memories, and whether HBM and host memory, are in canonical form. -/
def State.canon (s : State) : Bool × Bool := (tilesOk s, memOk s)

theorem Tile.memOk_tile {s : State} (h : tilesOk s = true) (t : Nat) : Tile.memOk (s.tile t) = true :=
  AMap.test_getD (p := fun e => Tile.memOk e.2) h (k := t) rfl

theorem State.canon_setTile {s : State} {t : Nat} {x : Tile} (h : Tile.memOk x = Tile.memOk (s.tile t)) : (s.setTile t x).canon = s.canon :=
  congrArg (·, memOk s) (AMap.all_set_same s.tiles t x {} (fun e => Tile.memOk e.2) rfl h)

theorem State.canon_le_setTile {s : State} {t : Nat} {x : Tile} (h : Tile.memOk (s.tile t) = true → Tile.memOk x = true) :
    s.canon ≤ (s.setTile t x).canon :=
  ⟨Bool.le_iff_imp.2 fun ok => AMap.all_set s.tiles t x (fun e => Tile.memOk e.2) ok (h (Tile.memOk_tile ok t)), le_rfl⟩

@[simp] theorem State.canon_setC {s : State} {t : Nat} {c : CDom} (h : c.scratch = (s.c t).scratch) : (s.setC t c).canon = s.canon :=
  s.canon_setTile (by rw [Tile.memOk, Tile.memOk, h]; rfl)

@[simp] theorem State.canon_modC {s : State} {t : Nat} {g : CDom → CDom} (h : (g (s.c t)).scratch = (s.c t).scratch) : (s.modC t g).canon = s.canon :=
  s.canon_setC h

@[simp] theorem State.canon_setN {s : State} {t : Nat} {n : NDom} (h : n.fshared = (s.n t).fshared) : (s.setN t n).canon = s.canon :=
  s.canon_setTile (by rw [Tile.memOk, Tile.memOk, h]; rfl)

@[simp] theorem State.canon_modN {s : State} {t : Nat} {g : NDom → NDom} (h : (g (s.n t)).fshared = (s.n t).fshared) : (s.modN t g).canon = s.canon :=
  s.canon_setN h

theorem State.canon_modSlate_of {s : State} {t : Nat} {g : Slate → Slate} (h : Slate.memOk (g (s.tile t).slate) = Slate.memOk (s.tile t).slate) :
    (s.modSlate t g).canon = s.canon :=
  s.canon_setTile (by rw [Tile.memOk, Tile.memOk, h])

@[simp] theorem State.canon_modSlate {s : State} {t : Nat} {g : Slate → Slate} (snap : (g (s.tile t).slate).snap = (s.tile t).slate.snap)
    (snapN : (g (s.tile t).slate).snapN = (s.tile t).slate.snapN) (target : (g (s.tile t).slate).target = (s.tile t).slate.target)
    (lost : (g (s.tile t).slate).lost = (s.tile t).slate.lost) (images : (g (s.tile t).slate).images = (s.tile t).slate.images) :
    (s.modSlate t g).canon = s.canon :=
  s.canon_modSlate_of (by rw [Slate.memOk, Slate.memOk, snap, snapN, target, lost, images])

theorem State.canon_le_modC {s : State} {t : Nat} {g : CDom → CDom} (h : Memory.wf (s.c t).scratch = true → Memory.wf (g (s.c t)).scratch = true) :
    s.canon ≤ (s.modC t g).canon := by
  refine canon_le_setTile fun ok => ?_
  simp only [Tile.memOk, Bool.and_eq_true] at ok ⊢
  exact ⟨⟨h ok.1.1, ok.1.2⟩, ok.2⟩

theorem State.canon_le_modN {s : State} {t : Nat} {g : NDom → NDom} (h : Memory.wf (s.n t).fshared = true → Memory.wf (g (s.n t)).fshared = true) :
    s.canon ≤ (s.modN t g).canon := by
  refine canon_le_setTile fun ok => ?_
  simp only [Tile.memOk, Bool.and_eq_true] at ok ⊢
  exact ⟨⟨ok.1.1, h ok.1.2⟩, ok.2⟩

theorem State.canon_le_modSlate {s : State} {t : Nat} {g : Slate → Slate}
    (h : Tile.memOk (s.tile t) = true → Slate.memOk (g (s.tile t).slate) = true) : s.canon ≤ (s.modSlate t g).canon := by
  refine canon_le_setTile fun ok => ?_
  have new := h ok
  simp only [Tile.memOk, Bool.and_eq_true] at ok ⊢
  exact ⟨ok.1, new⟩

@[simp] theorem State.canon_ite (p : Prop) [Decidable p] (s u : State) : (if p then s else u).canon = if p then s.canon else u.canon :=
  apply_ite _ _ _ _

@[simp] theorem State.canon_foldl {α : Type} {g : State → α → State} (l : List α) (s : State) (h : ∀ s x, (g s x).canon = s.canon) :
    (l.foldl g s).canon = s.canon := by
  induction l generalizing s with
  | nil => rfl
  | cons x l ih => exact (ih _).trans (h s x)

/-- A change of every tile that leaves their memories' form. -/
theorem State.canon_tiles {s : State} {l : AMap Tile} (h : (l.all fun e => Tile.memOk e.2) = tilesOk s) :
    ({ s with tiles := l } : State).canon = s.canon := congrArg (·, memOk s) h

theorem tilesOk_mapVal (s : State) (g : Tile → Tile) (h : ∀ x, Tile.memOk (g x) = Tile.memOk x) :
    ((s.tiles.mapVal g).all fun e => Tile.memOk e.2) = tilesOk s := by
  simp only [AMap.mapVal, List.all_map, tilesOk]
  congr 1
  funext e
  exact h e.2

end Sys2Proof.Machine

namespace Sys2Proof.Machine

/-- Whether memories and tiles are in canonical form. -/
def canonOf (h m : Memory) (t : AMap Tile) : Bool × Bool := (t.all fun e => Tile.memOk e.2, h.wf && m.wf)

@[simp] theorem State.canon_mk (q : Nat) (h m : Memory) msix net iss sched freeCtr t hubs rims parts vfs pf ctl spans :
    State.canon ⟨q, h, m, msix, net, iss, sched, freeCtr, t, hubs, rims, parts, vfs, pf, ctl, spans⟩ = canonOf h m t := rfl

@[simp] theorem canonOf_state (s : State) : canonOf s.hbm s.hostMem s.tiles = s.canon := (rfl)

@[simp] theorem canonOf_modC {s : State} {t : Nat} {g : CDom → CDom} (h : (g (s.c t)).scratch = (s.c t).scratch) :
    canonOf s.hbm s.hostMem (s.modC t g).tiles = s.canon := State.canon_modC h

@[simp] theorem canonOf_setC {s : State} {t : Nat} {c : CDom} (h : c.scratch = (s.c t).scratch) :
    canonOf s.hbm s.hostMem (s.setC t c).tiles = s.canon := State.canon_setC h

@[simp] theorem canonOf_modN {s : State} {t : Nat} {g : NDom → NDom} (h : (g (s.n t)).fshared = (s.n t).fshared) :
    canonOf s.hbm s.hostMem (s.modN t g).tiles = s.canon := State.canon_modN h

@[simp] theorem canonOf_modSlate {s : State} {t : Nat} {g : Slate → Slate} (snap : (g (s.tile t).slate).snap = (s.tile t).slate.snap)
    (snapN : (g (s.tile t).slate).snapN = (s.tile t).slate.snapN) (target : (g (s.tile t).slate).target = (s.tile t).slate.target)
    (lost : (g (s.tile t).slate).lost = (s.tile t).slate.lost) (images : (g (s.tile t).slate).images = (s.tile t).slate.images) :
    canonOf s.hbm s.hostMem (s.modSlate t g).tiles = s.canon := State.canon_modSlate snap snapN target lost images

@[simp] theorem State.canon_modFrame (s : State) (t f : Nat) (g : Frame → Frame) : (s.modFrame t f g).canon = s.canon := s.canon_modC rfl
@[simp] theorem State.canon_modHub (s : State) (f : Nat) (g : Hub → Hub) : (s.modHub f g).canon = s.canon := (rfl)
@[simp] theorem State.canon_modRim (s : State) (a : Nat) (g : Rim → Rim) : (s.modRim a g).canon = s.canon := (rfl)
@[simp] theorem State.canon_modPart (s : State) (p : Nat) (g : Partition → Partition) : (s.modPart p g).canon = s.canon := (rfl)
@[simp] theorem State.canon_modVf (s : State) (p : Nat) (g : Vf → Vf) : (s.modVf p g).canon = s.canon := (rfl)
@[simp] theorem State.canon_modSpan (s : State) (l : Nat) (g : Span → Span) : (s.modSpan l g).canon = s.canon := (rfl)
@[simp] theorem State.canon_modIss (s : State) (g : Issue → Issue) : (s.modIss g).canon = s.canon := (rfl)

@[simp] theorem CDom.scratch_ite (p : Prop) [Decidable p] (c d : CDom) : (if p then c else d).scratch = if p then c.scratch else d.scratch :=
  apply_ite _ _ _ _

@[simp] theorem CDom.scratch_foldl {α : Type} {g : CDom → α → CDom} (l : List α) (c : CDom) (h : ∀ c x, (g c x).scratch = c.scratch) :
    (l.foldl g c).scratch = c.scratch := by
  induction l generalizing c with
  | nil => rfl
  | cons x l ih => exact (ih _).trans (h c x)

@[simp] theorem NDom.fshared_ite (p : Prop) [Decidable p] (c d : NDom) : (if p then c else d).fshared = if p then c.fshared else d.fshared :=
  apply_ite _ _ _ _

@[simp] theorem NDom.fshared_foldl {α : Type} {g : NDom → α → NDom} (l : List α) (c : NDom) (h : ∀ c x, (g c x).fshared = c.fshared) :
    (l.foldl g c).fshared = c.fshared := by
  induction l generalizing c with
  | nil => rfl
  | cons x l ih => exact (ih _).trans (h c x)

@[simp] theorem Com.s_ite (p : Prop) [Decidable p] (c d : Com) : (if p then c else d).s = if p then c.s else d.s :=
  apply_ite _ _ _ _

@[simp] theorem Com.canon_foldl {α : Type} {g : Com → α → Com} (l : List α) (c : Com) (h : ∀ c x, (g c x).s.canon = c.s.canon) :
    (l.foldl g c).s.canon = c.s.canon := by
  induction l generalizing c with
  | nil => rfl
  | cons x l ih => exact (ih _).trans (h c x)

end Sys2Proof.Machine

/-! ### Folds that carry more than the state -/

namespace Sys2Proof.Machine

theorem foldl_keeps {α β γ : Type} (v : β → γ) {g : β → α → β} (h : ∀ r x, v (g r x) = v r) (l : List α) (r : β) : v (l.foldl g r) = v r := by
  induction l generalizing r with
  | nil => rfl
  | cons x l ih => exact (ih _).trans (h r x)

theorem le_foldl {α β γ : Type} [Preorder γ] (v : β → γ) {g : β → α → β} {a : γ} {l : List α} {r : β} (ha : a ≤ v r) (h : ∀ r x, v r ≤ v (g r x)) :
    a ≤ v (l.foldl g r) := by
  induction l generalizing r with
  | nil => exact ha
  | cons x l ih => exact ih (ha.trans (h r x))

@[simp] theorem canonOf_withdrawWaits (s : State) (t id : Nat) : canonOf s.hbm s.hostMem (s.withdrawWaits t id).tiles = s.canon := by
  unfold State.withdrawWaits
  refine congrArg (·, memOk s) ?_
  dsimp only
  refine tilesOk_mapVal s _ ?_
  exact fun _ => rfl

/-- Not by definitional unfolding, so that it carries a proof where it meets a side condition. -/
theorem CDom.modFrame_scratch (c : CDom) (f : Nat) (g : Frame → Frame) : (c.modFrame f g).scratch = c.scratch := (rfl)

theorem State.le_modC {a : Bool × Bool} {s : State} {t : Nat} {g : CDom → CDom} (h : a ≤ s.canon)
    (ok : Memory.wf (s.c t).scratch = true → Memory.wf (g (s.c t)).scratch = true) : a ≤ (s.modC t g).canon :=
  h.trans (State.canon_le_modC ok)

theorem State.le_modN {a : Bool × Bool} {s : State} {t : Nat} {g : NDom → NDom} (h : a ≤ s.canon)
    (ok : Memory.wf (s.n t).fshared = true → Memory.wf (g (s.n t)).fshared = true) : a ≤ (s.modN t g).canon :=
  h.trans (State.canon_le_modN ok)

@[simp] theorem State.le_foldl {α : Type} {a : Bool × Bool} {g : State → α → State} (l : List α) (s : State) (ha : a ≤ s.canon)
    (h : ∀ s x, s.canon ≤ (g s x).canon) : a ≤ (l.foldl g s).canon :=
  Machine.le_foldl State.canon ha h

end Sys2Proof.Machine

end

/-! PROOFS. Operands, tokens, waits, the stash and what leaves a tile keep every memory canonical. -/

section

namespace Sys2Proof.Machine

@[simp] theorem CDom.scratch_setFrame (c : CDom) (f : Nat) (x : Frame) : (c.setFrame f x).scratch = c.scratch := by
  simp [CDom.setFrame]

@[simp] theorem State.canon_count (s : State) (p i n : Nat) : (s.count p i n).canon = s.canon := by
  simp [State.count]

@[simp] theorem State.canon_countT (s : State) (t i n : Nat) : (s.countT t i n).canon = s.canon := by
  simp [State.countT]

@[simp] theorem State.canon_life (s : State) (f i n : Nat) : (s.life f i n).canon = s.canon := by
  simp [State.life]

@[simp] theorem State.canon_free (s : State) : (s.free).2.canon = s.canon := by
  simp [State.free]

@[simp] theorem State.canon_freeLanes (s : State) (n : Nat) : (s.freeLanes n).2.canon = s.canon := by
  simp [State.freeLanes]

@[simp] theorem State.canon_spanSend (s : State) (l : Nat) (m : Msg) : (s.spanSend l m).canon = s.canon := by
  simp [State.spanSend]

@[simp] theorem State.canon_number (s : State) (m : Msg) : (s.number m).1.canon = s.canon := by
  unfold State.number; (repeat' split) <;> simp

@[simp] theorem State.canon_send (s : State) (m : Msg) : (s.send m).canon = s.canon := by
  unfold State.send; dsimp only; (repeat' split) <;> simp

@[simp] theorem State.canon_post (s : State) (src dst : Agent) (cls : Cls) (b : Body) : (s.post src dst cls b).canon = s.canon := by
  simp [State.post]

@[simp] theorem State.canon_passFence (s : State) (x : Msg) : (s.passFence x).canon = s.canon := by
  unfold State.passFence; (repeat' split) <;> simp

@[simp] theorem State.canon_dropMsg (s : State) (m : Nat) : (s.dropMsg m).canon = s.canon := by
  unfold State.dropMsg; (repeat' split) <;> simp

@[simp] theorem CDom.scratch_setInst (c : CDom) (i : Nat) (x : Inst) : (c.setInst i x).scratch = c.scratch := by
  simp [CDom.setInst]

@[simp] theorem CDom.scratch_modInst (c : CDom) (i : Nat) (f : Inst → Inst) : (c.modInst i f).scratch = c.scratch := by
  unfold CDom.modInst; split <;> simp

@[simp] theorem CDom.scratch_addDue (c : CDom) (i n : Nat) : (c.addDue i n).scratch = c.scratch := by
  simp [CDom.addDue]

@[simp] theorem CDom.scratch_subDue (c : CDom) (i n : Nat) : (c.subDue i n).scratch = c.scratch := by
  simp [CDom.subDue]

@[simp] theorem State.canon_publishRecord (s : State) (src : Agent) (p tensor : Nat) (taskId : BitVec 32) (trace : Bool) (ws : List W64) :
    (s.publishRecord src p tensor taskId trace ws).canon = s.canon := by
  simp [State.publishRecord]

@[simp] theorem State.canon_awayRecord (s : State) (src : Agent) (p origin : Nat) (taskId : BitVec 32) (i : FaultInfo) :
    (s.awayRecord src p origin taskId i).canon = s.canon := by
  simp [State.awayRecord]

@[simp] theorem CDom.scratch_oweWait (c : CDom) (id w : Nat) : (c.oweWait id w).scratch = c.scratch := by
  unfold CDom.oweWait; split <;> simp

@[simp] theorem CDom.scratch_orphanReply (c : CDom) (id w : Nat) : (c.orphanReply id w).2.scratch = c.scratch := by
  unfold CDom.orphanReply; (repeat' split) <;> simp

@[simp] theorem State.canon_freeTask (s : State) (t f : Nat) : (s.freeTask t f).canon = s.canon := by
  simp [State.freeTask]

@[simp] theorem State.canon_withdrawWaits (s : State) (t id : Nat) : (s.withdrawWaits t id).canon = s.canon := canonOf_withdrawWaits s t id

@[simp] theorem CDom.scratch_discardInst (c : CDom) (i : Nat) : (c.discardInst i).scratch = c.scratch := by
  simp [CDom.discardInst]

@[simp] theorem State.canon_abortFrame (s : State) (t f : Nat) (site : Site) (i : FaultInfo) : (s.abortFrame t f site i).canon = s.canon := by
  simp [State.abortFrame]

@[simp] theorem State.canon_takeTrap (s : State) (t : Nat) (x : OpSet) (i : FaultInfo) : (s.takeTrap t x i).canon = s.canon := by
  simp [State.takeTrap]

@[simp] theorem State.canon_takeFault (s : State) (t : Nat) (x : OpSet) (i : FaultInfo) : (s.takeFault t x i).canon = s.canon := by
  simp [State.takeFault]

@[simp] theorem State.canon_fault (s : State) (i : FaultInfo) : (s.fault i).canon = s.canon := by
  simp [State.fault]

@[simp] theorem CDom.scratch_trapReturn (c : CDom) (f : Nat) : (c.trapReturn f).scratch = c.scratch := by
  simp [CDom.trapReturn]

@[simp] theorem State.canon_deliver (s : State) (d : Dst) (v : Val) : (s.deliver d v).canon = s.canon := by
  unfold State.deliver; split <;> simp

@[simp] theorem State.canon_twoTargets (s : State) (d : Dst) (v0 v1 : Val) : (s.twoTargets d v0 v1).canon = s.canon := by
  unfold State.twoTargets; split <;> simp

@[simp] theorem State.canon_deliverY (s : State) (d : YDst) (v : Val) : (s.deliverY d v).canon = s.canon := by
  unfold State.deliverY; split <;> simp

@[simp] theorem State.canon_addWait (s : State) (w : Wait) (dst done : Dest) (acq : Bool) (line : Option (Option W64 × Bool)) :
    (s.addWait w dst done acq line).canon = s.canon := by
  simp [State.addWait]

@[simp] theorem State.canon_addEff (s : State) (e : Eff) : (s.addEff e).canon = s.canon := by
  simp [State.addEff]

@[simp] theorem CDom.scratch_addSet (c : CDom) (y : Key) (block formed : Nat) (toks : List (Nat × Nat × Tok)) (base : W32) (len : Nat) (piece : Bool) :
    (c.addSet y block formed toks base len piece).scratch = c.scratch := by
  simp [CDom.addSet]

@[simp] theorem CDom.scratch_matchFull (c : CDom) (y : Key) (i : Inst) (b : BitVec 512) (n : Nat) : (c.matchFull y i b n).scratch = c.scratch := by
  induction n generalizing c with
  | zero => rfl
  | succ n ih =>
    unfold CDom.matchFull
    split
    · rfl
    · exact (ih _).trans rfl

@[simp] theorem CDom.scratch_spill (c : CDom) (cuts : List Tok) : (c.spill cuts).scratch = c.scratch := by
  simp [CDom.spill]

@[simp] theorem CDom.scratch_matchRun (c : CDom) (y : Key) (lid block : Nat) (b : BitVec 512) (n : Nat) :
    (c.matchRun y lid block b n).scratch = c.scratch := by
  induction n generalizing c y with
  | zero => rfl
  | succ n ih =>
    unfold CDom.matchRun
    split
    · rfl
    · exact (ih _ _).trans rfl

@[simp] theorem CDom.scratch_matchAt (c : CDom) (y : Key) : (c.matchAt y).scratch = c.scratch := by
  unfold CDom.matchAt; split <;> simp

@[simp] theorem CDom.scratch_rematch (c : CDom) (frame lid block : Nat) : (c.rematch frame lid block).scratch = c.scratch := by
  simp [CDom.rematch]

@[simp] theorem CDom.scratch_insert (c : CDom) (k : Tok) : (c.insert k).scratch = c.scratch := by
  unfold CDom.insert; dsimp only; (repeat' split) <;> simp

@[simp] theorem State.canon_deliveryFault (s : State) (t : Nat) (k : Tok) (block : Nat) (i : FaultInfo) :
    (s.deliveryFault t k block i).canon = s.canon := by
  simp [State.deliveryFault]

@[simp] theorem State.canon_noRoom (s : State) (t block : Nat) (k : Tok) : (s.noRoom t block k).canon = s.canon := by
  simp [State.noRoom]

@[simp] theorem State.canon_checkHolding (s : State) (t : Nat) : (s.checkHolding t).canon = s.canon := by
  simp [State.checkHolding]

@[simp] theorem State.canon_place (s : State) (t block : Nat) (k : Tok) : (s.place t block k).canon = s.canon := by
  simp [State.place]

@[simp] theorem State.canon_arrive (s : State) (t : Nat) (k : Tok) : (s.arrive t k).canon = s.canon := by
  unfold State.arrive; dsimp only; (repeat' split) <;> simp

@[simp] theorem State.canon_raiseFlags (s : State) (f : FpFlags) : (s.raiseFlags f).canon = s.canon := by
  simp [State.raiseFlags]

@[simp] theorem State.canon_readUnder (s : State) (t key slot field : Nat) (v : W64) : (s.readUnder t key slot field v).2.canon = s.canon := by
  unfold State.readUnder; dsimp only; (repeat' split) <;> simp

@[simp] theorem State.canon_reading (s : State) (field : Nat) (v : W64) : (s.reading field v).2.canon = s.canon := by
  unfold State.reading; split <;> simp

@[simp] theorem State.canon_doLoad (s : State) (ps : List W64) (wb : Nat) (vec : Option W32) (acq : Bool) (v : VDst) (done : Option Target) :
    (s.doLoad ps wb vec acq v done).canon = s.canon := by
  unfold State.doLoad; split <;> simp

@[simp] theorem State.canon_checkedLoad (s : State) (ps : List W64) (wb : Nat) (vec : Option W32) (acq : Bool) (v : VDst) (done : Option Target) :
    (s.checkedLoad ps wb vec acq v done).canon = s.canon := by
  unfold State.checkedLoad; split <;> simp

@[simp] theorem State.canon_buffer (s : State) (ps data : List W64) (wb : Nat) (sc : BitVec 2) (rel : Bool) (done : Option Target) :
    (s.buffer ps data wb sc rel done).canon = s.canon := by
  unfold State.buffer; split <;> simp

@[simp] theorem State.canon_checkedStore (s : State) (ps data : List W64) (wb : Nat) (sc : BitVec 2) (rel : Bool) (done : Option Target) :
    (s.checkedStore ps data wb sc rel done).canon = s.canon := by
  unfold State.checkedStore; split <;> simp

@[simp] theorem State.canon_atomic (s : State) (op : Nat) (sc w : BitVec 2) (a b e : Src) (flag : Bool) (v : VDst) (done : Option Target) :
    (s.atomic op sc w a b e flag v done).canon = s.canon := by
  unfold State.atomic; dsimp only; (repeat' split) <;> simp

@[simp] theorem State.canon_orderWait (s : State) (w : Wait) (done : Option Target) (line : Option (Option W64 × Bool)) :
    (s.orderWait w done line).canon = s.canon := by
  unfold State.orderWait; split <;> simp

@[simp] theorem State.canon_flushLine (s : State) (sc : BitVec 2) (inv : Bool) (a : Src) (done : Option Target) :
    (s.flushLine sc inv a done).canon = s.canon := by
  unfold State.flushLine; dsimp only; (repeat' split) <;> simp

@[simp] theorem State.canon_flushAll (s : State) (sc : BitVec 2) (inv : Bool) (done : Option Target) : (s.flushAll sc inv done).canon = s.canon := by
  simp [State.flushAll]

@[simp] theorem CDom.scratch_modIssue (c : CDom) (id : Nat) (f : Issue → Issue) : (c.modIssue id f).scratch = c.scratch := by
  simp [CDom.modIssue]

@[simp] theorem CDom.scratch_dropIssue (c : CDom) (id : Nat) : (c.dropIssue id).scratch = c.scratch := by
  simp [CDom.dropIssue]

@[simp] theorem CDom.scratch_enqueue (c : CDom) (src : Nat) (l : List Tok) : (c.enqueue src l).scratch = c.scratch := by
  simp [CDom.enqueue]

@[simp] theorem CDom.scratch_deliverReady (c : CDom) (id src : Nat) : (c.deliverReady id src).scratch = c.scratch := by
  unfold CDom.deliverReady; split <;> simp

@[simp] theorem CDom.scratch_enterEffects (c : CDom) (id : Nat) : (c.enterEffects id).scratch = c.scratch := by
  unfold CDom.enterEffects; split <;> simp

@[simp] theorem State.canon_resume (s : State) (t id : Nat) : (s.resume t id).canon = s.canon := by
  unfold State.resume; split <;> simp

@[simp] theorem State.canon_endWait (s : State) (t id w : Nat) (v : Val) (src : Nat) : (s.endWait t id w v src).canon = s.canon := by
  unfold State.endWait; (repeat' split) <;> simp

@[simp] theorem State.canon_endRemote (s : State) (t id w src : Nat) : (s.endRemote t id w src).canon = s.canon := by
  unfold State.endRemote; (repeat' split) <;> simp

@[simp] theorem State.canon_bindEl (s : State) (t id w j : Nat) (bs : List Byte) (src : Nat) : (s.bindEl t id w j bs src).canon = s.canon := by
  unfold State.bindEl; dsimp only; (repeat' split) <;> simp

@[simp] theorem CDom.scratch_giveTok (c : CDom) (n : Nat) (p : BitVec 8) (pd : Nat) (block : Option Nat) (h : HeldTok) (src : Nat) :
    (c.giveTok n p pd block h src).scratch = c.scratch := by
  unfold CDom.giveTok; split <;> simp

@[simp] theorem CDom.scratch_oweLate (c : CDom) (l : Late) : (c.oweLate l).scratch = c.scratch := by
  unfold CDom.oweLate; (repeat' split) <;> simp

@[simp] theorem CDom.scratch_settleLate (c : CDom) (l : Late) : (c.settleLate l).scratch = c.scratch := by
  unfold CDom.settleLate; (repeat' split) <;> simp

theorem CDom.scratch_of_nextTok {c d : CDom} {lp k : Nat} {x : HeldTok} {src : Nat} (h : c.nextTok lp k x src = some d) : d.scratch = c.scratch := by
  unfold CDom.nextTok at h
  split at h
  · cases h
  · dsimp only at h
    (repeat' split at h) <;> first | cases h <;> simp | (obtain ⟨e, -, rfl⟩ := Option.map_eq_some_iff.1 h; simp)

@[simp] theorem State.canon_fireLate (s : State) (t : Nat) (l : Late) (v : Val) (src : Nat) : (s.fireLate t l v src).canon = s.canon := by
  unfold State.fireLate
  dsimp only
  split
  · simp
  · split
    · simp
    · split
      · split
        · next h => exact (State.canon_setC ((CDom.scratch_of_nextTok h).trans (CDom.scratch_settleLate _ _)))
        · simp
      all_goals (repeat' split) <;> simp

@[simp] theorem State.canon_dropLate (s : State) (t : Nat) (l : Option Late) : (s.dropLate t l).canon = s.canon := by
  unfold State.dropLate; split <;> simp

@[simp] theorem State.canon_supValue (s : State) (t : Nat) (late : Option Late) (reg : Option Nat) (key : Option (Nat × Nat)) (v : Val) :
    (s.supValue t late reg key v).canon = s.canon := by
  unfold State.supValue; (repeat' split) <;> simp

@[simp] theorem State.canon_fireDone (s : State) (t : Nat) (l : Option Late) (src : Nat) : (s.fireDone t l src).canon = s.canon := by
  unfold State.fireDone; split <;> simp

@[simp] theorem State.canon_sendReq (s : State) (t : Nat) (r : Nat × HomeReq) : (s.sendReq t r).canon = s.canon := by
  simp [State.sendReq]

@[simp] theorem CDom.scratch_markSent (c : CDom) (b : Body) : (c.markSent b).scratch = c.scratch := by
  unfold CDom.markSent; split <;> simp

@[simp] theorem CDom.scratch_markAgain (c : CDom) (b : Body) : (c.markAgain b).scratch = c.scratch := by
  unfold CDom.markAgain; split <;> simp

@[simp] theorem State.canon_logOut (s : State) (t f oseq : Nat) (hash : W64) : (s.logOut t f oseq hash).canon = s.canon := by
  simp [State.logOut]

@[simp] theorem State.canon_leave (s : State) (t : Nat) (h : Held) : (s.leave t h).canon = s.canon := by
  simp [State.leave]

@[simp] theorem State.canon_sendHeld (s : State) (t : Nat) (h : Held) : (s.sendHeld t h).canon = s.canon := by
  simp [State.sendHeld]

@[simp] theorem State.canon_releaseHeld (s : State) (t : Nat) : (s.releaseHeld t).canon = s.canon := by
  simp [State.releaseHeld]

@[simp] theorem CDom.scratch_putLine (c : CDom) (l : StLine) : (c.putLine l).scratch = c.scratch := by
  simp [CDom.putLine]

@[simp] theorem CDom.scratch_dropLine (c : CDom) (f va : Nat) : (c.dropLine f va).scratch = c.scratch := by
  simp [CDom.dropLine]

@[simp] theorem CDom.scratch_stashLeft (c : CDom) (f va : Nat) : (c.stashLeft f va).scratch = c.scratch := by
  simp [CDom.stashLeft]

@[simp] theorem State.canon_logStash (s : State) (t f va : Nat) : (s.logStash t f va).canon = s.canon := by
  simp [State.logStash]

@[simp] theorem State.canon_writeback (s : State) (t : Nat) (l : StLine) (keep : Bool) (flush : Option (Nat × Nat × Nat)) :
    (s.writeback t l keep flush).canon = s.canon := by
  simp [State.writeback]

@[simp] theorem State.canon_evictLine (s : State) (t : Nat) (l : StLine) : (s.evictLine t l).canon = s.canon := by
  simp [State.evictLine]

@[simp] theorem State.canon_touch (s : State) (t : Nat) (l : StLine) : (s.touch t l).canon = s.canon := by
  simp [State.touch]

@[simp] theorem State.canon_askFill (s : State) (t f va sec : Nat) (rx : Bool) (a : At) (pref : Bool) :
    (s.askFill t f va sec rx a pref).canon = s.canon := by
  simp [State.askFill]

theorem State.canon_of_stashRoom {s u : State} {t f va : Nat} (h : s.stashRoom t f va = some u) : u.canon = s.canon := by
  unfold State.stashRoom at h
  dsimp only at h
  (repeat' split at h) <;> cases h <;> simp

@[simp] theorem State.canon_prefetch (s : State) (t f va : Nat) (rx : Bool) (a : At) : (s.prefetch t f va rx a).canon = s.canon := by
  unfold State.prefetch
  dsimp only
  split
  · rfl
  · split
    · cases h : s.stashRoom t f va with
      | none => rfl
      | some u => simp [State.canon_of_stashRoom h]
    · split <;> simp

@[simp] theorem CDom.scratch_merged (c : CDom) (f va : Nat) : (c.merged f va).scratch = c.scratch := by
  simp [CDom.merged]

@[simp] theorem State.canon_pushLine (s : State) (t f va : Nat) : (s.pushLine t f va).canon = s.canon := by
  unfold State.pushLine; split <;> simp

@[simp] theorem State.canon_pushAll (s : State) (t f : Nat) : (s.pushAll t f).canon = s.canon := by
  simp [State.pushAll]

@[simp] theorem State.canon_writeAround (s : State) (t f va : Nat) (data : List Byte) : (s.writeAround t f va data).canon = s.canon := by
  unfold State.writeAround; split <;> simp

@[simp] theorem State.canon_askRx (s : State) (t f va : Nat) : (s.askRx t f va).canon = s.canon := by
  simp [State.askRx]

@[simp] theorem CDom.scratch_shareLine (c : CDom) (f va : Nat) : (c.shareLine f va).scratch = c.scratch := by
  unfold CDom.shareLine; split <;> simp

@[simp] theorem CDom.scratch_flushCommit (c : CDom) (f va iss w : Nat) : (c.flushCommit f va iss w).scratch = c.scratch := by
  simp [CDom.flushCommit]

@[simp] theorem State.canon_flushOne (s : State) (t : Nat) (l : StLine) (inv : Bool) (iss w n : Nat) :
    (s.flushOne t l inv iss w n).1.canon = s.canon := by
  simp [State.flushOne]

theorem State.canon_of_stashLoad {s u : State} {t f va size iss w j : Nat} {a : At} (h : s.stashLoad t f va size iss w j a = some u) :
    u.canon = s.canon := by
  unfold State.stashLoad at h
  dsimp only at h
  split at h
  · obtain ⟨v, room, rfl⟩ := Option.map_eq_some_iff.1 h
    simp [State.canon_of_stashRoom room]
  · split at h <;> cases h <;> simp

theorem State.canon_of_stashStore {s u : State} {t f va : Nat} {data : List Byte} {a : At} {p : PendAt}
    (h : s.stashStore t f va data a = some (p, u)) : u.canon = s.canon := by
  unfold State.stashStore at h
  dsimp only at h
  (repeat' split at h) <;> cases h <;> (try split) <;> simp

theorem State.canon_of_trySend {s u : State} {t : Nat} {x : Issue} {r : Send} (h : s.trySend t x r = some u) : u.canon = s.canon := by
  cases r with
  | load p size acq w j =>
    simp only [State.trySend] at h
    split at h
    · cases h; simp
    · split at h
      · cases h
      · split at h
        · exact (State.canon_of_stashLoad h).trans (by simp)
        · (repeat' split at h) <;> cases h <;> simp
  | flush line inv w =>
    cases h
    simp only [canon_modC, CDom.scratch_modIssue]
    refine foldl_keeps (fun r : State × List Nat => r.1.canon) (fun r k => ?_) _ _
    split <;> simp
  | pref p rx => cases h; simp
  | barw p k ph w | sigwait p th w =>
    simp only [State.trySend] at h
    split at h <;> cases h <;> simp

@[simp] theorem State.canon_sendAll (s : State) (t id : Nat) : (s.sendAll t id).canon = s.canon := by
  unfold State.sendAll
  split
  · rfl
  · simp only [canon_modC, CDom.scratch_modIssue]
    rw [foldl_keeps (fun r : State × List Send => r.1.canon)]
    · simp
    · intro r q
      split
      · rfl
      · split
        · next h => exact State.canon_of_trySend h
        · rfl

@[simp] theorem State.canon_retrySends (s : State) (t : Nat) : (s.retrySends t).canon = s.canon := by
  simp [State.retrySends]

@[simp] theorem State.canon_readingsAt (s : State) (l : List (Nat × Nat)) (v : W64) : (s.readingsAt l v).2.canon = s.canon := by
  unfold State.readingsAt
  split
  · exact foldl_keeps (fun r : W64 × State => r.2.canon) (fun r e => by simp) _ _
  · rfl

@[simp] theorem State.canon_issueSet (s : State) (t k pe : Nat) (x : OpSet) : (s.issueSet t k pe x).canon = s.canon := by
  unfold State.issueSet; dsimp only; (repeat' split) <;> simp

@[simp] theorem CDom.scratch_noteIssued (c : CDom) (x : Issue) : (c.noteIssued x).scratch = c.scratch := by
  simp [CDom.noteIssued]

@[simp] theorem CDom.scratch_issueEffect (f : Nat) (c : CDom) (e : Eff) : (CDom.issueEffect f c e).scratch = c.scratch := by
  unfold CDom.issueEffect; split <;> simp

@[simp] theorem State.canon_withdraw (s : State) (t : Nat) (x : Issue) : (s.withdraw t x).canon = s.canon := by
  simp [State.withdraw]

@[simp] theorem CDom.scratch_issueEffects (c : CDom) (x : Issue) : (c.issueEffects x).scratch = c.scratch := by
  simp [CDom.issueEffects]

@[simp] theorem State.canon_launch (s : State) : (s.launch).canon = s.canon := by
  simp [State.launch]

@[simp] theorem State.canon_suspend (s : State) : (s.suspend).canon = s.canon := by
  simp [State.suspend]

@[simp] theorem State.canon_finishIssue (s : State) (t id : Nat) : (s.finishIssue t id).canon = s.canon := by
  unfold State.finishIssue; (repeat' split) <;> simp

@[simp] theorem State.canon_climb (s : State) (t p : Nat) (op : NameOp) (m : NameMsg) : (s.climb t p op m).canon = s.canon := by
  simp [State.climb]

@[simp] theorem State.canon_climbOn (s : State) (r : Nat) (op : NameOp) (m : NameMsg) : (s.climbOn r op m).canon = s.canon := by
  unfold State.climbOn; split <;> simp

@[simp] theorem State.canon_toHome (s : State) (src : Agent) (p : Nat) (op : NameOp) (m : NameMsg) : (s.toHome src p op m).canon = s.canon := by
  simp [State.toHome]

@[simp] theorem State.canon_noteOrder (s : State) (t rank : Nat) : (s.noteOrder t rank).canon = s.canon := by
  simp [State.noteOrder]

@[simp] theorem NDom.fshared_noteApplied (n : NDom) (a : Agent) (o : Nat) (router : Bool) : (n.noteApplied a o router).fshared = n.fshared := by
  unfold NDom.noteApplied; split <;> simp

@[simp] theorem NDom.fshared_noteName (n : NDom) (x : NameMsg) : (n.noteName x).fshared = n.fshared := by
  unfold NDom.noteName; split <;> simp

@[simp] theorem NDom.fshared_noteTaken (n : NDom) (m : Msg) : (n.noteTaken m).fshared = n.fshared := by
  unfold NDom.noteTaken; split <;> simp

@[simp] theorem State.canon_takeMsg (s : State) (m : Nat) : (s.takeMsg m).canon = s.canon := by
  unfold State.takeMsg; (repeat' split) <;> simp

@[simp] theorem State.canon_await (s : State) (t k n : Nat) (l : Option Late) : (s.await t k n l).canon = s.canon := by
  simp [State.await]

@[simp] theorem State.canon_answered (s : State) (t k : Nat) (v : Val) (src : Nat) : (s.answered t k v src).canon = s.canon := by
  unfold State.answered; (repeat' split) <;> simp

@[simp] theorem CDom.scratch_freeArea (c : CDom) (b n : Nat) : (c.freeArea b n).scratch = c.scratch := by
  simp [CDom.freeArea]

@[simp] theorem CDom.scratch_slotSeen (c : CDom) (x : Slot) : (c.slotSeen x).scratch = c.scratch := by
  simp [CDom.slotSeen]

@[simp] theorem CDom.scratch_modSlot (c : CDom) (k : Nat) (g : Slot → Slot) : (c.modSlot k g).scratch = c.scratch := by
  unfold CDom.modSlot; dsimp only; (repeat' split) <;> simp

@[simp] theorem State.canon_streamRequest (s : State) (t f base n : Nat) : (s.streamRequest t f base n).canon = s.canon := by
  induction n generalizing s with
  | zero => rfl
  | succ n ih =>
    unfold State.streamRequest
    dsimp only
    (repeat' split) <;> simp [ih]

@[simp] theorem State.canon_detachStream (s : State) (t f : Nat) (x : Stream) : (s.detachStream t f x).canon = s.canon := by
  simp [State.detachStream]

@[simp] theorem State.canon_streamCredit (s : State) (t f : Nat) (x : Stream) (ver : BitVec 16) : (s.streamCredit t f x ver).canon = s.canon := by
  simp [State.streamCredit]

@[simp] theorem State.canon_emptySlot (s : State) (t k : Nat) (byTset : Bool) : (s.emptySlot t k byTset).canon = s.canon := by
  unfold State.emptySlot; dsimp only; (repeat' split) <;> simp

end Sys2Proof.Machine

end

/-! PROOFS. The matrix array, the slots of every kind and the tasks keep every memory canonical. -/

section

namespace Sys2Proof.Machine

@[simp] theorem State.canon_addJob (s : State) (n phys : Nat) (op : EffOp) (a b : W64) : (s.addJob n phys op a b).canon = s.canon := by
  simp [State.addJob]

@[simp] theorem State.canon_msrc (s : State) (op : EffOp) (n : Nat) (isA : Bool) (w0 w1 : W64) : (s.msrc op n isA w0 w1).canon = s.canon := by
  unfold State.msrc; (repeat' split) <;> simp

@[simp] theorem State.canon_plainJob (s : State) (n : Nat) (op : EffOp) (a : W64) (ok : Bool) : (s.plainJob n op a ok).canon = s.canon := by
  unfold State.plainJob; split <;> simp

@[simp] theorem State.canon_tileJob (s : State) (op : EffOp) (n : Nat) (accept : W64 → W64 → Bool) (w0 w1 : W64) :
    (s.tileJob op n accept w0 w1).canon = s.canon := by
  unfold State.tileJob; (repeat' split) <;> simp

@[simp] theorem State.canon_endWaitToks (s : State) (t id w : Nat) (l : List OutTok) : (s.endWaitToks t id w l).canon = s.canon := by
  simp [State.endWaitToks]

@[simp] theorem State.canon_payKStep (s : State) (t units : Nat) : (s.payKStep t units).canon = s.canon := by
  simp [State.payKStep]

@[simp] theorem State.canon_slotWait (s : State) (a : Src) (full : Bool) (d : Dst) : (s.slotWait a full d).canon = s.canon := by
  unfold State.slotWait; (repeat' split) <;> simp

@[simp] theorem State.canon_tset (s : State) (op : EffOp) (a : Src) (empty : Bool) (row : Option (List W32 × W64)) :
    (s.tset op a empty row).canon = s.canon := by
  unfold State.tset; dsimp only; (repeat' split) <;> simp

@[simp] theorem State.le_commitM {a : Bool × Bool} (s : State) (t f : Nat) (site : Site) (middle : List Byte) (e : Eff) (h : a ≤ s.canon) :
    a ≤ (s.commitM t f site middle e).canon := by
  unfold State.commitM
  dsimp only
  have row : a ≤ (s.modC t fun c =>
      match c.slots.get? e.base with
      | some x => { c with scratch := c.scratch.writeBytes (x.base + e.e.toNat) (rowBytes128 e.lanes) }
      | none => c).canon := by
    refine State.le_modC h fun ok => ?_
    split
    · exact Memory.wf_writeBytes _ _ _ ok
    · exact ok
  split
  case h_4 => exact State.le_modC h fun ok => by split <;> [split; skip] <;> simpa using ok
  case h_5 => (repeat' split) <;> simp [h]
  case h_7 => exact row
  case h_8 => rw [State.canon_modC (CDom.scratch_modSlot _ _ _)]; exact row
  all_goals simp [h, -CDom.scratch_modFrame, CDom.modFrame_scratch]

@[simp] theorem CDom.scratch_useSlots (c : CDom) (x : Acc) (g : Slot → Slot) : (c.useSlots x g).scratch = c.scratch := by
  unfold CDom.useSlots; dsimp only; (repeat' split) <;> simp

@[simp] theorem State.canon_emptyUsed (s : State) (t f : Nat) : (s.emptyUsed t f).canon = s.canon := by
  simp [State.emptyUsed]

@[simp] theorem State.canon_endUse (s : State) (t k : Nat) (m : Option MSrc) : (s.endUse t k m).canon = s.canon := by
  unfold State.endUse; split <;> simp

theorem Memory.wf_foldl {α : Type} {g : Memory → α → Memory} {l : List α} {m : Memory} (h : m.wf = true)
    (ok : ∀ m x, m.wf = true → (g m x).wf = true) : (l.foldl g m).wf = true :=
  List.foldlRecOn l g h fun m h x _ => ok m x h

theorem CDom.wf_drainTo (c : CDom) (area : Nat) (x : Acc) (w w0 fs : W64) (middle : List Byte) (h : Memory.wf c.scratch = true) :
    Memory.wf (c.drainTo area x w w0 fs middle).1 = true := by
  unfold CDom.drainTo
  refine List.foldlRecOn (motive := fun r : Memory × FpFlags => r.1.wf = true) _ _ h fun r ok i _ => ?_
  exact Memory.wf_foldl ok fun m b => Memory.wf_write m _ _

@[simp] theorem State.le_jobDone {a : Bool × Bool} (s : State) (t k : Nat) (h : a ≤ s.canon) : a ≤ (s.jobDone t k).canon := by
  unfold State.jobDone
  dsimp only
  split
  case h_2 => exact h
  case h_1 f _ _ =>
    split
    case h_8 =>
      split
      case h_2 =>
        refine State.le_modC (by simpa using h) fun ok => ?_
        rw [CDom.scratch_modSlot]
        exact CDom.wf_drainTo _ _ _ _ _ _ _ (by simpa using ok)
      all_goals (repeat' split) <;> simp [h]
    all_goals (repeat' split) <;> simp [h]

theorem Tile.memOk_tickTile (s : State) (dt : Nat) (e : Nat × Tile) : Tile.memOk (s.tickTile dt e).2 = Tile.memOk e.2 := by
  unfold State.tickTile
  dsimp only
  split <;> rfl

@[simp] theorem State.canon_advance (s : State) (dt : Nat) : (s.advance dt).canon = s.canon := by
  unfold State.advance
  split
  · rfl
  · refine State.canon_tiles ?_
    rw [List.all_map]
    exact congrArg s.tiles.all (funext fun e => Tile.memOk_tickTile s dt e)

@[simp] theorem State.canon_cp (s : State) (e : Eff) (done : Option Target) : (s.cp e done).canon = s.canon := by
  unfold State.cp; split <;> simp

@[simp] theorem State.canon_cpName (s : State) (op : EffOp) (a b e : W64) (mask : BitVec 4) (bad : Option FaultInfo) (done : Option Target) :
    (s.cpName op a b e mask bad done).canon = s.canon := by
  unfold State.cpName; (repeat' split) <;> simp

@[simp] theorem State.canon_subnOp (s : State) (again : Bool) (a b d : W64) (done : Option Target) : (s.subnOp again a b d done).canon = s.canon := by
  simp [State.subnOp]

@[simp] theorem State.canon_spopOp (s : State) (keep : Bool) (a : Src) (v : VDst) (done : Option Target) :
    (s.spopOp keep a v done).canon = s.canon := by
  unfold State.spopOp; (repeat' split) <;> simp

@[simp] theorem State.canon_copyOp (s : State) (op : EffOp) (dst src : W64) (len : Nat) (e : Eff) (v : VDst) (done : Option Target) :
    (s.copyOp op dst src len e v done).canon = s.canon := by
  unfold State.copyOp; split <;> simp

@[simp] theorem State.canon_intOp (s : State) (t : Ty) (d : Dst) (f : Int → Int → Int) (a b : Src) : (s.intOp t d f a b).canon = s.canon := by
  simp [State.intOp]

@[simp] theorem State.canon_bitOp (s : State) (t : Ty) (d : Dst) (f : W64 → W64 → W64) (a b : Src) : (s.bitOp t d f a b).canon = s.canon := by
  simp [State.bitOp]

@[simp] theorem State.canon_cmpOp (s : State) (t : Ty) (d : Dst) (f : Int → Int → Bool) (a b : Src) : (s.cmpOp t d f a b).canon = s.canon := by
  simp [State.cmpOp]

@[simp] theorem State.canon_countOp (s : State) (t : Ty) (d : Dst) (f : Nat → Nat → Nat) (a : Src) : (s.countOp t d f a).canon = s.canon := by
  simp [State.countOp]

@[simp] theorem State.canon_flOp (s : State) (d : Dst) (r : Nat × FpFlags) : (s.flOp d r).canon = s.canon := by
  simp [State.flOp]

@[simp] theorem State.canon_makeWin (s : State) (k : BitVec 2) (a : Src) (d : Dst) : (s.makeWin k a d).canon = s.canon := by
  unfold State.makeWin; split <;> simp

@[simp] theorem State.canon_illBun (s : State) : (s.illBun).canon = s.canon := by
  simp [State.illBun]

@[simp] theorem State.canon_doSpawn (s : State) (offs : List Nat) (sp : Spawn) (d : Dst) (v0 v1 : Val) :
    (s.doSpawn offs sp d v0 v1).canon = s.canon := by
  unfold State.doSpawn; (repeat' split) <;> simp

@[simp] theorem State.canon_doLoop (s : State) (vec : Bool) (a b c : Src) (d : Dst) : (s.doLoop vec a b c d).canon = s.canon := by
  simp [State.doLoop]

@[simp] theorem State.canon_setTerm (s : State) (t : Term) : (s.setTerm t).canon = s.canon := by
  simp [State.setTerm]

@[simp] theorem State.canon_missed (s : State) (t : Nat) : (s.missed t).canon = s.canon := by
  simp [State.missed]

@[simp] theorem State.canon_endWuntil (s : State) (t i : Nat) (q : PWait) (tick : W64) (copies : List Nat) :
    (s.endWuntil t i q tick copies).canon = s.canon := by
  unfold State.endWuntil; (repeat' split) <;> simp

@[simp] theorem State.canon_barcOp (s : State) (reset : Bool) (a b : Src) (x : BitVec 8) : (s.barcOp reset a b x).canon = s.canon := by
  unfold State.barcOp; split <;> simp

@[simp] theorem State.canon_lateValue (s : State) (y : YDst) (e : Eff) : (s.lateValue y e).canon = s.canon := by
  unfold State.lateValue; split <;> simp

@[simp] theorem State.canon_pmodeOp (s : State) (durable : Bool) : (s.pmodeOp durable).canon = s.canon := by
  simp [State.pmodeOp]

@[simp] theorem State.canon_tretOp (s : State) (skip : Bool) : (s.tretOp skip).canon = s.canon := by
  simp [State.tretOp]

@[simp] theorem State.canon_tlbinvOp (s : State) (kind : BitVec 2) (a b : Src) (y : YDst) : (s.tlbinvOp kind a b y).canon = s.canon := by
  simp [State.tlbinvOp]

@[simp] theorem State.canon_watchOp (s : State) (kind : BitVec 2) (sig : Bool) (a b : Src) (x : BitVec 8) (y : YDst) :
    (s.watchOp kind sig a b x y).canon = s.canon := by
  unfold State.watchOp; split <;> simp

@[simp] theorem CDom.scratch_enterAt (c : CDom) (e : Nat) (i : Inst) : (c.enterAt e i).2.scratch = c.scratch := by
  unfold CDom.enterAt; split <;> simp

@[simp] theorem CDom.scratch_start (c : CDom) (n : Nat) (p : BitVec 8) (pd : Nat) (l : List HeldTok) : (c.start n p pd l).scratch = c.scratch := by
  unfold CDom.start; dsimp only; (repeat' split) <;> simp

@[simp] theorem CDom.scratch_dropLanes (c : CDom) (i : Inst) : (c.dropLanes i).2.scratch = c.scratch := by
  unfold CDom.dropLanes
  dsimp only
  split <;> rfl

@[simp] theorem CDom.scratch_dropOperands (c : CDom) (n : Nat) (i : Inst) : (c.dropOperands n i).2.scratch = c.scratch := by
  simp [CDom.dropOperands]

@[simp] theorem CDom.scratch_leaveBlock (c : CDom) (i : Inst) : (c.leaveBlock i).scratch = c.scratch := by
  unfold CDom.leaveBlock; split <;> simp

@[simp] theorem CDom.scratch_release (c : CDom) (e : Nat) : (c.release e).scratch = c.scratch := by
  simp [CDom.release]

@[simp] theorem State.canon_discardInsts (s : State) (t : Nat) (gone : List Nat) : (s.discardInsts t gone).canon = s.canon := by
  unfold State.discardInsts
  dsimp only
  rw [State.canon_modC]
  · simp
  · refine CDom.scratch_foldl _ _ fun c n => ?_
    split <;> simp

@[simp] theorem State.canon_discardIters (s : State) (t lp : Nat) (hit : Nat → Bool) : (s.discardIters t lp hit).canon = s.canon := by
  simp [State.discardIters]

@[simp] theorem State.canon_discardTree (s : State) (t f : Nat) : (s.discardTree t f).canon = s.canon := by
  simp [State.discardTree]

@[simp] theorem State.canon_chainEnd (s : State) (t n : Nat) (x : Ctx) : (s.chainEnd t n x).2.canon = s.canon := by
  induction n generalizing s x with
  | zero => rfl
  | succ n ih =>
    cases x with
    | root => rfl
    | call id =>
      unfold State.chainEnd
      split
      · rfl
      · exact (ih _ _).trans (by simp)
    | iter lp k =>
      unfold State.chainEnd
      split <;> simp

@[simp] theorem CDom.scratch_spawnIter (c : CDom) (lp : Nat) : (c.spawnIter lp).scratch = c.scratch := by
  unfold CDom.spawnIter; (repeat' split) <;> simp

@[simp] theorem State.canon_enterCont (s : State) (t lp e : Nat) : (s.enterCont t lp e).canon = s.canon := by
  unfold State.enterCont; split <;> simp

@[simp] theorem CDom.scratch_enterReturn (c : CDom) (id e : Nat) : (c.enterReturn id e).scratch = c.scratch := by
  unfold CDom.enterReturn; split <;> simp

@[simp] theorem CDom.scratch_enterGoto (c : CDom) (i : Inst) (block e : Nat) : (c.enterGoto i block e).scratch = c.scratch := by
  simp [CDom.enterGoto]

@[simp] theorem CDom.scratch_enterCallee (c : CDom) (id n e : Nat) (i : Inst) (block : Nat) (p : BitVec 8) (pd : Nat) (toks : List HeldTok) :
    (c.enterCallee id n e i block p pd toks).scratch = c.scratch := by
  simp [CDom.enterCallee]

@[simp] theorem State.canon_register (s : State) (t slot : Nat) (frame : Option Nat) (taskId : BitVec 32) (q : SubReq) :
    (s.register t slot frame taskId q).canon = s.canon := by
  simp [State.register]

@[simp] theorem State.canon_registerCode (s : State) (t : Nat) (k : Task) : (s.registerCode t k).canon = s.canon := by
  simp [State.registerCode]

@[simp] theorem State.canon_pruneOne (s : State) (t p : Nat) (x : NameMsg) : (s.pruneOne t p x).canon = s.canon := by
  simp [State.pruneOne]

@[simp] theorem State.canon_prune (s : State) (t slot : Nat) (frame : Option Nat) (taskId : BitVec 32) (q : SubReq) :
    (s.prune t slot frame taskId q).canon = s.canon := by
  simp [State.prune]

@[simp] theorem State.canon_newTaskId (s : State) (p : Nat) (taskId : BitVec 32) : (s.newTaskId p taskId).canon = s.canon := by
  simp [State.newTaskId]

@[simp] theorem State.canon_taskRecord (s : State) (src : Agent) (p origin : Nat) (taskId : BitVec 32) (i : FaultInfo) :
    (s.taskRecord src p origin taskId i).canon = s.canon := by
  simp [State.taskRecord]

@[simp] theorem State.canon_releaseCode (s : State) (t : Nat) (k : Task) : (s.releaseCode t k).canon = s.canon := by
  unfold State.releaseCode; split <;> simp

@[simp] theorem State.canon_settle (s : State) (t p : Nat) (k : Task) (l : Layout) (st : TaskSt) (moveTo : Option Nat) :
    (s.settle t p k l st moveTo).canon = s.canon := by
  unfold State.settle
  dsimp only
  rw [State.canon_foldl]
  · split <;> simp
  · intro s j
    split <;> simp

@[simp] theorem CDom.scratch_mapPlaced (c : CDom) (g : Placed → Placed) : (c.mapPlaced g).scratch = c.scratch := by
  simp [CDom.mapPlaced]

@[simp] theorem CDom.scratch_modPlaced (c : CDom) (taskId : BitVec 32) (g : Placed → Placed) : (c.modPlaced taskId g).scratch = c.scratch := by
  simp [CDom.modPlaced]

@[simp] theorem State.canon_slotFull (s : State) (t k : Nat) : (s.slotFull t k).canon = s.canon := by
  unfold State.slotFull; (repeat' split) <;> simp

@[simp] theorem State.le_codeLands {a : Bool × Bool} (s : State) (t : Nat) (x : CodeCopy) (bytes : List Byte) (h : a ≤ s.canon) :
    a ≤ (s.codeLands t x bytes).canon := by
  simp only [State.codeLands, State.canon_prune]
  exact State.le_modC h fun ok => by simpa using Memory.wf_writeBytes _ _ _ ok

@[simp] theorem State.le_offer {a : Bool × Bool} (s : State) (t k : Nat) (m : NameMsg) (h : a ≤ s.canon) : a ≤ (s.offer t k m).2.canon := by
  unfold State.offer
  split
  · exact h
  · split
    · exact h
    · split
      · exact h
      · dsimp only
        refine Machine.le_foldl (fun r : Bool × State => r.2.canon) h fun r j => ?_
        split
        · exact le_rfl
        · split
          · exact le_rfl
          · split
            · exact le_rfl
            · exact State.le_modC le_rfl fun ok => by simpa using Memory.wf_writeBytes _ _ _ ok

@[simp] theorem State.canon_checkFull (s : State) (t k : Nat) : (s.checkFull t k).canon = s.canon := by
  unfold State.checkFull; split <;> simp

@[simp] theorem State.le_streamTake {a : Bool × Bool} (s : State) (t f : Nat) (x : Stream) (m : NameMsg) (h : a ≤ s.canon) :
    a ≤ (s.streamTake t f x m).2.canon := by
  unfold State.streamTake
  dsimp only
  split
  · exact h
  · split
    · exact h
    · split
      · simp only [State.canon_modFrame]
        exact State.le_modC h fun ok => by simpa using Memory.wf_writeBytes _ _ _ ok
      · split <;> simp [h]

@[simp] theorem State.le_landStream {a : Bool × Bool} (s : State) (t : Nat) (m : NameMsg) (ok : BitVec 32 → Bool) (h : a ≤ s.canon) :
    a ≤ (s.landStream t m ok).2.canon := by
  unfold State.landStream
  dsimp only
  split <;> (try simp only [State.canon_post])
  all_goals
    refine Machine.le_foldl (fun r : (Bool × Nat) × State => r.2.canon) h fun r e => ?_
    exact State.le_streamTake _ _ _ _ _ le_rfl

@[simp] theorem State.le_landSlots {a : Bool × Bool} (s : State) (t : Nat) (m : NameMsg) (ok : BitVec 32 → Bool) (h : a ≤ s.canon) :
    a ≤ (s.landSlots t m ok).2.canon := by
  refine Machine.le_foldl (fun r : Bool × State => r.2.canon) h fun r e => ?_
  dsimp only
  split <;> simp

@[simp] theorem State.le_landFor {a : Bool × Bool} (s : State) (t : Nat) (m : NameMsg) (ok : BitVec 32 → Bool) (other : Bool) (ha : a ≤ s.canon) :
    a ≤ (s.landFor t m ok other).canon := by
  unfold State.landFor; split <;> simp [ha]

@[simp] theorem State.le_landOne {a : Bool × Bool} (s : State) (t : Nat) (m : NameMsg) (h : a ≤ s.canon) : a ≤ (s.landOne t m).canon := by
  refine State.le_landFor _ _ _ _ _ ?_
  split <;> simp [h]

@[simp] theorem State.le_land {a : Bool × Bool} (s : State) (t : Nat) (m : NameMsg) (h : a ≤ s.canon) : a ≤ (s.land t m).canon :=
  Machine.le_foldl State.canon h fun s x => s.le_landOne t x le_rfl

@[simp] theorem State.le_releaseOne {a : Bool × Bool} (s : State) (t : Nat) (taskId : BitVec 32) (m : NameMsg) (ha : a ≤ s.canon) :
    a ≤ (s.releaseOne t taskId m).canon := by
  simp [State.releaseOne, ha]

@[simp] theorem State.le_releaseDeliveries {a : Bool × Bool} (s : State) (t : Nat) (taskId : BitVec 32) (h : a ≤ s.canon) :
    a ≤ (s.releaseDeliveries t taskId).canon :=
  Machine.le_foldl State.canon (h.trans (by simp)) fun s x => s.le_releaseOne t taskId x.2 le_rfl

@[simp] theorem State.canon_dropHeld (s : State) (t : Nat) (taskId : BitVec 32) : (s.dropHeld t taskId).canon = s.canon := by
  simp [State.dropHeld]

@[simp] theorem State.canon_logDelivery (s : State) (t : Nat) (m : Msg) (n : Nat) : (s.logDelivery t m n).canon = s.canon := by
  simp [State.logDelivery]

@[simp] theorem State.canon_activate (s : State) (t f e : Nat) (q : Placed) (bs : List Nat) (areas : List (Nat × Nat)) :
    (s.activate t f e q bs areas).canon = s.canon := by
  unfold State.activate
  dsimp only
  rw [State.canon_modC]
  · simp
  · simp

@[simp] theorem State.canon_passOver (s : State) (t : Nat) (l : List Placed) : (s.passOver t l).canon = s.canon := by
  simp [State.passOver]

@[simp] theorem State.canon_dropTaskSlots (s : State) (t : Nat) (taskId : BitVec 32) (slots : List Nat) :
    (s.dropTaskSlots t taskId slots).canon = s.canon := by
  refine State.canon_foldl _ _ fun s k => ?_
  split
  · split
    · split <;> simp
    · simp
  · rfl

@[simp] theorem State.canon_unplace (s : State) (t : Nat) (q : Placed) : (s.unplace t q).canon = s.canon := by
  simp [State.unplace]

@[simp] theorem State.canon_forwardHeld (s : State) (src dst : Nat) (id : BitVec 32) : (s.forwardHeld src dst id).canon = s.canon := by
  simp [State.forwardHeld]

@[simp] theorem State.le_startMove {a : Bool × Bool} (s : State) (src dst : Nat) (q : Placed) (ha : a ≤ s.canon) :
    a ≤ (s.startMove src dst q).canon := by
  unfold State.startMove; dsimp only; (repeat' split) <;> simp [ha]

@[simp] theorem State.canon_closeSubs (s : State) (t f : Nat) : (s.closeSubs t f).canon = s.canon := by
  unfold State.closeSubs
  dsimp only
  rw [State.canon_modC (CDom.modFrame_scratch _ _ _), State.canon_foldl, State.canon_foldl]
  · intro s x
    simp
  · intro s e
    split
    · split <;> simp
    · rfl

@[simp] theorem CDom.scratch_dropStashLoads (c : CDom) (f : Nat) : (c.dropStashLoads f).2.scratch = c.scratch :=
  foldl_keeps (fun r : Nat × CDom => r.2.scratch) (fun r e => by simp) _ _

@[simp] theorem State.canon_disarm (s : State) (p t f : Nat) : (s.disarm p t f).canon = s.canon := by
  simp [State.disarm]

@[simp] theorem State.canon_freeFrame (s : State) (t f : Nat) : (s.freeFrame t f).canon = s.canon := by
  unfold State.freeFrame
  dsimp only
  simp only [State.canon_releaseCode]
  rw [State.canon_modC]
  · simp
  · simp

@[simp] theorem State.canon_releaseClaims (s : State) (t f : Nat) : (s.releaseClaims t f).canon = s.canon := by
  simp [State.releaseClaims]

@[simp] theorem State.canon_completion (s : State) (t f : Nat) : (s.completion t f).canon = s.canon := by
  simp [State.completion]

end Sys2Proof.Machine

end

/-! PROOFS. Block commits and supervisor operations keep every memory canonical. -/

section

namespace Sys2Proof.Machine

@[simp] theorem Com.s_mod (k : Com) (g : State → State) : (k.mod g).s = g k.s := (rfl)

@[simp] theorem Com.s_modC (k : Com) (g : CDom → CDom) : (k.modC g).s = k.s.modC k.t g := (rfl)

@[simp] theorem Com.s_modFrame (k : Com) (g : Frame → Frame) : (k.modFrame g).s = k.s.modFrame k.t k.f g := (rfl)

@[simp] theorem Com.s_fail (k : Com) (bun : Nat) (i : FaultInfo) : (k.fail bun i).s = k.s := by
  unfold Com.fail
  split <;> rfl

@[simp] theorem Com.canon_late (k : Com) (h : Option HeldTok) : (k.late h).2.s.canon = k.s.canon := by
  unfold Com.late; split <;> simp

@[simp] theorem Com.canon_hold (k : Com) (h : Option HeldTok) (v : Val) : (k.hold h v).s.canon = k.s.canon := by
  unfold Com.hold; split <;> simp

@[simp] theorem Com.canon_emit (k : Com) (m : Msg) (o upto : Nat) (scope : BitVec 2) (need : Option (TileName × Nat)) :
    (k.emit m o upto scope need).s.canon = k.s.canon := by
  unfold Com.emit; dsimp only; (repeat' split) <;> simp

@[simp] theorem Com.canon_out (k : Com) (mk : Nat → Msg) (upto : Nat) (scope : BitVec 2) (need : Option (TileName × Nat)) :
    (k.out mk upto scope need).s.canon = k.s.canon := by
  simp [Com.out]

@[simp] theorem Com.canon_outAll (k : Com) (l : List (Nat → Msg)) : (k.outAll l).s.canon = k.s.canon := by
  simp [Com.outAll]

@[simp] theorem Com.canon_await (k : Com) (n : Nat) (h : Option HeldTok) : (k.await n h).s.canon = k.s.canon := by
  simp [Com.await]

@[simp] theorem Com.canon_pend (k : Com) (q : Pend) : (k.pend q).s.canon = k.s.canon := by
  simp [Com.pend]

@[simp] theorem Com.canon_homeLane (k : Com) (b : BufStore) (l : StLane) (span : Nat) (done : Option Late) :
    (k.homeLane b l span done).s.canon = k.s.canon := by
  unfold Com.homeLane
  dsimp only
  split
  · split
    · simp
    · split
      · next h => split <;> simp [State.canon_of_stashStore h]
      · simp
  · simp

@[simp] theorem Com.canon_homeLanes (k : Com) (b : BufStore) (done : Option Late) (l : List StLane) (n : Nat) :
    (k.homeLanes b done l n).s.canon = k.s.canon := by
  induction l generalizing k n with
  | nil => rfl
  | cons x l ih => exact (ih _ _).trans (by simp)

@[simp] theorem Com.le_storeHere {a : Bool × Bool} (k : Com) (b : BufStore) (h : a ≤ k.s.canon) : a ≤ (k.storeHere b).s.canon := by
  unfold Com.storeHere
  dsimp only
  have stored : a ≤ ((b.lanes.filter fun l => isLocal l.ptr).foldl (fun k l => k.modC fun c =>
      { c with scratch := c.scratch.writeBytes (k.frame.localAddr l.ptr) (toBytes l.data.toNat l.wb) }) k).s.canon :=
    Machine.le_foldl (fun k : Com => k.s.canon) h fun k l => State.le_modC le_rfl fun ok => Memory.wf_writeBytes _ _ _ ok
  split
  · simpa using stored
  · exact stored

@[simp] theorem Com.canon_storeAway (k : Com) (b : BufStore) : (k.storeAway b).s.canon = k.s.canon := by
  unfold Com.storeAway; split <;> simp

@[simp] theorem Com.le_localAtomic {a : Bool × Bool} (k : Com) (e : Eff) (op wb : Nat) (h : a ≤ k.s.canon) :
    a ≤ (k.localAtomic e op wb).s.canon := by
  simp only [Com.localAtomic, Com.canon_hold, Com.s_modC]
  exact State.le_modC h fun ok => Memory.wf_writeBytes _ _ _ ok

@[simp] theorem Com.le_stores {a : Bool × Bool} (k : Com) (b : Nat) (h : a ≤ k.s.canon) : a ≤ (k.stores b).s.canon := by
  refine Machine.le_foldl (fun k : Com => k.s.canon) (Machine.le_foldl (fun k : Com => k.s.canon) h fun k x => k.le_storeHere x le_rfl) fun k e => ?_
  split
  · split <;> simp
  · exact le_rfl

@[simp] theorem Com.canon_fwrites (k : Com) (b : Nat) : (k.fwrites b).s.canon = k.s.canon := by
  simp [Com.fwrites]

@[simp] theorem Com.canon_homeAtomic (k : Com) (e : Eff) (op wb : Nat) (scope : BitVec 2) : (k.homeAtomic e op wb scope).s.canon = k.s.canon := by
  simp [Com.homeAtomic]

@[simp] theorem Com.canon_control (k : Com) (e : Eff) (op : NameOp) (g : NameMsg → NameMsg) : (k.control e op g).s.canon = k.s.canon := by
  simp [Com.control]

@[simp] theorem Com.canon_publish (k : Com) (e : Eff) (op : NameOp) (bytes index : Nat) (mode : BitVec 2) :
    (k.publish e op bytes index mode).s.canon = k.s.canon := by
  simp [Com.publish]

@[simp] theorem Com.canon_subn (k : Com) (e : Eff) (again : Bool) : (k.subn e again).s.canon = k.s.canon := by
  unfold Com.subn; split <;> simp

@[simp] theorem Com.canon_prunes (k : Com) (l : List NameMsg) (done : Option HeldTok) : (k.prunes l done).s.canon = k.s.canon := by
  simp [Com.prunes]

@[simp] theorem Com.canon_unsub (k : Com) (e : Eff) : (k.unsub e).s.canon = k.s.canon := by
  unfold Com.unsub; (repeat' split) <;> simp

@[simp] theorem Com.canon_streamSlots (k : Com) (base depth : Nat) (g : Slot → Slot) : (k.streamSlots base depth g).s.canon = k.s.canon := by
  refine Com.canon_foldl _ _ fun k j => ?_
  split <;> simp

@[simp] theorem Com.canon_sopen (k : Com) (e : Eff) : (k.sopen e).s.canon = k.s.canon := by
  simp [Com.sopen]

@[simp] theorem Com.canon_sclose (k : Com) (e : Eff) : (k.sclose e).s.canon = k.s.canon := by
  unfold Com.sclose; split <;> simp

@[simp] theorem Com.canon_spop (k : Com) (e : Eff) (keep : Bool) : (k.spop e keep).s.canon = k.s.canon := by
  unfold Com.spop
  dsimp only
  split
  · rfl
  · split
    · rfl
    · split
      · simp
      · split
        · simp
        · simp only [Com.canon_hold, Com.s_mod]
          (repeat' split) <;> simp

@[simp] theorem CDom.scratch_modCopy (c : CDom) (id : Nat) (g : Copy → Copy) : (c.modCopy id g).scratch = c.scratch := by
  simp [CDom.modCopy]

@[simp] theorem State.canon_engineSend (s : State) (t f : Nat) (r : Nat × HomeReq) : (s.engineSend t f r).canon = s.canon := by
  simp [State.engineSend]

@[simp] theorem State.canon_copyWrites (s : State) (t id : Nat) : (s.copyWrites t id).canon = s.canon := by
  unfold State.copyWrites; split <;> simp

@[simp] theorem Com.canon_copy (k : Com) (e : Eff) (row : Option Nat) : (k.copy e row).s.canon = k.s.canon := by
  simp [Com.copy]

@[simp] theorem Com.canon_bar (k : Com) (e : Eff) (n : Nat) (op : BarOp) (upto : Nat) (scope : BitVec 2) :
    (k.bar e n op upto scope).s.canon = k.s.canon := by
  simp [Com.bar]

@[simp] theorem Com.canon_sigadd (k : Com) (e : Eff) (scope : BitVec 2) : (k.sigadd e scope).s.canon = k.s.canon := by
  simp [Com.sigadd]

@[simp] theorem Com.canon_tspawn (k : Com) (e : Eff) : (k.tspawn e).s.canon = k.s.canon := by
  simp [Com.tspawn]

@[simp] theorem Com.canon_trace (k : Com) (e : Eff) (tag : BitVec 4) : (k.trace e tag).s.canon = k.s.canon := by
  simp [Com.trace]

@[simp] theorem Com.le_effect {a : Bool × Bool} (k : Com) (site : Site) (e : Eff) (ha : a ≤ k.s.canon) : a ≤ (k.effect site e).s.canon := by
  unfold Com.effect
  split
  · exact ha
  · (repeat' split) <;> simp [ha, -CDom.scratch_modFrame, CDom.modFrame_scratch]

@[simp] theorem State.canon_tlbOwn (s : State) (t : Nat) (x : TlbEntry) : (s.tlbOwn t x).canon = s.canon := by
  simp [State.tlbOwn]

@[simp] theorem State.canon_tlbFill (s : State) (t : Nat) (x : TlbEntry) : (s.tlbFill t x).canon = s.canon := by
  simp [State.tlbFill]

@[simp] theorem State.canon_translate (s : State) (t q va : Nat) : (s.translate t q va).2.canon = s.canon := by
  unfold State.translate; dsimp only; (repeat' split) <;> simp

@[simp] theorem Com.canon_answer (k : Com) (e : Eff) (v : Val) : (k.answer e v).s.canon = k.s.canon := by
  unfold Com.answer; split <;> simp

@[simp] theorem Com.canon_status (k : Com) (e : Eff) (n : Nat) : (k.status e n).s.canon = k.s.canon := by
  unfold Com.status; split <;> simp

@[simp] theorem Com.canon_pending (k : Com) (e : Eff) (w : SupWait) : (k.pending e w).s.canon = k.s.canon := by
  simp [Com.pending]

@[simp] theorem Com.canon_supAgain (k : Com) (e : Eff) : (k.supAgain e).s.canon = k.s.canon := by
  unfold Com.supAgain; dsimp only; (repeat' split) <;> simp

theorem Com.le_once {a : Bool × Bool} {k : Com} {e : Eff} {act : Com → Com} (h : a ≤ k.s.canon) (ok : ∀ k, k.s.canon ≤ (act k).s.canon) :
    a ≤ (k.once e act).s.canon := by
  unfold Com.once
  dsimp only
  split
  · exact (h.trans (by simp)).trans (ok _)
  · split
    · simpa using h
    · split
      · split
        · simpa using h
        · exact (h.trans (by simp)).trans (ok _)
      · simpa using h

@[simp] theorem State.canon_csrWrite (s : State) (t x : Nat) (v : W64) : (s.csrWrite t x v).canon = s.canon := by
  unfold State.csrWrite
  dsimp only
  (repeat' split) <;> simp

@[simp] theorem State.canon_askPark (s : State) (t f why : Nat) : (s.askPark t f why).canon = s.canon := by
  simp [State.askPark]

/-- A change of the images that leaves what they hold of the scratchpads. -/
@[simp] theorem State.canon_modImages {s : State} {t : Nat} {g : Image → Image} (h : ∀ x, (g x).dom.scratch = x.dom.scratch) :
    (s.modSlate t fun l => { l with images := l.images.map g }).canon = s.canon := by
  refine State.canon_modSlate_of ?_
  simp only [Slate.memOk, List.all_map]
  congr 2
  funext x
  exact congrArg Memory.wf (h x)

@[simp] theorem State.canon_askRestore (s : State) (t : Nat) (ok : Image → Bool) : (s.askRestore t ok).canon = s.canon :=
  State.canon_modImages fun x => by split <;> rfl

@[simp] theorem Com.canon_park (k : Com) (e : Eff) (resume : Bool) : (k.park e resume).s.canon = k.s.canon := by
  unfold Com.park; (repeat' split) <;> simp

@[simp] theorem State.canon_killImage (s : State) (t : Nat) (x : Image) (i : FaultInfo) : (s.killImage t x i).canon = s.canon :=
  State.canon_modImages fun x => by split <;> rfl

theorem State.le_filterImages {a : Bool × Bool} {s : State} {t : Nat} {p : Image → Bool} (h : a ≤ s.canon) :
    a ≤ (s.modSlate t fun l => { l with images := l.images.filter p }).canon := by
  refine h.trans (State.canon_le_modSlate fun ok => ?_)
  simp only [Tile.memOk, Slate.memOk, Bool.and_eq_true, List.all_eq_true] at ok ⊢
  exact ⟨ok.2.1, fun x hx => ok.2.2 x (List.mem_of_mem_filter hx)⟩

@[simp] theorem State.le_endImage {a : Bool × Bool} (s : State) (t : Nat) (x : Image) (ws : List W64) (h : a ≤ s.canon) :
    a ≤ (s.endImage t x ws).canon := by
  unfold State.endImage
  dsimp only
  refine State.le_filterImages ?_
  simp only [State.canon_dropHeld, State.canon_modHub, State.canon_modPart, State.canon_disarm]
  rw [State.canon_foldl, State.canon_foldl, State.canon_foldl]
  · simpa using h
  · intro s e
    split
    · split <;> simp
    · rfl
  · intro s e
    simp
  · intro s e
    simp

@[simp] theorem State.le_endImages {a : Bool × Bool} (s : State) (t f : Nat) (ha : a ≤ s.canon) : a ≤ (s.endImages t f).canon := by
  unfold State.endImages
  split <;> simp [ha]

@[simp] theorem Com.canon_frkill (k : Com) (e : Eff) : (k.frkill e).s.canon = k.s.canon := by
  unfold Com.frkill; (repeat' split) <;> simp

/-- The scratchpad that an image holds is one of the memories of its tile. -/
theorem image_wf {s : State} {t : Nat} {x : Image} (ok : tilesOk s = true) (hx : x ∈ (s.tile t).slate.images) :
    Memory.wf x.dom.scratch = true := by
  have tile := Tile.memOk_tile ok t
  simp only [Tile.memOk, Slate.memOk, Bool.and_eq_true, List.all_eq_true] at tile
  exact tile.2.2 x hx

theorem State.le_moveImage {a : Bool × Bool} {s : State} {src dst : Nat} {x : Image} (hx : x ∈ (s.tile src).slate.images) (h : a ≤ s.canon) :
    a ≤ (s.moveImage src dst x).canon := by
  unfold State.moveImage
  dsimp only
  rw [State.canon_foldl, State.canon_foldl, State.canon_life]
  · refine h.trans ⟨Bool.le_iff_imp.2 fun ok => ?_, le_rfl⟩
    have held := image_wf ok hx
    have left : s.canon ≤ ((s.modSlate src fun l => { l with images := l.images.filter fun y => !x.same y }).forwardHeld src dst x.fr.task.taskId).canon := by
      rw [State.canon_forwardHeld]
      exact State.le_filterImages le_rfl
    refine Bool.le_iff_imp.1 (left.trans (State.canon_le_modSlate fun good => ?_)).1 ok
    simp only [Tile.memOk, Slate.memOk, Bool.and_eq_true, List.all_append] at good ⊢
    exact ⟨good.2.1, good.2.2, by simpa using held⟩
  · intro s e
    split
    · split
      · rw [State.canon_foldl] <;> simp
      · rfl
    · rfl
  · intro s y
    simp

@[simp] theorem State.le_unpark {a : Bool × Bool} (s : State) (t : Nat) (id : BitVec 32) (ha : a ≤ s.canon) : a ≤ (s.unpark t id).canon := by
  simp [State.unpark, ha]

@[simp] theorem Com.le_tmove {a : Bool × Bool} (k : Com) (e : Eff) (ha : a ≤ k.s.canon) : a ≤ (k.tmove e).s.canon := by
  unfold Com.tmove
  dsimp only
  split
  · simpa using ha
  · split
    · simpa using ha
    · split
      · (repeat' split) <;> simp [ha]
      · next t x _ found =>
        split
        · simpa using ha
        · split
          · simpa using ha
          · obtain ⟨u, -, hu⟩ := List.exists_of_findSome?_eq_some found
            obtain ⟨y, hy, same⟩ := Option.map_eq_some_iff.1 hu
            cases same
            have mem := List.mem_of_mem_filter (List.mem_of_find?_eq_some hy)
            simpa using State.le_moveImage mem ha
      · simpa using ha

@[simp] theorem State.canon_preemptTile (s : State) (t prio why : Nat) : (s.preemptTile t prio why).canon = s.canon := by
  simp [State.preemptTile]

@[simp] theorem State.le_unparkTasks {a : Bool × Bool} (s : State) (t why : Nat) (ha : a ≤ s.canon) : a ≤ (s.unparkTasks t why).canon :=
  Machine.le_foldl State.canon ha fun s q => s.le_unpark t _ le_rfl

@[simp] theorem Com.le_preempt {a : Bool × Bool} (k : Com) (e : Eff) (resume : Bool) (ha : a ≤ k.s.canon) : a ≤ (k.preempt e resume).s.canon := by
  unfold Com.preempt
  dsimp only
  split
  · simpa using ha
  · split
    · rw [Com.canon_pending]
      exact Machine.le_foldl State.canon ha fun s t => by simp
    · simpa using ha

@[simp] theorem State.canon_tlbRemove (s : State) (p : Nat) (kind : BitVec 2) (asid : BitVec 16) (va : Nat) :
    (s.tlbRemove p kind asid va).canon = s.canon := by
  unfold State.tlbRemove
  dsimp only
  rw [State.canon_foldl, State.canon_foldl]
  · rfl
  · intro s t
    split <;> simp
  · intro s f
    simp

@[simp] theorem Com.canon_routew (k : Com) (e : Eff) : (k.routew e).s.canon = k.s.canon := by
  simp [Com.routew]

@[simp] theorem Com.canon_watch (k : Com) (e : Eff) (kind : BitVec 2) (sig : Bool) (n : Nat) : (k.watch e kind sig n).s.canon = k.s.canon := by
  simp [Com.watch]

@[simp] theorem Com.le_supAct {a : Bool × Bool} (k : Com) (e : Eff) (ha : a ≤ k.s.canon) : a ≤ (k.supAct e).s.canon := by
  unfold Com.supAct; (repeat' split) <;> simp [ha]

@[simp] theorem Com.le_supEffect {a : Bool × Bool} (k : Com) (site : Site) (e : Eff) (ha : a ≤ k.s.canon) :
    a ≤ (k.supEffect site e).s.canon := by
  unfold Com.supEffect
  split
  all_goals first | exact Com.le_once ha fun k => k.le_supAct e le_rfl | exact k.le_effect site e ha

theorem tilesOk_modSups (s : State) (g : SupWait → SupWait) (dom : CDom → CDom) (h : ∀ c, (dom c).scratch = c.scratch) :
    ((s.tiles.mapVal fun x => { x with
      c := dom x.c
      slate := { x.slate with
        supWaits := x.slate.supWaits.mapVal g, snap := x.slate.snap.map dom, lost := x.slate.lost.map dom
        target := x.slate.target.map fun e => { e with c := dom e.c } } }).all fun e => Tile.memOk e.2) = tilesOk s := by
  refine tilesOk_mapVal s _ fun x => ?_
  simp only [Tile.memOk, Slate.memOk, h, Option.all_map, Function.comp_def]

@[simp] theorem State.canon_latchSups (s : State) (g : SupWait → SupWait) : (s.latchSups g).canon = s.canon :=
  State.canon_tiles (tilesOk_modSups s g (fun c => { c with sups := c.sups.mapVal fun x => { x with wait := g x.wait } }) fun _ => rfl)

@[simp] theorem State.canon_invNext (s : State) (p n : Nat) : (s.invNext p n).canon = s.canon := by
  induction n generalizing s with
  | zero => rfl
  | succ n ih =>
    unfold State.invNext
    split
    · rfl
    · split
      · exact (ih _).trans (by simp)
      · rfl

@[simp] theorem State.canon_invOn (s : State) (p : Nat) : (s.invOn p).canon = s.canon := by
  simp [State.invOn]

@[simp] theorem State.canon_htlbinv (s : State) (p : Nat) (kind : BitVec 2) (va : Nat) : (s.htlbinv p kind va).canon = s.canon := by
  simp [State.htlbinv]

@[simp] theorem State.canon_diverged (s : State) (t f : Nat) (site : Site) (word key : Nat) : (s.diverged t f site word key).canon = s.canon := by
  simp [State.diverged]

@[simp] theorem Com.canon_pmode (k : Com) : (k.pmode).s.canon = k.s.canon := by
  unfold Com.pmode; split <;> simp

@[simp] theorem Com.le_outbound {a : Bool × Bool} (k : Com) (b : Nat) (ha : a ≤ k.s.canon) : a ≤ (k.outbound b).s.canon :=
  Machine.le_foldl (fun k : Com => k.s.canon) (by rw [Com.canon_foldl] <;> simp [ha]) fun k e => by simp

@[simp] theorem Com.le_effects {a : Bool × Bool} (k : Com) (ha : a ≤ k.s.canon) : a ≤ k.effects.s.canon := by
  have stored : a ≤ ((List.range 32).foldl Com.stores k.pmode).s.canon :=
    Machine.le_foldl (fun k : Com => k.s.canon) (by simpa using ha) fun k b => k.le_stores b le_rfl
  have sent : a ≤ ((List.range 32).foldl Com.outbound ((List.range 32).foldl Com.fwrites ((List.range 32).foldl Com.stores k.pmode))).s.canon :=
    Machine.le_foldl (fun k : Com => k.s.canon) (by simpa using stored) fun k b => k.le_outbound b le_rfl
  unfold Com.effects
  dsimp only
  split
  · simpa using sent
  · exact sent

@[simp] theorem Com.canon_book (k : Com) (first : Nat) : (k.book first).s.canon = k.s.canon := by
  unfold Com.book
  dsimp only
  split
  · simp
  · simp only [Com.s_mod]
    rw [State.canon_modSlate]
    · simp
    all_goals split <;> rfl

@[simp] theorem Com.canon_token (k : Com) (h : HeldTok) : (k.token h).s.canon = k.s.canon := by
  unfold Com.token
  dsimp only
  split
  · split
    · next found => exact State.canon_setC (CDom.scratch_of_nextTok found)
    · simp
  all_goals simp

@[simp] theorem Com.canon_exitLoop (k : Com) (lp j : Nat) : (k.exitLoop lp j).s.canon = k.s.canon := by
  unfold Com.exitLoop; split <;> simp

@[simp] theorem Com.canon_tokens (k : Com) : (k.tokens).s.canon = k.s.canon := by
  unfold Com.tokens; split <;> simp

@[simp] theorem State.canon_endFrame (s : State) (t f : Nat) : (s.endFrame t f).canon = s.canon := by
  simp [State.endFrame]

@[simp] theorem State.canon_trapSkip (s : State) (t f : Nat) : (s.trapSkip t f).canon = s.canon := by
  unfold State.trapSkip; dsimp only; (repeat' split) <;> simp

@[simp] theorem Com.canon_stopAt (k : Com) (reason bun : Nat) (tag : BitVec 4) : (k.stopAt reason bun tag).s.canon = k.s.canon := by
  simp [Com.stopAt]

@[simp] theorem Com.canon_stops (k : Com) (replay : Bool) : (k.stops replay).s.canon = k.s.canon := by
  unfold Com.stops; dsimp only; (repeat' split) <;> simp

theorem Com.canon_of_cont {k q : Com} {lp e : Nat} (h : k.cont lp e = some q) : q.s.canon = k.s.canon := by
  obtain ⟨x, -, rfl⟩ := Option.map_eq_some_iff.1 h
  simp

theorem Com.canon_of_startLoop {k q : Com} {x : Loop} {e : Nat} (h : k.startLoop x e = some q) : q.s.canon = k.s.canon := by
  unfold Com.startLoop at h
  dsimp only at h
  split at h
  · exact (Com.canon_of_cont h).trans (by simp)
  · cases h
    simp

theorem Com.canon_of_startCall {k q : Com} {callee ret : Nat} {p : BitVec 8} {pd : Nat} (h : k.startCall callee ret p pd = some q) :
    q.s.canon = k.s.canon := by
  unfold Com.startCall at h
  dsimp only at h
  split at h
  · cases h
  · obtain ⟨x, -, rfl⟩ := Option.map_eq_some_iff.1 h
    simp

theorem Com.canon_of_follow {k q : Com} {e : Nat} (h : k.follow e = some q) : q.s.canon = k.s.canon := by
  unfold Com.follow at h
  dsimp only at h
  split at h
  · exact Com.canon_of_startLoop h
  · exact Com.canon_of_startLoop h
  · exact Com.canon_of_startCall h
  · split at h
    · exact (Com.canon_of_cont h).trans (by simp)
    · cases h
      simp
    · cases h
      simp

theorem Com.canon_of_retire {k q : Com} {e : Nat} (h : k.retire e = some q) : q.s.canon = k.s.canon := by
  unfold Com.retire at h
  extract_lets r k' tret k'' again at h
  have left : k'.s.canon = k.s.canon := by simp [k', r]
  have returned : k''.s.canon = k.s.canon := by
    rw [← left]
    simp only [k'']
    clear_value k' tret
    cases tret with
    | none => rfl
    | some skip => cases skip <;> simp
  have rematched (q : Com) : (again q).s.canon = q.s.canon := by
    simp only [again, Com.s_modC]
    exact State.canon_modC (by split <;> simp)
  clear_value k'' again
  split at h
  · rw [Option.some_inj] at h
    rw [← h, ← returned]
    simp
  · obtain ⟨x, -, rfl⟩ := Option.map_eq_some_iff.1 h
    rw [← returned]
    simp
  · split at h
    · obtain ⟨x, -, rfl⟩ := Option.map_eq_some_iff.1 h
      rw [← returned]
      simp
    · rw [Option.some_inj] at h
      rw [← h, returned]
  · obtain ⟨x, found, rfl⟩ := Option.map_eq_some_iff.1 h
    rw [rematched, Com.canon_of_follow found, returned]

@[simp] theorem State.le_commit {a : Bool × Bool} (s : State) (t e : Nat) (ha : a ≤ s.canon) : a ≤ (s.commit t e).canon := by
  unfold State.commit
  dsimp only
  split
  · exact ha
  · split
    · exact ha
    · split
      · exact ha
      · split
        · split <;> simp [ha]
        · split
          · next k done =>
            have retired : a ≤ k.s.canon := by
              rw [Com.canon_of_retire done]
              simp [ha]
            split <;> simp [retired]
          · exact ha


end Sys2Proof.Machine

end

/-! PROOFS. Homes, walks, gateways, replies, barriers and power keep every memory canonical. -/

section

namespace Sys2Proof.Machine

@[simp] theorem State.canon_dropCopy (s : State) (t : Nat) (mine : Copy → Bool) : (s.dropCopy t mine).canon = s.canon := by
  simp [State.dropCopy]

@[simp] theorem State.canon_giveUp (s : State) (t : Nat) (r : HomeReq) : (s.giveUp t r).canon = s.canon := by
  unfold State.giveUp; split <;> simp

@[simp] theorem State.canon_remoteFault (s : State) (src : Agent) (t f : Nat) (taskId : BitVec 32) (i : FaultInfo) (a : At) :
    (s.remoteFault src t f taskId i a).canon = s.canon := by
  unfold State.remoteFault; split <;> simp

@[simp] theorem State.canon_pathRecord (s : State) (src : Agent) (p t f : Nat) (taskId : BitVec 32) (i : FaultInfo) (a : At) :
    (s.pathRecord src p t f taskId i a).canon = s.canon := by
  simp [State.pathRecord]

@[simp] theorem State.canon_failReq (s : State) (t : Nat) (r : HomeReq) (i : FaultInfo) : (s.failReq t r i).canon = s.canon := by
  unfold State.failReq; split <;> simp

@[simp] theorem NDom.fshared_putLine (n : NDom) (l : HLine) : (n.putLine l).fshared = n.fshared := by
  simp [NDom.putLine]

@[simp] theorem NDom.fshared_dropLine (n : NDom) (p va : Nat) : (n.dropLine p va).fshared = n.fshared := by
  simp [NDom.dropLine]

@[simp] theorem NDom.fshared_modLine (n : NDom) (p va : Nat) (g : HLine → HLine) : (n.modLine p va g).fshared = n.fshared := by
  simp [NDom.modLine]

@[simp] theorem State.le_homePut {a : Bool × Bool} (s : State) (t : Nat) (r : HomeReq) (bs : List Byte) (ha : a ≤ s.canon) :
    a ≤ (s.homePut t r bs).canon := by
  unfold State.homePut
  split
  · exact State.le_modN ha fun ok => Memory.wf_writeBytes _ _ _ ok
  · simpa using ha

@[simp] theorem State.canon_homeAnswer (s : State) (t : Nat) (r : HomeReq) (data : List Byte) (v : W64) :
    (s.homeAnswer t r data v).canon = s.canon := by
  unfold State.homeAnswer; split <;> simp

@[simp] theorem State.canon_fireWatch (s : State) (t : Nat) (w : Watchpoint) (value lt frame : Nat) (taskId : BitVec 32) :
    (s.fireWatch t w value lt frame taskId).canon = s.canon := by
  simp [State.fireWatch]

@[simp] theorem State.canon_watchSignal (s : State) (t : Nat) (r : HomeReq) (old new : W64) : (s.watchSignal t r old new).canon = s.canon := by
  simp [State.watchSignal]

@[simp] theorem State.canon_signals (s : State) (t : Nat) (r : HomeReq) : (s.signals t r).canon = s.canon := by
  simp [State.signals]

@[simp] theorem State.le_applyAtomic {a : Bool × Bool} (s : State) (t : Nat) (r : HomeReq) (ha : a ≤ s.canon) : a ≤ (s.applyAtomic t r).canon := by
  unfold State.applyAtomic; dsimp only; (repeat' split) <;> simp [ha]

@[simp] theorem State.le_applyReq {a : Bool × Bool} (s : State) (t : Nat) (r : HomeReq) (ha : a ≤ s.canon) : a ≤ (s.applyReq t r).canon := by
  unfold State.applyReq; dsimp only; (repeat' split) <;> simp [ha]

@[simp] theorem State.canon_sendProbes (s : State) (t p va : Nat) (down : Bool) (l : List (Nat × Nat)) :
    (s.sendProbes t p va down l).canon = s.canon := by
  simp [State.sendProbes]

@[simp] theorem State.canon_askSector (s : State) (t : Nat) (r : HomeReq) : (s.askSector t r).canon = s.canon := by
  simp [State.askSector]

@[simp] theorem State.canon_askWrites (s : State) (t : Nat) (l : HLine) : (s.askWrites t l).canon = s.canon := by
  simp [State.askWrites]

@[simp] theorem State.le_lineGo {a : Bool × Bool} (s : State) (t p va n : Nat) (ha : a ≤ s.canon) : a ≤ (s.lineGo t p va n).canon := by
  induction n generalizing s with
  | zero => exact ha
  | succ n ih =>
    unfold State.lineGo
    split
    · exact ha
    · split
      · exact ha
      · split
        · (repeat' split) <;> simp [ha]
        · split
          · exact ha
          · exact ih _ (by simpa using ha)
          · dsimp only
            split
            · split <;> simp [ha]
            · exact ih _ (by simp [ha])

@[simp] theorem State.le_lineOn {a : Bool × Bool} (s : State) (t p va : Nat) (ha : a ≤ s.canon) : a ≤ (s.lineOn t p va).canon := by
  simp [State.lineOn, ha]

@[simp] theorem State.le_wayFor {a : Bool × Bool} (s : State) (t va n : Nat) (ha : a ≤ s.canon) : a ≤ (s.wayFor t va n).2.canon := by
  induction n generalizing s with
  | zero => exact ha
  | succ n ih =>
    unfold State.wayFor
    dsimp only
    split
    · exact ha
    · split
      · exact ha
      · split
        · exact ha
        · split
          · simp [ha]
          · split
            · exact ih _ (by simp [ha])
            · simp [ha]

@[simp] theorem State.le_homeRoom {a : Bool × Bool} (s : State) (t va : Nat) (ha : a ≤ s.canon) : a ≤ (s.homeRoom t va).2.canon := by
  simp [State.homeRoom, ha]

@[simp] theorem State.canon_markStalled (s : State) (r : HomeReq) : (s.markStalled r).canon = s.canon := by
  unfold State.markStalled; split <;> simp

@[simp] theorem State.le_enterHome {a : Bool × Bool} (s : State) (t : Nat) (r : HomeReq) (ha : a ≤ s.canon) : a ≤ (s.enterHome t r).canon := by
  unfold State.enterHome; dsimp only; (repeat' split) <;> simp [ha]

@[simp] theorem State.le_retryHome {a : Bool × Bool} (s : State) (t : Nat) (ha : a ≤ s.canon) : a ≤ (s.retryHome t).canon := by
  simp [State.retryHome, ha]

@[simp] theorem State.canon_takeSectors (s : State) (t p va : Nat) (data : List (Nat × List Byte)) (r : HomeReq) :
    (s.takeSectors t p va data r).canon = s.canon := by
  simp [State.takeSectors]

@[simp] theorem State.le_failLine {a : Bool × Bool} (s : State) (t p va : Nat) (i : FaultInfo) (also : HomeReq → Bool) (ha : a ≤ s.canon) :
    a ≤ (s.failLine t p va i also).canon := by
  unfold State.failLine
  split
  · exact ha
  · exact State.le_lineOn _ _ _ _ (State.le_foldl _ _ (by simpa using ha) fun s r => by simp)

@[simp] theorem State.canon_setWalks (s : State) (t : Nat) (l : List Walk) : (s.setWalks t l).canon = s.canon := by
  simp [State.setWalks]

@[simp] theorem State.le_victimDone {a : Bool × Bool} (s : State) (t : Nat) (w : Walk) (ha : a ≤ s.canon) : a ≤ (s.victimDone t w).canon := by
  unfold State.victimDone; dsimp only; (repeat' split) <;> simp [ha]

@[simp] theorem State.le_issueHbm {a : Bool × Bool} (s : State) (t : Nat) (w : Walk) (pa : Nat) (ha : a ≤ s.canon) :
    a ≤ (s.issueHbm t w pa).canon := by
  unfold State.issueHbm; split <;> simp [ha]

@[simp] theorem State.le_victimGivenUp {a : Bool × Bool} (s : State) (t : Nat) (w : Walk) (i : FaultInfo) (ha : a ≤ s.canon) :
    a ≤ (s.victimGivenUp t w i).canon := by
  unfold State.victimGivenUp; (repeat' split) <;> simp [ha]

@[simp] theorem State.le_refuse {a : Bool × Bool} (s : State) (t : Nat) (w : Walk) (i : FaultInfo) (ha : a ≤ s.canon) :
    a ≤ (s.refuse t w i).canon := by
  unfold State.refuse; split <;> simp [ha]

@[simp] theorem State.canon_stallRecord (s : State) (t : Nat) (w : Walk) (reason : Nat) (stall : BitVec 32) :
    (s.stallRecord t w reason stall).canon = s.canon := by
  simp [State.stallRecord]

theorem State.le_missedStalls {a : Bool × Bool} (t i : Nat) (w : Walk) (reason : Nat) (stall : BitVec 32) (u : State)
    (ha : a ≤ u.canon) : a ≤ (State.missed?.stalls t i w reason stall u).canon := by
  unfold State.missed?.stalls
  dsimp only
  have fold (v : State) (l : List HLine) : v.canon ≤ (l.foldl (fun s l => (l.queue.filter fun r => r.isHost || r.pref).foldl
      (fun s r => s.failReq t r (xlateInfo w.part w.va 2 reason 0))
      (s.modN t fun n => n.modLine l.part l.va fun l => { l with queue := l.queue.filter fun r => !(r.isHost || r.pref) })) v).canon :=
    State.le_foldl _ _ le_rfl fun s l => State.le_foldl _ _ (by simp) fun s r => by simp
  split
  · exact ha
  · split
    · split
      · refine State.le_retryHome _ _ ((fold _ _).trans' ?_)
        simpa using ha
      · refine (fold _ _).trans' ?_
        simpa using ha
    · simpa using ha

@[simp] theorem State.le_missed? {a : Bool × Bool} (s : State) (t i : Nat) (w : Walk) (reason : Nat) (stall : BitVec 32) (ha : a ≤ s.canon) :
    a ≤ (s.missed? t i w reason stall).canon := by
  unfold State.missed?
  split
  · split
    · simp [ha]
    · exact State.le_missedStalls _ _ _ _ _ _ ha
  · exact State.le_missedStalls _ _ _ _ _ _ ha

@[simp] theorem State.le_settleWalk {a : Bool × Bool} (s : State) (t i : Nat) (w : Walk) (stall : BitVec 32) (ha : a ≤ s.canon) :
    a ≤ (s.settleWalk t i w stall).canon := by
  unfold State.settleWalk; dsimp only; (repeat' split) <;> simp [ha]

@[simp] theorem State.canon_dropPage (s : State) (t : Nat) (w : Walk) : (s.dropPage t w).canon = s.canon := by
  simp [State.dropPage]

@[simp] theorem State.le_liftStall {a : Bool × Bool} (s : State) (t p : Nat) (stall : BitVec 32) (ha : a ≤ s.canon) :
    a ≤ (s.liftStall t p stall).canon := by
  unfold State.liftStall; split <;> simp [ha]

@[simp] theorem State.canon_postAged (s : State) (src dst : Agent) (cls : Cls) (b : Body) (birth : Nat) :
    (s.postAged src dst cls b birth).canon = s.canon := by
  simp [State.postAged]

@[simp] theorem State.le_hbmWrite {a : Bool × Bool} (s : State) (i pa va q path : Nat) (data : List Byte) (ha : a ≤ s.canon) :
    a ≤ (s.hbmWrite i pa va q path data).canon := by
  have written : a ≤ State.canon { s with hbm := s.hbm.writeBytes pa data } := by
    refine ha.trans ⟨le_rfl, Bool.le_iff_imp.2 fun ok => ?_⟩
    simp only [State.canon, memOk, Bool.and_eq_true] at ok ⊢
    exact ⟨Memory.wf_writeBytes _ _ _ ok.1, ok.2⟩
  unfold State.hbmWrite
  dsimp only
  split
  · rwa [State.canon_post]
  · exact written

@[simp] theorem State.canon_hbmAnswer (s : State) (a : Nat) (dst : Agent) (pa va q tries birth : Nat) :
    (s.hbmAnswer a dst pa va q tries birth).canon = s.canon := by
  simp [State.hbmAnswer]

@[simp] theorem State.le_victimLost {a : Bool × Bool} (s : State) (src : Agent) (q va : Nat) (ha : a ≤ s.canon) :
    a ≤ (s.victimLost src q va).canon := by
  unfold State.victimLost; dsimp only; (repeat' split) <;> simp [ha]

@[simp] theorem State.le_sectorFails {a : Bool × Bool} (s : State) (t q va : Nat) (ha : a ≤ s.canon) : a ≤ (s.sectorFails t q va).canon := by
  simp [State.sectorFails, ha]

@[simp] theorem State.le_sectorRead {a : Bool × Bool} (s : State) (t q va : Nat) (data : List Byte) (ha : a ≤ s.canon) :
    a ≤ (s.sectorRead t q va data).canon := by
  simp [State.sectorRead, ha]

@[simp] theorem State.le_forwardOne {a : Bool × Bool} (s : State) (agent src dst : Nat) (m : Msg) (ha : a ≤ s.canon) :
    a ≤ (s.forwardOne agent src dst m).canon := by
  unfold State.forwardOne; (repeat' split) <;> simp [ha]

@[simp] theorem State.canon_hostRecord (s : State) (p : Nat) (i : FaultInfo) : (s.hostRecord p i).canon = s.canon := by
  simp [State.hostRecord]

@[simp] theorem State.canon_hostRefused (s : State) (p va : Nat) (v : W64) : (s.hostRefused p va v).canon = s.canon := by
  simp [State.hostRefused]

@[simp] theorem State.canon_hostReq (s : State) (p va n : Nat) (op : HomeOp) (data : List Byte) (ret : Ret) :
    (s.hostReq p va n op data ret).canon = s.canon := by
  simp [State.hostReq]

@[simp] theorem State.canon_hostPieces (s : State) (p va n : Nat) (f : Nat × Nat → HomeOp × List Byte × Ret) :
    (s.hostPieces p va n f).canon = s.canon := by
  simp [State.hostPieces]

@[simp] theorem State.canon_hostPublish (s : State) (p slot : Nat) (w0 w1 : W64) (bytes : List Byte) :
    (s.hostPublish p slot w0 w1 bytes).canon = s.canon := by
  simp [State.hostPublish]

@[simp] theorem State.canon_headerRefused (s : State) (p slot : Nat) (w0 w1 : W64) (c : Cause) :
    (s.headerRefused p slot w0 w1 c).canon = s.canon := by
  simp [State.headerRefused]

@[simp] theorem State.canon_launchGone (s : State) (p : Nat) (c : Capture) : (s.launchGone p c).canon = s.canon := by
  simp [State.launchGone]

@[simp] theorem State.canon_takeHeader (s : State) (p slot : Nat) (w0 w1 w2 w3 : W64) : (s.takeHeader p slot w0 w1 w2 w3).canon = s.canon := by
  unfold State.takeHeader; split <;> simp

@[simp] theorem State.canon_headerTurn (s : State) (p slot : Nat) (w0 w1 w2 w3 : W64) (before : List (BitVec 16)) :
    (s.headerTurn p slot w0 w1 w2 w3 before).canon = s.canon := by
  simp [State.headerTurn]

@[simp] theorem State.canon_retryHeaders (s : State) (p : Nat) : (s.retryHeaders p).canon = s.canon := by
  simp [State.retryHeaders]

@[simp] theorem State.canon_hostStore (s : State) (p va : Nat) (bs : List Byte) : (s.hostStore p va bs).canon = s.canon := by
  simp [State.hostStore]

@[simp] theorem State.canon_hostStart (s : State) (p va : Nat) (bs : List Byte) : (s.hostStart p va bs).canon = s.canon := by
  simp [State.hostStart]

@[simp] theorem State.canon_posts (s : State) (p n : Nat) : (s.posts p n).canon = s.canon := by
  induction n generalizing s with
  | zero => rfl
  | succ n ih =>
    unfold State.posts
    dsimp only
    (repeat' split) <;> simp [ih]

@[simp] theorem State.canon_postsOn (s : State) (p : Nat) : (s.postsOn p).canon = s.canon := by
  simp [State.postsOn]

@[simp] theorem State.canon_captured (s : State) (p slot : Nat) : (s.captured p slot).canon = s.canon := by
  unfold State.captured; split <;> simp

@[simp] theorem State.canon_readPiece (s : State) (p id off : Nat) (data : List Byte) (bad : Bool) :
    (s.readPiece p id off data bad).canon = s.canon := by
  simp [State.readPiece]

@[simp] theorem State.canon_writePiece (s : State) (p : Nat) (bad : Bool) : (s.writePiece p bad).canon = s.canon := by
  unfold State.writePiece; dsimp only; (repeat' split) <;> simp

@[simp] theorem State.canon_gatewayReply (s : State) (p : Nat) (r : HomeReq) (data : List Byte) (v : W64) :
    (s.gatewayReply p r data v).canon = s.canon := by
  unfold State.gatewayReply; split <;> simp

@[simp] theorem NDom.fshared_modEntry (n : NDom) (x : TileName) (g : NameEntry → NameEntry) : (n.modEntry x g).fshared = n.fshared := by
  simp [NDom.modEntry]

@[simp] theorem State.canon_releaseVer (s : State) (t : Nat) (x : TileName) (v : BitVec 16) : (s.releaseVer t x v).canon = s.canon := by
  simp [State.releaseVer]

@[simp] theorem State.canon_releaseSeen (s : State) (p : Nat) : (s.releaseSeen p).canon = s.canon := by
  simp [State.releaseSeen]

@[simp] theorem State.canon_subClosed (s : State) (p entry : Nat) : (s.subClosed p entry).canon = s.canon := by
  unfold State.subClosed; split <;> simp

@[simp] theorem State.canon_gatewayAck (s : State) (p : Nat) (x : NameMsg) : (s.gatewayAck p x).canon = s.canon := by
  simp [State.gatewayAck]

@[simp] theorem State.canon_goOn (s : State) (t : Nat) : (s.goOn t).canon = s.canon := by
  simp [State.goOn]

@[simp] theorem CDom.scratch_modPend (c : CDom) (o : Nat) (g : Pend → Pend) : (c.modPend o g).scratch = c.scratch := by
  simp [CDom.modPend]

@[simp] theorem CDom.scratch_perform (c : CDom) (o home epoch : Nat) (v : W64) : (c.perform o home epoch v).scratch = c.scratch := by
  simp [CDom.perform]

@[simp] theorem State.canon_logReply (s : State) (t f : Nat) (m : Msg) : (s.logReply t f m).canon = s.canon := by
  simp [State.logReply]

@[simp] theorem State.canon_firePend (s : State) (t : Nat) (q : Pend) (src : Nat) : (s.firePend t q src).canon = s.canon := by
  unfold State.firePend; split <;> simp

@[simp] theorem State.canon_dropGone (s : State) (t o : Nat) : (s.dropGone t o).canon = s.canon := by
  simp [State.dropGone]

@[simp] theorem State.canon_performed (s : State) (t home o : Nat) (r : HomeReq) (v : W64) (src : Nat) :
    (s.performed t home o r v src).canon = s.canon := by
  unfold State.performed; dsimp only; (repeat' split) <;> simp

@[simp] theorem CDom.scratch_performPushed (c : CDom) (f va upto home epoch : Nat) : (c.performPushed f va upto home epoch).scratch = c.scratch := by
  simp [CDom.performPushed]

@[simp] theorem CDom.scratch_flushAcked (c : CDom) (iss w id : Nat) : (c.flushAcked iss w id).scratch = c.scratch := by
  simp [CDom.flushAcked]

@[simp] theorem State.canon_copyAnswer (s : State) (t : Nat) (mine : Copy → Bool) (g : Copy → Copy) : (s.copyAnswer t mine g).canon = s.canon := by
  unfold State.copyAnswer; split <;> simp

@[simp] theorem State.canon_copyRead (s : State) (t id key : Nat) (data : List Byte) : (s.copyRead t id key data).canon = s.canon := by
  simp [State.copyRead]

@[simp] theorem State.canon_rimReply (s : State) (a : Nat) (r : HomeReq) (data : List Byte) (v : W64) : (s.rimReply a r data v).canon = s.canon := by
  unfold State.rimReply; split <;> simp

@[simp] theorem State.canon_tileReply (s : State) (t home : Nat) (msg : Msg) (r : HomeReq) (data : List Byte) (v : W64) :
    (s.tileReply t home msg r data v).canon = s.canon := by
  unfold State.tileReply; split <;> simp

@[simp] theorem State.canon_ackProbe (s : State) (t home va frames : Nat) (data : List (Nat × List Byte)) (upto : Nat) :
    (s.ackProbe t home va frames data upto).canon = s.canon := by
  simp [State.ackProbe]

@[simp] theorem State.canon_applyProbe (s : State) (t : Nat) (l : StLine) (down : Bool) : (s.applyProbe t l down).2.canon = s.canon := by
  unfold State.applyProbe; dsimp only; (repeat' split) <;> simp

@[simp] theorem State.canon_probeHeld (s : State) (t home va frames : Nat) : (s.probeHeld t home va frames).canon = s.canon := by
  unfold State.probeHeld
  dsimp only
  rw [State.canon_foldl]
  · simp
  · intro s h
    split
    · split <;> simp
    · rfl

@[simp] theorem State.canon_probeAhead (s : State) (t home : Nat) (l : StLine) (down : Bool) : (s.probeAhead t home l down).canon = s.canon := by
  simp [State.probeAhead]

@[simp] theorem State.canon_probe (s : State) (t home va frames : Nat) (down : Bool) : (s.probe t home va frames down).canon = s.canon := by
  unfold State.probe; dsimp only; (repeat' split) <;> simp

@[simp] theorem State.canon_heldProbe (s : State) (t f va : Nat) : (s.heldProbe t f va).canon = s.canon := by
  unfold State.heldProbe; (repeat' split) <;> simp

@[simp] theorem State.canon_probeMsg (s : State) (m : Nat) (down : Bool) : (s.probeMsg m down).canon = s.canon := by
  unfold State.probeMsg; split <;> simp

@[simp] theorem State.canon_flushLanded (s : State) (t f va : Nat) (e : Bool × Nat × Nat × Nat) : (s.flushLanded t f va e).canon = s.canon := by
  unfold State.flushLanded; split <;> simp

@[simp] theorem State.canon_fillDropped (s : State) (t : Nat) (r : HomeReq) : (s.fillDropped t r).canon = s.canon := by
  unfold State.fillDropped; split <;> simp

@[simp] theorem State.canon_fillLands (s : State) (t : Nat) (r : HomeReq) (rx : Bool) (data : List Byte) (src : Nat) :
    (s.fillLands t r rx data src).canon = s.canon := by
  unfold State.fillLands
  split
  · rfl
  · extract_lets k q z l merged served flushed pushed
    split
    · rfl
    · rw [State.canon_goOn, State.canon_heldProbe]
      have loads : served.canon = merged.canon := by
        refine State.canon_foldl _ _ fun s e => ?_
        (repeat' split) <;> simp
      have all : flushed.canon = s.canon := by
        simp only [flushed]
        rw [State.canon_foldl _ _ fun s e => by simp, loads]
        simp [merged]
      simp only [pushed]
      split <;> simp [all]

@[simp] theorem State.canon_endWaits (s : State) (t i : Nat) (ok : State → Issue → PWait → Bool) : (s.endWaits t i ok).canon = s.canon := by
  unfold State.endWaits; split <;> simp

@[simp] theorem State.canon_claimRefused (s : State) (t f : Nat) (n : TileName) (o : Nat) : (s.claimRefused t f n o).canon = s.canon := by
  simp [State.claimRefused]

@[simp] theorem State.canon_takeClaim (s : State) (t : Nat) (x : NameMsg) : (s.takeClaim t x).canon = s.canon := by
  simp [State.takeClaim]

@[simp] theorem State.canon_setBar (s : State) (t k : Nat) (b : Barrier) : (s.setBar t k b).canon = s.canon := by
  simp [State.setBar]

@[simp] theorem State.canon_releaseWaiter (s : State) (t : Nat) (w : Nat × Nat × Nat × Nat) : (s.releaseWaiter t w).canon = s.canon := by
  simp [State.releaseWaiter]

@[simp] theorem State.canon_watchBar (s : State) (t k : Nat) (kind : BitVec 2) (x : BarSender) : (s.watchBar t k kind x).canon = s.canon := by
  simp [State.watchBar]

@[simp] theorem State.canon_flip (s : State) (t k : Nat) (x : BarSender) (last : Bool) (n : Nat) : (s.flip t k x last n).canon = s.canon := by
  induction n generalizing s with
  | zero => rfl
  | succ n ih =>
    unfold State.flip
    dsimp only
    (repeat' split) <;> simp [ih]

@[simp] theorem State.canon_flips (s : State) (t k : Nat) (x : BarSender) (last : Bool) : (s.flips t k x last).canon = s.canon := by
  simp [State.flips]

@[simp] theorem State.canon_onceBar {s : State} {t : Nat} {x : BarSender} {f : State → State} (h : ∀ s, (f s).canon = s.canon) :
    (s.onceBar t x f).canon = s.canon := by
  unfold State.onceBar
  dsimp only
  (repeat' split) <;> simp [h]

@[simp] theorem State.canon_barc (s : State) (t k count : Nat) (reset : Bool) (x : BarSender) : (s.barc t k count reset x).canon = s.canon := by
  simp [State.barc]

@[simp] theorem State.canon_barArrive (s : State) (t k ph : Nat) (x : BarSender) : (s.barArrive t k ph x).canon = s.canon := by
  simp [State.barArrive]

@[simp] theorem CDom.scratch_grant (c : CDom) (g : Nat) : (c.grant g).scratch = c.scratch := by
  simp [CDom.grant]

@[simp] theorem State.canon_shedTo (s : State) (f : Nat) (l : List Nat) (draw : Nat) (limit : ℚ) : (s.shedTo f l draw limit).canon = s.canon := by
  refine foldl_keeps (fun r : State × Nat => r.1.canon) (fun r k => ?_) _ _
  dsimp only
  split <;> simp

@[simp] theorem State.canon_shedBallast (s : State) (f draw : Nat) : (s.shedBallast f draw).canon = s.canon := by
  simp [State.shedBallast]

@[simp] theorem State.canon_powerGrant (s : State) (f : Nat) (inp : PowerInputs) : (s.powerGrant f inp).canon = s.canon := by
  simp [State.powerGrant]

@[simp] theorem CDom.scratch_noteSlower (c : CDom) (tick : Nat) : (c.noteSlower tick).scratch = c.scratch := by
  simp [CDom.noteSlower]

@[simp] theorem State.le_wipeTiles {a : Bool × Bool} (s : State) (p : Nat) (ha : a ≤ s.canon) : a ≤ (s.wipeTiles p).canon := by
  refine ha.trans ⟨Bool.le_iff_imp.2 fun ok => ?_, le_rfl⟩
  simp only [State.canon, tilesOk, State.wipeTiles, List.all_eq_true, List.mem_map] at ok ⊢
  rintro _ ⟨e, he, rfl⟩
  split
  · rfl
  · exact ok e (List.mem_of_mem_filter he)

@[simp] theorem State.canon_wipeHubs (s : State) (p : Nat) : (s.wipeHubs p).canon = s.canon := by
  simp [State.wipeHubs]

@[simp] theorem State.canon_wipeWay (s : State) (p : Nat) : (s.wipeWay p).canon = s.canon := by
  simp [State.wipeWay]

@[simp] theorem State.le_destroyNow {a : Bool × Bool} (s : State) (p : Nat) (ha : a ≤ s.canon) : a ≤ (s.destroyNow p).canon := by
  simp [State.destroyNow, ha]

@[simp] theorem State.le_destroyOn {a : Bool × Bool} (s : State) (p : Nat) (ha : a ≤ s.canon) : a ≤ (s.destroyOn p).canon := by
  unfold State.destroyOn; dsimp only; (repeat' split) <;> simp [ha]

@[simp] theorem State.le_destroysOn {a : Bool × Bool} (s : State) (ha : a ≤ s.canon) : a ≤ (s.destroysOn).canon := by
  simp [State.destroysOn, ha]

end Sys2Proof.Machine

end

/-! PROOFS. Routers, directories, parking and persistence keep every memory canonical. -/

section

namespace Sys2Proof.Machine

@[simp] theorem NDom.fshared_modNmt (n : NDom) (m : NameMsg) (g : Nmt → Nmt) : (n.modNmt m g).fshared = n.fshared := by
  simp [NDom.modNmt]

@[simp] theorem State.canon_sweepNmt (s : State) (r : Nat) : (s.sweepNmt r).canon = s.canon := by
  simp [State.sweepNmt]

@[simp] theorem State.canon_pruneBelow (s : State) (r : Nat) (m : NameMsg) (l : List Nat) : (s.pruneBelow r m l).canon = s.canon := by
  unfold State.pruneBelow; split <;> simp

@[simp] theorem State.canon_passReg (s : State) (r : Nat) (x : NameMsg) : (s.passReg r x).canon = s.canon := by
  simp [State.passReg]

@[simp] theorem State.canon_spread (s : State) (r : Nat) (ports : List Nat) (cls : Cls) (op : NameOp) (x : NameMsg) :
    (s.spread r ports cls op x).canon = s.canon := by
  simp [State.spread]

@[simp] theorem State.canon_noteElem (s : State) (r q : Nat) (x : NameMsg) : (s.noteElem r q x).canon = s.canon := by
  simp [State.noteElem]

@[simp] theorem State.canon_postCopy (s : State) (r q : Nat) (tree elem : Bool) (x : NameMsg) : (s.postCopy r q tree elem x).canon = s.canon := by
  simp [State.postCopy]

@[simp] theorem State.canon_sendElem (s : State) (r q : Nat) (x : NameMsg) : (s.sendElem r q x).canon = s.canon := by
  simp [State.sendElem]

@[simp] theorem State.canon_creditUp (s : State) (r parent : Nat) (x : NameMsg) (ver : BitVec 16) : (s.creditUp r parent x ver).canon = s.canon := by
  simp [State.creditUp]

@[simp] theorem State.canon_orphans (s : State) (r q : Nat) (x : NameMsg) : (s.orphans r q x).canon = s.canon := by
  unfold State.orphans; split <;> simp

theorem State.canon_of_lateRoom {s u : State} {t k n : Nat} (h : s.lateRoom t k n = some u) : u.canon = s.canon := by
  induction n generalizing s with
  | zero => cases h
  | succ n ih =>
    unfold State.lateRoom at h
    split at h
    · cases h; rfl
    · split at h
      · cases h
      · exact (ih h).trans (by simp)

theorem State.canon_of_makeRoom {s u : State} {t n : Nat} (h : s.makeRoom t n = some u) : u.canon = s.canon := State.canon_of_lateRoom h

@[simp] theorem State.canon_detach (s : State) (r q : Nat) (x : NameMsg) : (s.detach r q x).canon = s.canon := by
  unfold State.detach
  dsimp only
  split
  all_goals
    rw [State.canon_post, State.canon_orphans, State.canon_modN]
    · simp
    · simp

@[simp] theorem State.canon_holdElem (s : State) (r q : Nat) (x : NameMsg) (n : Nat) : (s.holdElem r q x n).canon = s.canon := by
  induction n generalizing s with
  | zero => rfl
  | succ n ih =>
    unfold State.holdElem
    dsimp only
    (repeat' split) <;> simp [ih]

@[simp] theorem State.canon_kick (s : State) (r q : Nat) (x : NameMsg) (n : Nat) : (s.kick r q x n).canon = s.canon := by
  induction n generalizing s with
  | zero => rfl
  | succ n ih =>
    unfold State.kick
    (repeat' split) <;> simp [ih]

@[simp] theorem State.canon_atEntry (s : State) (t : Nat) (x : TileName) (g : NameEntry → NameEntry) : (s.atEntry t x g).canon = s.canon := by
  simp [State.atEntry]

@[simp] theorem State.canon_credit (s : State) (t : Nat) (x : TileName) (v : BitVec 16) (k : Nat) : (s.credit t x v k).canon = s.canon := by
  unfold State.credit; dsimp only; (repeat' split) <;> simp

@[simp] theorem State.canon_sendCopy (s : State) (t : Nat) (x : TileName) (r : SubRec) (k : Retained) (retained : Bool) :
    (s.sendCopy t x r k retained).canon = s.canon := by
  simp [State.sendCopy]

@[simp] theorem State.canon_modSub (s : State) (t : Nat) (x : TileName) (r : SubRec) (g : SubRec → SubRec) : (s.modSub t x r g).canon = s.canon := by
  simp [State.modSub]

@[simp] theorem State.canon_abortPlaced (s : State) (src : Agent) (t : Nat) (q : Placed) (i : FaultInfo) :
    (s.abortPlaced src t q i).canon = s.canon := by
  simp [State.abortPlaced]

@[simp] theorem State.canon_failSub (s : State) (t : Nat) (x : NameMsg) (i : FaultInfo) : (s.failSub t x i).canon = s.canon := by
  unfold State.failSub; (repeat' split) <;> simp

@[simp] theorem State.canon_lapse (s : State) (t : Nat) (x : NameMsg) : (s.lapse t x).canon = s.canon := by
  simp [State.lapse]

@[simp] theorem State.canon_fetch (s : State) (t : Nat) (x : TileName) (v : BitVec 16) (r : SubRec) : (s.fetch t x v r).canon = s.canon := by
  unfold State.fetch; split <;> simp

@[simp] theorem State.canon_serveSub (s : State) (t : Nat) (x : TileName) (r : SubRec) (v : BitVec 16) : (s.serveSub t x r v).canon = s.canon := by
  unfold State.serveSub; (repeat' split) <;> simp

@[simp] theorem State.canon_subscribe (s : State) (t : Nat) (x : NameMsg) (y : TileName) (kind : BitVec 2) (last : Bool) :
    (s.subscribe t x y kind last).canon = s.canon := by
  unfold State.subscribe; dsimp only; (repeat' split) <;> simp

theorem State.canon_of_elementAt {s u : State} {r p : Nat} {x : NameMsg} {l : List Nat} (h : s.elementAt r p x = some (l, u)) :
    u.canon = s.canon := by
  unfold State.elementAt at h
  dsimp only at h
  split at h
  · cases h; simp
  · split at h
    · cases h
    · cases h
      split <;> simp

@[simp] theorem State.canon_takeReg (s : State) (t : Nat) (x : NameMsg) : (s.takeReg t x).canon = s.canon := by
  unfold State.takeReg
  split
  · simp
  · refine State.canon_foldl _ _ fun s j => ?_
    split <;> simp

@[simp] theorem State.canon_orWait {s : State} {t m : Nat} {need : Nat × Nat} {f : State → State} (h : ∀ s, (f s).canon = s.canon) :
    (s.orWait t m need f).canon = s.canon := by
  unfold State.orWait
  (repeat' split) <;> simp [h]

@[simp] theorem State.canon_ackAgain (s : State) (t : Nat) (op : NameOp) (x : NameMsg) : (s.ackAgain t op x).canon = s.canon := by
  have notified (l : List TileName) : ((List.range l.length).foldl (fun s j => match (l[j]?).bind (s.n t).entry? with
      | some e =>
        let v := match (e.subs.find? fun r => sameSub r.reg x).bind (·.resolved) with | some v => v | none => x.ver
        s.post (.tile t) x.who .reply (.name .regReply { { x with bytes := [] } with name := e.name, ver := v, completion := j + 1 == l.length })
      | none => s) s).canon = s.canon :=
    State.canon_foldl _ _ fun s j => by split <;> simp
  unfold State.ackAgain
  split
  · exact notified _
  · exact notified _
  · simp
  · split <;> simp

@[simp] theorem State.canon_takeClaimAt (s : State) (t : Nat) (x : NameMsg) : (s.takeClaimAt t x).canon = s.canon := by
  simp [State.takeClaimAt]

@[simp] theorem State.canon_takeRetain (s : State) (t : Nat) (x : NameMsg) : (s.takeRetain t x).canon = s.canon := by
  unfold State.takeRetain; dsimp only; (repeat' split) <;> simp

@[simp] theorem State.canon_writeBack (s : State) (t : Nat) (b : Binding) (q : Pub) : (s.writeBack t b q).canon = s.canon := by
  simp [State.writeBack]

@[simp] theorem State.canon_acceptPub (s : State) (t : Nat) (q : Pub) (again : Bool) : (s.acceptPub t q again).canon = s.canon := by
  unfold State.acceptPub; dsimp only; (repeat' split) <;> simp

@[simp] theorem State.canon_ackPub (s : State) (t : Nat) (x : NameMsg) : (s.ackPub t x).canon = s.canon := by
  unfold State.ackPub; split <;> simp

@[simp] theorem State.canon_trimFaults (s : State) (t : Nat) (x : TileName) : (s.trimFaults t x).canon = s.canon := by
  unfold State.trimFaults; (repeat' split) <;> simp

@[simp] theorem State.canon_unboundPub (s : State) (t : Nat) (x : NameMsg) : (s.unboundPub t x).canon = s.canon := by
  simp [State.unboundPub]

@[simp] theorem State.canon_ackName (s : State) (t : Nat) (x : NameMsg) : (s.ackName t x).canon = s.canon := by
  simp [State.ackName]

@[simp] theorem State.canon_collRefused (s : State) (t : Nat) (x : NameMsg) (cw1 : W64) : (s.collRefused t x cw1).canon = s.canon := by
  unfold State.collRefused; split <;> simp

@[simp] theorem State.canon_refusePart (s : State) (t : Nat) (msg : Msg) (x : NameMsg) : (s.refusePart t msg x).canon = s.canon := by
  simp [State.refusePart]

@[simp] theorem State.canon_dropPart (s : State) (src t : Nat) (x : NameMsg) (cw1 : W64) : (s.dropPart src t x cw1).canon = s.canon := by
  simp [State.dropPart]

@[simp] theorem State.canon_modRed (s : State) (t : Nat) (x : NameMsg) (g : Red → Red) : (s.modRed t x g).canon = s.canon := by
  simp [State.modRed]

theorem State.canon_of_takePub {s u : State} {t : Nat} {x : NameMsg} {b : Binding} (h : s.takePub t x b = some u) : u.canon = s.canon := by
  unfold State.takePub at h
  dsimp only at h
  split at h
  · cases h; simp
  · split at h
    · cases h
    · split at h
      · cases h
      · next v room =>
        cases h
        have kept : v.canon = s.canon := (State.canon_of_makeRoom room).trans (by simp)
        simp only [State.canon_ackPub]
        split <;> simp [kept]

@[simp] theorem State.canon_addPart (s : State) (t : Nat) (x : NameMsg) (b : Binding) : (s.addPart t x b).canon = s.canon := by
  unfold State.addPart
  dsimp only
  split
  · simp
  · split
    · simp
    · cases h : State.takePub _ t _ b with
      | none => simp
      | some u => exact (State.canon_of_takePub h).trans (by simp)

@[simp] theorem State.canon_takePart (s : State) (t : Nat) (msg : Msg) (x : NameMsg) (b : Binding) : (s.takePart t msg x b).canon = s.canon := by
  unfold State.takePart
  split
  · simp
  · split
    · simp
    · split
      · simp
      · split
        · simp
        · split
          · next h => simp [State.canon_of_makeRoom h]
          · simp

@[simp] theorem State.canon_fetchElsewhere (s : State) (t : Nat) (x : NameMsg) : (s.fetchElsewhere t x).canon = s.canon := by
  simp [State.fetchElsewhere]

@[simp] theorem State.canon_fetchFails (s : State) (f : Fetch) (v : W64) : (s.fetchFails f v).canon = s.canon := by
  unfold State.fetchFails; split <;> simp

theorem State.canon_of_takeColl {s u : State} {t : Nat} {x : NameMsg} (h : s.takeColl t x = some u) : u.canon = s.canon := by
  unfold State.takeColl at h
  dsimp only at h
  split at h
  · cases h; simp
  · cases h; split <;> simp
  · split at h
    · cases h; simp
    · split at h
      · cases h
      · split at h
        · cases h
        · next room =>
          cases h
          simp [State.canon_of_makeRoom room]

theorem State.canon_of_takeIngress {s u : State} {t : Nat} {op : NameOp} {x : NameMsg} (h : s.takeIngress t op x = some u) :
    u.canon = s.canon := by
  unfold State.takeIngress at h
  extract_lets need at h
  clear_value need
  split at h
  · cases h
  · split at h
    · cases h; simp
    · cases h; simp
    · cases h; simp
    · cases h; simp
    · exact State.canon_of_takeColl h
    · split at h
      · exact State.canon_of_takePub h
      · cases h; simp
    · cases h; rfl

@[simp] theorem State.canon_resolveSlot (s : State) (t : Nat) (x : NameMsg) : (s.resolveSlot t x).canon = s.canon := by
  have fixed (mine : Nat → Slot → Bool) (c : CDom) :
      (c.slots.foldl (fun c e => if mine e.1 e.2 then c.modSlot e.1 (·.resolve x.name x.ver) else c) c).scratch = c.scratch :=
    CDom.scratch_foldl _ _ fun c e => by split <;> simp
  unfold State.resolveSlot
  extract_lets mine dropped counted fix mended image imaged
  have all : imaged.canon = s.canon := by
    simp only [imaged]
    rw [State.canon_modImages fun y => fixed mine y.dom]
    simp only [mended]
    rw [State.canon_modC (fixed mine _)]
    simp [counted]
  rw [State.canon_foldl _ _ fun s e => by simp, all]

@[simp] theorem State.canon_regDone (s : State) (t : Nat) (x : NameMsg) : (s.regDone t x).canon = s.canon := by
  unfold State.regDone; split <;> simp

@[simp] theorem State.canon_catchUp (s : State) (t : Nat) (x : NameMsg) : (s.catchUp t x).canon = s.canon := by
  unfold State.catchUp
  dsimp only
  rw [State.canon_foldl, State.canon_modImages]
  · exact fun y => rfl
  · intro s e
    split <;> simp

@[simp] theorem State.canon_takeRegReply (s : State) (t : Nat) (x : NameMsg) : (s.takeRegReply t x).canon = s.canon := by
  simp [State.takeRegReply]

@[simp] theorem CDom.scratch_select (c : CDom) (p : Nat → Bool) (rest : Bool) : (c.select p rest).scratch = c.scratch := by
  simp [CDom.select]

@[simp] theorem State.canon_flushParked (s : State) (t : Nat) : (s.flushParked t).canon = s.canon := by
  simp [State.flushParked]

theorem Memory.wf_within (m : Memory) (l : List (Nat × Nat)) (h : m.wf = true) : (m.within l).wf = true := Memory.wf_filter m _ h

@[simp] theorem CDom.scratch_withoutFrame (c : CDom) (f : Nat) : (c.withoutFrame f).scratch = c.scratch := by
  simp [CDom.withoutFrame]

@[simp] theorem State.le_parkFrame {a : Bool × Bool} (s : State) (t f : Nat) (ha : a ≤ s.canon) : a ≤ (s.parkFrame t f).canon := by
  simp only [State.parkFrame, State.canon_latchSups, State.canon_countT, State.canon_releaseCode]
  refine ha.trans ((State.canon_modC (CDom.scratch_withoutFrame _ f)).symm.le.trans (State.canon_le_modSlate fun ok => ?_))
  have here : Memory.wf (s.c t).scratch = true := by
    simp only [Tile.memOk, Bool.and_eq_true] at ok
    simpa [State.modC, State.setC, State.setTile, State.tile] using ok.1.1
  have parked : Memory.wf ((s.c t).image f).dom.scratch = true := Memory.wf_within _ _ here
  simp only [Tile.memOk, Slate.memOk, Bool.and_eq_true, List.all_append, Option.all_map, Function.comp_def, CDom.scratch_withoutFrame] at ok ⊢
  exact ⟨ok.2.1, ok.2.2, by simpa using parked⟩

@[simp] theorem CDom.scratch_into (c : CDom) (f n : Nat) : (c.into f n).scratch = c.scratch := by
  simp [CDom.into]

@[simp] theorem CDom.scratch_shadowed (c : CDom) : (c.shadowed).scratch = c.scratch := by
  simp [CDom.shadowed]

@[simp] theorem State.le_redeliver {a : Bool × Bool} (s : State) (t : Nat) (m : Msg) (ha : a ≤ s.canon) : a ≤ (s.redeliver t m).canon := by
  unfold State.redeliver
  split
  · exact State.le_foldl _ _ ha fun s x => by dsimp only; split <;> simp
  · split <;> simp [ha]
  · dsimp only
    split <;> simp [ha]
  · (repeat' split) <;> simp [ha]
  · exact ha

@[simp] theorem State.le_redeliverAt {a : Bool × Bool} (s : State) (t k : Nat) (ha : a ≤ s.canon) : a ≤ (s.redeliverAt t k).canon := by
  simp [State.redeliverAt, ha]

@[simp] theorem State.canon_refire (s : State) (t : Nat) (a : Again) : (s.refire t a).canon = s.canon := by
  unfold State.refire; dsimp only; (repeat' split) <;> simp

@[simp] theorem State.le_replayEnd {a : Bool × Bool} (s : State) (t : Nat) (ha : a ≤ s.canon) : a ≤ (s.replayEnd t).canon := by
  simp [State.replayEnd, ha]

@[simp] theorem State.canon_skipGone (s : State) (t : Nat) : (s.skipGone t).canon = s.canon := by
  simp [State.skipGone]

@[simp] theorem State.le_replayed {a : Bool × Bool} (s : State) (t k : Nat) (ha : a ≤ s.canon) : a ≤ (s.replayed t k).canon := by
  have delivered : a ≤ ((List.range (((s.skipGone t).tile t).slate.progress - k)).foldl (fun s j => s.redeliverAt t (k + j + 1)) (s.skipGone t)).canon :=
    State.le_foldl _ _ (by simpa using ha) fun s j => s.le_redeliverAt t _ le_rfl
  unfold State.replayed
  dsimp only
  split
  · exact delivered
  · exact State.le_replayEnd _ _ delivered

@[simp] theorem State.le_commitOn {a : Bool × Bool} (s : State) (t e : Nat) (ha : a ≤ s.canon) : a ≤ (s.commitOn t e).canon := by
  unfold State.commitOn; dsimp only; (repeat' split) <;> simp [ha]

/-- A loss keeps the tile's C domain beside the state as of D. -/
theorem Slate.memOk_atLoss {l : Slate} {c : CDom} {kind tick : Nat} {torn : Option Nat} (hl : Slate.memOk l = true)
    (hc : Memory.wf c.scratch = true) : Slate.memOk (l.atLoss c kind tick torn) = true := by
  unfold Slate.atLoss
  extract_lets fresh l' draft
  have same : l'.snap = l.snap ∧ l'.snapN = l.snapN ∧ l'.images = l.images := by
    simp only [l']
    (repeat' split) <;> exact ⟨rfl, rfl, rfl⟩
  obtain ⟨snap, snapN, images⟩ := same
  clear_value l'
  simp only [Slate.memOk, Bool.and_eq_true, snap, snapN, images, Option.all_some, Option.all_none] at hl ⊢
  exact ⟨⟨⟨hl.1.1.1, trivial⟩, hc⟩, hl.2⟩

@[simp] theorem State.le_lose {a : Bool × Bool} (s : State) (t kind : Nat) (torn : Option Nat) (ha : a ≤ s.canon) :
    a ≤ (s.lose t kind torn).canon := by
  unfold State.lose
  split
  · exact ha
  · extract_lets c withdrawn stopped x counted
    have before : a ≤ counted.canon := by
      simp only [counted, stopped]
      split <;> simp [withdrawn, ha]
    have same : counted.tile t = x := rfl
    have kept : c = x.c := by
      show s.c t = stopped.c t
      have all : withdrawn.c t = s.c t := State.c_withdrawAll s t t _
      simp only [stopped]
      split
      · exact all.symm
      · exact all.symm
    refine State.le_destroyOn _ _ (before.trans (State.canon_le_setTile fun ok => ?_))
    rw [same] at ok
    simp only [Tile.memOk, Bool.and_eq_true] at ok ⊢
    exact ⟨⟨rfl, ok.1.2⟩, Slate.memOk_atLoss ok.2 (kept ▸ ok.1.1)⟩

@[simp] theorem CDom.scratch_unissue (c : CDom) (x : Issue) : (c.unissue x).scratch = c.scratch := by
  simp [CDom.unissue]

@[simp] theorem CDom.scratch_recount (c : CDom) : (c.recount).scratch = c.scratch := by
  simp [CDom.recount]

@[simp] theorem State.canon_restartCopy (s : State) (t : Nat) (x : Copy) : (s.restartCopy t x).canon = s.canon := by
  simp [State.restartCopy]

/-- The scratchpad after the memory of an image is moved into it. -/
theorem CDom.wf_seated (c : CDom) (x : Image) (q : Seat) (h : Memory.wf c.scratch = true) : Memory.wf (c.seated x q).scratch = true := by
  unfold CDom.seated
  dsimp only
  rw [CDom.scratch_foldl _ _ fun c l => by simp]
  exact Memory.wf_foldl h fun m e => Memory.wf_writeBytes _ _ _

@[simp] theorem State.canon_cutOff (s : State) (t : Nat) (lost : CDom) (valid : Bool) (a : Again) : (s.cutOff t lost valid a).canon = s.canon := by
  unfold State.cutOff
  extract_lets id pruned
  have gone : pruned.canon = s.canon := by
    refine State.canon_foldl _ _ fun s e => ?_
    (repeat' split) <;> simp
  split
  · exact gone
  · dsimp only
    split <;> simp [gone]

@[simp] theorem State.canon_endLost (s : State) (t : Nat) (lost : CDom) (a : Again) : (s.endLost t lost a).canon = s.canon := by
  unfold State.endLost; split <;> simp

theorem Slate.wf_restored {l : Slate} (hl : Slate.memOk l = true) : Memory.wf l.restored.scratch = true := by
  have snap : Memory.wf (l.snap.getD {}).scratch = true := by
    simp only [Slate.memOk, Bool.and_eq_true] at hl
    cases h : l.snap with
    | none => rfl
    | some c => simpa [h] using hl.1.1.1.1
  unfold Slate.restored
  dsimp only
  rw [CDom.scratch_recount]
  dsimp only
  rw [CDom.scratch_foldl _ _ fun c x => by simp]
  exact Memory.wf_within _ _ snap

@[simp] theorem State.le_revive {a : Bool × Bool} (s : State) (t : Nat) (ha : a ≤ s.canon) : a ≤ (s.revive t).canon := by
  unfold State.revive
  extract_lets l lost valid c all ended fire diverged tile seated recorded counted cut pruned lostEnded copied
  have restored : a ≤ seated.canon := by
    refine ha.trans (State.canon_le_setTile fun ok => ?_)
    simp only [Tile.memOk, Bool.and_eq_true] at ok ⊢
    exact ⟨⟨Slate.wf_restored ok.2, ok.1.2⟩, ok.2⟩
  have record : a ≤ recorded.canon := by
    refine restored.trans (State.canon_le_modSlate fun ok => ?_)
    simp only [Tile.memOk, Slate.memOk, Bool.and_eq_true, Option.all_none] at ok ⊢
    exact ⟨⟨ok.2.1.1, trivial⟩, ok.2.2⟩
  have cutOff : cut.canon = recorded.canon := by
    simp only [cut]
    rw [State.canon_foldl _ _ fun s a => by simp]
    simp [counted]
  have again : a ≤ copied.canon := by
    simp only [copied, lostEnded, pruned]
    clear_value cut
    simp only [State.canon_foldl, State.canon_prune, State.canon_endLost, State.canon_restartCopy, implies_true, cutOff]
    exact record
  clear_value copied
  simp [again]


end Sys2Proof.Machine

end

/-! PROOFS. Fields, boot, the host, partitions and span links keep every memory canonical. -/

section

namespace Sys2Proof.Machine

@[simp] theorem State.canon_dropStalls (s : State) (t : Nat) : (s.dropStalls t).canon = s.canon := by
  simp [State.dropStalls]

theorem Slate.wf_domainAtD {l : Slate} (hl : Slate.memOk l = true) : Memory.wf l.domainAtD.fshared = true := by
  simp only [Slate.memOk, Bool.and_eq_true] at hl
  unfold Slate.domainAtD
  dsimp only
  split
  · cases h : l.snapN with
    | none => rfl
    | some n => simpa [h] using hl.1.1.1.2
  · rfl

theorem State.le_setN {a : Bool × Bool} {s : State} {t : Nat} {n : NDom} (ha : a ≤ s.canon)
    (ok : Tile.memOk (s.tile t) = true → Memory.wf n.fshared = true) : a ≤ (s.setN t n).canon := by
  refine ha.trans (State.canon_le_setTile fun good => ?_)
  have new := ok good
  simp only [Tile.memOk, Bool.and_eq_true] at good ⊢
  exact ⟨⟨good.1.1, new⟩, good.2⟩

@[simp] theorem State.le_loseBoth {a : Bool × Bool} (s : State) (t : Nat) (ha : a ≤ s.canon) : a ≤ (s.loseBoth t).canon := by
  unfold State.loseBoth
  refine State.le_setN (by simp [ha]) fun ok => ?_
  simp only [Tile.memOk, Bool.and_eq_true] at ok
  exact Slate.wf_domainAtD ok.2

@[simp] theorem State.le_loseField {a : Bool × Bool} (s : State) (field : Nat) (ha : a ≤ s.canon) : a ≤ (s.loseField field).canon := by
  unfold State.loseField
  generalize fieldTiles field = tiles
  simp [ha]

@[simp] theorem State.canon_resend (s : State) (field : Nat) (ok : Agent → Bool) : (s.resend field ok).canon = s.canon := by
  simp [State.resend]

@[simp] theorem State.le_linesOn {a : Bool × Bool} (s : State) (t : Nat) (ha : a ≤ s.canon) : a ≤ (s.linesOn t).canon := by
  simp [State.linesOn, ha]

@[simp] theorem State.canon_parkTasks (s : State) (field : Nat) (ok : Task → Bool) : (s.parkTasks field ok).canon = s.canon := by
  refine State.canon_tiles ?_
  rw [List.all_map]
  refine congrArg s.tiles.all (funext fun e => ?_)
  dsimp only [Function.comp]
  split <;> rfl

@[simp] theorem State.canon_critSweep (s : State) (field : Nat) : (s.critSweep field).canon = s.canon := by
  unfold State.critSweep; (repeat' split) <;> simp

@[simp] theorem State.canon_mark (s : State) (t f : Nat) : (s.mark t f).canon = s.canon := State.canon_modC (CDom.modFrame_scratch _ _ _)

@[simp] theorem State.le_seatImage {a : Bool × Bool} (s : State) (t : Nat) (x : Image) (q : Seat) (ha : a ≤ s.canon) :
    a ≤ (s.seatImage t x q).canon := by
  unfold State.seatImage
  extract_lets seated slate latched reopened
  have inTile : a ≤ seated.canon := State.le_modC ha (CDom.wf_seated _ x q)
  have inSlate : a ≤ slate.canon := by
    refine inTile.trans (State.canon_le_modSlate fun ok => ?_)
    simp only [Tile.memOk, Slate.memOk, Bool.and_eq_true, List.all_eq_true] at ok ⊢
    obtain ⟨-, ⟨⟨⟨snap, snapN⟩, target⟩, lost⟩, images⟩ := ok
    refine ⟨⟨⟨⟨?_, snapN⟩, target⟩, lost⟩, fun x hx => images x (List.mem_of_mem_filter hx)⟩
    split
    · refine CDom.wf_seated _ x q ?_
      cases h : (seated.tile t).slate.snap with
      | none => rfl
      | some c => simpa [h] using snap
    · exact snap
  clear_value slate
  rw [State.canon_retrySends]
  have all : a ≤ latched.canon := by simp [latched, inSlate]
  refine State.le_foldl _ _ all fun s y => ?_
  simp

@[simp] theorem State.le_removeRails {a : Bool × Bool} (s : State) (field : Nat) (ha : a ≤ s.canon) : a ≤ (s.removeRails field).canon := by
  unfold State.removeRails
  exact State.le_destroysOn _ (State.le_foldl _ _ (by simpa using ha) fun s t => s.le_lose t _ _ le_rfl)

@[simp] theorem State.le_cooled {a : Bool × Bool} (s : State) (field : Nat) (ha : a ≤ s.canon) : a ≤ (s.cooled field).canon := by
  unfold State.cooled
  generalize fieldTiles field = tiles
  extract_lets off revived restored woken
  have first : a ≤ revived.canon := State.le_foldl _ _ (by simpa [off] using ha) fun s t => by split <;> simp
  have second : a ≤ restored.canon := State.le_foldl _ _ first fun s t => by simp
  refine State.le_destroysOn _ ?_
  simp only [woken]
  split <;> exact second

@[simp] theorem State.canon_eraseKeys (s : State) (random : List Byte) : (s.eraseKeys random).canon = s.canon := by
  simp [State.eraseKeys]

@[simp] theorem State.canon_alarmRails (s : State) : s.alarmRails.canon = s.canon := by
  unfold State.alarmRails
  extract_lets start off
  have all : off.canon = s.canon := by
    refine State.canon_foldl _ _ fun s f => ?_
    simp only [start]
    (repeat' split) <;> simp
  clear_value off
  simpa using all

@[simp] theorem State.canon_alarm (s : State) (source : Nat) (random : List Byte) : (s.alarm source random).canon = s.canon := by
  unfold State.alarm; split <;> simp

@[simp] theorem State.canon_fullAlarm (s : State) (source : Nat) : (s.fullAlarm source).canon = s.canon := by
  simp [State.fullAlarm]

@[simp] theorem State.canon_tempAlarm (s : State) (field : Nat) (temp : BitVec 16) : (s.tempAlarm field temp).canon = s.canon := by
  simp [State.tempAlarm]

@[simp] theorem State.canon_levelRise (s : State) (field new : Nat) : (s.levelRise field new).canon = s.canon := by
  simp [State.levelRise]

@[simp] theorem State.le_levelFall {a : Bool × Bool} (s : State) (field : Nat) (ha : a ≤ s.canon) : a ≤ (s.levelFall field).canon := by
  unfold State.levelFall; dsimp only; (repeat' split) <;> simp [ha]

@[simp] theorem State.le_sensed {a : Bool × Bool} (s : State) (field : Nat) (temp : BitVec 16) (ha : a ≤ s.canon) :
    a ≤ (s.sensed field temp).canon := by
  unfold State.sensed; dsimp only; (repeat' split) <;> simp [ha]

@[simp] theorem State.canon_newThresholds (s : State) (field : Nat) : (s.newThresholds field).canon = s.canon := by
  simp [State.newThresholds]

@[simp] theorem State.canon_bootUnit (s : State) (x : BootInputs) (step unit : Nat) (normal alt : Bool) :
    (s.bootUnit x step unit normal alt).1.canon = s.canon := by
  simp [State.bootUnit]

@[simp] theorem State.canon_bootAlarm (s : State) (source : Nat) : (s.bootAlarm source).canon = s.canon := by
  simp [State.bootAlarm]

@[simp] theorem State.canon_verifyFailed (s : State) : (s.verifyFailed).canon = s.canon := by
  simp [State.verifyFailed]

@[simp] theorem State.canon_bootImage (s : State) (x : BootInputs) (step unit kind : Nat) (a b : List Byte) :
    (s.bootImage x step unit kind a b).1.canon = s.canon := by
  unfold State.bootImage; dsimp only; (repeat' split) <;> simp

@[simp] theorem State.canon_excludeField (s : State) (f : Nat) : (s.excludeField f).canon = s.canon := by
  simp [State.excludeField]

@[simp] theorem State.le_eachUnit {a : Bool × Bool} (s : State) (l : List Nat) (g : State → Nat → State) (ha : a ≤ s.canon)
    (ok : ∀ s k, s.canon ≤ (g s k).canon) : a ≤ (s.eachUnit l g).canon :=
  State.le_foldl _ _ ha fun s k => by split <;> simp [ok]

@[simp] theorem State.canon_bootStep1 (s : State) (x : BootInputs) : (s.bootStep1 x).canon = s.canon := by
  unfold State.bootStep1; dsimp only; (repeat' split) <;> simp

@[simp] theorem State.le_bootStep2 {a : Bool × Bool} (s : State) (x : BootInputs) (ha : a ≤ s.canon) : a ≤ (s.bootStep2 x).canon :=
  State.le_eachUnit _ _ _ ha fun s f => by dsimp only; split <;> simp

@[simp] theorem State.le_bootStep4 {a : Bool × Bool} (s : State) (x : BootInputs) (ha : a ≤ s.canon) : a ≤ (s.bootStep4 x).canon :=
  State.le_eachUnit _ _ _ ha fun s f => by dsimp only; split <;> simp

@[simp] theorem State.le_bootStep3 {a : Bool × Bool} (s : State) (x : BootInputs) (ha : a ≤ s.canon) : a ≤ (s.bootStep3 x).canon :=
  State.le_eachUnit _ _ _ ha fun s f => by dsimp only; split <;> simp

/-- A change of the network domains that leaves the field-shared memories. -/
theorem State.canon_mapN {s : State} {p : Nat → Prop} [DecidablePred p] {g : NDom → NDom} (h : ∀ n, (g n).fshared = n.fshared) :
    ({ s with tiles := s.tiles.map fun e => if p e.1 then (e.1, { e.2 with n := g e.2.n }) else e } : State).canon = s.canon := by
  refine State.canon_tiles ?_
  rw [List.all_map]
  refine congrArg s.tiles.all (funext fun e => ?_)
  dsimp only [Function.comp]
  split
  · simp only [Tile.memOk, h]
  · rfl

@[simp] theorem State.le_bootStep5 {a : Bool × Bool} (s : State) (x : BootInputs) (ha : a ≤ s.canon) : a ≤ (s.bootStep5 x).canon := by
  refine State.le_eachUnit _ _ _ ha fun s f => ?_
  dsimp only
  split
  · simp
  · rw [State.canon_mapN (p := fun t => fieldOf t = f) (g := fun n => { n with routes := [] }) fun n => rfl]
    simp

@[simp] theorem State.le_bootStep6 {a : Bool × Bool} (s : State) (x : BootInputs) (ha : a ≤ s.canon) : a ≤ (s.bootStep6 x).canon :=
  State.le_eachUnit _ _ _ ha fun s f => by simp

theorem State.canon_powerTile (s : State) (t : Nat) (b : Bool) : (s.setTile t { s.tile t with powered := b }).canon = s.canon :=
  s.canon_setTile rfl

@[simp] theorem State.le_bootStep7 {a : Bool × Bool} (s : State) (x : BootInputs) (ha : a ≤ s.canon) : a ≤ (s.bootStep7 x).canon := by
  unfold State.bootStep7
  extract_lets tested
  have ok : a ≤ tested.canon := by
    refine State.le_eachUnit _ _ _ ha fun s t => ?_
    dsimp only
    split
    · split
      · rw [State.canon_powerTile]
        simp
      · simp
    · split <;> simp
  split
  · exact ok
  · exact State.le_foldl _ _ ok fun s f => by
      rw [State.canon_resend]
      exact State.le_foldl _ _ le_rfl fun s t => by simp

@[simp] theorem State.canon_bootStep8 (s : State) (x : BootInputs) : (s.bootStep8 x).canon = s.canon := by
  simp [State.bootStep8]

@[simp] theorem State.le_fieldsOff {a : Bool × Bool} (s : State) (ha : a ≤ s.canon) : a ≤ s.fieldsOff.canon :=
  State.le_foldl _ _ ha fun s f => by split <;> simp

@[simp] theorem State.le_beforeStart {a : Bool × Bool} (s : State) (ha : a ≤ s.canon) : a ≤ (s.beforeStart).canon := by
  unfold State.beforeStart; split <;> simp [ha]

@[simp] theorem State.le_bootStep {a : Bool × Bool} (s : State) (x : BootInputs) (k : Nat) (ha : a ≤ s.canon) : a ≤ (s.bootStep x k).canon := by
  unfold State.bootStep; split <;> simp [ha]

@[simp] theorem State.le_bootTurn {a : Bool × Bool} (s : State) (x : BootInputs) (k : Nat) (ha : a ≤ s.canon) : a ≤ (s.bootTurn x k).canon := by
  unfold State.bootTurn; dsimp only; (repeat' split) <;> simp [ha]

@[simp] theorem State.le_haltModule {a : Bool × Bool} (s : State) (ha : a ≤ s.canon) : a ≤ (s.haltModule).canon := by
  simp [State.haltModule, ha]

@[simp] theorem State.le_start {a : Bool × Bool} (s : State) (x : BootInputs) (ha : a ≤ s.canon) : a ≤ (s.start x).canon := by
  unfold State.start
  extract_lets last turned counted
  have ok : a ≤ turned.canon := State.le_foldl _ _ (by simp [ha]) fun s k => s.le_bootTurn x _ le_rfl
  clear_value turned
  have same : a ≤ counted.canon := by simpa [counted] using ok
  clear_value counted
  split <;> simp [same]

@[simp] theorem State.canon_spdmAnswer (s : State) (k : Script) (req resp : List Byte) : (s.spdmAnswer k req resp).canon = s.canon := by
  simp [State.spdmAnswer]

@[simp] theorem State.canon_spdmError (s : State) (code : Nat) : (s.spdmError code).canon = s.canon := by
  simp [State.spdmError]

@[simp] theorem State.canon_spdmUnexpected (s : State) : (s.spdmUnexpected).canon = s.canon := by
  simp [State.spdmUnexpected]

@[simp] theorem State.canon_nonce (s : State) : (s.nonce).2.canon = s.canon := by
  simp [State.nonce]

@[simp] theorem State.canon_spdmSigned (s : State) (k : Script) (context req body : List Byte) :
    (s.spdmSigned k context req body).canon = s.canon := by
  unfold State.spdmSigned; split <;> simp

@[simp] theorem State.canon_enqueue (s : State) (p : Nat) (x : Posted) : (s.enqueue p x).canon = s.canon := by
  simp [State.enqueue]

@[simp] theorem State.canon_stat (s : State) (p : Nat) (b : W64) : (s.stat p b).canon = s.canon := by
  simp [State.stat]

@[simp] theorem State.canon_headerDropped (s : State) (p slot : Nat) : (s.headerDropped p slot).canon = s.canon := by
  simp [State.headerDropped]

@[simp] theorem State.canon_writeHeader (s : State) (p slot : Nat) (w0 w1 w2 w3 : W64) : (s.writeHeader p slot w0 w1 w2 w3).canon = s.canon := by
  simp [State.writeHeader]

@[simp] theorem State.canon_subAsk (s : State) (p i n : Nat) : (s.subAsk p i n).canon = s.canon := by
  induction n generalizing s with
  | zero => rfl
  | succ n ih =>
    unfold State.subAsk
    dsimp only
    split
    · rfl
    · split
      · split
        · exact State.canon_foldl _ _ fun s m => by simp
        · rw [ih]
          simp
      · rfl

@[simp] theorem State.canon_subArm (s : State) (p i : Nat) (e : HostSub) (op : NameOp) : (s.subArm p i e op).canon = s.canon := by
  simp [State.subArm]

@[simp] theorem State.canon_subPrune (s : State) (p i : Nat) (e : HostSub) : (s.subPrune p i e).canon = s.canon := by
  simp [State.subPrune]

@[simp] theorem State.canon_hsubArm (s : State) (p i : Nat) (w2 : W64) : (s.hsubArm p i w2).canon = s.canon := by
  simp [State.hsubArm]

@[simp] theorem State.canon_hsubWithdraw (s : State) (p i : Nat) (w2 : W64) : (s.hsubWithdraw p i w2).canon = s.canon := by
  simp [State.hsubWithdraw]

@[simp] theorem State.le_hostWrite {a : Bool × Bool} (s : State) (p i : Nat) (e : HostSub) (x : NameMsg) (ha : a ≤ s.canon) :
    a ≤ (s.hostWrite p i e x).canon := by
  unfold State.hostWrite
  extract_lets b addr mem stored counted
  have rows (ok : s.hostMem.wf = true) : mem.wf = true := by
    simp only [mem]
    exact Memory.wf_writeBytes _ _ _ (Memory.wf_writeBytes _ _ _ ok)
  clear_value mem
  have written : a ≤ stored.canon := by
    refine ha.trans ⟨le_rfl, Bool.le_iff_imp.2 fun ok => ?_⟩
    simp only [State.canon, memOk, Bool.and_eq_true] at ok ⊢
    exact ⟨ok.1, rows ok.2⟩
  have after : a ≤ counted.canon := by
    simp only [counted, State.canon_modVf]
    exact written
  clear_value counted
  split <;> simp [after]

@[simp] theorem State.canon_resetVf (s : State) (p : Nat) : (s.resetVf p).canon = s.canon := by
  simp [State.resetVf]

@[simp] theorem State.canon_bar2Write (s : State) (p off size : Nat) (data : W64) : (s.bar2Write p off size data).canon = s.canon := by
  simp [State.bar2Write]

@[simp] theorem State.canon_vfWrite (s : State) (p off : Nat) (v : W64) : (s.vfWrite p off v).canon = s.canon := by
  unfold State.vfWrite
  (repeat' split) <;> first | rfl | exact State.canon_modVf _ _ _

@[simp] theorem State.canon_partWrite (s : State) (off : Nat) (v : W64) : (s.partWrite off v).canon = s.canon := by
  simp [State.partWrite]

@[simp] theorem State.canon_pfWrite (s : State) (off : Nat) (v : W64) : (s.pfWrite off v).canon = s.canon := by
  simp [State.pfWrite]

@[simp] theorem State.canon_registerRead (s : State) (fn : HostFn) (off size : Nat) : (s.registerRead fn off size).2.canon = s.canon := by
  unfold State.registerRead; dsimp only; (repeat' split) <;> simp

@[simp] theorem State.le_startTiles {a : Bool × Bool} (s : State) (p : Nat) (ha : a ≤ s.canon) : a ≤ (s.startTiles p).canon := by
  refine ha.trans ⟨Bool.le_iff_imp.2 fun ok => ?_, le_rfl⟩
  simp only [State.canon, tilesOk, State.startTiles, List.all_eq_true] at ok ⊢
  exact fun e he => ok e (List.mem_of_mem_filter he)

@[simp] theorem State.le_create {a : Bool × Bool} (s : State) (p : Nat) (ha : a ≤ s.canon) : a ≤ (s.create p).canon := by
  unfold State.create
  extract_lets wiped enabled
  have gone : a ≤ wiped.canon := by simp [wiped, ha]
  clear_value wiped
  simpa [enabled] using gone

@[simp] theorem State.le_createCmd {a : Bool × Bool} (s : State) (p : Nat) (ha : a ≤ s.canon) : a ≤ (s.createCmd p).canon := by
  unfold State.createCmd; dsimp only; (repeat' split) <;> simp [ha]

@[simp] theorem State.le_destroyCmd {a : Bool × Bool} (s : State) (p : Nat) (ha : a ≤ s.canon) : a ≤ (s.destroyCmd p).canon := by
  unfold State.destroyCmd; split <;> simp [ha]

@[simp] theorem State.le_pfCommand {a : Bool × Bool} (s : State) (off : Nat) (v : W64) (ha : a ≤ s.canon) : a ≤ (s.pfCommand off v).canon := by
  unfold State.pfCommand; dsimp only; (repeat' split) <;> simp [ha]

@[simp] theorem State.canon_loaderRecord (s : State) (p v k : Nat) (i : FaultInfo) : (s.loaderRecord p v k i).canon = s.canon := by
  simp [State.loaderRecord]

@[simp] theorem State.canon_launchBind (s : State) (p v k : Nat) (l : List Byte) : (s.launchBind p v k l).canon = s.canon := by
  simp [State.launchBind]

@[simp] theorem State.canon_takeLaunch (s : State) (p : Nat) : (s.takeLaunch p).canon = s.canon := by
  unfold State.takeLaunch; dsimp only; (repeat' split) <;> simp

@[simp] theorem State.canon_loaderTasks (s : State) (p : Nat) (ids : List (BitVec 32)) (l : List (Nat × List Byte)) :
    (s.loaderTasks p ids l).canon = s.canon := by
  induction l generalizing s ids with
  | nil => rfl
  | cons e rest ih =>
    unfold State.loaderTasks
    dsimp only
    split
    · rw [ih]; simp
    · split
      · exact ih _ _
      · split
        · split
          · simp
          · rw [ih]; simp
        · simp

@[simp] theorem State.canon_spanDrop (s : State) (p : Nat) : (s.spanDrop p).canon = s.canon := by
  simp [State.spanDrop]

@[simp] theorem State.canon_spanDeliver (s : State) (link p : Nat) (k : SpanFlit) : (s.spanDeliver link p k).canon = s.canon := by
  unfold State.spanDeliver; dsimp only; (repeat' split) <;> simp

@[simp] theorem State.canon_cutBranches (s : State) (link p : Nat) : (s.cutBranches link p).canon = s.canon := by
  simp [State.cutBranches]

@[simp] theorem State.canon_lapseWaiting (s : State) (link : Nat) : (s.lapseWaiting link).canon = s.canon := by
  unfold State.lapseWaiting
  dsimp only
  rw [State.canon_foldl]
  · simp
  · intro s e
    split <;> simp

@[simp] theorem State.canon_vecResult (s : State) (d : Dst) (l : List (W32 × FpFlags)) : (s.vecResult d l).canon = s.canon := by
  simp [State.vecResult]

@[simp] theorem State.canon_vop (s : State) (t : Ty) (d : Dst) (f : Nat → Nat → Nat → Nat × FpFlags) (a b c : Src) :
    (s.vop t d f a b c).canon = s.canon := by
  simp [State.vop]

@[simp] theorem State.canon_vmove (s : State) (d : Dst) (f : Nat → W32) : (s.vmove d f).canon = s.canon := by
  simp [State.vmove]

@[simp] theorem State.canon_reduce (s : State) (t : Ty) (op : Nat) (a : Src) (d : Dst) : (s.reduce t op a d).canon = s.canon := by
  simp [State.reduce]

end Sys2Proof.Machine

end

/-! PROOFS. Every event keeps every memory canonical. -/

section

namespace Sys2Proof.Machine

/-! ### Outcomes that keep the canonical form -/

/-- Every next state of an outcome keeps what is canonical of s. -/
def Keeps (s : State) (o : Host.Outcome State Fault Refusal) : Prop := ∀ u, o = .next u → s.canon ≤ u.canon

@[simp] theorem keeps_next {s u : State} : Keeps s (.next u) ↔ s.canon ≤ u.canon :=
  ⟨fun h => h u rfl, fun h v e => by cases e; exact h⟩

@[simp] theorem keeps_fault (s : State) (f : Fault) : Keeps s (.fault f) := fun _ e => by cases e

@[simp] theorem keeps_onTile {t : Nat} {s : State} {f : State → State} (h : s.canon ≤ (f s).canon) : Keeps s (onTile t s f) := by
  unfold onTile
  split <;> simp [h]

@[simp] theorem keeps_onField {t : Nat} {s : State} {f : State → State} (h : s.canon ≤ (f s).canon) : Keeps s (onField t s f) := by
  unfold onField
  split <;> simp [h]

@[simp] theorem keeps_onWalker {t : Nat} {s : State} {f : State → State} (h : s.canon ≤ (f s).canon) : Keeps s (onWalker t s f) := by
  unfold onWalker
  split <;> simp [h]

@[simp] theorem keeps_onVf {t : Nat} {s : State} {f : State → State} (h : s.canon ≤ (f s).canon) : Keeps s (onVf t s f) := by
  unfold onVf
  split
  · simp only [keeps_next]
    split <;> simp [h]
  · simp

@[simp] theorem keeps_onPart {t : Nat} {s : State} {f : State → State} (h : s.canon ≤ (f s).canon) : Keeps s (onPart t s f) := by
  unfold onPart
  split
  · simp only [keeps_next]
    split <;> simp [h]
  · simp

@[simp] theorem keeps_onLink {t : Nat} {s : State} {f : State → State} (h : s.canon ≤ (f s).canon) : Keeps s (onLink t s f) := by
  unfold onLink
  split
  · simp only [keeps_next]
    split <;> simp [h]
  · simp

@[simp] theorem keeps_spdm {s : State} {f : State → State} (h : s.canon ≤ (f s).canon) : Keeps s (s.spdm f) := by
  unfold State.spdm
  simp only [keeps_next]
  split <;> simp [h]

end Sys2Proof.Machine

namespace Sys2Proof.Machine

theorem State.le_hbm {a : Bool × Bool} {s : State} {m : Memory} (ha : a ≤ s.canon) (h : s.hbm.wf = true → m.wf = true) :
    a ≤ State.canon { s with hbm := m } :=
  ha.trans ⟨le_rfl, Bool.le_iff_imp.2 fun ok => by
    simp only [State.canon, memOk, Bool.and_eq_true] at ok ⊢
    exact ⟨h ok.1, ok.2⟩⟩

theorem State.canon_of_answerMsg {s u : State} {m t : Nat} {ok : NameOp → Bool} {op : NameOp} {x : NameMsg}
    (h : s.answerMsg m ok = some (t, op, x, u)) : u.canon = s.canon := by
  unfold State.answerMsg at h
  split at h
  · split at h
    · cases h; simp
    · cases h
  · cases h

/-- What the D record makes of a slate. -/
theorem Slate.memOk_newD {l : Slate} {e : Epoch} (hl : Slate.memOk l = true) (ht : l.target = some e) : Slate.memOk (l.newD e) = true := by
  simp only [Slate.memOk, ht, Bool.and_eq_true] at hl
  obtain ⟨⟨⟨-, target⟩, lost⟩, images⟩ := hl
  simp only [Option.all_some, Bool.and_eq_true] at target
  simp only [Slate.memOk, Slate.newD, Option.all_some, Option.all_none, Bool.and_eq_true]
  exact ⟨⟨⟨⟨target.1, target.2⟩, trivial⟩, lost⟩, images⟩

theorem keeps_execTokenArrival (t : Nat) (s : State) : Keeps s (execTokenArrival t s) := by
  unfold execTokenArrival; refine keeps_onTile ?_; (repeat' split) <;> simp

theorem keeps_execHoldingQueueDrain (t : Nat) (s : State) : Keeps s (execHoldingQueueDrain t s) := by
  unfold execHoldingQueueDrain; refine keeps_onTile ?_; dsimp only; (repeat' split) <;> simp

theorem keeps_execBundleIssue (t : Nat) (s : State) : Keeps s (execBundleIssue t s) := by
  unfold execBundleIssue; refine keeps_onTile ?_; (repeat' split) <;> simp

theorem keeps_execTrapEntry (t f : Nat) (s : State) : Keeps s (execTrapEntry t f s) := by
  unfold execTrapEntry; refine keeps_onTile ?_; dsimp only; (repeat' split) <;> simp

theorem keeps_execAbortFaultRecord (t f : Nat) (s : State) : Keeps s (execAbortFaultRecord t f s) := by
  unfold execAbortFaultRecord; refine keeps_onTile ?_; dsimp only; (repeat' split) <;> simp

theorem keeps_execInstancePromotion (t i : Nat) (s : State) : Keeps s (execInstancePromotion t i s) := by
  simp [execInstancePromotion]

theorem keeps_execBundleFinish (t i : Nat) (s : State) : Keeps s (execBundleFinish t i s) := by
  simp [execBundleFinish]

theorem keeps_execBlockCommit (t i : Nat) (s : State) : Keeps s (execBlockCommit t i s) := by
  simp [execBlockCommit]

theorem keeps_execDeferredReplacementCommit (t i : Nat) (s : State) : Keeps s (execDeferredReplacementCommit t i s) := by
  unfold execDeferredReplacementCommit; refine keeps_onTile ?_; (repeat' split) <;> simp

theorem keeps_execLoopSpawn (t l : Nat) (s : State) : Keeps s (execLoopSpawn t l s) := by
  simp [execLoopSpawn]

theorem keeps_execLoopContinuation (t l : Nat) (s : State) : Keeps s (execLoopContinuation t l s) := by
  unfold execLoopContinuation; refine keeps_onTile ?_; (repeat' split) <;> simp

theorem keeps_execTagDeadlockCheck (t : Nat) (s : State) : Keeps s (execTagDeadlockCheck t s) := by
  unfold execTagDeadlockCheck; refine keeps_onTile ?_; dsimp only; (repeat' split) <;> simp

theorem keeps_execThrottleEvent (t : Nat) (s : State) : Keeps s (execThrottleEvent t s) := by
  simp [execThrottleEvent]

theorem keeps_execTspawnAtHub (m : Nat) (taskId : BitVec 32) (s : State) : Keeps s (execTspawnAtHub m taskId s) := by
  unfold execTspawnAtHub; dsimp only; (repeat' split) <;> simp

theorem keeps_execTaskPlacement (field : Nat) (taskId : BitVec 32) (t : Nat) (s : State) : Keeps s (execTaskPlacement field taskId t s) := by
  unfold execTaskPlacement; refine keeps_onField ?_; dsimp only; (repeat' split) <;> simp

theorem keeps_execTileDelivery (m : Nat) (s : State) : Keeps s (execTileDelivery m s) := by
  unfold execTileDelivery; (repeat' split) <;> simp

theorem keeps_execActivation (t : Nat) (s : State) : Keeps s (execActivation t s) := by
  unfold execActivation; refine keeps_onTile ?_; dsimp only; (repeat' split) <;> simp

theorem keeps_execTaskReserving (t : Nat) (taskId : BitVec 32) (s : State) : Keeps s (execTaskReserving t taskId s) := by
  simp [execTaskReserving]

theorem keeps_execFrameEndDone (t f : Nat) (s : State) : Keeps s (execFrameEndDone t f s) := by
  unfold execFrameEndDone; refine keeps_onTile ?_; dsimp only; (repeat' split) <;> simp

theorem keeps_execMoveComplete (t : Nat) (taskId : BitVec 32) (s : State) : Keeps s (execMoveComplete t taskId s) := by
  unfold execMoveComplete; refine keeps_onTile ?_; dsimp only; (repeat' split) <;> simp

theorem keeps_execPowerGrant (field : Nat) (inp : PowerInputs) (s : State) : Keeps s (execPowerGrant field inp s) := by
  unfold execPowerGrant; refine keeps_onField ?_; dsimp only; (repeat' split) <;> simp

theorem keeps_execRailCurrentSample (field : Nat) (units : BitVec 10) (s : State) : Keeps s (execRailCurrentSample field units s) := by
  simp [execRailCurrentSample]

theorem keeps_execMatrixFiringStart (t : Nat) (s : State) : Keeps s (execMatrixFiringStart t s) := by
  unfold execMatrixFiringStart; refine keeps_onTile ?_; dsimp only; (repeat' split) <;> simp

theorem keeps_execKStep (t : Nat) (s : State) : Keeps s (execKStep t s) := by
  unfold execKStep; refine keeps_onTile ?_; dsimp only; (repeat' split) <;> simp

theorem keeps_execMatrixFiringEnd (t : Nat) (s : State) : Keeps s (execMatrixFiringEnd t s) := by
  unfold execMatrixFiringEnd; refine keeps_onTile ?_; dsimp only; (repeat' split) <;> simp

theorem keeps_execMatrixJobDone (t acc : Nat) (s : State) : Keeps s (execMatrixJobDone t acc s) := by
  unfold execMatrixJobDone; refine keeps_onTile ?_; (repeat' split) <;> simp

theorem keeps_execMsortPass (t : Nat) (s : State) : Keeps s (execMsortPass t s) := by
  unfold execMsortPass; refine keeps_onTile ?_; dsimp only; (repeat' split) <;> simp

theorem keeps_execLoadReply (m : Nat) (s : State) : Keeps s (execLoadReply m s) := by
  unfold execLoadReply; (repeat' split) <;> simp

theorem keeps_execDoneTokenFire (t f i : Nat) (s : State) : Keeps s (execDoneTokenFire t f i s) := by
  unfold execDoneTokenFire; refine keeps_onTile ?_; dsimp only; (repeat' split) <;> simp

theorem keeps_execDrainWaitEnd (t i : Nat) (s : State) : Keeps s (execDrainWaitEnd t i s) := by
  simp [execDrainWaitEnd]

theorem keeps_execPfenceWaitEnd (t i : Nat) (s : State) : Keeps s (execPfenceWaitEnd t i s) := by
  simp [execPfenceWaitEnd]

theorem keeps_execStashFlushDone (t i : Nat) (s : State) : Keeps s (execStashFlushDone t i s) := by
  simp [execStashFlushDone]

theorem keeps_execWuntilTick (t i : Nat) (s : State) : Keeps s (execWuntilTick t i s) := by
  unfold execWuntilTick
  refine keeps_onTile ?_
  split
  · exact le_rfl
  · refine (State.canon_foldl _ _ fun s q => ?_).ge
    split <;> simp

theorem keeps_execCopyComplete (t i : Nat) (s : State) : Keeps s (execCopyComplete t i s) := by
  unfold execCopyComplete
  refine keeps_onTile ?_
  split
  · exact le_rfl
  · split
    · exact le_rfl
    · simp only [State.canon_fireDone]
      refine State.le_modC le_rfl fun ok => Memory.wf_foldl ok fun m r hm => ?_
      split
      · exact Memory.wf_writeBytes _ _ _ hm
      · exact hm

theorem keeps_execSpopDelivery (t i : Nat) (s : State) : Keeps s (execSpopDelivery t i s) := by
  unfold execSpopDelivery
  refine keeps_onTile ?_
  split
  · exact le_rfl
  · refine (State.canon_foldl _ _ fun s q => ?_).ge
    dsimp only
    (repeat' split) <;> simp

theorem keeps_execTslotqWaitDelivery (t i : Nat) (s : State) : Keeps s (execTslotqWaitDelivery t i s) := by
  unfold execTslotqWaitDelivery
  refine keeps_onTile ?_
  split
  · exact le_rfl
  · refine (State.canon_foldl _ _ fun s q => ?_).ge
    split <;> simp

theorem keeps_execClaimReply (m : Nat) (s : State) : Keeps s (execClaimReply m s) := by
  unfold execClaimReply
  split
  · next found => split <;> simp [State.canon_of_answerMsg found]
  · simp

theorem keeps_execTaskidReply (m : Nat) (s : State) : Keeps s (execTaskidReply m s) := by
  unfold execTaskidReply
  split
  · next found => simp [State.canon_of_answerMsg found]
  · simp

theorem keeps_execRegistrationAtRouter (m : Nat) (s : State) : Keeps s (execRegistrationAtRouter m s) := by
  unfold execRegistrationAtRouter; dsimp only; (repeat' split) <;> simp

theorem keeps_execPruneAtRouter (m : Nat) (s : State) : Keeps s (execPruneAtRouter m s) := by
  unfold execPruneAtRouter; dsimp only; (repeat' split) <;> simp

theorem keeps_execPublishFlitAtRouter (m : Nat) (s : State) : Keeps s (execPublishFlitAtRouter m s) := by
  unfold execPublishFlitAtRouter
  split
  · next src r cls x b sm _ =>
    split
    · simp
    · extract_lets net dropped u hit ports carried elem q go copied
      have carriedCanon : carried.canon = s.canon := by simp [carried, dropped]
      have queued : ((q.map (·.2)).getD carried).canon = s.canon := by
        by_cases both : x.both = true
        · cases found : carried.elementAt r u elem with
          | none => simp [q, both, found, carriedCanon]
          | some r => simpa [q, both, found, carriedCanon] using State.canon_of_elementAt found
        · simp [q, both, carriedCanon]
      have copies : copied.canon = s.canon := by
        refine (State.canon_foldl _ _ fun s k => ?_).trans queued
        split <;> simp
      split <;> simp [copies]
  · simp

theorem keeps_execRegistrationAtHome (m : Nat) (s : State) : Keeps s (execRegistrationAtHome m s) := by
  unfold execRegistrationAtHome; (repeat' split) <;> simp

theorem keeps_execPruneAtHome (m : Nat) (s : State) : Keeps s (execPruneAtHome m s) := by
  unfold execPruneAtHome; (repeat' split) <;> simp

theorem keeps_execDirectoryIngressRetry (t i : Nat) (s : State) : Keeps s (execDirectoryIngressRetry t i s) := by
  unfold execDirectoryIngressRetry
  refine keeps_onTile ?_
  split
  · exact le_rfl
  · split
    · next msg _ _ op x _ =>
      cases taken : (s.modN t fun n => { n with ingress := n.ingress.eraseIdx i }).takeIngress t op x with
      | none => exact le_rfl
      | some u => simp [State.canon_of_takeIngress taken]
    · exact le_rfl

theorem keeps_execPublishAtHome (m : Nat) (s : State) : Keeps s (execPublishAtHome m s) := by
  unfold execPublishAtHome
  dsimp only
  split
  · split
    · simp
    · split
      · simp
      · split
        · simp
        · split
          · split <;> simp
          · split
            · next taken => simp [State.canon_of_takePub taken]
            · split <;> simp
  · simp

theorem keeps_execClaimAtHome (m : Nat) (s : State) : Keeps s (execClaimAtHome m s) := by
  unfold execClaimAtHome; (repeat' split) <;> simp

theorem keeps_execRetainAtHome (m : Nat) (s : State) : Keeps s (execRetainAtHome m s) := by
  unfold execRetainAtHome; (repeat' split) <;> simp

theorem keeps_execRetentionExpiry (t : Nat) (name : TileName) (ver : BitVec 16) (s : State) : Keeps s (execRetentionExpiry t name ver s) := by
  unfold execRetentionExpiry; refine keeps_onTile ?_; (repeat' split) <;> simp

theorem keeps_execCollAtHome (m : Nat) (s : State) : Keeps s (execCollAtHome m s) := by
  unfold execCollAtHome
  split
  · simp
  · split
    · simp
    · split
      · next taken => simp [State.canon_of_takeColl taken]
      · simp

theorem keeps_execPartialAtHome (m : Nat) (s : State) : Keeps s (execPartialAtHome m s) := by
  unfold execPartialAtHome; dsimp only; (repeat' split) <;> simp

theorem keeps_execPartialRetry (t i : Nat) (s : State) : Keeps s (execPartialRetry t i s) := by
  unfold execPartialRetry; refine keeps_onTile ?_; dsimp only; (repeat' split) <;> simp

theorem keeps_execPartialUnregisteredDrop (t i : Nat) (s : State) : Keeps s (execPartialUnregisteredDrop t i s) := by
  unfold execPartialUnregisteredDrop; refine keeps_onTile ?_; (repeat' split) <;> simp

theorem keeps_execRegistrationReply (m : Nat) (s : State) : Keeps s (execRegistrationReply m s) := by
  unfold execRegistrationReply
  split
  · split <;> simp
  · split
    · simp
    · next found => simp [State.canon_of_answerMsg found]

theorem keeps_execFetchAtRim (m : Nat) (s : State) : Keeps s (execFetchAtRim m s) := by
  unfold execFetchAtRim
  split
  · split
    · simp
    · dsimp only
      split
      · simp
      · rw [keeps_next, State.canon_foldl]
        · simp
        · intro s k
          split <;> simp
  · simp

theorem keeps_execFetchPublish (agent i : Nat) (s : State) : Keeps s (execFetchPublish agent i s) := by
  unfold execFetchPublish; dsimp only; (repeat' split) <;> simp

theorem keeps_execStreamElementAtRouter (m : Nat) (s : State) : Keeps s (execStreamElementAtRouter m s) := by
  unfold execStreamElementAtRouter
  split
  · split
    · simp
    · split
      · simp
      · next found => simp [State.canon_of_elementAt found]
  · simp

theorem keeps_execCreditReturn (m : Nat) (s : State) : Keeps s (execCreditReturn m s) := by
  unfold execCreditReturn; dsimp only; (repeat' split) <;> simp

theorem keeps_execBranchstallExpiry (t i : Nat) (s : State) : Keeps s (execBranchstallExpiry t i s) := by
  unfold execBranchstallExpiry; refine keeps_onTile ?_; (repeat' split) <;> simp

theorem keeps_execDetachNotice (m : Nat) (s : State) : Keeps s (execDetachNotice m s) := by
  unfold execDetachNotice; (repeat' split) <;> simp

theorem keeps_execUnicastRerequest (m : Nat) (s : State) : Keeps s (execUnicastRerequest m s) := by
  unfold execUnicastRerequest; (repeat' split) <;> simp

theorem keeps_execCircAtRouter (m : Nat) (s : State) : Keeps s (execCircAtRouter m s) := by
  unfold execCircAtRouter
  split
  · split
    · simp
    · dsimp only
      split
      · simp
      · rw [keeps_next, State.canon_spread, State.canon_modN]
        · simp
        · refine NDom.fshared_foldl _ _ fun n k => ?_
          split
          · split <;> rfl
          · rfl
  · simp

theorem keeps_execCircrelAtRouter (m : Nat) (s : State) : Keeps s (execCircrelAtRouter m s) := by
  unfold execCircrelAtRouter; (repeat' split) <;> simp

theorem keeps_execCircIdleExpiry (t i : Nat) (s : State) : Keeps s (execCircIdleExpiry t i s) := by
  unfold execCircIdleExpiry; refine keeps_onTile ?_; (repeat' split) <;> simp

theorem keeps_execRequestAtHome (m : Nat) (s : State) : Keeps s (execRequestAtHome m s) := by
  unfold execRequestAtHome; (repeat' split) <;> simp

theorem keeps_execProbeAckAtHome (m : Nat) (s : State) : Keeps s (execProbeAckAtHome m s) := by
  unfold execProbeAckAtHome
  split
  · split
    · simp
    · dsimp only
      split
      · simp
      · refine keeps_next.2 ?_
        refine State.le_retryHome _ _ (State.le_lineOn _ _ _ _ ?_)
        simp only [State.canon_modN, NDom.fshared_modLine]
        split <;> simp
  · simp

theorem keeps_execWritebackAtHome (m : Nat) (s : State) : Keeps s (execWritebackAtHome m s) := by
  unfold execWritebackAtHome; dsimp only; (repeat' split) <;> simp

theorem keeps_execAtomicAtHome (m : Nat) (s : State) : Keeps s (execAtomicAtHome m s) := by
  unfold execAtomicAtHome; (repeat' split) <;> simp

theorem keeps_execFillReply (m : Nat) (s : State) : Keeps s (execFillReply m s) := by
  unfold execFillReply; (repeat' split) <;> simp

theorem keeps_execRxGrant (m : Nat) (s : State) : Keeps s (execRxGrant m s) := by
  unfold execRxGrant
  split
  · split
    · simp
    · dsimp only
      split
      · simp
      · split
        · simp
        · split
          · next room => simp [State.canon_of_stashRoom room]
          · simp
  · simp

theorem keeps_execProbeDown (m : Nat) (s : State) : Keeps s (execProbeDown m s) := by
  simp [execProbeDown]

theorem keeps_execProbeInv (m : Nat) (s : State) : Keeps s (execProbeInv m s) := by
  simp [execProbeInv]

theorem keeps_execPageWalk (t i : Nat) (stall : BitVec 32) (s : State) : Keeps s (execPageWalk t i stall s) := by
  unfold execPageWalk
  refine keeps_onWalker ?_
  split
  · exact le_rfl
  · extract_lets host sleeps
    split
    · exact State.le_settleWalk _ _ _ _ _ le_rfl
    · exact le_rfl

theorem keeps_execHbmSectorReply (m : Nat) (st : SectorStatus) (s : State) : Keeps s (execHbmSectorReply m st s) := by
  unfold execHbmSectorReply; dsimp only; (repeat' split) <;> simp

theorem keeps_execPageMigration (src dst : Nat) (s : State) : Keeps s (execPageMigration src dst s) := by
  unfold execPageMigration
  dsimp only
  split
  · simp
  · split
    · simp
    · simp only [keeps_next, State.canon_modRim]
      exact State.le_hbm le_rfl fun ok => Memory.wf_writeBytes _ _ _ ok

theorem keeps_execMigrationForward (agent i : Nat) (s : State) : Keeps s (execMigrationForward agent i s) := by
  unfold execMigrationForward; (repeat' split) <;> simp

theorem keeps_execBarcAtBarrier (m : Nat) (s : State) : Keeps s (execBarcAtBarrier m s) := by
  unfold execBarcAtBarrier; (repeat' split) <;> simp

theorem keeps_execBaraAtBarrier (m : Nat) (s : State) : Keeps s (execBaraAtBarrier m s) := by
  unfold execBaraAtBarrier; (repeat' split) <;> simp

theorem keeps_execBarwAtBarrier (m : Nat) (s : State) : Keeps s (execBarwAtBarrier m s) := by
  unfold execBarwAtBarrier; dsimp only; (repeat' split) <;> simp

theorem keeps_execSigaddAtHome (m : Nat) (s : State) : Keeps s (execSigaddAtHome m s) := by
  unfold execSigaddAtHome; (repeat' split) <;> simp

theorem keeps_execSigwaitAtHome (m : Nat) (s : State) : Keeps s (execSigwaitAtHome m s) := by
  unfold execSigwaitAtHome; (repeat' split) <;> simp

theorem keeps_execPersistEpochStart (t : Nat) (s : State) : Keeps s (execPersistEpochStart t s) := by
  unfold execPersistEpochStart
  refine keeps_onTile ?_
  dsimp only
  split
  · exact le_rfl
  · split
    · simp
    · simp only [State.canon_modC]
      refine (State.canon_flushParked s t).ge.trans (State.canon_le_modSlate fun ok => ?_)
      simp only [Tile.memOk, Slate.memOk, Bool.and_eq_true] at ok ⊢
      obtain ⟨⟨scratch, fshared⟩, ⟨⟨⟨snap, snapN⟩, -⟩, lost⟩, images⟩ := ok
      refine ⟨⟨⟨⟨snap, snapN⟩, ?_⟩, lost⟩, images⟩
      simp only [Option.all_some, Bool.and_eq_true, CDom.scratch_shadowed]
      exact ⟨scratch, fshared⟩

theorem keeps_execDRecordWritten (t : Nat) (s : State) : Keeps s (execDRecordWritten t s) := by
  unfold execDRecordWritten
  refine keeps_onTile ?_
  split
  · exact le_rfl
  · next e target =>
    simp only [State.canon_retrySends, State.canon_releaseHeld]
    refine State.le_foldl _ _ ?_ fun s f => State.le_parkFrame _ _ _ le_rfl
    simp only [State.canon_modN, State.canon_life]
    refine State.canon_le_modSlate fun ok => Slate.memOk_newD ?_ target
    simp only [Tile.memOk, Bool.and_eq_true] at ok
    exact ok.2

theorem keeps_execCDomainPowerLoss (t : Nat) (torn : Option Nat) (s : State) : Keeps s (execCDomainPowerLoss t torn s) := by
  simp [execCDomainPowerLoss]

theorem keeps_execCDomainRevival (t : Nat) (s : State) : Keeps s (execCDomainRevival t s) := by
  unfold execCDomainRevival; refine keeps_onTile ?_; (repeat' split) <;> simp

theorem keeps_execReplayStallTimeout (t f : Nat) (s : State) : Keeps s (execReplayStallTimeout t f s) := by
  unfold execReplayStallTimeout; refine keeps_onTile ?_; dsimp only; (repeat' split) <;> simp

theorem keeps_execFieldPowerLoss (field : Nat) (s : State) : Keeps s (execFieldPowerLoss field s) := by
  unfold execFieldPowerLoss
  refine keeps_onField ?_
  split
  · exact State.le_loseField _ _ le_rfl
  · exact le_rfl

theorem keeps_execFieldRevivalResend (t field : Nat) (s : State) : Keeps s (execFieldRevivalResend t field s) := by
  unfold execFieldRevivalResend; (repeat' split) <;> simp

theorem keeps_execPreemptMarkerEffect (t f : Nat) (s : State) : Keeps s (execPreemptMarkerEffect t f s) := by
  simp [execPreemptMarkerEffect]

theorem keeps_execParkIssueCutoff (t f : Nat) (s : State) : Keeps s (execParkIssueCutoff t f s) := by
  unfold execParkIssueCutoff; refine keeps_onTile ?_; dsimp only; (repeat' split) <;> simp

theorem keeps_execFrameRestore (t i : Nat) (s : State) : Keeps s (execFrameRestore t i s) := by
  unfold execFrameRestore
  refine keeps_onTile ?_
  split
  · exact le_rfl
  · split
    · exact le_rfl
    · split
      · exact State.le_seatImage _ _ _ _ le_rfl
      · refine (State.canon_modImages fun y => ?_).ge
        split <;> rfl

theorem keeps_execFrameWatchdogExpiry (t f : Nat) (s : State) : Keeps s (execFrameWatchdogExpiry t f s) := by
  unfold execFrameWatchdogExpiry; refine keeps_onTile ?_; dsimp only; (repeat' split) <;> simp

theorem keeps_execTileWatchdogExpiry (t : Nat) (s : State) : Keeps s (execTileWatchdogExpiry t s) := by
  unfold execTileWatchdogExpiry; refine keeps_onTile ?_; (repeat' split) <;> simp

theorem keeps_execThermalLevelRise (field : Nat) (temp : BitVec 16) (s : State) : Keeps s (execThermalLevelRise field temp s) := by
  simp [execThermalLevelRise]

theorem keeps_execCriticalRailRemoval (field : Nat) (s : State) : Keeps s (execCriticalRailRemoval field s) := by
  unfold execCriticalRailRemoval; refine keeps_onField ?_; dsimp only; (repeat' split) <;> simp

theorem keeps_execThermalLevelFall (field : Nat) (temp : BitVec 16) (s : State) : Keeps s (execThermalLevelFall field temp s) := by
  simp [execThermalLevelFall]

theorem keeps_execSpineSwitch (t : Nat) (s : State) : Keeps s (execSpineSwitch t s) := by
  simp [execSpineSwitch]

theorem keeps_execModuleStart (inp : BootInputs) (s : State) : Keeps s (execModuleStart inp s) := by
  simp [execModuleStart]

theorem keeps_execSvnminUpdate (record : List (BitVec 8)) (s : State) : Keeps s (execSvnminUpdate record s) := by
  simp [execSvnminUpdate]

theorem keeps_execSecurityAlarm (source : BitVec 3) (random : List (BitVec 8)) (s : State) : Keeps s (execSecurityAlarm source random s) := by
  unfold execSecurityAlarm; (repeat' split) <;> simp

theorem keeps_execSpdmGetVersion (req : List (BitVec 8)) (s : State) : Keeps s (execSpdmGetVersion req s) := by
  simp [execSpdmGetVersion]

theorem keeps_execSpdmGetCapabilities (req : List (BitVec 8)) (s : State) : Keeps s (execSpdmGetCapabilities req s) := by
  simp [execSpdmGetCapabilities]

theorem keeps_execSpdmNegotiateAlgorithms (req : List (BitVec 8)) (s : State) : Keeps s (execSpdmNegotiateAlgorithms req s) := by
  simp [execSpdmNegotiateAlgorithms]

theorem keeps_execSpdmGetDigests (req : List (BitVec 8)) (s : State) : Keeps s (execSpdmGetDigests req s) := by
  simp [execSpdmGetDigests]

theorem keeps_execSpdmGetCertificate (req : List (BitVec 8)) (s : State) : Keeps s (execSpdmGetCertificate req s) := by
  simp [execSpdmGetCertificate]

theorem keeps_execSpdmChallenge (req : List (BitVec 8)) (s : State) : Keeps s (execSpdmChallenge req s) := by
  unfold execSpdmChallenge
  refine keeps_spdm ?_
  split
  · simp
  · split <;> simp

theorem keeps_execSpdmGetMeasurements (req : List (BitVec 8)) (index : BitVec 8) (signed : Bool) (s : State) :
    Keeps s (execSpdmGetMeasurements req index signed s) := by
  unfold execSpdmGetMeasurements; (repeat' split) <;> simp

theorem keeps_execBar4Read (p : Nat) (off : BitVec 64) (len : Nat) (s : State) : Keeps s (execBar4Read p off len s) := by
  simp [execBar4Read]

theorem keeps_execBar4Write (p : Nat) (off : BitVec 64) (bytes : List (BitVec 8)) (s : State) : Keeps s (execBar4Write p off bytes s) := by
  simp [execBar4Write]

theorem keeps_execPublishHeaderPayload (p : Nat) (slot : BitVec 4) (w0 w1 w2 w3 : BitVec 64) (s : State) :
    Keeps s (execPublishHeaderPayload p slot w0 w1 w2 w3 s) := by
  simp [execPublishHeaderPayload]

theorem keeps_execPublishHeaderGlobal (p : Nat) (slot : BitVec 4) (w0 w1 w2 w3 : BitVec 64) (s : State) :
    Keeps s (execPublishHeaderGlobal p slot w0 w1 w2 w3 s) := by
  simp [execPublishHeaderGlobal]

theorem keeps_execHxresMapped (p : Nat) (stall : BitVec 32) (s : State) : Keeps s (execHxresMapped p stall s) := by
  unfold execHxresMapped
  split
  · simp
  · split
    · simp
    · split
      · simp
      · split
        · simp
        · split
          · simp
          · refine keeps_next.2 (State.le_liftStall _ _ _ _ ?_)
            refine State.le_foldl _ _ (by simp) fun s y => ?_
            dsimp only
            split <;> simp

theorem keeps_execHxresDeclined (p : Nat) (stall : BitVec 32) (s : State) : Keeps s (execHxresDeclined p stall s) := by
  unfold execHxresDeclined
  split
  · simp
  · split
    · simp
    · split
      · simp
      · dsimp only
        refine keeps_next.2 (State.le_liftStall _ _ _ _ ?_)
        rw [State.canon_foldl _ _ fun s r => State.canon_failReq s _ r _]
        refine State.le_foldl _ _ ?_ fun s y => State.le_refuse _ _ _ _ le_rfl
        split <;> simp

theorem keeps_execHptedataWrite (p : Nat) (data : BitVec 64) (s : State) : Keeps s (execHptedataWrite p data s) := by
  unfold execHptedataWrite
  refine keeps_onVf ?_
  dsimp only
  split
  · exact le_rfl
  · split
    · exact State.le_hbm le_rfl fun ok => Memory.wf_writeBytes _ _ _ ok
    · simp

theorem keeps_execHtlbinvAsid (p : Nat) (s : State) : Keeps s (execHtlbinvAsid p s) := by
  simp [execHtlbinvAsid]

theorem keeps_execHtlbinvPage (p : Nat) (va : BitVec 64) (s : State) : Keeps s (execHtlbinvPage p va s) := by
  simp [execHtlbinvPage]

theorem keeps_execHsubArm (p entry : Nat) (w2 : BitVec 64) (s : State) : Keeps s (execHsubArm p entry w2 s) := by
  simp [execHsubArm]

theorem keeps_execHsubWithdraw (p : Nat) (entry : SubWrite) (s : State) : Keeps s (execHsubWithdraw p entry s) := by
  simp [execHsubWithdraw]

theorem keeps_execHsubciWrite (p entry : Nat) (ci : BitVec 32) (s : State) : Keeps s (execHsubciWrite p entry ci s) := by
  simp [execHsubciWrite]

theorem keeps_execHostDelivery (p i : Nat) (s : State) : Keeps s (execHostDelivery p i s) := by
  unfold execHostDelivery; refine keeps_onField ?_; dsimp only; (repeat' split) <;> simp

theorem keeps_execHpctlCreate (p : Nat) (s : State) : Keeps s (execHpctlCreate p s) := by
  simp [execHpctlCreate]

theorem keeps_execHpctlDestroy (p : Nat) (s : State) : Keeps s (execHpctlDestroy p s) := by
  simp [execHpctlDestroy]

theorem keeps_execHdstepArm (p : Nat) (w : BitVec 64) (s : State) : Keeps s (execHdstepArm p w s) := by
  simp [execHdstepArm]

theorem keeps_execHdstepDisarm (p : Nat) (s : State) : Keeps s (execHdstepDisarm p s) := by
  simp [execHdstepDisarm]

theorem keeps_execHjclr (entry : BitVec 16) (s : State) : Keeps s (execHjclr entry s) := by
  simp [execHjclr]

theorem keeps_execRegisterWrite (fn : HostFn) (off size : Nat) (data : BitVec 64) (s : State) : Keeps s (execRegisterWrite fn off size data s) := by
  unfold execRegisterWrite; (repeat' split) <;> simp

theorem keeps_execFunctionLevelReset (p : Nat) (s : State) : Keeps s (execFunctionLevelReset p s) := by
  unfold execFunctionLevelReset; (repeat' split) <;> simp

theorem keeps_execLoaderLaunch (p : Nat) (ids : List (BitVec 32)) (s : State) : Keeps s (execLoaderLaunch p ids s) := by
  simp [execLoaderLaunch]

theorem keeps_execSpanFrameReceive (link : Nat) (header : BitVec 96) (crcOk : Bool) (flit : Option SpanFlit) (s : State) :
    Keeps s (execSpanFrameReceive link header crcOk flit s) := by
  unfold execSpanFrameReceive; refine keeps_onLink ?_; dsimp only; (repeat' split) <;> simp

theorem keeps_execSpanReplay (link : Nat) (s : State) : Keeps s (execSpanReplay link s) := by
  simp [execSpanReplay]

theorem keeps_execSpanLinkDown (link : Nat) (s : State) : Keeps s (execSpanLinkDown link s) := by
  simp [execSpanLinkDown]

theorem keeps_execSpanPublishDrop (link i : Nat) (s : State) : Keeps s (execSpanPublishDrop link i s) := by
  unfold execSpanPublishDrop; refine keeps_onLink ?_; dsimp only; (repeat' split) <;> simp

theorem keeps_execTokenSampleEject (t i : Nat) (s : State) : Keeps s (execTokenSampleEject t i s) := by
  unfold execTokenSampleEject; refine keeps_onTile ?_; dsimp only; (repeat' split) <;> simp

theorem keeps_execCounterSnapshot (p : Nat) (s : State) : Keeps s (execCounterSnapshot p s) := by
  simp [execCounterSnapshot]

theorem keeps_execLifeStorePersist (field : Nat) (s : State) : Keeps s (execLifeStorePersist field s) := by
  simp [execLifeStorePersist]

theorem keeps_execLifeSample (field : Nat) (temp : BitVec 16) (microvolt : Nat) (s : State) : Keeps s (execLifeSample field temp microvolt s) := by
  unfold execLifeSample; refine keeps_onField ?_; dsimp only; (repeat' split) <;> simp

theorem keeps_execFieldPowerReturn (field : Nat) (s : State) : Keeps s (execFieldPowerReturn field s) := by
  unfold execFieldPowerReturn
  refine keeps_onField ?_
  generalize fieldTiles field = tiles
  split
  · exact le_rfl
  · simp only [State.canon_resend]
    refine State.le_foldl _ _ (State.le_foldl _ _ (by simp) fun s t => ?_) fun s t => State.le_linesOn _ _ le_rfl
    split
    · exact le_rfl
    · exact State.le_revive _ _ le_rfl

theorem keeps_execSpanLinkUp (link : Nat) (s : State) : Keeps s (execSpanLinkUp link s) := by
  simp [execSpanLinkUp]

theorem keeps_execHbmAccessAtRim (m : Nat) (crcOk : Bool) (s : State) : Keeps s (execHbmAccessAtRim m crcOk s) := by
  unfold execHbmAccessAtRim; dsimp only; (repeat' split) <;> simp

theorem keeps_execStackSelfRefresh (agent : StackReading) (s : State) : Keeps s (execStackSelfRefresh agent s) := by
  unfold execStackSelfRefresh; (repeat' split) <;> simp

theorem keeps_execSupervisorOperationComplete (t i : Nat) (s : State) : Keeps s (execSupervisorOperationComplete t i s) := by
  unfold execSupervisorOperationComplete; refine keeps_onTile ?_; dsimp only; (repeat' split) <;> simp

theorem keeps_execNameOperationAcknowledgement (m : Nat) (s : State) : Keeps s (execNameOperationAcknowledgement m s) := by
  unfold execNameOperationAcknowledgement
  split
  · split <;> simp
  · split
    · next found => simp [State.canon_of_answerMsg found]
    · simp

theorem keeps_execClaimReleaseAtHome (m : Nat) (s : State) : Keeps s (execClaimReleaseAtHome m s) := by
  unfold execClaimReleaseAtHome; (repeat' split) <;> simp

theorem keeps_execNameEntryRelease (t : Nat) (name : TileName) (s : State) : Keeps s (execNameEntryRelease t name s) := by
  unfold execNameEntryRelease; refine keeps_onTile ?_; (repeat' split) <;> simp

end Sys2Proof.Machine

end

/-! PROOFS. A slot operation answers a next state that has the memories and registers it found. -/

section

namespace Sys2Proof.Machine

/-! ### Slot operations write no memory and no register -/

/-- The state u has the memories and registers of s, and the slates' memories are as canonical as those of s. -/
def State.Quiet (s u : State) : Prop := s.SameStore u ∧ u.canon = s.canon

theorem State.Quiet.trans {s u v : State} (h : s.Quiet u) (k : u.Quiet v) : s.Quiet v := ⟨h.1.trans k.1, k.2.trans h.2⟩

@[simp] theorem State.Quiet.refl {s : State} : s.Quiet s := ⟨.refl s, rfl⟩

/-- The outcome is a next state with the memories and registers of s. -/
def Quiet (s : State) (o : Host.Outcome State Fault Refusal) : Prop := ∃ u, o = .next u ∧ s.Quiet u

@[simp] theorem quiet_next {s u : State} : Quiet s (.next u) ↔ s.Quiet u :=
  ⟨fun ⟨_, e, h⟩ => by cases e; exact h, fun h => ⟨u, rfl, h⟩⟩

section
variable {s u : State}

@[simp] theorem State.Quiet.orderWait (h : s.Quiet u) (w : Wait) (done : Option Target) (line : Option (Option W64 × Bool)) :
    s.Quiet (u.orderWait w done line) := by
  refine h.trans ⟨?_, u.canon_orderWait ..⟩
  unfold State.orderWait
  split
  · exact u.sameStore_fault _
  · exact u.sameStore_iss _

@[simp] theorem State.Quiet.horizon (h : s.Quiet u) (t : Nat) (p : W64) : s.Quiet (u.modC t fun c => { c with horizon := p }) :=
  h.trans ⟨u.sameStore_modC t _ rfl rfl fun _ => rfl, State.canon_modC rfl⟩


@[simp] theorem State.Quiet.fault (h : s.Quiet u) (i : FaultInfo) : s.Quiet (u.fault i) := h.trans ⟨u.sameStore_fault i, u.canon_fault i⟩
@[simp] theorem State.Quiet.modIss (h : s.Quiet u) (f : Issue → Issue) : s.Quiet (u.modIss f) := h.trans ⟨u.sameStore_modIss _, u.canon_modIss f⟩
@[simp] theorem State.Quiet.addEff (h : s.Quiet u) (e : Eff) : s.Quiet (u.addEff e) := h.trans ⟨u.sameStore_addEff e, u.canon_addEff e⟩
@[simp] theorem State.Quiet.addWait (h : s.Quiet u) (w : Wait) (dst done : Dest) (acq : Bool) (line : Option (Option W64 × Bool)) :
    s.Quiet (u.addWait w dst done acq line) := h.trans ⟨u.sameStore_iss _, u.canon_addWait w dst done acq line⟩
@[simp] theorem State.Quiet.raiseFlags (h : s.Quiet u) (f : FpFlags) :
    s.Quiet (u.raiseFlags f) := h.trans ⟨u.sameStore_raiseFlags f, u.canon_raiseFlags f⟩
@[simp] theorem State.Quiet.deliver (h : s.Quiet u) (d : Dst) (v : Val) :
    s.Quiet (u.deliver d v) := h.trans ⟨u.sameStore_deliver d v, u.canon_deliver d v⟩
@[simp] theorem State.Quiet.deliverY (h : s.Quiet u) (d : YDst) (v : Val) :
    s.Quiet (u.deliverY d v) := h.trans ⟨u.sameStore_deliverY d v, u.canon_deliverY d v⟩
@[simp] theorem State.Quiet.twoTargets (h : s.Quiet u) (d : Dst) (v0 v1 : Val) :
    s.Quiet (u.twoTargets d v0 v1) := h.trans ⟨u.sameStore_twoTargets d v0 v1, u.canon_twoTargets d v0 v1⟩
@[simp] theorem State.Quiet.vecResult (h : s.Quiet u) (d : Dst) (l : List (W32 × FpFlags)) :
    s.Quiet (u.vecResult d l) := h.trans ⟨u.sameStore_vecResult d l, u.canon_vecResult d l⟩
@[simp] theorem State.Quiet.vop (h : s.Quiet u) (t : Ty) (d : Dst) (f : Nat → Nat → Nat → Nat × FpFlags) (a b c : Src) :
    s.Quiet (u.vop t d f a b c) := h.trans ⟨u.sameStore_vop t d f a b c, u.canon_vop t d f a b c⟩
@[simp] theorem State.Quiet.cp (h : s.Quiet u) (e : Eff) (done : Option Target) :
    s.Quiet (u.cp e done) := h.trans ⟨u.sameStore_cp e done, u.canon_cp e done⟩
@[simp] theorem State.Quiet.cpName (h : s.Quiet u) (op : EffOp) (a b e : W64) (mask : BitVec 4) (bad : Option FaultInfo) (done : Option Target) :
    s.Quiet (u.cpName op a b e mask bad done) := h.trans ⟨u.sameStore_cpName op a b e mask bad done, u.canon_cpName op a b e mask bad done⟩
@[simp] theorem State.Quiet.lateValue (h : s.Quiet u) (y : YDst) (e : Eff) :
    s.Quiet (u.lateValue y e) := h.trans ⟨u.sameStore_lateValue y e, u.canon_lateValue y e⟩
@[simp] theorem State.Quiet.reading (h : s.Quiet u) (field : Nat) (v : W64) :
    s.Quiet (u.reading field v).2 := h.trans ⟨u.sameStore_reading field v, u.canon_reading field v⟩
@[simp] theorem State.Quiet.doLoad (h : s.Quiet u) (ps : List W64) (wb : Nat) (vec : Option W32) (acq : Bool) (v : VDst) (done : Option Target) :
    s.Quiet (u.doLoad ps wb vec acq v done) := h.trans ⟨u.sameStore_doLoad ps wb vec acq v done, u.canon_doLoad ps wb vec acq v done⟩
@[simp] theorem State.Quiet.buffer (h : s.Quiet u) (ps : List W64) (data : List W64) (wb : Nat) (sc : BitVec 2) (rel : Bool) (done : Option Target) :
    s.Quiet (u.buffer ps data wb sc rel done) := h.trans ⟨u.sameStore_buffer ps data wb sc rel done, u.canon_buffer ps data wb sc rel done⟩
@[simp] theorem State.Quiet.atomic (h : s.Quiet u) (op : Nat) (sc w : BitVec 2) (a b e : Src) (flag : Bool) (v : VDst) (done : Option Target) :
    s.Quiet (u.atomic op sc w a b e flag v done) := h.trans ⟨u.sameStore_atomic op sc w a b e flag v done, u.canon_atomic op sc w a b e flag v done⟩

@[simp] theorem State.Quiet.missed (h : s.Quiet u) (t : Nat) : s.Quiet (u.missed t) :=
  h.trans ⟨⟨rfl, rfl, fun _ => ⟨rfl, rfl, rfl, rfl, fun _ => rfl⟩⟩, u.canon_missed t⟩

@[simp] theorem State.Quiet.intOp (h : s.Quiet u) (t : Ty) (d : Dst) (f : Int → Int → Int) (a b : Src) : s.Quiet (u.intOp t d f a b) := by
  simp [State.intOp, h]

@[simp] theorem State.Quiet.bitOp (h : s.Quiet u) (t : Ty) (d : Dst) (f : W64 → W64 → W64) (a b : Src) : s.Quiet (u.bitOp t d f a b) := by
  simp [State.bitOp, h]

@[simp] theorem State.Quiet.countOp (h : s.Quiet u) (t : Ty) (d : Dst) (f : Nat → Nat → Nat) (a : Src) : s.Quiet (u.countOp t d f a) := by
  simp [State.countOp, h]

@[simp] theorem State.Quiet.cmpOp (h : s.Quiet u) (t : Ty) (d : Dst) (f : Int → Int → Bool) (a b : Src) : s.Quiet (u.cmpOp t d f a b) := by
  simp [State.cmpOp, h]

@[simp] theorem State.Quiet.flOp (h : s.Quiet u) (d : Dst) (r : Nat × FpFlags) : s.Quiet (u.flOp d r) := by
  simp [State.flOp, h]

@[simp] theorem State.Quiet.makeWin (h : s.Quiet u) (k : BitVec 2) (a : Src) (d : Dst) : s.Quiet (u.makeWin k a d) := by
  unfold State.makeWin; (repeat' split) <;> simp [h]

@[simp] theorem State.Quiet.illBun (h : s.Quiet u) : s.Quiet (u.illBun ) := by
  simp [State.illBun, h]

@[simp] theorem State.Quiet.doSpawn (h : s.Quiet u) (offs : List Nat) (sp : Spawn) (d : Dst) (v0 v1 : Val) : s.Quiet (u.doSpawn offs sp d v0 v1) := by
  unfold State.doSpawn; (repeat' split) <;> simp [h]

@[simp] theorem State.Quiet.doLoop (h : s.Quiet u) (vec : Bool) (a b c : Src) (d : Dst) : s.Quiet (u.doLoop vec a b c d) := by
  simp [State.doLoop, h]

@[simp] theorem State.Quiet.setTerm (h : s.Quiet u) (t : Term) : s.Quiet (u.setTerm t) := by
  simp [State.setTerm, h]

@[simp] theorem State.Quiet.vmove (h : s.Quiet u) (d : Dst) (f : Nat → W32) : s.Quiet (u.vmove d f) := by
  simp [State.vmove, h]

@[simp] theorem State.Quiet.reduce (h : s.Quiet u) (t : Ty) (op : Nat) (a : Src) (d : Dst) : s.Quiet (u.reduce t op a d) := by
  simp [State.reduce, h]

@[simp] theorem State.Quiet.addJob (h : s.Quiet u) (n phys : Nat) (op : EffOp) (a b : W64) : s.Quiet (u.addJob n phys op a b) := by
  unfold State.addJob; (repeat' split) <;> simp [h]

@[simp] theorem State.Quiet.msrc (h : s.Quiet u) (op : EffOp) (n : Nat) (isA : Bool) (w0 w1 : W64) : s.Quiet (u.msrc op n isA w0 w1) := by
  unfold State.msrc; dsimp only; (repeat' split) <;> simp [h]

@[simp] theorem State.Quiet.plainJob (h : s.Quiet u) (n : Nat) (op : EffOp) (a : W64) (ok : Bool) : s.Quiet (u.plainJob n op a ok) := by
  unfold State.plainJob; (repeat' split) <;> simp [h]

@[simp] theorem State.Quiet.tileJob (h : s.Quiet u) (op : EffOp) (n : Nat) (accept : W64 → W64 → Bool) (w0 w1 : W64) :
    s.Quiet (u.tileJob op n accept w0 w1) := by
  unfold State.tileJob; dsimp only; (repeat' split) <;> simp [h]

@[simp] theorem State.Quiet.slotWait (h : s.Quiet u) (a : Src) (full : Bool) (d : Dst) : s.Quiet (u.slotWait a full d) := by
  unfold State.slotWait; (repeat' split) <;> simp [h]

@[simp] theorem State.Quiet.tset (h : s.Quiet u) (op : EffOp) (a : Src) (empty : Bool) (row : Option (List W32 × W64)) :
    s.Quiet (u.tset op a empty row) := by
  unfold State.tset; dsimp only; (repeat' split) <;> simp [h]

@[simp] theorem State.Quiet.checkedLoad (h : s.Quiet u) (ps : List W64) (wb : Nat) (vec : Option W32) (acq : Bool) (v : VDst) (done : Option Target) :
    s.Quiet (u.checkedLoad ps wb vec acq v done) := by
  unfold State.checkedLoad; (repeat' split) <;> simp [h]

@[simp] theorem State.Quiet.checkedStore (h : s.Quiet u) (ps : List W64) (data : List W64) (wb : Nat) (sc : BitVec 2) (rel : Bool) (done : Option Target) :
    s.Quiet (u.checkedStore ps data wb sc rel done) := by
  unfold State.checkedStore; (repeat' split) <;> simp [h]

@[simp] theorem State.Quiet.flushLine (h : s.Quiet u) (sc : BitVec 2) (inv : Bool) (a : Src) (done : Option Target) :
    s.Quiet (u.flushLine sc inv a done) := by
  unfold State.flushLine; dsimp only; (repeat' split) <;> simp [h]

@[simp] theorem State.Quiet.flushAll (h : s.Quiet u) (sc : BitVec 2) (inv : Bool) (done : Option Target) : s.Quiet (u.flushAll sc inv done) := by
  unfold State.flushAll; dsimp only; (repeat' split) <;> simp [h]

@[simp] theorem State.Quiet.subnOp (h : s.Quiet u) (again : Bool) (a b d : W64) (done : Option Target) : s.Quiet (u.subnOp again a b d done) := by
  simp [State.subnOp, h]

@[simp] theorem State.Quiet.spopOp (h : s.Quiet u) (keep : Bool) (a : Src) (v : VDst) (done : Option Target) : s.Quiet (u.spopOp keep a v done) := by
  unfold State.spopOp; (repeat' split) <;> simp [h]

@[simp] theorem State.Quiet.copyOp (h : s.Quiet u) (op : EffOp) (dst src : W64) (len : Nat) (e : Eff) (v : VDst) (done : Option Target) :
    s.Quiet (u.copyOp op dst src len e v done) := by
  unfold State.copyOp
  split
  · exact h.fault _
  · exact (((h.horizon _ _).modIss _).cp _ _)

@[simp] theorem State.Quiet.barcOp (h : s.Quiet u) (reset : Bool) (a b : Src) (x : BitVec 8) : s.Quiet (u.barcOp reset a b x) := by
  unfold State.barcOp; dsimp only; (repeat' split) <;> simp [h]

@[simp] theorem State.Quiet.pmodeOp (h : s.Quiet u) (durable : Bool) : s.Quiet (u.pmodeOp durable) := by
  unfold State.pmodeOp; (repeat' split) <;> simp [h]

@[simp] theorem State.Quiet.tretOp (h : s.Quiet u) (skip : Bool) : s.Quiet (u.tretOp skip) := by
  unfold State.tretOp; (repeat' split) <;> simp [h]

@[simp] theorem State.Quiet.tlbinvOp (h : s.Quiet u) (kind : BitVec 2) (a b : Src) (y : YDst) : s.Quiet (u.tlbinvOp kind a b y) := by
  unfold State.tlbinvOp; (repeat' split) <;> simp [h]

@[simp] theorem State.Quiet.watchOp (h : s.Quiet u) (kind : BitVec 2) (sig : Bool) (a b : Src) (x : BitVec 8) (y : YDst) :
    s.Quiet (u.watchOp kind sig a b x y) := by
  unfold State.watchOp; (repeat' split) <;> simp [h]

end

theorem quiet_execFcvt (t : Ty) (a b c : Src) (d : Dst) (s : State) : Quiet s (execFcvt t a b c d s) := by
  unfold execFcvt; dsimp only; (repeat' split) <;> simp

theorem quiet_execSpcvTooff (k : BitVec 2) (a : Src) (d : Dst) (s : State) : Quiet s (execSpcvTooff k a d s) := by
  unfold execSpcvTooff; dsimp only; (repeat' split) <;> simp

theorem quiet_execNameh (a b c : Src) (d : Dst) (s : State) : Quiet s (execNameh a b c d s) := by
  unfold execNameh; dsimp only; (repeat' split) <;> simp

theorem quiet_execNamel (a b c : Src) (d : Dst) (s : State) : Quiet s (execNamel a b c d s) := by
  unfold execNamel; dsimp only; (repeat' split) <;> simp

theorem quiet_execSteer (a b : Src) (d : Dst) (s : State) : Quiet s (execSteer a b d s) := by
  unfold execSteer; (repeat' split) <;> simp

theorem quiet_execWhileOp (a c : Src) (d : Dst) (s : State) : Quiet s (execWhileOp a c d s) := by
  simp [execWhileOp]

theorem quiet_execExitOp (a b : Src) (d : Dst) (s : State) : Quiet s (execExitOp a b d s) := by
  simp [execExitOp]

theorem quiet_execGoto (c : Src) (s : State) : Quiet s (execGoto c s) := by
  unfold execGoto; dsimp only; (repeat' split) <;> simp

theorem quiet_execCallb (a b c : Src) (d : Dst) (s : State) : Quiet s (execCallb a b c d s) := by
  simp [execCallb]

theorem quiet_execRetb (a b : Src) (d : Dst) (s : State) : Quiet s (execRetb a b d s) := by
  unfold execRetb; (repeat' split) <;> simp

theorem quiet_execGate (a b : Src) (d : Dst) (s : State) : Quiet s (execGate a b d s) := by
  unfold execGate; (repeat' split) <;> simp

theorem quiet_execTagq (k : BitVec 2) (a : Src) (d : Dst) (s : State) : Quiet s (execTagq k a d s) := by
  simp [execTagq]

theorem quiet_execFrameq (a : Src) (d : Dst) (s : State) : Quiet s (execFrameq a d s) := by
  unfold execFrameq; dsimp only; (repeat' split) <;> simp

theorem quiet_execQtime (a : Src) (d : Dst) (s : State) : Quiet s (execQtime a d s) := by
  simp [execQtime]

theorem quiet_execVcvt (t : Ty) (a b c : Src) (d : Dst) (s : State) : Quiet s (execVcvt t a b c d s) := by
  unfold execVcvt; dsimp only; (repeat' split) <;> simp

theorem quiet_execVrndi (t : Ty) (a b : Src) (d : Dst) (s : State) : Quiet s (execVrndi t a b d s) := by
  unfold execVrndi; dsimp only; (repeat' split) <;> simp

theorem quiet_execVcvti (t : Ty) (a b : Src) (d : Dst) (s : State) : Quiet s (execVcvti t a b d s) := by
  unfold execVcvti; (repeat' split) <;> simp

theorem quiet_execVpack (t : Ty) (a b c : Src) (d : Dst) (s : State) : Quiet s (execVpack t a b c d s) := by
  unfold execVpack; dsimp only; (repeat' split) <;> simp

theorem quiet_execVunpk (t : Ty) (a b : Src) (d : Dst) (s : State) : Quiet s (execVunpk t a b d s) := by
  simp [execVunpk]

theorem quiet_execVqnt (a b : Src) (d : Dst) (s : State) : Quiet s (execVqnt a b d s) := by
  unfold execVqnt; dsimp only; (repeat' split) <;> simp

theorem quiet_execVdqnt (a b c : Src) (d : Dst) (s : State) : Quiet s (execVdqnt a b c d s) := by
  unfold execVdqnt; dsimp only; (repeat' split) <;> simp

theorem quiet_execVscan (t : Ty) (a : Src) (d : Dst) (s : State) : Quiet s (execVscan t a d s) := by
  simp [execVscan]

theorem quiet_execVcmpr (a b : Src) (d : Dst) (s : State) : Quiet s (execVcmpr a b d s) := by
  simp [execVcmpr]

theorem quiet_execVrun (a b c : Src) (d : Dst) (s : State) : Quiet s (execVrun a b c d s) := by
  unfold execVrun; dsimp only; (repeat' split) <;> simp

theorem quiet_execMcfg (n : BitVec 3) (a : Src) (s : State) : Quiet s (execMcfg n a s) := by
  unfold execMcfg; dsimp only; (repeat' split) <;> simp

theorem quiet_execMarm (n : BitVec 3) (a : Src) (s : State) : Quiet s (execMarm n a s) := by
  simp [execMarm]

theorem quiet_execMdisarm (n : BitVec 3) (s : State) : Quiet s (execMdisarm n s) := by
  unfold execMdisarm; (repeat' split) <;> simp

theorem quiet_execMloadc (n : BitVec 3) (a b : Src) (s : State) : Quiet s (execMloadc n a b s) := by
  simp [execMloadc]

theorem quiet_execMscale (n : BitVec 3) (a : Src) (s : State) : Quiet s (execMscale n a s) := by
  simp [execMscale]

theorem quiet_execMsort (k : BitVec 2) (a b : Src) (d : Dst) (s : State) : Quiet s (execMsort k a b d s) := by
  unfold execMsort; dsimp only; (repeat' split) <;> simp

theorem quiet_execMstat (n : BitVec 3) (d : Dst) (s : State) : Quiet s (execMstat n d s) := by
  simp [execMstat]

theorem quiet_execTslotAlloc (a b : Src) (s : State) : Quiet s (execTslotAlloc a b s) := by
  unfold execTslotAlloc; dsimp only; (repeat' split) <;> simp

theorem quiet_execTslotFree (a : Src) (s : State) : Quiet s (execTslotFree a s) := by
  unfold execTslotFree; dsimp only; (repeat' split) <;> simp

theorem quiet_execTslotqNow (a : Src) (d : Dst) (s : State) : Quiet s (execTslotqNow a d s) := by
  unfold execTslotqNow; (repeat' split) <;> simp

theorem quiet_execLdx (w : BitVec 2) (a b _ord : Src) (v : VDst) (done : Option Target) (s : State) : Quiet s (execLdx w a b _ord v done s) := by
  unfold execLdx; (repeat' split) <;> simp

theorem quiet_execLdag (w : BitVec 2) (a b _ord : Src) (v : VDst) (done : Option Target) (s : State) : Quiet s (execLdag w a b _ord v done s) := by
  unfold execLdag; (repeat' split) <;> simp

theorem quiet_execLdq (w : BitVec 2) (a b _ord : Src) (v : VDst) (done : Option Target) (s : State) : Quiet s (execLdq w a b _ord v done s) := by
  unfold execLdq; dsimp only; (repeat' split) <;> simp

theorem quiet_execPref (rx : Bool) (a b _ord : Src) (s : State) : Quiet s (execPref rx a b _ord s) := by
  unfold execPref; dsimp only; (repeat' split) <;> simp

theorem quiet_execStashq (a _ord : Src) (v : VDst) (done : Option Target) (s : State) : Quiet s (execStashq a _ord v done s) := by
  unfold execStashq; (repeat' split) <;> simp

theorem quiet_execStx (sc w : BitVec 2) (a b e _ord : Src) (done : Option Target) (s : State) : Quiet s (execStx sc w a b e _ord done s) := by
  unfold execStx; (repeat' split) <;> simp

theorem quiet_execStag (sc w : BitVec 2) (a b e _ord : Src) (done : Option Target) (s : State) : Quiet s (execStag sc w a b e _ord done s) := by
  unfold execStag; (repeat' split) <;> simp

theorem quiet_execOrdjoin (_a _b _e _ord : Src) (done : Option Target) (s : State) : Quiet s (execOrdjoin _a _b _e _ord done s) := by
  unfold execOrdjoin; (repeat' split) <;> simp

theorem quiet_execPfence (sc : BitVec 2) (_ord : Src) (done : Option Target) (s : State) : Quiet s (execPfence sc _ord done s) := by
  unfold execPfence; (repeat' split) <;> simp

theorem quiet_execPubt (a b e _ord : Src) (done : Option Target) (s : State) : Quiet s (execPubt a b e _ord done s) := by
  simp [execPubt]

theorem quiet_execPubr (k : BitVec 2) (a b e _ord : Src) (done : Option Target) (s : State) : Quiet s (execPubr k a b e _ord done s) := by
  simp [execPubr]

theorem quiet_execUnsub (a _ord : Src) (done : Option Target) (s : State) : Quiet s (execUnsub a _ord done s) := by
  unfold execUnsub; (repeat' split) <;> simp

theorem quiet_execRetain (a b e _ord : Src) (done : Option Target) (s : State) : Quiet s (execRetain a b e _ord done s) := by
  simp [execRetain]

theorem quiet_execSopen (a b e _ord : Src) (done : Option Target) (s : State) : Quiet s (execSopen a b e _ord done s) := by
  simp [execSopen]

theorem quiet_execSclose (a _ord : Src) (done : Option Target) (s : State) : Quiet s (execSclose a _ord done s) := by
  unfold execSclose; (repeat' split) <;> simp

theorem quiet_execCirc (a b e _ord : Src) (done : Option Target) (s : State) : Quiet s (execCirc a b e _ord done s) := by
  simp [execCirc]

theorem quiet_execColl (k : BitVec 2) (a b e _ord : Src) (done : Option Target) (s : State) : Quiet s (execColl k a b e _ord done s) := by
  simp [execColl]

theorem quiet_execCopy (a b e _ord : Src) (v : VDst) (done : Option Target) (s : State) : Quiet s (execCopy a b e _ord v done s) := by
  unfold execCopy; dsimp only; (repeat' split) <;> simp

theorem quiet_execCopyx (n : BitVec 3) (a b e _ord : Src) (v : VDst) (done : Option Target) (s : State) :
    Quiet s (execCopyx n a b e _ord v done s) := by
  unfold execCopyx; dsimp only; (repeat' split) <;> simp

theorem quiet_execAgcfg (n : BitVec 3) (a _ord : Src) (done : Option Target) (s : State) : Quiet s (execAgcfg n a _ord done s) := by
  unfold execAgcfg; dsimp only; (repeat' split) <;> simp

theorem quiet_execWuntil (a ord : Src) (y : YDst) (s : State) : Quiet s (execWuntil a ord y s) := by
  unfold execWuntil
  dsimp only
  split
  · simp
  · split
    · split
      · exact quiet_next.2 (.fault (.missed .refl _) _)
      · simp
    · simp

theorem quiet_execBara (sc : BitVec 2) (a b _ord : Src) (x : BitVec 8) (s : State) : Quiet s (execBara sc a b _ord x s) := by
  unfold execBara; (repeat' split) <;> simp

theorem quiet_execBarw (a b _ord : Src) (x : BitVec 8) (y : YDst) (s : State) : Quiet s (execBarw a b _ord x y s) := by
  unfold execBarw; dsimp only; (repeat' split) <;> simp

theorem quiet_execSigadd (sc : BitVec 2) (a b _ord : Src) (s : State) : Quiet s (execSigadd sc a b _ord s) := by
  unfold execSigadd; (repeat' split) <;> simp

theorem quiet_execSigwait (a b _ord : Src) (y : YDst) (s : State) : Quiet s (execSigwait a b _ord y s) := by
  unfold execSigwait; dsimp only; (repeat' split) <;> simp

theorem quiet_execTspawn (a _ord : Src) (y : YDst) (s : State) : Quiet s (execTspawn a _ord y s) := by
  unfold execTspawn; dsimp only; (repeat' split) <;> simp

theorem quiet_execTrapVec (a _ord : Src) (s : State) : Quiet s (execTrapVec a _ord s) := by
  unfold execTrapVec; dsimp only; (repeat' split) <;> simp

theorem quiet_execFmtw (a _ord : Src) (x : BitVec 5) (s : State) : Quiet s (execFmtw a _ord x s) := by
  unfold execFmtw; dsimp only; (repeat' split) <;> simp

theorem quiet_execNsbind (a _ord : Src) (y : YDst) (s : State) : Quiet s (execNsbind a _ord y s) := by
  unfold execNsbind; dsimp only; (repeat' split) <;> simp

theorem quiet_execWatchFlip (sig : Bool) (a b _ord : Src) (x : BitVec 8) (y : YDst) (s : State) : Quiet s (execWatchFlip sig a b _ord x y s) := by
  unfold execWatchFlip; (repeat' split) <;> simp

/-- R30, R203, R312: a slot operation answers a next state, with the memories and registers as they were. -/
theorem exec_quiet {i : Instr} (s : State) (h : encode i ≠ none) : Quiet s (exec i s) := by
  cases i with
  | add | sub | mul | mulh | div | rem | min | max =>
    exact quiet_next.2 (.intOp .refl ..)
  | absOp | brev | bfx | bfi | sel | mov | fclass | adda | spq | merge | join | vextr =>
    exact quiet_next.2 (.deliver .refl ..)
  | andOp | orOp | xor | andn | shl | shr | sra | rol =>
    exact quiet_next.2 (.bitOp .refl ..)
  | clz | ctz | popc =>
    exact quiet_next.2 (.countOp .refl ..)
  | ceq | cne | clt | cle =>
    exact quiet_next.2 (.cmpOp .refl ..)
  | fadd | fsub | fmul | fma | fmin | fmax | fcmp =>
    exact quiet_next.2 (.flOp .refl ..)
  | spcvToptr | mkwin =>
    exact quiet_next.2 (.makeWin .refl ..)
  | loop | loopVec =>
    exact quiet_next.2 (.doLoop .refl ..)
  | sink =>
    exact quiet_next.2 (.setTerm .refl ..)
  | vadd | vsub | vmul | vfma | vfms | vfnma | vmin | vmax | vabs | vneg | vmulh | vclamp | vand | vor | vxor | vandn | vshl | vshr | vsra | vclz |
      vpopc | vceq | vcne | vclt | vcle | vcun | vsel | vclass | vrcp | vrsq | vfexp | vflog | vscx | vgetx | vgetm =>
    exact quiet_next.2 (.vop .refl ..)
  | vbcast | vperm | vshfl | viota =>
    exact quiet_next.2 (.vmove .refl ..)
  | vsum | vmaxr | vminr =>
    exact quiet_next.2 (.reduce .refl ..)
  | msrca | msrcb =>
    exact quiet_next.2 (.msrc .refl ..)
  | mzero =>
    exact quiet_next.2 (.plainJob .refl ..)
  | mdrain =>
    exact quiet_next.2 (.tileJob .refl ..)
  | tslotqFull | tslotqEmpty =>
    exact quiet_next.2 (.slotWait .refl ..)
  | tsetEmpty | tsetFull | tsetRow | tsetRowfull =>
    exact quiet_next.2 (.tset .refl ..)
  | ld | ldv | lds | ldacq =>
    exact quiet_next.2 (.checkedLoad .refl ..)
  | st | stv | sts | strel =>
    exact quiet_next.2 (.checkedStore .refl ..)
  | aadd | amin | amax | aand | aor | axor | axchg | acas | afadd | afadd2 | aincw | adecw =>
    exact quiet_next.2 (.atomic .refl ..)
  | drain =>
    exact quiet_next.2 (.orderWait .refl ..)
  | flushsLine | invsLine =>
    exact quiet_next.2 (.flushLine .refl ..)
  | flushsAll | invsAll =>
    exact quiet_next.2 (.flushAll .refl ..)
  | subn | subnAgain =>
    exact quiet_next.2 (.subnOp .refl ..)
  | claim | circrel =>
    exact quiet_next.2 (.cpName .refl ..)
  | spop | spopKeep =>
    exact quiet_next.2 (.spopOp .refl ..)
  | agfree =>
    exact quiet_next.2 (.cp .refl ..)
  | barc | barcReset =>
    exact quiet_next.2 (.barcOp .refl ..)
  | tend =>
    exact quiet_next.2 (.modIss .refl ..)
  | trapRaise =>
    exact quiet_next.2 (.fault .refl ..)
  | tretRetry | tretSkip =>
    exact quiet_next.2 (.tretOp .refl ..)
  | fmtr | csrr =>
    exact quiet_next.2 (.deliverY .refl ..)
  | trace | brk | csrw =>
    exact quiet_next.2 (.addEff .refl ..)
  | pmodeDurable | pmodeRestartable =>
    exact quiet_next.2 (.pmodeOp .refl ..)
  | tlbinvAll | tlbinvAsid | tlbinvPage =>
    exact quiet_next.2 (.tlbinvOp .refl ..)
  | parkStop | parkResume | frkill | tmove | preemptStop | preemptResume | routew | slateqRec | slateqSector | slateqDrec =>
    exact quiet_next.2 (.lateValue .refl ..)
  | watchArrive | watchLast =>
    exact quiet_next.2 (.watchOp .refl ..)
  | fcvt t a b c d => exact quiet_execFcvt t a b c d s
  | spcvTooff k a d => exact quiet_execSpcvTooff k a d s
  | nameh a b c d => exact quiet_execNameh a b c d s
  | namel a b c d => exact quiet_execNamel a b c d s
  | steer a b d => exact quiet_execSteer a b d s
  | whileOp a c d => exact quiet_execWhileOp a c d s
  | exitOp a b d => exact quiet_execExitOp a b d s
  | goto c => exact quiet_execGoto c s
  | callb a b c d => exact quiet_execCallb a b c d s
  | retb a b d => exact quiet_execRetb a b d s
  | gate a b d => exact quiet_execGate a b d s
  | tagq k a d => exact quiet_execTagq k a d s
  | frameq a d => exact quiet_execFrameq a d s
  | qtime a d => exact quiet_execQtime a d s
  | vcvt t a b c d => exact quiet_execVcvt t a b c d s
  | vrndi t a b d => exact quiet_execVrndi t a b d s
  | vcvti t a b d => exact quiet_execVcvti t a b d s
  | vpack t a b c d => exact quiet_execVpack t a b c d s
  | vunpk t a b d => exact quiet_execVunpk t a b d s
  | vqnt a b d => exact quiet_execVqnt a b d s
  | vdqnt a b c d => exact quiet_execVdqnt a b c d s
  | vscan t a d => exact quiet_execVscan t a d s
  | vcmpr a b d => exact quiet_execVcmpr a b d s
  | vrun a b c d => exact quiet_execVrun a b c d s
  | mcfg n a => exact quiet_execMcfg n a s
  | marm n a => exact quiet_execMarm n a s
  | mdisarm n => exact quiet_execMdisarm n s
  | mloadc n a b => exact quiet_execMloadc n a b s
  | mscale n a => exact quiet_execMscale n a s
  | msort k a b d => exact quiet_execMsort k a b d s
  | mstat n d => exact quiet_execMstat n d s
  | tslotAlloc a b => exact quiet_execTslotAlloc a b s
  | tslotFree a => exact quiet_execTslotFree a s
  | tslotqNow a d => exact quiet_execTslotqNow a d s
  | ldx w a b ord v done => exact quiet_execLdx w a b ord v done s
  | ldag w a b ord v done => exact quiet_execLdag w a b ord v done s
  | ldq w a b ord v done => exact quiet_execLdq w a b ord v done s
  | pref rx a b ord => exact quiet_execPref rx a b ord s
  | stashq a ord v done => exact quiet_execStashq a ord v done s
  | stx sc w a b e ord done => exact quiet_execStx sc w a b e ord done s
  | stag sc w a b e ord done => exact quiet_execStag sc w a b e ord done s
  | ordjoin a b e ord done => exact quiet_execOrdjoin a b e ord done s
  | pfence sc ord done => exact quiet_execPfence sc ord done s
  | pubt a b e ord done => exact quiet_execPubt a b e ord done s
  | pubr k a b e ord done => exact quiet_execPubr k a b e ord done s
  | unsub a ord done => exact quiet_execUnsub a ord done s
  | retain a b e ord done => exact quiet_execRetain a b e ord done s
  | sopen a b e ord done => exact quiet_execSopen a b e ord done s
  | sclose a ord done => exact quiet_execSclose a ord done s
  | circ a b e ord done => exact quiet_execCirc a b e ord done s
  | coll k a b e ord done => exact quiet_execColl k a b e ord done s
  | copy a b e ord v done => exact quiet_execCopy a b e ord v done s
  | copyx n a b e ord v done => exact quiet_execCopyx n a b e ord v done s
  | agcfg n a ord done => exact quiet_execAgcfg n a ord done s
  | wuntil a ord y => exact quiet_execWuntil a ord y s
  | bara sc a b ord x => exact quiet_execBara sc a b ord x s
  | barw a b ord x y => exact quiet_execBarw a b ord x y s
  | sigadd sc a b ord => exact quiet_execSigadd sc a b ord s
  | sigwait a b ord y => exact quiet_execSigwait a b ord y s
  | tspawn a ord y => exact quiet_execTspawn a ord y s
  | trapVec a ord => exact quiet_execTrapVec a ord s
  | fmtw a ord x => exact quiet_execFmtw a ord x s
  | nsbind a ord y => exact quiet_execNsbind a ord y s
  | watchFlip sig a b ord x y => exact quiet_execWatchFlip sig a b ord x y s
  | tokenArrival | holdingQueueDrain | bundleIssue | trapEntry | abortFaultRecord | instancePromotion | bundleFinish | blockCommit |
      deferredReplacementCommit | loopSpawn | loopContinuation | tagDeadlockCheck | throttleEvent | tspawnAtHub | taskPlacement | tileDelivery |
      activation | taskReserving | frameEndDone | moveComplete | powerGrant | railCurrentSample | matrixFiringStart | kStep | matrixFiringEnd |
      matrixJobDone | msortPass | loadReply | doneTokenFire | drainWaitEnd | pfenceWaitEnd | stashFlushDone | wuntilTick | copyComplete | spopDelivery
      | tslotqWaitDelivery | claimReply | taskidReply | registrationAtRouter | pruneAtRouter | publishFlitAtRouter | registrationAtHome | pruneAtHome
      | directoryIngressRetry | publishAtHome | claimAtHome | retainAtHome | retentionExpiry | collAtHome | partialAtHome | partialRetry |
      partialUnregisteredDrop | registrationReply | fetchAtRim | fetchPublish | streamElementAtRouter | creditReturn | branchstallExpiry |
      detachNotice | unicastRerequest | circAtRouter | circrelAtRouter | circIdleExpiry | requestAtHome | probeAckAtHome | writebackAtHome |
      atomicAtHome | fillReply | rxGrant | probeDown | probeInv | pageWalk | hbmSectorReply | pageMigration | migrationForward | barcAtBarrier |
      baraAtBarrier | barwAtBarrier | sigaddAtHome | sigwaitAtHome | persistEpochStart | dRecordWritten | cDomainPowerLoss | cDomainRevival |
      replayStallTimeout | fieldPowerLoss | fieldRevivalResend | preemptMarkerEffect | parkIssueCutoff | frameRestore | frameWatchdogExpiry |
      tileWatchdogExpiry | thermalLevelRise | criticalRailRemoval | thermalLevelFall | spineSwitch | moduleStart | svnminUpdate | securityAlarm |
      spdmGetVersion | spdmGetCapabilities | spdmNegotiateAlgorithms | spdmGetDigests | spdmGetCertificate | spdmChallenge | spdmGetMeasurements |
      bar4Read | bar4Write | publishHeaderPayload | publishHeaderGlobal | hxresMapped | hxresDeclined | hptedataWrite | htlbinvAsid | htlbinvPage |
      hsubArm | hsubWithdraw | hsubciWrite | hostDelivery | hpctlCreate | hpctlDestroy | hdstepArm | hdstepDisarm | hjclr | registerWrite |
      functionLevelReset | loaderLaunch | spanFrameReceive | spanReplay | spanLinkDown | spanPublishDrop | tokenSampleEject | counterSnapshot |
      lifeStorePersist | lifeSample | fieldPowerReturn | spanLinkUp | hbmAccessAtRim | stackSelfRefresh | supervisorOperationComplete |
      nameOperationAcknowledgement | claimReleaseAtHome | nameEntryRelease => exact absurd rfl h

end Sys2Proof.Machine

end

/-! PROOFS. What answers, where a unit is missing; every step keeps memories canonical. -/

section

namespace Sys2Proof.Machine

/-! ### What answers, and what a missing unit does -/

/-- A next state where no unit is missing, else the fault. -/
def Answers (missing : Bool) (o : Host.Outcome State Fault Refusal) : Prop :=
  (missing = false → ∃ u, o = .next u) ∧ (missing = true → o = .fault .noSuchUnit)

@[simp] theorem answers_next (u : State) : Answers false (.next u) := ⟨fun _ => ⟨u, rfl⟩, fun h => Bool.noConfusion h⟩
@[simp] theorem answers_fault : Answers true (.fault .noSuchUnit) := ⟨fun h => Bool.noConfusion h, fun _ => rfl⟩

theorem answers_ite {m : Bool} {t n : Nat} (h : m = decide (n ≤ t)) (u : State) : Answers m (if t < n then .next u else .fault .noSuchUnit) := by
  subst h
  by_cases lt : t < n
  · simp [lt, Nat.not_le.2 lt]
  · simp [lt, Nat.not_lt.1 lt]

theorem answers_unless {p : Prop} [Decidable p] {o : Host.Outcome State Fault Refusal} (h : ¬p → Answers false o) :
    Answers (decide p) (if p then .fault .noSuchUnit else o) := by
  by_cases bad : p
  · simp [bad]
  · simpa [bad] using h bad

section
variable {m : Bool} {t : Nat} {s : State} {f : State → State}

theorem answers_onTile (h : m = decide (Config.numTiles ≤ t)) : Answers m (onTile t s f) := answers_ite h _

theorem answers_onField (h : m = decide (Config.numFields ≤ t)) : Answers m (onField t s f) := answers_ite h _

theorem answers_onWalker (h : m = decide (Config.numTiles + Config.numRims ≤ t)) : Answers m (onWalker t s f) := answers_ite h _

theorem answers_onVf (h : m = decide (64 ≤ t)) : Answers m (onVf t s f) := answers_ite h _

theorem answers_onPart (h : m = decide (64 ≤ t)) : Answers m (onPart t s f) := answers_ite h _

theorem answers_onLink (h : m = decide (Config.numSpans ≤ t)) : Answers m (onLink t s f) := answers_ite h _

end


theorem answers_execTspawnAtHub (m : Nat) (taskId : BitVec 32) (s : State) : Answers false (execTspawnAtHub m taskId s) := by
  unfold execTspawnAtHub; dsimp only; (repeat' split) <;> simp

theorem answers_execTileDelivery (m : Nat) (s : State) : Answers false (execTileDelivery m s) := by
  unfold execTileDelivery; (repeat' split) <;> simp

theorem answers_execLoadReply (m : Nat) (s : State) : Answers false (execLoadReply m s) := by
  unfold execLoadReply; (repeat' split) <;> simp

theorem answers_execClaimReply (m : Nat) (s : State) : Answers false (execClaimReply m s) := by
  unfold execClaimReply; (repeat' split) <;> simp

theorem answers_execTaskidReply (m : Nat) (s : State) : Answers false (execTaskidReply m s) := by
  unfold execTaskidReply; (repeat' split) <;> simp

theorem answers_execRegistrationAtRouter (m : Nat) (s : State) : Answers false (execRegistrationAtRouter m s) := by
  unfold execRegistrationAtRouter; dsimp only; (repeat' split) <;> simp

theorem answers_execPruneAtRouter (m : Nat) (s : State) : Answers false (execPruneAtRouter m s) := by
  unfold execPruneAtRouter; dsimp only; (repeat' split) <;> simp

theorem answers_execPublishFlitAtRouter (m : Nat) (s : State) : Answers false (execPublishFlitAtRouter m s) := by
  unfold execPublishFlitAtRouter; (repeat' split) <;> simp

theorem answers_execRegistrationAtHome (m : Nat) (s : State) : Answers false (execRegistrationAtHome m s) := by
  unfold execRegistrationAtHome; (repeat' split) <;> simp

theorem answers_execPruneAtHome (m : Nat) (s : State) : Answers false (execPruneAtHome m s) := by
  unfold execPruneAtHome; (repeat' split) <;> simp

theorem answers_execPublishAtHome (m : Nat) (s : State) : Answers false (execPublishAtHome m s) := by
  unfold execPublishAtHome; (repeat' split) <;> simp

theorem answers_execClaimAtHome (m : Nat) (s : State) : Answers false (execClaimAtHome m s) := by
  unfold execClaimAtHome; (repeat' split) <;> simp

theorem answers_execRetainAtHome (m : Nat) (s : State) : Answers false (execRetainAtHome m s) := by
  unfold execRetainAtHome; (repeat' split) <;> simp

theorem answers_execCollAtHome (m : Nat) (s : State) : Answers false (execCollAtHome m s) := by
  unfold execCollAtHome; (repeat' split) <;> simp

theorem answers_execPartialAtHome (m : Nat) (s : State) : Answers false (execPartialAtHome m s) := by
  unfold execPartialAtHome; dsimp only; (repeat' split) <;> simp

theorem answers_execRegistrationReply (m : Nat) (s : State) : Answers false (execRegistrationReply m s) := by
  unfold execRegistrationReply; (repeat' split) <;> simp

theorem answers_execFetchAtRim (m : Nat) (s : State) : Answers false (execFetchAtRim m s) := by
  unfold execFetchAtRim; dsimp only; (repeat' split) <;> simp

theorem answers_execFetchPublish (agent k : Nat) (s : State) : Answers (decide (Config.numRims ≤ agent)) (execFetchPublish agent k s) := by
  refine answers_unless fun _ => ?_
  dsimp only
  (repeat' split) <;> exact answers_next _

theorem answers_execStreamElementAtRouter (m : Nat) (s : State) : Answers false (execStreamElementAtRouter m s) := by
  unfold execStreamElementAtRouter; (repeat' split) <;> simp

theorem answers_execCreditReturn (m : Nat) (s : State) : Answers false (execCreditReturn m s) := by
  unfold execCreditReturn; dsimp only; (repeat' split) <;> simp

theorem answers_execDetachNotice (m : Nat) (s : State) : Answers false (execDetachNotice m s) := by
  unfold execDetachNotice; (repeat' split) <;> simp

theorem answers_execUnicastRerequest (m : Nat) (s : State) : Answers false (execUnicastRerequest m s) := by
  unfold execUnicastRerequest; (repeat' split) <;> simp

theorem answers_execCircAtRouter (m : Nat) (s : State) : Answers false (execCircAtRouter m s) := by
  unfold execCircAtRouter; (repeat' split) <;> simp

theorem answers_execCircrelAtRouter (m : Nat) (s : State) : Answers false (execCircrelAtRouter m s) := by
  unfold execCircrelAtRouter; (repeat' split) <;> simp

theorem answers_execRequestAtHome (m : Nat) (s : State) : Answers false (execRequestAtHome m s) := by
  unfold execRequestAtHome; (repeat' split) <;> simp

theorem answers_execProbeAckAtHome (m : Nat) (s : State) : Answers false (execProbeAckAtHome m s) := by
  unfold execProbeAckAtHome; dsimp only; (repeat' split) <;> simp

theorem answers_execWritebackAtHome (m : Nat) (s : State) : Answers false (execWritebackAtHome m s) := by
  unfold execWritebackAtHome; dsimp only; (repeat' split) <;> simp

theorem answers_execAtomicAtHome (m : Nat) (s : State) : Answers false (execAtomicAtHome m s) := by
  unfold execAtomicAtHome; (repeat' split) <;> simp

theorem answers_execFillReply (m : Nat) (s : State) : Answers false (execFillReply m s) := by
  unfold execFillReply; (repeat' split) <;> simp

theorem answers_execRxGrant (m : Nat) (s : State) : Answers false (execRxGrant m s) := by
  unfold execRxGrant; dsimp only; (repeat' split) <;> simp

theorem answers_execHbmSectorReply (m : Nat) (st : SectorStatus) (s : State) : Answers false (execHbmSectorReply m st s) := by
  unfold execHbmSectorReply; dsimp only; (repeat' split) <;> simp

theorem answers_execPageMigration (src dst : Nat) (s : State) :
    Answers (decide (Config.numRims ≤ src / stackBytes ∨ Config.numRims ≤ dst / stackBytes)) (execPageMigration src dst s) := by
  refine answers_unless fun _ => ?_
  split <;> exact answers_next _

theorem answers_execMigrationForward (agent k : Nat) (s : State) :
    Answers (decide (Config.numRims ≤ agent)) (execMigrationForward agent k s) := by
  refine answers_unless fun _ => ?_
  (repeat' split) <;> exact answers_next _

theorem answers_execBarcAtBarrier (m : Nat) (s : State) : Answers false (execBarcAtBarrier m s) := by
  unfold execBarcAtBarrier; (repeat' split) <;> simp

theorem answers_execBaraAtBarrier (m : Nat) (s : State) : Answers false (execBaraAtBarrier m s) := by
  unfold execBaraAtBarrier; (repeat' split) <;> simp

theorem answers_execBarwAtBarrier (m : Nat) (s : State) : Answers false (execBarwAtBarrier m s) := by
  unfold execBarwAtBarrier; dsimp only; (repeat' split) <;> simp

theorem answers_execSigaddAtHome (m : Nat) (s : State) : Answers false (execSigaddAtHome m s) := by
  unfold execSigaddAtHome; (repeat' split) <;> simp

theorem answers_execSigwaitAtHome (m : Nat) (s : State) : Answers false (execSigwaitAtHome m s) := by
  unfold execSigwaitAtHome; (repeat' split) <;> simp

theorem answers_execFieldRevivalResend (t field : Nat) (s : State) :
    Answers (decide (Config.numTiles + Config.numRims ≤ t ∨ Config.numFields ≤ field)) (execFieldRevivalResend t field s) := by
  unfold execFieldRevivalResend
  by_cases far : t ≥ Config.numTiles + Config.numRims
  · simp only [if_pos far, show (Config.numTiles + Config.numRims ≤ t ∨ Config.numFields ≤ field) = True from eq_true (.inl far)]
    exact answers_fault
  · rw [if_neg far]
    exact answers_onField (decide_eq_decide.2 (or_iff_right far))

theorem answers_execSecurityAlarm (source : BitVec 3) (random : List (BitVec 8)) (s : State) :
    Answers (decide (5 ≤ source.toNat)) (execSecurityAlarm source random s) :=
  answers_unless fun _ => answers_next _

theorem answers_execSpdmGetCertificate (req : List (BitVec 8)) (s : State) : Answers false (execSpdmGetCertificate req s) := answers_next _

theorem answers_execHxresMapped (p : Nat) (stall : BitVec 32) (s : State) : Answers (decide (64 ≤ p)) (execHxresMapped p stall s) := by
  refine answers_unless fun _ => ?_
  (repeat' split) <;> exact answers_next _

theorem answers_execHxresDeclined (p : Nat) (stall : BitVec 32) (s : State) : Answers (decide (64 ≤ p)) (execHxresDeclined p stall s) := by
  refine answers_unless fun _ => ?_
  (repeat' split) <;> exact answers_next _

theorem answers_execRegisterWrite (fn : HostFn) (off size : Nat) (data : BitVec 64) (s : State) :
    Answers (missingUnit (.registerWrite fn off size data)) (execRegisterWrite fn off size data s) := by
  cases fn with
  | pf => exact answers_next _
  | vf p =>
    unfold execRegisterWrite
    exact answers_onVf (by rfl)

theorem answers_execFunctionLevelReset (p : Nat) (s : State) : Answers (decide (64 < p)) (execFunctionLevelReset p s) := by
  unfold execFunctionLevelReset
  split
  · subst p; exact answers_next _
  · exact answers_onVf (decide_eq_decide.2 (by omega))

theorem answers_execHbmAccessAtRim (m : Nat) (crcOk : Bool) (s : State) : Answers false (execHbmAccessAtRim m crcOk s) := by
  unfold execHbmAccessAtRim; dsimp only; (repeat' split) <;> simp

theorem answers_execStackSelfRefresh (agent : StackReading) (s : State) :
    Answers (decide (Config.numRims ≤ agent.agent)) (execStackSelfRefresh agent s) :=
  answers_unless fun _ => answers_next _

theorem answers_execNameOperationAcknowledgement (m : Nat) (s : State) : Answers false (execNameOperationAcknowledgement m s) := by
  unfold execNameOperationAcknowledgement; (repeat' split) <;> simp

theorem answers_execClaimReleaseAtHome (m : Nat) (s : State) : Answers false (execClaimReleaseAtHome m s) := by
  unfold execClaimReleaseAtHome; (repeat' split) <;> simp

theorem event_answers {i : Instr} (s : State) (h : encode i = none) : Answers (missingUnit i) (exec i s) := by
  cases i with
  | tokenArrival t => exact (answers_onTile (by rfl) : Answers _ (execTokenArrival t s))
  | holdingQueueDrain t => exact (answers_onTile (by rfl) : Answers _ (execHoldingQueueDrain t s))
  | bundleIssue t => exact (answers_onTile (by rfl) : Answers _ (execBundleIssue t s))
  | trapEntry t f => exact (answers_onTile (by rfl) : Answers _ (execTrapEntry t f s))
  | abortFaultRecord t f => exact (answers_onTile (by rfl) : Answers _ (execAbortFaultRecord t f s))
  | instancePromotion t k => exact (answers_onTile (by rfl) : Answers _ (execInstancePromotion t k s))
  | bundleFinish t k => exact (answers_onTile (by rfl) : Answers _ (execBundleFinish t k s))
  | blockCommit t k => exact (answers_onTile (by rfl) : Answers _ (execBlockCommit t k s))
  | deferredReplacementCommit t k => exact (answers_onTile (by rfl) : Answers _ (execDeferredReplacementCommit t k s))
  | loopSpawn t l => exact (answers_onTile (by rfl) : Answers _ (execLoopSpawn t l s))
  | loopContinuation t l => exact (answers_onTile (by rfl) : Answers _ (execLoopContinuation t l s))
  | tagDeadlockCheck t => exact (answers_onTile (by rfl) : Answers _ (execTagDeadlockCheck t s))
  | throttleEvent t => exact (answers_onTile (by rfl) : Answers _ (execThrottleEvent t s))
  | activation t => exact (answers_onTile (by rfl) : Answers _ (execActivation t s))
  | taskReserving t taskId => exact (answers_onTile (by rfl) : Answers _ (execTaskReserving t taskId s))
  | frameEndDone t f => exact (answers_onTile (by rfl) : Answers _ (execFrameEndDone t f s))
  | moveComplete t taskId => exact (answers_onTile (by rfl) : Answers _ (execMoveComplete t taskId s))
  | matrixFiringStart t => exact (answers_onTile (by rfl) : Answers _ (execMatrixFiringStart t s))
  | kStep t => exact (answers_onTile (by rfl) : Answers _ (execKStep t s))
  | matrixFiringEnd t => exact (answers_onTile (by rfl) : Answers _ (execMatrixFiringEnd t s))
  | matrixJobDone t acc => exact (answers_onTile (by rfl) : Answers _ (execMatrixJobDone t acc s))
  | msortPass t => exact (answers_onTile (by rfl) : Answers _ (execMsortPass t s))
  | doneTokenFire t f k => exact (answers_onTile (by rfl) : Answers _ (execDoneTokenFire t f k s))
  | drainWaitEnd t k => exact (answers_onTile (by rfl) : Answers _ (execDrainWaitEnd t k s))
  | pfenceWaitEnd t k => exact (answers_onTile (by rfl) : Answers _ (execPfenceWaitEnd t k s))
  | stashFlushDone t k => exact (answers_onTile (by rfl) : Answers _ (execStashFlushDone t k s))
  | wuntilTick t k => exact (answers_onTile (by rfl) : Answers _ (execWuntilTick t k s))
  | copyComplete t k => exact (answers_onTile (by rfl) : Answers _ (execCopyComplete t k s))
  | spopDelivery t k => exact (answers_onTile (by rfl) : Answers _ (execSpopDelivery t k s))
  | tslotqWaitDelivery t k => exact (answers_onTile (by rfl) : Answers _ (execTslotqWaitDelivery t k s))
  | directoryIngressRetry t k => exact (answers_onTile (by rfl) : Answers _ (execDirectoryIngressRetry t k s))
  | retentionExpiry t name ver => exact (answers_onTile (by rfl) : Answers _ (execRetentionExpiry t name ver s))
  | partialRetry t k => exact (answers_onTile (by rfl) : Answers _ (execPartialRetry t k s))
  | partialUnregisteredDrop t k => exact (answers_onTile (by rfl) : Answers _ (execPartialUnregisteredDrop t k s))
  | branchstallExpiry t k => exact (answers_onTile (by rfl) : Answers _ (execBranchstallExpiry t k s))
  | circIdleExpiry t k => exact (answers_onTile (by rfl) : Answers _ (execCircIdleExpiry t k s))
  | persistEpochStart t => exact (answers_onTile (by rfl) : Answers _ (execPersistEpochStart t s))
  | dRecordWritten t => exact (answers_onTile (by rfl) : Answers _ (execDRecordWritten t s))
  | cDomainPowerLoss t torn => exact (answers_onTile (by rfl) : Answers _ (execCDomainPowerLoss t torn s))
  | cDomainRevival t => exact (answers_onTile (by rfl) : Answers _ (execCDomainRevival t s))
  | replayStallTimeout t f => exact (answers_onTile (by rfl) : Answers _ (execReplayStallTimeout t f s))
  | preemptMarkerEffect t f => exact (answers_onTile (by rfl) : Answers _ (execPreemptMarkerEffect t f s))
  | parkIssueCutoff t f => exact (answers_onTile (by rfl) : Answers _ (execParkIssueCutoff t f s))
  | frameRestore t k => exact (answers_onTile (by rfl) : Answers _ (execFrameRestore t k s))
  | frameWatchdogExpiry t f => exact (answers_onTile (by rfl) : Answers _ (execFrameWatchdogExpiry t f s))
  | tileWatchdogExpiry t => exact (answers_onTile (by rfl) : Answers _ (execTileWatchdogExpiry t s))
  | spineSwitch t => exact (answers_onTile (by rfl) : Answers _ (execSpineSwitch t s))
  | tokenSampleEject t k => exact (answers_onTile (by rfl) : Answers _ (execTokenSampleEject t k s))
  | supervisorOperationComplete t k => exact (answers_onTile (by rfl) : Answers _ (execSupervisorOperationComplete t k s))
  | nameEntryRelease t name => exact (answers_onTile (by rfl) : Answers _ (execNameEntryRelease t name s))
  | taskPlacement field taskId t => exact (answers_onField (by rfl) : Answers _ (execTaskPlacement field taskId t s))
  | powerGrant field inp => exact (answers_onField (by rfl) : Answers _ (execPowerGrant field inp s))
  | railCurrentSample field units => exact (answers_onField (by rfl) : Answers _ (execRailCurrentSample field units s))
  | fieldPowerLoss field => exact (answers_onField (by rfl) : Answers _ (execFieldPowerLoss field s))
  | thermalLevelRise field temp => exact (answers_onField (by rfl) : Answers _ (execThermalLevelRise field temp s))
  | criticalRailRemoval field => exact (answers_onField (by rfl) : Answers _ (execCriticalRailRemoval field s))
  | thermalLevelFall field temp => exact (answers_onField (by rfl) : Answers _ (execThermalLevelFall field temp s))
  | lifeStorePersist field => exact (answers_onField (by rfl) : Answers _ (execLifeStorePersist field s))
  | lifeSample field temp microvolt => exact (answers_onField (by rfl) : Answers _ (execLifeSample field temp microvolt s))
  | fieldPowerReturn field => exact (answers_onField (by rfl) : Answers _ (execFieldPowerReturn field s))
  | probeDown | probeInv | moduleStart | svnminUpdate | spdmGetVersion | spdmGetCapabilities | spdmNegotiateAlgorithms | spdmGetDigests |
      spdmChallenge | spdmGetMeasurements | hjclr =>
    exact answers_next ..
  | pageWalk t k stall => exact (answers_onWalker (by rfl) : Answers _ (execPageWalk t k stall s))
  | bar4Read p off len => exact (answers_onVf (by rfl) : Answers _ (execBar4Read p off len s))
  | bar4Write p off bytes => exact (answers_onVf (by rfl) : Answers _ (execBar4Write p off bytes s))
  | publishHeaderPayload p slot w0 w1 w2 w3 => exact (answers_onVf (by rfl) : Answers _ (execPublishHeaderPayload p slot w0 w1 w2 w3 s))
  | publishHeaderGlobal p slot w0 w1 w2 w3 => exact (answers_onVf (by rfl) : Answers _ (execPublishHeaderGlobal p slot w0 w1 w2 w3 s))
  | hptedataWrite p data => exact (answers_onVf (by rfl) : Answers _ (execHptedataWrite p data s))
  | htlbinvAsid p => exact (answers_onVf (by rfl) : Answers _ (execHtlbinvAsid p s))
  | htlbinvPage p va => exact (answers_onVf (by rfl) : Answers _ (execHtlbinvPage p va s))
  | hsubArm p entry w2 => exact (answers_onVf (by rfl) : Answers _ (execHsubArm p entry w2 s))
  | hsubWithdraw p entry => exact (answers_onVf (by rfl) : Answers _ (execHsubWithdraw p entry s))
  | hsubciWrite p entry ci => exact (answers_onVf (by rfl) : Answers _ (execHsubciWrite p entry ci s))
  | hostDelivery p k => exact (answers_onVf (by rfl) : Answers _ (execHostDelivery p k s))
  | hpctlCreate p => exact (answers_onPart (by rfl) : Answers _ (execHpctlCreate p s))
  | hpctlDestroy p => exact (answers_onPart (by rfl) : Answers _ (execHpctlDestroy p s))
  | hdstepArm p w => exact (answers_onPart (by rfl) : Answers _ (execHdstepArm p w s))
  | hdstepDisarm p => exact (answers_onPart (by rfl) : Answers _ (execHdstepDisarm p s))
  | loaderLaunch p ids => exact (answers_onPart (by rfl) : Answers _ (execLoaderLaunch p ids s))
  | counterSnapshot p => exact (answers_onPart (by rfl) : Answers _ (execCounterSnapshot p s))
  | spanFrameReceive link header crcOk flit => exact (answers_onLink (by rfl) : Answers _ (execSpanFrameReceive link header crcOk flit s))
  | spanReplay link => exact (answers_onLink (by rfl) : Answers _ (execSpanReplay link s))
  | spanLinkDown link => exact (answers_onLink (by rfl) : Answers _ (execSpanLinkDown link s))
  | spanPublishDrop link k => exact (answers_onLink (by rfl) : Answers _ (execSpanPublishDrop link k s))
  | spanLinkUp link => exact (answers_onLink (by rfl) : Answers _ (execSpanLinkUp link s))
  | tspawnAtHub m taskId => exact answers_execTspawnAtHub m taskId s
  | tileDelivery m => exact answers_execTileDelivery m s
  | loadReply m => exact answers_execLoadReply m s
  | claimReply m => exact answers_execClaimReply m s
  | taskidReply m => exact answers_execTaskidReply m s
  | registrationAtRouter m => exact answers_execRegistrationAtRouter m s
  | pruneAtRouter m => exact answers_execPruneAtRouter m s
  | publishFlitAtRouter m => exact answers_execPublishFlitAtRouter m s
  | registrationAtHome m => exact answers_execRegistrationAtHome m s
  | pruneAtHome m => exact answers_execPruneAtHome m s
  | publishAtHome m => exact answers_execPublishAtHome m s
  | claimAtHome m => exact answers_execClaimAtHome m s
  | retainAtHome m => exact answers_execRetainAtHome m s
  | collAtHome m => exact answers_execCollAtHome m s
  | partialAtHome m => exact answers_execPartialAtHome m s
  | registrationReply m => exact answers_execRegistrationReply m s
  | fetchAtRim m => exact answers_execFetchAtRim m s
  | fetchPublish agent k => exact answers_execFetchPublish agent k s
  | streamElementAtRouter m => exact answers_execStreamElementAtRouter m s
  | creditReturn m => exact answers_execCreditReturn m s
  | detachNotice m => exact answers_execDetachNotice m s
  | unicastRerequest m => exact answers_execUnicastRerequest m s
  | circAtRouter m => exact answers_execCircAtRouter m s
  | circrelAtRouter m => exact answers_execCircrelAtRouter m s
  | requestAtHome m => exact answers_execRequestAtHome m s
  | probeAckAtHome m => exact answers_execProbeAckAtHome m s
  | writebackAtHome m => exact answers_execWritebackAtHome m s
  | atomicAtHome m => exact answers_execAtomicAtHome m s
  | fillReply m => exact answers_execFillReply m s
  | rxGrant m => exact answers_execRxGrant m s
  | hbmSectorReply m st => exact answers_execHbmSectorReply m st s
  | pageMigration src dst => exact answers_execPageMigration src dst s
  | migrationForward agent k => exact answers_execMigrationForward agent k s
  | barcAtBarrier m => exact answers_execBarcAtBarrier m s
  | baraAtBarrier m => exact answers_execBaraAtBarrier m s
  | barwAtBarrier m => exact answers_execBarwAtBarrier m s
  | sigaddAtHome m => exact answers_execSigaddAtHome m s
  | sigwaitAtHome m => exact answers_execSigwaitAtHome m s
  | fieldRevivalResend t field => exact answers_execFieldRevivalResend t field s
  | securityAlarm source random => exact answers_execSecurityAlarm source random s
  | spdmGetCertificate req => exact answers_execSpdmGetCertificate req s
  | hxresMapped p stall => exact answers_execHxresMapped p stall s
  | hxresDeclined p stall => exact answers_execHxresDeclined p stall s
  | registerWrite fn off size data => exact answers_execRegisterWrite fn off size data s
  | functionLevelReset p => exact answers_execFunctionLevelReset p s
  | hbmAccessAtRim m crcOk => exact answers_execHbmAccessAtRim m crcOk s
  | stackSelfRefresh agent => exact answers_execStackSelfRefresh agent s
  | nameOperationAcknowledgement m => exact answers_execNameOperationAcknowledgement m s
  | claimReleaseAtHome m => exact answers_execClaimReleaseAtHome m s
  | _ => exact absurd h (Option.ne_none_iff_isSome.2 rfl)

theorem event_keeps {i : Instr} (s : State) (h : encode i = none) : Keeps s (exec i s) := by
  cases i with
  | tokenArrival t => exact keeps_execTokenArrival t s
  | holdingQueueDrain t => exact keeps_execHoldingQueueDrain t s
  | bundleIssue t => exact keeps_execBundleIssue t s
  | trapEntry t f => exact keeps_execTrapEntry t f s
  | abortFaultRecord t f => exact keeps_execAbortFaultRecord t f s
  | instancePromotion t k => exact keeps_execInstancePromotion t k s
  | bundleFinish t k => exact keeps_execBundleFinish t k s
  | blockCommit t k => exact keeps_execBlockCommit t k s
  | deferredReplacementCommit t k => exact keeps_execDeferredReplacementCommit t k s
  | loopSpawn t l => exact keeps_execLoopSpawn t l s
  | loopContinuation t l => exact keeps_execLoopContinuation t l s
  | tagDeadlockCheck t => exact keeps_execTagDeadlockCheck t s
  | throttleEvent t => exact keeps_execThrottleEvent t s
  | tspawnAtHub m taskId => exact keeps_execTspawnAtHub m taskId s
  | taskPlacement field taskId t => exact keeps_execTaskPlacement field taskId t s
  | tileDelivery m => exact keeps_execTileDelivery m s
  | activation t => exact keeps_execActivation t s
  | taskReserving t taskId => exact keeps_execTaskReserving t taskId s
  | frameEndDone t f => exact keeps_execFrameEndDone t f s
  | moveComplete t taskId => exact keeps_execMoveComplete t taskId s
  | powerGrant field inp => exact keeps_execPowerGrant field inp s
  | railCurrentSample field units => exact keeps_execRailCurrentSample field units s
  | matrixFiringStart t => exact keeps_execMatrixFiringStart t s
  | kStep t => exact keeps_execKStep t s
  | matrixFiringEnd t => exact keeps_execMatrixFiringEnd t s
  | matrixJobDone t acc => exact keeps_execMatrixJobDone t acc s
  | msortPass t => exact keeps_execMsortPass t s
  | loadReply m => exact keeps_execLoadReply m s
  | doneTokenFire t f k => exact keeps_execDoneTokenFire t f k s
  | drainWaitEnd t k => exact keeps_execDrainWaitEnd t k s
  | pfenceWaitEnd t k => exact keeps_execPfenceWaitEnd t k s
  | stashFlushDone t k => exact keeps_execStashFlushDone t k s
  | wuntilTick t k => exact keeps_execWuntilTick t k s
  | copyComplete t k => exact keeps_execCopyComplete t k s
  | spopDelivery t k => exact keeps_execSpopDelivery t k s
  | tslotqWaitDelivery t k => exact keeps_execTslotqWaitDelivery t k s
  | claimReply m => exact keeps_execClaimReply m s
  | taskidReply m => exact keeps_execTaskidReply m s
  | registrationAtRouter m => exact keeps_execRegistrationAtRouter m s
  | pruneAtRouter m => exact keeps_execPruneAtRouter m s
  | publishFlitAtRouter m => exact keeps_execPublishFlitAtRouter m s
  | registrationAtHome m => exact keeps_execRegistrationAtHome m s
  | pruneAtHome m => exact keeps_execPruneAtHome m s
  | directoryIngressRetry t k => exact keeps_execDirectoryIngressRetry t k s
  | publishAtHome m => exact keeps_execPublishAtHome m s
  | claimAtHome m => exact keeps_execClaimAtHome m s
  | retainAtHome m => exact keeps_execRetainAtHome m s
  | retentionExpiry t name ver => exact keeps_execRetentionExpiry t name ver s
  | collAtHome m => exact keeps_execCollAtHome m s
  | partialAtHome m => exact keeps_execPartialAtHome m s
  | partialRetry t k => exact keeps_execPartialRetry t k s
  | partialUnregisteredDrop t k => exact keeps_execPartialUnregisteredDrop t k s
  | registrationReply m => exact keeps_execRegistrationReply m s
  | fetchAtRim m => exact keeps_execFetchAtRim m s
  | fetchPublish agent k => exact keeps_execFetchPublish agent k s
  | streamElementAtRouter m => exact keeps_execStreamElementAtRouter m s
  | creditReturn m => exact keeps_execCreditReturn m s
  | branchstallExpiry t k => exact keeps_execBranchstallExpiry t k s
  | detachNotice m => exact keeps_execDetachNotice m s
  | unicastRerequest m => exact keeps_execUnicastRerequest m s
  | circAtRouter m => exact keeps_execCircAtRouter m s
  | circrelAtRouter m => exact keeps_execCircrelAtRouter m s
  | circIdleExpiry t k => exact keeps_execCircIdleExpiry t k s
  | requestAtHome m => exact keeps_execRequestAtHome m s
  | probeAckAtHome m => exact keeps_execProbeAckAtHome m s
  | writebackAtHome m => exact keeps_execWritebackAtHome m s
  | atomicAtHome m => exact keeps_execAtomicAtHome m s
  | fillReply m => exact keeps_execFillReply m s
  | rxGrant m => exact keeps_execRxGrant m s
  | probeDown m => exact keeps_execProbeDown m s
  | probeInv m => exact keeps_execProbeInv m s
  | pageWalk t k stall => exact keeps_execPageWalk t k stall s
  | hbmSectorReply m st => exact keeps_execHbmSectorReply m st s
  | pageMigration src dst => exact keeps_execPageMigration src dst s
  | migrationForward agent k => exact keeps_execMigrationForward agent k s
  | barcAtBarrier m => exact keeps_execBarcAtBarrier m s
  | baraAtBarrier m => exact keeps_execBaraAtBarrier m s
  | barwAtBarrier m => exact keeps_execBarwAtBarrier m s
  | sigaddAtHome m => exact keeps_execSigaddAtHome m s
  | sigwaitAtHome m => exact keeps_execSigwaitAtHome m s
  | persistEpochStart t => exact keeps_execPersistEpochStart t s
  | dRecordWritten t => exact keeps_execDRecordWritten t s
  | cDomainPowerLoss t torn => exact keeps_execCDomainPowerLoss t torn s
  | cDomainRevival t => exact keeps_execCDomainRevival t s
  | replayStallTimeout t f => exact keeps_execReplayStallTimeout t f s
  | fieldPowerLoss field => exact keeps_execFieldPowerLoss field s
  | fieldRevivalResend t field => exact keeps_execFieldRevivalResend t field s
  | preemptMarkerEffect t f => exact keeps_execPreemptMarkerEffect t f s
  | parkIssueCutoff t f => exact keeps_execParkIssueCutoff t f s
  | frameRestore t k => exact keeps_execFrameRestore t k s
  | frameWatchdogExpiry t f => exact keeps_execFrameWatchdogExpiry t f s
  | tileWatchdogExpiry t => exact keeps_execTileWatchdogExpiry t s
  | thermalLevelRise field temp => exact keeps_execThermalLevelRise field temp s
  | criticalRailRemoval field => exact keeps_execCriticalRailRemoval field s
  | thermalLevelFall field temp => exact keeps_execThermalLevelFall field temp s
  | spineSwitch t => exact keeps_execSpineSwitch t s
  | moduleStart inp => exact keeps_execModuleStart inp s
  | svnminUpdate record => exact keeps_execSvnminUpdate record s
  | securityAlarm source random => exact keeps_execSecurityAlarm source random s
  | spdmGetVersion req => exact keeps_execSpdmGetVersion req s
  | spdmGetCapabilities req => exact keeps_execSpdmGetCapabilities req s
  | spdmNegotiateAlgorithms req => exact keeps_execSpdmNegotiateAlgorithms req s
  | spdmGetDigests req => exact keeps_execSpdmGetDigests req s
  | spdmGetCertificate req => exact keeps_execSpdmGetCertificate req s
  | spdmChallenge req => exact keeps_execSpdmChallenge req s
  | spdmGetMeasurements req index signed => exact keeps_execSpdmGetMeasurements req index signed s
  | bar4Read p off len => exact keeps_execBar4Read p off len s
  | bar4Write p off bytes => exact keeps_execBar4Write p off bytes s
  | publishHeaderPayload p slot w0 w1 w2 w3 => exact keeps_execPublishHeaderPayload p slot w0 w1 w2 w3 s
  | publishHeaderGlobal p slot w0 w1 w2 w3 => exact keeps_execPublishHeaderGlobal p slot w0 w1 w2 w3 s
  | hxresMapped p stall => exact keeps_execHxresMapped p stall s
  | hxresDeclined p stall => exact keeps_execHxresDeclined p stall s
  | hptedataWrite p data => exact keeps_execHptedataWrite p data s
  | htlbinvAsid p => exact keeps_execHtlbinvAsid p s
  | htlbinvPage p va => exact keeps_execHtlbinvPage p va s
  | hsubArm p entry w2 => exact keeps_execHsubArm p entry w2 s
  | hsubWithdraw p entry => exact keeps_execHsubWithdraw p entry s
  | hsubciWrite p entry ci => exact keeps_execHsubciWrite p entry ci s
  | hostDelivery p k => exact keeps_execHostDelivery p k s
  | hpctlCreate p => exact keeps_execHpctlCreate p s
  | hpctlDestroy p => exact keeps_execHpctlDestroy p s
  | hdstepArm p w => exact keeps_execHdstepArm p w s
  | hdstepDisarm p => exact keeps_execHdstepDisarm p s
  | hjclr entry => exact keeps_execHjclr entry s
  | registerWrite fn off size data => exact keeps_execRegisterWrite fn off size data s
  | functionLevelReset p => exact keeps_execFunctionLevelReset p s
  | loaderLaunch p ids => exact keeps_execLoaderLaunch p ids s
  | spanFrameReceive link header crcOk flit => exact keeps_execSpanFrameReceive link header crcOk flit s
  | spanReplay link => exact keeps_execSpanReplay link s
  | spanLinkDown link => exact keeps_execSpanLinkDown link s
  | spanPublishDrop link k => exact keeps_execSpanPublishDrop link k s
  | tokenSampleEject t k => exact keeps_execTokenSampleEject t k s
  | counterSnapshot p => exact keeps_execCounterSnapshot p s
  | lifeStorePersist field => exact keeps_execLifeStorePersist field s
  | lifeSample field temp microvolt => exact keeps_execLifeSample field temp microvolt s
  | fieldPowerReturn field => exact keeps_execFieldPowerReturn field s
  | spanLinkUp link => exact keeps_execSpanLinkUp link s
  | hbmAccessAtRim m crcOk => exact keeps_execHbmAccessAtRim m crcOk s
  | stackSelfRefresh agent => exact keeps_execStackSelfRefresh agent s
  | supervisorOperationComplete t k => exact keeps_execSupervisorOperationComplete t k s
  | nameOperationAcknowledgement m => exact keeps_execNameOperationAcknowledgement m s
  | claimReleaseAtHome m => exact keeps_execClaimReleaseAtHome m s
  | nameEntryRelease t name => exact keeps_execNameEntryRelease t name s
  | _ => exact absurd h (Option.ne_none_iff_isSome.2 rfl)

/-- Every step keeps what is canonical. -/
theorem exec_keeps (i : Instr) (s : State) : Keeps s (exec i s) := by
  cases h : encode i with
  | none => exact event_keeps s h
  | some w =>
    obtain ⟨u, e, q⟩ := exec_quiet s (i := i) (by simp [h])
    rw [e]
    exact keeps_next.2 q.2.ge

/-- The state that the next slot leaves or performs its instruction in. -/
def Slot1.state : Slot1 → State
  | .perform _ s => s
  | .done s => s

theorem State.canon_nextSlot (s : State) : s.nextSlot.state.canon = s.canon := by
  unfold State.nextSlot
  split
  · simp [Slot1.state]
  · split
    · split <;> simp [Slot1.state]
    · simp [Slot1.state]
    · simp [Slot1.state]

theorem step_keeps (s : State) : Keeps s (step s) := by
  have next := s.canon_nextSlot
  unfold step
  split
  · split
    · next i v h =>
      rw [h] at next
      exact fun u e => next.ge.trans (exec_keeps i v u e)
    · next v h =>
      rw [h] at next
      exact keeps_next.2 next.ge
  · split
    · next dt i rest _ =>
      have e : (({ s with sched := rest } : State).advance dt).canon = s.canon := State.canon_advance _ _
      exact fun u h => e.ge.trans (exec_keeps i _ u h)
    · simp

/-- Settles O26: every step keeps what is canonical of the tiles, by the cases of a step and the instruction performed in it. -/
theorem tileMemoriesStayCanonical : Obligations.TileMemoriesStayCanonical :=
  fun s u ok h => Bool.le_iff_imp.1 (step_keeps s u h).1 ok

/-- Settles O56: with HBM and host memory as with the tiles. -/
theorem memoryStaysCanonical : Obligations.MemoryStaysCanonical :=
  fun s u ok h => Bool.le_iff_imp.1 (step_keeps s u h).2 ok

/-- Settles O53: slot operations end in shared operations that write only the bundle instance being issued, or fault. -/
theorem slotOperationsWriteNoRegisterOrMemory : Obligations.SlotOperationsWriteNoRegisterOrMemory := by
  intro i s u h e
  obtain ⟨v, e', q, -⟩ := exec_quiet s h
  obtain rfl : v = u := by rw [e] at e'; cases e'; rfl
  exact q

theorem missingUnit_of_encode {i : Instr} (h : encode i ≠ none) : missingUnit i = false := by
  cases i with
  | tokenArrival | holdingQueueDrain | bundleIssue | trapEntry | abortFaultRecord | instancePromotion | bundleFinish | blockCommit |
      deferredReplacementCommit | loopSpawn | loopContinuation | tagDeadlockCheck | throttleEvent | tspawnAtHub | taskPlacement | tileDelivery |
      activation | taskReserving | frameEndDone | moveComplete | powerGrant | railCurrentSample | matrixFiringStart | kStep | matrixFiringEnd |
      matrixJobDone | msortPass | loadReply | doneTokenFire | drainWaitEnd | pfenceWaitEnd | stashFlushDone | wuntilTick | copyComplete | spopDelivery
      | tslotqWaitDelivery | claimReply | taskidReply | registrationAtRouter | pruneAtRouter | publishFlitAtRouter | registrationAtHome | pruneAtHome
      | directoryIngressRetry | publishAtHome | claimAtHome | retainAtHome | retentionExpiry | collAtHome | partialAtHome | partialRetry |
      partialUnregisteredDrop | registrationReply | fetchAtRim | fetchPublish | streamElementAtRouter | creditReturn | branchstallExpiry |
      detachNotice | unicastRerequest | circAtRouter | circrelAtRouter | circIdleExpiry | requestAtHome | probeAckAtHome | writebackAtHome |
      atomicAtHome | fillReply | rxGrant | probeDown | probeInv | pageWalk | hbmSectorReply | pageMigration | migrationForward | barcAtBarrier |
      baraAtBarrier | barwAtBarrier | sigaddAtHome | sigwaitAtHome | persistEpochStart | dRecordWritten | cDomainPowerLoss | cDomainRevival |
      replayStallTimeout | fieldPowerLoss | fieldRevivalResend | preemptMarkerEffect | parkIssueCutoff | frameRestore | frameWatchdogExpiry |
      tileWatchdogExpiry | thermalLevelRise | criticalRailRemoval | thermalLevelFall | spineSwitch | moduleStart | svnminUpdate | securityAlarm |
      spdmGetVersion | spdmGetCapabilities | spdmNegotiateAlgorithms | spdmGetDigests | spdmGetCertificate | spdmChallenge | spdmGetMeasurements |
      bar4Read | bar4Write | publishHeaderPayload | publishHeaderGlobal | hxresMapped | hxresDeclined | hptedataWrite | htlbinvAsid | htlbinvPage |
      hsubArm | hsubWithdraw | hsubciWrite | hostDelivery | hpctlCreate | hpctlDestroy | hdstepArm | hdstepDisarm | hjclr | registerWrite |
      functionLevelReset | loaderLaunch | spanFrameReceive | spanReplay | spanLinkDown | spanPublishDrop | tokenSampleEject | counterSnapshot |
      lifeStorePersist | lifeSample | fieldPowerReturn | spanLinkUp | hbmAccessAtRim | stackSelfRefresh | supervisorOperationComplete |
      nameOperationAcknowledgement | claimReleaseAtHome | nameEntryRelease =>
    exact absurd rfl h
  | _ => rfl

/-- Settles O54: slot operations answer by what they share; events by the units they name. -/
theorem onlyMissingUnitsStop : Obligations.OnlyMissingUnitsStop := by
  intro i s
  by_cases h : encode i = none
  · exact ⟨(event_answers s h).1, (event_answers s h).2, fun k => absurd h k⟩
  · have found := missingUnit_of_encode h
    obtain ⟨u, e, -⟩ := exec_quiet s h
    exact ⟨fun _ => ⟨u, e⟩, fun k => (Bool.noConfusion (found.symm.trans k)), fun _ => found⟩

end Sys2Proof.Machine

end

/-! PROOFS. Scalar integer operations (spec/09, R224, R225): Res and Opnd, arithmetic, bits, shifts and counts. -/

section

namespace Sys2Proof

theorem Ty.width_le (t : Ty) : t.width ≤ 64 := by cases t <;> decide

end Sys2Proof

namespace Sys2Proof.Machine

/-! ### Res and Opnd (R224) -/

theorem res_eq_toInt {t : Ty} (h : t.signed = true) (v : Int) : res t v = BitVec.ofInt 64 (BitVec.ofInt t.width v).toInt := by
  have value : BitVec.ofNat t.width (v % 2 ^ t.width).toNat = BitVec.ofInt t.width v := by
    refine BitVec.eq_of_toNat_eq ?_
    rw [BitVec.toNat_ofNat, BitVec.toNat_ofInt, ← BitVec.toNat_ofInt, Nat.mod_eq_of_lt]
    · simp [BitVec.toNat_ofInt]
    · have := (BitVec.ofInt t.width v).isLt
      simpa [BitVec.toNat_ofInt] using this
  rw [res, if_pos h, signedOf_eq_toInt t.width_pos, value]

theorem toInt_res {t : Ty} (h : t.signed = true) (v : Int) : (res t v).toInt = (BitVec.ofInt t.width v).toInt := by
  rw [res_eq_toInt h, ← BitVec.signExtend, BitVec.toInt_signExtend_of_le t.width_le]

theorem toNat_res {t : Ty} (h : t.signed = false) (v : Int) : ((res t v).toNat : Int) = v % 2 ^ t.width := by
  have nonneg : 0 ≤ v % 2 ^ t.width := Int.emod_nonneg _ (by positivity)
  have small : v % 2 ^ t.width < 2 ^ t.width := Int.emod_lt_of_pos _ (by positivity)
  have word : (2 : Int) ^ t.width ≤ 2 ^ 64 := by exact_mod_cast Nat.pow_le_pow_right (by decide) t.width_le
  rw [res, if_neg (by simp [h]), w64, BitVec.toNat_ofNat, Nat.mod_eq_of_lt (by omega), Int.toNat_of_nonneg nonneg]

theorem opnd_signed {t : Ty} (h : t.signed = true) (x : W64) : opnd t x = (BitVec.ofNat t.width x.toNat).toInt := by
  rw [opnd, if_pos h, signedOf_eq_toInt t.width_pos]

theorem opnd_unsigned {t : Ty} (h : t.signed = false) (x : W64) : opnd t x = (x.toNat : Int) % 2 ^ t.width := by
  rw [opnd, if_neg (by simp [h])]
  push_cast
  rfl

/-- A reading of w bits keeps their value modulo 2^w. -/
theorem toInt_emod {w : Nat} (b : BitVec w) : b.toInt % 2 ^ w = b.toNat := by
  have := Int.bmod_emod (x := b.toNat) (m := 2 ^ w)
  rw [← BitVec.toInt_eq_toNat_bmod] at this
  rw [show (2 : Int) ^ w = (2 ^ w : Nat) by push_cast; rfl, this]
  exact_mod_cast Nat.mod_eq_of_lt b.isLt

/-- Settles O2: by the library's two's complement of w bits. -/
theorem resAndOpndOfIntegerTypes : Obligations.ResAndOpndOfIntegerTypes := by
  intro t v x
  have half (b : BitVec t.width) : -(2 ^ (t.width - 1)) ≤ b.toInt ∧ b.toInt < 2 ^ (t.width - 1) := ⟨b.le_toInt, b.toInt_lt⟩
  refine ⟨fun h => ?_, fun h => toNat_res h v, ?_, fun h => opnd_signed h x ▸ half _, fun h => ?_⟩
  · rw [toInt_res h]
    refine ⟨?_, half _⟩
    rw [toInt_emod, BitVec.toNat_ofInt, Int.toNat_of_nonneg (Int.emod_nonneg _ (by positivity))]
    push_cast
    rfl
  · cases h : t.signed with
    | true =>
      rw [opnd_signed h, toInt_emod, BitVec.toNat_ofNat]
      push_cast
      rfl
    | false => rw [opnd_unsigned h, Int.emod_emod_of_dvd _ dvd_rfl]
  · rw [opnd_unsigned h]
    exact ⟨Int.emod_nonneg _ (by positivity), Int.emod_lt_of_pos _ (by positivity)⟩

/-! ### Arithmetic and comparisons (R225) -/

/-- Settles O1: each operation delivers Res of its function of the operands. -/
theorem scalarArithmeticResults : Obligations.ScalarArithmeticResults := by
  intro t a b c d s x y truth
  have value (f : Int → Int → Int) {i : Instr} {v : Int} (h : exec i s = .next (s.intOp t d f a b)) (e : f x y = v) :
      Delivers i s d 0 (.scalar (res t v)) := e ▸ deliver_delivers h
  have compare (f : Int → Int → Bool) {i : Instr} {p : Prop} [Decidable p] (h : exec i s = .next (s.cmpOp t d f a b))
      (e : f x y = decide p) : Delivers i s d 0 (truth (decide p)) := e ▸ deliver_delivers h
  refine ⟨value _ rfl rfl, value _ rfl rfl, value _ rfl rfl, value _ rfl rfl, ?abs, value _ rfl (min_def ..), value _ rfl (max_def ..),
    compare _ rfl (beq_eq_decide ..), compare _ rfl ?ne, compare _ rfl rfl, compare _ rfl rfl, deliver_delivers rfl, deliver_delivers rfl⟩
  case abs =>
    have magnitude : ((x.natAbs : Int)) = if x < 0 then -x else x := by split <;> omega
    exact magnitude ▸ deliver_delivers rfl
  case ne => simp [bne, beq_eq_decide]

/-! ### Bitwise operations, shifts and rotation (R225) -/

/-- Res of a pattern extends its low w bits by the type. -/
theorem getLsbD_res {t : Ty} {j : Nat} (hj : j < t.width) (n : Nat) : (res t n).getLsbD j = n.testBit j := by
  have word : j < 64 := hj.trans_le t.width_le
  have low : ((n : Int) % 2 ^ t.width).toNat = n % 2 ^ t.width := by
    rw [show (2 : Int) ^ t.width = (2 ^ t.width : Nat) by push_cast; rfl, ← Int.natCast_emod, Int.toNat_natCast]
  unfold res
  rw [low]
  dsimp only
  split
  · rw [getLsbD_ofInt_signedOf t.width_pos word, if_pos hj, Nat.testBit_mod_two_pow, decide_eq_true hj, Bool.true_and]
  · rw [getLsbD_w64 word, Nat.testBit_mod_two_pow, decide_eq_true hj, Bool.true_and]

theorem res_nat_congr {t : Ty} {n k : Nat} (h : ∀ j < t.width, n.testBit j = k.testBit j) : res t n = res t k := by
  refine res_congr ?_
  have : n % 2 ^ t.width = k % 2 ^ t.width := Nat.eq_of_testBit_eq fun j => by
    simp only [Nat.testBit_mod_two_pow]
    by_cases hj : j < t.width <;> simp [hj, h]
  exact_mod_cast (Int.natCast_modEq_iff.2 this : (n : Int) ≡ k [ZMOD (2 ^ t.width : Nat)])

/-- Res of a pattern has the low bits of the pattern. -/
theorem hasBits_res (t : Ty) (x : W64) : HasBits t (res t x.toNat) x.getLsbD :=
  ⟨fun _ hj => getLsbD_res hj _, res_nat_congr fun _ hj => (getLsbD_res hj _).symm⟩

theorem bitOp_hasBits {i : Instr} {s : State} {t : Ty} {d : Dst} {f : W64 → W64 → W64} {a b : Src} {g : Nat → Bool}
    (h : exec i s = .next (s.bitOp t d f a b)) (e : ∀ j < t.width, (f (s.sc a) (s.sc b)).getLsbD j = g j) :
    ∃ v, Delivers i s d 0 (.scalar v) ∧ HasBits t v g :=
  ⟨_, deliver_delivers h, fun j hj => (getLsbD_res hj _).trans (e j hj), (hasBits_res t _).2⟩

section
variable (t : Ty) (x y : W64) {j : Nat} (hj : j < t.width)

theorem testBit_pat (i : Nat) : (pat t x).testBit i = (decide (i < t.width) && x.getLsbD i) := Nat.testBit_mod_two_pow ..

include hj

theorem getLsbD_shlBits : (shlBits t x y).getLsbD j = (decide (shiftCount t y ≤ j) && x.getLsbD (j - shiftCount t y)) := by
  rw [shlBits, getLsbD_w64 (hj.trans_le t.width_le), Nat.testBit_mul_two_pow, testBit_pat, decide_eq_true (by omega : j - _ < t.width),
    Bool.true_and]

theorem getLsbD_shrBits : (shrBits t x y).getLsbD j = (decide (j + shiftCount t y < t.width) && x.getLsbD (j + shiftCount t y)) := by
  rw [shrBits, getLsbD_w64 (hj.trans_le t.width_le), Nat.testBit_div_two_pow, testBit_pat, Nat.add_comm]

theorem getLsbD_sraBits :
    (sraBits t x y).getLsbD j = x.getLsbD (if j + shiftCount t y < t.width then j + shiftCount t y else t.width - 1) := by
  have word := hj.trans_le t.width_le
  have shifted : sraBits t x y = ((BitVec.ofNat t.width x.toNat).sshiftRight (shiftCount t y)).signExtend 64 := by
    rw [sraBits, signedOf_eq_toInt t.width_pos, BitVec.signExtend, BitVec.toInt_sshiftRight, Int.shiftRight_eq_div_pow]
    norm_cast
  rw [shifted, BitVec.getLsbD_signExtend, BitVec.getLsbD_sshiftRight]
  have last : t.width - 1 < t.width := by omega
  by_cases low : j + shiftCount t y < t.width
  · simp [hj, word, low, Nat.add_comm, BitVec.getLsbD]
  · simp [hj, word, low, Nat.add_comm, BitVec.msb_eq_getLsbD_last, last, BitVec.getLsbD]

theorem getLsbD_rolBits : (rolBits t x y).getLsbD j = x.getLsbD ((j + t.width - shiftCount t y) % t.width) := by
  have less : shiftCount t y < t.width := Nat.mod_lt _ t.width_pos
  rw [rolBits, getLsbD_w64 (hj.trans_le t.width_le)]
  generalize shiftCount t y = k at less ⊢
  have wrapped : pat t x / 2 ^ (t.width - k) < 2 ^ k := by
    rw [Nat.div_lt_iff_lt_mul (by positivity), ← pow_add, Nat.add_sub_cancel' less.le]
    exact Nat.mod_lt _ (by positivity)
  rw [Nat.mul_comm, Nat.testBit_two_pow_mul_add _ wrapped]
  split
  · next low =>
    rw [Nat.testBit_div_two_pow, testBit_pat, decide_eq_true (by omega), Bool.true_and, Nat.mod_eq_of_lt (by omega),
      Nat.add_comm, Nat.add_sub_assoc less.le, Nat.add_comm]
  · next high =>
    rw [testBit_pat, decide_eq_true (by omega), Bool.true_and, Nat.mod_eq_sub_mod (by omega), Nat.mod_eq_of_lt (by omega)]
    congr 1
    omega

end

/-! ### Counts and the reversed pattern (R225) -/

theorem clzBits_le (w p : Nat) : clzBits w p ≤ w := by
  unfold clzBits
  split <;> omega

theorem clzBits_bounds {w p : Nat} (hp : p < 2 ^ w) : p < 2 ^ (w - clzBits w p) ∧ (clzBits w p < w → 2 ^ (w - 1 - clzBits w p) ≤ p) := by
  unfold clzBits
  split
  · next zero => simp [zero]
  · next pos =>
    have top : p.log2 < w := (Nat.log2_lt pos).2 hp
    rw [show w - (w - 1 - p.log2) = p.log2 + 1 by omega, show w - 1 - (w - 1 - p.log2) = p.log2 by omega]
    exact ⟨Nat.lt_log2_self, fun _ => Nat.log2_self_le pos⟩

theorem ctzBits_le (w p : Nat) : ctzBits w p ≤ w := by
  unfold ctzBits
  cases found : (List.range w).find? fun k => p.testBit k with
  | none => exact le_rfl
  | some k => exact (List.mem_range.1 (List.mem_of_find?_eq_some found)).le

theorem testBit_of_lt_ctzBits {w p j : Nat} (hj : j < ctzBits w p) : p.testBit j = false := by
  have range := hj.trans_le (ctzBits_le w p)
  unfold ctzBits at hj
  cases found : (List.range w).find? fun k => p.testBit k with
  | none => simpa using List.find?_eq_none.1 found j (List.mem_range.2 range)
  | some k =>
    rw [found] at hj
    simpa using (List.find?_range_eq_some.1 found).2.2 j hj

theorem testBit_ctzBits {w p : Nat} (h : ctzBits w p < w) : p.testBit (ctzBits w p) = true := by
  unfold ctzBits at h ⊢
  cases found : (List.range w).find? fun k => p.testBit k with
  | none => simp [found] at h
  | some k => exact List.find?_some found

theorem mod_two_pow_ctzBits (w p : Nat) : p % 2 ^ ctzBits w p = 0 := by
  refine Nat.eq_of_testBit_eq fun j => ?_
  rw [Nat.testBit_mod_two_pow, Nat.zero_testBit]
  by_cases low : j < ctzBits w p
  · simp [testBit_of_lt_ctzBits low]
  · simp [low]

theorem popcBits_eq_card (w p : Nat) : popcBits w p = ((Finset.range w).filter fun j => p.testBit j = true).card := by
  rw [popcBits, Finset.card_def, Finset.filter_val, Finset.range_val, Multiset.range, Multiset.filter_coe, Multiset.coe_card]
  simp

theorem testBit_brevBits (w x : Nat) {j : Nat} (hj : j < w) : (brevBits w x).testBit j = x.testBit (w - 1 - j) := by
  induction w generalizing j with
  | zero => exact absurd hj j.not_lt_zero
  | succ w ih =>
    have last : brevBits (w + 1) x = 2 * brevBits w x + (x.testBit w).toNat := by
      rw [brevBits, List.range_succ, List.foldl_append]
      cases h : x.testBit w <;> simp [brevBits, h]
    rw [last]
    cases j with
    | zero => cases h : x.testBit w <;> simp [h]
    | succ j =>
      rw [Nat.testBit_succ, show (2 * brevBits w x + (x.testBit w).toNat) / 2 = brevBits w x by cases x.testBit w <;> simp <;> omega,
        ih (by omega)]
      congr 1
      omega

/-- Settles O4: bit by bit, with the counts' bounds. -/
theorem scalarBitsShiftsAndCounts : Obligations.ScalarBitsShiftsAndCounts := by
  constructor
  · intro t a b d s x y w k
    refine ⟨bitOp_hasBits rfl ?_, bitOp_hasBits rfl ?_, bitOp_hasBits rfl ?_, bitOp_hasBits rfl ?_,
      bitOp_hasBits rfl fun j hj => getLsbD_shlBits t x y hj, bitOp_hasBits rfl fun j hj => getLsbD_shrBits t x y hj,
      bitOp_hasBits rfl fun j hj => getLsbD_sraBits t x y hj, bitOp_hasBits rfl fun j hj => getLsbD_rolBits t x y hj⟩
    · exact fun j _ => BitVec.getLsbD_and ..
    · exact fun j _ => BitVec.getLsbD_or ..
    · exact fun j _ => BitVec.getLsbD_xor ..
    · intro j hj
      simp [hj.trans_le t.width_le, x, y]
  · intro t a d s w p
    have hp : p < 2 ^ w := Nat.mod_lt _ (by positivity)
    refine ⟨⟨clzBits w p, deliver_delivers rfl, clzBits_le w p, clzBits_bounds hp⟩,
      ⟨ctzBits w p, deliver_delivers rfl, ctzBits_le w p, mod_two_pow_ctzBits w p, testBit_ctzBits⟩,
      popcBits_eq_card w p ▸ deliver_delivers rfl, _, deliver_delivers rfl, ?_, ?_⟩
    · intro j hj
      exact (getLsbD_res hj _).trans (testBit_brevBits w _ hj)
    · exact res_nat_congr fun j hj => (getLsbD_res hj _).symm

end Sys2Proof.Machine

end

/-! PROOFS. Scalar floating operations, name words and pointers (spec/09, R229 to R234, R100). -/

section

namespace Sys2Proof.Machine

/-- Two fields side by side. -/
theorem toNat_append_add {m n : Nat} (x : BitVec m) (y : BitVec n) : (x ++ y).toNat = x.toNat * 2 ^ n + y.toNat := by
  rw [BitVec.toNat_append, ← Nat.shiftLeft_add_eq_or_of_lt y.isLt, Nat.shiftLeft_eq]

theorem toNat_extractLow {x : W64} {n : Nat} (h : x.toNat < 2 ^ n) : (x.extractLsb' 0 n).toNat = x.toNat := by
  simpa using Nat.mod_eq_of_lt h

/-! ### Name words (R234) -/

theorem nameh_word {x y z : W64} (hx : x.toNat < 2 ^ 32) (hy : y.toNat < 2 ^ 12) (hz : z.toNat < 2 ^ 12) :
    0#8 ++ (x.extractLsb' 0 32 ++ (y.extractLsb' 0 12 ++ z.extractLsb' 0 12)) = w64 (x.toNat * 2 ^ 24 + y.toNat * 2 ^ 12 + z.toNat) := by
  refine BitVec.eq_of_toNat_eq ?_
  rw [toNat_append_add, toNat_append_add, toNat_append_add, toNat_extractLow hx, toNat_extractLow hy, toNat_extractLow hz, w64, BitVec.toNat_ofNat,
    BitVec.toNat_ofNat]
  omega

theorem namel_word {x y z : W64} (hx : x.toNat < 2 ^ 12) (hy : y.toNat < 2 ^ 12) (hz : z.toNat < 2 ^ 16) :
    0#24 ++ (x.extractLsb' 0 12 ++ (y.extractLsb' 0 12 ++ z.extractLsb' 0 16)) = w64 (x.toNat * 2 ^ 28 + y.toNat * 2 ^ 16 + z.toNat) := by
  refine BitVec.eq_of_toNat_eq ?_
  rw [toNat_append_add, toNat_append_add, toNat_append_add, toNat_extractLow hx, toNat_extractLow hy, toNat_extractLow hz, w64, BitVec.toNat_ofNat,
    BitVec.toNat_ofNat]
  omega

theorem exec_nameh (a b c : Src) (d : Dst) (s : State) :
    exec (.nameh a b c d) s = if (s.sc a).toNat ≥ 2 ^ 32 ∨ (s.sc b).toNat > 4095 ∨ (s.sc c).toNat > 4095 then .next (s.fault { cause := .namecfg })
      else .next (s.deliver d (.scalar (0#8 ++ ((s.sc a).extractLsb' 0 32 ++ ((s.sc b).extractLsb' 0 12 ++ (s.sc c).extractLsb' 0 12))))) := rfl

theorem exec_namel (a b c : Src) (d : Dst) (s : State) :
    exec (.namel a b c d) s = if (s.sc a).toNat > 4095 ∨ (s.sc b).toNat > 4095 ∨ (s.sc c).toNat > 65535 then .next (s.fault { cause := .namecfg })
      else .next (s.deliver d (.scalar (0#24 ++ ((s.sc a).extractLsb' 0 12 ++ ((s.sc b).extractLsb' 0 12 ++ (s.sc c).extractLsb' 0 16))))) := rfl

/-- Settles O9: the fields side by side do not meet. -/
theorem nameWordsAreBuilt : Obligations.NameWordsAreBuilt := by
  intro a b c d s x y z
  refine ⟨fun bad => ?_, fun hx hy hz => deliver_delivers ?_, fun bad => ?_, fun hx hy hz => deliver_delivers ?_⟩
  · rw [Faults, exec_nameh, if_pos (by omega)]
  · rw [exec_nameh, if_neg (by omega), nameh_word (by omega) (by omega) (by omega)]
    rfl
  · rw [Faults, exec_namel, if_pos (by omega)]
  · rw [exec_namel, if_neg (by omega), namel_word (by omega) (by omega) (by omega)]
    rfl

/-! ### Pointers (R97, R100) -/

theorem ptrKind_eq (p : W64) : ptrKind p = if p.toNat / 2 ^ 60 = 0 then 0 else if p.toNat / 2 ^ 60 = 12 then 1
      else if p.toNat / 2 ^ 60 = 13 then 2 else if p.toNat / 2 ^ 60 = 14 then 3 else 7 := by
  have window : p.toNat / 2 ^ 60 = (p.extractLsb' 60 4).toNat := by
    rw [BitVec.extractLsb'_toNat, Nat.shiftRight_eq_div_pow]
    have := p.isLt
    omega
  rw [window]
  unfold ptrKind
  generalize p.extractLsb' 60 4 = n
  revert n
  decide

/-- The fields of a pointer of window n: the owner key above the offset. -/
theorem toNat_keyed (n : BitVec 4) (key : BitVec 20) {off : W64} (h : off.toNat < 2 ^ 40) :
    (n ++ (key ++ off.extractLsb' 0 40)).toNat = n.toNat * 2 ^ 60 + key.toNat * 2 ^ 40 + off.toNat := by
  rw [toNat_append_add, toNat_append_add, toNat_extractLow h]
  ring

/-- The fields of a field-shared pointer: the ordinal above the offset. -/
theorem toNat_ordinal {ord : Nat} {off : W64} (ho : ord < 64) (h : off.toNat < 2 ^ 54) :
    (0xE#4 ++ (BitVec.ofNat 6 ord ++ off.extractLsb' 0 54)).toNat = 14 * 2 ^ 60 + ord * 2 ^ 54 + off.toNat := by
  rw [toNat_append_add, toNat_append_add, toNat_extractLow h, BitVec.toNat_ofNat, BitVec.toNat_ofNat]
  omega

theorem extractLsb'_key {p : W64} {key : BitVec 20} (h : p.toNat / 2 ^ 40 % 2 ^ 20 = key.toNat) : p.extractLsb' 40 20 = key :=
  BitVec.eq_of_toNat_eq (by rw [BitVec.extractLsb'_toNat, Nat.shiftRight_eq_div_pow, h])

/-- A pointer passes the checks for one byte where each of them does. -/
theorem ptrCheck_one {x : Access} {p : W64} (kind : ptrKind p ≠ 7) (zero : zeroBitsOk p = true) (key : keyOk x p = true)
    (ord : ordinalOk x p = true) (range : ptrOff p < ptrLimit x p) : ptrCheck x p 1 1 = 0 := by
  have range' : rangeOk x p 1 = true := decide_eq_true range
  simp [ptrCheck, kind, zero, key, ord, range', Nat.mod_one]

section
variable {x : Access} {p off : W64}

theorem plain_passes (h : off.toNat < 2 ^ 56) : ptrCheck x off 1 1 = 0 ∧ ptrKind off = 0 ∧ ptrOff off = off.toNat := by
  have kind : ptrKind off = 0 := by rw [ptrKind_eq, if_pos (by omega)]
  have place : ptrOff off = off.toNat := by simp [ptrOff, kind, bits, bitsOf]; omega
  have zero : zeroBitsOk off = true := by simp [zeroBitsOk, kind, bits, bitsOf]; omega
  exact ⟨ptrCheck_one (by omega) zero (by simp [keyOk, kind]) (by simp [ordinalOk, kind]) (by simpa [ptrLimit, kind, place] using h), kind, place⟩

theorem private_passes (fields : p.toNat = 12 * 2 ^ 60 + x.key.toNat * 2 ^ 40 + off.toNat) (low : off.toNat < 2 ^ 16) (lim : off.toNat < x.privkb * 1024) :
    ptrCheck x p 1 1 = 0 ∧ ptrKind p = 1 ∧ ptrOff p = off.toNat := by
  have := x.key.isLt
  have kind : ptrKind p = 1 := by rw [ptrKind_eq, if_neg (by omega), if_pos (by omega)]
  have place : ptrOff p = off.toNat := by simp [ptrOff, kind, bits, bitsOf]; omega
  have zero : zeroBitsOk p = true := by simp [zeroBitsOk, kind, bits, bitsOf]; omega
  have key : keyOk x p = true := by simpa [keyOk, kind] using extractLsb'_key (by omega)
  exact ⟨ptrCheck_one (by omega) zero key (by simp [ordinalOk, kind]) (by simpa [ptrLimit, kind, place] using lim), kind, place⟩

theorem scratch_passes (fields : p.toNat = 13 * 2 ^ 60 + x.key.toNat * 2 ^ 40 + off.toNat) (lim : off.toNat < min (x.scrkb * 1024) 786432) :
    ptrCheck x p 1 1 = 0 ∧ ptrKind p = 2 ∧ ptrOff p = off.toNat := by
  have := x.key.isLt
  have kind : ptrKind p = 2 := by rw [ptrKind_eq, if_neg (by omega), if_neg (by omega), if_pos (by omega)]
  have place : ptrOff p = off.toNat := by simp [ptrOff, kind, bits, bitsOf]; omega
  have zero : zeroBitsOk p = true := by simp [zeroBitsOk, kind, bits, bitsOf]; omega
  have key : keyOk x p = true := by simpa [keyOk, kind] using extractLsb'_key (by omega)
  exact ⟨ptrCheck_one (by omega) zero key (by simp [ordinalOk, kind]) (by simpa [ptrLimit, kind, place] using lim), kind, place⟩

theorem shared_passes {ord : Nat} (fields : p.toNat = 14 * 2 ^ 60 + ord * 2 ^ 54 + off.toNat) (ho : ord < 64) (hf : ord < x.nfields)
    (lim : off.toNat < 10485760) : ptrCheck x p 1 1 = 0 ∧ ptrKind p = 3 ∧ ptrOff p = off.toNat := by
  have kind : ptrKind p = 3 := by rw [ptrKind_eq, if_neg (by omega), if_neg (by omega), if_neg (by omega), if_pos (by omega)]
  have place : ptrOff p = off.toNat := by simp [ptrOff, kind, bits, bitsOf]; omega
  have zero : zeroBitsOk p = true := by simp [zeroBitsOk, kind, bits, bitsOf]; omega
  have ordinal : ordinalOk x p = true := by
    have : bits p 59 54 = ord := by simp [bits, bitsOf]; omega
    simp [ordinalOk, this, hf]
  exact ⟨ptrCheck_one (by omega) zero (by simp [keyOk, kind]) ordinal (by simpa [ptrLimit, kind, place] using lim), kind, place⟩

/-- R100: what MKWIN makes passes the checks for one byte. -/
theorem mkwin_passes {ord : Nat} {k : BitVec 2} (ho : ord < 64) (hf : ord < x.nfields) (hp : x.privkb ≤ 64)
    (h : mkwin x ord k off = some p) : ptrCheck x p 1 1 = 0 ∧ ptrKind p = k.toNat ∧ ptrOff p = off.toNat := by
  have last : ∀ k : BitVec 2, k ≠ 0#2 → k ≠ 1#2 → k ≠ 2#2 → k.toNat = 3 := by decide
  unfold mkwin at h
  split at h <;> simp only [Option.ite_none_right_eq_some, Option.some.injEq] at h <;> obtain ⟨lim, rfl⟩ := h
  · exact plain_passes lim
  · exact private_passes (toNat_keyed 0xC#4 x.key (by omega)) (by omega) lim
  · exact scratch_passes (toNat_keyed 0xD#4 x.key (by omega)) lim
  · next h0 h1 h2 => exact last k h0 h1 h2 ▸ shared_passes (toNat_ordinal ho (by omega)) ho hf lim

end

theorem exec_spcvTooff (k : BitVec 2) (a : Src) (d : Dst) (s : State) : exec (.spcvTooff k a d) s = execSpcvTooff k a d s := rfl

/-- Settles O10: SPQ, SPCV and MKWIN branch by the checks; the pointers made pass them. -/
theorem windowOperations : Obligations.WindowOperations := by
  constructor
  · intro k a d s p n
    have made {q : W64} (h : mkwin s.acc (s.fieldOrdinal s.iss.tile) k p = some q) : s.makeWin k a d = s.deliver d (.scalar q) := by
      rw [State.makeWin, h]
    have refused (h : mkwin s.acc (s.fieldOrdinal s.iss.tile) k p = none) : s.makeWin k a d = s.fault { cause := .winfault, addr := p } := by
      rw [State.makeWin, h]
    refine ⟨deliver_delivers rfl, fun h hk => deliver_delivers ?_, fun h hk => ?_, fun h => ?_,
      fun q h => ⟨deliver_delivers (congrArg _ (made h)), deliver_delivers (congrArg _ (made h))⟩,
      fun h => ⟨congrArg _ (refused h), congrArg _ (refused h)⟩⟩
    · rw [exec_spcvTooff, execSpcvTooff]
      simp only [show ptrCheck s.acc (s.sc a) 1 1 = 0 from h]
      exact if_pos hk
    · rw [Faults, exec_spcvTooff, execSpcvTooff]
      simp only [show ptrCheck s.acc (s.sc a) 1 1 = 0 from h]
      exact if_neg hk
    · rw [Faults, exec_spcvTooff, execSpcvTooff]
      split
      · next zero => exact absurd zero h
      · rfl
  · exact fun x ord k off p => mkwin_passes

/-! ### Scalar floating operations (R229 to R231) -/

theorem exec_fcvt (t : Ty) (a b c : Src) (d : Dst) (s : State) : exec (.fcvt t a b c d) s = execFcvt t a b c d s := rfl

theorem tyRange_eq (t : Ty) :
    tyRange t = (if t.signed then -(2 ^ (t.width - 1)) else 0, if t.signed then 2 ^ (t.width - 1) - 1 else 2 ^ t.width - 1) := by
  unfold tyRange
  split <;> rfl

/-- Settles O6: each operation delivers its code with its flags; FCVT by the destination that C names. -/
theorem scalarFloatOperations : Obligations.ScalarFloatOperations := by
  constructor
  · intro t a b c d s f x y z out
    exact ⟨raise_delivers rfl, raise_delivers rfl, raise_delivers rfl, raise_delivers rfl, raise_delivers rfl, raise_delivers rfl, raise_delivers rfl,
      deliver_delivers rfl⟩
  · intro t a b c d s n k w x rnd
    refine ⟨fun bad => ?_, fun hn hk h5 h6 => raise_delivers ?_, fun hn h1 h8 => raise_delivers ?_⟩
    · rw [Faults, exec_fcvt]
      exact if_pos bad
    · rw [exec_fcvt]
      refine (if_neg ?_).trans (if_pos hk)
      rintro (h | h | ⟨-, h | h⟩)
      · omega
      · omega
      · exact h5 h
      · exact h6 h
    · rw [exec_fcvt]
      refine (if_neg ?_).trans ((if_neg (by omega)).trans ?_)
      · rintro (h | h | ⟨h, -⟩) <;> omega
      · dsimp only
        rw [tyRange_eq]
        rfl

end Sys2Proof.Machine

end

/-! PROOFS. Float codes and the order of their values (spec/06, R155 to R157, R169, R230). -/

section

namespace Sys2Proof.Machine

/-! ### Values and their order -/

@[simp] theorem Fl.value_fin (s : Bool) (m : Nat) (e : Int) : (Fl.fin s m e).value = (if s then -1 else 1) * (m : ℚ) * (2 : ℚ) ^ e := (rfl)

theorem Fl.value_of_mant_zero {s : Bool} {e : Int} : (Fl.fin s 0 e).value = 0 := by simp

theorem Fl.value_negate (x : Fl) : x.negate.value = -x.value := by
  cases x with
  | fin s m e => cases s <;> simp [Fl.negate]
  | _ => simp [Fl.negate, Fl.value]

/-- A value as a signed integer multiple of a power of two not above its own. -/
theorem Fl.value_scaled (s : Bool) (m : Nat) {e e' : Int} (h : e' ≤ e) :
    (Fl.fin s m e).value = ((if s then -((m * 2 ^ (e - e').toNat : Nat) : Int) else (m * 2 ^ (e - e').toNat : Nat) : Int) : ℚ) * (2 : ℚ) ^ e' := by
  have power : (2 : ℚ) ^ e = 2 ^ (e - e').toNat * 2 ^ e' := by
    rw [← zpow_natCast, ← zpow_add₀ two_ne_zero]
    congr 1
    omega
  cases s <;> simp [power] <;> ring

theorem compare_mul_pos {a b : Int} {p : ℚ} (hp : 0 < p) : compare a b = compare ((a : ℚ) * p) (b * p) := by
  rcases lt_trichotomy a b with h | rfl | h
  · rw [compare_lt_iff_lt.2 h, compare_lt_iff_lt.2]
    exact mul_lt_mul_of_pos_right (Int.cast_lt.2 h) hp
  · simp
  · rw [compare_gt_iff_gt.2 h, compare_gt_iff_gt.2]
    exact mul_lt_mul_of_pos_right (Int.cast_lt.2 h) hp

/-- The comparison of two numbers is that of their values. -/
theorem cmpFl_fin (s t : Bool) (m k : Nat) (e i : Int) : cmpFl (.fin s m e) (.fin t k i) = compare (Fl.fin s m e).value (Fl.fin t k i).value := by
  rw [Fl.value_scaled s m (min_le_left e i), Fl.value_scaled t k (min_le_right e i), ← compare_mul_pos (by positivity)]
  rfl

/-! ### Codes (R155, R157) -/

/-- An encoding has the width of its format. -/
theorem unpack_mod_width (f : Fmt) (x : Nat) : unpack f (x % 2 ^ f.width) = unpack f x := by
  have w : 2 ^ f.width = 2 ^ f.m * (2 ^ f.e * 2) := by rw [Fmt.width, ← pow_succ, ← pow_add]; congr 1; omega
  have fr : x % 2 ^ f.width % 2 ^ f.m = x % 2 ^ f.m := by rw [w, Nat.mod_mul_right_mod]
  have ex : x % 2 ^ f.width / 2 ^ f.m % 2 ^ f.e = x / 2 ^ f.m % 2 ^ f.e := by rw [w, Nat.mod_mul_right_div_self, Nat.mod_mul_right_mod]
  have sg : x % 2 ^ f.width / 2 ^ (f.e + f.m) % 2 = x / 2 ^ (f.e + f.m) % 2 := by
    rw [w, ← mul_assoc, ← pow_add, Nat.add_comm f.m, Nat.mod_mul_right_div_self, Nat.mod_mod]
  unfold unpack
  rw [fr, ex, sg]

/-- The fields of an encoding: sign, exponent and fraction. -/
theorem code_fields (f : Fmt) (x : Nat) :
    x % 2 ^ f.width = (if x / 2 ^ (f.e + f.m) % 2 == 1 then 2 ^ (f.e + f.m) else 0) + x / 2 ^ f.m % 2 ^ f.e * 2 ^ f.m + x % 2 ^ f.m := by
  have w : 2 ^ f.width = 2 ^ f.m * 2 ^ f.e * 2 := by rw [Fmt.width, ← pow_add, ← pow_succ]; congr 1; omega
  have sign : (if x / 2 ^ (f.e + f.m) % 2 == 1 then 2 ^ (f.e + f.m) else 0) = 2 ^ f.m * 2 ^ f.e * (x / (2 ^ f.m * 2 ^ f.e) % 2) := by
    rw [pow_add, Nat.mul_comm (2 ^ f.e)]
    rcases Nat.mod_two_eq_zero_or_one (x / (2 ^ f.m * 2 ^ f.e)) with h | h <;> simp [h]
  rw [w, Nat.mod_mul, Nat.mod_mul, sign, Nat.mul_comm (2 ^ f.m) (x / 2 ^ f.m % 2 ^ f.e)]
  omega

section
variable {f : Fmt} (top : f.top = .ieee) {x : Nat}
include top

theorem code_of_unpack_inf {s : Bool} (h : unpack f x = .inf s) : x % 2 ^ f.width = withSign f s f.infCode := by
  have fields := code_fields f x
  simp only [unpack, top, and_true, reduceCtorEq, false_and, and_false, if_false] at h
  split at h
  · next ex =>
    split at h
    · next fr =>
      cases h
      rw [fields, ex, fr, withSign, Fmt.infCode]
      ring
    · cases h
  · split at h <;> cases h

theorem code_of_unpack_nan {s q : Bool} {fr m : Nat} (h : unpack f x = .nan s fr m q) :
    m = f.m ∧ fr < 2 ^ f.m ∧ x % 2 ^ f.width = withSign f s (f.infCode + fr) := by
  have fields := code_fields f x
  simp only [unpack, top, and_true, reduceCtorEq, false_and, and_false, if_false] at h
  split at h
  · next ex =>
    split at h
    · cases h
    · cases h
      refine ⟨rfl, Nat.mod_lt _ (by positivity), ?_⟩
      rw [fields, ex, withSign, Fmt.infCode]
      ring
  · split at h <;> cases h

end

/-! ### FMIN and FMAX (R169, R230) -/

/-- A fraction with the quiet bit set. -/
theorem or_quietBit {m fr : Nat} (hm : 1 ≤ m) (h : fr < 2 ^ m) : fr ||| 2 ^ (m - 1) = 2 ^ (m - 1) ||| fr % 2 ^ (m - 1) := by
  refine Nat.eq_of_testBit_eq fun j => ?_
  simp only [Nat.testBit_or, Nat.testBit_two_pow, Nat.testBit_mod_two_pow]
  by_cases low : j < m - 1
  · simp [low, Nat.ne_of_gt low]
  · by_cases last : m - 1 = j
    · simp [last]
    · simp [low, last, Nat.testBit_lt_two_pow (h.trans_le (Nat.pow_le_pow_right (by decide) (by omega : m ≤ j)))]

theorem withSign_eq_mul (f : Fmt) (s : Bool) (k : Nat) : ∃ n, ∀ fr, withSign f s (k * 2 ^ f.m + fr) = 2 ^ f.m * n + fr := by
  refine ⟨(if s then 2 ^ f.e else 0) + k, fun fr => ?_⟩
  unfold withSign
  split <;> ring

/-- A NaN quieted: its code with the quiet bit set. -/
theorem nanTo_own {f : Fmt} (top : f.top = .ieee) (hm : 1 ≤ f.m) {s : Bool} {fr : Nat} (h : fr < 2 ^ f.m) :
    nanTo f s fr f.m = withSign f s (f.infCode + fr) ||| 2 ^ (f.m - 1) := by
  obtain ⟨n, e⟩ := withSign_eq_mul f s (2 ^ f.e - 1)
  have quiet : 2 ^ (f.m - 1) ||| fr % 2 ^ (f.m - 1) < 2 ^ f.m := by
    rw [← or_quietBit hm h]
    exact Nat.or_lt_two_pow h (Nat.pow_lt_pow_right (by decide) (by omega))
  simp only [nanTo, top, ge_iff_le, le_refl, if_true, Nat.sub_self, pow_zero, Nat.div_one, Fmt.infCode]
  rw [e, e, Nat.two_pow_add_eq_or_of_lt quiet, Nat.two_pow_add_eq_or_of_lt h, Nat.or_assoc, or_quietBit hm h]

theorem belowFl_fin (s t : Bool) (m k : Nat) (e i : Int) :
    belowFl (.fin s m e) (.fin t k i) = (decide ((Fl.fin s m e).value < (Fl.fin t k i).value) || (m == 0 && k == 0 && s && !t)) := by
  unfold belowFl
  rw [cmpFl_fin]
  split
  · next lt => simp [compare_lt_iff_lt.1 lt, -Fl.value_fin]
  · next gt =>
    have above := compare_gt_iff_gt.1 gt
    by_cases zero : m = 0 ∧ k = 0
    · obtain ⟨rfl, rfl⟩ := zero
      simp at above
    · have : (m == 0 && k == 0) = false := by simpa using zero
      simp [this, not_lt.2 above.le, -Fl.value_fin]
  · next eq => simp [(compare_eq_iff_eq.1 eq).not_lt, Fl.isZero, Fl.neg, -Fl.value_fin]

section
variable {f : Fmt} {x y : Nat}

/-- Of two numbers the one that is below the other. -/
theorem fminmax_numbers (hx : (unpack f x).isNan = false) (hy : (unpack f y).isNan = false) (g : Bool) :
    (fminmax f g x y).1 = if (if g then belowFl (unpack f x) (unpack f y) else belowFl (unpack f y) (unpack f x))
      then y % 2 ^ f.width else x % 2 ^ f.width := by
  cases g <;> simp [fminmax, hx, hy]

theorem fminmax_flags (g : Bool) : (fminmax f g x y).2 = if (unpack f x).isSnan || (unpack f y).isSnan then Fp.nv else 0 := by
  unfold fminmax
  dsimp only
  (repeat' split) <;> simp_all

theorem fminmax_nan_right (hx : (unpack f x).isNan = false) (hy : (unpack f y).isNan = true) (g : Bool) :
    (fminmax f g x y).1 = x % 2 ^ f.width := by
  simp [fminmax, hx, hy]

theorem fminmax_nan_left (hx : (unpack f x).isNan = true) (hy : (unpack f y).isNan = false) (g : Bool) :
    (fminmax f g x y).1 = y % 2 ^ f.width := by
  simp [fminmax, hx, hy]

theorem Fl.exists_of_isNan {u : Fl} (h : u.isNan = true) : ∃ s fr m q, u = .nan s fr m q := by
  cases u with
  | nan s fr m q => exact ⟨s, fr, m, q, rfl⟩
  | _ => simp [Fl.isNan] at h

theorem fminmax_nan_both (top : f.top = .ieee) (hm : 1 ≤ f.m) (hx : (unpack f x).isNan = true) (hy : (unpack f y).isNan = true) (g : Bool) :
    (fminmax f g x y).1 = x % 2 ^ f.width ||| 2 ^ (f.m - 1) := by
  obtain ⟨s, fr, m, q, e⟩ := Fl.exists_of_isNan hx
  obtain ⟨rfl, small, code⟩ := code_of_unpack_nan top e
  rw [code, ← nanTo_own top hm small]
  simp [fminmax, hy, nanResult, e]
  rfl

/-- Codes of one infinity. -/
theorem code_of_same_inf (top : f.top = .ieee) {s : Bool} (hx : unpack f x = .inf s) (hy : unpack f y = .inf s) : x % 2 ^ f.width = y % 2 ^ f.width := by
  rw [code_of_unpack_inf top hx, code_of_unpack_inf top hy]

end

/-- Nothing is below −∞, and it is below every other number. -/
theorem belowFl_negInf {v : Fl} (h : v.isNan = false) : belowFl v (.inf true) = false ∧ belowFl (.inf true) v = !decide (v = .inf true) := by
  cases v with
  | nan => cases h
  | inf t => cases t <;> simp [belowFl, cmpFl, Fl.isZero]
  | fin => simp [belowFl, cmpFl]

/-- +∞ is below nothing, and every other number is below it. -/
theorem belowFl_posInf {v : Fl} (h : v.isNan = false) : belowFl (.inf false) v = false ∧ belowFl v (.inf false) = !decide (v = .inf false) := by
  cases v with
  | nan => cases h
  | inf t => cases t <;> simp [belowFl, cmpFl, Fl.isZero]
  | fin => simp [belowFl, cmpFl]

section
variable {f : Fmt} {x y : Nat} (hx : (unpack f x).isNan = false) (hy : (unpack f y).isNan = false)
include hx hy

/-- Where an infinity is the least or the greatest operand, FMIN and FMAX pick by it. -/
theorem fminmax_ordered (top : f.top = .ieee) (h : unpack f x = .inf true ∨ unpack f y = .inf false) :
    (fminmax f false x y).1 = x % 2 ^ f.width ∧ (fminmax f true x y).1 = y % 2 ^ f.width := by
  rw [fminmax_numbers hx hy, fminmax_numbers hx hy]
  rcases h with u | v
  · obtain ⟨notBelow, below⟩ := belowFl_negInf hy
    rw [u, notBelow, below]
    by_cases same : unpack f y = .inf true
    · simp [same, code_of_same_inf top u same]
    · simp [same]
  · obtain ⟨notBelow, below⟩ := belowFl_posInf hx
    rw [v, notBelow, below]
    by_cases same : unpack f x = .inf false
    · simp [same, code_of_same_inf top same v]
    · simp [same]

theorem fminmax_reversed (top : f.top = .ieee) (h : unpack f x = .inf false ∨ unpack f y = .inf true) :
    (fminmax f false x y).1 = y % 2 ^ f.width ∧ (fminmax f true x y).1 = x % 2 ^ f.width := by
  rw [fminmax_numbers hx hy, fminmax_numbers hx hy]
  rcases h with u | v
  · obtain ⟨notBelow, below⟩ := belowFl_posInf hy
    rw [u, notBelow, below]
    by_cases same : unpack f y = .inf false
    · simp [same, code_of_same_inf top u same]
    · simp [same]
  · obtain ⟨notBelow, below⟩ := belowFl_negInf hx
    rw [v, notBelow, below]
    by_cases same : unpack f x = .inf true
    · simp [same, code_of_same_inf top same v]
    · simp [same]

theorem fminmax_picks (g : Bool) : (fminmax f g x y).1 = x % 2 ^ f.width ∨ (fminmax f g x y).1 = y % 2 ^ f.width := by
  rw [fminmax_numbers hx hy]
  exact (ite_eq_or_eq _ _ _).symm

end

theorem Fl.exists_of_finite {u : Fl} (h : u.finite = true) : ∃ s m e, u = .fin s m e := by
  cases u with
  | fin s m e => exact ⟨s, m, e, rfl⟩
  | _ => cases h

theorem Fl.exists_of_isZero {u : Fl} (h : u.isZero = true) : ∃ s e, u = .fin s 0 e := by
  cases u with
  | fin s m e => exact ⟨s, e, by rw [beq_iff_eq.1 h]⟩
  | _ => cases h

/-- What is below has the lesser value, the other the greater. -/
theorem value_pick {u v : Fl} (hu : u.finite = true) (hv : v.finite = true) :
    (if belowFl u v then u else v).value = min u.value v.value ∧ (if belowFl u v then v else u).value = max u.value v.value := by
  obtain ⟨s, m, e, rfl⟩ := Fl.exists_of_finite hu
  obtain ⟨t, k, i, rfl⟩ := Fl.exists_of_finite hv
  rw [belowFl_fin]
  by_cases zero : m = 0 ∧ k = 0
  · obtain ⟨rfl, rfl⟩ := zero
    cases s <;> cases t <;> simp
  · have : (m == 0 && k == 0) = false := by simpa using zero
    by_cases lt : (Fl.fin s m e).value < (Fl.fin t k i).value
    · simp [lt, min_eq_left lt.le, max_eq_right lt.le, -Fl.value_fin]
    · simp [this, lt, min_eq_right (not_lt.1 lt), max_eq_left (not_lt.1 lt), -Fl.value_fin]

section
variable {f : Fmt} {x y : Nat}

theorem fminmax_values (hx : (unpack f x).finite = true) (hy : (unpack f y).finite = true) :
    (unpack f (fminmax f false x y).1).value = min (unpack f x).value (unpack f y).value ∧
      (unpack f (fminmax f true x y).1).value = max (unpack f x).value (unpack f y).value := by
  have number {u : Fl} (h : u.finite = true) : u.isNan = false := by cases u <;> simp_all [Fl.finite, Fl.isNan]
  rw [fminmax_numbers (number hx) (number hy), fminmax_numbers (number hx) (number hy), apply_ite (unpack f), apply_ite (unpack f),
    unpack_mod_width, unpack_mod_width, min_comm]
  exact ⟨(value_pick hy hx).1, (value_pick hx hy).2⟩

theorem fminmax_zeros (hx : (unpack f x).isZero = true) (hy : (unpack f y).isZero = true) :
    (unpack f (fminmax f false x y).1).neg = ((unpack f x).neg || (unpack f y).neg) ∧
      (unpack f (fminmax f true x y).1).neg = ((unpack f x).neg && (unpack f y).neg) := by
  obtain ⟨s, e, u⟩ := Fl.exists_of_isZero hx
  obtain ⟨t, i, v⟩ := Fl.exists_of_isZero hy
  have nx : (unpack f x).isNan = false := by rw [u]; rfl
  have ny : (unpack f y).isNan = false := by rw [v]; rfl
  rw [fminmax_numbers nx ny, fminmax_numbers nx ny, apply_ite (unpack f), apply_ite (unpack f), unpack_mod_width, unpack_mod_width, u, v,
    belowFl_fin, belowFl_fin]
  cases s <;> cases t <;> simp [Fl.neg]

end

/-! ### FCMP and FCLASS (R230) -/

theorem fcmp_code (f : Fmt) (x y : Nat) :
    (fcmp f x y).1 = if (unpack f x).isNan || (unpack f y).isNan then 8 else match cmpFl (unpack f x) (unpack f y) with | .lt => 1 | .eq => 2 | .gt => 4 := by
  unfold fcmp
  dsimp only
  split
  · rfl
  · cases cmpFl (unpack f x) (unpack f y) <;> rfl

theorem fcmp_flags (f : Fmt) (x y : Nat) : (fcmp f x y).2 = if (unpack f x).isSnan || (unpack f y).isSnan then Fp.nv else 0 := by
  have quiet (u : Fl) (h : u.isNan = false) : u.isSnan = false := by cases u <;> simp_all [Fl.isSnan, Fl.isNan]
  unfold fcmp
  dsimp only
  split
  · rfl
  · next h =>
    simp only [Bool.or_eq_true, not_or, Bool.not_eq_true] at h
    rw [quiet _ h.1, quiet _ h.2]
    split <;> rfl

theorem fclass_oneHot (f : Fmt) (x : Nat) :
    ∃ k, k < 10 ∧ fclass f x = 2 ^ k ∧ ((unpack f x).isNan = true ↔ 8 ≤ k) ∧ ((unpack f x).isInf = true ↔ k = 0 ∨ k = 7) ∧
      ((unpack f x).isZero = true ↔ k = 3 ∨ k = 4) := by
  unfold fclass
  generalize unpack f x = u
  cases u with
  | nan s fr m q => exact ⟨if q then 9 else 8, by cases q <;> simp [Fl.isNan, Fl.isInf, Fl.isZero]⟩
  | inf s => exact ⟨if s then 0 else 7, by cases s <;> simp [Fl.isNan, Fl.isInf, Fl.isZero]⟩
  | fin s m e =>
    by_cases zero : m = 0
    · exact ⟨if s then 3 else 4, by cases s <;> simp [zero, Fl.isNan, Fl.isInf, Fl.isZero]⟩
    · by_cases sub : m < 2 ^ f.m
      · exact ⟨if s then 2 else 5, by cases s <;> simp [zero, sub, Fl.isNan, Fl.isInf, Fl.isZero]⟩
      · exact ⟨if s then 1 else 6, by cases s <;> simp [zero, sub, Fl.isNan, Fl.isInf, Fl.isZero]⟩

/-- Settles O7: FMIN and FMAX by what their operands are, FCMP by the order, FCLASS by the value. -/
theorem floatCompareAndClassAreOneHot : Obligations.FloatCompareAndClassAreOneHot := by
  refine ⟨fun f hf x y => ?_, fun f x y => ⟨fcmp_code f x y, fcmp_flags f x y, fclass_oneHot f x⟩⟩
  have ⟨top, hm⟩ : f.top = .ieee ∧ 1 ≤ f.m := by
    revert f
    decide
  exact ⟨fminmax_flags, fun hx hy => ⟨fminmax_nan_right hx hy _, fminmax_nan_right hx hy _⟩,
    fun hx hy => ⟨fminmax_nan_left hx hy _, fminmax_nan_left hx hy _⟩,
    fun hx hy => ⟨fminmax_nan_both top hm hx hy _, fminmax_nan_both top hm hx hy _⟩,
    fun hx hy => ⟨fminmax_picks hx hy _, fminmax_picks hx hy _, fminmax_ordered hx hy top, fminmax_reversed hx hy top, fminmax_values, fminmax_zeros⟩⟩

end Sys2Proof.Machine

end

/-! PROOFS. The PRIV check, the versions of a name, and what a fault does (R202, R84, R34, R35). -/

section

namespace Sys2Proof.Machine

/-! ### A supervisor operation outside frame 63 (R202, R341) -/

section
variable {b : BitVec 512} {f : Nat}

theorem checkSlot_frame {k : Nat} (hk : k ≠ 7) (terms : Nat) (l : LatchKinds) : checkSlot b f terms l k = checkSlot b 63 terms l k := by
  have : isSupervisor k b = false := by simp [isSupervisor, hk]
  simp only [checkSlot, this, Bool.false_and]

/-- A check that passed. -/
theorem guard_ok {ε α : Type} {c : Prop} [Decidable c] {e : ε} {o : Except ε α} {r : α} (h : (if c then .error e else o) = .ok r) :
    ¬c ∧ o = .ok r := by
  split at h
  · cases h
  · exact ⟨‹_›, h⟩

theorem checkSlot_priv (hf : f ≠ 63) (sup : isSupervisor 7 b = true) {terms : Nat} {l : LatchKinds} {r : Instr × LatchKinds}
    (h : checkSlot b 63 terms l 7 = .ok r) : checkSlot b f terms l 7 = .error .priv := by
  unfold checkSlot at h ⊢
  split at h
  · cases h
  · cases h
  · simp only [sup, bne_self_eq_false, Bool.and_false, Bool.false_eq_true, if_false] at h
    simp only [sup, bne_iff_ne.2 hf, Bool.and_true, if_true]
    obtain ⟨terminal, h⟩ := guard_ok h
    obtain ⟨merge, h⟩ := guard_ok h
    obtain ⟨literal, h⟩ := guard_ok h
    obtain ⟨latch, h⟩ := guard_ok h
    obtain ⟨kind, -⟩ := guard_ok h
    rw [if_neg terminal, if_neg merge, if_neg literal, if_neg latch, if_neg kind]

/-- The slots before slot 7 pass in every frame as in frame 63. -/
theorem checkSlots_priv (hf : f ≠ 63) (sup : isSupervisor 7 b = true) {ks : List Nat} (h7 : 7 ∈ ks) {terms : Nat} {l : LatchKinds}
    {acc r : List (Nat × Instr)} (h : checkSlots b 63 ks terms l acc = .ok r) : checkSlots b f ks terms l acc = .error (7, .priv) := by
  induction ks generalizing terms l acc with
  | nil => cases h7
  | cons k ks ih =>
    rw [checkSlots] at h ⊢
    by_cases hk : k = 7
    · subst hk
      cases passed : checkSlot b 63 terms l 7 with
      | error c => simp [passed] at h
      | ok q => rw [checkSlot_priv hf sup passed]
    · rw [checkSlot_frame hk]
      cases passed : checkSlot b 63 terms l k with
      | error c => simp [passed] at h
      | ok q =>
        rw [passed] at h
        exact ih ((List.mem_cons.1 h7).resolve_left (Ne.symm hk)) h

/-- Settles O34: the check of slot 7 is the only one that sees the frame. -/
theorem supervisorOperationsNeedFrame63 : Obligations.SupervisorOperationsNeedFrame63 := by
  intro b depth f hf present low high pass
  have sup : isSupervisor 7 b = true := by simp [isSupervisor, low, high]
  have h7 : 7 ∈ presentSlots b := by simp [presentSlots, present]
  unfold issueCheck at pass ⊢
  cases checked : checkSlots b 63 (presentSlots b) 0 [] [] with
  | error e => simp [checked] at pass
  | ok l => rw [checkSlots_priv hf sup h7 checked]

end

/-! ### Versions (R84) -/

theorem newer_iff (v n : BitVec 16) : newer v.toNat n.toNat = true ↔ 1 ≤ (v - n).toNat ∧ (v - n).toNat ≤ 32767 := by
  have := n.isLt
  rw [newer, Bool.and_eq_true, decide_eq_true_iff, decide_eq_true_iff, BitVec.toNat_sub, Nat.mod_eq_of_lt this,
    show v.toNat + 65536 - n.toNat = 2 ^ 16 - n.toNat + v.toNat by omega]

theorem NameEntry.accept_first {e : NameEntry} (h : e.newest = none) (v : BitVec 16) : e.accept v = { e with newest := some v, map := 1 } := by
  rw [accept, h]

section
variable {e : NameEntry} {n : BitVec 16} (h : e.newest = some n) (v : BitVec 16)
include h

theorem NameEntry.accepted_iff : e.accepted v = true ↔ (n - v).toNat < 64 ∧ e.map.getLsbD (n - v).toNat = true := by
  rw [accepted, h]
  simp

theorem NameEntry.fresh_iff :
    e.fresh v = true ↔ newer v.toNat n.toNat = true ∨ ((n - v).toNat < 64 ∧ e.map.getLsbD (n - v).toNat = false) := by
  rw [fresh, h]
  simp

theorem NameEntry.accept_newer (hv : newer v.toNat n.toNat = true) :
    e.accept v = { e with newest := some v, map := (e.map <<< (v - n).toNat) ||| 1 } := by
  rw [accept, h]
  exact if_pos hv

theorem NameEntry.accept_older (hv : newer v.toNat n.toNat = false) : e.accept v = { e with map := e.map ||| (1#64 <<< (n - v).toNat) } := by
  rw [accept, h]
  exact if_neg (by simp [hv])

end

/-- A version within 32,767 before the newest that the map has is neither newer nor missing. -/
theorem NameEntry.not_fresh {e : NameEntry} {n w : BitVec 16} (h : e.newest = some n) (old : (n - w).toNat ≤ 32767)
    (bit : (n - w).toNat < 64 → e.map.getLsbD (n - w).toNat = true) : e.fresh w = false := by
  rw [Bool.eq_false_iff, Ne, fresh_iff h, newer_iff]
  rintro (⟨h1, h2⟩ | ⟨near, unset⟩)
  · bv_omega
  · exact absurd ((bit near).symm.trans unset) (by decide)

/-- Settles O42: the map counts the versions up to 63 before the newest. -/
theorem versionsAreAcceptedOnce : Obligations.VersionsAreAcceptedOnce := by
  intro e v hv
  cases newest : e.newest with
  | none =>
    rw [NameEntry.accept_first newest]
    refine ⟨?_, ?_, fun w hw => ?_⟩
    · rw [NameEntry.accepted_iff rfl]
      simp
    · exact NameEntry.not_fresh rfl (by simp) (by simp)
    · simp [NameEntry.accepted, newest] at hw
  | some n =>
    rw [NameEntry.fresh_iff newest] at hv
    cases ahead : newer v.toNat n.toNat with
    | true =>
      rw [NameEntry.accept_newer newest v ahead]
      have gap := (newer_iff v n).1 ahead
      refine ⟨?_, NameEntry.not_fresh rfl (by simp) (by simp), fun w hw near => NameEntry.not_fresh rfl near fun close => ?_⟩
      · rw [NameEntry.accepted_iff rfl]
        simp
      · rw [NameEntry.accepted_iff newest] at hw
        have apart : (v - w).toNat = (v - n).toNat + (n - w).toNat := by bv_omega
        have : (v - w).toNat - (v - n).toNat = (n - w).toNat := by omega
        simp only [BitVec.getLsbD_or, BitVec.getLsbD_shiftLeft, this, hw.2]
        simp [close, show ¬ (v - w).toNat < (v - n).toNat by omega, -BitVec.toNat_sub]
    | false =>
      rw [NameEntry.accept_older newest v ahead]
      have ⟨near, unset⟩ := hv.resolve_left (by simp [ahead])
      have set : (e.map ||| 1#64 <<< (n - v).toNat).getLsbD (n - v).toNat = true := by simp [near, -BitVec.toNat_sub]
      refine ⟨?_, NameEntry.not_fresh newest (by omega) fun _ => set, fun w hw _ => ?_⟩
      · exact (NameEntry.accepted_iff (e := { e with map := e.map ||| 1#64 <<< (n - v).toNat }) newest v).2 ⟨near, set⟩
      · rw [NameEntry.accepted_iff newest] at hw
        exact NameEntry.not_fresh newest (by omega) fun _ => by simp [hw.2, -BitVec.toNat_sub]

/-! ### Faults (R34, R35, R343, R345) -/

/-- A fault that traps, else an abort (R34). -/
theorem State.takeFault_trap {s : State} {t : Nat} {x : OpSet} {i : FaultInfo} (cause : i.cause.trapping = true)
    (vector : ((s.c t).frame x.frame).trapv.getLsbD 20 = true) (tree : ∀ y, (s.c t).inst? x.inst = some y → y.tt = false) :
    s.takeFault t x i = s.takeTrap t x i := by
  rw [takeFault]
  refine if_pos ?_
  cases found : (s.c t).inst? x.inst with
  | none => simp [cause, vector]
  | some y => simp [cause, vector, tree y found]

theorem State.takeFault_abort {s : State} {t : Nat} {x : OpSet} {i : FaultInfo}
    (h : ¬ (i.cause.trapping = true ∧ ((s.c t).frame x.frame).trapv.getLsbD 20 = true ∧ ∀ y, (s.c t).inst? x.inst = some y → y.tt = false)) :
    s.takeFault t x i = s.abortFrame t x.frame x.site i := by
  rw [takeFault]
  refine if_neg fun trap => h ?_
  simp only [Bool.and_eq_true, Bool.not_eq_true'] at trap
  obtain ⟨⟨cause, vector⟩, tree⟩ := trap
  refine ⟨cause, vector, fun y found => ?_⟩
  rwa [found] at tree

section
variable (s : State) (t : Nat) (x : OpSet) (i : FaultInfo)

/-- The set is kept, once for each fault; the first asks for the trap block's entry. -/
theorem State.takeTrap_sets : ((s.takeTrap t x i).c t).sets = (s.c t).sets ++ [{ x with kept := true, count := 0, promoted := false }] := by
  rw [takeTrap, State.c_modC_self]
  dsimp only
  split <;> rfl

theorem State.takeTrap_entries_first (h : (s.frame t x.frame).st ≠ .trapped) :
    ((s.takeTrap t x i).c t).trapEntries = (s.c t).trapEntries ++ [x.frame] := by
  rw [takeTrap, State.c_modC_self]
  exact congrArg CDom.trapEntries (if_neg h)

theorem State.takeTrap_again (h : (s.frame t x.frame).st = .trapped) :
    s.takeTrap t x i = s.modC t fun c => { c with sets := c.sets ++ [{ x with kept := true, count := 0, promoted := false }] } :=
  congrArg (s.setC t) (if_pos h)

theorem State.takeTrap_frame_ne {f : Nat} (h : f ≠ x.frame) : (s.takeTrap t x i).frame t f = s.frame t f := by
  rw [takeTrap, State.frame_modC_self]
  dsimp only
  split
  · rfl
  · exact CDom.frame_modFrame_ne _ _ h

end

/-! What an abort discards and keeps (R34). -/

section
variable (c : CDom) (f : Nat) (ws : List W64)

theorem CDom.aborted_insts : ∀ e ∈ (c.aborted f ws).insts, e.2.frame ≠ f := by
  intro e he
  have : e ∈ (c.discardFrame f).insts := he
  simpa using (List.mem_filter.1 this).2

theorem CDom.aborted_sets : ∀ y ∈ (c.aborted f ws).sets, y.frame ≠ f := by
  intro y hy
  have : y ∈ (c.discardFrame f).sets := hy
  simpa using (List.mem_filter.1 this).2

theorem CDom.aborted_frame :
    (c.aborted f ws).frame f = { c.frame f with st := .ending, abortRec := some ws, park := .none } := by
  rw [aborted, frame_modFrame_self, frame_dropJobs, frame_discardFrame]

theorem CDom.aborted_frame_ne {g : Nat} (h : g ≠ f) : (c.aborted f ws).frame g = c.frame g := by
  rw [aborted, frame_modFrame_ne _ _ h, frame_dropJobs, frame_discardFrame]

end

/-- Settles O52: the fault traps or aborts the frame, and the return makes the kept sets COMPLETE again. -/
theorem faultsTrapOrAbort : Obligations.FaultsTrapOrAbort := by
  intro t x i s c fr traps u
  have trap (h : traps) : u = s.takeTrap t x i := State.takeFault_trap h.1 h.2.1 h.2.2
  have abort (h : ¬ traps) : u = s.abortFrame t x.frame x.site i := State.takeFault_abort h
  refine ⟨fun h st => ?_, fun h st => ?_, fun h f hf => ?_, fun h first => ?_, fun h again => ?_, fun f => ⟨?_, rfl, fun g hg => ?_⟩⟩
  · rw [trap h]
    exact ⟨s.takeTrap_frame t x i st, s.takeTrap_sets t x i, s.takeTrap_entries_first t x i st⟩
  · rw [trap h, s.takeTrap_again t x i st, State.frame_modC_self, State.c_modC_self]
    exact ⟨rfl, rfl, rfl⟩
  · rw [trap h]
    exact s.takeTrap_frame_ne t x i hf
  · rw [abort h, s.abortFrame_first t x.frame x.site i first, State.frame_modC_self, State.c_modC_self, State.c_withdrawAll]
    refine ⟨CDom.aborted_frame .., fun f hf => ?_, CDom.aborted_insts _ _ _, CDom.aborted_sets _ _ _⟩
    rw [State.frame_modC_self, State.c_withdrawAll]
    exact CDom.aborted_frame_ne _ _ _ hf
  · rw [abort h]
    exact s.abortFrame_again t x.frame x.site i again
  · exact congrArg Frame.st (CDom.frame_modFrame_self ..)
  · exact CDom.frame_modFrame_ne _ _ hg

end Sys2Proof.Machine

end

/-! PROOFS. Loads, stores, atomics and order at issue (spec/12). -/

section

namespace Sys2Proof.Machine

/-! ### The checks of lanes (R97, R298) -/

/-- What a search over a range finds, it finds first. -/
theorem findSome?_range_eq_some {α : Type} {g : Nat → Option α} {n : Nat} {x : α} :
    (List.range n).findSome? g = some x ↔ ∃ j, j < n ∧ g j = some x ∧ ∀ k < j, g k = none := by
  induction n with
  | zero => simp
  | succ n ih =>
    rw [List.range_succ, List.findSome?_append]
    cases found : (List.range n).findSome? g with
    | some y =>
      rw [Option.some_or, ← found, ih]
      refine ⟨fun ⟨j, hj, h⟩ => ⟨j, hj.trans n.lt_succ_self, h⟩, fun ⟨j, hj, hx, before⟩ => ⟨j, ?_, hx, before⟩⟩
      obtain ⟨k, hk, hy⟩ := List.exists_of_findSome?_eq_some found
      refine lt_of_le_of_lt (not_lt.1 fun lt => ?_) (List.mem_range.1 hk)
      simp [before k lt] at hy
    | none =>
      have before : ∀ k < n, g k = none := by simpa using List.findSome?_eq_none_iff.1 found
      rw [Option.none_or, List.findSome?_singleton]
      refine ⟨fun h => ⟨n, n.lt_succ_self, h, before⟩, fun ⟨j, hj, hx, _⟩ => ?_⟩
      obtain rfl | lt := (Nat.lt_succ_iff_lt_or_eq.1 hj).symm
      · exact hx
      · simp [before j lt] at hx

theorem State.lanesFault_eq_some (s : State) (ps : List W64) (wb : Nat) (f : FaultInfo) :
    s.lanesFault ps wb = some f ↔
      ∃ j, j < ps.length ∧ ptrFault s.acc (ps.getD j 0) wb wb j = some f ∧ ∀ k < j, ptrFault s.acc (ps.getD k 0) wb wb k = none :=
  findSome?_range_eq_some

/-- The first error of a list of lanes is that of the list. -/
theorem mapM_range_error {α : Type} {g : Nat → Except FaultInfo α} {n j : Nat} {f : FaultInfo} (hj : j < n) (bad : g j = .error f)
    (good : ∀ k < j, ∃ p, g k = .ok p) : (List.range n).mapM g = .error f := by
  have before : ∃ ps, (List.range j).mapM g = .ok ps := by
    clear hj bad
    induction j with
    | zero => exact ⟨[], rfl⟩
    | succ j ih =>
      obtain ⟨ps, h⟩ := ih fun k hk => good k (hk.trans j.lt_succ_self)
      obtain ⟨p, hp⟩ := good j j.lt_succ_self
      exact ⟨ps ++ [p], by rw [List.range_succ, List.mapM_append, h, List.mapM_cons, hp]; rfl⟩
  obtain ⟨ps, h⟩ := before
  have split : List.range n = List.range j ++ j :: List.range' (j + 1) (n - j - 1) := by
    rw [List.range_eq_range', List.range_eq_range', ← List.range'_succ, show n - j - 1 + 1 = n - j by omega]
    conv_lhs => rw [← Nat.add_sub_cancel' hj.le, ← List.range'_append_1, Nat.zero_add]
  rw [split, List.mapM_append, h, List.mapM_cons, bad]
  rfl

/-- A lane of an indexed access: its index, then its pointer. -/
theorem State.indexed_eq (s : State) (a x : Src) (wb : Nat) :
    s.indexed a x wb = (List.range s.iss.set.len).mapM fun j =>
      let n := ((s.vec x).getD j 0).toNat
      if n ≥ (s.pairLimit a).toNat then .error { cause := .idxbound, addr := w64 n, lane := j }
      else match ptrFault s.acc (adda (s.sc a) (w64 (n * wb))) wb wb j with
        | some f => .error f
        | none => .ok (adda (s.sc a) (w64 (n * wb))) := rfl

theorem State.genLanes_of_gen {s : State} {a x : Src} {wb : Nat} {g : Gen} (h : s.genOf a = some g) (size : g.esize = wb) :
    s.genLanes a x wb = (List.range s.iss.set.len).mapM fun j =>
      let e := bits (s.sc x) 31 0 + s.iss.set.base.toNat + j
      if e ≥ g.total then .error { cause := .idxbound, addr := w64 e, lane := j } else .ok (g.elem e) := by
  rw [State.genLanes, h]
  exact if_neg (not_not.2 size)

theorem State.genLanes_bad {s : State} {a x : Src} {wb : Nat} (h : ∀ g, s.genOf a = some g → g.esize ≠ wb) :
    s.genLanes a x wb = .error { cause := .agbound } := by
  unfold State.genLanes
  cases found : s.genOf a with
  | none => rfl
  | some g => exact if_pos (h g found)

/-! ### Loads (R297, R301) -/

section
variable {s : State} {ps : List W64} {wb : Nat} {vec : Option W32} {acq : Bool} {v : VDst} {done : Option Target}

theorem State.checkedLoad_fault {f : FaultInfo} (h : s.lanesFault ps wb = some f) : s.checkedLoad ps wb vec acq v done = s.fault f := by
  rw [checkedLoad, h]

theorem State.checkedLoad_passes (h : s.lanesFault ps wb = none) : s.checkedLoad ps wb vec acq v done = s.doLoad ps wb vec acq v done := by
  rw [checkedLoad, h]

theorem State.doLoad_bound (free : s.tgtsFault (v.tgts ++ done.toList) = none)
    (h : ∀ e ∈ ps.map fun p => s.loadEl p wb (!acq), e.val.isSome = true) :
    s.doLoad ps wb vec acq v done =
      s.modIss fun x => (x.vdst v (loadValue (ps.map fun p => s.loadEl p wb (!acq)) vec)).put 1 done .order := by
  rw [doLoad, free]
  exact if_pos (List.all_eq_true.2 h)

theorem State.doLoad_waits (free : s.tgtsFault (v.tgts ++ done.toList) = none)
    (h : ∃ e ∈ ps.map fun p => s.loadEl p wb (!acq), e.val = none) :
    s.doLoad ps wb vec acq v done =
      (s.addWait (.load (ps.map fun p => s.loadEl p wb (!acq)) vec) v.dest (doneDest done) acq).modIss fun x =>
        { x with sends := x.sends ++ (List.range ps.length).filterMap fun j =>
          if (((ps.map fun p => s.loadEl p wb (!acq)).getD j ⟨0, 0, [], none⟩).val).isSome then none
          else some (Send.load (ps.getD j 0) wb acq s.iss.nextWait j) } := by
  have some_left : ¬ ((ps.map fun p => s.loadEl p wb (!acq)).all fun e => e.val.isSome) = true := by
    obtain ⟨e, he, none⟩ := h
    rw [List.all_eq_true]
    exact fun all => by simpa [none] using all e he
  have sends (j : Nat) (r : Send) : (match ((ps.map fun p => s.loadEl p wb (!acq)).getD j ⟨0, 0, [], none⟩).val with
      | some _ => none | none => some r) =
      if (((ps.map fun p => s.loadEl p wb (!acq)).getD j ⟨0, 0, [], none⟩).val).isSome then none else some r := by
    cases ((ps.map fun p => s.loadEl p wb (!acq)).getD j ⟨0, 0, [], none⟩).val <;> rfl
  rw [doLoad, free]
  refine (if_neg some_left).trans ?_
  simp only [← sends] <;> rfl

end

theorem exec_ldx (w : BitVec 2) (a b o : Src) (v : VDst) (done : Option Target) (s : State) :
    exec (.ldx w a b o v done) s = match s.indexed a b (2 ^ w.toNat) with
      | .error f => .next (s.fault f)
      | .ok ps => .next (s.doLoad ps (2 ^ w.toNat) (some s.iss.set.base) false v done) := rfl

theorem exec_ldag (w : BitVec 2) (a b o : Src) (v : VDst) (done : Option Target) (s : State) :
    exec (.ldag w a b o v done) s = match s.genLanes a b (2 ^ w.toNat) with
      | .error f => .next (s.fault f)
      | .ok ps => .next (s.doLoad ps (2 ^ w.toNat) (some s.iss.set.base) false v done) := rfl

/-- Settles O21: the loads end in one operation, which delivers where every element is bound. -/
theorem loadsDeliverOrWait : Obligations.LoadsDeliverOrWait := by
  intro w a b o v done s wb lanes run free i ps vec acq h els wait asks
  have load : exec i s = .next (s.doLoad ps wb vec acq v done) := by
    rcases h with ⟨rfl, rfl, rfl, rfl, pass⟩ | ⟨rfl, rfl, rfl, rfl, pass⟩ | ⟨rfl, rfl, rfl, rfl, pass⟩ | ⟨rfl, rfl, rfl, rfl, pass⟩ |
      ⟨rfl, pass, rfl, rfl⟩ | ⟨rfl, pass, rfl, rfl⟩
    · exact congrArg _ (State.checkedLoad_passes pass)
    · exact congrArg _ (State.checkedLoad_passes pass)
    · exact congrArg _ (State.checkedLoad_passes pass)
    · exact congrArg _ (State.checkedLoad_passes pass)
    · rw [exec_ldx, pass]
    · rw [exec_ldag, pass]
  rw [load]
  exact ⟨fun bound => congrArg _ (State.doLoad_bound free bound), fun left => congrArg _ (State.doLoad_waits free left)⟩

/-! ### Stores (R303) -/

section
variable {s : State} {ps data : List W64} {wb : Nat} {sc : BitVec 2} {rel : Bool} {done : Option Target}

theorem State.checkedStore_fault {f : FaultInfo} (h : s.lanesFault ps wb = some f) : s.checkedStore ps data wb sc rel done = s.fault f := by
  unfold State.checkedStore
  rw [h]

theorem State.checkedStore_passes (h : s.lanesFault ps wb = none) : s.checkedStore ps data wb sc false done = s.buffer ps data wb sc false done := by
  unfold State.checkedStore
  rw [h]
  rfl

theorem State.checkedStore_release {p : W64} (h : s.lanesFault [p] wb = none) (away : isLocal p = false) :
    s.checkedStore [p] data wb sc true done = s.buffer [p] data wb sc true done := by
  unfold State.checkedStore
  rw [h]
  exact if_neg (by simp [away])

theorem State.checkedStore_release_local {p : W64} (h : s.lanesFault [p] wb = none) (near : isLocal p = true) :
    s.checkedStore [p] data wb sc true done = s.fault { cause := .winfault, addr := p } := by
  unfold State.checkedStore
  rw [h]
  exact if_pos (by simp [near])

theorem State.buffer_free (free : lateFault s.inst.ctx done = none) :
    s.buffer ps data wb sc rel done = s.modIss fun x => { x with stores := x.stores ++ [⟨x.set.bun, (List.range ps.length).map fun j =>
      ⟨s.iss.set.base.toNat - s.inst.runBase.toNat + j, ps.getD j 0, wb, data.getD j 0⟩, sc, rel, done.map fun t => t.held .order, x.id, x.set.p, x.set.pd⟩] } := by
  rw [buffer, free]
  rfl

end

theorem exec_stx (sc w : BitVec 2) (a b e o : Src) (done : Option Target) (s : State) :
    exec (.stx sc w a b e o done) s = match s.indexed a e (2 ^ w.toNat) with
      | .error f => .next (s.fault f)
      | .ok ps => .next (s.buffer ps (s.dataLanes b) (2 ^ w.toNat) sc false done) := rfl

theorem exec_stag (sc w : BitVec 2) (a b e o : Src) (done : Option Target) (s : State) :
    exec (.stag sc w a b e o done) s = match s.genLanes a e (2 ^ w.toNat) with
      | .error f => .next (s.fault f)
      | .ok ps => .next (s.buffer ps (s.dataLanes b) (2 ^ w.toNat) sc false done) := rfl

/-- Settles O24: the stores end in one operation, which buffers their lanes. -/
theorem storesAreBuffered : Obligations.StoresAreBuffered := by
  intro sc w a b e o done s wb lanes one data free i ps ds rel h
  have store : exec i s = .next (s.buffer ps ds wb sc rel done) := by
    rcases h with ⟨rfl, rfl, rfl, rfl, pass⟩ | ⟨rfl, rfl, rfl, rfl, pass, away⟩ | ⟨rfl, rfl, rfl, rfl, pass⟩ | ⟨rfl, rfl, rfl, rfl, pass⟩ |
      ⟨rfl, pass, rfl, rfl⟩ | ⟨rfl, pass, rfl, rfl⟩
    · exact congrArg _ (State.checkedStore_passes pass)
    · exact congrArg _ (State.checkedStore_release pass away)
    · exact congrArg _ (State.checkedStore_passes pass)
    · exact congrArg _ (State.checkedStore_passes pass)
    · rw [exec_stx, pass]; rfl
    · rw [exec_stag, pass]; rfl
  rw [store, State.buffer_free free]

/-! ### Elements in local memory (R30, R301) -/

theorem map_range_getD (l : List Byte) : (List.range l.length).map (fun k => l.getD k 0) = l := by
  refine List.ext_getElem (by simp) fun k h _ => ?_
  simp at h
  simp [h]

theorem overlay_nil (l : List Byte) : overlay [] l = w64 (fromBytes l) := by
  unfold overlay
  simp only [AMap.get?, Option.getD_none, map_range_getD]

theorem State.loadEl_local {s : State} {p : W64} (h : isLocal p = true) (wb : Nat) (forward : Bool) :
    (s.loadEl p wb forward).val =
      some (overlay (if forward then s.fwdBytes p wb else []) ((s.c s.iss.tile).scratch.readBytes (s.iss.frame.localAddr p) wb)) := by
  exact congrArg LoadEl.val (if_pos h)

theorem State.fwdBytes_none {s : State} {p : W64} {wb : Nat} (h : ∀ k < wb, s.forwarded p (ptrOff p + k) = none) : s.fwdBytes p wb = [] := by
  refine List.filterMap_eq_nil_iff.2 fun k hk => ?_
  rw [h k (List.mem_range.1 hk)]
  rfl

theorem State.fwdBytes_one {s : State} {p : W64} {x : Byte} (h : s.forwarded p (ptrOff p) = some x) : s.fwdBytes p 1 = [(0, x)] := by
  rw [fwdBytes]
  simp [List.range_succ, h]

theorem overlay_one (x : Byte) (l : List Byte) (one : l.length = 1) : overlay [(0, x)] l = x.setWidth 64 := by
  unfold overlay
  rw [one]
  refine BitVec.eq_of_toNat_eq ?_
  simp [List.range_succ, AMap.get?, fromBytes, w64]

/-- Settles O22: the faults go through the checks of the lanes, the values through `loadEl_local`. -/
theorem accessChecksAndLocalElements : Obligations.AccessChecksAndLocalElements := by
  refine ⟨?_, fun s ps wb f => s.lanesFault_eq_some ps wb f, ?_, fun s a x wb => State.genLanes_bad, ?_, ?_⟩
  · intro w sc a b e o v done s f
    exact ⟨fun h => ⟨congrArg _ (State.checkedLoad_fault h), congrArg _ (State.checkedLoad_fault h)⟩,
      fun h => congrArg _ (State.checkedLoad_fault h), fun h => congrArg _ (State.checkedLoad_fault h),
      fun h => ⟨congrArg _ (State.checkedStore_fault h), congrArg _ (State.checkedStore_fault h)⟩,
      fun h => congrArg _ (State.checkedStore_fault h), fun h => congrArg _ (State.checkedStore_fault h),
      fun h => by rw [Faults, exec_ldx, h], fun h => by rw [Faults, exec_stx, h],
      fun h => by rw [Faults, exec_ldag, h], fun h => by rw [Faults, exec_stag, h],
      fun h near => congrArg _ (State.checkedStore_release_local h near)⟩
  · intro s a x wb j hj n at_ limit good
    have passes : ∀ k < j, ∃ p, (fun j => if n j ≥ limit then .error { cause := .idxbound, addr := w64 (n j), lane := j }
        else match at_ j with | some f => .error f | none => .ok (adda (s.sc a) (w64 (n j * wb))) : Nat → Except FaultInfo W64) k = .ok p := by
      intro k hk
      obtain ⟨below, free⟩ := good k hk
      exact ⟨adda (s.sc a) (w64 (n k * wb)), by simp only [if_neg (not_le.2 below), free]⟩
    refine ⟨fun past => mapM_range_error hj (if_pos past) passes, fun f below bad => mapM_range_error hj ((if_neg (not_le.2 below)).trans ?_) passes⟩
    have found : ptrFault s.acc (adda (s.sc a) (w64 (n j * wb))) wb wb j = some f := bad
    exact congrArg (fun x => match x with | some f => Except.error f | none => Except.ok (adda (s.sc a) (w64 (n j * wb)))) found
  · intro s a x wb j g found size hj e past before
    rw [State.genLanes_of_gen found size]
    have offset : bits (s.sc x) 31 0 = (s.sc x).toNat % 2 ^ 32 := by simp [bits, bitsOf]
    simp only [offset]
    exact mapM_range_error hj (if_pos past) fun k hk => ⟨g.elem _, if_neg (not_le.2 (before k hk))⟩
  · intro p wb s near bytes
    refine ⟨?_, fun none => ?_, fun x one some => ?_⟩
    · rw [State.loadEl_local near]
      exact congrArg _ (overlay_nil _)
    · rw [State.loadEl_local near, State.fwdBytes_none none]
      exact congrArg _ (overlay_nil _)
    · subst one
      rw [State.loadEl_local near, State.fwdBytes_one some]
      exact congrArg _ (overlay_one x _ (Memory.readBytes_length _ _ _))

/-! ### Query loads, prefetches and STASHQ (R301, R302, R310) -/

theorem exec_ldq (w : BitVec 2) (a b o : Src) (v : VDst) (done : Option Target) (s : State) :
    exec (.ldq w a b o v done) s = execLdq w a b o v done s := rfl

/-- A frame that is not durable logs no reading. -/
theorem State.reading_transient {s : State} (h : s.iss.frame.pmodeNow = false) (field : Nat) (x : W64) : s.reading field x = (x, s) := by
  rw [reading]
  simp [h]

theorem ptrCheck_fault_none {x : Access} {p : W64} {len width lane : Nat} : ptrFault x p len width lane = none ↔ ptrCheck x p len width = 0 := by
  unfold ptrFault
  split <;> simp_all

theorem ldqFail_eq (n : Nat) : ldqFail n = w64 ((if n = 3 then 2 else if n = 6 then 3 else 1) * 2 ^ 32) := by
  unfold ldqFail
  split <;> simp_all

section
variable {s : State} {w : BitVec 2} {a b o : Src} {v : VDst} {done : Option Target}

theorem execLdq_fails (transient : s.iss.frame.pmodeNow = false) (free : s.tgtsFault (v.tgts ++ done.toList) = none)
    (bad : ptrCheck s.acc (adda (s.sc a) (s.sc b)) (2 ^ w.toNat) (2 ^ w.toNat) ≠ 0) :
    execLdq w a b o v done s = .next (s.modIss fun i =>
      (i.vdst v (.scalar (ldqFail (ptrCheck s.acc (adda (s.sc a) (s.sc b)) (2 ^ w.toNat) (2 ^ w.toNat))))).put 1 done .order) := by
  unfold execLdq
  simp only [free, State.reading_transient transient]
  split
  · exact absurd ‹_› bad
  · rfl

theorem execLdq_known (transient : s.iss.frame.pmodeNow = false) (free : s.tgtsFault (v.tgts ++ done.toList) = none)
    (good : ptrCheck s.acc (adda (s.sc a) (s.sc b)) (2 ^ w.toNat) (2 ^ w.toNat) = 0)
    (known : isLocal (adda (s.sc a) (s.sc b)) = true ∨ (s.loadEl (adda (s.sc a) (s.sc b)) (2 ^ w.toNat) true).val.isSome = true) :
    execLdq w a b o v done s = .next (s.modIss fun i =>
      (i.vdst v (.scalar ((s.loadEl (adda (s.sc a) (s.sc b)) (2 ^ w.toNat) true).val.getD 0))).put 1 done .order) := by
  unfold execLdq
  simp only [free, State.reading_transient transient]
  split
  · exact if_pos (by simpa [wbOf] using known)
  · exact absurd good ‹_›

theorem execLdq_left (good : ptrCheck s.acc (adda (s.sc a) (s.sc b)) (2 ^ w.toNat) (2 ^ w.toNat) = 0)
    (away : isLocal (adda (s.sc a) (s.sc b)) = false) (left : (s.loadEl (adda (s.sc a) (s.sc b)) (2 ^ w.toNat) true).val = none) :
    execLdq w a b o v done s = .next (s.doLoad [adda (s.sc a) (s.sc b)] (2 ^ w.toNat) none false v done) := by
  unfold execLdq
  dsimp only
  split
  · refine if_neg ?_
    rw [away, wbOf, left]
    simp
  · exact absurd good ‹_›

theorem execStashq_gives (transient : s.iss.frame.pmodeNow = false) (free : s.tgtsFault (v.tgts ++ done.toList) = none) :
    execStashq a o v done s = .next (s.modIss fun i => (i.vdst v (.scalar (if ptrCheck s.acc (s.sc a) 1 1 = 0 ∧ ptrKind (s.sc a) = 0 then
      match (s.c s.iss.tile).stLine s.iss.set.frame (ptrOff (s.sc a)) with | some l => l.query | none => 0
      else 0))).put 1 done .order) := by
  unfold execStashq
  simp only [free, State.reading_transient transient] <;> rfl

end

/-- Settles O23: LDQ by what its check and its element answer. -/
theorem queryLoadsAndPrefetches : Obligations.QueryLoadsAndPrefetches := by
  intro w rx a b o v done s wb p n give
  refine ⟨fun transient free => ⟨fun bad => ?_, fun good near => ?_, fun x good away known => ?_, fun good left => ?_, fun l good global held => ?_,
    fun bad => ?_⟩, fun good global => if_pos ⟨good, global⟩, fun bad => if_neg (by tauto)⟩
  · rw [exec_ldq, execLdq_fails transient free bad, ldqFail_eq]
  · rw [exec_ldq, execLdq_known transient free good (.inl near)]
  · rw [exec_ldq, execLdq_known transient free good (.inr (by rw [known]; rfl)), known]
    rfl
  · have away : isLocal p = false := by
      by_contra near
      rw [State.loadEl_local (by simpa using near)] at left
      cases left
    rw [exec_ldq, execLdq_left good away left, State.doLoad_waits free ⟨_, List.mem_singleton_self _, left⟩]
    simp only [List.map_cons, List.map_nil, List.length_singleton, List.range_one, List.filterMap_cons, List.filterMap_nil, List.getD_cons_zero]
    rw [if_neg (by simp only [Bool.not_false]; rw [left]; simp)]
    rfl
  · refine (execStashq_gives (o := o) transient free).trans ?_
    rw [if_pos ⟨good, global⟩, held]
  · refine (execStashq_gives (o := o) transient free).trans ?_
    rw [if_neg fun h => bad h.1]

/-! ### Atomics (R298, R304) -/

section
variable {s : State} {op : Nat} {sc w : BitVec 2} {a b e : Src} {flag : Bool} {v : VDst} {done : Option Target}

theorem State.atomic_fault {f : FaultInfo} (h : ptrFault s.acc (s.sc a) (2 ^ w.toNat) (2 ^ w.toNat) 0 = some f) :
    s.atomic op sc w a b e flag v done = s.fault f := by
  unfold State.atomic
  simp only [wbOf, h]

theorem State.atomic_restartable (pass : ptrFault s.acc (s.sc a) (2 ^ w.toNat) (2 ^ w.toNat) 0 = none) (away : isLocal (s.sc a) = false)
    (transient : s.iss.frame.pmodeNow = false) : s.atomic op sc w a b e flag v done = s.fault { cause := .atomrst } := by
  unfold State.atomic
  simp only [wbOf, pass]
  exact if_pos (by simp [away, transient])

section
variable (pass : ptrFault s.acc (s.sc a) (2 ^ w.toNat) (2 ^ w.toNat) 0 = none) (may : isLocal (s.sc a) = true ∨ s.iss.frame.pmodeNow = true)
include pass may

theorem State.atomic_form (form : flag = true) (bad : 1 < (s.sc e).toNat) : s.atomic op sc w a b e flag v done = s.fault { cause := .illop } := by
  unfold State.atomic
  simp only [wbOf, pass]
  refine (if_neg ?_).trans (if_pos (by simp [form, bad]))
  rcases may with h | h <;> simp [h]

theorem State.atomic_buffers (form : flag = true → (s.sc e).toNat ≤ 1)
    (val : lateFault s.inst.ctx (match v with | .target t => t | _ => (none : Option Target)) = none) (free : lateFault s.inst.ctx done = none) :
    s.atomic op sc w a b e flag v done =
      s.addEff { bun := 0, slot := 0, op := .atomic op (2 ^ w.toNat) sc, a := s.sc a, b := s.sc b, e := s.sc e,
                 val := (match v with | .target t => t | _ => (none : Option Target)).map fun (t : Target) => t.held (.scalar 0), done := done.map fun t => t.held .order } := by
  unfold State.atomic
  simp only [wbOf, pass]
  refine (if_neg ?_).trans ((if_neg ?_).trans ?_)
  · rcases may with h | h <;> simp [h]
  · simpa using form
  · split
    · exact absurd (val.symm.trans ‹_›) (Option.some_ne_none _).symm
    · exact absurd (free.symm.trans ‹_›) (Option.some_ne_none _).symm
    · rfl

end

end

/-- Settles O25: every atomic is `State.atomic` of its opcode. -/
theorem atomicsAreBufferedAndComputed : Obligations.AtomicsAreBufferedAndComputed := by
  refine ⟨fun wb o x d one ho hx => ?_, ?_⟩
  · have sgn (c : Prop) [Decidable c] : signedOf (8 * wb) (if c then x else o) = if c then signedOf (8 * wb) x else signedOf (8 * wb) o := by
      split <;> rfl
    simp only [atomicNew, Nat.mod_eq_of_lt ho, Nat.mod_eq_of_lt hx, if_pos, one_ne_zero, if_false, sgn, true_and, and_true]
    refine ⟨?_, ?_, fun h => if_pos h, fun h => if_neg h⟩
    · split <;> omega
    · split <;> omega
  · intro sc w a b e o v done s p vt atomics x hx
    have all : ∀ x ∈ atomics, exec x.1 s = .next (s.atomic x.2.1 sc w a b x.2.2.1 x.2.2.2 v done) := by
      simp only [atomics, List.forall_mem_cons]
      exact ⟨rfl, rfl, rfl, rfl, rfl, rfl, rfl, rfl, rfl, rfl, rfl, rfl, fun _ h => absurd h List.not_mem_nil⟩
    rw [Faults, Faults, all x hx]
    exact ⟨fun f h => by rw [Faults, all x hx, State.atomic_fault h], fun pass away transient => congrArg _ (State.atomic_restartable pass away transient),
      fun pass may => ⟨fun form bad => congrArg _ (State.atomic_form pass may form bad),
        fun form val free => congrArg _ (State.atomic_buffers pass may form val free)⟩⟩

/-! ### Order and persistence (R306 to R308) -/

section
variable {s : State} {sc : BitVec 2} {inv : Bool} {a : Src} {done : Option Target}

theorem State.orderWait_free {w : Wait} {line : Option (Option W64 × Bool)} (free : s.tgtsFault done.toList = none) :
    s.orderWait w done line = s.addWait w {} (doneDest done) false line := by
  rw [orderWait, free]

theorem State.flushAll_asks (free : s.tgtsFault done.toList = none) (active : s.iss.active = true) :
    s.flushAll sc inv done = (s.addWait (.flush sc []) {} (doneDest done) false (some (none, inv))).modIss fun x =>
      { x with sends := x.sends ++ [.flush none inv s.iss.nextWait] } := by
  unfold State.flushAll
  rw [State.orderWait_free free]
  exact if_pos active

theorem State.flushLine_fault {f : FaultInfo} (h : ptrFault s.acc (s.sc a) 1 1 0 = some f) : s.flushLine sc inv a done = s.fault f := by
  unfold State.flushLine
  simp only [h]

theorem State.flushLine_asks (pass : ptrFault s.acc (s.sc a) 1 1 0 = none) (global : ptrKind (s.sc a) = 0) (free : s.tgtsFault done.toList = none)
    (active : s.iss.active = true) :
    s.flushLine sc inv a done =
      (s.addWait (.flush sc []) {} (doneDest done) false (some (some (w64 (ptrOff (s.sc a) / 512 * 512)), inv))).modIss fun x =>
        { x with sends := x.sends ++ [.flush (some (w64 (ptrOff (s.sc a) / 512 * 512))) inv s.iss.nextWait] } := by
  unfold State.flushLine
  simp only [pass, global, State.orderWait_free free]
  exact if_pos (Bool.and_eq_true_iff.2 ⟨rfl, active⟩)

theorem State.flushLine_elsewhere (pass : ptrFault s.acc (s.sc a) 1 1 0 = none) (kind : ptrKind (s.sc a) ≠ 0)
    (free : s.tgtsFault done.toList = none) : s.flushLine sc inv a done = s.addWait (.flush sc []) {} (doneDest done) := by
  unfold State.flushLine
  simp only [pass, kind, State.orderWait_free free]
  exact if_neg (by simp)

end

theorem exec_ordjoin (a b e o : Src) (done : Option Target) (s : State) :
    exec (.ordjoin a b e o done) s = match s.tgtsFault done.toList with
      | some i => .next (s.fault i)
      | none => .next (s.modIss fun i => i.put 1 done .order) := rfl

/-- Settles O27: the operations end in a wait for an order token, or in the fault of their checks. -/
theorem orderAndPersistenceOperations : Obligations.OrderAndPersistenceOperations := by
  intro sc a b e o done s n wait ask line
  refine ⟨fun scope => if_pos scope, fun free => ⟨congrArg _ (State.orderWait_free free), ?_, fun scope => ?_, fun active => ⟨?_, ?_, fun pass => ?_⟩⟩,
    fun f h => ⟨congrArg _ (State.flushLine_fault h), congrArg _ (State.flushLine_fault h)⟩⟩
  · rw [exec_ordjoin, free]
  · exact (if_neg scope).trans (congrArg _ (State.orderWait_free free))
  · exact congrArg _ (State.flushAll_asks free active)
  · exact congrArg _ (State.flushAll_asks free active)
  · exact ⟨fun global => ⟨congrArg _ (State.flushLine_asks pass global free active), congrArg _ (State.flushLine_asks pass global free active)⟩,
      fun kind => ⟨congrArg _ (State.flushLine_elsewhere pass kind free), congrArg _ (State.flushLine_elsewhere pass kind free)⟩⟩

end Sys2Proof.Machine

end

/-! PROOFS. Rounding: onto a grid of numbers (R166, R167), and of exact numbers to integers and into formats (R155 to R158, R168, R170). -/

section

namespace Sys2Proof.Machine

/-! ### Rounding onto a grid -/

/-- A magnitude a between neighbours lo and hi, lo the n-th of its grid, goes to hi (R166, R167). -/
def RoundsUp (rnd : Rnd) (neg : Bool) (n : Nat) (lo a hi : ℚ) : Prop :=
  lo ≠ a ∧
  match rnd with
  | .rne => hi - lo < 2 * (a - lo) ∨ (2 * (a - lo) = hi - lo ∧ n % 2 = 1)
  | .rtz => False
  | .rdn => neg = true
  | .rup => neg = false
  | .rna => hi - lo ≤ 2 * (a - lo)
  | .sr r => 2 ^ 24 ≤ ⌊2 ^ 24 * ((a - lo) / (hi - lo))⌋ + (r : Int)

/-- The rounding code that does to a number what this one does to its negative. -/
def Rnd.mirror : Rnd → Rnd
  | .rdn => .rup
  | .rup => .rdn
  | r => r

theorem roundsUp_mirror {rnd : Rnd} {n : Nat} {lo a hi : ℚ} : RoundsUp rnd.mirror false n lo a hi ↔ RoundsUp rnd true n lo a hi := by
  cases rnd <;> simp [RoundsUp, Rnd.mirror]

theorem rounds_of_mirror {rnd : Rnd} {v w : ℚ} {has : ℚ → Prop} {even : Prop} (sym : ∀ u, has u → has (-u)) (h : Rounds rnd.mirror v w has even) :
    Rounds rnd (-v) (-w) has even := by
  obtain ⟨near, pick⟩ := h
  refine ⟨fun u hu => ?_, ?_⟩
  · obtain ⟨below, above⟩ := near (-u) (sym u hu)
    exact ⟨fun ⟨h, h'⟩ => above ⟨by linarith, by linarith⟩, fun ⟨h, h'⟩ => below ⟨by linarith, by linarith⟩⟩
  · have dist (x u : ℚ) : |-x - u| = |x - -u| := by rw [← abs_neg]; congr 1; ring
    cases rnd with
    | rtz => rw [abs_neg, abs_neg]; exact pick
    | rdn => exact neg_le_neg pick
    | rup => exact neg_le_neg pick
    | rne =>
      intro u hu
      obtain ⟨le, tie⟩ := pick (-u) (sym u hu)
      have e (x : ℚ) : |x - -v| = |(-x) - v| := by rw [← abs_neg]; congr 1; ring
      rw [e, e, neg_neg]
      exact ⟨le, fun eq ne => tie eq fun same => ne (by rw [← same, neg_neg])⟩
    | rna =>
      intro u hu
      obtain ⟨le, tie⟩ := pick (-u) (sym u hu)
      have e (x : ℚ) : |x - -v| = |(-x) - v| := by rw [← abs_neg]; congr 1; ring
      rw [e, e, neg_neg, abs_neg, abs_neg]
      exact ⟨le, fun eq ne => tie eq fun same => ne (by rw [← same, neg_neg])⟩
    | sr r =>
      intro u hu lo hi between
      have e : min (-u) w = -max u (-w) := by rw [← neg_neg w, min_neg_neg, neg_neg]
      have e' : max (-u) w = -min u (-w) := by rw [← neg_neg w, max_neg_neg, neg_neg]
      have := pick (-u) (sym u hu) (by rw [e]; linarith) (by rw [e']; linarith) fun x hx ⟨h, h'⟩ =>
        between (-x) (sym x hx) ⟨by rw [e'] at h'; linarith, by rw [e] at h; linarith⟩
      simpa using this

section
variable {g : Nat → ℚ} (mono : StrictMono g) (zero : g 0 = 0) {has : ℚ → Prop} {ok : Nat → Prop} (grid : ∀ u, has u ↔ ∃ i, ok i ∧ |u| = g i)
  (down : ∀ i j, i ≤ j → ok j → ok i) {rnd : Rnd} {a : ℚ} {n : Nat}
include mono zero grid

/-- No number of the grid lies between neighbours. -/
theorem grid_sides {u : ℚ} (hu : has u) : u ≤ g n ∨ (g (n + 1) ≤ u ∧ ∃ i, n + 1 ≤ i ∧ ok i) := by
  obtain ⟨i, hok, e⟩ := (grid u).1 hu
  rcases Nat.lt_or_ge n i with above | below
  · rcases abs_choice u with pos | neg
    · exact .inr ⟨by rw [← pos, e]; exact mono.monotone above, i, above, hok⟩
    · have := zero ▸ mono.monotone n.zero_le
      have := zero ▸ mono.monotone i.zero_le
      exact .inl (by linarith)
  · exact .inl ((le_abs_self u).trans (e ▸ mono.monotone below))

include down

theorem rounds_down_nonneg (lo : g n ≤ a) (hi : a < g (n + 1)) (hup : ¬ RoundsUp rnd false n (g n) a (g (n + 1))) :
    Rounds rnd a (g n) has (n % 2 = 0) := by
  have pos := zero ▸ mono.monotone n.zero_le
  have sides {u : ℚ} (hu : has u) := grid_sides mono zero grid (n := n) hu
  refine ⟨fun u hu => ?_, ?_⟩
  · rcases sides hu with h | ⟨h, _⟩ <;> constructor <;> rintro ⟨_, _⟩ <;> linarith
  · simp only [RoundsUp, not_and_or, not_not] at hup
    cases rnd with
    | rtz => exact abs_le_abs_of_nonneg pos lo
    | rdn => exact lo
    | rup => exact (by simpa using hup : g n = a).ge
    | rne =>
      intro u hu
      rw [abs_of_nonpos (by linarith : g n - a ≤ 0)]
      rcases sides hu with h | ⟨h, _⟩
      · rw [abs_of_nonpos (by linarith : u - a ≤ 0)]
        exact ⟨by linarith, fun e ne => absurd (by linarith) ne⟩
      · rw [abs_of_nonneg (by linarith : 0 ≤ u - a)]
        rcases hup with exact_ | hup
        · exact ⟨by linarith, fun e => by linarith⟩
        · push Not at hup
          obtain ⟨near, tie⟩ := hup
          exact ⟨by linarith, fun e _ => Nat.mod_two_ne_one.1 (tie (by linarith))⟩
    | rna =>
      intro u hu
      rw [abs_of_nonpos (by linarith : g n - a ≤ 0)]
      rcases sides hu with h | ⟨h, _⟩
      · rw [abs_of_nonpos (by linarith : u - a ≤ 0)]
        exact ⟨by linarith, fun e ne => absurd (by linarith) ne⟩
      · rw [abs_of_nonneg (by linarith : 0 ≤ u - a)]
        have near : 2 * (a - g n) < g (n + 1) - g n := by
          rcases hup with exact_ | hup
          · linarith
          · exact not_le.1 hup
        exact ⟨by linarith, fun e => by linarith⟩
    | sr r =>
      intro u hu below above between
      rcases sides hu with h | ⟨h, i, above', hok⟩
      · rw [max_eq_right h] at above
        linarith
      · have has_next : has (g (n + 1)) := (grid _).2 ⟨n + 1, down _ _ above' hok, abs_of_nonneg (by linarith)⟩
        have next : u = g (n + 1) := by
          by_contra ne
          refine between _ has_next ⟨?_, ?_⟩
          · exact (min_le_right u (g n)).trans_lt (mono n.lt_succ_self)
          · exact (lt_of_le_of_ne h (Ne.symm ne)).trans_le (le_max_left u (g n))
        subst next
        rw [min_eq_right (by linarith)] at below
        rw [abs_of_nonneg (by linarith : 0 ≤ g (n + 1)), abs_of_nonneg pos, abs_of_nonneg (by linarith : 0 ≤ a), min_eq_right (by linarith),
          max_eq_left (by linarith)]
        exact iff_of_false (by linarith) (hup.resolve_left below.ne)

theorem rounds_up_nonneg (hi : a < g (n + 1)) (lo : g n ≤ a) (hup : RoundsUp rnd false n (g n) a (g (n + 1))) (hok : ok (n + 1)) :
    Rounds rnd a (g (n + 1)) has ((n + 1) % 2 = 0) := by
  have pos := zero ▸ mono.monotone n.zero_le
  have sides {u : ℚ} (hu : has u) := grid_sides mono zero grid (n := n) hu
  obtain ⟨ne, hup⟩ := hup
  have lo := lt_of_le_of_ne lo ne
  refine ⟨fun u hu => ?_, ?_⟩
  · rcases sides hu with h | ⟨h, _⟩ <;> constructor <;> rintro ⟨_, _⟩ <;> linarith
  · cases rnd with
    | rtz => exact hup.elim
    | rdn => cases hup
    | rup => exact hi.le
    | rne =>
      intro u hu
      rw [abs_of_nonneg (by linarith : 0 ≤ g (n + 1) - a)]
      rcases sides hu with h | ⟨h, _⟩
      · rw [abs_of_nonpos (by linarith : u - a ≤ 0)]
        rcases hup with far | ⟨tie, odd⟩
        · exact ⟨by linarith, fun e => by linarith⟩
        · exact ⟨by linarith, fun _ _ => by omega⟩
      · rw [abs_of_nonneg (by linarith : 0 ≤ u - a)]
        exact ⟨by linarith, fun e ne => absurd (by linarith) ne⟩
    | rna =>
      intro u hu
      have up : |a| < |g (n + 1)| := by rwa [abs_of_nonneg (by linarith), abs_of_nonneg (by linarith)]
      rw [abs_of_nonneg (by linarith : 0 ≤ g (n + 1) - a)]
      refine ⟨?_, fun _ _ => up⟩
      rcases sides hu with h | ⟨h, _⟩
      · rw [abs_of_nonpos (by linarith : u - a ≤ 0)]
        dsimp only at hup
        linarith
      · rw [abs_of_nonneg (by linarith : 0 ≤ u - a)]
        linarith
    | sr r =>
      intro u hu below above between
      rcases sides hu with h | ⟨h, _⟩
      · have has_lo : has (g n) := (grid _).2 ⟨n, down _ _ n.le_succ hok, abs_of_nonneg pos⟩
        have same : u = g n := by
          by_contra ne
          refine between _ has_lo ⟨?_, ?_⟩
          · exact (min_le_left u (g (n + 1))).trans_lt (lt_of_le_of_ne h ne)
          · exact (mono n.lt_succ_self).trans_le (le_max_right u (g (n + 1)))
        subst same
        rw [abs_of_nonneg (by linarith : 0 ≤ g (n + 1)), abs_of_nonneg pos, abs_of_nonneg (by linarith : 0 ≤ a), min_eq_left (by linarith),
          max_eq_right (by linarith)]
        exact iff_of_true (by linarith) hup
      · rw [min_eq_right h] at below
        linarith

/-- Rounding a number onto a grid: its magnitude goes down or up to a neighbour. -/
theorem rounds_grid {neg up : Bool} (lo : g n ≤ a) (hi : a < g (n + 1)) (hup : up = true ↔ RoundsUp rnd neg n (g n) a (g (n + 1)))
    (hok : ok (n + up.toNat)) :
    Rounds rnd ((if neg then -1 else 1) * a) ((if neg then -1 else 1) * g (n + up.toNat)) has ((n + up.toNat) % 2 = 0) := by
  have magnitude {rnd : Rnd} (hup : up = true ↔ RoundsUp rnd false n (g n) a (g (n + 1))) :
      Rounds rnd a (g (n + up.toNat)) has ((n + up.toNat) % 2 = 0) := by
    cases up with
    | false => exact rounds_down_nonneg mono zero grid down lo hi (by simpa using hup)
    | true => exact rounds_up_nonneg mono zero grid down hi lo (by simpa using hup) hok
  cases neg with
  | false => simpa using magnitude hup
  | true =>
    have sym (u : ℚ) (h : has u) : has (-u) := by rwa [grid, abs_neg, ← grid]
    simpa using rounds_of_mirror sym (magnitude (hup.trans roundsUp_mirror.symm))

end

/-! ### Ratios -/

/-- The number that a ratio stands for. -/
def Ratio.val (r : Ratio) : ℚ := r.num / r.den * (2 : ℚ) ^ r.exp

namespace Ratio
variable (r : Ratio)

theorem scaled_den_pos (q : Int) (hd : 0 < r.den) : 0 < (r.scaled q).2 := by
  unfold scaled
  dsimp only
  split <;> positivity

theorem scaled_val (q : Int) : ((r.scaled q).1 : ℚ) / (r.scaled q).2 = r.val / 2 ^ q := by
  have split_exp : (2 : ℚ) ^ r.exp = 2 ^ (r.exp - q) * 2 ^ q := by rw [← zpow_add₀ two_ne_zero]; congr 1; omega
  rw [val, split_exp, ← mul_assoc, mul_div_cancel_right₀ _ (by positivity)]
  unfold scaled
  dsimp only
  split
  · next h =>
    lift r.exp - q to Nat using h with d
    push_cast
    rw [Int.toNat_natCast, zpow_natCast]
    ring
  · next h =>
    obtain ⟨d, e⟩ : ∃ d : Nat, r.exp - q = -d := ⟨(-(r.exp - q)).toNat, by omega⟩
    rw [e, neg_neg, Int.toNat_natCast, zpow_neg, zpow_natCast]
    push_cast
    rw [← div_eq_mul_inv, div_div]

/-- The multiple of 2^q below a number, and the fraction above it. -/
theorem floor_scaled (q : Int) (hd : 0 < r.den) :
    ((r.scaled q).1 / (r.scaled q).2 : Nat) * (2 : ℚ) ^ q ≤ r.val ∧ r.val < (((r.scaled q).1 / (r.scaled q).2 : Nat) + 1) * (2 : ℚ) ^ q ∧
      (r.val - ((r.scaled q).1 / (r.scaled q).2 : Nat) * (2 : ℚ) ^ q) / 2 ^ q = ((r.scaled q).1 % (r.scaled q).2 : Nat) / (r.scaled q).2 := by
  have den : (0 : ℚ) < (r.scaled q).2 := by exact_mod_cast r.scaled_den_pos q hd
  have unit : (0 : ℚ) < 2 ^ q := by positivity
  have parts : ((r.scaled q).1 : ℚ) = (r.scaled q).2 * ((r.scaled q).1 / (r.scaled q).2 : Nat) + ((r.scaled q).1 % (r.scaled q).2 : Nat) := by
    exact_mod_cast (Nat.div_add_mod _ _).symm
  have small : (((r.scaled q).1 % (r.scaled q).2 : Nat) : ℚ) < (r.scaled q).2 := by exact_mod_cast Nat.mod_lt _ (r.scaled_den_pos q hd)
  have nonneg : (0 : ℚ) ≤ ((r.scaled q).1 % (r.scaled q).2 : Nat) := by positivity
  have value : r.val = (((r.scaled q).1 / (r.scaled q).2 : Nat) + ((r.scaled q).1 % (r.scaled q).2 : Nat) / (r.scaled q).2) * 2 ^ q := by
    have := r.scaled_val q
    rw [eq_div_iff unit.ne'] at this
    rw [← this, parts]
    congr 1
    field_simp
  refine ⟨?_, ?_, ?_⟩
  · rw [value]
    exact mul_le_mul_of_nonneg_right (le_add_of_nonneg_right (div_nonneg nonneg den.le)) unit.le
  · rw [value]
    refine mul_lt_mul_of_pos_right ?_ unit
    rw [add_lt_add_iff_left, div_lt_one den]
    exact small
  · rw [value, ← sub_mul, mul_div_cancel_right₀ _ unit.ne']
    ring

/-- The binary logarithm of a positive number. -/
theorem log2_spec (hn : 0 < r.num) (hd : 0 < r.den) : (2 : ℚ) ^ r.log2 ≤ r.val ∧ r.val < 2 ^ (r.log2 + 1) := by
  obtain ⟨g, hg⟩ : ∃ g : Int, g = (Nat.log2 r.num : Int) - Nat.log2 r.den + r.exp := ⟨_, rfl⟩
  have num_lo : (2 : ℚ) ^ (r.num.log2 : Int) ≤ r.num := by exact_mod_cast Nat.log2_self_le hn.ne'
  have num_hi : (r.num : ℚ) < 2 ^ ((r.num.log2 : Int) + 1) := by exact_mod_cast Nat.lt_log2_self
  have den_lo : (2 : ℚ) ^ (r.den.log2 : Int) ≤ r.den := by exact_mod_cast Nat.log2_self_le hd.ne'
  have den_hi : (r.den : ℚ) < 2 ^ ((r.den.log2 : Int) + 1) := by exact_mod_cast Nat.lt_log2_self
  have num_pos : (0 : ℚ) < r.num := by exact_mod_cast hn
  have den_pos : (0 : ℚ) < r.den := by exact_mod_cast hd
  have lower : (2 : ℚ) ^ (g - 1) ≤ r.val := by
    calc (2 : ℚ) ^ (g - 1) = 2 ^ (r.num.log2 : Int) / 2 ^ ((r.den.log2 : Int) + 1) * 2 ^ r.exp := by
          rw [← zpow_sub₀ two_ne_zero, ← zpow_add₀ two_ne_zero, hg]; congr 1; omega
      _ ≤ r.val := by unfold val; gcongr
  have upper : r.val < 2 ^ (g + 1) := by
    calc r.val < 2 ^ ((r.num.log2 : Int) + 1) / 2 ^ (r.den.log2 : Int) * 2 ^ r.exp := by unfold val; gcongr
      _ = 2 ^ (g + 1) := by rw [← zpow_sub₀ two_ne_zero, ← zpow_add₀ two_ne_zero, hg]; congr 1; omega
  have below : (r.scaled g).1 < (r.scaled g).2 ↔ r.val < 2 ^ g := by
    have den : (0 : ℚ) < (r.scaled g).2 := by exact_mod_cast r.scaled_den_pos g hd
    rw [← Nat.cast_lt (α := ℚ), ← div_lt_one den, scaled_val, div_lt_one (by positivity)]
  have log2_eq : r.log2 = if (r.scaled g).1 < (r.scaled g).2 then g - 1 else g := by rw [hg]; rfl
  rw [log2_eq]
  split
  · next h => exact ⟨lower, by rw [sub_add_cancel]; exact below.1 h⟩
  · next h => exact ⟨not_lt.1 (mt below.2 h), upper⟩

end Ratio

/-- A number rounded to a multiple of 2^q: to the one below or the one above. -/
theorem roundAt_spec (rnd : Rnd) (neg : Bool) (r : Ratio) (q : Int) (hd : 0 < r.den) :
    ∃ (k : Nat) (up : Bool), (k : ℚ) * 2 ^ q ≤ r.val ∧ r.val < (k + 1 : Nat) * (2 : ℚ) ^ q ∧
      (up = true ↔ RoundsUp rnd neg k (k * 2 ^ q) r.val ((k + 1 : Nat) * 2 ^ q)) ∧
      roundAt rnd neg r q = (k + up.toNat, decide ((k : ℚ) * 2 ^ q ≠ r.val)) := by
  obtain ⟨lo, hi, frac⟩ := r.floor_scaled q hd
  have den : (0 : ℚ) < (r.scaled q).2 := by exact_mod_cast r.scaled_den_pos q hd
  have unit : (0 : ℚ) < 2 ^ q := by positivity
  obtain ⟨k, hk⟩ : ∃ k, k = (r.scaled q).1 / (r.scaled q).2 := ⟨_, rfl⟩
  obtain ⟨rem, hrem⟩ : ∃ rem, rem = (r.scaled q).1 % (r.scaled q).2 := ⟨_, rfl⟩
  obtain ⟨d, hd'⟩ : ∃ d, d = (r.scaled q).2 := ⟨_, rfl⟩
  rw [← hk] at lo hi frac
  rw [← hrem, ← hd'] at frac
  rw [← hd'] at den
  have above : r.val - k * 2 ^ q = rem / d * 2 ^ q := by rw [← frac, div_mul_cancel₀ _ unit.ne']
  have step : ((k + 1 : Nat) : ℚ) * 2 ^ q - k * 2 ^ q = 2 ^ q := by push_cast; ring
  have inexact : (k : ℚ) * 2 ^ q ≠ r.val ↔ rem ≠ 0 := by
    rw [ne_eq, ne_eq, ← sub_eq_zero (a := (k : ℚ) * 2 ^ q), ← neg_sub, above]
    simp [den.ne', unit.ne']
  have twice : 2 * (r.val - k * 2 ^ q) = 2 * rem / d * 2 ^ q := by rw [above]; ring
  refine ⟨k, roundUp rnd neg k rem d, lo, by push_cast; exact hi, ?_, ?_⟩
  · unfold roundUp RoundsUp
    rw [Bool.and_eq_true, bne_iff_ne, inexact, step, twice]
    refine and_congr_right fun _ => ?_
    cases rnd with
    | rtz => simp
    | rdn => simp
    | rup => simp
    | rne =>
      have far : d < 2 * rem ↔ (2 : ℚ) ^ q < 2 * rem / d * 2 ^ q := by
        rw [lt_mul_iff_one_lt_left unit, one_lt_div den]
        exact_mod_cast Iff.rfl
      have tie : 2 * rem = d ↔ 2 * (rem : ℚ) / d * 2 ^ q = 2 ^ q := by
        rw [mul_eq_right₀ unit.ne', div_eq_one_iff_eq den.ne']
        exact_mod_cast Iff.rfl
      simp [← far, ← tie]
    | rna =>
      have half : d ≤ 2 * rem ↔ (2 : ℚ) ^ q ≤ 2 * rem / d * 2 ^ q := by
        rw [le_mul_iff_one_le_left unit, one_le_div den]
        exact_mod_cast Iff.rfl
      simp [← half]
    | sr t =>
      have floor : ⌊(2 : ℚ) ^ 24 * (rem / d)⌋ = (2 ^ 24 * rem / d : Nat) := by
        rw [← mul_div_assoc]
        exact_mod_cast Rat.floor_natCast_div_natCast (2 ^ 24 * rem) d
      rw [frac, floor, decide_eq_true_iff]
      exact_mod_cast Iff.rfl
  · simp only [roundAt, inexact]
    rw [← hk, ← hrem, ← hd']
    have ne : (rem != 0) = decide (rem ≠ 0) := Bool.eq_iff_iff.2 (by simp)
    rw [ne]
    cases roundUp rnd neg k rem d <;> rfl

/-! ### Codes of magnitudes (R155 to R157) -/

/-- What the formats of the machine have in common. -/
structure Fmt.Known (f : Fmt) : Prop where
  frac : 1 ≤ f.m
  exps : 2 ≤ f.e
  e4m3 : f.top = .e4m3 → f.m = 3 ∧ f.maxCode + 1 = 0x7F

theorem Fmt.known {f : Fmt} (h : f ∈ [Fmt.f32, Fmt.f16, Fmt.bf16, Fmt.e4m3, Fmt.e5m2, Fmt.e2m1, Fmt.a48]) : f.Known := by
  simp only [List.mem_cons, List.not_mem_nil, or_false] at h
  rcases h with rfl | rfl | rfl | rfl | rfl | rfl | rfl <;> exact ⟨by decide, by decide, by decide⟩

/-- The exponent of the smallest magnitude. -/
def Fmt.qmin (f : Fmt) : Int := f.emin - f.m

/-- The magnitude of a code, where the codes past the largest go on as the others do. -/
def Fmt.mag (f : Fmt) (n : Nat) : ℚ := (n - (n / 2 ^ f.m - 1) * 2 ^ f.m : Nat) * (2 : ℚ) ^ (f.qmin + (n / 2 ^ f.m - 1 : Nat))

namespace Fmt
variable {f : Fmt}

/-- A magnitude by its exponent above the smallest one and its significand. -/
theorem mag_code {j k : Nat} (hk : k ≤ 2 ^ (f.m + 1)) (normal : j = 0 ∨ 2 ^ f.m ≤ k) : f.mag (j * 2 ^ f.m + k) = k * (2 : ℚ) ^ (f.qmin + j) := by
  have pos : 0 < 2 ^ f.m := by positivity
  have ex : (j * 2 ^ f.m + k) / 2 ^ f.m = j + k / 2 ^ f.m := by rw [Nat.add_comm, Nat.add_mul_div_right _ _ pos, Nat.add_comm]
  rw [mag, ex]
  rcases Nat.lt_or_ge k (2 ^ f.m) with small | large
  · obtain rfl : j = 0 := normal.resolve_right (not_le.2 small)
    rw [Nat.div_eq_of_lt small]
    simp
  · rcases hk.lt_or_eq with below | rfl
    · have one : k / 2 ^ f.m = 1 := Nat.div_eq_of_lt_le (by omega) (by rw [pow_succ] at below; omega)
      rw [one, Nat.add_sub_cancel, Nat.add_sub_cancel_left]
    · have two : 2 ^ (f.m + 1) / 2 ^ f.m = 2 := by rw [pow_succ, Nat.mul_div_cancel_left _ pos]
      have rest : j * 2 ^ f.m + 2 ^ (f.m + 1) - (j + 2 - 1) * 2 ^ f.m = 2 ^ f.m := by
        rw [show j + 2 - 1 = j + 1 by omega, pow_succ, Nat.add_mul]; omega
      rw [two, rest]
      push_cast
      rw [← add_assoc, zpow_add_one₀ two_ne_zero]
      ring

theorem exists_code (f : Fmt) (n : Nat) : ∃ j k, n = j * 2 ^ f.m + k ∧ k < 2 ^ (f.m + 1) ∧ (j = 0 ∨ 2 ^ f.m ≤ k) := by
  have pos : 0 < 2 ^ f.m := by positivity
  have lt := Nat.mod_lt n pos
  have parts := Nat.div_add_mod' n (2 ^ f.m)
  rcases Nat.eq_zero_or_pos (n / 2 ^ f.m) with zero | some
  · exact ⟨0, n, by simp, by rw [zero] at parts; rw [pow_succ]; omega, .inl rfl⟩
  · refine ⟨n / 2 ^ f.m - 1, 2 ^ f.m + n % 2 ^ f.m, ?_, by rw [pow_succ]; omega, .inr (by omega)⟩
    obtain ⟨x, hx⟩ : ∃ x, n / 2 ^ f.m = x + 1 := ⟨n / 2 ^ f.m - 1, by omega⟩
    rw [hx, Nat.add_mul] at parts
    rw [hx, Nat.add_sub_cancel]
    omega

theorem mag_strictMono (f : Fmt) : StrictMono f.mag := by
  refine strictMono_nat_of_lt_succ fun n => ?_
  obtain ⟨j, k, rfl, hk, normal⟩ := f.exists_code n
  rw [mag_code hk.le normal, Nat.add_assoc, mag_code hk (normal.imp_right (Nat.le_succ_of_le ·))]
  have : (0 : ℚ) < 2 ^ (f.qmin + j) := by positivity
  push_cast
  linarith

theorem mag_zero (f : Fmt) : f.mag 0 = 0 := by simp [mag]

/-- The code of a magnitude that a format holds. -/
theorem encodeMag_eq {j k : Nat} (hk : k ≤ 2 ^ (f.m + 1)) (normal : j = 0 ∨ 2 ^ f.m ≤ k) : encodeMag f k (f.qmin + j) = j * 2 ^ f.m + k := by
  rcases Nat.eq_zero_or_pos k with rfl | pos
  · rcases normal with rfl | h
    · simp [encodeMag]
    · exact absurd h (by simp)
  have e : f.qmin = f.emin - f.m := rfl
  rw [encodeMag, if_neg pos.ne']
  dsimp only
  rcases Nat.lt_or_ge k (2 ^ f.m) with small | large
  · obtain rfl : j = 0 := normal.resolve_right (not_le.2 small)
    have log : Nat.log2 k < f.m := (Nat.log2_lt pos.ne').2 small
    rw [if_pos (by omega), e]
    simp
  · have exp_pos (i : Nat) : (f.emin + j + i + f.bias).toNat = j + 1 + i := by rw [Fmt.emin]; omega
    rcases hk.lt_or_eq with below | rfl
    · have log : Nat.log2 k = f.m := (Nat.log2_eq_iff pos.ne').2 ⟨large, below⟩
      have fr : k % 2 ^ f.m = k - 2 ^ f.m := by
        rw [Nat.mod_eq_sub_mod large, Nat.mod_eq_of_lt]
        rw [pow_succ] at below
        omega
      rw [log, if_neg (by omega), if_pos (by omega), show (f.m : Int) + (f.qmin + j) + f.bias = f.emin + j + (0 : Nat) + f.bias by omega, exp_pos,
        show (f.m : Int) + (f.qmin + j) - f.m - (f.qmin + j) = 0 by omega]
      simp only [Int.toNat_zero, pow_zero, Nat.div_one, fr, Nat.add_mul]
      omega
    · have log : Nat.log2 (2 ^ (f.m + 1)) = f.m + 1 := Nat.log2_two_pow
      rw [log, if_neg (by push_cast; omega), if_pos (by push_cast; omega),
        show ((f.m + 1 : Nat) : Int) + (f.qmin + j) + f.bias = f.emin + j + (1 : Nat) + f.bias by push_cast; omega, exp_pos,
        show ((f.m + 1 : Nat) : Int) + (f.qmin + j) - f.m - (f.qmin + j) = 1 by push_cast; omega]
      rw [Int.toNat_one, pow_succ, pow_one, Nat.mul_div_cancel _ (by decide), Nat.mod_self]
      ring

section
variable (known : f.Known)
include known

theorem maxCode_lt : f.maxCode < 2 ^ (f.e + f.m) := by
  have := known.exps
  have two : 2 ≤ 2 ^ (f.e + f.m) := by
    calc 2 = 2 ^ 1 := rfl
      _ ≤ _ := Nat.pow_le_pow_right (by decide) (by omega)
  have ieee : (2 ^ f.e - 1) * 2 ^ f.m ≤ 2 ^ (f.e + f.m) := by
    rw [pow_add]
    exact Nat.mul_le_mul_right _ (Nat.sub_le _ _)
  unfold maxCode
  split <;> omega

/-- The codes of numbers. -/
theorem special_iff {n : Nat} (hn : n < 2 ^ (f.e + f.m)) :
    f.maxCode < n ↔ n / 2 ^ f.m = 2 ^ f.e - 1 ∧ (f.top = .ieee ∨ (f.top = .e4m3 ∧ n % 2 ^ f.m = 7)) := by
  have pos : 0 < 2 ^ f.m := by positivity
  have ex_lt : n / 2 ^ f.m < 2 ^ f.e := by rw [Nat.div_lt_iff_lt_mul pos, ← pow_add]; exact hn
  have parts := Nat.div_add_mod' n (2 ^ f.m)
  have lt := Nat.mod_lt n pos
  have two : 2 ≤ 2 ^ f.e := by
    calc 2 = 2 ^ 1 := rfl
      _ ≤ _ := Nat.pow_le_pow_right (by decide) (by have := known.exps; omega)
  cases top : f.top with
  | ieee =>
    have large : (2 ^ f.e - 1) * 2 ^ f.m - 1 < n ↔ 2 ^ f.e - 1 ≤ n / 2 ^ f.m := by
      rw [Nat.le_div_iff_mul_le pos]
      have : 0 < (2 ^ f.e - 1) * 2 ^ f.m := Nat.mul_pos (by omega) pos
      omega
    rw [maxCode, top]
    simp only [reduceCtorEq, false_and, or_false, and_true]
    omega
  | e4m3 =>
    have m3 := (known.e4m3 top).1
    rw [maxCode, top]
    rw [m3] at parts lt hn ex_lt ⊢
    simp only [reduceCtorEq, false_or, true_and]
    rw [pow_add] at hn ⊢
    omega
  | finite =>
    rw [maxCode, top]
    simp only [reduceCtorEq, false_and, or_false, and_false, iff_false]
    omega

theorem unpack_number {x : Nat} (hx : x % 2 ^ (f.e + f.m) ≤ f.maxCode) :
    unpack f x = .fin (x / 2 ^ (f.e + f.m) % 2 == 1) (x % 2 ^ (f.e + f.m) - (x % 2 ^ (f.e + f.m) / 2 ^ f.m - 1) * 2 ^ f.m)
      (f.qmin + (x % 2 ^ (f.e + f.m) / 2 ^ f.m - 1 : Nat)) := by
  obtain ⟨n, hn⟩ : ∃ n, n = x % 2 ^ (f.e + f.m) := ⟨_, rfl⟩
  have fr : x % 2 ^ f.m = n % 2 ^ f.m := by rw [hn, Nat.add_comm, pow_add, Nat.mod_mul_right_mod]
  have ex : x / 2 ^ f.m % 2 ^ f.e = n / 2 ^ f.m := by rw [hn, Nat.add_comm, pow_add, Nat.mod_mul_right_div_self]
  have number := mt (f.special_iff known (hn ▸ Nat.mod_lt x (by positivity))).2 (not_lt.2 (hn ▸ hx))
  have parts := Nat.div_add_mod' n (2 ^ f.m)
  have lt := Nat.mod_lt n (by positivity : 0 < 2 ^ f.m)
  rw [not_and_or, not_or] at number
  unfold unpack
  simp only [fr, ex, ← hn]
  rw [if_neg (by tauto), if_neg (by tauto)]
  rcases Nat.eq_zero_or_pos (n / 2 ^ f.m) with zero | some
  · rw [if_pos zero, zero]
    rw [zero] at parts
    simp only [Nat.zero_sub, Nat.zero_mul, Nat.sub_zero, Nat.cast_zero, add_zero]
    rw [show n % 2 ^ f.m = n by omega]
    rfl
  · rw [if_neg some.ne']
    obtain ⟨j, hj⟩ : ∃ j, n / 2 ^ f.m = j + 1 := ⟨n / 2 ^ f.m - 1, by omega⟩
    rw [hj] at parts ⊢
    rw [Nat.add_mul] at parts
    rw [Nat.add_sub_cancel, show n - j * 2 ^ f.m = 2 ^ f.m + n % 2 ^ f.m by omega]
    have : f.qmin = 1 - f.bias - f.m := rfl
    rw [show ((j + 1 : Nat) : Int) - f.bias - f.m = f.qmin + j by push_cast; omega]

theorem value_number {x : Nat} (hx : x % 2 ^ (f.e + f.m) ≤ f.maxCode) :
    (unpack f x).value = (if x / 2 ^ (f.e + f.m) % 2 == 1 then -1 else 1) * f.mag (x % 2 ^ (f.e + f.m)) := by
  rw [unpack_number known hx, Fl.value_fin, mul_assoc]
  rfl

theorem finite_iff {x : Nat} : (unpack f x).finite = true ↔ x % 2 ^ (f.e + f.m) ≤ f.maxCode := by
  refine ⟨fun fin => ?_, fun h => by rw [unpack_number known h]; rfl⟩
  by_contra special
  obtain ⟨top, kind⟩ := (f.special_iff known (Nat.mod_lt x (by positivity))).1 (not_le.1 special)
  rw [Nat.add_comm, pow_add, Nat.mod_mul_right_div_self] at top
  rw [pow_add, Nat.mul_comm, Nat.mod_mul_right_mod] at kind
  unfold unpack at fin
  simp only [top, true_and] at fin
  rcases kind with ieee | ⟨e4m3, seven⟩
  · rw [if_pos ieee] at fin
    split at fin <;> cases fin
  · rw [if_neg (by simp [e4m3]), if_pos ⟨e4m3, seven⟩] at fin
    cases fin

end

/-- The fields of a code put together from a sign and a magnitude. -/
theorem withSign_fields {neg : Bool} {n : Nat} (hn : n < 2 ^ (f.e + f.m)) :
    withSign f neg n % 2 ^ (f.e + f.m) = n ∧ (withSign f neg n / 2 ^ (f.e + f.m) % 2 == 1) = neg ∧
      withSign f neg n / 2 ^ (f.width - 1) = if neg then 1 else 0 := by
  have w : f.width - 1 = f.e + f.m := by unfold width; omega
  rw [w]
  cases neg with
  | false => simp [withSign, Nat.mod_eq_of_lt hn, Nat.div_eq_of_lt hn]
  | true => simp [withSign, Nat.mod_eq_of_lt hn, Nat.div_eq_of_lt hn, Nat.add_div_left]

theorem withSign_parity (h : 1 ≤ f.m) (neg : Bool) (n : Nat) : withSign f neg n % 2 = n % 2 := by
  have even : 2 ^ (f.e + f.m) % 2 = 0 := by
    obtain ⟨k, hk⟩ : ∃ k, f.e + f.m = k + 1 := ⟨f.e + f.m - 1, by omega⟩
    rw [hk, pow_succ, Nat.mul_mod_left]
  cases neg <;> simp [withSign]
  omega

section
variable (known : f.Known)
include known

/-- A number put together from a sign and a magnitude. -/
theorem withSign_number {n : Nat} (hn : n ≤ f.maxCode) (neg : Bool) :
    (unpack f (withSign f neg n)).finite = true ∧ (unpack f (withSign f neg n)).value = (if neg then -1 else 1) * f.mag n := by
  obtain ⟨mod, sign, _⟩ := f.withSign_fields (neg := neg) (hn.trans_lt (f.maxCode_lt known))
  have le : withSign f neg n % 2 ^ (f.e + f.m) ≤ f.maxCode := by rw [mod]; exact hn
  rw [finite_iff known, value_number known le, mod, sign]
  exact ⟨hn, rfl⟩

/-- The numbers of a format. -/
theorem has_iff (u : ℚ) : (∃ d, (unpack f d).finite = true ∧ (unpack f d).value = u) ↔ ∃ i, i ≤ f.maxCode ∧ |u| = f.mag i := by
  have nonneg (i : Nat) : 0 ≤ f.mag i := f.mag_zero ▸ f.mag_strictMono.monotone i.zero_le
  constructor
  · rintro ⟨d, fin, rfl⟩
    have le := (finite_iff known).1 fin
    refine ⟨_, le, ?_⟩
    rw [value_number known le, abs_mul, abs_of_nonneg (nonneg _)]
    split <;> simp
  · rintro ⟨i, hi, e⟩
    obtain ⟨fin, value⟩ := withSign_number known hi (decide (u < 0))
    refine ⟨_, fin, value.trans ?_⟩
    rw [← e]
    by_cases neg : u < 0
    · simp [neg, abs_of_neg neg]
    · simp [neg, abs_of_nonneg (not_lt.1 neg)]

end

end Fmt

/-! ### Rounding into a format (R166, R168) -/

theorem dyadicGt_eq (k a : Nat) (q b : Int) : dyadicGt k q a b = decide ((a : ℚ) * 2 ^ b < k * 2 ^ q) := by
  unfold dyadicGt
  have step {x y : Int} (h : x ≤ y) : (2 : ℚ) ^ y = 2 ^ (y - x).toNat * 2 ^ x := by
    rw [← zpow_natCast, ← zpow_add₀ two_ne_zero]
    congr 1
    omega
  split
  · next h =>
    refine decide_eq_decide.2 ?_
    rw [step h, ← mul_assoc, mul_lt_mul_iff_left₀ (by positivity)]
    exact_mod_cast Iff.rfl
  · next h =>
    refine decide_eq_decide.2 ?_
    rw [step (not_le.1 h).le, ← mul_assoc, mul_lt_mul_iff_left₀ (by positivity)]
    exact_mod_cast Iff.rfl

theorem unpack_maxCode {f : Fmt} (known : f.Known) : ∃ a b, unpack f f.maxCode = .fin false a b ∧ (a : ℚ) * 2 ^ b = f.mag f.maxCode := by
  have lt := f.maxCode_lt known
  have mod := Nat.mod_eq_of_lt lt
  have code := Fmt.unpack_number known mod.le
  rw [Nat.div_eq_of_lt lt, mod] at code
  exact ⟨_, _, code, rfl⟩

theorem roundsUp_congr {rnd : Rnd} {neg : Bool} {n k : Nat} {lo a hi : ℚ} (h : n % 2 = k % 2) :
    RoundsUp rnd neg n lo a hi ↔ RoundsUp rnd neg k lo a hi := by
  unfold RoundsUp
  rw [h]

/-- The unit at which a number is rounded into a format, and the significand below it. -/
theorem significand_spec {f : Fmt} {x : ℚ} {e : Int} {j k : Nat} (log : (2 : ℚ) ^ e ≤ x ∧ x < 2 ^ (e + 1))
    (hj : (if e < f.emin then f.emin else e) - f.m = f.qmin + j) (lo : (k : ℚ) * 2 ^ (f.qmin + j) ≤ x) (hi : x < (k + 1 : Nat) * (2 : ℚ) ^ (f.qmin + j)) :
    k < 2 ^ (f.m + 1) ∧ (j = 0 ∨ 2 ^ f.m ≤ k) := by
  have unit : (0 : ℚ) < 2 ^ (f.qmin + j) := by positivity
  have emin : f.qmin = f.emin - f.m := rfl
  have scale (i : Nat) : (2 : ℚ) ^ i * 2 ^ (f.qmin + j) = 2 ^ (f.qmin + j + i) := by rw [zpow_add₀ two_ne_zero (f.qmin + j), mul_comm, zpow_natCast]
  constructor
  · have bound : (k : ℚ) * 2 ^ (f.qmin + j) < 2 ^ (f.m + 1) * 2 ^ (f.qmin + j) := by
      rw [scale]
      refine (lo.trans_lt log.2).trans_le (zpow_le_zpow_right₀ one_le_two ?_)
      split at hj <;> push_cast <;> omega
    exact_mod_cast (mul_lt_mul_iff_left₀ unit).1 bound
  · refine or_iff_not_imp_left.2 fun normal => ?_
    have bound : (2 : ℚ) ^ f.m * 2 ^ (f.qmin + j) < (k + 1 : Nat) * 2 ^ (f.qmin + j) := by
      rw [scale]
      refine lt_of_le_of_lt (le_trans (zpow_le_zpow_right₀ one_le_two ?_) log.1) hi
      split at hj <;> omega
    exact Nat.lt_succ_iff.1 (by exact_mod_cast (mul_lt_mul_iff_left₀ unit).1 bound)

/-- A positive number rounded into a format: its magnitude goes to the code below or above it, or overflows. -/
theorem roundTo_spec {f : Fmt} (known : f.Known) (rnd : Rnd) (sat neg : Bool) (r : Ratio) (hn : 0 < r.num) (hd : 0 < r.den) :
    ∃ (n : Nat) (up : Bool), f.mag n ≤ r.val ∧ r.val < f.mag (n + 1) ∧ (up = true ↔ RoundsUp rnd neg n (f.mag n) r.val (f.mag (n + 1))) ∧
      (roundTo f rnd sat neg r).1 = withSign f neg (if n + up.toNat ≤ f.maxCode then n + up.toNat else (overflowMag f rnd sat neg).1) ∧
      (n + up.toNat ≤ f.maxCode → f.mag n = r.val → (roundTo f rnd sat neg r).2 = 0) := by
  obtain ⟨j, hj⟩ : ∃ j : Nat, (if r.log2 < f.emin then f.emin else r.log2) - f.m = f.qmin + j := by
    refine ⟨((if r.log2 < f.emin then f.emin else r.log2) - f.emin).toNat, ?_⟩
    have : f.qmin = f.emin - f.m := rfl
    split <;> omega
  obtain ⟨k, up, lo, hi, hup, rounded⟩ := roundAt_spec rnd neg r (f.qmin + j) hd
  obtain ⟨small, normal⟩ := significand_spec (r.log2_spec hn hd) hj lo hi
  have mag_lo := Fmt.mag_code small.le normal
  have mag_hi := Fmt.mag_code (f := f) (Nat.succ_le_of_lt small) (normal.imp_right (Nat.le_succ_of_le ·))
  have bit : up.toNat ≤ 1 := Bool.toNat_le up
  have fits : k + up.toNat ≤ 2 ^ (f.m + 1) := by omega
  have normal_up : j = 0 ∨ 2 ^ f.m ≤ k + up.toNat := normal.imp_right fun h => h.trans (Nat.le_add_right _ _)
  have mag_up := Fmt.mag_code fits normal_up
  obtain ⟨a, b, most, most_mag⟩ := unpack_maxCode known
  have overflow : dyadicGt (k + up.toNat) (f.qmin + j) a b = decide (f.maxCode < j * 2 ^ f.m + k + up.toNat) := by
    rw [dyadicGt_eq, most_mag, ← mag_up, decide_eq_decide, f.mag_strictMono.lt_iff_lt, Nat.add_assoc]
  have parity : (j * 2 ^ f.m + k) % 2 = k % 2 := by
    obtain ⟨m, hm⟩ : ∃ m, f.m = m + 1 := ⟨f.m - 1, by have := known.frac; omega⟩
    rw [hm, pow_succ, ← Nat.mul_assoc]
    omega
  refine ⟨j * 2 ^ f.m + k, up, ?_, ?_, ?_, ?_⟩
  · rw [mag_lo]; exact lo
  · rw [Nat.add_assoc, mag_hi]; exact hi
  · rw [Nat.add_assoc, mag_hi, mag_lo, roundsUp_congr parity]; exact hup
  · unfold roundTo
    simp only [hj, rounded, most, overflow, Fmt.encodeMag_eq fits normal_up, mag_lo]
    by_cases past : f.maxCode < j * 2 ^ f.m + k + up.toNat
    · rw [if_pos (decide_eq_true past), if_neg (not_le.2 past)]
      exact ⟨rfl, fun le => absurd le (not_le.2 past)⟩
    · rw [if_neg (by simpa using past), if_pos (not_lt.1 past)]
      refine ⟨by rw [Nat.add_assoc], fun _ same => ?_⟩
      simp [same]

/-! ### What a number converts to (R166, R168) -/

/-- Half the unit at the largest magnitude. -/
def Fmt.halfTop (f : Fmt) : ℚ := (2 : ℚ) ^ ((if f.top = .ieee then (f.bias : Int) else f.bias + 1) - f.m - 1)

/-- The code that overflow gives where it does not saturate (R168). -/
def Fmt.pastCode (f : Fmt) : Nat := match f.top with | .ieee => f.infCode | .e4m3 => 0x7F | .finite => f.maxCode

/-- The rounding code gives the largest magnitude for a number past it. -/
def Rnd.toward (rnd : Rnd) (neg : Bool) : Prop := rnd = .rtz ∨ (rnd = .rup ∧ neg = true) ∨ (rnd = .rdn ∧ neg = false)

theorem overflowMag_most {f : Fmt} {rnd : Rnd} {sat neg : Bool} (h : sat = true ∨ rnd.toward neg) : (overflowMag f rnd sat neg).1 = f.maxCode := by
  unfold overflowMag
  dsimp only
  split
  · rfl
  · split
    · rfl
    · rcases h with h | rfl | ⟨rfl, rfl⟩ | ⟨rfl, rfl⟩
      · contradiction
      · rfl
      · rfl
      · rfl

theorem overflowMag_past {f : Fmt} {rnd : Rnd} {neg : Bool} (h : ¬ rnd.toward neg) : (overflowMag f rnd false neg).1 = f.pastCode := by
  unfold overflowMag Fmt.pastCode
  dsimp only
  split
  · next top => rw [top]
  · rw [if_neg (by simp)]
    cases rnd with
    | rtz => exact absurd (.inl rfl) h
    | rdn =>
      cases neg with
      | true => rfl
      | false => exact absurd (.inr (.inr ⟨rfl, rfl⟩)) h
    | rup =>
      cases neg with
      | false => rfl
      | true => exact absurd (.inr (.inl ⟨rfl, rfl⟩)) h
    | _ => rfl

namespace Fmt
variable {f : Fmt} (known : f.Known)
include known

theorem pastCode_lt : f.pastCode < 2 ^ (f.e + f.m) := by
  have most := f.maxCode_lt known
  have pos : 0 < 2 ^ f.m := by positivity
  unfold pastCode
  split
  · rw [infCode, pow_add]
    exact Nat.mul_lt_mul_of_pos_right (Nat.sub_lt (by positivity) one_pos) pos
  · next top =>
    have seven := (known.e4m3 top).2
    have code : f.maxCode = 2 ^ (f.e + f.m) - 2 := by rw [maxCode, top]
    omega
  · exact most

/-- The largest magnitude by its exponent and significand. -/
theorem maxCode_eq : f.maxCode = (if f.top = .ieee then 2 ^ f.e - 3 else 2 ^ f.e - 2) * 2 ^ f.m + (if f.top = .e4m3 then 2 ^ (f.m + 1) - 2 else 2 ^ (f.m + 1) - 1) := by
  have two : 2 ≤ 2 ^ f.m := by
    calc 2 = 2 ^ 1 := rfl
      _ ≤ _ := Nat.pow_le_pow_right (by decide) known.frac
  have four : 4 ≤ 2 ^ f.e := by
    calc 4 = 2 ^ 2 := rfl
      _ ≤ _ := Nat.pow_le_pow_right (by decide) known.exps
  obtain ⟨x, hx⟩ : ∃ x, 2 ^ f.e = x + 4 := ⟨2 ^ f.e - 4, by omega⟩
  unfold maxCode
  cases f.top <;> simp only [if_true, if_false, reduceCtorEq, pow_add, hx, pow_one] <;>
    simp only [Nat.add_mul, show x + 4 - 1 = x + 3 by omega, show x + 4 - 3 = x + 1 by omega, show x + 4 - 2 = x + 2 by omega] <;> omega

/-- The exponent of the unit at the largest magnitude. -/
theorem qmin_add_top : f.qmin + (if f.top = .ieee then 2 ^ f.e - 3 else 2 ^ f.e - 2 : Nat) = (if f.top = .ieee then (f.bias : Int) else f.bias + 1) - f.m := by
  have double : 2 ^ f.e = 2 * 2 ^ (f.e - 1) := by rw [← pow_succ']; congr 1; have := known.exps; omega
  have two : 2 ≤ 2 ^ (f.e - 1) := by
    calc 2 = 2 ^ 1 := rfl
      _ ≤ _ := Nat.pow_le_pow_right (by decide) (by have := known.exps; omega)
  have bias : f.bias = 2 ^ (f.e - 1) - 1 := rfl
  have qmin : f.qmin = 1 - (f.bias : Int) - f.m := rfl
  split <;> omega

theorem mag_maxCode :
    f.mag f.maxCode = (if f.top = .e4m3 then 2 ^ (f.m + 1) - 2 else 2 ^ (f.m + 1) - 1 : Nat) * (2 * f.halfTop) ∧
      f.mag (f.maxCode + 1) = f.mag f.maxCode + 2 * f.halfTop := by
  have two : 2 ≤ 2 ^ f.m := by
    calc 2 = 2 ^ 1 := rfl
      _ ≤ _ := Nat.pow_le_pow_right (by decide) known.frac
  have double : 2 ^ (f.m + 1) = 2 * 2 ^ f.m := pow_succ' 2 f.m
  have unit : 2 * f.halfTop = (2 : ℚ) ^ (f.qmin + (if f.top = .ieee then 2 ^ f.e - 3 else 2 ^ f.e - 2 : Nat)) := by
    rw [qmin_add_top known, halfTop, ← zpow_one_add₀ two_ne_zero]
    congr 1
    omega
  have significand : 2 ^ f.m ≤ (if f.top = .e4m3 then 2 ^ (f.m + 1) - 2 else 2 ^ (f.m + 1) - 1) ∧
      (if f.top = .e4m3 then 2 ^ (f.m + 1) - 2 else 2 ^ (f.m + 1) - 1) + 1 ≤ 2 ^ (f.m + 1) := by split <;> omega
  obtain ⟨normal, fits⟩ := significand
  rw [maxCode_eq known, Nat.add_assoc, mag_code fits (.inr (Nat.le_succ_of_le normal)), mag_code (Nat.le_of_succ_le fits) (.inr normal), unit]
  refine ⟨rfl, ?_⟩
  push_cast
  ring

theorem maxCode_parity : f.maxCode % 2 = if f.top = .e4m3 then 0 else 1 := by
  obtain ⟨m, hm⟩ : ∃ m, f.m = m + 1 := ⟨f.m - 1, by have := known.frac; omega⟩
  have pos : 0 < 2 ^ m := by positivity
  rw [maxCode_eq known, hm, pow_succ, pow_succ, pow_succ, ← Nat.mul_assoc]
  split <;> split <;> omega

omit known in
theorem halfTop_pos : 0 < f.halfTop := by unfold halfTop; positivity

theorem value_maxCode : (unpack f f.maxCode).value = f.mag f.maxCode := by
  obtain ⟨a, b, code, mag⟩ := unpack_maxCode known
  rw [code, ← mag]
  simp

theorem overflowMag_lt (rnd : Rnd) (sat neg : Bool) : (overflowMag f rnd sat neg).1 < 2 ^ (f.e + f.m) := by
  by_cases h : sat = true ∨ rnd.toward neg
  · rw [overflowMag_most h]
    exact f.maxCode_lt known
  · rw [not_or, Bool.not_eq_true] at h
    rw [h.1, overflowMag_past h.2]
    exact pastCode_lt known

end Fmt

section
variable {f : Fmt} (known : f.Known) {rnd : Rnd} {sat neg up : Bool} {a : ℚ} {n : Nat} (lo : f.mag n ≤ a) (hi : a < f.mag (n + 1))
  (hup : up = true ↔ RoundsUp rnd neg n (f.mag n) a (f.mag (n + 1)))
include known lo hi hup

omit known in
theorem le_maxCode_of_le (h : a ≤ f.mag f.maxCode) : n + up.toNat ≤ f.maxCode := by
  have le : n ≤ f.maxCode := (f.mag_strictMono.le_iff_le).1 (lo.trans h)
  rcases le.lt_or_eq with lt | rfl
  · exact (Nat.add_le_add_left up.toNat_le n).trans lt
  · cases up with
    | false => exact le
    | true => exact absurd (le_antisymm lo h) (hup.1 rfl).1

/-- Past the largest magnitude, but not by half a unit, the number goes to the largest magnitude or overflows to it. -/
theorem code_most (past : f.mag f.maxCode < a)
    (h : sat = true ∨ rnd.toward neg ∨ ((rnd = .rne ∨ rnd = .rna) ∧ a < f.mag f.maxCode + f.halfTop) ∨
      (a = f.mag f.maxCode + f.halfTop ∧ rnd = .rne ∧ f.top = .e4m3)) :
    (if n + up.toNat ≤ f.maxCode then n + up.toNat else (overflowMag f rnd sat neg).1) = f.maxCode := by
  have half := f.halfTop_pos
  have next := (Fmt.mag_maxCode known).2
  have ge : f.maxCode ≤ n := Nat.lt_succ_iff.1 (f.mag_strictMono.lt_iff_lt.1 (past.trans hi))
  have clamped (most : sat = true ∨ rnd.toward neg) :
      (if n + up.toNat ≤ f.maxCode then n + up.toNat else (overflowMag f rnd sat neg).1) = f.maxCode := by
    rw [overflowMag_most most]
    split <;> omega
  have rounded (below : a < f.mag (f.maxCode + 1)) (down : n = f.maxCode → up = false) :
      (if n + up.toNat ≤ f.maxCode then n + up.toNat else (overflowMag f rnd sat neg).1) = f.maxCode := by
    have same : n = f.maxCode := le_antisymm (Nat.lt_succ_iff.1 (f.mag_strictMono.lt_iff_lt.1 (lo.trans_lt below))) ge
    rw [down same, same]
    exact if_pos le_rfl
  rcases h with h | h | ⟨nearest, close⟩ | ⟨tie, rfl, top⟩
  · exact clamped (.inl h)
  · exact clamped (.inr h)
  · refine rounded (by linarith) fun same => Bool.eq_false_iff.2 fun isUp => ?_
    subst same
    obtain ⟨_, far⟩ := hup.1 isUp
    rcases nearest with rfl | rfl
    · rcases far with far | ⟨tie, _⟩ <;> linarith
    · dsimp only at far
      linarith
  · refine rounded (by linarith) fun same => Bool.eq_false_iff.2 fun isUp => ?_
    subst same
    obtain ⟨_, far | ⟨_, odd⟩⟩ := hup.1 isUp
    · linarith
    · rw [Fmt.maxCode_parity known, if_pos top] at odd
      cases odd

/-- Past the largest magnitude by enough, the number overflows. -/
theorem code_past (past : f.mag f.maxCode < a) (unsat : sat = false)
    (h : ((rnd = .rup ∧ neg = false) ∨ (rnd = .rdn ∧ neg = true)) ∨ ((rnd = .rne ∨ rnd = .rna) ∧ f.mag f.maxCode + f.halfTop < a) ∨
      (a = f.mag f.maxCode + f.halfTop ∧ (rnd = .rna ∨ (rnd = .rne ∧ f.top = .ieee))) ∨ ((∃ r, rnd = .sr r) ∧ f.mag f.maxCode + 2 * f.halfTop ≤ a)) :
    (if n + up.toNat ≤ f.maxCode then n + up.toNat else (overflowMag f rnd sat neg).1) = f.pastCode := by
  have half := f.halfTop_pos
  have next := (Fmt.mag_maxCode known).2
  have ge : f.maxCode ≤ n := Nat.lt_succ_iff.1 (f.mag_strictMono.lt_iff_lt.1 (past.trans hi))
  have away : ¬ rnd.toward neg := by
    unfold Rnd.toward
    rcases h with (⟨rfl, rfl⟩ | ⟨rfl, rfl⟩) | ⟨rfl | rfl, _⟩ | ⟨_, rfl | ⟨rfl, _⟩⟩ | ⟨⟨r, rfl⟩, _⟩ <;> simp
  have overflows : ¬ n + up.toNat ≤ f.maxCode := by
    intro le
    obtain rfl : n = f.maxCode := by omega
    obtain rfl : up = false := by
      cases up with
      | false => rfl
      | true => simp at le
    have notUp : ¬ RoundsUp rnd neg f.maxCode (f.mag f.maxCode) a (f.mag (f.maxCode + 1)) := by simpa using hup
    refine notUp ⟨past.ne, ?_⟩
    rcases h with (⟨rfl, rfl⟩ | ⟨rfl, rfl⟩) | ⟨rfl | rfl, far⟩ | ⟨tie, rfl | ⟨rfl, top⟩⟩ | ⟨⟨r, rfl⟩, far⟩
    · rfl
    · rfl
    · exact .inl (by linarith)
    · dsimp only
      linarith
    · dsimp only
      linarith
    · exact .inr ⟨by linarith, by rw [Fmt.maxCode_parity known, top]; rfl⟩
    · linarith
  rw [if_neg overflows, unsat, overflowMag_past away]

end

/-- A number of a magnitude between neighbours, rounded to one of them, converts as it rounds. -/
theorem convertsTo_of_code {f : Fmt} (known : f.Known) {rnd : Rnd} {sat neg up : Bool} {a : ℚ} {n : Nat} (lo : f.mag n ≤ a) (hi : a < f.mag (n + 1))
    (hup : up = true ↔ RoundsUp rnd neg n (f.mag n) a (f.mag (n + 1))) :
    ConvertsTo f rnd sat neg ((if neg then -1 else 1) * a)
      (withSign f neg (if n + up.toNat ≤ f.maxCode then n + up.toNat else (overflowMag f rnd sat neg).1)) := by
  have nonneg : 0 ≤ a := (f.mag_zero ▸ f.mag_strictMono.monotone n.zero_le).trans lo
  have abs_value : |(if neg then -1 else 1) * a| = a := by cases neg <;> simp [abs_of_nonneg nonneg]
  have small : (if n + up.toNat ≤ f.maxCode then n + up.toNat else (overflowMag f rnd sat neg).1) < 2 ^ (f.e + f.m) := by
    split
    · next h => exact h.trans_lt (f.maxCode_lt known)
    · exact Fmt.overflowMag_lt known rnd sat neg
  unfold ConvertsTo
  simp only [abs_value, Fmt.value_maxCode known]
  refine ⟨(f.withSign_fields small).2.2, fun le => ?_, fun past => ⟨fun h => ?_, fun unsat h => ?_⟩⟩
  · have fits := le_maxCode_of_le lo hi hup le
    rw [if_pos fits]
    obtain ⟨fin, value⟩ := Fmt.withSign_number known fits neg
    refine ⟨fin, ?_⟩
    rw [value, f.withSign_parity known.frac]
    exact rounds_grid f.mag_strictMono f.mag_zero (Fmt.has_iff known) (fun i j hij hj => hij.trans hj) lo hi hup fits
  · rw [code_most known lo hi hup past (by unfold Rnd.toward; unfold Fmt.halfTop; tauto)]
  · rw [code_past known lo hi hup past unsat (by unfold Fmt.halfTop; tauto)]
    rfl

/-- A finite number converts as it rounds, without a flag where it is exact. -/
theorem convertFl_fin {f : Fmt} (known : f.Known) (rnd : Rnd) (sat neg : Bool) (k : Nat) (e : Int) :
    ConvertsTo f rnd sat neg (Fl.fin neg k e).value (convertFl f rnd sat (.fin neg k e)).1 ∧
      ((unpack f (convertFl f rnd sat (.fin neg k e)).1).finite = true →
        (unpack f (convertFl f rnd sat (.fin neg k e)).1).value = (Fl.fin neg k e).value → (convertFl f rnd sat (.fin neg k e)).2 = 0) := by
  cases k with
  | zero =>
    have zero := convertsTo_of_code known (rnd := rnd) (sat := sat) (neg := neg) (up := false) (a := 0) (n := 0) f.mag_zero.le
      (f.mag_zero ▸ f.mag_strictMono one_pos) (by simp [RoundsUp, f.mag_zero])
    simp only [mul_zero, Bool.toNat_false, add_zero, Nat.zero_le, if_true] at zero
    rw [Fl.value_of_mant_zero]
    exact ⟨zero, fun _ _ => rfl⟩
  | succ k =>
    obtain ⟨n, up, lo, hi, hup, code, flags⟩ := roundTo_spec known rnd sat neg ⟨k + 1, 1, e⟩ k.succ_pos one_pos
    have value : (Fl.fin neg (k + 1) e).value = (if neg then -1 else 1) * Ratio.val ⟨k + 1, 1, e⟩ := by
      simp only [Ratio.val, Fl.value_fin, Nat.cast_one, div_one]
      ring
    have converted : convertFl f rnd sat (.fin neg (k + 1) e) = roundTo f rnd sat neg ⟨k + 1, 1, e⟩ := rfl
    rw [converted, value, code]
    refine ⟨convertsTo_of_code known lo hi hup, fun fin same => ?_⟩
    have nonneg : 0 ≤ Ratio.val ⟨k + 1, 1, e⟩ := (f.mag_zero ▸ f.mag_strictMono.monotone n.zero_le).trans lo
    obtain ⟨i, hi', held⟩ := (Fmt.has_iff known _).1 ⟨_, fin, same⟩
    have held : Ratio.val ⟨k + 1, 1, e⟩ = f.mag i := by rw [← held]; cases neg <;> simp [abs_of_nonneg nonneg]
    rw [held] at lo hi
    obtain rfl : n = i := le_antisymm (f.mag_strictMono.le_iff_le.1 lo) (Nat.lt_succ_iff.1 (f.mag_strictMono.lt_iff_lt.1 hi))
    have down : up = false := Bool.eq_false_iff.2 fun isUp => (hup.1 isUp).1 held.symm
    exact flags (by rw [down]; exact hi') held.symm

end Sys2Proof.Machine

end

/-! PROOFS. Float arithmetic: exact results rounded once (R166, R169, R229, R254). -/

section

namespace Sys2Proof.Machine

/-! ### The nearest code -/

/-- Of the numbers up to a largest magnitude, the largest is the nearest one to what is past it. -/
theorem nearest_largest {most u v : ℚ} {neg : Bool} (small : |u| ≤ most) (past : most < |v|) (value : v = (if neg then -1 else 1) * |v|) :
    |(if neg then -1 else 1) * most - v| ≤ |u - v| ∧ (|(if neg then -1 else 1) * most - v| = |u - v| → u = (if neg then -1 else 1) * most) := by
  obtain ⟨lower, upper⟩ := abs_le.1 small
  cases neg with
  | false =>
    simp only [Bool.false_eq_true, if_false, one_mul] at value ⊢
    rw [abs_of_nonpos (by linarith : most - v ≤ 0), abs_of_nonpos (by linarith : u - v ≤ 0)]
    exact ⟨by linarith, fun e => by linarith⟩
  | true =>
    simp only [if_true, neg_one_mul] at value ⊢
    rw [abs_of_nonneg (by linarith : 0 ≤ -most - v), abs_of_nonneg (by linarith : 0 ≤ u - v)]
    exact ⟨by linarith, fun e => by linarith⟩

section
variable {f : Fmt} (known : f.Known) (ieee : f.top = .ieee)
include known ieee

theorem unpack_infCode (neg : Bool) : unpack f (withSign f neg f.infCode) = .inf neg := by
  have past : f.pastCode = f.infCode := by rw [Fmt.pastCode, ieee]
  obtain ⟨mod, sign, _⟩ := f.withSign_fields (neg := neg) (past ▸ Fmt.pastCode_lt known)
  have fr : withSign f neg f.infCode % 2 ^ f.m = 0 := by
    rw [← Nat.mod_mul_right_mod _ (2 ^ f.m) (2 ^ f.e), ← pow_add, Nat.add_comm f.m, mod, Fmt.infCode, Nat.mul_mod_left]
  have ex : withSign f neg f.infCode / 2 ^ f.m % 2 ^ f.e = 2 ^ f.e - 1 := by
    rw [← Nat.mod_mul_right_div_self, ← pow_add, Nat.add_comm f.m, mod, Fmt.infCode, Nat.mul_div_cancel _ (by positivity)]
  unfold unpack
  simp only [fr, ex, sign, ieee, and_self, if_true]

/-- From half a unit past the largest number on a number is rounded to an infinity. -/
theorem top_eq : (2 : ℚ) ^ (f.bias + 1) - (2 : ℚ) ^ ((f.bias : Int) - f.m - 1) = f.mag f.maxCode + f.halfTop := by
  have half : f.halfTop = (2 : ℚ) ^ ((f.bias : Int) - f.m - 1) := by rw [Fmt.halfTop, if_pos ieee]
  have whole : (2 : ℚ) ^ (f.bias + 1) = 2 ^ (f.m + 1) * (2 * f.halfTop) := by
    rw [half, ← zpow_one_add₀ two_ne_zero, ← zpow_natCast, ← zpow_natCast, ← zpow_add₀ two_ne_zero]
    congr 1
    push_cast
    omega
  rw [(Fmt.mag_maxCode known).1, whole, ← half, if_neg (by rw [ieee]; decide), Nat.cast_sub Nat.one_le_two_pow]
  push_cast
  ring

theorem nearestCode_of_convertsTo {neg : Bool} {v : ℚ} {c : Nat} (h : ConvertsTo f .rne false neg v c) (value : v = (if neg then -1 else 1) * |v|)
    (sign : v ≠ 0 → neg = decide (v < 0)) : NearestCode f v c := by
  obtain ⟨_, within, past⟩ := h
  have half := f.halfTop_pos
  have half_eq : (2 : ℚ) ^ ((if f.top = .ieee then (f.bias : Int) else f.bias + 1) - f.m - 1) = f.halfTop := rfl
  rw [Fmt.value_maxCode known] at within past
  rw [half_eq] at past
  unfold NearestCode
  simp only [top_eq known ieee]
  rcases le_or_gt |v| (f.mag f.maxCode) with le | gt
  · obtain ⟨fin, _, pick⟩ := within le
    cases code : unpack f c with
    | nan => rw [code] at fin; cases fin
    | inf => rw [code] at fin; cases fin
    | fin s m e =>
      rw [code] at pick
      exact ⟨by linarith, fun d hd => pick _ ⟨d, hd, rfl⟩⟩
  · obtain ⟨most, inf⟩ := past gt
    rcases lt_or_ge |v| (f.mag f.maxCode + f.halfTop) with below | above
    · rw [most (.inr (.inr (.inl ⟨.inl rfl, below⟩)))]
      obtain ⟨fin, largest⟩ := Fmt.withSign_number known le_rfl neg
      cases code : unpack f (withSign f neg f.maxCode) with
      | nan => rw [code] at fin; cases fin
      | inf => rw [code] at fin; cases fin
      | fin s m e =>
        refine ⟨below, fun d hd => ?_⟩
        rw [code] at largest
        obtain ⟨i, hi, mag⟩ := (Fmt.has_iff known _).1 ⟨d, hd, rfl⟩
        obtain ⟨le, same⟩ := nearest_largest (mag ▸ f.mag_strictMono.monotone hi) gt value
        rw [largest]
        exact ⟨le, fun e ne => absurd (same e) ne⟩
    · have past_eq : f.pastCode = f.infCode := by rw [Fmt.pastCode, ieee]
      have c_inf : c = withSign f neg f.pastCode := inf rfl (above.lt_or_eq.elim (fun gt => .inr (.inl ⟨.inl rfl, gt⟩))
        fun tie => .inr (.inr (.inl ⟨tie.symm, .inr ⟨rfl, ieee⟩⟩)))
      rw [c_inf, past_eq, unpack_infCode known ieee]
      refine ⟨above, sign fun zero => ?_⟩
      rw [zero, abs_zero] at gt
      exact absurd gt (not_lt.2 (f.mag_zero ▸ f.mag_strictMono.monotone (Nat.zero_le _)))

/-- A number rounded to nearest even. -/
theorem nearestCode_rne {x : Fl} (hx : x.finite = true) : NearestCode f x.value (rne f x).1 := by
  cases x with
  | nan => cases hx
  | inf => cases hx
  | fin neg k e =>
    refine nearestCode_of_convertsTo known ieee (convertFl_fin known .rne false neg k e).1 ?_ fun ne => ?_
    · rw [Fl.value_fin, mul_assoc, abs_mul, abs_of_nonneg (by positivity : (0 : ℚ) ≤ k * 2 ^ e)]
      cases neg <;> simp
    · rw [Fl.value_fin, mul_assoc] at ne ⊢
      have pos : (0 : ℚ) < k * 2 ^ e := lt_of_le_of_ne (by positivity) fun zero => ne (by rw [← zero, mul_zero])
      cases neg with
      | false => simp [pos.le]
      | true => simp [pos]

end

/-! ### Exact results -/

theorem addFin_value (s t : Bool) (m k : Nat) (e i : Int) :
    (addFin s m e t k i).value = (Fl.fin s m e).value + (Fl.fin t k i).value ∧ (addFin s m e t k i).finite = true := by
  rw [Fl.value_scaled s m (min_le_left e i), Fl.value_scaled t k (min_le_right e i), ← add_mul, ← Int.cast_add]
  unfold addFin
  dsimp only
  generalize (if s = true then -((m * 2 ^ (e - min e i).toNat : Nat) : Int) else _) + (if t = true then _ else _) = v
  split
  · next zero => exact ⟨by simp [zero], rfl⟩
  · refine ⟨?_, rfl⟩
    rw [Fl.value_fin]
    congr 1
    have abs_eq : ((v.natAbs : Nat) : ℚ) = |(v : ℚ)| := by rw [Nat.cast_natAbs, Int.cast_abs]
    rw [abs_eq]
    by_cases neg : v < 0
    · have : (v : ℚ) < 0 := by exact_mod_cast neg
      simp [neg, abs_of_neg this]
    · have : (0 : ℚ) ≤ v := by exact_mod_cast not_lt.1 neg
      simp [neg, abs_of_nonneg this]

/-- The sum of two numbers, exactly. -/
theorem addFl_finite {x y : Fl} (hx : x.finite = true) (hy : y.finite = true) :
    ∃ z, addFl x y = some z ∧ z.finite = true ∧ z.value = x.value + y.value := by
  obtain ⟨s, m, e, rfl⟩ := Fl.exists_of_finite hx
  obtain ⟨t, k, i, rfl⟩ := Fl.exists_of_finite hy
  obtain ⟨value, finite⟩ := addFin_value s t m k e i
  exact ⟨_, rfl, finite, value⟩

/-- The product of two numbers, exactly. -/
theorem mulFl_finite {x y : Fl} (hx : x.finite = true) (hy : y.finite = true) :
    ∃ z, mulFl x y = some z ∧ z.finite = true ∧ z.value = x.value * y.value := by
  obtain ⟨s, m, e, rfl⟩ := Fl.exists_of_finite hx
  obtain ⟨t, k, i, rfl⟩ := Fl.exists_of_finite hy
  refine ⟨_, rfl, rfl, ?_⟩
  rw [Fl.value_fin, Fl.value_fin, Fl.value_fin, zpow_add₀ two_ne_zero]
  cases s <;> cases t <;> push_cast <;> simp <;> ring

theorem Fl.negate_finite {x : Fl} (h : x.finite = true) : x.negate.finite = true := by
  obtain ⟨s, m, e, rfl⟩ := Fl.exists_of_finite h
  rfl

theorem Fl.isNan_of_finite {x : Fl} (h : x.finite = true) : x.isNan = false := by
  obtain ⟨s, m, e, rfl⟩ := Fl.exists_of_finite h
  rfl

theorem nanResult_of_finite (f : Fmt) {x y : Fl} (hx : x.finite = true) (hy : y.finite = true) : nanResult f [x, y] = none := by
  simp [nanResult, Fl.isNan_of_finite hx, Fl.isNan_of_finite hy]

section
variable {f : Fmt} {a b c : Nat} (hx : (unpack f a).finite = true) (hy : (unpack f b).finite = true)
include hx hy

theorem fadd_exact : ∃ z : Fl, z.finite = true ∧ z.value = (unpack f a).value + (unpack f b).value ∧ fadd f a b = rne f z := by
  obtain ⟨z, sum, fin, value⟩ := addFl_finite hx hy
  exact ⟨z, fin, value, by simp only [fadd, nanResult_of_finite f hx hy, sum]⟩

theorem fsub_exact : ∃ z : Fl, z.finite = true ∧ z.value = (unpack f a).value - (unpack f b).value ∧ fsub f a b = rne f z := by
  obtain ⟨z, sum, fin, value⟩ := addFl_finite hx (Fl.negate_finite hy)
  exact ⟨z, fin, by rw [value, Fl.value_negate, sub_eq_add_neg], by simp only [fsub, nanResult_of_finite f hx hy, sum]⟩

theorem fmul_exact : ∃ z : Fl, z.finite = true ∧ z.value = (unpack f a).value * (unpack f b).value ∧ fmul f a b = rne f z := by
  obtain ⟨z, product, fin, value⟩ := mulFl_finite hx hy
  exact ⟨z, fin, value, by simp only [fmul, nanResult_of_finite f hx hy, product]⟩

theorem fmaWith_exact (hz : (unpack f c).finite = true) (negProd negAdd : Bool) :
    ∃ z : Fl, z.finite = true ∧ fmaWith f negProd negAdd a b c = rne f z ∧
      z.value = (if negProd then -((unpack f a).value * (unpack f b).value) else (unpack f a).value * (unpack f b).value) +
        (if negAdd then -(unpack f c).value else (unpack f c).value) := by
  obtain ⟨p, product, fin, value⟩ := mulFl_finite hx hy
  have signed {v : Fl} (hv : v.finite = true) (neg : Bool) :
      (if neg then v.negate else v).finite = true ∧ (if neg then v.negate else v).value = if neg then -v.value else v.value := by
    cases neg with
    | false => exact ⟨hv, rfl⟩
    | true => exact ⟨Fl.negate_finite hv, Fl.value_negate v⟩
  obtain ⟨z, sum, finite, total⟩ := addFl_finite (signed fin negProd).1 (signed hz negAdd).1
  refine ⟨z, finite, ?_, by rw [total, (signed fin negProd).2, (signed hz negAdd).2, value]⟩
  simp [fmaWith, Fl.isNan_of_finite hx, Fl.isNan_of_finite hy, Fl.isNan_of_finite hz, product, sum]

end

/-- Settles O20: each operation rounds its exact result once. -/
theorem floatArithmeticRoundsOnce : Obligations.FloatArithmeticRoundsOnce := by
  intro f hf a b c x y z hx hy
  have known : f.Known := Fmt.known (by simp only [List.mem_cons, List.not_mem_nil, or_false] at hf ⊢; tauto)
  have ieee : f.top = .ieee := by
    simp only [List.mem_cons, List.not_mem_nil, or_false] at hf
    rcases hf with rfl | rfl | rfl <;> rfl
  have rounded {v : ℚ} {r : Nat × FpFlags} {u : Fl} (fin : u.finite = true) (value : u.value = v) (e : r = rne f u) : NearestCode f v r.1 :=
    value ▸ e ▸ nearestCode_rne known ieee fin
  obtain ⟨_, fin_add, val_add, add⟩ := fadd_exact hx hy
  obtain ⟨_, fin_sub, val_sub, sub⟩ := fsub_exact hx hy
  obtain ⟨_, fin_mul, val_mul, mul⟩ := fmul_exact hx hy
  refine ⟨rounded fin_add val_add add, rounded fin_sub val_sub sub, rounded fin_mul val_mul mul, fun hz => ?_⟩
  obtain ⟨_, fin_fma, fma, val_fma⟩ := fmaWith_exact hx hy hz false false
  obtain ⟨_, fin_fms, fms, val_fms⟩ := fmaWith_exact hx hy hz false true
  obtain ⟨_, fin_fnma, fnma, val_fnma⟩ := fmaWith_exact hx hy hz true false
  exact ⟨rounded fin_fma val_fma fma, rounded fin_fms (val_fms.trans (sub_eq_add_neg _ _).symm) fms,
    rounded fin_fnma (val_fnma.trans (neg_add_eq_sub _ _)) fnma⟩

end Sys2Proof.Machine

end

/-! PROOFS. Conversions (R166 to R171, R231, R259 to R263). -/

section

namespace Sys2Proof.Machine

/-! ### Numbers rounded to integers (R170) -/

/-- A number rounded to an integer, and whether it was one. -/
theorem roundInt_spec (rnd : Rnd) (neg : Bool) (r : Ratio) (hd : 0 < r.den) :
    Rounds rnd ((if neg then -1 else 1) * r.val) (roundInt rnd neg r).1 (fun u => ∃ z : Int, u = z) ((roundInt rnd neg r).1 % 2 = 0) ∧
      (roundInt rnd neg r).2 = decide (((roundInt rnd neg r).1 : ℚ) ≠ (if neg then -1 else 1) * r.val) := by
  obtain ⟨k, up, lo, hi, hup, rounded⟩ := roundAt_spec rnd neg r 0 hd
  simp only [zpow_zero, mul_one] at lo hi hup rounded
  have grid (u : ℚ) : (∃ z : Int, u = z) ↔ ∃ i : Nat, True ∧ |u| = (i : ℚ) := by
    constructor
    · rintro ⟨z, rfl⟩
      exact ⟨z.natAbs, trivial, by rw [Nat.cast_natAbs, Int.cast_abs]⟩
    · rintro ⟨i, _, h⟩
      rcases abs_choice u with pos | neg
      · exact ⟨i, by rw [← pos, h]; rfl⟩
      · exact ⟨-i, by rw [Int.cast_neg, Int.cast_natCast, ← h, neg, neg_neg]⟩
  have result : roundInt rnd neg r = ((if neg then -1 else 1) * ((k + up.toNat : Nat) : Int), decide ((k : ℚ) ≠ r.val)) := by
    unfold roundInt
    simp only [rounded]
    cases neg <;> simp
  have cast : (((if neg then -1 else 1) * ((k + up.toNat : Nat) : Int) : Int) : ℚ) = (if neg then -1 else 1) * ((k + up.toNat : Nat) : ℚ) := by
    cases neg <;> simp
  have even : ((if neg then -1 else 1) * ((k + up.toNat : Nat) : Int)) % 2 = 0 ↔ (k + up.toNat) % 2 = 0 := by
    cases neg <;> simp <;> omega
  rw [result]
  simp only [cast, even]
  refine ⟨rounds_grid Nat.strictMono_cast Nat.cast_zero grid (fun _ _ _ _ => trivial) lo hi hup trivial, decide_eq_decide.2 ?_⟩
  have nonzero : ((if neg then -1 else 1) : ℚ) ≠ 0 := by cases neg <;> simp
  rw [ne_eq, ne_eq, mul_right_inj' nonzero, not_iff_not]
  constructor
  · intro e
    obtain rfl : up = false := Bool.eq_false_iff.2 fun isUp => (hup.1 isUp).1 e
    exact e
  · intro e
    have down : up = false := Bool.eq_false_iff.2 fun isUp => by
      rw [isUp] at e
      exact absurd e hi.ne'
    rw [down] at e
    exact e

/-- A number as a ratio with a sign. -/
theorem Fl.value_ratio (neg : Bool) (k : Nat) (e : Int) : (Fl.fin neg k e).value = (if neg then -1 else 1) * Ratio.val ⟨k, 1, e⟩ := by
  simp only [Ratio.val, Fl.value_fin, Nat.cast_one, div_one]
  ring

/-- Rounding keeps to the side of an integer on which the number is. -/
theorem le_of_rounds {rnd : Rnd} {v : ℚ} {z y : Int} (h : Rounds rnd v z (fun u => ∃ z : Int, u = z) (z % 2 = 0)) (le : v ≤ y) : z ≤ y := by
  by_contra gt
  exact (h.1 y ⟨y, rfl⟩).2 ⟨le, by exact_mod_cast not_le.1 gt⟩

theorem ge_of_rounds {rnd : Rnd} {v : ℚ} {z y : Int} (h : Rounds rnd v z (fun u => ∃ z : Int, u = z) (z % 2 = 0)) (ge : y ≤ v) : y ≤ z := by
  by_contra lt
  exact (h.1 y ⟨y, rfl⟩).1 ⟨by exact_mod_cast not_le.1 lt, ge⟩

theorem roundInt_zero (rnd : Rnd) (neg : Bool) {den : Nat} (hd : 0 < den) (e : Int) : roundInt rnd neg ⟨0, den, e⟩ = (0, false) := by
  obtain ⟨rounds, inexact⟩ := roundInt_spec rnd neg ⟨0, den, e⟩ hd
  have zero : (if neg then -1 else 1) * Ratio.val ⟨0, den, e⟩ = 0 := by simp [Ratio.val]
  rw [zero] at rounds inexact
  have whole : (roundInt rnd neg ⟨0, den, e⟩).1 = 0 := le_antisymm (le_of_rounds rounds (by simp)) (ge_of_rounds rounds (by simp))
  refine Prod.ext whole ?_
  rw [inexact, whole]
  simp

/-- What rounding to an integer gives, clamped to a range (R170). -/
theorem toIntRange_fin (rnd : Rnd) (lo hi : Int) (neg : Bool) (k : Nat) (e : Int) :
    ∃ z : Int, Rounds rnd (Fl.fin neg k e).value z (fun u => ∃ z : Int, u = z) (z % 2 = 0) ∧
      toIntRange rnd lo hi (.fin neg k e) =
        if z < lo then (lo, Fp.nv) else if z > hi then (hi, Fp.nv) else (z, if (z : ℚ) = (Fl.fin neg k e).value then 0 else Fp.nx) := by
  obtain ⟨rounds, inexact⟩ := roundInt_spec rnd neg ⟨k, 1, e⟩ one_pos
  rw [← Fl.value_ratio] at rounds inexact
  refine ⟨(roundInt rnd neg ⟨k, 1, e⟩).1, rounds, ?_⟩
  have whole : (if k = 0 then (0, false) else roundInt rnd neg ⟨k, 1, e⟩) = roundInt rnd neg ⟨k, 1, e⟩ := by
    split
    · next zero =>
      subst zero
      exact (roundInt_zero rnd neg one_pos e).symm
    · rfl
  unfold toIntRange
  simp only [whole, inexact]
  split
  · rfl
  · split
    · rfl
    · simp

/-! ### Conversions by a slot -/

theorem convertSlot_float {w : W64} {f : Fmt} (h : FmtSlot.float (FmtSlot.fmt w) = some f) (rnd : Rnd) (x : Fl) :
    convertSlot w rnd x = convertFl f rnd (FmtSlot.sat w) x := by
  unfold convertSlot
  split
  · next seven => simp [seven, FmtSlot.float] at h
  · next eight => simp [eight, FmtSlot.float] at h
  · next ten => simp [ten, FmtSlot.float] at h
  · next eleven => simp [eleven, FmtSlot.float] at h
  · rw [h]
    rfl

theorem convertSlot_of {w : W64} (rnd : Rnd) (x : Fl) :
    (FmtSlot.fmt w = 7 → convertSlot w rnd x = toQ rnd 8 (FmtSlot.scale w) (FmtSlot.zp w) x) ∧
    (FmtSlot.fmt w = 8 → convertSlot w rnd x = toQ rnd 4 (FmtSlot.scale w) (FmtSlot.zp w % 16) x) ∧
    (FmtSlot.fmt w = 10 → convertSlot w rnd x = (((toIntRange rnd (-128) 127 x).1 % 256).toNat, (toIntRange rnd (-128) 127 x).2)) ∧
    (FmtSlot.fmt w = 11 → convertSlot w rnd x = (((toIntRange rnd (-8) 7 x).1 % 16).toNat, (toIntRange rnd (-8) 7 x).2)) := by
  unfold convertSlot
  exact ⟨fun h => by rw [h]; rfl, fun h => by rw [h]; rfl, fun h => by rw [h]; rfl, fun h => by rw [h]; rfl⟩

theorem slotIndex_lt {b : W64} (h : b.toNat ≤ 31) : slotIndex b = some b.toNat := if_pos (by omega)

theorem slotIndex_ge {b : W64} (h : 31 < b.toNat) : slotIndex b = none := if_neg (by omega)

/-- What a NaN converts to in a format that has them (R169). -/
theorem nanTo_ieee {f : Fmt} (known : f.Known) (top : f.top = .ieee) (neg : Bool) {frac m : Nat} (h : frac < 2 ^ m) :
    nanTo f neg frac m =
      withSign f neg (f.infCode ||| 2 ^ (f.m - 1) ||| if f.m ≤ m then frac / 2 ^ (m - f.m) else frac * 2 ^ (f.m - m)) := by
  obtain ⟨fr, hfr⟩ : ∃ fr, fr = if f.m ≤ m then frac / 2 ^ (m - f.m) else frac * 2 ^ (f.m - m) := ⟨_, rfl⟩
  have small : fr < 2 ^ f.m := by
    rw [hfr]
    split
    · next le => rwa [Nat.div_lt_iff_lt_mul (by positivity), ← pow_add, Nat.add_sub_cancel' le]
    · next gt =>
      calc frac * 2 ^ (f.m - m) < 2 ^ m * 2 ^ (f.m - m) := Nat.mul_lt_mul_of_pos_right h (by positivity)
        _ = 2 ^ f.m := by rw [← pow_add, Nat.add_sub_cancel' (by omega)]
  have quiet : 2 ^ (f.m - 1) ||| fr % 2 ^ (f.m - 1) < 2 ^ f.m := by
    rw [← or_quietBit known.frac small]
    exact Nat.or_lt_two_pow small (Nat.pow_lt_pow_right (by decide) (by have := known.frac; omega))
  unfold nanTo
  simp only [top, ge_iff_le, ← hfr]
  rw [Fmt.infCode, Nat.mul_comm (2 ^ f.e - 1), Nat.two_pow_add_eq_or_of_lt quiet, Nat.or_assoc, Nat.or_comm (2 ^ (f.m - 1)) fr, or_quietBit known.frac small]

theorem getD_elems_packed {t : Ty} (packed : t.packed = true) (x : W32) {h : Nat} (hh : h < 2) :
    (elems t x).getD h 0 = x.toNat / 65536 ^ h % 65536 := by
  unfold elems
  rw [if_pos packed]
  have hx := x.isLt
  match h, hh with
  | 0, _ => simp
  | 1, _ =>
    have small : x.toNat / 65536 < 65536 := by omega
    rw [pow_one, Nat.mod_eq_of_lt small]
    rfl

theorem getD_elems_whole {t : Ty} (whole : t.packed = false) (x : W32) : (elems t x).getD 0 0 = x.toNat % 2 ^ t.elemWidth := by
  unfold elems
  rw [if_neg (by simp [whole])]
  rfl

theorem elemInt_i32 {x : Nat} (h : x < 2 ^ 32) : elemInt .i32 x = signedOf 32 x := by
  have : (w64 x).toNat = x := by rw [w64, BitVec.toNat_ofNat]; exact Nat.mod_eq_of_lt (h.trans (by decide))
  unfold elemInt opnd
  rw [this]
  rfl

theorem vcvtBad_iff {w b c : W64} : vcvtBad w b c = true ↔
    31 < b.toNat ∨ 32 ≤ c.toNat ∨ 8 < c.toNat % 16 ∨ c.toNat % 16 = 1 ∨ c.toNat % 16 = 5 ∨
      (c.toNat % 16 = 0 ∧ (FmtSlot.fmt w = 5 ∨ FmtSlot.fmt w = 6 ∨ FmtSlot.fmt w = 9)) := by
  have index : (slotIndex b).isNone = true ↔ 31 < b.toNat := by
    rcases Nat.lt_or_ge 31 b.toNat with h | h
    · simp [slotIndex_ge h, h]
    · simp [slotIndex_lt h, h]
  unfold vcvtBad
  simp only [Bool.or_eq_true, index, decide_eq_true_eq, beq_iff_eq, Bool.and_eq_true]
  tauto

section
variable {t : Ty} {a b c : Src} {d : Dst} {s : State}

theorem exec_vcvt : exec (.vcvt t a b c d) s = execVcvt t a b c d s := rfl

theorem vcvt_delivers (good : vcvtBad (s.iss.frame.fsOf (s.sc b).toNat) (s.sc b) (s.sc c) = false) :
    let k := (s.sc c).toNat % 16
    let w := s.iss.frame.fsOf (s.sc b).toNat
    DeliversLanes (.vcvt t a b c d) s d fun j =>
      let x := (lane (s.vec a) j).toNat
      let half (h : Nat) : Nat × FpFlags := s.cvtElem w k j h (elemVal t (x / 65536 ^ h % 65536))
      if t.packed then
        if k = 2 ∨ k = 6 ∨ (k = 0 ∧ FmtSlot.fmt w = 0) then (BitVec.ofNat 32 (half ((s.sc c).toNat / 16)).1, (half ((s.sc c).toNat / 16)).2)
        else (BitVec.ofNat 32 ((half 0).1 % 65536 + (half 1).1 % 65536 * 65536), (half 0).2 ||| (half 1).2)
      else
        let r := s.cvtElem w k j 0 (elemVal t (x % 2 ^ t.elemWidth))
        (BitVec.ofNat 32 (if k = 0 then r.1 else (res (cvtTy k) (opnd (cvtTy k) (w64 r.1))).toNat % 2 ^ 32), r.2) := by
  have fits : (s.sc c).toNat / 16 < 2 := by
    have := mt vcvtBad_iff.2 (by simp [good] : ¬ vcvtBad (s.iss.frame.fsOf (s.sc b).toNat) (s.sc b) (s.sc c) = true)
    omega
  refine vecResult_delivers ?_
  rw [exec_vcvt]
  unfold execVcvt
  refine (if_neg (by simp [good])).trans ?_
  refine congrArg (fun g => Host.Outcome.next (s.vecResult d ((List.range s.iss.set.len).map g))) (funext fun j => ?_)
  by_cases packed : t.packed = true
  · have wide : cvtWide (s.iss.frame.fsOf (s.sc b).toNat) ((s.sc c).toNat % 16) = true ↔
        (s.sc c).toNat % 16 = 2 ∨ (s.sc c).toNat % 16 = 6 ∨ ((s.sc c).toNat % 16 = 0 ∧ FmtSlot.fmt (s.iss.frame.fsOf (s.sc b).toNat) = 0) := by
      unfold cvtWide
      simp only [Bool.or_eq_true, beq_iff_eq, Bool.and_eq_true]
      tauto
    simp only [if_pos packed, getD_elems_packed packed _ fits, getD_elems_packed packed _ (by decide : 0 < 2),
      getD_elems_packed packed _ (by decide : 1 < 2), wide]
    rfl
  · simp only [if_neg packed, getD_elems_whole (Bool.eq_false_iff.2 packed)]
    rfl

/-- VCVTI, and VPACK in f32, of a slot that there is. -/
theorem exec_vcvti_slot (h : (s.sc b).toNat ≤ 31) :
    exec (.vcvti t a b d) s = .next (s.vecResult d ((List.range s.iss.set.len).map fun j =>
      let x := (lane (s.vec a) j).toNat
      let r := if t = .f32 then s.cvtElem (s.iss.frame.fsOf (s.sc b).toNat) 2 j 0 (unpack Fmt.f32 x)
        else convertFl Fmt.f32 (s.rnd (s.iss.frame.fsOf (s.sc b).toNat) (s.laneIter j) 0) false (flOfInt (elemInt .i32 x))
      (BitVec.ofNat 32 r.1, r.2))) := by
  have e : exec (.vcvti t a b d) s = execVcvti t a b d s := rfl
  rw [e, execVcvti, slotIndex_lt h]

theorem exec_vcvti_none (h : 31 < (s.sc b).toNat) : Faults (.vcvti t a b d) s { cause := .fmtcfg } := by
  have e : exec (.vcvti t a b d) s = execVcvti t a b d s := rfl
  rw [Faults, e, execVcvti, slotIndex_ge h]

theorem exec_vpack_f32 (f32 : t = .f32) (h : (s.sc c).toNat ≤ 31)
    (half : FmtSlot.fmt (s.iss.frame.fsOf (s.sc c).toNat) = 1 ∨ FmtSlot.fmt (s.iss.frame.fsOf (s.sc c).toNat) = 2) :
    exec (.vpack t a b c d) s = .next (s.vecResult d ((List.range s.iss.set.len).map fun j =>
      let r0 := s.cvtElem (s.iss.frame.fsOf (s.sc c).toNat) 0 j 0 (unpack Fmt.f32 (lane (s.vec a) j).toNat)
      let r1 := s.cvtElem (s.iss.frame.fsOf (s.sc c).toNat) 0 j 1 (unpack Fmt.f32 (lane (s.vec b) j).toNat)
      (joinElems .i16x2 [r0.1, r1.1], r0.2 ||| r1.2))) := by
  have e : exec (.vpack t a b c d) s = execVpack t a b c d s := rfl
  rw [e, execVpack, if_pos f32, slotIndex_lt h]
  exact if_pos half

theorem exec_vpack_fmtcfg (f32 : t = .f32)
    (bad : 31 < (s.sc c).toNat ∨ (FmtSlot.fmt (s.iss.frame.fsOf (s.sc c).toNat) ≠ 1 ∧ FmtSlot.fmt (s.iss.frame.fsOf (s.sc c).toNat) ≠ 2)) :
    Faults (.vpack t a b c d) s { cause := .fmtcfg } := by
  have e : exec (.vpack t a b c d) s = execVpack t a b c d s := rfl
  rw [Faults, e, execVpack, if_pos f32]
  rcases Nat.lt_or_ge 31 (s.sc c).toNat with h | h
  · rw [slotIndex_ge h]
  · rw [slotIndex_lt h]
    exact if_neg (by omega)

end

/-- Settles O15: a number converts as it rounds; the operations convert each element. -/
theorem vectorConversionsAndPacking : Obligations.VectorConversionsAndPacking := by
  refine ⟨?_, ?_, ?_, ?_⟩
  · intro f hf rnd sat neg
    have known := Fmt.known hf
    refine ⟨fun k e => convertFl_fin known rnd sat neg k e, fun h => ?_, fun unsat top => ?_, fun unsat top near => ?_, fun frac m quiet small => ⟨?_, ?_⟩⟩
    · unfold convertFl
      dsimp only
      split
      · rfl
      · rfl
      · next top => rw [top] at h; simp at h
      · next top => rw [top] at h; simp at h
    · simp only [convertFl, unsat, top]
    · subst unsat
      simp only [convertFl, top]
      rcases near with rfl | rfl | ⟨r, rfl⟩ <;> simp [overflowMag, top]
    · cases quiet <;> simp [convertFl]
    · unfold convertFl
      cases top : f.top with
      | ieee => exact nanTo_ieee known top neg small
      | e4m3 => simp only [nanTo, top]
      | finite => simp only [nanTo, top]
  · intro rnd lo hi neg k e le v n
    obtain ⟨z, rounds, result⟩ := toIntRange_fin rnd lo hi neg k e
    have below (y : Int) (h : v ≤ y) : z ≤ y := le_of_rounds rounds h
    have above (y : Int) (h : y ≤ v) : y ≤ z := ge_of_rounds rounds h
    have clamp : n.1 = max lo (min hi z) := by
      rw [show n = _ from result]
      split
      · omega
      · split <;> omega
    refine ⟨by omega, by omega, fun h => ?_, fun h => ?_, fun h h' => ?_, fun h => ?_, rfl, fun _ _ _ => rfl⟩
    · have := below lo h
      omega
    · have := above hi h
      omega
    · have inside : n = _ := result.trans ((if_neg (not_lt.2 (above lo h))).trans (if_neg (not_lt.2 (below hi h'))))
      rw [inside]
      exact ⟨rounds, rfl⟩
    · rw [show n = _ from result]
      rcases h with h | h
      · have := below (lo - 1) (by push_cast; exact h)
        rw [if_pos (by omega)]
      · have := above (hi + 1) (by push_cast; exact h)
        rw [if_neg (by omega), if_pos (by omega)]
  · intro w rnd x
    obtain ⟨_, _, ten, eleven⟩ := convertSlot_of (w := w) rnd x
    exact ⟨fun f h => convertSlot_float h rnd x, ten, eleven⟩
  · intro t a b c d s n m k w fmtcfg
    refine ⟨fun bad => if_pos (vcvtBad_iff.2 bad), fun h1 h2 h3 h4 h5 h6 => vcvt_delivers (Bool.eq_false_iff.2 fun bad => ?_), fun h => if_pos h,
      fun h => vop_delivers (if_neg (not_lt.2 h)), exec_vcvti_none, fun h => ?_, fun h => vecResult_delivers (if_neg h),
      ⟨fun f32 bad => exec_vpack_fmtcfg f32 bad, fun f32 h half => vecResult_delivers (exec_vpack_f32 f32 h half)⟩, vecResult_delivers rfl⟩
    · rcases vcvtBad_iff.1 bad with h | h | h | h | h | ⟨h, block⟩
      · exact absurd h1 (not_le.2 h)
      · exact absurd h2 (not_lt.2 h)
      · exact absurd h3 (not_le.2 h)
      · exact h4 h
      · exact h5 h
      · have := h6 h
        tauto
    · refine vecResult_delivers ((exec_vcvti_slot h).trans ?_)
      simp only [elemInt_i32 (BitVec.isLt _)]
      rfl

/-! ### Quantization (R170, R171, R263) -/

/-- A number under a Q slot (R170). -/
theorem toQ_fin (rnd : Rnd) (w scale z k : Nat) (neg : Bool) (e : Int) (hz : z < 2 ^ w) (pos : 0 < (unpack Fmt.f16 scale).value)
    (sign : (unpack Fmt.f16 scale).neg = false) :
    ∃ n : Int, Rounds rnd ((Fl.fin neg k e).value / (unpack Fmt.f16 scale).value) n (fun u => ∃ y : Int, u = y) (n % 2 = 0) ∧
      ((toQ rnd w scale z (.fin neg k e)).1 : Int) = max 0 (min (2 ^ w - 1) (n + z)) ∧
      (n + z < 0 ∨ 2 ^ w ≤ n + z → (toQ rnd w scale z (.fin neg k e)).2 = Fp.sat ||| Fp.ovf) ∧
      (0 ≤ n + z → n + z < 2 ^ w → (toQ rnd w scale z (.fin neg k e)).2 =
        if (n : ℚ) = (Fl.fin neg k e).value / (unpack Fmt.f16 scale).value ∧ ¬ (k = 0 ∧ neg = true) then 0 else Fp.nx) := by
  have top : ((2 ^ w : Nat) : Int) = 2 ^ w := by push_cast; rfl
  have room : (z : Int) < 2 ^ w := by rw [← top]; exact_mod_cast hz
  cases code : unpack Fmt.f16 scale with
  | nan => rw [code] at pos; exact absurd pos (lt_irrefl 0)
  | inf => rw [code] at pos; exact absurd pos (lt_irrefl 0)
  | fin s sm se =>
    rw [code] at pos sign
    obtain rfl : s = false := sign
    have sm_pos : 0 < sm := Nat.pos_of_ne_zero fun zero => by rw [zero, Fl.value_of_mant_zero] at pos; exact absurd pos (lt_irrefl 0)
    have quotient : (Fl.fin neg k e).value / (Fl.fin false sm se).value = (if neg then -1 else 1) * Ratio.val ⟨k, sm, e - se⟩ := by
      simp only [Ratio.val, Fl.value_fin, zpow_sub₀ (two_ne_zero : (2 : ℚ) ≠ 0), Bool.false_eq_true, if_false, one_mul]
      field_simp
    obtain ⟨rounds, inexact⟩ := roundInt_spec rnd neg ⟨k, sm, e - se⟩ sm_pos
    rw [← quotient] at rounds inexact
    refine ⟨(roundInt rnd neg ⟨k, sm, e - se⟩).1, rounds, ?_⟩
    rcases Nat.eq_zero_or_pos k with rfl | kpos
    · have whole := roundInt_zero rnd neg sm_pos (e - se)
      have result : toQ rnd w scale z (.fin neg 0 e) = (z, if neg then Fp.nx else 0) := rfl
      rw [whole, result]
      refine ⟨by omega, fun h => by omega, fun _ _ => ?_⟩
      cases neg <;> simp
    · obtain ⟨n, hn⟩ : ∃ n, n = (roundInt rnd neg ⟨k, sm, e - se⟩).1 := ⟨_, rfl⟩
      have result : toQ rnd w scale z (.fin neg k e) =
          if n + z < 0 then (0, Fp.sat ||| Fp.ovf) else if n + z > 2 ^ w - 1 then ((2 ^ w - 1 : Int).toNat, Fp.sat ||| Fp.ovf)
          else ((n + z).toNat, if (roundInt rnd neg ⟨k, sm, e - se⟩).2 then Fp.nx else 0) := by
        unfold toQ
        simp only [kpos.ne', if_false, code, hn]
      rw [result, ← hn]
      rw [← hn] at inexact
      split
      · exact ⟨by simp only [Nat.cast_zero]; omega, fun _ => rfl, fun h => by omega⟩
      · split
        · exact ⟨by rw [Int.toNat_of_nonneg (by omega)]; omega, fun _ => rfl, fun _ h => by omega⟩
        · refine ⟨by rw [Int.toNat_of_nonneg (by omega)]; omega, fun h => by omega, fun _ _ => ?_⟩
          simp [inexact, kpos.ne']

theorem unscale_value (x : Fl) (sc : Nat) (h : x.finite = true) : (unscale x sc).value = x.value / (2 : ℚ) ^ ((sc : Int) - 127) := by
  obtain ⟨s, m, e, rfl⟩ := Fl.exists_of_finite h
  simp only [unscale, Fl.value_fin, zpow_sub₀ (two_ne_zero : (2 : ℚ) ≠ 0) e]
  ring

/-- The logarithms of the magnitudes of a block that are not 0 (R171). -/
def blockLogs (l : List Fl) : List Int :=
  l.filterMap fun x => match x with
    | .fin _ m e => if m = 0 then none else some ((Nat.log2 m : Int) + e)
    | _ => none

theorem abs_value_log {neg : Bool} {m : Nat} (h : m ≠ 0) (e : Int) :
    (2 : ℚ) ^ ((Nat.log2 m : Int) + e) ≤ |(Fl.fin neg m e).value| ∧ |(Fl.fin neg m e).value| < 2 ^ ((Nat.log2 m : Int) + e + 1) := by
  have lo : (2 : ℚ) ^ (Nat.log2 m : Int) ≤ m := by exact_mod_cast Nat.log2_self_le h
  have hi : (m : ℚ) < 2 ^ ((Nat.log2 m : Int) + 1) := by exact_mod_cast Nat.lt_log2_self
  have magnitude : |(Fl.fin neg m e).value| = m * 2 ^ e := by
    rw [Fl.value_fin, mul_assoc, abs_mul, abs_of_nonneg (by positivity : (0 : ℚ) ≤ m * 2 ^ e)]
    cases neg <;> simp
  rw [magnitude, add_right_comm, zpow_add₀ two_ne_zero _ e, zpow_add₀ two_ne_zero _ e]
  constructor <;> gcongr

theorem exists_of_mem_blockLogs {l : List Fl} {g : Int} (h : g ∈ blockLogs l) : ∃ x ∈ l, (2 : ℚ) ^ g ≤ |x.value| := by
  obtain ⟨x, hx, log⟩ := List.mem_filterMap.1 h
  refine ⟨x, hx, ?_⟩
  cases x with
  | nan => cases log
  | inf => cases log
  | fin s m e =>
    dsimp only at log
    split at log
    · cases log
    · next ne =>
      cases log
      exact (abs_value_log ne e).1

theorem exists_mem_blockLogs {l : List Fl} {x : Fl} (hx : x ∈ l) (ne : x.value ≠ 0) : ∃ g ∈ blockLogs l, |x.value| < (2 : ℚ) ^ (g + 1) := by
  cases x with
  | nan => exact absurd rfl ne
  | inf => exact absurd rfl ne
  | fin s m e =>
    have mant : m ≠ 0 := fun zero => ne (by rw [zero, Fl.value_of_mant_zero])
    exact ⟨_, List.mem_filterMap.2 ⟨_, hx, if_neg mant⟩, (abs_value_log mant e).2⟩

theorem foldl_max_spec (m : Int) (ms : List Int) : ms.foldl max m ∈ m :: ms ∧ ∀ g ∈ m :: ms, g ≤ ms.foldl max m := by
  induction ms generalizing m with
  | nil => simp
  | cons x xs ih =>
    obtain ⟨mem, le⟩ := ih (max m x)
    rw [List.foldl_cons]
    refine ⟨?_, fun g hg => ?_⟩
    · rcases List.mem_cons.1 mem with h | h
      · rw [h]
        rcases max_choice m x with e | e <;> rw [e] <;> simp
      · simp [h]
    · have first := le _ List.mem_cons_self
      rcases List.mem_cons.1 hg with rfl | hg
      · exact (le_max_left _ _).trans first
      · rcases List.mem_cons.1 hg with rfl | hg
        · exact (le_max_right _ _).trans first
        · exact le g (List.mem_cons_of_mem _ hg)

theorem mxScale_finite (emax : Int) {l : List Fl} (fin : ∀ x ∈ l, x.finite = true) :
    mxScale emax l = match blockLogs l with
      | [] => 0
      | m :: ms => (max 0 (min 254 (ms.foldl max m - emax + 127))).toNat := by
  have numbers : (l.any fun x => x.isNan || x.isInf) = false := by
    refine List.any_eq_false.2 fun x hx => ?_
    obtain ⟨s, m, e, rfl⟩ := Fl.exists_of_finite (fin x hx)
    simp [Fl.isNan, Fl.isInf]
  unfold mxScale
  rw [numbers]
  rfl

theorem mxScale_special (emax : Int) {l : List Fl} (h : ∃ x ∈ l, x.finite = false) : mxScale emax l = 255 := by
  obtain ⟨x, hx, special⟩ := h
  refine if_pos (List.any_eq_true.2 ⟨x, hx, ?_⟩)
  cases x with
  | fin => cases special
  | _ => rfl

/-- The scale of a block of numbers is that of its largest magnitude (R171). -/
theorem mxScale_spec (emax : Int) {l : List Fl} (fin : ∀ x ∈ l, x.finite = true) :
    mxScale emax l ≤ 254 ∧ ((∀ x ∈ l, x.value = 0) → mxScale emax l = 0) ∧
      (0 < mxScale emax l → ∃ x ∈ l, (2 : ℚ) ^ ((mxScale emax l : Int) - 127 + emax) ≤ |x.value|) ∧
      (mxScale emax l < 254 → ∀ x ∈ l, |x.value| < (2 : ℚ) ^ ((mxScale emax l : Int) - 126 + emax)) := by
  rw [mxScale_finite emax fin]
  cases logs : blockLogs l with
  | nil =>
    have zero (x : Fl) (hx : x ∈ l) : x.value = 0 := by
      by_contra ne
      obtain ⟨g, hg, _⟩ := exists_mem_blockLogs hx ne
      rw [logs] at hg
      cases hg
    refine ⟨by simp, fun _ => rfl, fun h => absurd h (lt_irrefl 0), fun _ x hx => ?_⟩
    rw [zero x hx, abs_zero]
    positivity
  | cons m ms =>
    obtain ⟨mem, most⟩ := foldl_max_spec m ms
    rw [← logs] at mem most
    dsimp only
    generalize ms.foldl max m = g at mem most
    obtain ⟨x, hx, large⟩ := exists_of_mem_blockLogs mem
    generalize scale : (max 0 (min 254 (g - emax + 127))).toNat = sc
    have clamped : (sc : Int) = max 0 (min 254 (g - emax + 127)) := by rw [← scale, Int.toNat_of_nonneg (le_max_left _ _)]
    refine ⟨by omega, fun zero => ?_, fun pos => ⟨x, hx, le_trans (zpow_le_zpow_right₀ one_le_two (by omega)) large⟩, fun below y hy => ?_⟩
    · rw [zero x hx, abs_zero] at large
      exact absurd large (not_le.2 (by positivity))
    · rcases eq_or_ne y.value 0 with zero | ne
      · rw [zero, abs_zero]
        positivity
      · obtain ⟨i, hi, small⟩ := exists_mem_blockLogs hy ne
        have := most i hi
        exact small.trans_le (zpow_le_zpow_right₀ one_le_two (by omega))

section
variable {a b c : Src} {d : Dst} {t0 t1 : Option Target} {s : State}

theorem exec_vqnt : exec (.vqnt a b d) s = execVqnt a b d s := rfl

theorem exec_vdqnt : exec (.vdqnt a b c d) s = execVdqnt a b c d s := rfl

theorem quant_none (h : 31 < (s.sc b).toNat) : Faults (.vqnt a b d) s { cause := .fmtcfg } ∧ Faults (.vdqnt a b c d) s { cause := .fmtcfg } := by
  rw [Faults, Faults, exec_vqnt, exec_vdqnt, execVqnt, execVdqnt, slotIndex_ge h]
  exact ⟨rfl, rfl⟩

theorem isQ_of_mx {w : W64} (mx : FmtSlot.fmt w = 5 ∨ FmtSlot.fmt w = 6) : FmtSlot.isQ w = false := by
  rcases mx with e | e <;> simp [FmtSlot.isQ, e]

/-- What VQNT gives: codes, scale and flags. -/
theorem twoTargets_free {s : State} {t0 t1 : Option Target} (free : s.tgtsFault (t0.toList ++ t1.toList) = none) (v w : Val) (fl : FpFlags) :
    (s.raiseFlags fl).twoTargets (.targets t0 t1) v w = s.modIss fun x => ({ x with flags := x.flags ||| fl }.put 0 t0 v).put 1 t1 w := by
  have same : (s.raiseFlags fl).tgtsFault (Dst.targets t0 t1).tgts = none := free
  rw [State.twoTargets, same]
  rfl

section
variable (h : (s.sc b).toNat ≤ 31)
include h

theorem quant_other (notQ : FmtSlot.isQ (s.iss.frame.fsOf (s.sc b).toNat) = false)
    (notMx : ¬ (FmtSlot.fmt (s.iss.frame.fsOf (s.sc b).toNat) = 5 ∨ FmtSlot.fmt (s.iss.frame.fsOf (s.sc b).toNat) = 6)) :
    Faults (.vqnt a b d) s { cause := .fmtcfg } ∧ Faults (.vdqnt a b c d) s { cause := .fmtcfg } := by
  rw [Faults, Faults, exec_vqnt, exec_vdqnt, execVqnt, execVdqnt, slotIndex_lt h]
  exact ⟨(if_neg (by simp [notQ])).trans (if_neg notMx), (if_neg (by simp [notQ])).trans (if_neg notMx)⟩

theorem vqnt_q (q : FmtSlot.isQ (s.iss.frame.fsOf (s.sc b).toNat) = true) (free : s.tgtsFault (t0.toList ++ t1.toList) = none) :
    let w := s.iss.frame.fsOf (s.sc b).toNat
    let r := (List.range s.iss.set.len).map fun j => convertSlot w (s.rnd w (s.laneIter j) j)
      (((List.range s.iss.set.len).map fun j => unpack Fmt.f32 (lane (s.vec a) j).toNat).getD j (.fin false 0 0))
    exec (.vqnt a b (.targets t0 t1)) s = .next (s.modIss fun x =>
      ({ x with flags := x.flags ||| (0 ||| orFlags r) }.put 0 t0 (s.vecVal (r.map fun (e : Nat × FpFlags) => BitVec.ofNat 32 e.1))).put 1 t1 (.scalar (w64 0))) := by
  intro w r
  rw [exec_vqnt, execVqnt, slotIndex_lt h]
  refine (if_pos q).trans ?_
  rw [List.length_map, List.length_range]
  exact congrArg _ (twoTargets_free free _ _ _)

theorem vqnt_mx (mx : FmtSlot.fmt (s.iss.frame.fsOf (s.sc b).toNat) = 5 ∨ FmtSlot.fmt (s.iss.frame.fsOf (s.sc b).toNat) = 6)
    (free : s.tgtsFault (t0.toList ++ t1.toList) = none) :
    let r := s.quantBlock (s.iss.frame.fsOf (s.sc b).toNat) ((List.range s.iss.set.len).map fun j => unpack Fmt.f32 (lane (s.vec a) j).toNat)
    exec (.vqnt a b (.targets t0 t1)) s = .next (s.modIss fun x =>
      ({ x with flags := x.flags ||| (r.2.2 ||| orFlags r.1) }.put 0 t0 (s.vecVal (r.1.map fun (e : Nat × FpFlags) => BitVec.ofNat 32 e.1))).put 1 t1
        (.scalar (w64 r.2.1))) := by
  intro r
  rw [exec_vqnt, execVqnt, slotIndex_lt h]
  exact (if_neg (by simp [isQ_of_mx mx])).trans ((if_pos mx).trans (congrArg _ (twoTargets_free free _ _ _)))

theorem vdqnt_q (q : FmtSlot.isQ (s.iss.frame.fsOf (s.sc b).toNat) = true) :
    exec (.vdqnt a b c d) s = .next (s.vecResult d ((List.range s.iss.set.len).map fun j =>
      let v := convertFl Fmt.f32 .rne false (decodeSlotFmt (s.iss.frame.fsOf (s.sc b).toNat) (lane (s.vec a) j).toNat)
      (BitVec.ofNat 32 v.1, v.2))) := by
  rw [exec_vdqnt, execVdqnt, slotIndex_lt h]
  exact if_pos q

section
variable (mx : FmtSlot.fmt (s.iss.frame.fsOf (s.sc b).toNat) = 5 ∨ FmtSlot.fmt (s.iss.frame.fsOf (s.sc b).toNat) = 6)
include mx

theorem vdqnt_scale (large : 256 ≤ (s.sc c).toNat) : Faults (.vdqnt a b c d) s { cause := .fmtcfg } := by
  rw [Faults, exec_vdqnt, execVdqnt, slotIndex_lt h]
  exact (if_neg (by simp [isQ_of_mx mx])).trans ((if_pos mx).trans (if_pos large))

theorem vdqnt_mx (small : (s.sc c).toNat < 256) :
    let w := s.iss.frame.fsOf (s.sc b).toNat
    let m := (s.sc c).toNat
    let f := if FmtSlot.fmt w = 5 then Fmt.e2m1 else Fmt.e4m3
    exec (.vdqnt a b c d) s = .next (s.vecResult d ((List.range s.iss.set.len).map fun j =>
      let y := match unpack f ((lane (s.vec a) j).toNat % 2 ^ f.width) with | .fin sg k e => .fin sg k (e + ((m : Int) - 127)) | o => o
      let v := if m = 255 then nan32 else convertFl Fmt.f32 (s.rnd w (s.laneIter j) j) (FmtSlot.sat w) y
      (BitVec.ofNat 32 v.1, v.2))) := by
  intro w m f
  rw [exec_vdqnt, execVdqnt, slotIndex_lt h]
  exact (if_neg (by simp [isQ_of_mx mx])).trans ((if_pos mx).trans (if_neg (not_le.2 small)))

end

end

end

/-- Settles O16: codes under a slot are rounded quotients; a block is converted over the scale of its largest magnitude. -/
theorem vectorQuantization : Obligations.VectorQuantization := by
  refine ⟨?_, ?_, ?_, ?_⟩
  · intro rnd w scale z k neg e hz pos sign v q
    refine ⟨toQ_fin rnd w scale z k neg e hz pos sign, ?_, fun _ _ _ => rfl⟩
    have top : (2 ^ w - 1 : Int).toNat = 2 ^ w - 1 := by
      have : (2 ^ w - 1 : Int) = ((2 ^ w - 1 : Nat) : Int) := by rw [Nat.cast_sub Nat.one_le_two_pow]; push_cast; rfl
      rw [this, Int.toNat_natCast]
    cases neg
    · simp only [toQ, top]
      simp
    · rfl
  · intro w rnd x
    obtain ⟨seven, eight, _, _⟩ := convertSlot_of (w := w) rnd x
    exact ⟨seven, eight⟩
  · intro w l s f emax r
    have format : f.Known := by
      show (if FmtSlot.fmt w = 5 then Fmt.e2m1 else Fmt.e4m3).Known
      split <;> exact Fmt.known (by simp)
    refine ⟨fun special => ?_, fun fin => ?_⟩
    · exact if_pos (mxScale_special _ special)
    · obtain ⟨le, zero, large, small⟩ := mxScale_spec emax fin
      have scaled : r = ((List.range l.length).map fun j =>
          convertFl f (s.rnd w (s.laneIter j) j) true (unscale (l.getD j (.fin false 0 0)) (mxScale emax l)), mxScale emax l, 0) :=
        if_neg (le.trans_lt (by decide)).ne
      rw [scaled]
      refine ⟨le, rfl, by simp, zero, large, small, fun j hj => ?_⟩
      have inside : l[j].finite = true := fin _ (List.getElem_mem hj)
      obtain ⟨sg, k, e, number⟩ := Fl.exists_of_finite inside
      have value := unscale_value l[j] (mxScale emax l) inside
      simp only [List.getD_eq_getElem?_getD, List.getElem?_map, List.getElem?_range hj, List.getElem?_eq_getElem hj, Option.map_some, Option.getD_some]
      rw [← value, number]
      exact (convertFl_fin format _ _ sg k _).1
  · intro a b c t0 t1 d s n m w mx f src q out
    exact ⟨quant_none, fun h => quant_other h, fun h mx => vdqnt_scale h mx, fun h isQ free => vqnt_q h isQ free, fun h mx free => vqnt_mx h mx free,
      fun h isQ => vecResult_delivers (vdqnt_q h isQ), fun h mx small => vecResult_delivers (vdqnt_mx h mx small)⟩

end Sys2Proof.Machine

end

/-! PROOFS. Vector operations (R254 to R258, R264 to R267). -/

section

namespace Sys2Proof.Machine

theorem natAbs_eq_ite (x : Int) : ((x.natAbs : Nat) : Int) = if x < 0 then -x else x := by
  split <;> omega

/-- Settles O14: each operation is its element function over the lanes. -/
theorem vectorArithmeticAndLogic : Obligations.VectorArithmeticAndLogic := by
  refine ⟨?_, ?_⟩
  · intro t a b c d s int two sign
    refine ⟨vop_delivers rfl, vop_delivers rfl, vop_delivers rfl, vop_delivers rfl, vop_delivers rfl, vop_delivers rfl, ?_, vop_delivers rfl,
      vop_delivers rfl, vop_delivers rfl, vop_delivers rfl, vop_delivers rfl⟩
    have abs : exec (.vabs t a d) s = .next (s.vop t d (fun x y _ => arith t (fun v _ => if v < 0 then -v else v) (fun _ u _ => (u % signBit t, 0)) x y)
        a .zero .zero) := by
      simp only [← natAbs_eq_ite]
      rfl
    exact vop_delivers abs
  · intro t a b c d s w bits cmp
    exact ⟨vop_delivers rfl, vop_delivers rfl, vop_delivers rfl, vop_delivers rfl, vop_delivers rfl, vop_delivers rfl, vop_delivers rfl,
      vop_delivers rfl, vop_delivers rfl, vop_delivers rfl, vop_delivers rfl, vop_delivers rfl, vop_delivers rfl, vop_delivers rfl,
      vop_delivers rfl, vop_delivers rfl⟩

/-! ### Reductions in lane order (R267) -/

theorem redScan_snoc (t : Ty) (op : Nat) {l : List Nat} (ne : l ≠ []) (y : Nat) :
    redScan t op (l ++ [y]) = ((redOp t op ((redScan t op l).1.headD 0) y).1 :: (redScan t op l).1, (redScan t op l).2 ||| (redOp t op ((redScan t op l).1.headD 0) y).2) := by
  obtain ⟨x, xs, rfl⟩ := List.exists_cons_of_ne_nil ne
  have head (r : List Nat) : r.getD 0 0 = r.headD 0 := by cases r <;> rfl
  simp only [redScan, List.cons_append, List.foldl_append, List.foldl_cons, List.foldl_nil, head]

/-- The running values of a reduction are those of its prefixes. -/
theorem redScan_prefixes (t : Ty) (op : Nat) (l : List Nat) :
    (redScan t op l).1.reverse = (List.range l.length).map fun j => (redScan t op (l.take (j + 1))).1.headD 0 := by
  induction l using List.reverseRecOn with
  | nil => rfl
  | append_singleton xs y ih =>
    rcases eq_or_ne xs [] with rfl | ne
    · rfl
    · rw [redScan_snoc t op ne, List.reverse_cons, ih, List.length_append, List.length_singleton, List.range_succ, List.map_append, List.map_singleton]
      congr 1
      · refine List.map_congr_left fun j hj => ?_
        rw [List.take_append_of_le_length (List.mem_range.1 hj)]
      · rw [List.take_of_length_le (by simp), redScan_snoc t op ne]
        rfl

theorem redScan_next (t : Ty) (op : Nat) {l : List Nat} {j : Nat} (h : j + 1 < l.length) :
    (redScan t op (l.take (j + 2))).1.headD 0 = (redOp t op ((redScan t op (l.take (j + 1))).1.headD 0) (l.getD (j + 1) 0)).1 := by
  have snoc : l.take (j + 2) = l.take (j + 1) ++ [l.getD (j + 1) 0] := by
    rw [List.take_succ_eq_append_getElem h, List.getD_eq_getElem _ _ h]
  have ne : l.take (j + 1) ≠ [] := by
    intro nil
    have := congrArg List.length nil
    rw [List.length_take, List.length_nil] at this
    omega
  rw [snoc, redScan_snoc t op ne]
  rfl

theorem State.length_vec (s : State) (a : Src) : (s.vec a).length = s.iss.set.len := by
  rw [vec]
  cases s.src a <;> simp [Val.lanes]

theorem reduce_delivers {i : Instr} {s : State} {t : Ty} {op : Nat} {a : Src} {d : Dst} (h : exec i s = .next (s.reduce t op a d)) :
    Delivers i s d (redScan t op (redLanes t (s.vec a))).2
      (.scalar (redWiden t ((redScan t op ((redLanes t (s.vec a)).take ((redLanes t (s.vec a)).length - 1 + 1))).1.headD 0))) := by
  have whole : (redLanes t (s.vec a)).take ((redLanes t (s.vec a)).length - 1 + 1) = redLanes t (s.vec a) := List.take_of_length_le (by omega)
  have head (r : List Nat) : r.headD 0 = r.getD 0 0 := by cases r <;> rfl
  rw [whole, head]
  exact raise_delivers h

/-- The lane that VSHFL reads, 0 past the ends (R266). -/
theorem lane_shflIndex (l : List W32) (sh j : Nat) : ∀ mode : Nat,
    (match shflIndex mode sh j with | some k => lane l k | none => 0) =
      match mode with
      | 0 => l.getD (j ^^^ sh) 0
      | 1 => l.getD ((j + sh) % 32) 0
      | 2 => if j + sh ≤ 31 then l.getD (j + sh) 0 else 0
      | _ => if sh ≤ j then l.getD (j - sh) 0 else 0
  | 0 => rfl
  | 1 => rfl
  | 2 => by
    have index : shflIndex 2 sh j = if j + sh ≤ 31 then some (j + sh) else none := rfl
    rw [index]
    by_cases inside : j + sh ≤ 31 <;> simp only [inside, if_true, if_false] <;> rfl
  | _ + 3 => by
    have index (m : Nat) : shflIndex (m + 3) sh j = if sh ≤ j then some (j - sh) else none := rfl
    rw [index]
    by_cases inside : sh ≤ j <;> simp only [inside, if_true, if_false] <;> rfl

theorem exec_vrun (a b c : Src) (d : Dst) (s : State) : exec (.vrun a b c d) s = execVrun a b c d s := rfl

theorem exec_vscan (t : Ty) (a : Src) (d : Dst) (s : State) : exec (.vscan t a d) s = execVscan t a d s := rfl

/-- Settles O17: lanes move as the element functions say; a reduction runs over its lanes in order. -/
theorem vectorSpecialLaneAndReductions : Obligations.VectorSpecialLaneAndReductions := by
  refine ⟨⟨?_, ?_⟩, ?_⟩
  · intro a b d s
    exact ⟨vop_delivers rfl, vop_delivers rfl, vop_delivers rfl, vop_delivers rfl, vop_delivers rfl, vop_delivers rfl, vop_delivers rfl⟩
  · intro a b c t0 t1 d s l n at_ run out kept k
    refine ⟨deliver_delivers rfl, deliver_delivers rfl, deliver_delivers rfl, ?_, deliver_delivers rfl, fun free => ?_, fun pos => ?_, fun zero => ?_⟩
    · refine deliver_delivers (congrArg (fun g => Host.Outcome.next (s.deliver d (.vector s.iss.set.base ((List.range run).map g)))) (funext fun j => ?_))
      exact lane_shflIndex l (n % 32) j (n / 32 % 4)
    · have twice : s.tgtsFault (Dst.targets t0 t1).tgts = none := free
      have move : exec (.vcmpr a b (.targets t0 t1)) s =
        .next (s.twoTargets (.targets t0 t1) (s.vecVal (kept ++ List.replicate (run - kept.length) 0)) (.scalar (w64 kept.length))) := rfl
      rw [move, State.twoTargets, twice]
    · exact deliver_delivers (if_neg pos.ne')
    · rw [exec_vrun]
      refine (if_pos zero).trans ?_
      have none_left : (List.range k).map (fun j => lane (s.vec a) j) = [] := by rw [zero]; rfl
      cases d <;> simp only [show min (s.sc c).toNat 32 = k from rfl, none_left]
  · intro t a d s pos l prefix_ fl all
    refine ⟨reduce_delivers rfl, reduce_delivers rfl, reduce_delivers rfl, ?_, fun op j h => redScan_next t op h⟩
    refine raise_delivers ?_
    rw [exec_vscan]
    unfold execVscan
    dsimp only
    rw [redScan_prefixes, List.map_map]
    have len : (redLanes t (s.vec a)).length = s.iss.set.len := by rw [redLanes, List.length_map, State.length_vec]
    rw [len]
    rfl

end Sys2Proof.Machine

end

/-! PROOFS. Accumulator, sort and tile-slot operations at issue (spec/11). -/

section

namespace Sys2Proof.Machine

/-! ### Jobs (R274) -/

section
variable {s : State} {n phys : Nat} {op : EffOp} {x y : W64}

/-- The effect of a job. -/
def jobEff (op : EffOp) (phys : Nat) (x y : W64) : Eff := { bun := 0, slot := 0, op := op, a := x, b := y, base := phys }

theorem State.addJob_free (free : s.jobsUsed < 256) : s.addJob n phys op x y = s.addEff (jobEff op phys x y) := if_neg (not_le.2 free)

theorem State.addJob_full (full : 256 ≤ s.jobsUsed) : s.addJob n phys op x y = s.fault (matcfg 3 n) := if_pos full

/-! ### Operands and plain jobs (R273, R277) -/

theorem State.plainJob_none (none : s.configured n = none) {ok : Bool} : s.plainJob n op x ok = s.fault (matcfg 0 n) := by
  rw [plainJob, none]

variable {v : VAcc} {w : W64}

theorem State.plainJob_ok (conf : s.configured n = some (v, w)) : s.plainJob n op x true = s.addJob n v.phys op x 0 := by
  rw [plainJob, conf]
  rfl

theorem State.plainJob_bad (conf : s.configured n = some (v, w)) : s.plainJob n op x false = s.fault (matcfg 0 n) := by
  rw [plainJob, conf]
  rfl

variable (isA : Bool)

theorem State.msrc_none (none : s.configured n = none) : s.msrc op n isA x y = s.fault (matcfg 0 n) := by
  rw [msrc, none]

section
variable (conf : s.configured n = some (v, w))
include conf

theorem State.msrc_bad
    (bad : MDesc.fs x ≠ (if isA then MConf.fsa w else MConf.fsb w) ∨
      MDesc.ok x y (operandRow (s.iss.frame.fsOf (if isA then MConf.fsa w else MConf.fsb w)) (MConf.k w)) = false) :
    s.msrc op n isA x y = s.fault (matcfg 0 n) := by
  rw [msrc, conf]
  exact if_pos (by simpa using bad)

section
variable (fs : MDesc.fs x = if isA then MConf.fsa w else MConf.fsb w)
  (ok : MDesc.ok x y (operandRow (s.iss.frame.fsOf (if isA then MConf.fsa w else MConf.fsb w)) (MConf.k w)) = true)
include fs ok

theorem State.msrc_job {q : VSlot} (at_ : s.mview.slots.get? (MDesc.slot y) = some q)
    (fits : MDesc.fits x y (if isA then MConf.rows w else MConf.cols w) q.size = true) : s.msrc op n isA x y = s.addJob n v.phys op x y := by
  rw [msrc, conf]
  refine (if_neg (by simp [fs, ok])).trans ?_
  rw [at_]
  exact if_neg (by simp [fits])

theorem State.msrc_misfit
    (misfit : ∀ q, s.mview.slots.get? (MDesc.slot y) = some q → MDesc.fits x y (if isA then MConf.rows w else MConf.cols w) q.size = false) :
    s.msrc op n isA x y = s.fault { cause := .slotcfg } := by
  rw [msrc, conf]
  refine (if_neg (by simp [fs, ok])).trans ?_
  cases at_ : s.mview.slots.get? (MDesc.slot y) with
  | none => rfl
  | some q => exact if_pos (by simp [misfit q at_])

end

end

variable (accept : W64 → W64 → Bool)

theorem State.tileJob_none (none : s.configured n = none) : s.tileJob op n accept x y = s.fault (matcfg 0 n) := by
  rw [tileJob, none]

section
variable (conf : s.configured n = some (v, w))
include conf

theorem State.tileJob_bad
    (bad : (MDesc.ok x y (rowSize (s.iss.frame.fsOf (MDesc.fs x)) (MConf.cols w)) && decide (MDesc.rep y = 1)) = false ∨
      accept w (s.iss.frame.fsOf (MDesc.fs x)) = false) : s.tileJob op n accept x y = s.fault (matcfg 0 n) := by
  rw [tileJob, conf]
  refine if_pos ?_
  simp only [Bool.and_eq_false_iff, decide_eq_false_iff_not] at bad
  simp only [Bool.or_eq_true, Bool.not_eq_true', decide_eq_true_eq]
  tauto

section
variable (ok : (MDesc.ok x y (rowSize (s.iss.frame.fsOf (MDesc.fs x)) (MConf.cols w)) && decide (MDesc.rep y = 1)) = true)
  (acc : accept w (s.iss.frame.fsOf (MDesc.fs x)) = true)
include ok acc

theorem State.tileJob_job {q : VSlot} (at_ : s.mview.slots.get? (MDesc.slot y) = some q) (fits : MDesc.fits x y (MConf.rows w) q.size = true) :
    s.tileJob op n accept x y = s.addJob n v.phys op x y := by
  rw [Bool.and_eq_true, decide_eq_true_eq] at ok
  rw [tileJob, conf]
  refine (if_neg (by simp [ok, acc])).trans ?_
  rw [at_]
  exact if_pos fits

theorem State.tileJob_misfit (misfit : ∀ q, s.mview.slots.get? (MDesc.slot y) = some q → MDesc.fits x y (MConf.rows w) q.size = false) :
    s.tileJob op n accept x y = s.fault { cause := .slotcfg } := by
  rw [Bool.and_eq_true, decide_eq_true_eq] at ok
  rw [tileJob, conf]
  refine (if_neg (by simp [ok, acc])).trans ?_
  cases at_ : s.mview.slots.get? (MDesc.slot y) with
  | none => rfl
  | some q => exact if_neg (by simp [misfit q at_])

end

end

end

section
variable {s : State} {n : BitVec 3} {a b : Src}

theorem exec_mcfg : exec (.mcfg n a) s =
    match mcfgMode (s.sc a) (s.iss.frame.fsOf (MConf.fsa (s.sc a))) (s.iss.frame.fsOf (MConf.fsb (s.sc a))) with
    | none => .next (s.fault (matcfg 0 n.toNat))
    | some m =>
      match s.accFor n.toNat with
      | none => .next (s.fault (matcfg 2 n.toNat))
      | some k => .next (s.addJob n.toNat k (.mcfg n.toNat) (s.sc a) (if m then 1 else 0)) := rfl

theorem exec_marm : exec (.marm n a) s =
    .next (s.plainJob n.toNat (.marm n.toNat) (s.sc a) (decide (1 ≤ (s.sc a).toNat) && decide ((s.sc a).toNat ≤ 65535))) := rfl

theorem exec_mscale : exec (.mscale n a) s =
    .next (s.plainJob n.toNat (.mscale n.toNat) (s.sc a) (decide ((s.sc a).toNat < 2 ^ 32) && !s.accInteger n.toNat)) := rfl

theorem exec_mzero : exec (.mzero n) s = .next (s.plainJob n.toNat (.mzero n.toNat) 0 true) := rfl

theorem exec_msrca : exec (.msrca n a b) s = .next (s.msrc (.msrca n.toNat) n.toNat true (s.sc a) (s.sc b)) := rfl

theorem exec_msrcb : exec (.msrcb n a b) s = .next (s.msrc (.msrcb n.toNat) n.toNat false (s.sc a) (s.sc b)) := rfl

theorem exec_mloadc : exec (.mloadc n a b) s =
    .next (s.tileJob (.mloadc n.toNat) n.toNat (fun _ fs => loadcOk fs (s.accInteger n.toNat)) (s.sc a) (s.sc b)) := rfl

theorem exec_mdrain : exec (.mdrain n a b) s =
    .next (s.tileJob (.mdrain n.toNat) n.toNat (fun _ fs => drainOk fs) (s.sc a) (s.sc b)) := rfl

theorem exec_mdisarm : exec (.mdisarm n) s =
    match s.mview.accs.get? n.toNat with
    | none => .next (s.fault (matcfg 0 n.toNat))
    | some x => if x.conf.isNone then .next (s.fault (matcfg 0 n.toNat))
        else .next (s.addEff { bun := 0, slot := 0, op := .mdisarm n.toNat, base := x.phys }) := rfl

section
variable (a b)

/-- The job that an operation of a configured accumulator queues, by operation (R273, R277, R281 to R283). -/
theorem exec_jobs {v : VAcc} {w : W64} (conf : s.configured n.toNat = some (v, w)) :
    let k := n.toNat
    let x := s.sc a
    let y := s.sc b
    let fs (j : Nat) : W64 := s.iss.frame.fsOf j
    let tileOk : Bool := MDesc.ok x y (rowSize (fs (MDesc.fs x)) (MConf.cols w)) && decide (MDesc.rep y = 1)
    exec (.mzero n) s = .next (s.addJob k v.phys (.mzero k) 0 0) ∧
    (1 ≤ x.toNat → x.toNat ≤ 65535 → exec (.marm n a) s = .next (s.addJob k v.phys (.marm k) x 0)) ∧
    (x.toNat < 2 ^ 32 → s.accInteger k = false → exec (.mscale n a) s = .next (s.addJob k v.phys (.mscale k) x 0)) ∧
    (∀ q, s.mview.slots.get? (MDesc.slot y) = some q →
      (MDesc.fs x = MConf.fsa w → MDesc.ok x y (operandRow (fs (MConf.fsa w)) (MConf.k w)) = true →
        MDesc.fits x y (MConf.rows w) q.size = true → exec (.msrca n a b) s = .next (s.addJob k v.phys (.msrca k) x y)) ∧
      (MDesc.fs x = MConf.fsb w → MDesc.ok x y (operandRow (fs (MConf.fsb w)) (MConf.k w)) = true →
        MDesc.fits x y (MConf.cols w) q.size = true → exec (.msrcb n a b) s = .next (s.addJob k v.phys (.msrcb k) x y)) ∧
      (tileOk = true → MDesc.fits x y (MConf.rows w) q.size = true →
        (loadcOk (fs (MDesc.fs x)) (s.accInteger k) = true → exec (.mloadc n a b) s = .next (s.addJob k v.phys (.mloadc k) x y)) ∧
        (drainOk (fs (MDesc.fs x)) = true → exec (.mdrain n a b) s = .next (s.addJob k v.phys (.mdrain k) x y)))) := by
  intro k x y fs tileOk
  refine ⟨by rw [exec_mzero, State.plainJob_ok conf], fun lo hi => ?_, fun fits float => ?_, fun q at_ => ⟨fun h ok fits => ?_, fun h ok fits => ?_,
    fun ok fits => ⟨fun acc => ?_, fun acc => ?_⟩⟩⟩
  · rw [exec_marm, decide_eq_true lo, decide_eq_true hi, Bool.and_self, State.plainJob_ok conf]
  · rw [exec_mscale, decide_eq_true fits, float, Bool.not_false, Bool.and_self, State.plainJob_ok conf]
  · rw [exec_msrca, State.msrc_job true conf h ok at_ fits]
  · rw [exec_msrcb, State.msrc_job false conf h ok at_ fits]
  · rw [exec_mloadc, State.tileJob_job (fun _ fs => loadcOk fs (s.accInteger n.toNat)) conf ok acc at_ fits]
  · rw [exec_mdrain, State.tileJob_job (fun _ fs => drainOk fs) conf ok acc at_ fits]

/-- Where no accumulator of the name is configured, its operations fault. -/
theorem jobs_unconfigured (none : s.configured n.toNat = none) :
    ∀ i ∈ [Instr.msrca n a b, .msrcb n a b, .marm n a, .mzero n, .mloadc n a b, .mdrain n a b, .mscale n a], Faults i s (matcfg 0 n.toNat) := by
  intro i hi
  simp only [List.mem_cons, List.not_mem_nil, or_false] at hi
  rcases hi with rfl | rfl | rfl | rfl | rfl | rfl | rfl
  · rw [Faults, exec_msrca, State.msrc_none _ none]
  · rw [Faults, exec_msrcb, State.msrc_none _ none]
  · rw [Faults, exec_marm, State.plainJob_none none]
  · rw [Faults, exec_mzero, State.plainJob_none none]
  · rw [Faults, exec_mloadc, State.tileJob_none _ none]
  · rw [Faults, exec_mdrain, State.tileJob_none _ none]
  · rw [Faults, exec_mscale, State.plainJob_none none]

/-- The operands that no operation of a configured accumulator takes. -/
theorem jobs_refused {v : VAcc} {w : W64} (conf : s.configured n.toNat = some (v, w)) :
    let k := n.toNat
    let x := s.sc a
    let y := s.sc b
    let fs (j : Nat) : W64 := s.iss.frame.fsOf j
    let rowsOk (f : Nat) : Bool := MDesc.ok x y (operandRow (fs f) (MConf.k w))
    let tileOk : Bool := MDesc.ok x y (rowSize (fs (MDesc.fs x)) (MConf.cols w)) && decide (MDesc.rep y = 1)
    let drain := drainOk (fs (MDesc.fs x))
    let loadc := loadcOk (fs (MDesc.fs x)) (s.accInteger k)
    (x.toNat = 0 ∨ 65535 < x.toNat → Faults (.marm n a) s (matcfg 0 k)) ∧
    (2 ^ 32 ≤ x.toNat ∨ s.accInteger k = true → Faults (.mscale n a) s (matcfg 0 k)) ∧
    (MDesc.fs x ≠ MConf.fsa w ∨ rowsOk (MConf.fsa w) = false → Faults (.msrca n a b) s (matcfg 0 k)) ∧
    (MDesc.fs x ≠ MConf.fsb w ∨ rowsOk (MConf.fsb w) = false → Faults (.msrcb n a b) s (matcfg 0 k)) ∧
    (tileOk = false ∨ loadc = false → Faults (.mloadc n a b) s (matcfg 0 k)) ∧
    (tileOk = false ∨ drain = false → Faults (.mdrain n a b) s (matcfg 0 k)) := by
  intro k x y fs rowsOk tileOk drain loadc
  refine ⟨fun bad => ?_, fun bad => ?_, fun bad => ?_, fun bad => ?_, fun bad => ?_, fun bad => ?_⟩
  · have refused : (decide (1 ≤ x.toNat) && decide (x.toNat ≤ 65535)) = false := by
      rw [Bool.and_eq_false_iff, decide_eq_false_iff_not, decide_eq_false_iff_not]
      omega
    rw [Faults, exec_marm, refused, State.plainJob_bad conf]
  · have refused : (decide (x.toNat < 2 ^ 32) && !s.accInteger k) = false := by
      rw [Bool.and_eq_false_iff, decide_eq_false_iff_not, not_lt]
      exact bad.imp_right (by simp [·])
    rw [Faults, exec_mscale, refused, State.plainJob_bad conf]
  · rw [Faults, exec_msrca, State.msrc_bad true conf bad]
  · rw [Faults, exec_msrcb, State.msrc_bad false conf bad]
  · rw [Faults, exec_mloadc, State.tileJob_bad _ conf bad]
  · rw [Faults, exec_mdrain, State.tileJob_bad _ conf bad]

end

end

/-- Settles O18: every operation is a job where its checks pass, and a job is queued where an entry is free. -/
theorem accumulatorOperationsAreQueued : Obligations.AccumulatorOperationsAreQueued := by
  intro n a b s k x y fs job
  refine ⟨fun phys m mode acc free => ?_, fun mode => ?_, fun v w conf free => ?_, fun v w acc conf => ?_, fun none => ?_, fun m mode => ⟨fun none => ?_,
    fun some full => ?_⟩, fun v w conf => ?_, jobs_unconfigured a b⟩
  · rw [exec_mcfg, mode, acc]
    simp only [State.addJob_free free]
    rfl
  · rw [Faults, exec_mcfg, mode]
  · obtain ⟨zero, arm, scale, tiles⟩ := exec_jobs a b conf
    simp only [State.addJob_free free] at zero arm scale tiles
    refine ⟨zero, arm, scale, fun q at_ => ?_⟩
    obtain ⟨srca, srcb, tile⟩ := tiles q at_
    exact ⟨srca, srcb, fun ok one fits => tile (by rw [ok, decide_eq_true one]; rfl) fits⟩
  · rw [exec_mdisarm, acc]
    exact if_neg (by simp [conf])
  · rw [Faults, exec_mdisarm]
    cases acc : s.mview.accs.get? n.toNat with
    | none => rfl
    | some v =>
      refine if_pos ?_
      rw [Option.isNone_iff_eq_none, Option.eq_none_iff_forall_ne_some]
      exact fun w => none v w acc
  · rw [Faults, exec_mcfg, mode, none]
  · obtain ⟨phys, acc⟩ := Option.ne_none_iff_exists'.1 some
    rw [Faults, exec_mcfg, mode, acc]
    simp only [State.addJob_full full]
    rfl
  · intro at_ rowsOk tileOk drain loadc
    obtain ⟨arm, scale, srca, srcb, mloadc, mdrain⟩ := jobs_refused a b conf
    refine ⟨fun full => ?_, arm, scale, srca, srcb, mloadc, mdrain, fun h ok misfit => ?_, fun h ok misfit => ?_, fun ok misfit => ⟨fun acc => ?_, fun acc => ?_⟩⟩
    · obtain ⟨zero, arm, scale, tiles⟩ := exec_jobs a b conf
      simp only [State.addJob_full full] at zero arm scale tiles
      exact ⟨zero, arm, scale, tiles⟩
    · rw [Faults, exec_msrca, State.msrc_misfit true conf h ok misfit]
    · rw [Faults, exec_msrcb, State.msrc_misfit false conf h ok misfit]
    · rw [Faults, exec_mloadc, State.tileJob_misfit (fun _ fs => loadcOk fs (s.accInteger n.toNat)) conf ok acc misfit]
    · rw [Faults, exec_mdrain, State.tileJob_misfit (fun _ fs => drainOk fs) conf ok acc misfit]

/-! ### Sorts (R284 to R287) -/

theorem sortKeys_perm (k : BitVec 2) (l : List W32) : (sortKeys k l).Perm (l.zip (List.range l.length)) := List.mergeSort_perm _ _

theorem sortKeys_sorted (k : BitVec 2) (l : List W32) :
    (sortKeys k l).Pairwise fun x y => sortKey k x.1 < sortKey k y.1 ∨ (sortKey k x.1 = sortKey k y.1 ∧ x.2 ≤ y.2) := by
  have sorted := List.pairwise_mergeSort (le := fun (a b : W32 × Nat) =>
    decide (sortKey k a.1 < sortKey k b.1) || (sortKey k a.1 == sortKey k b.1 && decide (a.2 ≤ b.2)))
    (fun x y z => by simp only [Bool.or_eq_true, Bool.and_eq_true, decide_eq_true_eq, beq_iff_eq]; omega)
    (fun x y => by simp only [Bool.or_eq_true, Bool.and_eq_true, decide_eq_true_eq, beq_iff_eq]; omega) (l.zip (List.range l.length))
  exact sorted.imp fun h => by simpa only [Bool.or_eq_true, Bool.and_eq_true, decide_eq_true_eq, beq_iff_eq] using h

theorem exec_msort (k : BitVec 2) (a b : Src) (d : Dst) (s : State) : exec (.msort k a b d) s = execMsort k a b d s := rfl

theorem exec_mstat (m : BitVec 3) (d : Dst) (s : State) : exec (.mstat m d) s =
    .next (s.deliver d (.scalar (match ((s.c s.iss.tile).frame s.iss.set.frame).accs.get? m.toNat with
      | some k => ((s.c s.iss.tile).accs.getD k {}).status
      | none => 0))) := rfl

theorem msort_waits {k : BitVec 2} {a b : Src} {t0 t1 : Option Target} {s : State} (some : 1 ≤ (s.sc b).toNat) (fits : (s.sc b).toNat ≤ 1024)
    (near : isLocal (s.sc a) = true) (pass : ptrFault s.acc (s.sc a) (4 * (s.sc b).toNat) 4 0 = none)
    (free : s.tgtsFault (t0.toList ++ t1.toList) = none) :
    exec (.msort k a b (.targets t0 t1)) s = .next (s.addWait (.msort k
      ((List.range (s.sc b).toNat).map fun j => (((s.loadEl (s.sc a + w64 (4 * j)) 4 true).val.getD 0).setWidth 32 : W32)) (sortPasses (s.sc b).toNat) t0 t1)
      { toks := t0.toList ++ t1.toList } {}) := by
  have kind : ¬ (ptrKind (s.sc a) = 0 ∨ ptrKind (s.sc a) = 3) := by
    rw [isLocal, Bool.or_eq_true, beq_iff_eq, beq_iff_eq] at near
    omega
  have tgts : s.tgtsFault (Dst.targets t0 t1).tgts = none := free
  rw [exec_msort, execMsort]
  refine (if_neg (by omega)).trans ((if_neg kind).trans ?_)
  rw [pass, tgts]
  rfl

/-! ### Tile slots (R289 to R291) -/

theorem bits_low {x : W64} {n : Nat} (h : x.toNat < 2 ^ n) : bits x 63 n = 0 := by
  rw [bits, bitsOf, Nat.div_eq_of_lt h, Nat.zero_mod]

theorem exec_tslotAlloc (a b : Src) (s : State) : exec (.tslotAlloc a b) s = execTslotAlloc a b s := rfl

theorem exec_tslotFree (a : Src) (s : State) : exec (.tslotFree a) s = execTslotFree a s := rfl

section
variable {s : State} {a b : Src}

theorem tslotAlloc_buffers {k : Nat} (ix8 : (s.sc a).toNat < 2 ^ 8) (area : (s.sc b).toNat < 2 ^ 40) (off : (s.sc b).toNat % 2 ^ 20 % 128 = 0)
    (size : (s.sc b).toNat / 2 ^ 20 % 2 ^ 20 % 128 = 0) (pos : 0 < (s.sc b).toNat / 2 ^ 20 % 2 ^ 20)
    (unused : s.mview.slots.has (s.sc a).toNat = false)
    (fits : (s.sc b).toNat % 2 ^ 20 + (s.sc b).toNat / 2 ^ 20 % 2 ^ 20 ≤ s.iss.frame.task.scrkb * 1024) (free : s.freeSlot = some k) :
    exec (.tslotAlloc a b) s = .next (s.addEff { bun := 0, slot := 0, op := .tslotAlloc, a := s.sc a, b := s.sc b, base := k }) := by
  have off_bits : bits (s.sc b) 19 0 = (s.sc b).toNat % 2 ^ 20 := by simp [bits, bitsOf]
  have size_bits : bits (s.sc b) 39 20 = (s.sc b).toNat / 2 ^ 20 % 2 ^ 20 := by simp [bits, bitsOf]
  rw [exec_tslotAlloc, execTslotAlloc]
  simp only [off_bits, size_bits, bits_low ix8, bits_low area, off, size, unused, free]
  generalize (s.sc b).toNat % 2 ^ 20 = o at fits
  generalize (s.sc b).toNat / 2 ^ 20 % 2 ^ 20 = z at pos fits
  exact if_neg (by simp [pos.ne', fits])

section
variable (ix8 : (s.sc a).toNat < 2 ^ 8) {q : VSlot} (at_ : s.mview.slots.get? (s.sc a).toNat = some q)
include ix8 at_

theorem tslotFree_buffers (empty : q.st = 0) (unsubbed : q.subbed = false)
    (unnamed : ∀ v ∈ s.mview.accs, v.2.conf.isSome = true → v.2.a ≠ some (s.sc a).toNat ∧ v.2.b ≠ some (s.sc a).toNat) :
    exec (.tslotFree a) s = .next (s.addEff { bun := 0, slot := 0, op := .tslotFree, a := s.sc a, base := q.phys }) := by
  have none_names : (s.mview.accs.any fun e => e.2.conf.isSome && (e.2.a == some (s.sc a).toNat || e.2.b == some (s.sc a).toNat)) = false := by
    refine List.any_eq_false.2 fun v hv names => ?_
    simp only [Bool.and_eq_true, Bool.or_eq_true, beq_iff_eq] at names
    obtain ⟨conf, named⟩ := names
    exact named.elim (unnamed v hv conf).1 (unnamed v hv conf).2
  rw [exec_tslotFree, execTslotFree]
  simp only [bits_low ix8, bne_self_eq_false, Bool.false_eq_true, if_false, at_]
  exact if_neg (by simp [empty, unsubbed, none_names])

/-- TSET on a slot that there is. -/
theorem State.tset_slot (op : EffOp) (empty : Bool) (row : Option (List W32 × W64)) :
    s.tset op a empty row =
      if (if empty then q.st != 2 else q.st != 0 || q.subbed) || (match row with
          | some (_, off) => bits off 63 20 != 0 || off.toNat % 128 != 0 || decide (off.toNat + 128 > q.size)
          | none => false) then s.fault slotFault
      else s.addEff { bun := 0, slot := 0, op := op, a := s.sc a, base := q.phys, lanes := (row.map (·.1)).getD [], e := (row.map (·.2)).getD 0 } := by
  unfold State.tset
  simp only [bits_low ix8, bne_self_eq_false, Bool.false_eq_true, if_false, at_] <;> rfl

end

end

section
variable {s : State} {a : Src} {x : Slot} (h : s.querySlot a = some x) {full : Bool} {d : Dst}
include h

theorem State.slotWait_reached (reached : x.reached full = true) : s.slotWait a full d = s.deliver d .order := by
  unfold State.slotWait State.deliver
  simp only [h]
  cases s.tgtsFault d.tgts with
  | none => exact if_pos reached
  | some f => rfl

theorem State.slotWait_waits (unreached : x.reached full = false) (free : s.tgtsFault d.tgts = none) :
    s.slotWait a full d = s.addWait (.tslotq (s.sc a).toNat full false) d.dest {} := by
  unfold State.slotWait
  simp only [h, free]
  exact if_neg (by simp [unreached])

end

theorem exec_tslotqNow (a : Src) (d : Dst) (s : State) : exec (.tslotqNow a d) s =
    match s.querySlot a with
    | none => .next (s.fault slotFault)
    | some x => .next (s.deliver d (.scalar x.status)) := rfl

theorem State.slotWait_none {s : State} {a : Src} (h : s.querySlot a = none) (full : Bool) (d : Dst) : s.slotWait a full d = s.fault slotFault := by
  rw [slotWait, h]

/-- Settles O19: the sort network sorts, and the tile-slot operations are checked on the slot that they name. -/
theorem sortsAndTileSlots : Obligations.SortsAndTileSlots := by
  refine ⟨fun k l => ⟨sortKeys_perm k l, sortKeys_sorted k l⟩, ?_, ?_⟩
  · intro k m a b t0 t1 d s p n
    refine ⟨fun bad => if_pos bad, msort_waits, fun x acc => deliver_delivers ?_, fun none => deliver_delivers ?_⟩
    · rw [exec_mstat, acc]
    · rw [exec_mstat, none]
  · intro a b c d s ix off size e
    refine ⟨fun k h1 h2 h3 h4 h5 h6 h7 h8 => tslotAlloc_buffers h1 h2 h3 h4 h5 h6 h7 h8, fun q small at_ => ?_, fun x slot => ?_, fun none i hi => ?_⟩
    · refine ⟨tslotFree_buffers small at_, fun full => ?_, fun full => ?_, fun empty unsubbed => ⟨?_, fun aligned area fits => ?_⟩, fun subbed => ?_⟩
      · exact congrArg _ ((State.tset_slot small at_ _ true none).trans (if_neg (by simp [full])))
      · exact congrArg _ ((State.tset_slot small at_ _ true none).trans (if_pos (by simp [full])))
      · exact congrArg _ ((State.tset_slot small at_ _ false none).trans (if_neg (by simp [empty, unsubbed])))
      · have row : (bits (s.sc c) 63 20 != 0 || (s.sc c).toNat % 128 != 0 || decide ((s.sc c).toNat + 128 > q.size)) = false := by
          rw [bits_low area, aligned]
          simpa using fits
        exact ⟨congrArg _ ((State.tset_slot small at_ .tsetRow false (some (s.vec b, s.sc c))).trans (if_neg (by simp [empty, unsubbed, row]))),
          congrArg _ ((State.tset_slot small at_ .tsetRowfull false (some (s.vec b, s.sc c))).trans (if_neg (by simp [empty, unsubbed, row])))⟩
      · exact congrArg _ ((State.tset_slot small at_ _ false none).trans (if_pos (by simp [subbed])))
    · have full : x.reached true = x.full := rfl
      have empty : x.reached false = (x.stateNum == 0) := rfl
      exact ⟨deliver_delivers (by rw [exec_tslotqNow, slot]), fun h => deliver_delivers (congrArg _ (State.slotWait_reached slot (full.trans h))),
        fun h free => congrArg _ (State.slotWait_waits slot (full.trans h) free),
        fun h => deliver_delivers (congrArg _ (State.slotWait_reached slot (empty.trans (beq_iff_eq.2 h)))),
        fun h free => congrArg _ (State.slotWait_waits slot (empty.trans (beq_eq_false_iff_ne.2 h)) free)⟩
    · simp only [List.mem_cons, List.not_mem_nil, or_false] at hi
      rcases hi with rfl | rfl | rfl
      · rw [Faults, exec_tslotqNow, none]
      · exact congrArg _ (State.slotWait_none none _ _)
      · exact congrArg _ (State.slotWait_none none _ _)

end Sys2Proof.Machine

end

/-! PROOFS. Tag-level control and queries at issue (R235 to R248). -/

section

namespace Sys2Proof.Machine

/-! ### Terminal operations (R240, R243) -/

section
variable {s : State} {a b c : Src} {d : Dst}

theorem bits_offset (x : W64) : bits x 19 0 = x.toNat % 2 ^ 20 ∧ bits x 39 20 = x.toNat / 2 ^ 20 % 2 ^ 20 := by
  simp [bits, bitsOf]

theorem badBlock_iff {off : Nat} :
    s.badBlock off = true ↔ off % 64 ≠ 0 ∨ s.iss.frame.task.codekb * 1024 ≤ (s.iss.set.block + off) % 2 ^ 20 := by
  rw [State.badBlock, Bool.or_eq_true, bne_iff_ne, decide_eq_true_eq]
  exact Iff.rfl

theorem exec_goto : exec (.goto c) s =
    if s.inst.issuedSpawn then .next (s.fault { cause := .illop })
    else if s.badBlock (bits (s.sc c) 19 0) then .next s.illBun
    else .next (s.setTerm (.goto (s.namedBlock (bits (s.sc c) 19 0)))) := rfl

theorem exec_retb : exec (.retb a b d) s =
    if s.inst.issuedSpawn || !s.inst.isCallChild then .next (s.fault { cause := .illop })
    else .next ((s.setTerm .retb).twoTargets d (s.carried a) (s.carried b)) := rfl

theorem exec_gate : exec (.gate a b d) s =
    if s.sc b ≠ 0 then .next (s.deliver d (s.carried a))
    else match d with
      | .latch r => .next (s.modIss fun i => i.latch r (.scalar (Config.gateLatch (s.carried a) ((i.latches.get? r.toNat).map (·.2)))))
      | _ => .next s := rfl

theorem setTerm_twoTargets {t0 t1 : Option Target} (free : s.tgtsFault (t0.toList ++ t1.toList) = none) (term : Term) (v w : Val) :
    (s.setTerm term).twoTargets (.targets t0 t1) v w = s.modIss fun x => ({ x with term := some term }.put 0 t0 v).put 1 t1 w := by
  have same : (s.setTerm term).tgtsFault (Dst.targets t0 t1).tgts = none := free
  rw [State.twoTargets, same]
  rfl

theorem isCallChild_iff (i : Inst) : i.isCallChild = true ↔ ∃ n, i.ctx = .call n := by
  unfold Inst.isCallChild
  cases i.ctx <;> simp

end

/-- Settles O11. -/
theorem steersAndTerminals : Obligations.SteersAndTerminals := by
  refine ⟨?_, ?_⟩
  · intro a b c t0 t1 d s path pick
    refine ⟨fun free => ?_, deliver_delivers rfl, deliver_delivers rfl, fun ne => deliver_delivers (if_pos ne), fun zero other => ?_, fun zero r => ?_⟩
    · exact (deliver_delivers rfl : Delivers (.steer a b (.targets t0 t1)) s (.targets (pick t0) (pick t1)) 0 (s.carried b)).1 free
    · rw [exec_gate, if_neg (not_not.2 zero)]
      cases d with
      | latch r => exact absurd rfl (other r)
      | _ => rfl
    · rw [exec_gate, if_neg (not_not.2 zero)]
      have raised (x : FpFlags) : x ||| 0 = x := BitVec.or_zero
      simp only [delivered, raised]
      rfl
  · intro a b c t0 t1 s off block both
    have offset := (bits_offset (s.sc c)).1
    refine ⟨rfl, fun free => congrArg _ (setTerm_twoTargets free _ _ _), fun spawned => ⟨?_, ?_⟩, fun fresh aligned inside => ?_, fun fresh bad => ?_,
      fun n fresh call free => ?_, fun root => ?_⟩
    · rw [Faults, exec_goto, if_pos spawned]
    · rw [Faults, exec_retb, if_pos (by simp [spawned])]
    · have good : ¬ s.badBlock off = true := fun bad => (badBlock_iff.1 bad).elim (fun h => h aligned) (not_le.2 inside)
      rw [exec_goto, if_neg (by simp [fresh]), offset, if_neg good]
      rfl
    · rw [exec_goto, if_neg (by simp [fresh]), offset, if_pos (badBlock_iff.2 bad)]
    · have child : s.inst.isCallChild = true := (isCallChild_iff _).2 ⟨n, call⟩
      rw [exec_retb, if_neg (by simp [fresh, child]), setTerm_twoTargets free]
    · have child : ¬ s.inst.isCallChild = true := fun h => let ⟨n, call⟩ := (isCallChild_iff _).1 h; root n call
      rw [Faults, exec_retb, if_pos (by simp [child])]

/-! ### Loops and calls (R52, R236, R241 to R243) -/

/-- An operation that spawns or leaves was issued in the instance (R243). -/
def Inst.barsSpawn (i : Inst) : Prop := i.issuedSpawn = true ∨ i.term = some .retb ∨ ∃ n, i.term = some (.goto n)

section
variable {s : State}

theorem spawnFault_bars (h : s.inst.barsSpawn) : s.spawnFault = some { cause := .illop } := by
  unfold State.spawnFault
  refine if_pos ?_
  rcases h with spawned | term | ⟨n, term⟩
  · simp [spawned]
  · simp [term]
  · simp [term]

section
variable (may : ¬ s.inst.barsSpawn)
include may

theorem not_terminal : (s.inst.issuedSpawn || (match s.inst.term with | some (.goto _) | some .retb => true | _ => false)) = false := by
  unfold Inst.barsSpawn at may
  push Not at may
  obtain ⟨fresh, notRetb, notGoto⟩ := may
  rw [Bool.or_eq_false_iff]
  refine ⟨by simpa using fresh, ?_⟩
  split
  · exact absurd ‹_› (notGoto _)
  · exact absurd ‹_› notRetb
  · rfl

theorem spawnFault_deep (deep : 7 ≤ s.inst.depth) :
    s.spawnFault = some { cause := .tagx, cw1 := 3, cw2 := w64 (s.c s.iss.tile).tagFree, cw3 := w64 (s.c s.iss.tile).dmax } := by
  unfold State.spawnFault
  exact (if_neg fun h => Bool.false_ne_true ((not_terminal may).symm.trans h)).trans (if_pos deep)

theorem spawnFault_none (shallow : s.inst.depth < 7) : s.spawnFault = none := by
  unfold State.spawnFault
  exact (if_neg fun h => Bool.false_ne_true ((not_terminal may).symm.trans h)).trans (if_neg (not_le.2 shallow))

end

theorem doSpawn_fault {offs : List Nat} {sp : Spawn} {d : Dst} {v w : Val} {f : FaultInfo} (h : s.spawnFault = some f) :
    s.doSpawn offs sp d v w = s.fault f := by
  rw [State.doSpawn, h]

theorem doSpawn_illBun {offs : List Nat} {sp : Spawn} {d : Dst} {v w : Val} (h : s.spawnFault = none) (bad : offs.any s.badBlock = true) :
    s.doSpawn offs sp d v w = s.illBun := by
  rw [State.doSpawn, h]
  exact if_pos bad

theorem doSpawn_starts {offs : List Nat} {sp : Spawn} {t0 t1 : Option Target} {v w : Val} (h : s.spawnFault = none) (good : offs.any s.badBlock = false)
    (free : s.tgtsFault (Dst.targets t0 t1).tgts = none) :
    s.doSpawn offs sp (.targets t0 t1) v w = s.modIss fun x =>
      ({ x with spawn := some sp }.put 0 t0 (if t0.map Target.top = some TagOp.spawn then v else .order)).put 1 t1
        (if t1.map Target.top = some TagOp.spawn then w else .order) := by
  have value (t : Option Target) (v : Val) : (t.map fun t => if t.top = .spawn then v else .order).getD .order =
      if t.map Target.top = some TagOp.spawn then v else .order := by
    cases t <;> simp
  rw [State.doSpawn, h]
  refine (if_neg (by simp [good])).trans ?_
  rw [free]
  simp only [value]

end

section
variable (a b c : Src) (d : Dst) (s : State)

theorem exec_loop (vec : Bool) : exec (if vec then .loopVec a b c d else .loop a b c d) s =
    .next (s.doSpawn [bits (s.sc c) 19 0, bits (s.sc c) 39 20]
      (.loop vec (bits (s.sc a) 31 0) (s.sc b) (s.namedBlock (bits (s.sc c) 19 0)) (s.namedBlock (bits (s.sc c) 39 20)) s.iss.set.p s.iss.set.pd
        s.iss.set.bun) d (.scalar (w64 (bits (s.sc a) 31 0))) (.scalar (w64 (bits (s.sc a) 31 0)))) := by
  cases vec <;> rfl

theorem exec_while : exec (.whileOp a c d) s =
    .next (s.doSpawn [bits (s.sc c) 19 0, bits (s.sc c) 39 20]
      (.whileLoop (s.namedBlock (bits (s.sc c) 19 0)) (s.namedBlock (bits (s.sc c) 39 20)) s.iss.set.p s.iss.set.pd s.iss.set.bun) d
      (s.carried a) (s.carried a)) := rfl

theorem exec_callb : exec (.callb a b c d) s =
    .next (s.doSpawn [bits (s.sc c) 19 0, bits (s.sc c) 39 20]
      (.call (s.namedBlock (bits (s.sc c) 19 0)) (s.namedBlock (bits (s.sc c) 39 20)) s.iss.set.p s.iss.set.pd s.iss.set.bun) d
      (s.carried a) (s.carried b)) := rfl

/-- The operations that start a loop or a call end in one. -/
theorem exec_spawns : ∀ i ∈ [Instr.loop a b c d, .loopVec a b c d, .whileOp a c d, .callb a b c d],
    ∃ sp v w, exec i s = .next (s.doSpawn [bits (s.sc c) 19 0, bits (s.sc c) 39 20] sp d v w) := by
  intro i hi
  simp only [List.mem_cons, List.not_mem_nil, or_false] at hi
  rcases hi with rfl | rfl | rfl | rfl
  · exact ⟨_, _, _, exec_loop a b c d s false⟩
  · exact ⟨_, _, _, exec_loop a b c d s true⟩
  · exact ⟨_, _, _, exec_while a c d s⟩
  · exact ⟨_, _, _, exec_callb a b c d s⟩

end

/-- Settles O12: each of the operations ends in `State.doSpawn`. -/
theorem loopsAndCallsAreRecorded : Obligations.LoopsAndCallsAreRecorded := by
  intro a b c t0 t1 s d o0 o1 at0 at1 trip p pd bun started
  obtain ⟨off0, off1⟩ := bits_offset (s.sc c)
  have trip_bits : bits (s.sc a) 31 0 = trip := by simp [bits, bitsOf, trip]
  have may (fresh : s.inst.issuedSpawn = false) (notRetb : s.inst.term ≠ some .retb) (notGoto : ∀ n, s.inst.term ≠ some (.goto n)) : ¬ s.inst.barsSpawn := by
    rintro (h | h | ⟨n, h⟩)
    · simp [fresh] at h
    · exact notRetb h
    · exact notGoto n h
  refine ⟨fun fresh notRetb notGoto shallow al0 al1 in0 in1 free => ?_, fun i hi => ⟨fun bars => ?_, fun fresh notRetb notGoto deep => ?_,
    fun fresh notRetb notGoto shallow bad => ?_⟩⟩
  · have none := spawnFault_none (may fresh notRetb notGoto) shallow
    have good : [o0, o1].any s.badBlock = false := by
      refine List.any_eq_false.2 fun o ho bad => ?_
      simp only [List.mem_cons, List.not_mem_nil, or_false] at ho
      rcases ho with rfl | rfl
      · exact (badBlock_iff.1 bad).elim (fun h => h al0) (not_le.2 in0)
      · exact (badBlock_iff.1 bad).elim (fun h => h al1) (not_le.2 in1)
    have loop (vec : Bool) : exec (if vec then .loopVec a b c d else .loop a b c d) s =
        .next (started (.loop vec trip (s.sc b) at0 at1 p pd bun) (.scalar (w64 trip)) (.scalar (w64 trip))) := by
      have e := exec_loop a b c d s vec
      rw [off0, off1, trip_bits, doSpawn_starts none good free] at e
      exact e
    have while_ := exec_while a c d s
    have callb := exec_callb a b c d s
    rw [off0, off1] at while_ callb
    rw [doSpawn_starts none good free] at while_ callb
    exact ⟨loop false, loop true, while_, callb⟩
  · obtain ⟨sp, v, w, e⟩ := exec_spawns a b c d s i hi
    rw [Faults, e, doSpawn_fault (spawnFault_bars bars)]
  · obtain ⟨sp, v, w, e⟩ := exec_spawns a b c d s i hi
    rw [Faults, e, doSpawn_fault (spawnFault_deep (may fresh notRetb notGoto) deep)]
  · obtain ⟨sp, v, w, e⟩ := exec_spawns a b c d s i hi
    have some_bad : [o0, o1].any s.badBlock = true := by
      have : s.badBlock o0 = true ∨ s.badBlock o1 = true := by
        rw [badBlock_iff, badBlock_iff]
        tauto
      simpa using this
    rw [Faults, e, off0, off1, doSpawn_illBun (spawnFault_none (may fresh notRetb notGoto) shallow) some_bad]
    rfl

/-! ### Queries (R244 to R248) -/

section
variable {s : State} {k : BitVec 2} {a : Src} {d : Dst}

/-- The word that TAGQ reads (R244). -/
def State.tagqWord (s : State) (k : BitVec 2) (a : Src) : W64 :=
  if (s.sc a).toNat / 2 ^ 26 % 64 = s.iss.set.frame ∨ s.iss.set.frame = 63 then
    match (s.c s.iss.tile).inst? ((s.sc a).toNat / 2 ^ 11 % 2 ^ 15) with
    | some i => if i.frame = (s.sc a).toNat / 2 ^ 26 % 64 then w64 (i.entryBits / 2 ^ (64 * k.toNat)) else 0
    | none => 0
  else 0

theorem exec_tagq : exec (.tagq k a d) s = .next ((s.reading 1 (s.tagqWord k a)).2.deliver d (.scalar (s.reading 1 (s.tagqWord k a)).1)) := by
  have fields : bits (s.sc a) 31 26 = (s.sc a).toNat / 2 ^ 26 % 64 ∧ bits (s.sc a) 25 11 = (s.sc a).toNat / 2 ^ 11 % 2 ^ 15 := by simp [bits, bitsOf]
  rw [State.tagqWord, ← fields.1, ← fields.2]
  rfl

theorem exec_qtime : exec (.qtime a d) s =
    .next ((s.reading 1 (s.iss.tick + s.sc a)).2.deliver d (.scalar (s.reading 1 (s.iss.tick + s.sc a)).1)) := rfl

theorem exec_frameq : exec (.frameq a d) s =
    if (s.sc a).toNat > 0x7FF then .next (s.fault { cause := .illop })
    else if (s.sc a).toNat ≥ 0x400 then .next (s.fault { cause := .priv })
    else .next ((s.reading 1 (s.frameCsr s.iss.tile s.iss.set.frame s.iss.frame s.iss.tick (s.sc a).toNat)).2.deliver d
      (.scalar (s.reading 1 (s.frameCsr s.iss.tile s.iss.set.frame s.iss.frame s.iss.tick (s.sc a).toNat)).1)) := rfl

/-- A reading of a frame that is not durable is only delivered. -/
theorem reading_delivers {i : Instr} (field : Nat) {v : W64} (transient : s.iss.frame.pmodeNow = false)
    (e : exec i s = .next ((s.reading field v).2.deliver d (.scalar (s.reading field v).1))) : Delivers i s d 0 (.scalar v) := by
  rw [State.reading_transient transient] at e
  exact deliver_delivers e

/-- The slate once a reading is logged (R248). -/
def logReading (key slot field : Nat) (v : W64) (l : Slate) : Slate :=
  { l with inlog := l.inlog ++ [.reading key slot field v .taken], inBytes := l.inBytes + 16 }

theorem tgtsFault_modSlate (t : Nat) (g : Slate → Slate) (l : List Target) : (s.modSlate t g).tgtsFault l = s.tgtsFault l := by
  unfold State.tgtsFault State.targetFault State.inst
  simp

/-- A reading of a durable frame enters the inbound log (R248). -/
theorem reading_logged {i : Instr} (field : Nat) {v : W64} (durable : s.iss.frame.pmodeNow = true)
    (live : (s.tile s.iss.tile).slate.replaying = false) (free : s.tgtsFault d.tgts = none)
    (e : exec i s = .next ((s.reading field v).2.deliver d (.scalar (s.reading field v).1))) :
    ∃ s', exec i s = .next s' ∧
      (s'.tile s.iss.tile).slate.inlog = (s.tile s.iss.tile).slate.inlog ++ [.reading (readKey s.inst s.iss.set) s.iss.slot field v .taken] ∧
      s'.iss = s.iss.dst d (.scalar v) := by
  have taken : s.reading field v = (v, s.modSlate s.iss.tile (logReading (readKey s.inst s.iss.set) s.iss.slot field v)) := by
    unfold State.reading State.readUnder
    simp only [durable, live, if_true, Bool.false_eq_true, if_false]
    rfl
  rw [taken] at e
  dsimp only at e
  rw [State.deliver, tgtsFault_modSlate, free] at e
  refine ⟨_, e, ?_, rfl⟩
  have slate : ∀ (s : State) (x : Issue → Issue) (t : Nat), ((s.modIss x).tile t) = s.tile t := fun _ _ _ => rfl
  rw [slate, State.slate_modSlate_self]
  rfl

end

/-- Settles O13: the queries read one word each, which a durable frame logs. -/
theorem queriesOfAFrame : Obligations.QueriesOfAFrame := by
  refine ⟨?_, ?_⟩
  · intro k a d s transient x f
    refine ⟨reading_delivers 1 transient exec_qtime, fun low => reading_delivers 1 transient ?_, fun ge le => ?_, fun gt => if_pos gt, ?_⟩
    · rw [exec_frameq, if_neg (by omega), if_neg (by omega)]
    · rw [Faults, exec_frameq, if_neg (by omega), if_pos (by omega)]
    · intro g e
      have tagq : Delivers (.tagq k a d) s d 0 (.scalar (s.tagqWord k a)) := reading_delivers 1 transient exec_tagq
      refine ⟨fun i own at_ owner => ?_, fun other => ?_⟩
      · have word : s.tagqWord k a = w64 (i.entryBits / 2 ^ (64 * k.toNat)) := by
          unfold State.tagqWord
          rw [if_pos own, show (s.c s.iss.tile).inst? _ = some i from at_]
          exact if_pos owner
        exact word ▸ tagq
      · have word : s.tagqWord k a = 0 := by
          unfold State.tagqWord
          split
          · next own =>
            cases at_ : (s.c s.iss.tile).inst? ((s.sc a).toNat / 2 ^ 11 % 2 ^ 15) with
            | none => rfl
            | some i =>
              refine if_neg ?_
              rcases other with ⟨ne, ne'⟩ | alien
              · exact absurd own (not_or.2 ⟨ne, ne'⟩)
              · exact alien i at_
          · rfl
        exact word ▸ tagq
  · intro k a d s durable live free x own entry logged
    have word : s.tagqWord k a = entry := by
      unfold State.tagqWord
      simp only [entry, own, x, Bool.or_eq_true, decide_eq_true_eq]
      cases (s.c s.iss.tile).inst? ((s.sc a).toNat / 2 ^ 11 % 2 ^ 15) with
      | none => simp only [ite_self]
      | some i =>
        by_cases h : (s.sc a).toNat / 2 ^ 26 % 64 = s.iss.set.frame ∨ s.iss.set.frame = 63
        · simp only [h, if_true, true_and]
        · simp only [h, if_false, false_and]
    refine ⟨reading_logged 1 durable live free exec_qtime, word ▸ reading_logged 1 durable live free exec_tagq, fun low => reading_logged 1 durable live free ?_⟩
    rw [exec_frameq, if_neg (by omega), if_neg (by omega)]

end Sys2Proof.Machine

end

/-! PROOFS. Name, stream and engine operations at issue (R312 to R329). -/

section

namespace Sys2Proof.Machine

/-! ### Operations on names (R313 to R318, R321, R322) -/

/-- The operation publishes a partial (R315). -/
def EffOp.isPart : EffOp → Bool
  | .pubr _ => true
  | _ => false

/-- The effect of an operation on a name. -/
def nameEff (op : EffOp) (hi lo d : W64) : Eff := { bun := 0, slot := 0, op := op, a := hi, b := lo, e := d }

section
variable {s : State} {i : Instr} {op : EffOp} {hi lo d : W64} {mask : BitVec 4} {bad : Option FaultInfo} {done : Option Target} {f : FaultInfo}

theorem State.cpName_eq : s.cpName op hi lo d mask bad done =
    (s.nameFault hi lo mask op.isPart (op == .claim)).elim (bad.elim (s.cp (nameEff op hi lo d) done) s.fault) s.fault := by
  change (match s.nameFault hi lo mask op.isPart (op == .claim) with
    | some f => s.fault f
    | none => match bad with
      | some f => s.fault f
      | none => s.cp (nameEff op hi lo d) done) = _
  cases s.nameFault hi lo mask op.isPart (op == .claim) <;> cases bad <;> rfl

theorem cpName_buffers (pass : s.nameFault hi lo mask op.isPart (op == .claim) = none) (good : bad = none)
    (run : exec i s = .next (s.cpName op hi lo d mask bad done)) : Buffers i s { nameEff op hi lo d with done := doneTok done } [done] := by
  rw [State.cpName_eq, pass, good] at run
  exact cp_buffers run

theorem cpName_faults (fails : s.nameFault hi lo mask op.isPart (op == .claim) = some f)
    (run : exec i s = .next (s.cpName op hi lo d mask bad done)) : Faults i s f := by
  rw [State.cpName_eq, fails] at run
  exact run

theorem cpName_bad (pass : s.nameFault hi lo mask op.isPart (op == .claim) = none) (wrong : bad = some f)
    (run : exec i s = .next (s.cpName op hi lo d mask bad done)) : Faults i s f := by
  rw [State.cpName_eq, pass, wrong] at run
  exact run

end

theorem oddTile_false {q : Binding} {k : BitVec 2} (narrow : k = 0 ∨ q.tilesec % 2 = 0) : oddTile q k = false := by
  rcases narrow with rfl | even
  · rfl
  · simp [oddTile, even]

theorem bits_ne_zero {x : W64} (h : x.toNat % 2 ^ 16 ≠ 0) : bits x 15 0 ≠ 0 := by
  simpa [bits, bitsOf] using h

/-- Settles O28: every operation on a name ends in one shared check of the name and of its operand. -/
theorem nameOperationsAreBuffered : Obligations.NameOperationsAreBuffered := by
  intro k a b e o done s hi lo d q eff narrowOk
  refine ⟨fun pass => ⟨fun area => ?_, fun some small narrow => ?_, fun low => ?_, fun low high => ?_, ?_⟩, fun pass narrow area => ?_, fun pass room => ?_, fun f fails => ?_⟩
  · exact cpName_buffers pass area rfl
  · have good : ¬ (d = 0 ∨ d.toNat > 65536 ∨ oddTile q k = true) := by
      rw [oddTile_false narrow]
      exact fun h => h.elim some fun h => h.elim (not_lt.2 small) Bool.false_ne_true
    exact cpName_buffers pass (if_neg good) rfl
  · have none : ¬ (bits d 63 48 != 0) = true := by simp [bits_low low]
    exact cpName_buffers pass (if_neg none) rfl
  · have none : ¬ (bits d 15 0 == 0 || bits d 63 29 != 0) = true := by simp [bits_low high, bits_ne_zero low]
    exact cpName_buffers pass (if_neg none) rfl
  · exact cpName_buffers pass rfl rfl
  · have even : ¬ oddTile q k = true := by rw [oddTile_false narrow]; exact Bool.false_ne_true
    exact cpName_buffers pass ((if_neg even).trans area) rfl
  · exact cpName_buffers pass (if_neg (not_le.2 room)) rfl
  · intro i hi
    simp only [List.mem_cons, List.not_mem_nil, or_false] at hi
    rcases hi with rfl | rfl | rfl | rfl | rfl
    all_goals exact cpName_faults fails rfl

/-! ### Subscriptions and streams (R319, R320, R323 to R325) -/

/-- SUBN, or SUBN again. -/
def subOp (again : Bool) : EffOp := if again then .subnAgain else .subn

section
variable {s : State} {hi lo d : W64} {done : Option Target} (again : Bool)
  (pass : s.nameFault hi lo (d.extractLsb' 8 4) false false = none) (low : d.toNat < 2 ^ 14) (ver : bits d 13 12 ≤ 1)
  (mask : maskOk (s.bindingOf hi lo) (d.extractLsb' 8 4) = true) (room : again = false → s.subsOpen < 64)
include pass low ver mask room

theorem State.subnOp_slot {k : Nat} {x : Slot} (at_ : (s.c s.iss.tile).slotOf s.iss.set.frame (bits d 7 0) = some (k, x)) :
    s.subnOp again hi lo d done = if subnOk x again hi lo d (s.bindingOf hi lo) then s.cp (nameEff (subOp again) hi lo d) done
      else s.fault { cause := .slotcfg } := by
  have name : s.nameFault hi lo (d.extractLsb' 8 4) (subOp again).isPart (subOp again == .claim) = none := by
    cases again <;> exact pass
  have full : ¬ (!again && decide (s.subsOpen ≥ 64)) = true := by
    cases again
    · simpa using room rfl
    · exact Bool.false_ne_true
  have field : ¬ (bits d 63 14 != 0 || decide (bits d 13 12 > 1) || !maskOk (s.bindingOf hi lo) (d.extractLsb' 8 4)) = true := by
    simp [bits_low low, ver, mask]
  rw [State.subnOp]
  rw [State.cpName_eq, if_neg field, if_neg full, at_]
  rw [subOp] at name ⊢
  rw [name, Option.elim_none]
  by_cases ok : subnOk x again hi lo d (s.bindingOf hi lo) = true
  · simp only [ok, if_true]; rfl
  · simp only [ok]; rfl

theorem State.subnOp_noSlot (none : (s.c s.iss.tile).slotOf s.iss.set.frame (bits d 7 0) = none) :
    s.subnOp again hi lo d done = s.fault { cause := .slotcfg } := by
  have name : s.nameFault hi lo (d.extractLsb' 8 4) (subOp again).isPart (subOp again == .claim) = Option.none := by
    cases again <;> exact pass
  have full : ¬ (!again && decide (s.subsOpen ≥ 64)) = true := by
    cases again
    · simpa using room rfl
    · exact Bool.false_ne_true
  have field : ¬ (bits d 63 14 != 0 || decide (bits d 13 12 > 1) || !maskOk (s.bindingOf hi lo) (d.extractLsb' 8 4)) = true := by
    simp [bits_low low, ver, mask]
  rw [State.subnOp]
  rw [State.cpName_eq, if_neg field, if_neg full, none]
  rw [subOp] at name
  rw [name]
  rfl

end

section
variable {s : State} {a : Src}

theorem exec_subn {b e o : Src} {done : Option Target} : exec (.subn a b e o done) s = .next (s.subnOp false (s.sc a) (s.sc b) (s.sc e) done) := rfl

theorem exec_subnAgain {b e o : Src} {done : Option Target} :
    exec (.subnAgain a b e o done) s = .next (s.subnOp true (s.sc a) (s.sc b) (s.sc e) done) := rfl

theorem exec_unsub {o : Src} {done : Option Target} {k : Nat} {x : Slot}
    (at_ : (s.c s.iss.tile).slotOf s.iss.set.frame (bits (s.sc a) 7 0) = some (k, x)) : exec (.unsub a o done) s =
      if x.hasSubn then .next (s.cp { bun := 0, slot := 0, op := .unsub, a := s.sc a } done) else .next (s.fault { cause := .slotcfg }) := by
  change execUnsub a o done s = _
  rw [execUnsub, at_]

theorem State.spopOp_opens {x : Stream} {v : VDst} {done : Option Target} (open_ : s.streamOf a = some x) (free : s.tgtsFault v.tgts = none)
    (late : lateFault s.inst.ctx done = none) (keep : Bool) : s.spopOp keep a v done = (s.addWait (.spop x.base x.open_) v.dest {}).addEff
      { bun := 0, slot := 0, op := .spop keep, a := w64 x.base, e := w64 x.open_, done := doneTok done } := by
  unfold State.spopOp
  simp only [open_, free, late]

theorem State.spopOp_noStream {v : VDst} {done : Option Target} (none : s.streamOf a = none) (keep : Bool) :
    s.spopOp keep a v done = s.fault { cause := .stream } := by
  unfold State.spopOp
  simp only [none]

theorem exec_sclose {o : Src} {done : Option Target} : exec (.sclose a o done) s =
    (s.streamOf a).elim (.next (s.fault { cause := .stream })) fun _ => .next (s.cp { bun := 0, slot := 0, op := .sclose, a := s.sc a } done) := by
  change execSclose a o done s = _
  rw [execSclose]
  cases s.streamOf a <;> rfl

theorem exec_spop {o : Src} {v : VDst} {done : Option Target} : exec (.spop a o v done) s = .next (s.spopOp false a v done) := rfl

theorem exec_spopKeep {o : Src} {v : VDst} {done : Option Target} : exec (.spopKeep a o v done) s = .next (s.spopOp true a v done) := rfl

end

/-- Settles O29. -/
theorem subscriptionsAndStreamsAtIssue : Obligations.SubscriptionsAndStreamsAtIssue := by
  intro a b e o v done s hi lo d mask q c f eff one pop
  refine ⟨fun k x pass low ver ok at_ => ?_, fun pass low ver ok none => ?_, fun pass some small low fits room => ?_, fun k x at_ => ?_, fun x open_ => ?_,
    fun none => ?_⟩
  · have fresh (room : s.subsOpen < 64) := State.subnOp_slot (done := done) false pass low ver ok (fun _ => room) at_
    have again := State.subnOp_slot (done := done) true pass low ver ok (fun h => nomatch h) at_
    refine ⟨fun room fits => ?_, fun room misfit => ?_, fun fits => ?_, fun misfit => ?_⟩
    · have run : exec (.subn a b e o done) s = .next (s.cp (nameEff .subn hi lo d) done) := by rw [exec_subn, fresh room, if_pos fits]; rfl
      exact cp_buffers run
    · rw [Faults, exec_subn, fresh room, misfit]; rfl
    · have run : exec (.subnAgain a b e o done) s = .next (s.cp (nameEff .subnAgain hi lo d) done) := by rw [exec_subnAgain, again, if_pos fits]; rfl
      exact cp_buffers run
    · rw [Faults, exec_subnAgain, again, misfit]; rfl
  · refine ⟨fun room => ?_, ?_⟩
    · rw [Faults, exec_subn, State.subnOp_noSlot false pass low ver ok (fun _ => room) none]
    · rw [Faults, exec_subnAgain, State.subnOp_noSlot true pass low ver ok (fun h => nomatch h) none]
  · have field : ¬ (bits d 14 8 == 0 || decide (bits d 14 8 > 64) || bits d 63 15 != 0 || decide (bits d 7 0 + bits d 14 8 > 256)) = true := by
      simp only [Bool.or_eq_true, beq_iff_eq, decide_eq_true_eq, bne_iff_ne, bits_low low]
      omega
    have sopen (bad : Option FaultInfo) (h : bad = if c.sopenOk f d q then .none else .some { cause := .slotcfg }) :
        exec (.sopen a b e o done) s = .next (s.cpName .sopen hi lo d 0 bad done) := by
      rw [h]
      exact congrArg (fun x => Host.Outcome.next (s.cpName .sopen hi lo d 0 x done)) ((if_neg field).trans (if_neg (not_le.2 room)))
    exact ⟨fun ok => cpName_buffers pass rfl (sopen none (by rw [if_pos ok])), fun bad => cpName_bad pass rfl (sopen _ (by rw [bad]; rfl))⟩
  · refine ⟨fun has => ?_, fun hasnt => ?_⟩
    · exact cp_buffers ((exec_unsub at_).trans (if_pos has))
    · rw [Faults, exec_unsub at_, hasnt]; rfl
  · refine ⟨?_, fun free late => ⟨?_, ?_⟩⟩
    · have run : exec (.sclose a o done) s = .next (s.cp { bun := 0, slot := 0, op := .sclose, a := hi } done) := by rw [exec_sclose, open_]; rfl
      exact cp_buffers run
    · rw [exec_spop, State.spopOp_opens open_ free late]
    · rw [exec_spopKeep, State.spopOp_opens open_ free late]
  · intro i hi
    simp only [List.mem_cons, List.not_mem_nil, or_false] at hi
    rcases hi with rfl | rfl | rfl
    · rw [Faults, exec_sclose, none]; rfl
    · rw [Faults, exec_spop, State.spopOp_noStream none]
    · rw [Faults, exec_spopKeep, State.spopOp_noStream none]

/-! ### Copies and generators (R326 to R329) -/

/-- A value delivered does not move the bundle instance. -/
theorem Issue.vdst_place (i : Issue) (d : VDst) (v : Val) : (i.vdst d v).tile = i.tile ∧ (i.vdst d v).set = i.set ∧ (i.vdst d v).inst = i.inst := by
  cases d with
  | latch b =>
    simp only [Issue.vdst, Issue.latch, Issue.putLatch]
    split
    · split <;> exact ⟨rfl, rfl, rfl⟩
    · exact ⟨rfl, rfl, rfl⟩
  | target t => cases t <;> exact ⟨rfl, rfl, rfl⟩
  | _ => exact ⟨rfl, rfl, rfl⟩

section
variable {s : State} {op : EffOp} {dst src : W64} {len : Nat} {e : Eff} {v : VDst} {done : Option Target}

theorem State.inst_horizon (s : State) (h : W64) (g : Issue → Issue) (tile : (g s.iss).tile = s.iss.tile) (set : (g s.iss).set = s.iss.set)
    (inst : (g s.iss).inst = s.iss.inst) : ((s.modC s.iss.tile fun c => { c with horizon := h }).modIss g).inst = s.inst := by
  change (((s.modC s.iss.tile fun c => { c with horizon := h }).c (g s.iss).tile).instD (g s.iss).set.frame (g s.iss).inst) = _
  rw [tile, set, inst, State.c_modC_self]
  rfl

/-- The promise of a copy issued now (R328). -/
def State.promiseOf (s : State) (dst src : W64) (len : Nat) : W64 :=
  promise s.iss.tick (s.c s.iss.tile).horizon len (spineMhz (s.c s.iss.tile).spine) (isLocal dst && isLocal src)

theorem State.copyOp_free (free : s.tgtsFault v.tgts = none) (late : lateFault s.inst.ctx done = none) :
    s.copyOp op dst src len e v done = ((s.modC s.iss.tile fun c => { c with horizon := s.promiseOf dst src len }).modIss fun i =>
      i.vdst v (.scalar (s.promiseOf dst src len))).addEff
        { e with op := op, a := dst, b := src, base := (s.promiseOf dst src len).toNat, tick := s.iss.tick, done := doneTok done } := by
  obtain ⟨tile, set, same⟩ := s.iss.vdst_place v (.scalar (s.promiseOf dst src len))
  have inst := s.inst_horizon (s.promiseOf dst src len) (fun i => i.vdst v (.scalar (s.promiseOf dst src len))) tile set same
  unfold State.copyOp State.cp
  simp only [free]
  rw [← State.promiseOf, inst, late]

theorem exec_copy {a b e o : Src} : exec (.copy a b e o v done) s =
    if (s.sc e).toNat > 16777216 then .next (s.fault { cause := .winfault, addr := s.sc b })
    else .next ((ptrFault s.acc (s.sc b) (s.sc e).toNat 1 0).elim ((ptrFault s.acc (s.sc a) (s.sc e).toNat 1 0).elim
      (s.copyOp (.copy none) (s.sc a) (s.sc b) (s.sc e).toNat { bun := 0, slot := 0, op := .copy none, e := s.sc e } v done) s.fault) s.fault) := by
  change execCopy a b e o v done s = _
  unfold execCopy
  dsimp only
  congr 1
  cases ptrFault s.acc (s.sc b) (s.sc e).toNat 1 0 <;> cases ptrFault s.acc (s.sc a) (s.sc e).toNat 1 0 <;> rfl

theorem exec_copyx {n : BitVec 3} {a b e o : Src} : exec (.copyx n a b e o v done) s =
    .next ((s.rowsFault (s.sc a) (s.sc b) (s.pairLimit b) (128 * 2 ^ n.toNat) (s.vec e)).elim
      (s.copyOp (.copy (some (128 * 2 ^ n.toNat))) (s.sc a) (s.sc b) ((s.vec e).length * (128 * 2 ^ n.toNat))
        { bun := 0, slot := 0, op := .copy (some (128 * 2 ^ n.toNat)), lanes := s.vec e } v done) s.fault) := by
  change execCopyx n a b e o v done s = _
  unfold execCopyx
  dsimp only
  cases s.rowsFault (s.sc a) (s.sc b) (s.pairLimit b) (128 * 2 ^ n.toNat) (s.vec e) <;> rfl

theorem exec_agfree {n : BitVec 3} {o : Src} : exec (.agfree n o done) s = .next (s.cp { bun := 0, slot := 0, op := .agfree n.toNat } done) := rfl

theorem exec_agcfg {n : BitVec 3} {a o : Src} {k : Nat} (area : s.localFault (s.sc a) 64 64 = none) (good : genFault s.acc (s.localBytes (s.sc a) 64) = none)
    (gen : s.agFor n.toNat = some k) :
    exec (.agcfg n a o done) s = .next (s.cp { bun := 0, slot := 0, op := .agcfg n.toNat, base := k, bytes := s.localBytes (s.sc a) 64 } done) := by
  change execAgcfg n a o done s = _
  unfold execAgcfg
  simp only [area, good, gen]

end

/-- Settles O30. -/
theorem copiesAndGenerators : Obligations.CopiesAndGenerators := by
  intro n a b e o v done s d p len rs idx c mhz prom out
  refine ⟨fun free late => ⟨fun small source dest => ?_, fun rows => ?_⟩, fun big => ?_, fun f small fails => ?_, fun f fails => ?_,
    fun k area good gen => cp_buffers (exec_agcfg area good gen), cp_buffers exec_agfree⟩
  · rw [exec_copy, if_neg (not_lt.2 small), source, dest, Option.elim_none, Option.elim_none, State.copyOp_free free late]
    rfl
  · rw [exec_copyx, rows, Option.elim_none, State.copyOp_free free late]
    rfl
  · rw [Faults, exec_copy, if_pos big]
  · rw [Faults, exec_copy, if_neg (not_lt.2 small), fails]
    rfl
  · rw [Faults, exec_copyx, fails]
    rfl

end Sys2Proof.Machine

end

/-! PROOFS. Waiting, synchronisation, task, mode, trap and supervisor operations at issue (R330 to R353). -/

section

namespace Sys2Proof.Machine

/-! ### Waits, barriers and signals (R330 to R334) -/

theorem foldl_isSome {α β : Type} {g : Option α → β → Option α} (step : ∀ m x, (g m x).isSome = true) (l : List β) (m : Option α)
    (start : m.isSome = true) : (l.foldl g m).isSome = true := by
  induction l generalizing m with
  | nil => exact start
  | cons x l ih => exact ih _ (step m x)

/-- A WUNTIL is broken where a copy that it considers has not completed. -/
theorem promiseFault_eq_none {l : List Copy} {tick : W64} {slot : Nat} : promiseFault l tick slot = none ↔ l = [] := by
  cases l with
  | nil => exact ⟨fun _ => rfl, fun _ => rfl⟩
  | cons x l =>
    refine ⟨fun h => ?_, fun h => nomatch h⟩
    unfold promiseFault at h
    split at h
    · next least =>
      have some := foldl_isSome (g := fun m (x : Copy) => match m with
        | none => .some x
        | some y => if x.promise.toNat < y.promise.toNat then .some x else .some y)
        (fun m y => by cases m with
          | none => rfl
          | some z => dsimp only; split <;> rfl) l (.some x) rfl
      rw [Option.isSome_iff_ne_none] at some
      exact absurd least some
    · nomatch h

theorem promiseFault_cause {l : List Copy} {tick : W64} {slot : Nat} {f : FaultInfo} (h : promiseFault l tick slot = some f) : f.cause = .promise := by
  unfold promiseFault at h
  split at h
  · nomatch h
  · cases h; rfl

section
variable {s : State} {a b o : Src} {y : YDst}

theorem exec_wuntil : exec (.wuntil a o y) s = .next ((s.tgtsFault y.tgts).elim
    (if (s.sc a).toNat ≤ s.quartz then
      (promiseFault ((s.c s.iss.tile).lateCopies s.iss.set.frame (s.sc a)) (s.sc a) 8).elim (s.modIss fun i => i.ydst y .order)
        ((s.missed s.iss.tile).fault ·)
    else s.addWait (.wuntil (s.sc a) (((s.c s.iss.tile).lateCopies s.iss.set.frame (s.sc a)).map (·.id))) y.dest {}) s.fault) := by
  change execWuntil a o y s = _
  unfold execWuntil
  dsimp only
  cases s.tgtsFault y.tgts with
  | some f => rfl
  | none =>
    rw [Option.elim_none]
    dsimp only
    split
    · cases promiseFault ((s.c s.iss.tile).lateCopies s.iss.set.frame (s.sc a)) (s.sc a) 8 <;> rfl
    · rfl

variable {x : BitVec 8} {sc : BitVec 2}

theorem State.barcOp_eq (reset : Bool) : s.barcOp reset a b x = (s.barFault (s.sc a)).elim
    (if (s.sc b).toNat = 0 ∨ (s.sc b).toNat > 65535 then s.fault (s.barovr 2 (s.sc a) x)
    else s.addEff { bun := 0, slot := 0, op := .barc reset x.toNat, a := s.sc a, b := s.sc b }) s.fault := by
  unfold State.barcOp
  dsimp only
  cases s.barFault (s.sc a) <;> rfl

theorem exec_barc : exec (.barc a b o x) s = .next (s.barcOp false a b x) := rfl

theorem exec_barcReset : exec (.barcReset a b o x) s = .next (s.barcOp true a b x) := rfl

theorem exec_bara : exec (.bara sc a b o x) s = .next ((s.barFault (s.sc a)).elim
    (if (s.sc b).toNat > 65535 then s.fault (s.barovr 1 (s.sc a) x)
    else if !s.iss.frame.pmodeNow then s.fault { cause := .atomrst }
    else s.addEff { bun := 0, slot := 0, op := .bara sc x.toNat, a := s.sc a, b := s.sc b }) s.fault) := by
  change execBara sc a b o x s = _
  unfold execBara
  cases s.barFault (s.sc a) with
  | some f => rfl
  | none => rw [Option.elim_none, apply_ite Host.Outcome.next, apply_ite Host.Outcome.next]

theorem exec_barw : exec (.barw a b o x y) s = .next ((s.barFault (s.sc a)).elim ((s.tgtsFault y.tgts).elim
    ((s.addWait .barw y.dest {}).modIss fun i => { i with sends := i.sends ++ [.barw (s.sc a) x.toNat (bits (s.sc b) 15 0) s.iss.nextWait] })
    s.fault) s.fault) := by
  change execBarw a b o x y s = _
  unfold execBarw
  dsimp only
  cases s.barFault (s.sc a) <;> cases s.tgtsFault y.tgts <;> rfl

theorem exec_sigadd : exec (.sigadd sc a b o) s = .next ((s.sigFault (s.sc a)).elim
    (if !s.iss.frame.pmodeNow then s.fault { cause := .atomrst }
    else s.addEff { bun := 0, slot := 0, op := .sigadd sc, a := s.sc a, b := s.sc b }) s.fault) := by
  change execSigadd sc a b o s = _
  unfold execSigadd
  cases s.sigFault (s.sc a) with
  | some f => rfl
  | none => rw [Option.elim_none, apply_ite Host.Outcome.next]

theorem exec_sigwait : exec (.sigwait a b o y) s = .next ((s.sigFault (s.sc a)).elim ((s.tgtsFault y.tgts).elim
    ((s.addWait .sigwait y.dest {}).modIss fun i => { i with sends := i.sends ++ [.sigwait (s.sc a) (s.sc b) s.iss.nextWait] })
    s.fault) s.fault) := by
  change execSigwait a b o y s = _
  unfold execSigwait
  dsimp only
  cases s.sigFault (s.sc a) <;> cases s.tgtsFault y.tgts <;> rfl

end

/-- Settles O31. -/
theorem waitsBarriersAndSignals : Obligations.WaitsBarriersAndSignals := by
  intro sc a b o x y s p n w late eff ask
  refine ⟨fun past settled => ⟨fun free => ?_, fun f bad => ?_⟩, fun future free => ?_, fun past free open_ => ?_,
    fun pass => ⟨fun pos small => ?_, fun out => ?_, fun small durable => ?_, fun small transient => ?_, fun big => ?_, fun free => ?_⟩,
    fun f fails => ?_, fun pass => ⟨fun durable => ?_, fun transient => ?_, fun free => ?_⟩, fun f fails => ⟨?_, ?_⟩⟩
  · have none : promiseFault ((s.c s.iss.tile).lateCopies s.iss.set.frame (s.sc a)) (s.sc a) 8 = none := promiseFault_eq_none.2 settled
    rw [exec_wuntil, free, Option.elim_none, if_pos past, none]
    rfl
  · rw [exec_wuntil, bad]
    rfl
  · rw [exec_wuntil, free, Option.elim_none, if_neg (not_le.2 future)]
  · obtain ⟨f, bad⟩ := Option.ne_none_iff_exists'.1 (mt (promiseFault_eq_none (tick := s.sc a) (slot := 8)).1 open_)
    exact ⟨f, promiseFault_cause bad, by rw [exec_wuntil, free, Option.elim_none, if_pos past, bad]; rfl⟩
  · have within : ¬ ((s.sc b).toNat = 0 ∨ (s.sc b).toNat > 65535) := by omega
    constructor
    · rw [exec_barc, State.barcOp_eq, pass, Option.elim_none, if_neg within]
    · rw [exec_barcReset, State.barcOp_eq, pass, Option.elim_none, if_neg within]
  · constructor
    · rw [Faults, exec_barc, State.barcOp_eq, pass, Option.elim_none, if_pos out]
    · rw [Faults, exec_barcReset, State.barcOp_eq, pass, Option.elim_none, if_pos out]
  · rw [exec_bara, pass, Option.elim_none, if_neg (not_lt.2 small), durable]
    rfl
  · rw [Faults, exec_bara, pass, Option.elim_none, if_neg (not_lt.2 small), transient]
    rfl
  · rw [Faults, exec_bara, pass, Option.elim_none, if_pos big]
  · have low : bits (s.sc b) 15 0 = n % 65536 := by simp [bits, bitsOf, n]
    rw [exec_barw, pass, free, low]
    rfl
  · intro i hi
    simp only [List.mem_cons, List.not_mem_nil, or_false] at hi
    rcases hi with rfl | rfl | rfl | rfl
    · rw [Faults, exec_barc, State.barcOp_eq, fails]; rfl
    · rw [Faults, exec_barcReset, State.barcOp_eq, fails]; rfl
    · rw [Faults, exec_bara, fails]; rfl
    · rw [Faults, exec_barw, fails]; rfl
  · rw [exec_sigadd, pass, durable]
    rfl
  · rw [Faults, exec_sigadd, pass, transient]
    rfl
  · rw [exec_sigwait, pass, free]
    rfl
  · rw [Faults, exec_sigadd, fails]; rfl
  · rw [Faults, exec_sigwait, fails]; rfl

/-! ### Tasks, formats, modes and traps (R335 to R346) -/

section
variable {s : State} {a o : Src} {y : YDst}

theorem exec_fmtw {n : BitVec 5} : exec (.fmtw a o n) s =
    if !FmtSlot.ok (s.sc a) then .next (s.fault { cause := .fmtcfg })
    else if !s.fmtValues.contains (s.sc a) && decide (s.fmtValues.length ≥ 32) then .next (s.fault { cause := .fmtcfg, cw1 := 1 })
    else .next (s.addEff { bun := 0, slot := 0, op := .fmtw n.toNat, a := s.sc a }) := rfl

/-- The bytes of a task record with its entries (R335). -/
def State.taskBytes (s : State) (p : W64) : Nat := 64 + 32 * (bits (wordAt (s.localBytes p 64) 0) 8 2 - 1)

theorem exec_tspawn (head : s.localFault (s.sc a) 64 64 = none) (whole : s.localFault (s.sc a) (s.taskBytes (s.sc a)) 64 = none) :
    exec (.tspawn a o y) s =
      if taskOk s.myPart (s.localBytes (s.sc a) (s.taskBytes (s.sc a))) then
        .next (s.lateValue y { bun := 0, slot := 0, op := .tspawn, a := s.sc a, bytes := s.localBytes (s.sc a) (s.taskBytes (s.sc a)) })
      else .next (s.fault { cause := .slotcfg }) := by
  change execTspawn a o y s = _
  unfold execTspawn
  rw [State.taskBytes] at whole
  simp only [head, whole]
  rfl

theorem exec_trapVec : exec (.trapVec a o) s =
    if bits (s.sc a) 63 21 != 0 then .next (s.fault { cause := .illop })
    else if (s.sc a).getLsbD 20 && s.badBlock (bits (s.sc a) 19 0) then .next s.illBun
    else .next
      (s.addEff { bun := 0, slot := 0, op := .trapVec, a := if (s.sc a).getLsbD 20 then w64 (2 ^ 20 + s.namedBlock (bits (s.sc a) 19 0)) else 0 }) := rfl

theorem exec_tretRetry : exec (.tretRetry o) s = .next (s.tretOp false) := rfl

theorem exec_tretSkip : exec (.tretSkip o) s = .next (s.tretOp true) := rfl

theorem State.tretOp_trapped (trapped : s.iss.frame.st = .trapped) (tree : s.inst.tt = true) (first : s.inst.issuedTret = false) (skip : Bool) :
    s.tretOp skip = (s.modIss fun i => { i with tret := true }).addEff { bun := 0, slot := 0, op := .tret skip } :=
  if_pos (by simp [trapped, tree, first])

theorem State.tretOp_illop (h : s.iss.frame.st ≠ .trapped ∨ s.inst.tt = false ∨ s.inst.issuedTret = true) (skip : Bool) :
    s.tretOp skip = s.fault { cause := .illop } :=
  if_neg (by rcases h with h | h | h <;> simp [h])

end

theorem bits_high {x : W64} {n : Nat} (h : 2 ^ n ≤ x.toNat) (small : n ≤ 63) : bits x 63 n ≠ 0 := by
  have pos : 0 < x.toNat / 2 ^ n := Nat.div_pos h (by positivity)
  have lt : x.toNat / 2 ^ n < 2 ^ (63 + 1 - n) := by
    refine Nat.div_lt_of_lt_mul ?_
    rw [← pow_add, show n + (63 + 1 - n) = 64 by omega]
    exact x.isLt
  rw [bits, bitsOf, Nat.mod_eq_of_lt lt]
  exact pos.ne'

/-- Settles O32. -/
theorem taskModeTraceAndTrapOperations : Obligations.TaskModeTraceAndTrapOperations := by
  refine ⟨?_, ?_⟩
  · intro tag n a b o y s p len eff
    refine ⟨rfl, deliverY_delivers rfl, fun ok fits => ?_, fun bad => ?_, rfl, rfl, fun entry => ⟨?_, ?_⟩, fun inner => ⟨?_, ?_⟩, fun head whole =>
      ⟨fun ok => ?_, fun bad => ?_⟩⟩
    · have room : ¬ (!s.fmtValues.contains (s.sc a) && decide (s.fmtValues.length ≥ 32)) = true := by
        rcases fits with known | free
        · have known : s.fmtValues.contains (s.sc a) = true := known
          simp only [known, Bool.not_true, Bool.false_and, Bool.false_eq_true, not_false_eq_true]
        · simp only [decide_eq_false (not_le.2 free), Bool.and_false, Bool.false_eq_true, not_false_eq_true]
      rw [exec_fmtw, ok, if_neg (by simp), if_neg room]
    · rw [Faults, exec_fmtw, bad]
      rfl
    · exact congrArg Host.Outcome.next (if_pos entry)
    · exact congrArg Host.Outcome.next (if_pos entry)
    · exact congrArg Host.Outcome.next (if_neg (by simp [inner]))
    · exact congrArg Host.Outcome.next (if_neg (by simp [inner]))
    · exact lateValue_buffers ((exec_tspawn head whole).trans (if_pos ok))
    · exact (exec_tspawn head whole).trans (if_neg (by rw [← Bool.not_eq_true] at bad; exact bad))
  · intro a o s v at_
    have offset := (bits_offset (s.sc a)).1
    have bit : (s.sc a).getLsbD 20 = decide (v / 2 ^ 20 % 2 = 1) := by
      rw [BitVec.getLsbD, Nat.testBit_eq_decide_div_mod_eq]
    have low (small : v < 2 ^ 21) : ¬ (bits (s.sc a) 63 21 != 0) = true := by
      simp [bits_low (x := s.sc a) (n := 21) small]
    refine ⟨rfl, fun big => if_pos ?_, fun clear => ?_, fun ge lt aligned inside => ?_, fun ge lt bad => ?_, fun trapped tree first => ⟨?_, ?_⟩,
      fun h => ⟨?_, ?_⟩⟩
    · simpa using bits_high big (by omega)
    · have unset : (s.sc a).getLsbD 20 = false := by
        rw [bit, decide_eq_false_iff_not]
        omega
      rw [exec_trapVec, if_neg (low (by omega)), unset]
      rfl
    · have set : (s.sc a).getLsbD 20 = true := by
        rw [bit, decide_eq_true_eq]
        omega
      have good : s.badBlock (v % 2 ^ 20) = false := by
        rw [← Bool.not_eq_true, badBlock_iff]
        omega
      rw [exec_trapVec, if_neg (low lt), set, offset, good, if_neg (by simp), if_pos rfl]
      rfl
    · have set : (s.sc a).getLsbD 20 = true := by
        rw [bit, decide_eq_true_eq]
        omega
      have wrong : s.badBlock (v % 2 ^ 20) = true := badBlock_iff.2 (by omega)
      rw [Faults, exec_trapVec, if_neg (low lt), set, offset, wrong]
      rfl
    · rw [exec_tretRetry, State.tretOp_trapped trapped tree first]
    · rw [exec_tretSkip, State.tretOp_trapped trapped tree first]
    · rw [Faults, exec_tretRetry, State.tretOp_illop h]
    · rw [Faults, exec_tretSkip, State.tretOp_illop h]

/-! ### Supervisor operations (R347 to R353) -/

section
variable {s : State} {a b o : Src} {y : YDst}

theorem exec_tlbinv : exec (.tlbinvAll a b o y) s = .next (s.tlbinvOp 0 a b y) ∧ exec (.tlbinvAsid a b o y) s = .next (s.tlbinvOp 1 a b y) ∧
    exec (.tlbinvPage a b o y) s = .next (s.tlbinvOp 2 a b y) := ⟨rfl, rfl, rfl⟩

theorem State.tlbinvOp_asid (low : (s.sc a).toNat < 2 ^ 16) (kind : BitVec 2) :
    s.tlbinvOp kind a b y = s.lateValue y { bun := 0, slot := 0, op := .tlbinv kind, a := s.sc a, b := s.sc b } :=
  if_neg (by simp [bits_low low])

theorem State.tlbinvOp_illop (high : 2 ^ 16 ≤ (s.sc a).toNat) (kind : BitVec 2) : s.tlbinvOp kind a b y = s.fault { cause := .illop } :=
  if_pos (by simpa using bits_high high (by omega))

theorem exec_nsbind (area : s.localFault (s.sc a) 64 64 = none) : exec (.nsbind a o y) s =
    if bindingOk (s.localBytes (s.sc a) 64) then
      .next (s.lateValue y { bun := 0, slot := 0, op := .nsbind, a := s.sc a, bytes := s.localBytes (s.sc a) 64 })
    else .next (s.fault (namecfg 0 (bindingOf (s.localBytes (s.sc a) 64)).nameHi 0)) := by
  change execNsbind a o y s = _
  unfold execNsbind
  simp only [area]

theorem State.watchOp_pass {sig : Bool} {k : BitVec 8} (pass : (if sig then s.sigFault (s.sc a) else s.barFault (s.sc a)) = none) (kind : BitVec 2) :
    s.watchOp kind sig a b k y = s.lateValue y { bun := 0, slot := 0, op := .watch kind sig k.toNat, a := s.sc a, b := s.sc b } := by
  unfold State.watchOp
  simp only [pass]

theorem exec_watch (sig : Bool) (k : BitVec 8) :
    exec (.watchArrive sig a b o k y) s = .next (s.watchOp 0 sig a b k y) ∧ exec (.watchLast sig a b o k y) s = .next (s.watchOp 1 sig a b k y) ∧
    exec (.watchFlip sig a b o k y) s = if sig then .next (s.fault { cause := .illop }) else .next (s.watchOp 2 sig a b k y) := ⟨rfl, rfl, rfl⟩

end

/-- Settles O33. -/
theorem supervisorOperationsAreBuffered : Obligations.SupervisorOperationsAreBuffered := by
  intro r k sig a b o y s p late eff buf
  have buffers {i : Instr} (e : Eff) (run : exec i s = .next (s.lateValue y e)) : buf i e := lateValue_buffers run
  obtain ⟨all, asid, page⟩ := exec_tlbinv (s := s) (a := a) (b := b) (o := o) (y := y)
  obtain ⟨arrive, last, flip⟩ := exec_watch (s := s) (a := a) (b := b) (o := o) (y := y) sig k
  refine ⟨deliverY_delivers rfl, rfl, fun low => ⟨?_, ?_, ?_⟩, fun high => ?_, fun area ok => ?_, fun area bad => ?_, buffers _ rfl, buffers _ rfl,
    buffers _ rfl, buffers _ rfl, buffers _ rfl, buffers _ rfl, buffers _ rfl, buffers _ rfl, buffers _ rfl, buffers _ rfl, fun pass => ⟨?_, ?_, fun bar => ?_⟩,
    fun signal => ?_⟩
  · exact buffers _ (by rw [all, State.tlbinvOp_asid low])
  · exact buffers _ (by rw [asid, State.tlbinvOp_asid low])
  · exact buffers _ (by rw [page, State.tlbinvOp_asid low])
  · intro i hi
    simp only [List.mem_cons, List.not_mem_nil, or_false] at hi
    rcases hi with rfl | rfl | rfl
    · rw [Faults, all, State.tlbinvOp_illop high]
    · rw [Faults, asid, State.tlbinvOp_illop high]
    · rw [Faults, page, State.tlbinvOp_illop high]
  · exact buffers _ ((exec_nsbind area).trans (if_pos ok))
  · exact ⟨_, rfl, (exec_nsbind area).trans (if_neg (by rw [← Bool.not_eq_true] at bad; exact bad))⟩
  · exact buffers _ (by rw [arrive, State.watchOp_pass pass])
  · exact buffers _ (by rw [last, State.watchOp_pass pass])
  · exact buffers _ (by rw [flip, bar]; exact congrArg Host.Outcome.next (State.watchOp_pass (by rw [bar] at pass; exact pass) 2))
  · rw [Faults, flip, signal]
    rfl

end Sys2Proof.Machine

end

/-! PROOFS. Tokens, issue, promotion and the end of a bundle instance (R28, R37 to R39, R55 to R60). -/

section

namespace Sys2Proof.Machine

theorem onTile_lt {t : Nat} {s : State} (h : t < Config.numTiles) (g : State → State) : onTile t s g = .next (g s) := if_pos h

theorem onField_lt {f : Nat} {s : State} (h : f < Config.numFields) (g : State → State) : onField f s g = .next (g s) := if_pos h

/-! ### Tokens that arrive or drain (R55 to R60) -/

section
variable {c : CDom} {k : Tok} {ks : List Tok} (first : c.arrivals = k :: ks)
include first

theorem CDom.nextArrival_young (young : c.cycle ≤ k.cycle) : c.nextArrival = none := by
  rw [CDom.nextArrival, first]
  exact if_pos young

theorem CDom.nextArrival_port0 (old : k.cycle < c.cycle) (port : k.port = 0) : c.nextArrival = some (k, ks) := by
  rw [CDom.nextArrival, first]
  dsimp only
  rw [if_neg (not_le.2 old), port]
  exact if_neg Bool.false_ne_true

/-- Under rule 1 the token for p0 of the same bundle goes before that for p1 (R56). -/
theorem CDom.nextArrival_port1 {y : Tok} (old : k.cycle < c.cycle) (port : k.port = 1)
    (rule : bundleRule (c.bundle k.frame ((c.receiver k).getD 0) k.bun) = 1)
    (other : (ks.find? fun y => y.cycle == k.cycle && y.port == 0 && y.sameKey k) = some y) :
    c.nextArrival = some (y, c.arrivals.erase y) := by
  rw [CDom.nextArrival, first]
  dsimp only
  rw [if_neg (not_le.2 old), if_pos (by rw [port, rule]; rfl), other]

end

theorem exec_tokenArrival (t : Nat) (s : State) : exec (.tokenArrival t) s = onTile t s fun s =>
    (s.c t).nextArrival.elim s fun e => (s.modC t fun c => { c with arrivals := e.2 }).arrive t e.1 := by
  change execTokenArrival t s = _
  unfold execTokenArrival
  congr 1
  funext s
  cases (s.c t).nextArrival <;> rfl

section
variable {s : State} {t : Nat} {k : Tok}

theorem State.arrive_noReceiver (none : (s.c t).receiver k = none) : s.arrive t k = s.countT t 0 1 := by
  unfold State.arrive
  simp only [none]

theorem State.arrive_badKind {block : Nat} (some : (s.c t).receiver k = some block) (bad : kindMatches ((s.c t).bundle k.frame block k.bun) k.port k.val = false) :
    s.arrive t k = s.deliveryFault t k block { cause := .illbun } := by
  unfold State.arrive
  simp only [some]
  exact if_pos (by simp [bad])

end

/-- The oldest held token enters the store (R60). -/
def State.drainOne (s : State) (t : Nat) (k : Tok) : State :=
  match (s.c t).receiver k with
  | none => s.countT t 0 1
  | some block => ((s.c t).liveParts k).foldl (fun s k =>
      if (s.frame t k.frame).st = .ending then s
      else if (s.c t).overlaps k then s.deliveryFault t k block { cause := .illbun }
      else (s.setC t ((s.c t).insert k)).checkHolding t) (if (s.c t).liveParts k = [k] then s else s.countT t 0 1)

theorem exec_holdingQueueDrain {t : Nat} {s : State} {k : Tok} {ks : List Tok} (tile : t < Config.numTiles) (held : (s.c t).holding = k :: ks)
    (room : (s.c t).hasRoom k = true) : exec (.holdingQueueDrain t) s = .next ((s.modC t fun c => { c with holding := ks }).drainOne t k) := by
  change execHoldingQueueDrain t s = _
  unfold execHoldingQueueDrain
  rw [onTile_lt tile]
  simp only [held, room, if_true]
  rfl

section
variable {s : State} {t : Nat} {k : Tok}

theorem State.drainOne_noReceiver (none : (s.c t).receiver k = none) : s.drainOne t k = s.countT t 0 1 := by
  unfold State.drainOne
  simp only [none]

theorem State.drainOne_whole {block : Nat} (some : (s.c t).receiver k = some block) (whole : (s.c t).liveParts k = [k])
    (live : (s.frame t k.frame).st ≠ .ending) :
    s.drainOne t k = if (s.c t).overlaps k then s.deliveryFault t k block { cause := .illbun } else (s.setC t ((s.c t).insert k)).checkHolding t := by
  unfold State.drainOne
  simp only [some, whole, if_true, List.foldl_cons, List.foldl_nil]
  exact if_neg live

end

/-! ### Issue (R38, R42, R202) -/

/-- Readings are logged in slates: they change no C domain and not the bundle instance being issued. -/
theorem State.readUnder_same (s : State) (t key slot field : Nat) (v : W64) :
    (s.readUnder t key slot field v).2.iss = s.iss ∧ ∀ u, (s.readUnder t key slot field v).2.c u = s.c u := by
  unfold State.readUnder
  dsimp only
  split <;> exact ⟨rfl, fun u => s.c_modSlate t u _⟩

theorem State.readingsAt_same (s : State) (l : List (Nat × Nat)) (v : W64) :
    (s.readingsAt l v).2.iss = s.iss ∧ ∀ u, (s.readingsAt l v).2.c u = s.c u := by
  have logged (l : List (Nat × Nat)) (r : W64 × State) (same : r.2.iss = s.iss ∧ ∀ u, r.2.c u = s.c u) :
      (l.foldl (fun r e => r.2.readUnder s.iss.tile (readKey s.inst s.iss.set) e.1 e.2 r.1) r).2.iss = s.iss ∧
        ∀ u, (l.foldl (fun r e => r.2.readUnder s.iss.tile (readKey s.inst s.iss.set) e.1 e.2 r.1) r).2.c u = s.c u := by
    induction l generalizing r with
    | nil => exact same
    | cons e l ih =>
      obtain ⟨iss, dom⟩ := same
      obtain ⟨iss', dom'⟩ := r.2.readUnder_same s.iss.tile (readKey s.inst s.iss.set) e.1 e.2 r.1
      exact ih _ ⟨iss'.trans iss, fun u => (dom' u).trans (dom u)⟩
  unfold State.readingsAt
  split
  · exact logged l (v, s) ⟨rfl, fun u => rfl⟩
  · exact ⟨rfl, fun u => rfl⟩

theorem exec_bundleIssue {t k pe : Nat} {x : OpSet} {s : State} (tile : t < Config.numTiles) (idle : s.iss.active = false)
    (port : (s.c t).nextPe = some pe) (pick : s.pick t = some (k, x)) : exec (.bundleIssue t) s = .next (s.issueSet t k pe x) := by
  change execBundleIssue t s = _
  unfold execBundleIssue
  rw [onTile_lt tile, idle, if_neg Bool.false_ne_true, port, pick]

/-- The set leaves the eligible ones and its cost is debited (R38, R42). -/
def State.debitSet (s : State) (t k pe cost : Nat) : State :=
  (s.setC t { s.c t with sets := eraseAt (s.c t).sets k, bucket := (s.c t).bucket - cost, debits := (s.c t).debits + cost, peCycle := (s.c t).cycle,
                         peUsed := pe + 1, nextId := (s.c t).nextId + 1, tileWatch := 0 }).countT t 15 1

/-- The bundle instance that begins to issue. -/
def CDom.beginning (c : CDom) (t pe : Nat) (x : OpSet) (tick : W64) : Issue :=
  { active := true, id := c.nextId, tile := t, pe := pe, set := { x with count := 0, promoted := false },
    frame := (c.frame x.frame).atIssue c.cycle, inst := x.inst, bundle := c.bundle x.frame x.block x.bun, tick := tick,
    tag := tagWord x.frame x.inst x.p x.pd, todo := presentSlots (c.bundle x.frame x.block x.bun) }

/-- The bundle instance with the readings of its sources 0x29 and 0x2C. -/
def Issue.withSources (q g : W64) (y : Issue) : Issue := { y with tick := q, tag := g }

/-- Sources 0x29 and 0x2C are read under each slot and field that takes them (R248). -/
def State.readSources (s : State) (b : BitVec 512) : State :=
  let (q, s) := s.readingsAt (readsAt b .quartz) s.iss.tick
  let (g, s) := s.readingsAt (readsAt b .tag) s.iss.tag
  s.modIss (Issue.withSources q g)

theorem State.readSources_same (s : State) (b : BitVec 512) :
    (∃ q g, (s.readSources b).iss = s.iss.withSources q g) ∧ ∀ u, (s.readSources b).c u = s.c u := by
  obtain ⟨iss, dom⟩ := s.readingsAt_same (readsAt b .quartz) s.iss.tick
  obtain ⟨iss', dom'⟩ := (s.readingsAt (readsAt b .quartz) s.iss.tick).2.readingsAt_same (readsAt b .tag) (s.readingsAt (readsAt b .quartz) s.iss.tick).2.iss.tag
  exact ⟨⟨_, _, congrArg (Issue.withSources (s.readingsAt (readsAt b .quartz) s.iss.tick).1 _) (iss'.trans iss)⟩, fun u => (dom' u).trans (dom u)⟩

theorem State.issueSet_ok {s : State} {t k pe : Nat} {x : OpSet}
    (ok : issueCheck ((s.c t).bundle x.frame x.block x.bun) x.frame ((s.c t).instD x.frame x.inst).depth = none) :
    s.issueSet t k pe x = ({ s.debitSet t k pe (bundleCost ((s.c t).bundle x.frame x.block x.bun)) with
        iss := (s.c t).beginning t pe x (s.debitSet t k pe (bundleCost ((s.c t).bundle x.frame x.block x.bun))).tick } : State).readSources
      ((s.c t).bundle x.frame x.block x.bun) := by
  unfold State.issueSet
  dsimp only
  rw [ok]
  rfl

/-! ### Promotion (R39) -/

theorem exec_instancePromotion (t i : Nat) (s : State) : exec (.instancePromotion t i) s = execInstancePromotion t i s := rfl

theorem filterMap_range_getElem? {α β : Type} (l : List α) (g : Nat → α → β) :
    (List.range l.length).filterMap (fun k => (l[k]?).map (g k)) = l.mapIdx g := by
  induction l using List.reverseRecOn with
  | nil => rfl
  | append_singleton l a ih =>
    have before : (List.range l.length).filterMap (fun k => ((l ++ [a])[k]?).map (g k)) = l.mapIdx g := by
      rw [← ih]
      refine List.filterMap_congr fun k hk => ?_
      rw [List.getElem?_append_left (List.mem_range.1 hk)]
    rw [List.length_append, List.length_singleton, List.range_succ, List.filterMap_append, before, List.mapIdx_append]
    simp

theorem promote_eq_set {l : List OpSet} {i : Nat} {x : OpSet} (at_ : l[i]? = some x) (old : 2048 ≤ x.count) :
    (List.range l.length).filterMap (fun k => (l[k]?).map fun (x : OpSet) => if k = i ∧ x.count ≥ 2048 then { x with promoted := true } else x) =
      l.set i { x with promoted := true } := by
  rw [filterMap_range_getElem? l fun k x => if k = i ∧ x.count ≥ 2048 then { x with promoted := true } else x]
  refine List.ext_getElem? fun k => ?_
  rw [List.getElem?_mapIdx, List.getElem?_set]
  by_cases here : i = k
  · subst here
    have lt : i < l.length := (List.getElem?_eq_some_iff.1 at_).1
    rw [at_, if_pos rfl, if_pos lt]
    exact congrArg some (if_pos ⟨rfl, old⟩)
  · simp [here, Ne.symm here]

/-! ### The end of a bundle instance (R28) -/

theorem CDom.inst?_modInst_self (c : CDom) {i : Nat} {g : Inst → Inst} (keep : ∀ y, (g y).gen = y.gen) : (c.modInst i g).inst? i = (c.inst? i).map g := by
  unfold CDom.modInst
  cases h : c.inst? i with
  | none => exact h
  | some x =>
    have gen : x.gen = i / 4096 % 8 := by
      unfold CDom.inst? at h
      split at h
      · split at h
        · next live => cases h; exact live
        · nomatch h
      · nomatch h
    simp [CDom.setInst, CDom.inst?, AMap.get?_set_self, keep, gen]

/-- A change of an instance that keeps its generation ends no instance. -/
theorem CDom.inst?_modInst_isSome (c : CDom) {i j : Nat} {g : Inst → Inst} (keep : ∀ y, (g y).gen = y.gen) :
    ((c.modInst i g).inst? j).isSome = (c.inst? j).isSome := by
  unfold CDom.modInst
  cases h : c.inst? i with
  | none => rfl
  | some x =>
    unfold CDom.inst? at h
    by_cases same : j % 4096 = i % 4096
    · split at h
      · next y at_ =>
        split at h
        · cases h
          simp only [CDom.setInst, CDom.inst?, same, AMap.get?_set_self, at_, keep]
          split <;> rfl
        · nomatch h
      · nomatch h
    · simp [CDom.setInst, CDom.inst?, AMap.get?_set_ne _ _ same]

@[simp] theorem CDom.pendCommit_modInst (c : CDom) (i : Nat) (g : Inst → Inst) : (c.modInst i g).pendCommit = c.pendCommit := by
  unfold CDom.modInst
  split <;> rfl

@[simp] theorem CDom.issued_modInst (c : CDom) (i : Nat) (g : Inst → Inst) : (c.modInst i g).issued = c.issued := by
  unfold CDom.modInst
  split <;> rfl

/-- What leaves a bundle instance keeps the block instances and those that may commit. -/
theorem CDom.enterEffects_keeps (c : CDom) (id : Nat) :
    (c.enterEffects id).pendCommit = c.pendCommit ∧ ∀ j, ((c.enterEffects id).inst? j).isSome = (c.inst? j).isSome := by
  unfold CDom.enterEffects
  split
  · exact ⟨rfl, fun _ => rfl⟩
  · split
    · exact ⟨rfl, fun _ => rfl⟩
    · exact ⟨c.pendCommit_modInst _ _, fun j => c.inst?_modInst_isSome fun _ => rfl⟩

theorem CDom.deliverReady_keeps (c : CDom) (id src : Nat) :
    (c.deliverReady id src).pendCommit = c.pendCommit ∧ ∀ j, ((c.deliverReady id src).inst? j).isSome = (c.inst? j).isSome := by
  unfold CDom.deliverReady
  split
  · exact ⟨rfl, fun _ => rfl⟩
  · split
    · exact ⟨rfl, fun _ => rfl⟩
    · exact ⟨CDom.pendCommit_modInst _ _ _, fun j => CDom.inst?_modInst_isSome _ fun _ => rfl⟩

/-- The tile once what bundle instance x of identity id still held has left it (R28). -/
def CDom.leaves (c : CDom) (id : Nat) (x : Issue) : CDom :=
  (((c.modIssue id fun x => { x with withheld := false }).enterEffects id).deliverReady id x.pe).dropIssue id

def Inst.markRan (i : Inst) : Inst := { i with ran := true }

def Inst.markFinished (i : Inst) : Inst := { i with finished := true }

/-- The block instance of x may commit (R29). -/
def CDom.mayCommit (c : CDom) (x : Issue) : CDom :=
  CDom.modInst { c with pendCommit := c.pendCommit ++ [x.inst % 4096] } x.inst Inst.markFinished

theorem exec_bundleFinish {t i : Nat} {s : State} {x : Issue} (tile : t < Config.numTiles) (at_ : (s.c t).issue? i = some x) (done : x.todo = [])
    (ended : x.waits = []) : exec (.bundleFinish t i) s = .next (s.modC t fun c =>
      if x.term.isSome then ((c.leaves i x).modInst x.inst Inst.markRan).mayCommit x else (c.leaves i x).modInst x.inst Inst.markRan) := by
  change execBundleFinish t i s = _
  unfold execBundleFinish State.finishIssue
  rw [onTile_lt tile, at_]
  simp only [done, ended, List.isEmpty_nil, Bool.not_true, Bool.false_eq_true, if_false]
  cases x.term <;> rfl

theorem CDom.leaves_spec (c : CDom) (id : Nat) (x : Issue) : (c.leaves id x).issue? id = none ∧ (c.leaves id x).pendCommit = c.pendCommit ∧
    ∀ j, ((c.leaves id x).inst? j).isSome = (c.inst? j).isSome := by
  obtain ⟨pend, live⟩ := (c.modIssue id fun x => { x with withheld := false }).enterEffects_keeps id
  obtain ⟨pend', live'⟩ := ((c.modIssue id fun x => { x with withheld := false }).enterEffects id).deliverReady_keeps id x.pe
  exact ⟨by simp [CDom.leaves, CDom.issue?, CDom.dropIssue], pend'.trans pend, fun j => (live' j).trans (live j)⟩

theorem CDom.issue?_modInst (c : CDom) (i id : Nat) (g : Inst → Inst) : (c.modInst i g).issue? id = c.issue? id := by
  rw [CDom.issue?, CDom.issued_modInst, CDom.issue?]

theorem CDom.mayCommit_spec (c : CDom) (x : Issue) : (∀ id, (c.mayCommit x).issue? id = c.issue? id) ∧
    (c.mayCommit x).pendCommit = c.pendCommit ++ [x.inst % 4096] ∧ (c.mayCommit x).inst? x.inst = (c.inst? x.inst).map Inst.markFinished :=
  ⟨fun _ => CDom.issue?_modInst .., CDom.pendCommit_modInst .., CDom.inst?_modInst_self _ fun _ => rfl⟩

/-- Settles O35. -/
theorem tokensAndIssue : Obligations.TokensAndIssue := by
  intro t s tile c arrived drained
  have arrival (k : Tok) (ks : List Tok) (next : c.nextArrival = some (k, ks)) : exec (.tokenArrival t) s = .next ((arrived ks).arrive t k) := by
    rw [exec_tokenArrival, onTile_lt tile, next]
    rfl
  refine ⟨fun k ks first young => CDom.nextArrival_young first young, fun k ks first old port => CDom.nextArrival_port0 first old port,
    fun k ks y first old port rule other => CDom.nextArrival_port1 first old port rule other, fun none => ?_, arrival, fun k ks next none => ?_,
    fun k ks block next some bad => ?_, fun k ks held room => ⟨fun none => ?_, fun block some whole live => ⟨fun apart => ?_, fun overlap => ?_⟩⟩,
    fun pe k x idle port pick => ⟨fun e _ => exec_bundleIssue tile idle port pick, fun ok => ?_⟩, fun i x at_ old => ?_, fun i x at_ done ended => ?_⟩
  · rw [exec_tokenArrival, onTile_lt tile, none]
    rfl
  · rw [arrival k ks next, State.arrive_noReceiver none]
  · rw [arrival k ks next, State.arrive_badKind some bad]
    rfl
  · rw [exec_holdingQueueDrain tile held room, State.drainOne_noReceiver none]
  · rw [exec_holdingQueueDrain tile held room, State.drainOne_whole some whole live, if_neg (by simp [apart])]
  · rw [exec_holdingQueueDrain tile held room, State.drainOne_whole some whole live, if_pos overlap]
  · refine ⟨_, (exec_bundleIssue tile idle port pick).trans (congrArg _ (State.issueSet_ok ok)), ?_⟩
    obtain ⟨⟨q, g, iss⟩, dom⟩ := State.readSources_same ({ s.debitSet t k pe (bundleCost (c.bundle x.frame x.block x.bun)) with
        iss := c.beginning t pe x (s.debitSet t k pe (bundleCost (c.bundle x.frame x.block x.bun))).tick } : State) (c.bundle x.frame x.block x.bun)
    have at_ : (s.debitSet t k pe (bundleCost (c.bundle x.frame x.block x.bun))).c t = _ := State.c_setC_self ..
    refine ⟨by rw [iss]; rfl, by rw [iss]; rfl, by rw [iss]; rfl, by rw [iss]; rfl, by rw [iss]; rfl, by rw [iss]; rfl, ?_, ?_⟩
    · rw [dom, iss]
      exact congrArg CDom.bucket at_
    · rw [dom]
      exact congrArg CDom.sets at_
  · have promotes : exec (.instancePromotion t i) s = .next _ := (exec_instancePromotion t i s).trans (onTile_lt tile _)
    refine ⟨_, promotes, ?_⟩
    rw [State.c_modC_self]
    exact promote_eq_set at_ old
  · refine ⟨_, exec_bundleFinish tile at_ done ended, ?_⟩
    obtain ⟨gone, pend, live⟩ := c.leaves_spec i x
    have ran : ((c.leaves i x).modInst x.inst Inst.markRan).inst? x.inst = ((c.leaves i x).inst? x.inst).map Inst.markRan :=
      CDom.inst?_modInst_self _ fun _ => rfl
    have stays (y : Inst) (h : c.inst? x.inst = some y) : ∃ z, (c.leaves i x).inst? x.inst = some z :=
      Option.isSome_iff_exists.1 ((live x.inst).trans (by rw [h]; rfl))
    rw [State.c_modC_self]
    split
    · obtain ⟨same, commit, finished⟩ := ((c.leaves i x).modInst x.inst Inst.markRan).mayCommit_spec x
      refine ⟨(same i).trans ((CDom.issue?_modInst ..).trans gone), by rw [commit, CDom.pendCommit_modInst, pend], fun y h => ?_⟩
      obtain ⟨z, hz⟩ := stays y h
      exact ⟨z.markRan.markFinished, by rw [finished, ran, hz]; rfl, rfl⟩
    · refine ⟨(CDom.issue?_modInst ..).trans gone, by rw [CDom.pendCommit_modInst, pend, List.append_nil], fun y h => ?_⟩
      obtain ⟨z, hz⟩ := stays y h
      exact ⟨z.markRan, by rw [ran, hz]; rfl, rfl⟩

end Sys2Proof.Machine

end

/-! PROOFS. What sending and dropping messages leaves as it was; what matching and entering leave as they were. -/

section

namespace Sys2Proof.Machine

/-! ### Messages sent and dropped -/

/-- State u is s but for the messages on their way and the counts that routers keep of them. -/
structure State.Sent (s u : State) : Prop where
  rest : u = { s with net := u.net, tiles := u.tiles, spans := u.spans }
  tile : ∀ t, u.tile t = { s.tile t with n := { s.n t with
    nameSeq := (u.n t).nameSeq, sampleCount := (u.n t).sampleCount, samples := (u.n t).samples, fences := (u.n t).fences } }

namespace State.Sent

variable {s u v : State}

theorem refl (s : State) : s.Sent s := ⟨rfl, fun _ => rfl⟩

theorem trans (h : s.Sent u) (k : u.Sent v) : s.Sent v :=
  ⟨k.rest.trans (congrArg (fun w : State => { w with net := v.net, tiles := v.tiles, spans := v.spans }) h.rest),
    fun t => (k.tile t).trans (congrArg (fun x : Tile => { x with n := { x.n with
      nameSeq := (v.n t).nameSeq, sampleCount := (v.n t).sampleCount, samples := (v.n t).samples, fences := (v.n t).fences } }) (h.tile t))⟩

section
variable (h : s.Sent u)
include h

theorem c (t : Nat) : u.c t = s.c t := Eq.trans (congrArg Tile.c (h.tile t)) rfl

theorem slate (t : Nat) : (u.tile t).slate = (s.tile t).slate := Eq.trans (congrArg Tile.slate (h.tile t)) rfl

theorem powered (t : Nat) : (u.tile t).powered = (s.tile t).powered := Eq.trans (congrArg Tile.powered (h.tile t)) rfl

theorem frame (t f : Nat) : u.frame t f = s.frame t f := congrArg (CDom.frame · f) (h.c t)

theorem n (t : Nat) : u.n t = { s.n t with
    nameSeq := (u.n t).nameSeq, sampleCount := (u.n t).sampleCount, samples := (u.n t).samples, fences := (u.n t).fences } :=
  Eq.trans (congrArg Tile.n (h.tile t)) rfl

theorem hub (f : Nat) : u.hub f = s.hub f := Eq.trans (congrArg (fun w : State => w.hub f) h.rest) rfl

theorem rim (a : Nat) : u.rim a = s.rim a := Eq.trans (congrArg (fun w : State => w.rim a) h.rest) rfl

theorem part (p : Nat) : u.part p = s.part p := Eq.trans (congrArg (fun w : State => w.part p) h.rest) rfl

theorem vf (p : Nat) : u.vf p = s.vf p := Eq.trans (congrArg (fun w : State => w.vf p) h.rest) rfl

theorem hbm : u.hbm = s.hbm := Eq.trans (congrArg State.hbm h.rest) rfl

theorem quartz : u.quartz = s.quartz := Eq.trans (congrArg State.quartz h.rest) rfl

theorem partOf (t : Nat) : u.partOf t = s.partOf t := Eq.trans (congrArg (fun w : State => w.partOf t) h.rest) rfl

end

/-- A change of the counts of one tile's router. -/
theorem modN {s : State} (t : Nat) (g : NDom → NDom) (h : g (s.n t) = { s.n t with
    nameSeq := (g (s.n t)).nameSeq, sampleCount := (g (s.n t)).sampleCount, samples := (g (s.n t)).samples, fences := (g (s.n t)).fences }) :
    s.Sent (s.modN t g) := by
  refine ⟨rfl, fun u => ?_⟩
  have at_ : (s.modN t g).tile u = if u = t then { s.tile t with n := g (s.n t) } else s.tile u := State.tile_setTile ..
  have counts : (s.modN t g).n u = if u = t then g (s.n t) else s.n u := State.n_modN ..
  rw [at_, counts]
  split
  · next here =>
    subst here
    exact congrArg (fun x : NDom => { s.tile u with n := x }) h
  · rfl

theorem net {s : State} (l : List Msg) : s.Sent { s with net := l } := ⟨rfl, fun _ => rfl⟩

theorem modSpan {s : State} (l : Nat) (g : Span → Span) : s.Sent (s.modSpan l g) := ⟨rfl, fun _ => rfl⟩

theorem number (s : State) (m : Msg) : s.Sent (s.number m).1 := by
  unfold State.number
  split
  · split
    · dsimp only
      exact modN _ _ rfl
    · exact refl s
  · exact refl s

theorem send (s : State) (m : Msg) : s.Sent (s.send m) := by
  refine (number s { m with birth := s.quartz }).trans ?_
  unfold State.send
  dsimp only
  generalize (s.number { m with birth := s.quartz }).1 = u
  generalize (s.number { m with birth := s.quartz }).2 = m
  have marked : ∀ r : State × Msg, u.Sent r.1 → u.Sent (match r.2.dst with
      | .span l _ => r.1.spanSend l r.2
      | _ => { r.1 with net := r.1.net ++ [r.2] }) := by
    intro r h
    refine h.trans ?_
    split
    · exact modSpan _ _
    · exact net _
  refine marked _ ?_
  split
  · split
    · dsimp only
      exact modN _ _ rfl
    · exact refl u
  · exact refl u

theorem post (s : State) (src dst : Agent) (cls : Cls) (b : Body) : s.Sent (s.post src dst cls b) := send _ _

theorem foldl {α : Type} {g : State → α → State} (l : List α) (h : ∀ s x, State.Sent s (g s x)) (s : State) : s.Sent (l.foldl g s) := by
  induction l generalizing s with
  | nil => exact refl s
  | cons x l ih => exact (h s x).trans (ih _)

theorem passFence (s : State) (x : Msg) : s.Sent (s.passFence x) := by
  unfold State.passFence
  split
  · split
    · exact modN _ _ rfl
    · exact refl s
  · exact refl s

theorem dropMsg (s : State) (m : Nat) : s.Sent (s.dropMsg m) := by
  unfold State.dropMsg
  dsimp only
  split
  · next x _ =>
    refine (net (eraseAt s.net m)).trans ((passFence _ x).trans ?_)
    split
    · exact modN _ _ rfl
    · exact refl _
  · exact net _

end State.Sent

/-! ### Tokens given and matched -/

/-- C domain d is c but for the tokens, the sets and the lines that they take. -/
def CDom.Matched (c d : CDom) : Prop :=
  d = { c with toks := d.toks, sets := d.sets, arrivals := d.arrivals, holding := d.holding, lineCtr := d.lineCtr }

namespace CDom.Matched

variable {c d e : CDom}

theorem refl (c : CDom) : c.Matched c := rfl

theorem trans (h : c.Matched d) (k : d.Matched e) : c.Matched e :=
  Eq.trans k (congrArg (fun x : CDom => { x with toks := e.toks, sets := e.sets, arrivals := e.arrivals, holding := e.holding, lineCtr := e.lineCtr }) h)

section
variable (h : c.Matched d)
include h

theorem insts : d.insts = c.insts := Eq.trans (congrArg CDom.insts h) rfl

theorem frame (f : Nat) : d.frame f = c.frame f := Eq.trans (congrArg (fun x : CDom => x.frame f) h) rfl

theorem loops : d.loops = c.loops := Eq.trans (congrArg CDom.loops h) rfl

end

theorem foldl {α : Type} {g : CDom → α → CDom} (l : List α) (h : ∀ c x, CDom.Matched c (g c x)) (c : CDom) : c.Matched (l.foldl g c) := by
  induction l generalizing c with
  | nil => exact refl c
  | cons x l ih => exact (h c x).trans (ih _)

theorem enqueue (c : CDom) (src : Nat) (l : List Tok) : c.Matched (c.enqueue src l) := rfl

theorem giveTok (c : CDom) (n : Nat) (p : BitVec 8) (pd : Nat) (block : Option Nat) (h : HeldTok) (src : Nat) : c.Matched (c.giveTok n p pd block h src) := by
  unfold CDom.giveTok
  split
  · exact refl c
  · exact enqueue _ _ _

theorem matchRun (c : CDom) (y : Key) (lid block : Nat) (b : BitVec 512) (n : Nat) : c.Matched (c.matchRun y lid block b n) := by
  induction n generalizing c y with
  | zero => exact refl c
  | succ n ih =>
    unfold CDom.matchRun
    split
    · exact refl c
    · refine Eq.trans (ih _ _) ?_
      rfl

theorem rematch (c : CDom) (frame lid block : Nat) : c.Matched (c.rematch frame lid block) := foldl _ (fun _ _ => matchRun _ _ _ _ _ _) c

theorem start (c : CDom) (n : Nat) (p : BitVec 8) (pd : Nat) (l : List HeldTok) : c.Matched (c.start n p pd l) := by
  unfold CDom.start
  have given := foldl l (fun c h => giveTok c n p pd none h 6) c
  dsimp only
  split
  · split
    · exact given.trans (rematch _ _ _ _)
    · exact given
  · exact given

end CDom.Matched

/-! ### Entering an instance (R49) -/

theorem CDom.enterAt_insts (c : CDom) (e : Nat) (i : Inst) :
    (c.enterAt e i).2.insts = c.insts.set e { i with gen := c.nextGen e, ordinal := if i.depth = 0 then (c.frame i.frame).ord0 + 1 else i.ordinal } := by
  unfold CDom.enterAt
  dsimp only
  split <;> rfl

theorem CDom.enterAt_num (c : CDom) (e : Nat) (i : Inst) : (c.enterAt e i).1 = instNum e (c.nextGen e) := by
  unfold CDom.enterAt
  dsimp only
  split <;> rfl

theorem CDom.enterAt_loops (c : CDom) (e : Nat) (i : Inst) : (c.enterAt e i).2.loops = c.loops := by
  unfold CDom.enterAt
  dsimp only
  split <;> rfl

end Sys2Proof.Machine

end

/-! PROOFS. Tasks from their creation to their end (R15 to R27). -/

section

namespace Sys2Proof.Machine

/-! ### Creation and placement (R18, R20, R335) -/

/-- A new task in a hub's placement queue (R18, R335). -/
def State.queueTask (s : State) (h p : Nat) (k : Task) (creator : BitVec 32) (ordinal : Nat) (id : BitVec 32) : State :=
  (s.newTaskId p id).modHub h fun x => { x with
    queue := x.queue ++ [⟨{ k with taskId := id }, p, creator, ordinal⟩], pairs := x.pairs ++ [(creator, ordinal, id)] }

section
variable {s : State} {m h o fr ordinal b : Nat} {src : Agent} {cls : Cls} {k : Task} {creator id : BitVec 32} {sm : Bool}
  (here : Arrives s m ⟨src, .hub h, cls, .spawn k creator ordinal fr o, b, sm⟩)
include here

/-- A repeated TSPAWN gets the id of the first one (R335). -/
theorem tspawnAtHub_again {e : BitVec 32 × Nat × BitVec 32} (known : ((s.hub h).pairs.find? fun e => e.1 == creator && e.2.1 == ordinal) = some e) :
    exec (.tspawnAtHub m id) s =
      .next ((s.dropMsg m).post (.hub h) src .reply (.name .taskReply { who := src, frame := some fr, taskId := e.2.2, oseq := o })) := by
  obtain ⟨at_, arrives⟩ := here
  change execTspawnAtHub m id s = _
  unfold execTspawnAtHub
  simp only [at_, arrives, known, Bool.not_true, Bool.false_eq_true, if_false]

theorem tspawnAtHub_queues (new : ((s.hub h).pairs.find? fun e => e.1 == creator && e.2.1 == ordinal) = none) (room : (s.hub h).queue.length < 4096)
    (unused : (s.part (s.partOfField h)).taskIds.contains id = false) :
    exec (.tspawnAtHub m id) s = .next (((s.dropMsg m).queueTask h (s.partOfField h) k creator ordinal id).post (.hub h) src .reply
      (.name .taskReply { who := src, frame := some fr, taskId := id, oseq := o })) := by
  obtain ⟨at_, arrives⟩ := here
  have takes : ¬ ((s.hub h).queue.length ≥ 4096 ∨ (s.part (s.partOfField h)).taskIds.contains id = true) := by
    rintro (full | used)
    · omega
    · exact Bool.false_ne_true (unused.symm.trans used)
  change execTspawnAtHub m id s = _
  unfold execTspawnAtHub
  simp only [at_, arrives, new, Bool.not_true, Bool.false_eq_true, if_false]
  exact if_neg takes

end

section
variable {s : State} {h t : Nat} {id : BitVec 32} {q : Queued} (field : h < Config.numFields)
  (found : ((s.hub h).queue.find? fun q => q.task.taskId == id) = some q)
include field found

theorem taskPlacement_fails {i : FaultInfo} (fails : q.task.placeFault (s.part q.part) = some i) : exec (.taskPlacement h id t) s = .next
    (((s.modHub h fun h => { h with queue := h.queue.filter fun x => x.task.taskId != id }).modPart q.part fun p =>
      { p with taskIds := p.taskIds.filter (· != id) }).taskRecord (.hub h) q.part 3 id i) := by
  change execTaskPlacement h id t s = _
  unfold execTaskPlacement
  rw [onField_lt field]
  simp only [found, fails]

/-- A task of a field's queue goes to a tile that no rival betters (R20). -/
theorem taskPlacement_settles {l : Layout} (passes : q.task.placeFault (s.part q.part) = none) (mine : (s.part q.part).tiles.contains t = true)
    (ok : s.eligible q.part q.task t = true) (own : fieldOf t = h ∨ ∀ u, fieldOf u = h → s.eligible q.part q.task u = false)
    (best : ∀ u, fieldOf u = fieldOf t → s.eligible q.part q.task u = true →
      lexLt (s.placeRank q.part q.task u) (s.placeRank q.part q.task t) = false)
    (fits : (s.c t).layoutOf (s.part q.part) q.task = some l) : exec (.taskPlacement h id t) s = .next
      ((s.modHub h fun h => { h with queue := h.queue.filter fun x => x.task.taskId != id }).settle t q.part q.task l .waiting none) := by
  have tiles (f u : Nat) (hu : u ∈ (List.range 160).map (160 * f + ·)) : fieldOf u = f := by
    obtain ⟨j, hj, rfl⟩ := List.mem_map.1 hu
    have lt := List.mem_range.1 hj
    simp only [fieldOf, Config.tilesPerField]
    omega
  have chosen : ¬ (!(s.part q.part).tiles.contains t || !s.eligible q.part q.task t ||
      (fieldOf t != h && !(((List.range 160).map (160 * h + ·)).filter (s.eligible q.part q.task)).isEmpty) ||
      (if fieldOf t = h then ((List.range 160).map (160 * h + ·)).filter (s.eligible q.part q.task) else (List.range 160).map (160 * fieldOf t + ·)).any
        (fun u => s.eligible q.part q.task u && lexLt (s.placeRank q.part q.task u) (s.placeRank q.part q.task t))) = true := by
    simp only [mine, ok, Bool.or_eq_true, Bool.and_eq_true, Bool.not_eq_true', bne_iff_ne, Bool.not_true, Bool.false_eq_true, false_or, List.any_eq_true]
    rintro (⟨away, some⟩ | ⟨u, rival, good, better⟩)
    · have none := own.resolve_left away
      obtain ⟨u, hu⟩ := List.isEmpty_eq_false_iff_exists_mem.1 some
      obtain ⟨in_, good⟩ := List.mem_filter.1 hu
      rw [none u (tiles h u in_)] at good
      exact Bool.false_ne_true good
    · have same : fieldOf u = fieldOf t := by
        split at rival
        · next at_ => exact (tiles h u (List.mem_filter.1 rival).1).trans at_.symm
        · exact tiles _ u rival
      rw [best u same good] at better
      exact Bool.false_ne_true better
  change execTaskPlacement h id t s = _
  unfold execTaskPlacement
  rw [onField_lt field]
  simp only [found, passes]
  rw [if_neg chosen, fits]

end

theorem tileDelivery_lands {s : State} {m t b : Nat} {src : Agent} {cls : Cls} {x : NameMsg} {sm : Bool}
    (here : Arrives s m ⟨src, .tile t, cls, .name .copy x, b, sm⟩) (powered : (s.tile t).powered = true)
    (live : (s.tile t).slate.replaying = false) (room : s.logRoom t x.logBytes = true) : exec (.tileDelivery m) s =
      .next (((s.dropMsg m).logDelivery t ⟨src, .tile t, cls, .name .copy x, b, sm⟩ x.logBytes).land t x) := by
  obtain ⟨at_, arrives⟩ := here
  change execTileDelivery m s = _
  unfold execTileDelivery
  simp only [at_, arrives, powered, live, room]
  rfl

/-! ### Activation (R25) -/

theorem instNum_entry {e g : Nat} (lt : e < 4096) : instNum e g % 4096 = e := by
  unfold instNum
  omega

theorem CDom.freeEntry_lt {c : CDom} {e : Nat} (h : c.freeEntry = some e) : e < 4096 := by
  rw [CDom.freeEntry] at h
  exact List.mem_range.1 (List.mem_of_find?_eq_some h)

theorem CDom.nextGen_lt (c : CDom) (e : Nat) : c.nextGen e < 8 := Nat.mod_lt _ (by decide)

/-- The instance that has entered is the one its number names. -/
theorem CDom.enterAt_inst? (c : CDom) {e : Nat} (lt : e < 4096) (i : Inst) : (c.enterAt e i).2.inst? (instNum e (c.nextGen e)) =
    some { i with gen := c.nextGen e, ordinal := if i.depth = 0 then (c.frame i.frame).ord0 + 1 else i.ordinal } := by
  have gen : instNum e (c.nextGen e) / 4096 % 8 = c.nextGen e := by
    have := c.nextGen_lt e
    unfold instNum
    omega
  rw [CDom.inst?, CDom.enterAt_insts, instNum_entry lt, AMap.get?_set_self, gen]
  exact if_pos rfl

theorem CDom.get?_of_inst? {c : CDom} {n : Nat} {i : Inst} (h : c.inst? n = some i) : c.insts.get? (n % 4096) = some i := by
  unfold CDom.inst? at h
  split at h
  · next x at_ =>
    split at h
    · exact at_.trans h
    · nomatch h
  · nomatch h

theorem CDom.enterAt_frame (c : CDom) (e g : Nat) (i : Inst) : ∃ o, (c.enterAt e i).2.frame g = { c.frame g with ord0 := o } := by
  unfold CDom.enterAt
  dsimp only
  split
  · simp only [CDom.frame_modFrame]
    split
    · next same =>
      subst same
      exact ⟨_, rfl⟩
    · exact ⟨(c.frame g).ord0, rfl⟩
  · exact ⟨(c.frame g).ord0, rfl⟩

theorem CDom.frame_modInst (c : CDom) (i f : Nat) (g : Inst → Inst) : (c.modInst i g).frame f = c.frame f := by
  unfold CDom.modInst
  split <;> rfl

/-- A frame's entry instance enters (R25). -/
def CDom.enterTask (c : CDom) (f e block : Nat) : CDom :=
  let r := c.enterAt e { Inst.blank f with block := block, entry := true }
  ((r.2.modInst r.1 fun i => { i with ordinal := 0 }).modFrame f fun fr => { fr with ord0 := 0 }).start r.1 0 0 [entryTok]

theorem CDom.enterTask_frame (c : CDom) (f e block : Nat) : (c.enterTask f e block).frame f = { c.frame f with ord0 := 0 } := by
  unfold CDom.enterTask
  rw [(CDom.Matched.start ..).frame, CDom.frame_modFrame_self, CDom.frame_modInst]
  obtain ⟨o, frame⟩ := c.enterAt_frame e f { Inst.blank f with block := block, entry := true }
  rw [frame]

theorem CDom.enterTask_inst (c : CDom) (f e block : Nat) (lt : e < 4096) : ∃ i, (c.enterTask f e block).insts.get? e = some i ∧ i.frame = f ∧
    i.block = block ∧ i.depth = 0 ∧ i.entry = true := by
  have entered := c.enterAt_inst? lt { Inst.blank f with block := block, entry := true }
  have changed := ((c.enterAt e { Inst.blank f with block := block, entry := true }).2.inst?_modInst_self (i := instNum e (c.nextGen e))
    (g := fun i => { i with ordinal := 0 }) fun _ => rfl).trans (congrArg _ entered)
  have at_ := CDom.get?_of_inst? changed
  rw [instNum_entry lt] at at_
  unfold CDom.enterTask
  rw [(CDom.Matched.start ..).insts, CDom.insts_modFrame, CDom.enterAt_num, at_]
  exact ⟨_, rfl, rfl, rfl, rfl, rfl⟩

/-- The tile with a task in a frame, before its entry instance enters (R25). -/
def CDom.withTask (c : CDom) (f : Nat) (q : Placed) (areas : List (Nat × Nat)) (fr : Frame) : CDom :=
  ({ c with areas := areas
            slots := c.slots.mapVal fun x => if x.byTask ∧ x.taskId = q.task.taskId ∧ x.frame = none then { x with frame := some f } else x
            placed := c.placed.filter fun y => y.task.taskId != q.task.taskId } : CDom).setFrame f fr

theorem State.activate_c (s : State) (t f e : Nat) (q : Placed) (bs : List Nat) (areas : List (Nat × Nat)) :
    (s.activate t f e q bs areas).c t =
      ((s.c t).withTask f q areas (s.newFrame t q bs ((s.hub (fieldOf t)).nextKey (s.fieldOrdinal t)).2)).enterTask f e q.task.entry :=
  State.c_modC_self ..

/-- The first task in order that fits enters frame f, and those before it are passed over (R24, R25). -/
def State.activateNext (s : State) (t f e : Nat) (restores : Bool) : State :=
  let r := (s.c t).pickReady ((s.c t).throttleAllows 0) s.quartz (s.c t).readyQueue restores []
  match r.1 with
  | none => s.passOver t r.2
  | some q => match areasPlace (s.c t).areas q.task.frameSizes with
    | some (bs, areas) => (s.passOver t r.2).activate t f e q bs areas
    | none => s.passOver t r.2

theorem activation_activates {s : State} {t g e : Nat} {q : Placed} {past : List Placed} {bs : List Nat} {areas : List (Nat × Nat)}
    (tile : t < Config.numTiles) (free : ((List.range 63).find? fun f => ((s.c t).frame f).st == .free) = some g) (entry : (s.c t).freeEntry = some e)
    (powered : (s.tile t).powered = true)
    (pick : (s.c t).pickReady ((s.c t).throttleAllows 0) s.quartz (s.c t).readyQueue ((s.tile t).slate.images.any fun x =>
      x.asked && match x.passed with | some k => decide (k + 65536 ≤ s.quartz) | none => false) [] = (some q, past))
    (fits : areasPlace (s.c t).areas q.task.frameSizes = some (bs, areas)) :
    exec (.activation t) s = .next ((s.passOver t past).activate t g e q bs areas) := by
  change execActivation t s = _
  unfold execActivation
  rw [onTile_lt tile]
  dsimp only
  rw [free, entry]
  simp only [powered, Bool.not_true, Bool.false_eq_true, if_false]
  refine (congrArg Host.Outcome.next (?_ : _ = s.activateNext t g e ((s.tile t).slate.images.any fun x =>
      x.asked && match x.passed with | some k => decide (k + 65536 ≤ s.quartz) | none => false))).trans ?_
  · rfl
  · unfold State.activateNext
    rw [pick]
    dsimp only
    rw [fits]

/-! ### Moves (R22) -/

theorem State.sent_prune (s : State) (t slot : Nat) (frame : Option Nat) (taskId : BitVec 32) (q : SubReq) : s.Sent (s.prune t slot frame taskId q) :=
  State.Sent.foldl _ (fun _ _ => State.Sent.send _ _) s

theorem State.placed_modC (s : State) (t u : Nat) {g : CDom → CDom} (h : (g (s.c t)).placed = (s.c t).placed) :
    ((s.modC t g).c u).placed = (s.c u).placed := by
  rw [State.c_modC]
  split
  · next here => rw [h, here]
  · rfl

theorem State.placed_dropTaskSlots (s : State) (t u : Nat) (id : BitVec 32) (l : List Nat) : ((s.dropTaskSlots t id l).c u).placed = (s.c u).placed := by
  unfold State.dropTaskSlots
  induction l generalizing s with
  | nil => rfl
  | cons k l ih =>
    rw [List.foldl_cons, ih]
    split
    · next x _ =>
      rw [State.placed_modC _ t u rfl]
      split
      · split
        · rfl
        · rw [(State.sent_prune ..).c]
      · rfl
    · rfl

theorem State.placed_releaseCode (s : State) (t u : Nat) (k : Task) : ((s.releaseCode t k).c u).placed = (s.c u).placed := by
  unfold State.releaseCode
  split
  · rfl
  · split
    · rfl
    · dsimp only
      split
      · exact s.placed_modC t u rfl
      · rw [(State.sent_prune ..).c]
        exact s.placed_modC t u rfl

theorem State.unplace_placed (s : State) (t : Nat) (q : Placed) :
    ((s.unplace t q).c t).placed = (s.c t).placed.filter fun y => y.task.taskId != q.task.taskId := by
  unfold State.unplace
  rw [State.placed_releaseCode, State.placed_dropTaskSlots, State.c_modC_self]

/-- The task's record at the tile it moves to, once its registrations are acknowledged (R22). -/
def CDom.moved (c : CDom) (id : BitVec 32) (q : Placed) (tick : Nat) : CDom :=
  let code := match c.codeOf q.task with | some x => x.resident | none => false
  let open_ := (q.slots.filter fun k => match c.slots.get? k with | some x => !x.full | none => true).length
  let dep := open_ + (if code then 0 else 1)
  c.modPlaced id fun y => { y with
    task := { y.task with depcnt := dep }, st := if dep = 0 then .ready else .waiting, entered := tick, codeSat := code, moveTo := none }

theorem moveComplete_leaves {s : State} {t old : Nat} {id : BitVec 32} {q y : Placed} (tile : t < Config.numTiles)
    (moving : ((s.c t).placed.find? fun q => q.task.taskId == id && q.st == .moving && q.acks == 0) = some q) (away : q.moveTo = some old)
    (there : ((s.c old).placed.find? fun y => y.task.taskId == id && y.moveTo == some t) = some y) (ne : old ≠ t) :
    ∃ u, exec (.moveComplete t id) s = .next u ∧ ∀ z ∈ (u.c old).placed, z.task.taskId ≠ id := by
  have named : y ∈ (s.c old).placed ∧ y.task.taskId = id ∧ y.moveTo = some t := by
    have hy := List.find?_some there
    rw [Bool.and_eq_true, beq_iff_eq, beq_iff_eq] at hy
    exact ⟨List.mem_of_find?_eq_some there, hy⟩
  obtain ⟨mem, idy, back⟩ := named
  have some : ¬ ((s.c old).placed.all fun y => !(y.task.taskId == id && y.moveTo == some t)) = true := by
    rw [List.all_eq_true]
    exact fun none => by simpa [idy, back] using none y mem
  have first : ((s.c old).placed.find? fun y => y.task.taskId == id).isSome = true :=
    List.find?_isSome.2 ⟨y, mem, beq_iff_eq.2 idy⟩
  obtain ⟨z, hz⟩ := Option.isSome_iff_exists.1 first
  have idz : z.task.taskId = id := by
    have named := List.find?_some hz
    exact beq_iff_eq.1 named
  have same : (s.modC t fun c => (s.c t).moved id q s.quartz).c old = s.c old := State.c_modC_ne _ _ ne
  refine ⟨(s.modC t fun c => (s.c t).moved id q s.quartz).unplace old z, ?_, fun x hx => ?_⟩
  · change execMoveComplete t id s = _
    unfold execMoveComplete
    rw [onTile_lt tile]
    dsimp only
    rw [moving]
    dsimp only
    rw [away]
    dsimp only
    rw [if_neg some]
    refine congrArg Host.Outcome.next ?_
    refine Eq.trans (b := match (s.c old).placed.find? fun y => y.task.taskId == id with
      | .some y => (s.modC t fun c => (s.c t).moved id q s.quartz).unplace old y
      | .none => s.modC t fun c => (s.c t).moved id q s.quartz) ?_ ?_
    · rw [← same]
      rfl
    · rw [hz]
  · rw [State.unplace_placed, idz] at hx
    exact bne_iff_ne.1 (List.mem_filter.1 hx).2

/-! ### The end of a frame (R27, R34) -/

theorem frameEndDone_ends {s : State} {t f : Nat} (tile : t < Config.numTiles) (ending : (s.frame t f).st = .ending) (whole : (s.frame t f).abortRec = none)
    (unparked : (s.frame t f).park = .none) (quiet : s.frameQuiet t f = true) (covered : s.covered t f = true)
    (granted : ∀ x ∈ (s.frame t f).claims, x.answer ≠ some false) :
    exec (.frameEndDone t f) s = .next (((s.completion t f).releaseClaims t f).freeFrame t f) := by
  have none : ((s.frame t f).claims.find? fun x => x.answer == some false) = Option.none :=
    List.find?_eq_none.2 fun x hx h => granted x hx (beq_iff_eq.1 h)
  change execFrameEndDone t f s = _
  unfold execFrameEndDone
  rw [onTile_lt tile]
  dsimp only
  rw [if_neg (by simp [ending, whole, unparked, quiet, covered]), none]

theorem exec_abortFaultRecord {s : State} {t f : Nat} (tile : t < Config.numTiles) : exec (.abortFaultRecord t f) s =
    .next ((s.frame t f).abortRec.elim (s.endImages t f) fun ws => if !s.frameQuiet t f then s.endImages t f else
      ((((s.closeSubs t f).publishRecord (.tile t) (s.frame t f).part faultTensor (s.frame t f).task.taskId false ws).releaseClaims t f).freeFrame t f)) := by
  change execAbortFaultRecord t f s = _
  unfold execAbortFaultRecord
  rw [onTile_lt tile]
  dsimp only
  cases (s.frame t f).abortRec <;> rfl

theorem exec_taskReserving (t : Nat) (id : BitVec 32) (s : State) : exec (.taskReserving t id) s = execTaskReserving t id s := rfl

/-- Settles O37. -/
theorem tasksRunFromCreationToEnd : Obligations.TasksRunFromCreationToEnd := by
  intro m t f h id s tile field
  refine ⟨fun src cls k creator ordinal fr o b sm here => ?_, fun q found => ?_, fun src cls x b sm here powered live room => ?_,
    fun g e q past bs areas free entry powered => ?_, ?_, fun q old y moving away there ne => moveComplete_leaves tile moving away there ne,
    fun ending whole unparked quiet covered granted => frameEndDone_ends tile ending whole unparked quiet covered granted, fun open_ => ?_, fun ws rec_ quiet => ?_⟩
  · intro reply
    refine ⟨fun e known => tspawnAtHub_again here known, fun new room unused => ⟨_, tspawnAtHub_queues here new room unused, ?_⟩⟩
    have queued : (((s.dropMsg m).queueTask h (s.partOfField h) k creator ordinal id).post (.hub h) src .reply
        (.name .taskReply { who := src, frame := some fr, taskId := id, oseq := o })).hub h = { s.hub h with
          queue := (s.hub h).queue ++ [⟨{ k with taskId := id }, s.partOfField h, creator, ordinal⟩]
          pairs := (s.hub h).pairs ++ [(creator, ordinal, id)] } := by
      rw [(State.Sent.post ..).hub, State.queueTask, State.hub_modHub_self]
      have same : ((s.dropMsg m).newTaskId (s.partOfField h) id).hub h = s.hub h := (State.Sent.dropMsg s m).hub h
      rw [same]
    rw [queued]
    exact ⟨rfl, rfl⟩
  · intro off
    exact ⟨fun i fails => taskPlacement_fails field found fails, fun l passes mine ok own best fits => taskPlacement_settles field found passes mine ok own best fits⟩
  · exact tileDelivery_lands here powered live room
  · intro restores pick fits
    have seat := State.activate_c (s.passOver t past) t g e q bs areas
    obtain ⟨i, at_, frame, block, depth, first⟩ := CDom.enterTask_inst (((s.passOver t past).c t).withTask g q areas
      ((s.passOver t past).newFrame t q bs (((s.passOver t past).hub (fieldOf t)).nextKey ((s.passOver t past).fieldOrdinal t)).2)) g e q.task.entry
      (CDom.freeEntry_lt entry)
    have framed : ((s.passOver t past).activate t g e q bs areas).frame t g = { (s.passOver t past).newFrame t q bs
        (((s.passOver t past).hub (fieldOf t)).nextKey ((s.passOver t past).fieldOrdinal t)).2 with ord0 := 0 } := by
      rw [State.frame, seat, CDom.enterTask_frame, CDom.withTask, CDom.frame_setFrame, if_pos rfl]
    refine ⟨_, i, activation_activates tile free entry powered pick fits, by rw [framed]; rfl, by rw [framed]; rfl, ?_, ?_, by rw [seat, at_], frame, block,
      depth, first⟩
    · rw [framed]
      rfl
    · rw [framed]
      rfl
  · have reserves : exec (.taskReserving t id) s = .next _ := (exec_taskReserving t id s).trans (onTile_lt tile _)
    refine ⟨_, reserves, ?_⟩
    rw [State.c_modC_self]
    refine List.map_congr_left fun q _ => ?_
    by_cases ready : q.st = .ready <;> by_cases passed : q.passedLong s.quartz = true <;> by_cases mine : q.task.taskId = id <;> simp [ready, passed, mine]
  · rw [exec_abortFaultRecord tile]
    cases rec_ : (s.frame t f).abortRec with
    | none => rfl
    | some ws => exact congrArg _ (if_pos (by simp [open_.resolve_left (by simp [rec_])]))
  · rw [exec_abortFaultRecord tile, rec_]
    exact congrArg _ (if_neg (by simp [quiet]))

end Sys2Proof.Machine

end

/-! PROOFS. A CSR write of a tile whose field no partition holds (R347, R354). -/

section

namespace Sys2Proof.Machine

/-- After reset no partition holds a field. -/
theorem reset_partOf : State.reset.partOf 0 = 64 := rfl

/-- A write of the ASID from a tile that no partition holds changes no partition. -/
theorem reset_asidWrite : ((State.reset.csrWrite 0 0x403 1).part 64).asid = 0 := rfl

/-- Refutes O36: in the state after reset no partition holds the field of tile 0, so that a write of 1 to CSR 0x403 leaves no ASID of 1 to be read: the
statement asks for one in the partition that `partOf` names, which is 64 there, one past the last. -/
theorem not_commitsLoopsAndTrapEntries : ¬ Obligations.CommitsLoopsAndTrapEntries := by
  intro h
  obtain ⟨-, -, writes, -⟩ := h 0 State.reset (by decide)
  obtain ⟨-, -, -, -, -, -, -, -, -, asid, -⟩ := writes 1
  rw [reset_partOf, reset_asidWrite] at asid
  exact absurd asid (by decide)

end Sys2Proof.Machine

end

/-! PROOFS. Two clauses that leave out a step of the model: a D record also drops the messages that it covers from those its directory keeps (R399), and
a write of a victim that is given up takes the victim's other writes from the network (R123). -/

section

namespace Sys2Proof.Machine

/-! ### The D record of an epoch (R144, R399) -/

/-- A prune of a tile, as its home's directory keeps it until D covers it. -/
def keptPrune : Msg := ⟨.tile 0, .tile 0, .nameCtl, .name .prune { nseq := 1 }, 0, false⟩

/-- An epoch that has shadowed the kept prune. -/
def prunedEpoch : Epoch := ⟨0, {}, { taken := [keptPrune] }, [], 0, 0, 0, [], []⟩

/-- Tile 0 writes that epoch, with nothing taken since. -/
def epochEnding : State := (State.reset.modN 0 fun n => { n with taken := [keptPrune] }).modSlate 0 fun l => { l with target := some prunedEpoch }

theorem epochEnding_target : (epochEnding.tile 0).slate.target = some prunedEpoch := by decide +kernel

/-- The D record drops the prune. -/
theorem epochEnding_dRecord : ∃ u, exec (.dRecordWritten 0) epochEnding = .next u ∧ (u.n 0).taken = [] := ⟨_, rfl, by decide +kernel⟩

/-- Refutes O46: in `epochEnding` the D record covers a prune that the directory keeps, so that the model keeps it no more (R399); the statement's successor
leaves what the directory keeps as it is. -/
theorem not_epochsAndRevivals : ¬ Obligations.EpochsAndRevivals := by
  intro h
  obtain ⟨-, dRecord, -⟩ := h 0 0 epochEnding (by decide) (by decide)
  obtain ⟨said, -⟩ := dRecord prunedEpoch epochEnding_target
  obtain ⟨u, run, none_⟩ := epochEnding_dRecord
  rw [run] at said
  injection said with same
  rw [same] at none_
  exact absurd none_ (by decide +kernel)

/-! ### A write that cannot be performed (R122, R123) -/

/-- A write of a dirty sector of a victim of tile 0 that has been sent again three times, by its address. -/
def victimWrite (va : Nat) : Msg := ⟨.tile 0, .rim 0, .request, .hbm true va [] va 0 0xFFFFFFFF 0 0 3 3 0, 0, false⟩

/-- Two writes of one victim are on their way to rim agent 0. -/
def victimLeaving : State := { State.reset with net := [victimWrite 0, victimWrite 128] }

theorem victimLeaving_arrives : Arrives victimLeaving 0 (victimWrite 0) := ⟨rfl, by decide +kernel⟩

/-- With the first write given up, only its record is left in the network. -/
theorem victimLeaving_given_up : ∃ u, exec (.hbmAccessAtRim 0 false) victimLeaving = .next u ∧ u.net.length = 1 := ⟨_, rfl, by decide +kernel⟩

/-- Refutes O45: in `victimLeaving` the fourth failure of a victim's write takes the victim's other write from the network in the model (R123); the
statement's successor keeps it there. -/
theorem not_translationAndHbmAccesses : ¬ Obligations.TranslationAndHbmAccesses := by
  intro h
  obtain ⟨-, -, -, -, accesses, -⟩ := h 0 0 0 0 0 0 victimLeaving (by decide)
  obtain ⟨-, -, -, fails, -⟩ := accesses _ _ _ _ _ _ _ _ _ _ _ _ _ _ _ false victimLeaving_arrives (by decide +kernel) (by decide +kernel)
  have said := fails rfl (fun whole => absurd whole.1 (by decide)) (by decide)
  obtain ⟨u, run, one⟩ := victimLeaving_given_up
  rw [run] at said
  injection said with same
  rw [same] at one
  exact absurd one (by decide +kernel)

end Sys2Proof.Machine

end

/-! PROOFS. The accesses of the physical function (R369, R376, R377, R406 to R408, R422, R425, R426). -/

section

namespace Sys2Proof.Machine

theorem onPart_lt {p : Nat} {s : State} (part : p < 64) (runs : s.ctl.halted = false) (g : State → State) : onPart p s g = .next (g s) := by
  simp [onPart, part, runs]

/-- Every partition but p is as it was, and so is everything else. -/
theorem State.modPart_rest (s : State) (p : Nat) (g : Partition → Partition) : s.modPart p g = { s with parts := (s.modPart p g).parts } := rfl

/-! ### Partitions (R406 to R408) -/

theorem State.createCmd_refused {s : State} {p : Nat} (fails : s.createErr p ≠ 0) :
    s.createCmd p = s.modPart p fun q => { q with err := BitVec.ofNat 8 (s.createErr p) } := if_neg fails

theorem State.createCmd_ok {s : State} {p : Nat} (passes : s.createErr p = 0) : s.createCmd p = s.create p := if_pos passes

theorem State.destroyCmd_refused {s : State} {p : Nat} (idle : (s.part p).st ≠ 2) : s.destroyCmd p = s.modPart p fun q => { q with err := 1 } := if_pos idle

section

variable {p : Nat} {s : State} (part : p < 64) (runs : s.ctl.halted = false)
include part runs

theorem hpctlCreate_runs : exec (.hpctlCreate p) s = .next (s.createCmd p) := by
  change execHpctlCreate p s = _
  exact onPart_lt part runs _

theorem hpctlDestroy_runs : exec (.hpctlDestroy p) s = .next (s.destroyCmd p) := by
  change execHpctlDestroy p s = _
  exact onPart_lt part runs _

theorem hdstepArm_runs (w : W64) : exec (.hdstepArm p w) s = .next (s.modPart p fun q => { q with hdstep := some (bits w 13 0, bits w 21 16) }) := by
  change execHdstepArm p w s = _
  exact onPart_lt part runs _

theorem hdstepDisarm_runs : exec (.hdstepDisarm p) s = .next (s.modPart p fun q => { q with hdstep := none }) := by
  change execHdstepDisarm p s = _
  exact onPart_lt part runs _

end

/-! ### Register writes of the partitions' blocks (R9, R406) -/

/-- An offset in the second register of a partition's block is that of one of 64 partitions. -/
theorem cmd_offset {off : Nat} (aligned : off % 8 = 0) (block : 0x1000 ≤ off ∧ off < 0x1800 ∧ off / 8 % 4 = 1) : ∃ q < 64, off = 0x1008 + 32 * q :=
  ⟨(off - 0x1008) / 32, by omega, by omega⟩

theorem bits_cmd (w : W64) : bits w 57 56 = (w.extractLsb' 56 2).toNat := by simp [bits, bitsOf, Nat.shiftRight_eq_div_pow]

theorem bits_cmd_one (w : W64) : bits w 57 56 = 1 ↔ w.extractLsb' 56 2 = 1 := by
  rw [bits_cmd, ← BitVec.toNat_inj]
  exact Iff.rfl

theorem bits_cmd_two (w : W64) : bits w 57 56 = 2 ↔ w.extractLsb' 56 2 = 2 := by
  rw [bits_cmd, ← BitVec.toNat_inj]
  exact Iff.rfl

theorem State.pfWrite_cmd {s : State} {p : Nat} (part : p < 64) (w : W64) :
    s.pfWrite (0x1008 + 32 * p) w = s.modPart p fun q => if q.st = 0 then { q with asidReg := w.extractLsb' 32 16 } else q := by
  unfold State.pfWrite
  rw [if_neg (by omega), if_neg (by omega), if_neg (by omega), if_neg (by omega), if_neg (by omega), if_pos (by omega)]
  unfold State.partWrite
  have at_ : (0x1008 + 32 * p - 0x1000) / 32 = p := by omega
  have second : (0x1008 + 32 * p - 0x1000) / 8 % 4 = 1 := by omega
  rw [at_]
  simp only [second]

theorem State.pfCommand_cmd {s : State} {p : Nat} (part : p < 64) (w : W64) :
    let v : State := s.modPart p fun q => if q.st = 0 then { q with asidReg := w.extractLsb' 32 16 } else q
    s.pfCommand (0x1008 + 32 * p) w = if w.extractLsb' 56 2 = 1 then (if s.createErr p = 0 then v.createCmd p else s.createCmd p)
      else if w.extractLsb' 56 2 = 2 then v.destroyCmd p else v := by
  intro v
  have at_ : (0x1008 + 32 * p - 0x1000) / 32 = p := by omega
  have block : 0x1000 ≤ 0x1008 + 32 * p ∧ 0x1008 + 32 * p < 0x1800 ∧ (0x1008 + 32 * p) / 8 % 4 = 1 := by omega
  unfold State.pfCommand
  rw [State.pfWrite_cmd part]
  dsimp only
  rw [if_pos block, at_]
  by_cases one : bits w 57 56 = 1
  · rw [if_pos ((bits_cmd_one w).1 one), one]
    rfl
  · rw [if_neg fun h => one ((bits_cmd_one w).2 h)]
    by_cases two : bits w 57 56 = 2
    · rw [if_pos ((bits_cmd_two w).1 two), two]
      rfl
    · rw [if_neg fun h => two ((bits_cmd_two w).2 h)]
      split
      · next h => exact absurd h one
      · next h => exact absurd h two
      · rfl

theorem State.pfCommand_plain {s : State} {off : Nat} (w : W64) (other : ∀ q < 64, off ≠ 0x1008 + 32 * q) (aligned : off % 8 = 0) :
    s.pfCommand off w = s.pfWrite off w := by
  unfold State.pfCommand
  refine if_neg fun block => ?_
  obtain ⟨q, small, eq⟩ := cmd_offset aligned block
  exact other q small eq

/-! ### The journal, steps and the counters (R422, R425, R426) -/

theorem AMap.get?_adjust {α : Type} (m : AMap α) (k j : Nat) (g : α → α) : (m.adjust k g).get? j = if j = k then (m.get? k).map g else m.get? j := by
  unfold AMap.adjust
  cases found : m.get? k with
  | none =>
    by_cases same : j = k
    · simp [same, found]
    · simp [same]
  | some v => simp [AMap.get?_set]

theorem hdstep_bits (w : W64) : bits w 13 0 = w.toNat % 2 ^ 14 ∧ bits w 21 16 = w.toNat / 2 ^ 16 % 64 := by simp [bits, bitsOf]

theorem bits_high32 (w : W64) : bits w 63 32 = w.toNat / 2 ^ 32 := by
  have small : w.toNat < 2 ^ 64 := w.isLt
  simp only [bits, bitsOf]
  omega

/-- Settles O50. -/
theorem physicalFunctionAccesses : Obligations.PhysicalFunctionAccesses := by
  intro p off w j ids s part runs
  refine ⟨fun passes => ?_, fun fails => ?_, fun active => ?_, fun idle => ?_, ?_, ?_, fun v entry => ?_, fun aligned => ?_,
    fun other aligned => State.pfCommand_plain w other aligned, State.pfCommand_cmd part w, fun active powered => ?_, fun per active due => ?_⟩
  · rw [hpctlCreate_runs part runs, State.createCmd_ok passes]
  · refine ⟨_, hpctlCreate_runs part runs, ?_⟩
    rw [State.createCmd_refused fails]
    exact ⟨State.modPart_rest s p _, by rw [State.part_modPart_self s part]⟩
  · rw [hpctlDestroy_runs part runs]
    exact congrArg _ (if_neg (not_not_intro active))
  · refine ⟨_, hpctlDestroy_runs part runs, ?_⟩
    rw [State.destroyCmd_refused idle, State.part_modPart_self s part]
    exact ⟨rfl, rfl⟩
  · refine ⟨_, hdstepArm_runs part runs w, ?_⟩
    rw [State.part_modPart_self s part, (hdstep_bits w).1, (hdstep_bits w).2]
  · refine ⟨_, hdstepDisarm_runs part runs, ?_⟩
    rw [State.part_modPart_self s part]
  · have run : exec (.hjclr j) s = .next { s with ctl := { s.ctl with journal := s.ctl.journal.adjust j.toNat fun w => w &&& 0xFFFFC03C0000FFFF } } :=
      congrArg _ (if_neg (by simp [runs]))
    refine ⟨_, run, ?_, fun n other => ?_⟩
    · rw [AMap.get?_adjust, if_pos rfl, entry, Option.map_some]
    · rw [AMap.get?_adjust, if_neg other]
  · change execRegisterWrite .pf off 8 w s = _
    unfold execRegisterWrite
    dsimp only
    rw [if_neg (by simp [runs]), if_pos ⟨rfl, aligned⟩]
  · change execLoaderLaunch p ids s = _
    refine (onPart_lt part runs _).trans (congrArg _ (if_neg ?_))
    simp [active, powered]
  · rw [← bits_high32] at per due ⊢
    change execCounterSnapshot p s = _
    refine (onPart_lt part runs _).trans (congrArg _ ((if_neg ?_).trans rfl))
    rintro (none_ | other | early)
    · exact per none_
    · exact other active
    · exact absurd early (Nat.not_lt.2 due)

end Sys2Proof.Machine

end

/-! PROOFS. Span links, samples and the life stores (R378, R379, R423, R427). -/

section

namespace Sys2Proof.Machine

/-! ### The sender's side of a link (R378) -/

namespace Span

/-- The frames of the first n flits of a message: what the replay buffer and SEQ become, and what stays. -/
theorem putFrames (x : Span) (i : Nat) (m : Msg) (n : Nat) :
    (((List.range n).map fun k => (m, k)).foldl (Span.putFrame i) x).replay =
        x.replay ++ (List.range n).map (fun k => (x.seq + BitVec.ofNat 12 k, m, k)) ∧
      (((List.range n).map fun k => (m, k)).foldl (Span.putFrame i) x).seq = x.seq + BitVec.ofNat 12 n ∧
      (((List.range n).map fun k => (m, k)).foldl (Span.putFrame i) x).ack = x.ack ∧
      (((List.range n).map fun k => (m, k)).foldl (Span.putFrame i) x).up = x.up ∧
      (((List.range n).map fun k => (m, k)).foldl (Span.putFrame i) x).waiting = x.waiting := by
  induction n with
  | zero => simp
  | succ n ih =>
    obtain ⟨replay, seq, ack, up, waiting⟩ := ih
    rw [List.range_succ, List.map_append, List.foldl_append, List.map_append]
    refine ⟨?_, ?_, ack, up, waiting⟩
    · change _ ++ [(Span.seq _, m, n)] = _
      rw [replay, seq, List.append_assoc]
      rfl
    · change Span.seq _ + 1 = _
      rw [seq, BitVec.add_assoc, BitVec.ofNat_add]
      rfl

theorem put_replay (x : Span) (i : Nat) (m : Msg) : (x.put i m).replay = x.replay ++ (List.range m.flits).map fun k => (x.seq + BitVec.ofNat 12 k, m, k) :=
  (putFrames x i m m.flits).1

theorem put_seq (x : Span) (i : Nat) (m : Msg) : (x.put i m).seq = x.seq + BitVec.ofNat 12 m.flits := (putFrames x i m m.flits).2.1

@[simp] theorem put_ack (x : Span) (i : Nat) (m : Msg) : (x.put i m).ack = x.ack := (putFrames x i m m.flits).2.2.1

@[simp] theorem put_up (x : Span) (i : Nat) (m : Msg) : (x.put i m).up = x.up := (putFrames x i m m.flits).2.2.2.1

@[simp] theorem put_waiting (x : Span) (i : Nat) (m : Msg) : (x.put i m).waiting = x.waiting := (putFrames x i m m.flits).2.2.2.2

theorem room_iff (x : Span) (m : Msg) : x.room m = true ↔ x.up = true ∧ x.replay.length + m.flits ≤ 1024 := by simp [Span.room]

/-- What a link takes of its waiting messages leaves its acknowledgement and its state as they are. -/
theorem fill_keeps (peer : Msg → Nat) (fuel : Nat) (x : Span) : (x.fill peer fuel).ack = x.ack ∧ (x.fill peer fuel).up = x.up := by
  induction fuel generalizing x with
  | zero => exact ⟨rfl, rfl⟩
  | succ fuel ih =>
    unfold Span.fill
    split
    · exact ⟨rfl, rfl⟩
    · next m since rest _ =>
      split
      · exact ⟨(ih _).1.trans (put_ack ..), (ih _).2.trans (put_up ..)⟩
      · exact ⟨rfl, rfl⟩

/-- Where the replay buffer has room for every waiting message, all of them become frames in their order. -/
theorem fill_all (peer : Msg → Nat) (x : Span) (up : x.up = true) (room : x.replay.length + (x.waiting.map fun e => e.1.flits).sum ≤ 1024) :
    (x.fill peer x.waiting.length).waiting = [] ∧
      (x.fill peer x.waiting.length).replay.map (·.2) = x.replay.map (·.2) ++ x.waiting.flatMap fun e => (List.range e.1.flits).map fun n => (e.1, n) := by
  generalize all : x.waiting = l at room
  induction l generalizing x with
  | nil => exact ⟨all, by simp [Span.fill]⟩
  | cons e rest ih =>
    rw [List.map_cons, List.sum_cons] at room
    have fits : x.room e.1 = true := (room_iff x e.1).2 ⟨up, by omega⟩
    have step : x.fill peer (e :: rest).length = (Span.put { x with waiting := rest } (peer e.1) e.1).fill peer rest.length := by
      rw [List.length_cons, Span.fill, all]
      exact if_pos fits
    obtain ⟨none_, frames⟩ := ih (Span.put { x with waiting := rest } (peer e.1) e.1) ((put_up ..).trans up) (put_waiting ..) (by
      rw [put_replay, List.length_append, List.length_map, List.length_range]
      exact Nat.le_trans (Nat.le_of_eq (Nat.add_assoc ..)) room)
    rw [step]
    refine ⟨none_, frames.trans ?_⟩
    rw [put_replay, List.map_append, List.map_map, List.flatMap_cons, List.append_assoc]
    rfl

theorem acked_ack (x : Span) (peer : Msg → Nat) (ack : BitVec 12) : (x.acked peer ack).ack = x.ack := (fill_keeps peer _ _).1

theorem acked_none {x : Span} (peer : Msg → Nat) (ack : BitVec 12) (none_ : x.waiting = []) :
    (x.acked peer ack).replay = x.replay.filter fun e => !seqUpTo e.1 ack := by
  unfold Span.acked
  simp [none_, Span.fill]

/-- Frames that go out again follow what the link has sent. -/
theorem again_frames (peer : Msg → Nat) (l : List (BitVec 12 × Msg × Nat)) (x : Span) :
    (l.foldl (fun (x : Span) e => x.frame e.1 (peer e.2.1) e.2) x).sent.map (·.2) = x.sent.map (·.2) ++ l.map (·.2) ∧
      (l.foldl (fun (x : Span) e => x.frame e.1 (peer e.2.1) e.2) x).replay = x.replay := by
  induction l generalizing x with
  | nil => simp
  | cons e rest ih =>
    obtain ⟨sent, replay⟩ := ih (x.frame e.1 (peer e.2.1) e.2)
    refine ⟨sent.trans ?_, replay⟩
    simp [Span.frame]

end Span

theorem flits_name {m : Msg} {op : NameOp} {y : NameMsg} (body : m.body = .name op y) : m.flits = max 1 ((y.bytes.length + 127) / 128) := by
  unfold Msg.flits
  rw [body]

/-! ### The events of a link (R378, R379) -/

theorem onLink_halted {l : Nat} {s : State} (link : l < Config.numSpans) (halted : s.ctl.halted = true) (g : State → State) : onLink l s g = .next s := by
  simp [onLink, link, halted]

theorem onLink_lt {l : Nat} {s : State} (link : l < Config.numSpans) (runs : s.ctl.halted = false) (g : State → State) : onLink l s g = .next (g s) := by
  simp [onLink, link, runs]

theorem State.modSpan_congr {s : State} {l : Nat} {g h : Span → Span} (same : g (s.span l) = h (s.span l)) : s.modSpan l g = s.modSpan l h := by
  unfold State.modSpan
  rw [same]

/-- What follows the drop of a publish at its sender (R379). -/
def State.publishGone (u : State) (src : Agent) (n : NameMsg) : State :=
  match src with
  | .tile t => u.answered t n.origin .order
  | .gateway p => u.gatewayAck p { n with accepted := false }
  | _ => u

/-- The events of a link in a module that has halted. -/
theorem link_halted {l i : Nat} {s : State} {header : BitVec 96} {flit : Option SpanFlit} {ok : Bool} (link : l < Config.numSpans) (halted : s.ctl.halted = true) :
    ∀ e ∈ [Instr.spanFrameReceive l header ok flit, .spanReplay l, .spanLinkDown l, .spanLinkUp l, .spanPublishDrop l i], exec e s = .next s := by
  intro e among
  simp only [List.mem_cons, List.not_mem_nil, or_false] at among
  rcases among with rfl | rfl | rfl | rfl | rfl
  · change execSpanFrameReceive l header ok flit s = _
    exact onLink_halted link halted _
  · change execSpanReplay l s = _
    exact onLink_halted link halted _
  · change execSpanLinkDown l s = _
    exact onLink_halted link halted _
  · change execSpanLinkUp l s = _
    exact onLink_halted link halted _
  · change execSpanPublishDrop l i s = _
    exact onLink_halted link halted _

section

variable {l : Nat} {s : State} {header : BitVec 96} {flit : Option SpanFlit} (link : l < Config.numSpans) (runs : s.ctl.halted = false)
include link runs

theorem frameReceive_bad : exec (.spanFrameReceive l header false flit) s = .next s := by
  change execSpanFrameReceive l header false flit s = _
  exact onLink_lt link runs _

theorem frameReceive_down (down : (s.span l).up = false) : exec (.spanFrameReceive l header true flit) s = .next s := by
  change execSpanFrameReceive l header true flit s = _
  unfold execSpanFrameReceive
  rw [onLink_lt link runs, if_pos (by simp [down])]

theorem frameReceive_outOfOrder (up : (s.span l).up = true) (other : header.extractLsb' 84 12 ≠ (s.span l).ack + 1) :
    exec (.spanFrameReceive l header true flit) s = .next (s.modSpan l fun x => x.acked s.peerOf (header.extractLsb' 72 12)) := by
  change execSpanFrameReceive l header true flit s = _
  unfold execSpanFrameReceive
  rw [onLink_lt link runs, if_neg (by simp [up])]
  dsimp only
  rw [State.span_modSpan_self, Span.acked_ack, if_pos other]

/-- A frame that is next in order, up to what it carries. -/
theorem frameReceive_inOrder (up : (s.span l).up = true) (next : header.extractLsb' 84 12 = (s.span l).ack + 1) :
    let s' : State := (s.modSpan l fun x => x.acked s.peerOf (header.extractLsb' 72 12)).modSpan l fun y =>
      y.received (header.extractLsb' 84 12) (header.extractLsb' 69 3).toNat (header.extractLsb' 56 7).toNat
    exec (.spanFrameReceive l header true flit) s = .next (
      if (header.extractLsb' 69 3).toNat ≥ 3 then s'.spanDrop (header.extractLsb' 63 6).toNat
      else flit.elim s' fun k => if (header.extractLsb' 69 3).toNat = 2 then s'
        else (((s'.span l).assemble (header.extractLsb' 69 3).toNat k).2).elim (s'.modSpan l fun _ => ((s'.span l).assemble (header.extractLsb' 69 3).toNat k).1)
          fun m => (s'.modSpan l fun _ => ((s'.span l).assemble (header.extractLsb' 69 3).toNat k).1).spanDeliver l (header.extractLsb' 63 6).toNat m) := by
  intro s'
  change execSpanFrameReceive l header true flit s = _
  unfold execSpanFrameReceive
  rw [onLink_lt link runs, if_neg (by simp [up])]
  dsimp only
  rw [State.span_modSpan_self, Span.acked_ack, if_neg (not_not_intro next)]
  refine congrArg _ (ite_congr rfl (fun _ => rfl) fun _ => ?_)
  cases flit with
  | none => rfl
  | some k =>
    refine ite_congr rfl (fun _ => rfl) fun _ => ?_
    change (match ((s'.span l).assemble (header.extractLsb' 69 3).toNat k).2 with | some k => _ | none => _) = _
    cases ((s'.span l).assemble (header.extractLsb' 69 3).toNat k).2 <;> rfl

theorem frameReceive_lands {k : SpanFlit} (up : (s.span l).up = true) (next : header.extractLsb' 84 12 = (s.span l).ack + 1)
    (small : (header.extractLsb' 69 3).toNat < 2) :
    let x := s.span l
    let acked := x.acked s.peerOf (header.extractLsb' 72 12)
    let cls := (header.extractLsb' 69 3).toNat
    let came := acked.received (header.extractLsb' 84 12) cls (header.extractLsb' 56 7).toNat
    let before := if cls = 0 then acked.parts.1 else acked.parts.2
    let kept (l : List Byte) : Span := { came with parts := if cls = 0 then (l, acked.parts.2) else (acked.parts.1, l) }
    exec (.spanFrameReceive l header true (some k)) s = .next (if k.left = 0 then
      (s.modSpan l fun _ => kept []).spanDeliver l (header.extractLsb' 63 6).toNat { k with bytes := before ++ k.bytes }
      else s.modSpan l fun _ => kept (before ++ k.bytes)) := by
  intro x acked cls came before kept
  rw [frameReceive_inOrder link runs up next, if_neg (by omega), Option.elim_some, if_neg (by omega), State.span_modSpan_self, State.span_modSpan_self, State.modSpan_modSpan, State.modSpan_modSpan]
  by_cases whole : k.left = 0 <;> simp only [Span.assemble, whole, if_true, if_false, Option.elim_some, Option.elim_none] <;> rfl

theorem spanReplay_again (up : (s.span l).up = true) (some_ : (s.span l).replay ≠ []) :
    exec (.spanReplay l) s = .next (State.modSpan { s with ctl := { s.ctl with
      replays := s.ctl.replays.set l (s.ctl.replays.getD l 0 + 1) } } l fun x => x.again s.peerOf) := by
  change execSpanReplay l s = _
  unfold execSpanReplay
  rw [onLink_lt link runs, if_neg (by simp [up, some_])]

theorem spanLinkDown_cuts (up : (s.span l).up = true) :
    exec (.spanLinkDown l) s = .next (State.lapseWaiting (s.parts.foldl (fun (s : State) e => if e.2.st = 2 then s.cutBranches l e.1 else s)
      (s.modSpan l fun x => { x with up := false })) l) := by
  change execSpanLinkDown l s = _
  unfold execSpanLinkDown
  rw [onLink_lt link runs, if_neg (by simp [up])]
  rfl

theorem spanLinkUp_fills : exec (.spanLinkUp l) s = .next (s.modSpan l fun x => Span.fill { x with up := true } s.peerOf x.waiting.length) := by
  change execSpanLinkUp l s = _
  exact onLink_lt link runs _

theorem spanPublishDrop_drops {i : Nat} {src d : Agent} {cls : Cls} {n : NameMsg} {b since : Nat} {sm : Bool}
    (waits : (s.span l).waiting[i]? = some (⟨src, d, cls, .name .publish n, b, sm⟩, since)) (down : (s.span l).up = false) (late : since + s.stallOf src ≤ s.quartz) :
    exec (.spanPublishDrop l i) s = .next ((((s.modSpan l fun y => { y with waiting := y.waiting.eraseIdx i }).stat (s.agentPart src) 0x80).spanDrop
      (s.agentPart src)).publishGone src n) := by
  change execSpanPublishDrop l i s = _
  unfold execSpanPublishDrop
  rw [onLink_lt link runs, waits]
  dsimp only
  rw [if_neg (by simp [down, late])]
  rfl

end

/-! ### Samples and life stores (R423, R427) -/

/-- The hub's store after one more count of a word. -/
theorem State.life_word (s : State) (f i n k : Nat) :
    ((s.life f i n).hub f).life.getD k 0 = if k = i then (s.hub f).life.getD i 0 + n else (s.hub f).life.getD k 0 := by
  rw [State.life, State.hub_modHub_self]
  exact AMap.getD_set ..

theorem State.life_hubs (s : State) (f i n : Nat) : s.life f i n = { s with hubs := (s.life f i n).hubs } := rfl

/-- What LIFE_SAMPLE counts at a temperature and a rail voltage. -/
def State.lifeCounts (s : State) (f : Nat) (temp : BitVec 16) (mv : Nat) : State :=
  ((if temp.toInt < -320 then s else s.life f (0x10 + tempBin temp.toInt) 1).life f (0x30 + voltBin mv) 1).life f 10 1

theorem State.lifeCounts_hubs (s : State) (f : Nat) (temp : BitVec 16) (mv : Nat) :
    s.lifeCounts f temp mv = { s with hubs := (s.lifeCounts f temp mv).hubs } := by
  unfold State.lifeCounts
  split <;> rfl

theorem State.lifeCounts_volt (s : State) (f : Nat) (temp : BitVec 16) (mv : Nat) :
    ((s.lifeCounts f temp mv).hub f).life.getD (0x30 + voltBin mv) 0 = (s.hub f).life.getD (0x30 + voltBin mv) 0 + 1 := by
  have apart : 0x30 + voltBin mv ≠ 0x10 + tempBin temp.toInt := by unfold tempBin; omega
  unfold State.lifeCounts
  rw [State.life_word, if_neg (by omega), State.life_word, if_pos rfl]
  split
  · rfl
  · rw [State.life_word, if_neg apart]

theorem State.lifeCounts_samples (s : State) (f : Nat) (temp : BitVec 16) (mv : Nat) :
    ((s.lifeCounts f temp mv).hub f).life.getD 10 0 = (s.hub f).life.getD 10 0 + 1 := by
  unfold State.lifeCounts
  rw [State.life_word, if_pos rfl, State.life_word, if_neg (by omega)]
  split
  · rfl
  · rw [State.life_word, if_neg (by omega)]

theorem State.lifeCounts_temp (s : State) (f : Nat) {temp : BitVec 16} (mv : Nat) (warm : -320 ≤ temp.toInt) :
    ((s.lifeCounts f temp mv).hub f).life.getD (0x10 + tempBin temp.toInt) 0 = (s.hub f).life.getD (0x10 + tempBin temp.toInt) 0 + 1 := by
  have apart : 0x10 + tempBin temp.toInt ≠ 0x30 + voltBin mv := by unfold tempBin; omega
  unfold State.lifeCounts
  rw [if_neg (by omega), State.life_word, if_neg (by omega), State.life_word, if_neg apart, State.life_word, if_pos rfl]

theorem lifeSample_runs {f mv : Nat} {temp : BitVec 16} {s : State} (field : f < Config.numFields) (due : (s.hub f).sampleTick + 2 ^ 20 ≤ s.quartz)
    (powered : (s.hub f).powered = true) : exec (.lifeSample f temp mv) s =
      .next ((State.sensed (s.modHub f fun h => { h with sampleTick := s.quartz }) f temp).lifeCounts f temp mv) := by
  change execLifeSample f temp mv s = _
  unfold execLifeSample
  rw [onField_lt field, if_neg (by simp [powered]; omega)]
  rfl

theorem lifeSample_early {f mv : Nat} {temp : BitVec 16} {s : State} (field : f < Config.numFields) (early : s.quartz < (s.hub f).sampleTick + 2 ^ 20) :
    exec (.lifeSample f temp mv) s = .next s := by
  change execLifeSample f temp mv s = _
  unfold execLifeSample
  rw [onField_lt field, if_pos (.inl early)]

theorem lifeStorePersist_runs {f : Nat} {s : State} (field : f < Config.numFields) :
    exec (.lifeStorePersist f) s = .next (s.modHub f fun h => { h with lifePersisted := h.life, persistTick := s.quartz }) := by
  change execLifeStorePersist f s = _
  exact onField_lt field _

/-- The turn lists of the tiles stay where a write changes neither their routes nor their fences. -/
theorem State.route_modN (s : State) (t : Nat) {g : NDom → NDom} (fences : (g (s.n t)).fences = (s.n t).fences) (routes : (g (s.n t)).routes = (s.n t).routes) :
    (s.modN t g).route = s.route := by
  have stays (a : Nat) : ((s.modN t g).n a).fences = (s.n a).fences ∧ ((s.modN t g).n a).routes = (s.n a).routes := by
    rw [State.n_modN]
    split
    · next same =>
      subst same
      exact ⟨fences, routes⟩
    · exact ⟨rfl, rfl⟩
  funext a dst plane
  unfold State.route State.written
  rw [(stays a).1, (stays a).2]

theorem State.trailOf_modN (s : State) (t u : Nat) (m : Msg) {g : NDom → NDom} (fences : (g (s.n t)).fences = (s.n t).fences)
    (routes : (g (s.n t)).routes = (s.n t).routes) : (s.modN t g).trailOf u m = s.trailOf u m := by
  unfold State.trailOf State.forwarders
  rw [State.route_modN s t fences routes]
  rfl

theorem tokenSampleEject_runs {t i : Nat} {s : State} {m : Msg} (tile : t < Config.numTiles) (found : (s.n t).samples[i]? = some m) :
    exec (.tokenSampleEject t i) s = .next (State.publishRecord
      { s.modN t (fun n => { n with samples := n.samples.eraseIdx i }) with freeCtr := s.freeCtr + (s.trailOf t m).2.2.length }
      (.tile t) (s.partOf t) traceTensor 0 true (s.sampleWords t m)) := by
  change execTokenSampleEject t i s = _
  unfold execTokenSampleEject
  rw [onTile_lt tile, found]
  dsimp only
  rw [State.trailOf_modN s t t m (g := fun n => { n with samples := n.samples.eraseIdx i }) rfl rfl]
  rfl

/-- Settles O51. -/
theorem spanLinksSamplesAndLife : Obligations.SpanLinksSamplesAndLife := by
  intro l t i f mv temp header flit s link tile field x acked
  refine ⟨fun halted ok => link_halted link halted, fun runs => ⟨fun up other => ?_, fun k up next small carried => ?_,
    fun m => ⟨x.put_replay i m, x.put_seq i m, fun op y body => flits_name body, x.room_iff m⟩, fun seq => ⟨rfl, rfl, rfl, rfl, rfl⟩,
    fun ack none_ => Span.acked_none _ ack none_, fun up next big => ?_, frameReceive_down link runs, frameReceive_bad link runs,
    spanReplay_again link runs, Span.again_frames _ _ _, spanLinkDown_cuts link runs, ?_,
    fun src d cls n b sm since waits down late => (spanPublishDrop_drops link runs waits down late).trans (by cases src <;> rfl)⟩,
    fun m found => tokenSampleEject_runs tile found, ?_, fun due powered => ?_, lifeSample_early field⟩
  · exact ⟨_, frameReceive_outOfOrder link runs up other, State.span_modSpan_self .., rfl⟩
  · rw [carried]
    exact frameReceive_lands link runs up next (by simpa [BitVec.lt_def] using small)
  · rw [frameReceive_inOrder link runs up next, if_pos big]
    refine congrArg _ (congrArg (fun u : State => u.spanDrop _) ?_)
    rw [State.modSpan_modSpan, State.modSpan_modSpan]
    exact State.modSpan_congr rfl
  · refine ⟨_, spanLinkUp_fills link runs, ?_⟩
    rw [State.span_modSpan_self]
    refine ⟨(Span.fill_keeps ..).2, fun room => ?_⟩
    rw [← List.sum_eq_foldl] at room
    exact Span.fill_all s.peerOf { s.span l with up := true } rfl room
  · refine ⟨_, lifeStorePersist_runs field, ?_⟩
    rw [State.hub_modHub_self]
    exact ⟨rfl, rfl, rfl⟩
  · exact ⟨_, lifeSample_runs field due powered, State.lifeCounts_hubs .., State.lifeCounts_volt .., State.lifeCounts_samples .., State.lifeCounts_temp _ _ _⟩

end Sys2Proof.Machine

end

/-! PROOFS. Parking, restore, the watchdogs and the thermal levels (R386 to R393, R415 to R417). -/

section

namespace Sys2Proof.Machine

/-! ### Parking and restore (R389, R393) -/

section

variable {t f : Nat} {s : State} (tile : t < Config.numTiles)
include tile

theorem preemptMarker_marks (powered : (s.tile t).powered = true) (asked : (s.frame t f).park = .asked) (runs : (s.frame t f).st = .active ∨ (s.frame t f).st = .trapped) :
    exec (.preemptMarkerEffect t f) s = .next (s.mark t f) := by
  change execPreemptMarkerEffect t f s = _
  unfold execPreemptMarkerEffect
  rw [onTile_lt tile, if_neg (by simp [powered]), if_pos asked, if_pos runs]

/-- The instances of a parked frame that return to COMPLETE at its cutoff (R340, R389). -/
def State.cutoffBack (s : State) (t f : Nat) : State :=
  ((s.c t).issued.filter fun x => x.set.frame == f && x.withheld).foldl (fun s x => (s.withdraw t x).modC t fun c => { c with sets := c.sets ++ [x.set] }) s

omit tile in
theorem State.frame_mark (s : State) (t f : Nat) : (s.mark t f).frame t f = { s.frame t f with park := .marked (s.c t).cycle } := by
  rw [State.mark, State.frame_modC_self, CDom.frame_modFrame_self]
  rfl

theorem parkIssueCutoff_cuts {k : Nat} (marked : (s.frame t f).park = .marked k) (due : k + 4096 ≤ (s.c t).cycle ∨ s.issuesNothing t f = true) :
    exec (.parkIssueCutoff t f) s = .next ((s.cutoffBack t f).modFrame t f fun fr => { fr with park := .cutoff }) := by
  change execParkIssueCutoff t f s = _
  unfold execParkIssueCutoff
  rw [onTile_lt tile, marked]
  dsimp only
  rw [if_neg]
  · rfl
  · rintro ⟨early, busy⟩
    rcases due with late | none_
    · omega
    · simp [none_] at busy

theorem frameRestore_seats {i : Nat} {x : Image} {q : Seat} (found : ((s.tile t).slate.images.filter fun x => x.asked)[i]? = some x)
    (powered : (s.tile t).powered = true) (room : (s.c t).seat x = some q) : exec (.frameRestore t i) s = .next (s.seatImage t x q) := by
  change execFrameRestore t i s = _
  unfold execFrameRestore
  rw [onTile_lt tile, found]
  dsimp only
  rw [if_neg (by simp [powered]), room]

/-! ### Watchdogs (R387, R388) -/

theorem frameWatchdog_aborts {n : Nat} (limit : (s.part (s.frame t f).part).watchLimit = some n) (task : f < 63) (late : n ≤ (s.frame t f).watch)
    (runs : (s.frame t f).st = .active ∨ (s.frame t f).st = .trapped) :
    exec (.frameWatchdogExpiry t f) s = .next (s.abortFrame t f ⟨0, 0, 0, 0, 0⟩ { cause := .wdog, cw2 := w64 (s.waitsOn t f), cw3 := w64 (s.frame t f).watch }) := by
  change execFrameWatchdogExpiry t f s = _
  unfold execFrameWatchdogExpiry
  rw [onTile_lt tile]
  dsimp only
  rw [limit]
  refine congrArg _ (if_neg ?_)
  rintro (system | under | idle)
  · omega
  · omega
  · rcases runs with h | h <;> simp [h] at idle

theorem tileWatchdog_resets (late : 65536 ≤ (s.c t).tileWatch) (powered : (s.tile t).powered = true) :
    exec (.tileWatchdogExpiry t) s = .next (((s.lose t 3 none).modC t fun c => { c with health := true }).life (fieldOf t) 6 1) := by
  change execTileWatchdogExpiry t s = _
  unfold execTileWatchdogExpiry
  rw [onTile_lt tile, if_neg (by simp [powered]; omega)]

end

/-! ### The levels of a field (R415, R416) -/

/-- What a reading of the sensor leaves for the level: a rise, a fall or neither. -/
def State.levelled (read : State) (h : Nat) (temp : Int) : State :=
  if (read.hub h).level < (read.hub h).levelAt temp then read.levelRise h ((read.hub h).levelAt temp)
  else if (read.hub h).level ≠ 0 ∧ temp ≤ (read.hub h).threshold (read.hub h).level - 80 then read.levelFall h else read

theorem State.sensed_eq (s : State) (h : Nat) (temp : BitVec 16) :
    s.sensed h temp = ((s.modHub h fun y => { y with temp := temp }).levelled h temp.toInt).tempAlarm h temp := rfl

section

variable (s : State) (h : Nat) (temp : BitVec 16)

theorem State.sensed_rise (rise : (s.hub h).level < (s.hub h).levelAt temp.toInt) :
    s.sensed h temp = ((s.modHub h fun y => { y with temp := temp }).levelRise h ((s.hub h).levelAt temp.toInt)).tempAlarm h temp := by
  rw [State.sensed_eq, State.levelled, State.hub_modHub_self]
  exact congrArg (fun u : State => u.tempAlarm h temp) (if_pos rise)

theorem State.sensed_fall (noRise : (s.hub h).levelAt temp.toInt ≤ (s.hub h).level) (some_ : (s.hub h).level ≠ 0)
    (cool : temp.toInt ≤ (s.hub h).threshold (s.hub h).level - 80) :
    s.sensed h temp = ((s.modHub h fun y => { y with temp := temp }).levelFall h).tempAlarm h temp := by
  rw [State.sensed_eq, State.levelled, State.hub_modHub_self]
  exact congrArg (fun u : State => u.tempAlarm h temp) ((if_neg (Nat.not_lt.2 noRise)).trans (if_pos ⟨some_, cool⟩))

theorem State.sensed_stay (noRise : (s.hub h).levelAt temp.toInt ≤ (s.hub h).level)
    (warm : (s.hub h).level = 0 ∨ (s.hub h).threshold (s.hub h).level - 80 < temp.toInt) :
    s.sensed h temp = (s.modHub h fun y => { y with temp := temp }).tempAlarm h temp := by
  rw [State.sensed_eq, State.levelled, State.hub_modHub_self]
  refine congrArg (fun u : State => u.tempAlarm h temp) ((if_neg (Nat.not_lt.2 noRise)).trans (if_neg ?_))
  rintro ⟨some_, cool⟩
  rcases warm with none_ | warm
  · exact some_ none_
  · exact absurd cool (Int.not_le.2 warm)

/-- The state that has counted the levels entered. -/
def State.levelsCounted (s : State) (h old new : Nat) : State :=
  (List.range 3).foldl (fun s k => if old < k + 1 ∧ k + 1 ≤ new then s.life h (7 + k) 1 else s) s

/-- The counts of levels touch only the words of the life store. -/
theorem State.levelsCounted_hub (s : State) (h old new : Nat) :
    ((s.levelsCounted h old new).hub h).level = (s.hub h).level ∧ ((s.levelsCounted h old new).hub h).crit = (s.hub h).crit ∧
      ((s.levelsCounted h old new).hub h).temp = (s.hub h).temp ∧ (s.levelsCounted h old new).quartz = s.quartz := by
  unfold State.levelsCounted
  generalize List.range 3 = l
  induction l generalizing s with
  | nil => exact ⟨rfl, rfl, rfl, rfl⟩
  | cons k l ih =>
    rw [List.foldl_cons]
    split
    · obtain ⟨level, crit, temp, quartz⟩ := ih (s.life h (7 + k) 1)
      refine ⟨level.trans ?_, crit.trans ?_, temp.trans ?_, quartz⟩ <;> rw [State.life, State.hub_modHub_self]
    · exact ih s

theorem State.levelRise_eq (s : State) (h n : Nat) :
    s.levelRise h n = if n = 3 ∧ (s.hub h).crit.isNone then
        State.critSweep (((s.modHub h fun y => { y with level := n }).levelsCounted h (s.hub h).level n).modHub h fun y =>
          { y with crit := some ((s.modHub h fun y => { y with level := n }).levelsCounted h (s.hub h).level n).quartz }) h
      else (s.modHub h fun y => { y with level := n }).levelsCounted h (s.hub h).level n := rfl

theorem State.levelRise_plain {n : Nat} (plain : n < 3 ∨ (s.hub h).crit.isSome = true) :
    ((s.levelRise h n).hub h).level = n ∧ ((s.levelRise h n).hub h).crit = (s.hub h).crit ∧ ((s.levelRise h n).hub h).temp = (s.hub h).temp := by
  have noSweep : ¬ (n = 3 ∧ (s.hub h).crit.isNone) := by
    rintro ⟨rfl, none_⟩
    rcases plain with low | some_
    · omega
    · simp_all
  obtain ⟨level, crit, temp, -⟩ := State.levelsCounted_hub (s.modHub h fun y => { y with level := n }) h (s.hub h).level n
  rw [State.levelRise_eq, if_neg noSweep, level, crit, temp, State.hub_modHub_self]
  exact ⟨rfl, rfl, rfl⟩

theorem State.levelRise_critical (calm : (s.hub h).crit = none) :
    ∃ u : State, s.levelRise h 3 = u.critSweep h ∧ (u.hub h).crit = some s.quartz ∧ (u.hub h).level = 3 := by
  obtain ⟨level, -, -, quartz⟩ := State.levelsCounted_hub (s.modHub h fun y => { y with level := 3 }) h (s.hub h).level 3
  refine ⟨_, (State.levelRise_eq ..).trans (if_pos ⟨rfl, by simp [calm]⟩), ?_⟩
  rw [State.hub_modHub_self]
  refine ⟨congrArg some quartz, level.trans ?_⟩
  rw [State.hub_modHub_self]

theorem State.levelFall_eq (s : State) (h : Nat) :
    s.levelFall h = if (s.hub h).level - 1 < 2 ∧ (s.hub h).crit.isSome ∧ !s.ctl.alarmOff then (s.modHub h fun y => { y with level := y.level - 1 }).cooled h
      else s.modHub h fun y => { y with level := y.level - 1 } := rfl

theorem State.tempAlarm_out (out : temp.toInt < -320 ∨ (s.hub h).threshold 3 + 240 < temp.toInt) : s.tempAlarm h temp = s.fullAlarm 3 := if_pos out

theorem State.tempAlarm_within (low : -320 ≤ temp.toInt) (high : temp.toInt ≤ (s.hub h).threshold 3 + 240) : s.tempAlarm h temp = s :=
  if_neg (by omega)

end

theorem criticalRailRemoval_removes {h q : Nat} {s : State} (field : h < Config.numFields) (crit : (s.hub h).crit = some q) (on : (s.hub h).railsOff = false)
    (due : (s.fieldFrames h).isEmpty = true ∨ q + 1100000 ≤ s.quartz) : exec (.criticalRailRemoval h) s = .next (s.removeRails h) := by
  change execCriticalRailRemoval h s = _
  unfold execCriticalRailRemoval
  rw [onField_lt field]
  dsimp only
  rw [crit]
  exact congrArg _ (if_pos ⟨by simp [on], due⟩)

/-- Settles O47. -/
theorem preemptionWatchdogsAndHeat : Obligations.PreemptionWatchdogsAndHeat := by
  intro t f i h temp s tile field fr x level read
  have readHub : read.hub h = { x with temp := temp } := State.hub_modHub_self ..
  have alarmOff : read.ctl.alarmOff = s.ctl.alarmOff := rfl
  have rises : exec (.thermalLevelRise h temp) s = .next (s.sensed h temp) := by
    change execThermalLevelRise h temp s = _
    exact onField_lt field _
  have falls : exec (.thermalLevelFall h temp) s = .next (s.sensed h temp) := by
    change execThermalLevelFall h temp s = _
    exact onField_lt field _
  refine ⟨fun powered asked runs => ⟨_, preemptMarker_marks tile powered asked runs, State.frame_mark ..⟩,
    fun k marked due => ⟨_, parkIssueCutoff_cuts tile marked due, ?_⟩, fun x q found powered room => frameRestore_seats tile found powered room,
    fun n limit task late runs => frameWatchdog_aborts tile limit task late runs, tileWatchdog_resets tile, rises, falls,
    State.sensed_rise s h temp, State.sensed_fall s h temp, State.sensed_stay s h temp, fun n plain => ?_, fun calm => ?_, ⟨fun low some_ on => ?_, fun not => ?_⟩,
    fun u => ⟨State.tempAlarm_out u h temp, State.tempAlarm_within u h temp⟩, fun q crit on due => criticalRailRemoval_removes field crit on due⟩
  · rw [State.frame_modFrame_self]
  · have plain' : n < 3 ∨ (read.hub h).crit.isSome = true := by rwa [readHub]
    obtain ⟨atLevel, crit, temp⟩ := State.levelRise_plain read h plain'
    rw [readHub] at crit temp
    exact ⟨atLevel, crit, temp⟩
  · exact State.levelRise_critical read h (by rwa [readHub])
  · rw [State.levelFall_eq, readHub, alarmOff]
    exact if_pos ⟨low, some_, by simpa using on⟩
  · rw [State.levelFall_eq, readHub, alarmOff]
    exact if_neg fun ⟨low, some_, on⟩ => not ⟨low, some_, by simpa using on⟩

end Sys2Proof.Machine

end

/-! PROOFS. Requests, probe acknowledgements and writebacks at a home slice (R99, R107, R109, R110, R132, R138, R333). -/

section

namespace Sys2Proof.Machine

theorem State.Sent.fshared {s u : State} (h : s.Sent u) (t : Nat) : (u.n t).fshared = (s.n t).fshared := Eq.trans (congrArg NDom.fshared (h.n t)) rfl

theorem State.Sent.kept {s u : State} (h : s.Sent u) (t : Nat) : (u.n t).kept = (s.n t).kept := Eq.trans (congrArg NDom.kept (h.n t)) rfl

theorem State.Sent.lines {s u : State} (h : s.Sent u) (t : Nat) : (u.n t).lines = (s.n t).lines := Eq.trans (congrArg NDom.lines (h.n t)) rfl

/-! ### Field-shared accesses (R99, R138, R304, R333) -/

theorem State.sent_homeAnswer (s : State) (t : Nat) (r : HomeReq) (data : List Byte) (v : W64) : s.Sent (s.homeAnswer t r data v) := by
  unfold State.homeAnswer
  split <;> exact State.Sent.post ..

theorem State.fshared_homeAnswer (s : State) (t : Nat) (r : HomeReq) (data : List Byte) (v : W64) :
    ((s.homeAnswer t r data v).n t).fshared = (s.n t).fshared := (s.sent_homeAnswer t r data v).fshared t

/-- Signal waits that end change no memory. -/
theorem State.fshared_signals (s : State) (t : Nat) (r : HomeReq) : ((s.signals t r).n t).fshared = (s.n t).fshared := by
  unfold State.signals
  refine ((State.Sent.foldl _ (fun s w => s.sent_homeAnswer t w [] 0) _).fshared t).trans ?_
  rw [State.n_modN_self]

section

variable {s : State} {t : Nat} {r : HomeReq} (fsh : r.fsh = true)
include fsh

theorem State.enterHome_fsh : s.enterHome t r = s.applyReq t r := if_pos fsh

theorem State.homeBytes_fsh (a n : Nat) : s.homeBytes t r a n = (s.n t).fshared.readBytes a n := if_pos fsh

theorem State.fshared_homePut (bs : List Byte) : ((s.homePut t r bs).n t).fshared = (s.n t).fshared.writeBytes r.addr bs := by
  rw [State.homePut, if_pos fsh, State.n_modN_self]

end

/-- A note of an effect's number changes only the numbers noted. -/
theorem NDom.noteApplied_eq (n : NDom) (a : Agent) (o : Nat) (router : Bool) :
    n.noteApplied a o router = { n with applied := (n.noteApplied a o router).applied } := by
  unfold NDom.noteApplied
  split
  · split <;> rfl
  · rfl

theorem State.fshared_noted (s : State) (t : Nat) (a : Agent) (o : Nat) : ((s.modN t fun n => n.noteApplied a o).n t).fshared = (s.n t).fshared := by
  rw [State.n_modN_self, NDom.noteApplied_eq]

theorem State.kept_noted (s : State) (t : Nat) (a : Agent) (o : Nat) : ((s.modN t fun n => n.noteApplied a o).n t).kept = (s.n t).kept := by
  rw [State.n_modN_self, NDom.noteApplied_eq]

section

variable {s : State} {t : Nat} {r : HomeReq} (fsh : r.fsh = true)
include fsh

theorem State.applyReq_load (op : r.op = .load) :
    s.applyReq t r = (s.modN t fun n => n.noteApplied r.sender r.oseq).homeAnswer t r ((s.n t).fshared.readBytes r.addr r.size) 0 := by
  unfold State.applyReq
  rw [op]
  dsimp only
  rw [State.homeBytes_fsh fsh, State.fshared_noted]

theorem State.applyReq_write (op : r.op = .write) (first : r.resent = false) :
    ((s.applyReq t r).n t).fshared = (s.n t).fshared.writeBytes r.addr r.data := by
  unfold State.applyReq
  rw [op]
  dsimp only
  rw [if_neg (by simp [first]), State.fshared_homeAnswer, State.fshared_signals, State.fshared_homePut fsh, State.fshared_noted]

theorem State.applyReq_sigwait (op : r.op = .sigwait) (ripe : r.b.toNat ≤ fromBytes ((s.n t).fshared.readBytes r.addr 8)) :
    s.applyReq t r = (s.modN t fun n => n.noteApplied r.sender r.oseq).homeAnswer t r [] 0 := by
  unfold State.applyReq
  rw [op]
  dsimp only
  rw [if_pos (by rwa [State.homeBytes_fsh fsh, State.fshared_noted])]

theorem State.applyAtomic_new {op : Nat} (atomic : r.op = .atomic op) (new : (s.n t).kept.get? r.keptKey = none) :
    ((s.applyAtomic t r).n t).fshared = (s.n t).fshared.writeBytes r.addr (toBytes (atomicNew op r.size (fromBytes ((s.n t).fshared.readBytes r.addr r.size))
      (r.b.toNat % 256 ^ r.size) (r.d.toNat % 256 ^ r.size)) r.size) := by
  unfold State.applyAtomic
  rw [new, atomic]
  dsimp only
  rw [if_neg (Nat.not_lt_zero _), if_neg (by simp), State.fshared_homeAnswer, State.fshared_signals, State.n_modN_self, State.homeBytes_fsh fsh,
    State.fshared_homePut fsh]

theorem State.applyReq_atomic {op : Nat} (atomic : r.op = .atomic op) (new : (s.n t).kept.get? r.keptKey = none) :
    ((s.applyReq t r).n t).fshared = (s.n t).fshared.writeBytes r.addr (toBytes (atomicNew op r.size (fromBytes ((s.n t).fshared.readBytes r.addr r.size))
      (r.b.toNat % 256 ^ r.size) (r.d.toNat % 256 ^ r.size)) r.size) := by
  unfold State.applyReq
  rw [atomic]
  dsimp only
  rw [State.applyAtomic_new fsh atomic (by rwa [State.kept_noted]), State.fshared_noted]

end

/-! ### Messages at a home (R107, R110) -/

/-- The event of a request at its home, by what it asks for. -/
noncomputable def HomeOp.event (op : HomeOp) (m : Nat) : Instr :=
  match op with
  | .fill _ | .rx | .load | .write => .requestAtHome m
  | .atomic _ => .atomicAtHome m
  | .sigadd => .sigaddAtHome m
  | .sigwait => .sigwaitAtHome m

theorem exec_event {s : State} {m t b : Nat} {src : Agent} {cls : Cls} {sm : Bool} {r : HomeReq} (here : Arrives s m ⟨src, .tile t, cls, .home r, b, sm⟩)
    (takes : s.homeTakes t r = true) : exec (r.op.event m) s = .next ((s.dropMsg m).enterHome t r) := by
  obtain ⟨found, may⟩ := here
  have msg : s.homeMsg m = some (t, r) := by
    unfold State.homeMsg
    rw [found]
    exact if_pos (by simp [may, takes])
  cases op : r.op
  case atomic =>
    change execAtomicAtHome m s = _
    simp only [execAtomicAtHome, msg, op]
  case sigadd =>
    change execSigaddAtHome m s = _
    simp only [execSigaddAtHome, msg, op]
  case sigwait =>
    change execSigwaitAtHome m s = _
    simp only [execSigwaitAtHome, msg, op]
  all_goals
    change execRequestAtHome m s = _
    simp only [execRequestAtHome, msg, op]

section

variable {s : State} {m t u b va f upto : Nat} {cls : Cls} {sm : Bool} {data : List (Nat × List Byte)} {l : HLine}

theorem probeAckAtHome_takes {kept : Bool} (here : Arrives s m ⟨.tile u, .tile t, cls, .probeAck va f data upto kept, b, sm⟩)
    (line : ((s.dropMsg m).n t).line? ((s.dropMsg m).copySpace t u f va) va = some l) :
    let gone : State := s.dropMsg m
    let p := gone.copySpace t u f va
    let taken := gone.takeSectors t p va data { op := .write, part := p, fsh := false, addr := va, size := 512, sender := .tile u }
    let told := if data.isEmpty then taken else taken.post (.tile t) (.tile u) .reply (.wbAck f va upto none)
    exec (.probeAckAtHome m) s = .next (((told.modN t fun n => n.modLine p va fun l =>
      { l with acks := l.acks.erase (u, f), dir := if f ≥ 65 then l.dir.afterWriter u kept else l.dir }).lineOn t p va).retryHome t) := by
  obtain ⟨found, may⟩ := here
  change execProbeAckAtHome m s = _
  unfold execProbeAckAtHome
  rw [found]
  dsimp only
  rw [if_neg (by simp [may]), line]

/-- The line of a copy is the same once a message is dropped. -/
theorem State.Sent.copySpace {s v : State} (h : s.Sent v) (t u f va : Nat) : v.copySpace t u f va = s.copySpace t u f va := by
  unfold State.copySpace
  rw [h.partOf, h.lines]
  have space : v.space = s.space := by
    funext p
    unfold State.space
    rw [h.part]
  rw [space]

theorem State.Sent.line? {s v : State} (h : s.Sent v) (t p va : Nat) : (v.n t).line? p va = (s.n t).line? p va := by
  unfold NDom.line?
  rw [h.lines]

variable {keep : Bool} {flush : Option (Nat × Nat × Nat)} (here : Arrives s m ⟨.tile u, .tile t, cls, .writeback va f data keep upto flush, b, sm⟩)
include here

theorem writebackAtHome_early (line : (s.n t).line? (s.copySpace t u f va) va = some l) (noAck : (l.acks.any fun c => c.1 == u) = false)
    (owes : l.owes u data = true) : exec (.writebackAtHome m) s = .next s := by
  obtain ⟨found, may⟩ := here
  change execWritebackAtHome m s = _
  unfold execWritebackAtHome
  rw [found]
  dsimp only
  rw [if_pos (by simp [line, noAck, owes])]

theorem writebackAtHome_line (line : ((s.dropMsg m).n t).line? ((s.dropMsg m).copySpace t u f va) va = some l)
    (may : (l.acks.any fun c => c.1 == u) = true ∨ l.owes u data = false) :
    let gone : State := s.dropMsg m
    let p := gone.copySpace t u f va
    let taken := gone.takeSectors t p va data { op := .write, part := p, fsh := false, addr := va, size := 512, sender := .tile u }
    let own := if !keep && !(l.acks.any fun c => c.1 == u) && l.dir == .x u f then taken.modN t fun n => n.modLine p va fun l => { l with dir := .u } else taken
    exec (.writebackAtHome m) s = .next (
      if !(l.acks.any fun c => c.1 == u) && !data.isEmpty && l.dir != .x u f && !(l.dir.others (some (u, f))).isEmpty then
        (gone.modN t fun n => n.modLine p va fun l => { l with queue := l.queue ++ backWrites p u f va data upto flush }).lineOn t p va
      else (own.post (.tile t) (.tile u) .reply (.wbAck f va upto flush)).lineOn t p va) := by
  obtain ⟨found, arrivable⟩ := here
  have sent := State.Sent.dropMsg s m
  have line' : (s.n t).line? (s.copySpace t u f va) va = some l := by rwa [← sent.copySpace, ← sent.line?]
  intro gone p taken own
  change execWritebackAtHome m s = _
  unfold execWritebackAtHome
  rw [found]
  dsimp only
  rw [line', if_neg, ← sent.copySpace, line]
  · dsimp only
    split <;> rfl
  · rcases may with h | h <;> simp [arrivable, h]

end

/-- Settles O43. -/
theorem homesServeTheirLines : Obligations.HomesServeTheirLines := by
  intro m t u cls b sm s gone noted
  have sent : s.Sent gone := State.Sent.dropMsg s m
  refine ⟨fun src r here takes => ?_, fun va f data upto kept l here line => probeAckAtHome_takes here line,
    fun va f data keep upto flush l here line may => ⟨fun h => ?_, fun h => ?_⟩, fun va f data keep upto flush l here line noAck owes => writebackAtHome_early here line noAck owes⟩
  · intro i
    have runs := exec_event here takes
    have enters (op : HomeOp) (is : r.op = op) : exec (op.event m) s = .next (gone.enterHome t r) := is ▸ runs
    refine ⟨?_, fun fsh op => ?_, fun fsh op first => ⟨_, enters _ op, fun a => ?_⟩, fun fsh op ripe => ?_, fun op fsh atomic new => ⟨_, enters _ atomic, ?_⟩⟩
    · exact runs
    · exact (enters _ op).trans (congrArg _ ((State.enterHome_fsh fsh).trans (State.applyReq_load fsh op)))
    · rw [State.enterHome_fsh fsh, State.applyReq_write fsh op first, Memory.read_writeBytes, sent.fshared]
    · exact (enters _ op).trans (congrArg _ ((State.enterHome_fsh fsh).trans (State.applyReq_sigwait fsh op ripe)))
    · rw [State.enterHome_fsh fsh]
      exact State.applyReq_atomic fsh atomic (by rwa [sent.kept])
  · refine (writebackAtHome_line here line may).trans (congrArg _ (if_pos ?_))
    obtain ⟨noAck, some_, other, others⟩ := h
    simp [noAck, some_, other, others]
  · intro r taken own
    refine (writebackAtHome_line here line may).trans (congrArg _ (if_neg fun all => h ?_))
    simp only [Bool.and_eq_true, Bool.not_eq_true', List.isEmpty_eq_false_iff, bne_iff_ne] at all
    obtain ⟨⟨⟨noAck, some_⟩, other⟩, others⟩ := all
    exact ⟨noAck, some_, other, others⟩

end Sys2Proof.Machine

end

/-! PROOFS. Barriers at their tile (R331, R332). -/

section

namespace Sys2Proof.Machine

/-! ### Barriers and watchpoints -/

theorem State.Sent.bar {s u : State} (h : s.Sent u) (t k : Nat) : u.bar t k = s.bar t k := by
  unfold State.bar
  rw [h.n]

theorem State.Sent.watches {s u : State} (h : s.Sent u) (t : Nat) : (u.n t).watches = (s.n t).watches := Eq.trans (congrArg NDom.watches (h.n t)) rfl

@[simp] theorem State.bar_setBar (s : State) (t k : Nat) (b : Barrier) : (s.setBar t k b).bar t k = b := by
  rw [State.setBar, State.bar, State.n_modN_self]
  exact (AMap.getD_set ..).trans (if_pos rfl)

@[simp] theorem State.watches_setBar (s : State) (t k : Nat) (b : Barrier) : ((s.setBar t k b).n t).watches = (s.n t).watches := by
  rw [State.setBar, State.n_modN_self]

/-- A barrier of a tile without watchpoints fires none. -/
theorem State.watchBar_none {s : State} {t : Nat} (none_ : (s.n t).watches = []) (k : Nat) (kind : BitVec 2) (x : BarSender) : s.watchBar t k kind x = s := by
  unfold State.watchBar
  rw [none_]
  rfl

theorem State.sent_releaseWaiter (s : State) (t : Nat) (w : Nat × Nat × Nat × Nat) : s.Sent (s.releaseWaiter t w) := State.Sent.post ..

/-! ### Flips (R332) -/

theorem State.flip_waits {s : State} {t k : Nat} (x : BarSender) (last : Bool) (fuel : Nat) (waits : (s.bar t k).arr < (s.bar t k).count) :
    s.flip t k x last fuel = s := by
  cases fuel with
  | zero => rfl
  | succ fuel =>
    unfold State.flip
    exact if_neg (by omega)

/-- The barrier after one flip. -/
def Barrier.flipped (b : Barrier) : Barrier :=
  { b with arr := b.arr - b.count + b.early, early := 0, phase := (b.phase + 1) % 65536, waiters := b.waiters.filter fun w => w.1 != b.phase }

/-- The last arrival of a phase without early ones ends it. -/
theorem Barrier.flipped_last {b : Barrier} (early : b.early = 0) (last : b.arr + 1 = b.count) :
    Barrier.flipped { b with arr := b.arr + 1 } =
      { b with arr := 0, phase := (b.phase + 1) % 65536, waiters := b.waiters.filter fun w => w.1 != b.phase } := by
  have left : b.arr + 1 - b.count + b.early = 0 := by omega
  unfold Barrier.flipped
  rw [left, early]

/-- A flip at a tile without watchpoints. -/
theorem State.flip_ends {s : State} {t k : Nat} (x : BarSender) (last : Bool) (fuel : Nat) (none_ : (s.n t).watches = [])
    (some_ : 0 < (s.bar t k).count) (full : (s.bar t k).count ≤ (s.bar t k).arr) :
    s.flip t k x last (fuel + 1) = State.flip ((((s.bar t k).waiters.filter fun w => w.1 == (s.bar t k).phase).foldl
      (fun s w => s.releaseWaiter t w) s).setBar t k (s.bar t k).flipped) t k x last fuel := by
  rw [State.flip]
  dsimp only
  rw [if_pos ⟨some_, full⟩]
  have sent := State.Sent.foldl ((s.bar t k).waiters.filter fun w => w.1 == (s.bar t k).phase) (fun s w => s.sent_releaseWaiter t w) s
  generalize ((s.bar t k).waiters.filter fun w => w.1 == (s.bar t k).phase).foldl (fun s w => s.releaseWaiter t w) s = u at sent
  have quiet : ((u.setBar t k (s.bar t k).flipped).n t).watches = [] := by rw [State.watches_setBar, sent.watches, none_]
  have once : (if last = true then (u.setBar t k (s.bar t k).flipped).watchBar t k 1 x else u.setBar t k (s.bar t k).flipped) = u.setBar t k (s.bar t k).flipped := by
    split
    · exact State.watchBar_none quiet ..
    · rfl
  change State.flip (State.watchBar (if last = true then (u.setBar t k (s.bar t k).flipped).watchBar t k 1 x else u.setBar t k (s.bar t k).flipped) t k 2 x) t k x last fuel = _
  rw [once, State.watchBar_none quiet]

/-- An arrival of the running phase at a tile without watchpoints. -/
theorem State.barArrive_phase {s : State} {t k ph : Nat} (x : BarSender) (none_ : (s.n t).watches = []) (now : ph = (s.bar t k).phase)
    (room : (s.bar t k).arr + (s.bar t k).early + 1 ≤ 2 * (s.bar t k).count) :
    s.barArrive t k ph x = (s.setBar t k { s.bar t k with arr := (s.bar t k).arr + 1 }).flips t k x true := by
  unfold State.barArrive
  dsimp only
  rw [if_neg fun h => h.1 now, if_neg (by omega), if_pos now]
  rw [State.watchBar_none (by rw [State.watches_setBar, none_])]

theorem State.barArrive_counts {s : State} {t k ph : Nat} (x : BarSender) (none_ : (s.n t).watches = []) (now : ph = (s.bar t k).phase)
    (early : (s.bar t k).early = 0) (left : (s.bar t k).arr + 1 < (s.bar t k).count) :
    (s.barArrive t k ph x).bar t k = { s.bar t k with arr := (s.bar t k).arr + 1 } := by
  rw [State.barArrive_phase x none_ now (by omega), State.flips, State.flip_waits _ _ _ (by simpa using left), State.bar_setBar]

theorem State.barArrive_last {s : State} {t k ph : Nat} (x : BarSender) (none_ : (s.n t).watches = []) (now : ph = (s.bar t k).phase)
    (early : (s.bar t k).early = 0) (some_ : 1 ≤ (s.bar t k).count) (last : (s.bar t k).arr + 1 = (s.bar t k).count) :
    (s.barArrive t k ph x).bar t k = { s.bar t k with
      arr := 0, phase := ((s.bar t k).phase + 1) % 65536, waiters := (s.bar t k).waiters.filter fun w => w.1 != (s.bar t k).phase } := by
  rw [State.barArrive_phase x none_ now (by omega), State.flips, State.flip_ends _ _ _ (by rw [State.watches_setBar, none_]) (by rw [State.bar_setBar]; exact some_)
    (by rw [State.bar_setBar]; exact Nat.le_of_eq last.symm), State.bar_setBar, Barrier.flipped_last early last]
  rw [State.flip_waits _ _ _ (by rw [State.bar_setBar]; exact some_), State.bar_setBar]

/-! ### Messages at a barrier -/

/-- A barrier message whose number is new is noted, as its sender's effect too. -/
def State.keptNew (s : State) (t : Nat) (x : BarSender) : State :=
  (s.modN t fun n => { n with keptBar := n.keptBar.set (64 * x.tile + x.frame) ⟨x.oseq, 0⟩ }).modN t fun n => n.noteApplied (.tile x.tile) x.oseq

theorem State.n_keptNew (s : State) (t : Nat) (x : BarSender) : ((s.keptNew t x).n t).barriers = (s.n t).barriers ∧ ((s.keptNew t x).n t).watches = (s.n t).watches := by
  rw [State.keptNew, State.n_modN_self, State.n_modN_self, NDom.noteApplied_eq]
  exact ⟨rfl, rfl⟩

theorem State.bar_keptNew (s : State) (t k : Nat) (x : BarSender) : (s.keptNew t x).bar t k = s.bar t k := by
  unfold State.bar
  rw [(s.n_keptNew t x).1]

theorem State.onceBar_new {s : State} {t : Nat} {x : BarSender} (f : State → State)
    (new : ∀ q, (s.n t).keptBar.get? (64 * x.tile + x.frame) = some q → q.oseq < x.oseq) : s.onceBar t x f = f (s.keptNew t x) := by
  unfold State.onceBar
  dsimp only
  split
  · next q found =>
    have older := new q found
    rw [if_neg (by omega), if_neg (by omega)]
    rfl
  · rfl

theorem State.onceBar_old {s : State} {t : Nat} {x : BarSender} {q : Kept} (f : State → State)
    (found : (s.n t).keptBar.get? (64 * x.tile + x.frame) = some q) (old : x.oseq < q.oseq) : s.onceBar t x f = s.countT t 11 1 := by
  unfold State.onceBar
  dsimp only
  rw [found]
  exact if_pos old

section

variable {s : State} {m t u k f o b : Nat} {id : BitVec 32} {cls : Cls} {sm : Bool} {op : BarOp}

theorem barMsg_arrives (here : Arrives s m ⟨.tile u, .tile t, cls, .bar k op f o id, b, sm⟩) : s.barMsg m = some (t, k, op, ⟨u, f, o, id⟩) := by
  obtain ⟨found, may⟩ := here
  unfold State.barMsg
  rw [found]
  exact if_pos may

theorem barc_arrives {count : Nat} {reset : Bool} (here : Arrives s m ⟨.tile u, .tile t, cls, .bar k (.barc count reset) f o id, b, sm⟩) :
    exec (.barcAtBarrier m) s = .next ((s.dropMsg m).onceBar t ⟨u, f, o, id⟩ fun s => s.barc t k count reset ⟨u, f, o, id⟩) := by
  change execBarcAtBarrier m s = _
  unfold execBarcAtBarrier
  rw [barMsg_arrives here]

theorem bara_arrives {ph : Nat} (here : Arrives s m ⟨.tile u, .tile t, cls, .bar k (.bara ph) f o id, b, sm⟩) :
    exec (.baraAtBarrier m) s = .next ((s.dropMsg m).onceBar t ⟨u, f, o, id⟩ fun s => s.barArrive t k ph ⟨u, f, o, id⟩) := by
  change execBaraAtBarrier m s = _
  unfold execBaraAtBarrier
  rw [barMsg_arrives here]

variable {ph iss w : Nat} (here : Arrives s m ⟨.tile u, .tile t, cls, .bar k (.barw ph iss w) f o id, b, sm⟩)
include here

theorem barw_answered (ended : newer (s.bar t k).phase ph = true) : exec (.barwAtBarrier m) s = .next ((s.dropMsg m).releaseWaiter t (ph, u, iss, w)) := by
  change execBarwAtBarrier m s = _
  unfold execBarwAtBarrier
  rw [barMsg_arrives here]
  dsimp only
  rw [if_pos ended]

theorem barw_registered (runs : newer (s.bar t k).phase ph = false) (room : (s.n t).barWaiters < 1024) :
    exec (.barwAtBarrier m) s = .next ((s.dropMsg m).setBar t k { s.bar t k with waiters := (s.bar t k).waiters ++ [(ph, u, iss, w)] }) := by
  change execBarwAtBarrier m s = _
  unfold execBarwAtBarrier
  rw [barMsg_arrives here]
  dsimp only
  rw [if_neg (by simp [runs]), if_neg (Nat.not_le.2 room)]

end

/-- Settles O44. -/
theorem barriersCountTheirArrivals : Obligations.BarriersCountTheirArrivals := by
  intro m t u k f o id cls b sm s gone x here kept new
  refine ⟨fun count reset arrives first => (barc_arrives arrives).trans (congrArg _ (State.onceBar_new _ first)),
    fun ph arrives first => (bara_arrives arrives).trans (congrArg _ (State.onceBar_new _ first)), fun ph arrives first none_ now some_ early => ?_,
    fun ph arrives q found old => (bara_arrives arrives).trans (congrArg _ (State.onceBar_old _ found old)),
    fun ph iss w arrives => ⟨barw_answered arrives, barw_registered arrives⟩⟩
  have runs : exec (.baraAtBarrier m) s = .next ((gone.keptNew t x).barArrive t k ph x) :=
    (bara_arrives arrives).trans (congrArg _ (State.onceBar_new _ first))
  have same : (gone.keptNew t x).bar t k = gone.bar t k := gone.bar_keptNew t k x
  have quiet : ((gone.keptNew t x).n t).watches = [] := (gone.n_keptNew t x).2.trans none_
  have now' : ph = ((gone.keptNew t x).bar t k).phase := by rwa [same]
  have early' : ((gone.keptNew t x).bar t k).early = 0 := by rwa [same]
  refine ⟨fun left => ⟨_, runs, ?_⟩, fun last => ⟨_, runs, ?_⟩⟩
  · rw [State.barArrive_counts x quiet now' early' (by rwa [same]), same]
  · rw [State.barArrive_last x quiet now' early' (by rwa [same]) (by rwa [same]), same]

end Sys2Proof.Machine

end

/-! PROOFS. What ends a wait of a tile, and the answers that reach it (R57, R133 to R139, R147, R301, R305, R308, R311, R317, R330, R335, R347). -/

section

namespace Sys2Proof.Machine

/-! ### Waits of a bundle instance -/

theorem next_foldl_congr {f g : State → PWait → State} (each : ∀ u q, f u q = g u q) (l : List PWait) (s : State) :
    (Host.Outcome.next (l.foldl f s) : Host.Outcome State Fault Refusal) = .next (l.foldl g s) := by
  rw [funext fun u => funext (each u)]

section

variable {t i : Nat} {s : State} {x : Issue} (tile : t < Config.numTiles) (found : (s.c t).issue? i = some x)
include tile found

/-- Waits that end with an order token, one after the other. -/
theorem onTile_endWaits {ok : State → Issue → PWait → Bool} {g : State → PWait → State} (each : ∀ u q, (if ok u x q then u.endWait t i q.id .order else u) = g u q) :
    onTile t s (fun s => s.endWaits t i ok) = .next (x.waits.foldl g s) := by
  rw [onTile_lt tile]
  unfold State.endWaits
  rw [found]
  exact next_foldl_congr each _ _

end

section

variable {t : Nat} {s : State} (tile : t < Config.numTiles)
include tile

/-! ### Stores, copies and supervisor operations (R133, R139, R305, R347) -/

theorem doneTokenFire_fires {f i : Nat} {q : Pend}
    (found : ((s.c t).pend.find? fun q => q.frame == f && q.oseq == i && (q.done.isSome || q.val.isSome)) = some q) (mayFire : q.rmw = false ∨ q.performed = true)
    (all : ∀ x ∈ (s.c t).pend, x.frame = f → i - q.span ≤ x.oseq → x.oseq ≤ i → s.pendDone t x q.scope = true) :
    exec (.doneTokenFire t f i) s = .next (s.firePend t q) := by
  change execDoneTokenFire t f i s = _
  unfold execDoneTokenFire
  rw [onTile_lt tile, found]
  refine congrArg _ (if_pos ?_)
  rw [Bool.and_eq_true, List.all_eq_true]
  refine ⟨by rcases mayFire with h | h <;> simp [h], fun x among => ?_⟩
  by_cases mine : x.frame = f ∧ i - q.span ≤ x.oseq ∧ x.oseq ≤ i
  · rw [all x among mine.1 mine.2.1 mine.2.2, Bool.or_true]
  · simp only [Bool.or_eq_true, Bool.not_eq_true', Bool.and_eq_false_iff, beq_eq_false_iff_ne, decide_eq_false_iff_not]
    tauto

theorem copyComplete_completes {i : Nat} {x : Copy} (found : ((s.c t).copies.find? fun x => x.id == i) = some x) (read : x.reading = false) (left : x.left = 0) :
    let rows := (List.range x.rows.length).filterMap fun j => (x.rows[j]?).map fun r => (j, r)
    let scratch := rows.foldl (fun (m : Memory) r =>
      if isLocal r.2.2.1 then m.writeBytes ((s.frame t x.frame).localAddr r.2.2.1) ((x.rowBytes r.1).take r.2.2.2) else m) (s.c t).scratch
    exec (.copyComplete t i) s = .next
      ((s.modC t fun c => { c with copies := c.copies.filter (fun y => y.id != i), scratch := scratch }).fireDone t x.done) := by
  intro rows scratch
  change execCopyComplete t i s = _
  unfold execCopyComplete
  rw [onTile_lt tile, found]
  refine congrArg _ ((if_neg ?_).trans ?_)
  · simp [read, left]
  · refine congrArg (fun u : State => u.fireDone t x.done) ?_
    rfl

theorem supervisorOperation_completes {i : Nat} {x : SupPend} (found : (s.c t).sups.get? i = some x) (done : s.supDone x.wait = true) :
    exec (.supervisorOperationComplete t i) s =
      .next ((s.modC t fun c => { c with sups := c.sups.erase i }).supValue t x.val x.reg x.key (s.supStatus x.wait)) := by
  change execSupervisorOperationComplete t i s = _
  unfold execSupervisorOperationComplete
  rw [onTile_lt tile, found]
  exact congrArg _ (if_neg (by simp [done]))

end

/-! ### Answers from a home (R105, R135, R301) -/

section

variable {s : State} {t h m b : Nat} {cls : Cls} {r : HomeReq} {data : List Byte} {v : W64} {sm : Bool}
  (here : Arrives s m ⟨.tile h, .tile t, cls, .homeReply r data v, b, sm⟩)
include here

theorem fillReply_lands {rx : Bool} (op : r.op = .fill rx) (some_ : r.size ≠ 0) (taken : s.replyWaits t r.frame = false) : exec (.fillReply m) s =
    .next ((s.dropMsg m).fillLands t r rx data (2 + s.ingress t ⟨.tile h, .tile t, cls, .homeReply r data v, b, sm⟩)) := by
  obtain ⟨found, may⟩ := here
  change execFillReply m s = _
  unfold execFillReply
  rw [found]
  dsimp only
  rw [op]
  dsimp only
  rw [if_neg (by simp [may, taken]), if_neg some_]

theorem fillReply_dropped {rx : Bool} (op : r.op = .fill rx) (none_ : r.size = 0) (taken : s.replyWaits t r.frame = false) :
    exec (.fillReply m) s = .next ((s.dropMsg m).fillDropped t r) := by
  obtain ⟨found, may⟩ := here
  change execFillReply m s = _
  unfold execFillReply
  rw [found]
  dsimp only
  rw [op]
  dsimp only
  rw [if_neg (by simp [may, taken]), if_pos none_]

theorem fillReply_waits {rx : Bool} (op : r.op = .fill rx) (waits : s.replyWaits t r.frame = true) : exec (.fillReply m) s = .next s := by
  obtain ⟨found, may⟩ := here
  change execFillReply m s = _
  unfold execFillReply
  rw [found]
  dsimp only
  rw [op]
  exact if_pos (by simp [waits])

theorem loadReply_answers (noFill : ∀ rx, r.op ≠ .fill rx) (noRx : r.op ≠ .rx) (taken : s.homeWaits t r = false) :
    exec (.loadReply m) s = .next ((s.dropMsg m).tileReply t h ⟨.tile h, .tile t, cls, .homeReply r data v, b, sm⟩ r data v) := by
  obtain ⟨found, may⟩ := here
  change execLoadReply m s = _
  unfold execLoadReply
  rw [found]
  dsimp only
  rw [if_neg (by simp [may]), if_neg (by simp [taken])]
  cases op : r.op
  case fill rx => exact absurd op (noFill rx)
  case rx => exact absurd op noRx
  all_goals rfl

theorem loadReply_waits (waits : s.homeWaits t r = true) : exec (.loadReply m) s = .next s := by
  obtain ⟨found, may⟩ := here
  change execLoadReply m s = _
  unfold execLoadReply
  rw [found]
  dsimp only
  rw [if_neg (by simp [may]), if_pos waits]

theorem rxGrant_raises {l : StLine} (powered : (s.tile t).powered = true) (op : r.op = .rx) (held : (s.c t).stLine r.frame (lineOf r.addr) = some l) :
    exec (.rxGrant m) s = .next (((s.dropMsg m).modC t fun c => { c with rxAsked := c.rxAsked.filter (· != (r.frame, lineOf r.addr)) }).modC t
      fun c => c.putLine { l with perm := 2, strel := false }) := by
  obtain ⟨found, may⟩ := here
  change execRxGrant m s = _
  unfold execRxGrant
  rw [found]
  dsimp only
  rw [if_neg (by simp [may, powered, op]), held]

end

theorem probeMsg_probes {s : State} {t h m b va f : Nat} {cls : Cls} {sm down : Bool} (here : Arrives s m ⟨.tile h, .tile t, cls, .probe down va f, b, sm⟩)
    (powered : (s.tile t).powered = true) : s.probeMsg m down = (s.dropMsg m).probe t h va f down := by
  obtain ⟨found, may⟩ := here
  unfold State.probeMsg
  rw [found]
  exact if_neg (by simp [may, powered])

/-! ### Answers to operations on names (R311, R317, R335) -/

theorem answerMsg_arrives {s : State} {m t b : Nat} {src : Agent} {cls : Cls} {op : NameOp} {x : NameMsg} {sm : Bool} {ok : NameOp → Bool}
    (here : Arrives s m ⟨src, .tile t, cls, .name op x, b, sm⟩) (taken : s.answerWaits t (x.frame.getD 64) = false) (is : ok op = true) :
    s.answerMsg m ok = some (t, op, { x with port := s.ingress t ⟨src, .tile t, cls, .name op x, b, sm⟩ },
      (s.dropMsg m).logReply t (x.frame.getD 64) ⟨src, .tile t, cls, .name op x, b, sm⟩) := by
  obtain ⟨found, may⟩ := here
  unfold State.answerMsg
  rw [found]
  exact if_pos (by simp [is, may, taken])

/-- Settles O39. -/
theorem waitsEndAndAnswersArrive : Obligations.WaitsEndAndAnswersArrive := by
  intro t i m h s tile powered c gone msg
  refine ⟨fun x found => ⟨?_, ?_, ?_, ?_, ?_, ?_⟩, fun f q found mayFire all => doneTokenFire_fires tile found mayFire all,
    fun x found read left => copyComplete_completes tile found read left, fun x found done => ⟨supervisorOperation_completes tile found done,
      fun l late noReg noKey => ?_⟩, fun cls r data v b sm here => ⟨fun rx => fillReply_lands here, fun rx => fillReply_dropped here,
      fun rx => fillReply_waits here, fun noFill noRx taken => ⟨loadReply_answers here noFill noRx taken, fun iss w j ret => ?_⟩,
      fun _ _ => loadReply_waits here, fun op l => rxGrant_raises here powered op⟩,
    fun cls down va f b sm here => ⟨fun is => ?_, fun is => ?_⟩, fun src cls op x b sm here taken => ⟨fun is mine => ?_, fun is other => ?_, fun is => ?_, fun is => ?_, fun is => ?_⟩⟩
  · change execDrainWaitEnd t i s = _
    exact onTile_endWaits tile found fun u q => by cases q.wait <;> rfl
  · change execPfenceWaitEnd t i s = _
    exact onTile_endWaits tile found fun u q => by cases q.wait <;> rfl
  · change execStashFlushDone t i s = _
    exact onTile_endWaits tile found fun u q => by cases q.wait <;> rfl
  · change execWuntilTick t i s = _
    unfold execWuntilTick
    rewrite [onTile_lt tile, found]
    exact next_foldl_congr (fun u q => by cases q.wait <;> rfl) _ _
  · change execTslotqWaitDelivery t i s = _
    unfold execTslotqWaitDelivery
    rewrite [onTile_lt tile, found]
    exact next_foldl_congr (fun u q => by cases q.wait <;> rfl) _ _
  · change execSpopDelivery t i s = _
    unfold execSpopDelivery
    rewrite [onTile_lt tile, found]
    exact next_foldl_congr (fun u q => by cases q.wait <;> rfl) _ _
  · rewrite [supervisorOperation_completes tile found done, late, noReg, noKey]
    rfl
  · rw [loadReply_answers here noFill noRx taken]
    unfold State.tileReply
    rw [ret]
  · subst is
    change execProbeDown m s = _
    exact congrArg _ (probeMsg_probes here powered)
  · subst is
    change execProbeInv m s = _
    exact congrArg _ (probeMsg_probes here powered)
  · subst is
    change execClaimReply m s = _
    unfold execClaimReply
    rw [answerMsg_arrives here taken (by decide)]
    exact congrArg _ (if_pos mine)
  · subst is
    change execClaimReply m s = _
    unfold execClaimReply
    rw [answerMsg_arrives here taken (by decide)]
    exact congrArg _ (if_neg other)
  · subst is
    change execTaskidReply m s = _
    unfold execTaskidReply
    rewrite [answerMsg_arrives here taken (by decide)]
    rfl
  · subst is
    change execNameOperationAcknowledgement m s = _
    unfold execNameOperationAcknowledgement
    rewrite [answerMsg_arrives here taken (by decide), here.1]
    rfl
  · subst is
    change execRegistrationReply m s = _
    unfold execRegistrationReply
    rewrite [answerMsg_arrives here taken (by decide), here.1]
    rfl
end Sys2Proof.Machine

end

/-! PROOFS. The accesses of a virtual function (R142, R366 to R375, R380). -/

section

namespace Sys2Proof.Machine

/-- The bytes of a number, one by one. -/
theorem getD_toBytes (x n k : Nat) (lt : k < n) : (toBytes x n).getD k 0 = BitVec.ofNat 8 (x / 256 ^ k) := by
  induction n generalizing x k with
  | zero => omega
  | succ n ih =>
    cases k with
    | zero => simp [toBytes]
    | succ k => rw [toBytes, List.getD_cons_succ, ih _ _ (by omega), Nat.div_div_eq_div_mul, Nat.pow_succ']

theorem length_toBytes (x n : Nat) : (toBytes x n).length = n := by
  induction n generalizing x with
  | zero => rfl
  | succ n ih => rw [toBytes, List.length_cons, ih]

/-- A byte of a word is its field of eight bits. -/
theorem getD_toBytes_word (w : W64) (k : Nat) (lt : k < 8) : (toBytes w.toNat 8).getD k 0 = w.extractLsb' (8 * k) 8 := by
  rw [getD_toBytes _ _ _ lt]
  refine BitVec.eq_of_toNat_eq ?_
  rw [BitVec.toNat_ofNat, BitVec.extractLsb'_toNat, Nat.shiftRight_eq_div_pow, Nat.pow_mul]

/-! ### Functions that are enabled (R367) -/

section

variable {p : Nat} {s : State} (fn : p < 64) (enabled : (s.vf p).enabled = true) (runs : s.ctl.halted = false)
include fn enabled runs

theorem onVf_lt (g : State → State) : onVf p s g = .next (g s) := by simp [onVf, fn, enabled, runs]

theorem publishHeader_taken {k : BitVec 4} (w0 w1 w2 w3 : W64) (free : (s.vf p).busy.getLsbD k.toNat = false) :
    exec (.publishHeaderPayload p k w0 w1 w2 w3) s =
        .next (State.enqueue (s.modVf p fun f => f.takeSlot k.toNat) p (.header k.toNat w0 w1 (w2 &&& ~~~0x10000#64) w3)) ∧
      exec (.publishHeaderGlobal p k w0 w1 w2 w3) s =
        .next (State.enqueue (s.modVf p fun f => f.takeSlot k.toNat) p (.header k.toNat w0 w1 (w2 ||| 0x10000#64) w3)) := by
  have writes (w : W64) : s.writeHeader p k.toNat w0 w1 w w3 = State.enqueue (s.modVf p fun f => f.takeSlot k.toNat) p (.header k.toNat w0 w1 w w3) :=
    if_neg (by simp [free])
  constructor
  · change execPublishHeaderPayload p k w0 w1 w2 w3 s = _
    exact (onVf_lt fn enabled runs _).trans (congrArg _ (writes _))
  · change execPublishHeaderGlobal p k w0 w1 w2 w3 s = _
    exact (onVf_lt fn enabled runs _).trans (congrArg _ (writes _))

theorem publishHeader_dropped {k : BitVec 4} (w0 w1 w2 w3 : W64) (busy : (s.vf p).busy.getLsbD k.toNat = true) :
    ∀ i ∈ [Instr.publishHeaderPayload p k w0 w1 w2 w3, .publishHeaderGlobal p k w0 w1 w2 w3], exec i s = .next (s.headerDropped p k.toNat) := by
  have drops (w : W64) : s.writeHeader p k.toNat w0 w1 w w3 = s.headerDropped p k.toNat := if_pos busy
  intro i among
  rw [List.mem_cons, List.mem_singleton] at among
  rcases among with rfl | rfl
  · change execPublishHeaderPayload p k w0 w1 w2 w3 s = _
    exact (onVf_lt fn enabled runs _).trans (congrArg _ (drops _))
  · change execPublishHeaderGlobal p k w0 w1 w2 w3 s = _
    exact (onVf_lt fn enabled runs _).trans (congrArg _ (drops _))

/-! ### Page-table writes (R375) -/

theorem hptedataWrite_eq (data : W64) : exec (.hptedataWrite p data) s =
    .next (if s.pteOk p (s.vf p).pteaddr.toNat && s.asleep (s.vf p).pteaddr.toNat then s
      else if s.pteOk p (s.vf p).pteaddr.toNat then { s with hbm := s.hbm.writeBytes (s.vf p).pteaddr.toNat (toBytes data.toNat 8) } else s.stat p 2) := by
  change execHptedataWrite p data s = _
  exact onVf_lt fn enabled runs _

end

theorem Memory.read_writeWord (m : Memory) (a c : Nat) (w : W64) :
    (m.writeBytes a (toBytes w.toNat 8)).read c = if a ≤ c ∧ c < a + 8 then w.extractLsb' (8 * (c - a)) 8 else m.read c := by
  rw [Memory.read_writeBytes, length_toBytes]
  split
  · next within => exact getD_toBytes_word w _ (by omega)
  · rfl

/-! ### Invalidations (R370) -/

/-- The TLB entries that the home slice of a tile keeps. -/
def State.tileTlb (keep : List TlbEntry → List TlbEntry) (s : State) (t : Nat) : State :=
  if (s.n t).tlb.isEmpty then s else s.modN t fun n => { n with tlb := keep n.tlb }

/-- The TLB entries that the hub of a field keeps. -/
def State.hubTlb (keep : List TlbEntry → List TlbEntry) (s : State) (f : Nat) : State := s.modHub f fun h => { h with tlb := keep h.tlb }

/-- A rim agent notes an invalidation that covers its moving page. -/
def State.invNote (s : State) (p : Nat) (kind : BitVec 2) (asid : BitVec 16) (va : Nat) (r : Rim) : Rim :=
  match r.mig, r.inv with
  | some m, none => if s.invCovers p kind asid va m then { r with inv := some (p, s.quartz) } else r
  | _, _ => r

theorem State.tlbRemove_eq (s : State) (p : Nat) (kind : BitVec 2) (asid : BitVec 16) (va : Nat) :
    let keep (l : List TlbEntry) : List TlbEntry := l.filter fun x => !x.hit kind asid va
    let u := (s.part p).tiles.foldl (State.tileTlb keep) { s with rims := s.rims.mapVal (s.invNote p kind asid va) }
    s.tlbRemove p kind asid va = (u.part p).fieldList.foldl (State.hubTlb keep) u := rfl

/-- The state with other virtual functions. -/
def State.withVfs (v : AMap Vf) (s : State) : State := { s with vfs := v }

theorem State.tileTlb_vfs (keep : List TlbEntry → List TlbEntry) (v : AMap Vf) (s : State) (t : Nat) :
    State.tileTlb keep (s.withVfs v) t = (State.tileTlb keep s t).withVfs v := by
  by_cases empty : (s.n t).tlb.isEmpty = true
  · exact (if_pos empty).trans (congrArg (State.withVfs v) (if_pos empty)).symm
  · refine (if_neg empty).trans (Eq.trans ?_ (congrArg (State.withVfs v) (if_neg empty)).symm)
    rfl

theorem State.hubTlb_vfs (keep : List TlbEntry → List TlbEntry) (v : AMap Vf) (s : State) (f : Nat) :
    State.hubTlb keep (s.withVfs v) f = (State.hubTlb keep s f).withVfs v := rfl

/-- A removal of TLB entries reads nothing of the virtual functions. -/
theorem State.tlbRemove_vfs (s : State) (v : AMap Vf) (p : Nat) (kind : BitVec 2) (asid : BitVec 16) (va : Nat) :
    (s.withVfs v).tlbRemove p kind asid va = (s.tlbRemove p kind asid va).withVfs v := by
  rw [State.tlbRemove_eq, State.tlbRemove_eq]
  refine Eq.trans ?_ (List.foldl_hom (State.withVfs v) (State.hubTlb_vfs _ v))
  have tiles := List.foldl_hom (State.withVfs v) (init := { s with rims := s.rims.mapVal (s.invNote p kind asid va) }) (l := (s.part p).tiles)
    (State.tileTlb_vfs (fun l => l.filter fun x => !x.hit kind asid va) v)
  exact congrArg (fun u : State => (u.part p).fieldList.foldl (State.hubTlb _) u) tiles

theorem State.tlbRemove_modVf (s : State) (p q : Nat) (g : Vf → Vf) (kind : BitVec 2) (asid : BitVec 16) (va : Nat) :
    (s.modVf q g).tlbRemove p kind asid va = (s.tlbRemove p kind asid va).withVfs (s.modVf q g).vfs := State.tlbRemove_vfs s (s.modVf q g).vfs ..

section

variable {p : Nat} {s : State}

/-- An invalidation behind one that is under way waits. -/
theorem State.invNext_waits (busy : s.invDone p = false) (fuel : Nat) : s.invNext p fuel = s := by
  cases fuel with
  | zero => rfl
  | succ fuel =>
    unfold State.invNext
    split
    · rfl
    · exact if_neg (by simp [busy])

theorem State.invNext_one {kind : BitVec 2} {va : Nat} (done : s.invDone p = true) (waits : (s.vf p).invWait = [(kind, va)]) :
    s.invNext p 1 = (s.tlbRemove p kind (s.part p).asid va).modVf p fun f => { f with invTick := some s.quartz, invWait := [] } := by
  unfold State.invNext
  rw [waits]
  exact if_pos done

variable (fn : p < 64)
include fn

theorem State.invDone_modVf {g : Vf → Vf} (same : (g (s.vf p)).invTick = (s.vf p).invTick) : (s.modVf p g).invDone p = s.invDone p := by
  unfold State.invDone
  rw [State.vf_modVf_self _ fn, same]
  rfl

theorem State.htlbinv_waits (busy : s.invDone p = false) (kind : BitVec 2) (va : Nat) :
    s.htlbinv p kind va = s.modVf p fun f => { f with invWait := f.invWait ++ [(kind, va)] } :=
  State.invNext_waits ((State.invDone_modVf fn rfl).trans busy) _

/-- What an invalidation that need not wait does. -/
theorem State.htlbinv_done (free : s.tlbBusy p = false) (kind : BitVec 2) (va : Nat) :
    s.htlbinv p kind va = ((s.modVf p fun f => { f with invWait := f.invWait ++ [(kind, va)] }).tlbRemove p kind (s.part p).asid va).modVf p fun f =>
      { f with invTick := some s.quartz, invWait := [] } := by
  rw [State.tlbBusy, Bool.or_eq_false_iff, Bool.not_eq_false', Bool.not_eq_false', List.isEmpty_iff] at free
  obtain ⟨done, none_⟩ := free
  have one : ((s.modVf p fun f => { f with invWait := f.invWait ++ [(kind, va)] }).vf p).invWait = [(kind, va)] := by
    rw [State.vf_modVf_self _ fn, none_]
    rfl
  unfold State.htlbinv State.invOn
  rw [one]
  exact State.invNext_one ((State.invDone_modVf fn rfl).trans done) one

end

/-! ### Subscriptions and their deliveries (R373, R374) -/

theorem withV_eq (w2 : W64) :
    withV w2 true = w2 &&& 0x80000001FFFFF1FF ||| (1#64 <<< 63) ∧ withV w2 false = w2 &&& 0x00000001FFFFF1FF :=
  ⟨rfl, BitVec.and_assoc ..⟩

section

variable {p e : Nat} {s : State} (fn : p < 64) (enabled : (s.vf p).enabled = true) (runs : s.ctl.halted = false)
include fn enabled runs

section

variable (entry : e < 256) (w2 : W64)
include entry

theorem hsubArm_runs : exec (.hsubArm p e w2) s = .next (s.hsubArm p e w2) := by
  change execHsubArm p e w2 s = _
  exact (onVf_lt fn enabled runs _).trans (congrArg _ (if_pos entry))

theorem hsubWithdraw_runs : exec (.hsubWithdraw p ⟨e, w2⟩) s = .next (s.hsubWithdraw p e w2) := by
  change execHsubWithdraw p ⟨e, w2⟩ s = _
  exact (onVf_lt fn enabled runs _).trans (congrArg _ (if_pos entry))

theorem hsubciWrite_runs (ci : BitVec 32) :
    exec (.hsubciWrite p e ci) s = .next (State.subAsk (s.modVf p fun f => { f with ci := f.ci.set e (ci.setWidth 64) }) p e 65) := by
  change execHsubciWrite p e ci s = _
  exact (onVf_lt fn enabled runs _).trans (congrArg _ (if_pos entry))

end

section

omit fn enabled runs
variable {f : HostSub} (is : (s.vf p).subs.getD e {} = f) {w2 : W64}
include is

theorem State.hsubArm_new (off : f.armed = false) (ok : subOk (s.part p) f.w0 f.w1 (w2 ||| (1#64 <<< 63)) f.w3 = true) :
    s.hsubArm p e w2 = (s.modVf p fun f => { f with ci := f.ci.set e 0 }).subArm p e
      { f with w2 := w2 ||| (1#64 <<< 63), hi := f.w0, lo := f.w1, count := 0, base := 0, asked := 0, closing := false } .reg := by
  unfold State.hsubArm
  rw [is]
  dsimp only
  rw [if_neg (by simp [off]), if_neg (by simp [off]), ok, if_neg (by simp), if_neg (by simp [off])]

theorem State.hsubArm_bad (off : f.armed = false) (bad : subOk (s.part p) f.w0 f.w1 (w2 ||| (1#64 <<< 63)) f.w3 = false) :
    s.hsubArm p e w2 = State.stat (s.modVf p fun g => { g with subs := g.subs.set e { f with
      w2 := subWord (w2 ||| (1#64 <<< 63)) &&& ~~~(1#64 <<< 63), armed := false } }) p 0x10 := by
  unfold State.hsubArm
  rw [is]
  dsimp only
  rw [if_neg (by simp [off]), if_neg (by simp [off]), bad, if_pos (by simp), if_neg (by simp [off])]

theorem State.hsubArm_waits (armed : f.armed = true) (left : s.subSatisfied p f = false) : s.hsubArm p e w2 = s := by
  unfold State.hsubArm
  rw [is]
  exact if_pos (by simp [armed, left])

theorem State.hsubArm_rearm (armed : f.armed = true) (satisfied : s.subSatisfied p f = true) (written : f.w1Written = true) (closing : f.closing = false)
    (ok : subOk (s.part p) f.w0 f.w1 (w2 ||| (1#64 <<< 63)) f.w3 = true) :
    s.hsubArm p e w2 = s.subArm p e { f with w2 := w2 ||| (1#64 <<< 63), hi := f.w0, lo := f.w1, base := f.count } .rearm := by
  unfold State.hsubArm
  rw [is]
  dsimp only
  rw [if_neg (by simp [satisfied]), if_neg (by simp [written, closing]), ok, if_neg (by simp), if_pos armed]

theorem State.hsubWithdraw_armed (armed : f.armed = true) (closing : f.closing = false) :
    s.hsubWithdraw p e w2 = ((s.modVf p fun g => { g with subs := g.subs.set e { f with
      w2 := withV w2 true, closing := true, left := (s.subMsgs p e f).length } }).subPrune p e f).subClosed p e := by
  unfold State.hsubWithdraw
  rw [is]
  exact if_neg (by simp [armed, closing])

theorem State.hsubWithdraw_off (off : f.armed = false) :
    s.hsubWithdraw p e w2 = s.modVf p fun g => { g with subs := g.subs.set e { f with w2 := withV w2 false } } := by
  unfold State.hsubWithdraw
  rw [is]
  refine (if_pos (by simp [off])).trans ?_
  rw [off]

end

/-- The copy for entry e of function p that a message carries. -/
def Msg.copyFor (p e : Nat) (m : Msg) : Option NameMsg :=
  match m.dst, m.body with
  | .gateway q, .name .copy x => if q = p ∧ x.slot = e then some x else none
  | _, _ => none

omit fn enabled runs in
theorem Msg.copyFor_eq_some {m : Msg} {x : NameMsg} : m.copyFor p e = some x ↔ m.dst = .gateway p ∧ m.body = .name .copy x ∧ x.slot = e := by
  unfold Msg.copyFor
  split
  · next q y dst body =>
    rw [dst, body]
    simp only [ite_eq_iff, Option.some.injEq, Agent.gateway.injEq, Body.name.injEq, true_and, reduceCtorEq, and_false, or_false]
    constructor
    · rintro ⟨⟨rfl, slot⟩, rfl⟩
      exact ⟨rfl, rfl, slot⟩
    · rintro ⟨rfl, rfl, slot⟩
      exact ⟨⟨rfl, slot⟩, rfl⟩
  · next other =>
    refine ⟨fun h => absurd h (by simp), ?_⟩
    rintro ⟨dst, body, -⟩
    exact absurd body (other p x dst)

/-- A copy of an arming that is over. -/
def HostSub.stale (f : HostSub) (x : NameMsg) : Bool := !f.armed || x.word != w64 f.gen

/-- A message that the next delivery of an entry may take. -/
def State.deliverable (s : State) (p e : Nat) (f : HostSub) (m : Msg) : Bool :=
  match m.copyFor p e with
  | some x => f.stale x || s.nextCopy p f x
  | none => false

theorem hostDelivery_eq {f : HostSub} (is : (s.vf p).subs.getD e {} = f) :
    exec (.hostDelivery p e) s = .next (((s.net[s.net.findIdx (s.deliverable p e f)]?).bind (Msg.copyFor p e)).elim s fun x =>
      if f.stale x then (s.dropMsg (s.net.findIdx (s.deliverable p e f))).subClosed p e
      else if (BitVec.ofNat 32 f.count - ((s.vf p).ci.getD e 0).setWidth 32).toNat ≥ f.ring then s
      else State.subClosed ((s.dropMsg (s.net.findIdx (s.deliverable p e f))).hostWrite p e f x) p e) := by
  subst is
  change execHostDelivery p e s = _
  unfold execHostDelivery
  refine (onVf_lt fn enabled runs _).trans (congrArg _ ?_)
  change (match (s.net[s.net.findIdx (s.deliverable p e ((s.vf p).subs.getD e {}))]?).bind (Msg.copyFor p e) with
    | none => s
    | some x => _) = _
  cases (s.net[s.net.findIdx (s.deliverable p e ((s.vf p).subs.getD e {}))]?).bind (Msg.copyFor p e) <;> rfl

/-- The message that a delivery takes is the first that it may take. -/
theorem hostDelivery_takes {f : HostSub} (is : (s.vf p).subs.getD e {} = f) {n : Nat} {m : Msg} {x : NameMsg} (found : s.net[n]? = some m)
    (copy : m.copyFor p e = some x) (may : f.stale x = true ∨ s.nextCopy p f x = true)
    (first : ∀ j < n, ∀ y, s.net[j]? = some y → ∀ z, y.copyFor p e = some z → f.stale z = false ∧ s.nextCopy p f z = false) :
    exec (.hostDelivery p e) s = .next (
      if f.stale x then (s.dropMsg n).subClosed p e
      else if (BitVec.ofNat 32 f.count - ((s.vf p).ci.getD e 0).setWidth 32).toNat ≥ f.ring then s
      else State.subClosed ((s.dropMsg n).hostWrite p e f x) p e) := by
  obtain ⟨inside, isM⟩ := List.getElem?_eq_some_iff.1 found
  have at_ : s.net.findIdx (s.deliverable p e f) = n := by
    refine (List.findIdx_eq inside).2 ⟨?_, fun j before => ?_⟩
    · rw [isM, State.deliverable, copy]
      exact Bool.or_eq_true_iff.2 may
    · unfold State.deliverable
      cases other : (s.net[j]'(by omega)).copyFor p e with
      | none => rfl
      | some z =>
        obtain ⟨notStale, notNext⟩ := first j before _ (List.getElem?_eq_getElem (by omega)) z other
        exact Bool.or_eq_false_iff.2 ⟨notStale, notNext⟩
  rw [hostDelivery_eq fn enabled runs is, at_, found, Option.bind_some, copy, Option.elim_some]

/-! ### Registers and the reset of a function (R366, R368, R369, R380) -/

theorem registerWrite_word {off : Nat} (data : W64) (low : off < bar2Base) (aligned : off % 8 = 0) :
    exec (.registerWrite (.vf p) off 8 data) s = .next (s.vfWrite p off data) := by
  change execRegisterWrite (.vf p) off 8 data s = _
  unfold execRegisterWrite
  refine (onVf_lt fn enabled runs _).trans (congrArg _ ?_)
  rw [if_neg (by omega), if_pos ⟨rfl, aligned⟩]

theorem registerWrite_other {off len : Nat} (data : W64) (low : off < bar2Base) (other : off % 8 ≠ 0 ∨ len ≠ 8) :
    exec (.registerWrite (.vf p) off len data) s = .next (s.stat p 4) := by
  change execRegisterWrite (.vf p) off len data s = _
  unfold execRegisterWrite
  refine (onVf_lt fn enabled runs _).trans (congrArg _ ?_)
  rw [if_neg (by omega), if_neg (by omega)]

theorem functionLevelReset_runs : exec (.functionLevelReset p) s = .next (s.resetVf p) := by
  change execFunctionLevelReset p s = _
  exact (if_neg (by omega)).trans (onVf_lt fn enabled runs _)

end

theorem State.vf_stat (s : State) {p : Nat} (fn : p < 64) (b : W64) : (s.stat p b).vf p = { s.vf p with hstat := (s.vf p).hstat ||| b } :=
  State.vf_modVf_self s fn _

theorem State.vf_resetVf (s : State) {p : Nat} (fn : p < 64) : ∃ f : Vf, (s.resetVf p).vf p = { f with
    subs := f.subs.mapVal fun e => { e with armed := false, closing := false, left := 0, w2 := e.w2 &&& ~~~(1#64 <<< 63) }
    ci := [], b4base := 0, hstat := f.hstat &&& 1, payload := [], busy := 0, err := 0, captures := [], headers := [], slotUse := []
    posted := f.posted.filter fun x => !(match x with | .header _ _ _ _ _ => true | _ => false) } :=
  ⟨_, State.vf_modVf_self _ fn _⟩

/-- Settles O49. -/
theorem virtualFunctionAccesses : Obligations.VirtualFunctionAccesses := by
  intro p e off len w w0 w1 w2 w3 data bytes k ci s fn enabled runs f slot entry taken
  have entryIs : (s.vf p).subs.getD e {} = entry := rfl
  have reads : exec (.bar4Read p w len) s = .next (s.enqueue p (.read (f.bar4 w) len)) := by
    change execBar4Read p w len s = _
    exact onVf_lt fn enabled runs _
  have writes : exec (.bar4Write p w bytes) s = .next (s.enqueue p (.write (f.bar4 w) bytes)) := by
    change execBar4Write p w bytes s = _
    exact onVf_lt fn enabled runs _
  have staleIff (z : NameMsg) : entry.stale z = false ↔ entry.armed = true ∧ z.word = w64 entry.gen := by simp [HostSub.stale]
  have before {n : Nat} (first : ∀ j < n, ∀ y, s.net[j]? = some y → y.dst = .gateway p → ∀ z, y.body = .name .copy z → z.slot = e →
      entry.armed = true ∧ z.word = w64 entry.gen ∧ s.nextCopy p entry z = false) (j : Nat) (lt : j < n) (y : Msg) (at_ : s.net[j]? = some y) (z : NameMsg)
      (copy : y.copyFor p e = some z) : entry.stale z = false ∧ s.nextCopy p entry z = false := by
    obtain ⟨dst, body, slot⟩ := Msg.copyFor_eq_some.1 copy
    obtain ⟨armed, word, next⟩ := first j lt y at_ dst z body slot
    exact ⟨(staleIff z).2 ⟨armed, word⟩, next⟩
  refine ⟨reads, writes, publishHeader_taken fn enabled runs w0 w1 w2 w3, fun busy i among => ?_,
    fun ok asleep => ?_, fun ok awake => ?_, fun bad => ?_, fun kind va i which => ?_,
    fun inside off => ⟨fun ok => ?_, fun bad => ?_⟩, fun inside armed left => ?_, fun inside armed satisfied written closing ok => ?_,
    fun inside armed closing => ?_, fun inside off => ?_, withV_eq w2, fun inside => hsubciWrite_runs fn enabled runs inside ci,
    fun n x m found dst body slot first => ⟨fun armed word next room => ?_, fun old => ?_⟩, registerWrite_word fn enabled runs data,
    fun low other => ⟨_, registerWrite_other fn enabled runs data low other, ?_⟩, ⟨_, functionLevelReset_runs fn enabled runs, ?_⟩, rfl⟩
  · refine ⟨_, publishHeader_dropped fn enabled runs w0 w1 w2 w3 busy i among, ?_⟩
    rw [State.headerDropped, State.vf_stat _ fn, State.vf_modVf_self _ fn]
    exact ⟨rfl, rfl, rfl⟩
  · rw [hptedataWrite_eq fn enabled runs, if_pos (by rw [ok, asleep]; rfl)]
  · refine ⟨_, (hptedataWrite_eq fn enabled runs data).trans (congrArg _ ((if_neg (by rw [awake]; simp)).trans (if_pos ok))), rfl, fun a => ?_⟩
    exact Memory.read_writeWord ..
  · refine ⟨_, (hptedataWrite_eq fn enabled runs data).trans (congrArg _ ((if_neg (by rw [bad]; simp)).trans (if_neg (by rw [bad]; simp)))), ?_⟩
    rw [State.vf_stat _ fn]
    exact ⟨rfl, rfl⟩
  · have invalidates : exec i s = .next (s.htlbinv p kind va) := by
      rcases which with ⟨rfl, rfl, rfl⟩ | ⟨rfl, rfl, rfl⟩
      · change execHtlbinvAsid p s = _
        exact onVf_lt fn enabled runs _
      · change execHtlbinvPage p w s = _
        exact onVf_lt fn enabled runs _
    refine ⟨fun free => ⟨_, invalidates.trans (congrArg _ (State.htlbinv_done fn free kind va)), ?_⟩,
      fun busy => invalidates.trans (congrArg _ (State.htlbinv_waits fn busy kind va))⟩
    rw [State.vf_modVf_self _ fn]
    refine ⟨rfl, rfl, fun t => ?_, fun h => ?_⟩
    · rw [State.modVf_n, State.tlbRemove_modVf]
      rfl
    · rw [State.modVf_hub, State.tlbRemove_modVf]
      rfl
  · rw [hsubArm_runs fn enabled runs inside, State.hsubArm_new entryIs off ok]
  · refine ⟨_, (hsubArm_runs fn enabled runs inside w2).trans (congrArg _ (State.hsubArm_bad entryIs off bad)), ?_⟩
    rw [State.vf_stat _ fn, State.vf_modVf_self _ fn]
    refine ⟨rfl, ?_⟩
    dsimp only
    rw [AMap.getD_set, if_pos rfl]
  · rw [hsubArm_runs fn enabled runs inside, State.hsubArm_waits entryIs armed left]
  · rw [hsubArm_runs fn enabled runs inside, State.hsubArm_rearm entryIs armed satisfied written closing ok]
  · rw [hsubWithdraw_runs fn enabled runs inside, State.hsubWithdraw_armed entryIs armed closing]
  · rw [hsubWithdraw_runs fn enabled runs inside, State.hsubWithdraw_off entryIs off]
  · rw [hostDelivery_takes fn enabled runs entryIs found (Msg.copyFor_eq_some.2 ⟨dst, body, slot⟩) (.inr next) (before first),
      (staleIff x).2 ⟨armed, word⟩, if_neg Bool.false_ne_true, if_neg (Nat.not_le.2 room)]
  · have stale : entry.stale x = true := by simpa [HostSub.stale] using old
    rw [hostDelivery_takes fn enabled runs entryIs found (Msg.copyFor_eq_some.2 ⟨dst, body, slot⟩) (.inl stale) (before first), if_pos stale]
  · rw [State.vf_stat _ fn]
  · obtain ⟨g, is⟩ := s.vf_resetVf fn
    rw [is]
    refine ⟨rfl, rfl, rfl, rfl, rfl, fun x among => ?_⟩
    obtain ⟨y, -, rfl⟩ := List.mem_map.1 among
    rfl

end Sys2Proof.Machine

end

/-! PROOFS. Boot, the security version, alarms and attestation (R400 to R405). -/

section

namespace Sys2Proof.Machine

/-! ### A start and its journal (R400, R401) -/

/-- A table listed by its keys. -/
theorem AMap.getD_tabulate {α : Type} (g : Nat → α) (d : α) {k : Nat} {l : List Nat} (among : k ∈ l) : AMap.getD (l.map fun j => (j, g j)) k d = g k := by
  induction l with
  | nil => simp at among
  | cons j l ih =>
    rw [List.map_cons, AMap.getD, AMap.get?]
    split
    · next same => rw [same, Option.getD_some]
    · next other => exact ih ((List.mem_cons.1 among).resolve_left other)

theorem State.hubs_beforeStart (s : State) : ∃ u : State, s.beforeStart.hubs =
    (List.range Config.numFields).map fun f => (f, { u.hub f with excluded := false, powered := false }) := ⟨_, rfl⟩

theorem State.hub_beforeStart (s : State) {f : Nat} (field : f < Config.numFields) :
    (s.beforeStart.hub f).powered = false ∧ (s.beforeStart.hub f).excluded = false := by
  obtain ⟨u, hubs⟩ := s.hubs_beforeStart
  rw [State.hub, hubs, AMap.getD_tabulate _ _ (List.mem_range.2 field)]
  exact ⟨rfl, rfl⟩

section

variable {s : State} {inp : BootInputs} {step unit : Nat} {normal alt : Bool}

theorem State.bootUnit_normal (next : bits (s.ctl.journal.getD (bootIndex step unit) 0) 33 32 = 0) :
    (s.bootUnit inp step unit normal alt).2 = if normal then .normal else .failed := by
  unfold State.bootUnit
  dsimp only
  rw [next, if_neg (by simp), if_neg (by simp)]

theorem State.bootUnit_alternate (can : hasAlternate step = true) (next : bits (s.ctl.journal.getD (bootIndex step unit) 0) 33 32 = 1) :
    (s.bootUnit inp step unit normal alt).2 = if alt then .alternate else .failed := by
  unfold State.bootUnit
  dsimp only
  rw [next, if_neg (by simp), if_pos (by simp [can])]

theorem State.bootUnit_skipped (can : skippable step = true) (next : bits (s.ctl.journal.getD (bootIndex step unit) 0) 33 32 = 2) :
    (s.bootUnit inp step unit normal alt).2 = .skipped := by
  unfold State.bootUnit
  dsimp only
  rw [next, if_pos (by simp [can])]

end

/-! ### The security version (R402) -/

theorem fromBytes_lt (l : List Byte) : fromBytes l < 256 ^ l.length := by
  induction l with
  | nil => exact Nat.one_pos
  | cons b l ih =>
    have byte : b.toNat < 256 := b.isLt
    rw [fromBytes, List.length_cons, Nat.pow_succ']
    omega

theorem imageField_lt (img : List Byte) (off n : Nat) : imageField img off n < 256 ^ n :=
  lt_of_lt_of_le (fromBytes_lt _) (Nat.pow_le_pow_right (by decide) (by simp))

/-- A record whose image is accepted raises the security version. -/
theorem svnmin_le {svnmin : BitVec 32} {kind : Nat} {img : List Byte} (ok : imageOk svnmin kind img = true) : svnmin ≤ BitVec.ofNat 32 (imageField img 8 4) := by
  have least : svnmin.toNat ≤ imageField img 8 4 := by
    unfold imageOk at ok
    simp only [Bool.and_eq_true, decide_eq_true_eq] at ok
    exact ok.1.2
  have word : imageField img 8 4 < 2 ^ 32 := imageField_lt img 8 4
  rw [BitVec.le_def, BitVec.toNat_ofNat, Nat.mod_eq_of_lt word]
  exact least

theorem svnminUpdate_raises {s : State} {record : List (BitVec 8)} (started : s.ctl.started = true) (runs : s.ctl.halted = false)
    (ok : imageOk s.ctl.svnmin 3 record = true) (empty : imageBody record = []) :
    exec (.svnminUpdate record) s = .next { s with ctl := { s.ctl with svnmin := BitVec.ofNat 32 (imageField record 8 4) } } := by
  change execSvnminUpdate record s = _
  exact congrArg _ (if_pos (by rw [started, runs, ok, empty]; rfl))

theorem svnminUpdate_refused {s : State} {record : List (BitVec 8)}
    (bad : ¬ (s.ctl.started = true ∧ s.ctl.halted = false ∧ imageOk s.ctl.svnmin 3 record = true ∧ imageBody record = [])) :
    exec (.svnminUpdate record) s = .next s := by
  change execSvnminUpdate record s = _
  refine congrArg _ (if_neg fun all => bad ?_)
  simp only [Bool.and_eq_true, Bool.not_eq_true', List.isEmpty_iff] at all
  obtain ⟨⟨⟨started, runs⟩, ok⟩, empty⟩ := all
  exact ⟨started, runs, ok, empty⟩

/-! ### Alarms and the erasure (R404, R405) -/

theorem State.ctl_critSweep (s : State) (f : Nat) : (s.critSweep f).ctl = s.ctl := by
  unfold State.critSweep
  split
  · rfl
  · split
    · rfl
    · split <;> rfl

/-- The compute rails of a field go at an alarm. -/
def State.railsAlarm (s : State) (f : Nat) : State :=
  if !(s.hub f).powered then s.modHub f fun h => { h with railsOff := true }
  else if (s.hub f).crit.isSome then s
  else State.critSweep (s.modHub f fun h => { h with crit := some s.quartz }) f

theorem State.ctl_railsAlarm (s : State) (f : Nat) : (s.railsAlarm f).ctl = s.ctl := by
  unfold State.railsAlarm
  split
  · rfl
  · split
    · rfl
    · exact State.ctl_critSweep ..

theorem State.ctl_foldl_railsAlarm (l : List Nat) (s : State) : (l.foldl State.railsAlarm s).ctl = s.ctl := by
  induction l generalizing s with
  | nil => rfl
  | cons f l ih => exact (ih _).trans (s.ctl_railsAlarm f)

/-- The compute rails that an alarm takes leave the alarms as they are recorded. -/
theorem State.alarms_alarmRails (s : State) : s.alarmRails.ctl.alarms = s.ctl.alarms := by
  have fields := State.ctl_foldl_railsAlarm (List.range Config.numFields) s
  unfold State.railsAlarm at fields
  unfold State.alarmRails
  dsimp only
  rw [fields]

/-- What an alarm records of its source. -/
def State.alarmed (s : State) (source : Nat) : State := { s with ctl := { s.ctl with alarms := s.ctl.alarms ||| BitVec.ofNat 5 (2 ^ source) } }

theorem State.alarm_again {s : State} (pending : s.ctl.erasePending = true) (source : Nat) (random : List Byte) : s.alarm source random = s.alarmed source :=
  if_pos pending

theorem State.alarms_alarm (s : State) (source : Nat) (random : List Byte) : (s.alarm source random).ctl.alarms = s.ctl.alarms ||| BitVec.ofNat 5 (2 ^ source) := by
  unfold State.alarm
  dsimp only
  split
  · rfl
  · split
    · rfl
    · split
      · rfl
      · exact State.alarms_alarmRails _
    · rfl

theorem State.getLsbD_alarm (s : State) {source : Nat} (lt : source < 5) (random : List Byte) : (s.alarm source random).ctl.alarms.getLsbD source = true := by
  rw [State.alarms_alarm, BitVec.getLsbD_or, BitVec.getLsbD_ofNat, Nat.testBit_two_pow_self]
  simp [lt]

theorem securityAlarm_raises {src : BitVec 3} {random : List (BitVec 8)} {s : State} (source : src.toNat < 5) (third : src.toNat = 4 → 3 ≤ s.ctl.verifyFails) :
    exec (.securityAlarm src random) s = .next (s.alarm src.toNat random) := by
  change execSecurityAlarm src random s = _
  refine (if_neg (Nat.not_le.2 source)).trans (congrArg _ (if_neg ?_))
  rintro ⟨rfl, few⟩
  exact absurd (third rfl) (Nat.not_le.2 few)

theorem securityAlarm_early {src : BitVec 3} {random : List (BitVec 8)} {s : State} (four : src.toNat = 4) (few : s.ctl.verifyFails < 3) :
    exec (.securityAlarm src random) s = .next s := by
  have is : src = 4 := BitVec.eq_of_toNat_eq four
  change execSecurityAlarm src random s = _
  exact (if_neg (by omega)).trans (congrArg _ (if_pos ⟨is, few⟩))

theorem State.eraseKeys_wipes (s : State) {random : List Byte} (enough : Config.secureBytes ≤ random.length) :
    ∀ a ∈ [(s.eraseKeys random).ctl.secureA, (s.eraseKeys random).ctl.secureB], a = .wiped (random.take Config.secureBytes) false := by
  have none_ : List.replicate (Config.secureBytes - random.length) (0 : Byte) = [] := by rw [Nat.sub_eq_zero_of_le enough]; rfl
  intro a among
  have is : a = .wiped (random.take Config.secureBytes ++ List.replicate (Config.secureBytes - random.length) 0) false := by
    simpa [State.eraseKeys] using among
  rw [is, none_, List.append_nil]

/-! ### Attestation (R403) -/

theorem State.spdm_halted {s : State} (halted : s.ctl.halted = true) (f : State → State) : s.spdm f = .next s := congrArg _ (if_pos halted)

theorem State.spdm_runs {s : State} (runs : s.ctl.halted = false) (f : State → State) : s.spdm f = .next (f s) := congrArg _ (if_neg (by simp [runs]))

/-- A halted module answers no request. -/
theorem spdm_halted {req : List (BitVec 8)} {index : BitVec 8} {signed : Bool} {s : State} (halted : s.ctl.halted = true) :
    ∀ i ∈ [Instr.spdmGetVersion req, .spdmGetCapabilities req, .spdmNegotiateAlgorithms req, .spdmGetDigests req,
      .spdmGetCertificate req, .spdmChallenge req, .spdmGetMeasurements req index signed], exec i s = .next s := by
  intro i among
  simp only [List.mem_cons, List.not_mem_nil, or_false] at among
  rcases among with rfl | rfl | rfl | rfl | rfl | rfl | rfl
  · change execSpdmGetVersion req s = _
    exact State.spdm_halted halted _
  · change execSpdmGetCapabilities req s = _
    exact State.spdm_halted halted _
  · change execSpdmNegotiateAlgorithms req s = _
    exact State.spdm_halted halted _
  · change execSpdmGetDigests req s = _
    exact State.spdm_halted halted _
  · change execSpdmGetCertificate req s = _
    unfold execSpdmGetCertificate
    exact State.spdm_halted halted _
  · change execSpdmChallenge req s = _
    exact State.spdm_halted halted _
  · change execSpdmGetMeasurements req index signed s = _
    exact State.spdm_halted halted _

section

variable {req : List (BitVec 8)} {index : BitVec 8} {signed : Bool} {s : State} (runs : s.ctl.halted = false)
include runs

theorem spdmGetVersion_starts : exec (.spdmGetVersion req) s = .next (State.spdmAnswer { s with ctl := { s.ctl with
    version := true, algorithms := false, vca := [], certs := [], meas := [] } } .vca req [0x10, 0x04, 0, 0, 0, 1, 0x00, 0x12]) := by
  change execSpdmGetVersion req s = _
  exact State.spdm_runs runs _

theorem spdmGetCapabilities_eq : exec (.spdmGetCapabilities req) s =
    .next (if s.ctl.version then s.spdmAnswer .vca req (spdmMsg 0x61 0 0 (capabilitiesBody req)) else s.spdmUnexpected) := by
  change execSpdmGetCapabilities req s = _
  exact State.spdm_runs runs _

theorem spdmNegotiateAlgorithms_eq : exec (.spdmNegotiateAlgorithms req) s = .next (if s.ctl.version then
    State.spdmAnswer { s with ctl := { s.ctl with algorithms := true } } .vca req (spdmMsg 0x63 0 0 algorithmsBody) else s.spdmUnexpected) := by
  change execSpdmNegotiateAlgorithms req s = _
  exact State.spdm_runs runs _

theorem spdmGetDigests_eq : exec (.spdmGetDigests req) s =
    .next (if s.ctl.algorithms then s.spdmAnswer .certs req (spdmMsg 0x01 0 1 (Shake.sha3_512 Config.certChain)) else s.spdmUnexpected) := by
  change execSpdmGetDigests req s = _
  exact State.spdm_runs runs _

theorem spdmGetCertificate_eq :
    let part := (Config.certChain.drop (imageField req 4 2)).take (imageField req 6 2)
    exec (.spdmGetCertificate req) s = .next (if !s.ctl.algorithms then s.spdmUnexpected else if req.getD 2 0 ≠ 0 then s.spdmError 0x01
      else s.spdmAnswer .certs req (spdmMsg 0x02 0 0 (toBytes part.length 2 ++ toBytes (Config.certChain.length - imageField req 4 2 - part.length) 2 ++ part))) := by
  intro part
  change execSpdmGetCertificate req s = _
  unfold execSpdmGetCertificate
  exact State.spdm_runs runs _

/-! #### Signed answers -/

omit runs in
theorem Ctl.canSign_iff (c : Ctl) : c.canSign = true ↔ c.keysPresent = true ∧ c.erasePending = false := by simp [Ctl.canSign]

omit runs in
theorem Ctl.canSign_eq_false (c : Ctl) : c.canSign = false ↔ c.keysPresent = false ∨ c.erasePending = true := by
  rw [Ctl.canSign, Bool.and_eq_false_iff, Bool.not_eq_false']

omit runs in
theorem State.spdmSigned_signs (can : s.ctl.canSign = true) (k : Script) (context body : List Byte) :
    s.spdmSigned k context req body = { s with ctl := { s.ctl with
      response := body ++ Ed448.sign context Config.attestationKey (spdmPrefix context ++ Shake.sha3_512 (s.ctl.script k ++ req ++ body))
      certs := if k = .certs then [] else s.ctl.certs, meas := [] } } := by
  have pairs : s.ctl.keyPairs = some (Config.identityKey, Config.attestationKey) := if_pos ((Ctl.canSign_iff _).1 can).1
  unfold State.spdmSigned
  rw [can, pairs]

theorem spdmChallenge_unexpected (cannot : s.ctl.algorithms = false ∨ s.ctl.canSign = false) : exec (.spdmChallenge req) s = .next s.spdmUnexpected := by
  change execSpdmChallenge req s = _
  refine (State.spdm_runs runs _).trans (congrArg _ (if_pos ?_))
  rcases cannot with h | h <;> simp [h]

theorem spdmChallenge_answered (known : s.ctl.algorithms = true) (can : s.ctl.canSign = true) {summary : List Byte} (slot : req.getD 2 0 = 0)
    (kind : s.spdmSummary (req.getD 3 0) = some summary) :
    exec (.spdmChallenge req) s = .next (State.spdmSigned { s with freeCtr := s.freeCtr + 1 } .certs challengeContext req
      (spdmMsg 0x03 0 1 (Shake.sha3_512 Config.certChain ++ Config.spdmNonce s.freeCtr ++ summary ++ [0, 0]))) := by
  change execSpdmChallenge req s = _
  refine (State.spdm_runs runs _).trans (congrArg _ ((if_neg (by simp [known, can])).trans ?_))
  rw [slot, kind]
  rfl

theorem spdmChallenge_refused (known : s.ctl.algorithms = true) (can : s.ctl.canSign = true) (bad : req.getD 2 0 ≠ 0 ∨ s.spdmSummary (req.getD 3 0) = none) :
    exec (.spdmChallenge req) s = .next (s.spdmError 1) := by
  change execSpdmChallenge req s = _
  refine (State.spdm_runs runs _).trans (congrArg _ ((if_neg (by simp [known, can])).trans ?_))
  rcases bad with slot | kind
  · rw [beq_eq_false_iff_ne.2 slot]
  · rw [kind]
    cases req.getD 2 0 == 0 <;> rfl

theorem spdmGetMeasurements_unexpected (cannot : s.ctl.algorithms = false ∨ (signed = true ∧ s.ctl.canSign = false)) :
    exec (.spdmGetMeasurements req index signed) s = .next s.spdmUnexpected := by
  change execSpdmGetMeasurements req index signed s = _
  refine (State.spdm_runs runs _).trans (congrArg _ (if_pos ?_))
  rcases cannot with h | ⟨h, k⟩ <;> simp [*]

theorem spdmGetMeasurements_refused (known : s.ctl.algorithms = true) (can : signed = true → s.ctl.canSign = true)
    (bad : (signed = true ∧ (req.getD 36 0).toNat % 16 ≠ 0) ∨ spdmIndices index = none) : exec (.spdmGetMeasurements req index signed) s = .next (s.spdmError 1) := by
  change execSpdmGetMeasurements req index signed s = _
  refine (State.spdm_runs runs _).trans (congrArg _ ((if_neg ?_).trans ?_))
  · cases signed <;> simp_all
  · rcases bad with ⟨is, slot⟩ | indices
    · rw [is, bne_iff_ne.2 slot]
      rfl
    · rw [indices]
      cases signed && (req.getD 36 0).toNat % 16 != 0 <;> rfl

/-- The body of an answer about measurements. -/
def State.measurementsBody (s : State) (index : BitVec 8) (l : List Nat) : List Byte :=
  spdmMsg 0x60 (if index = 0 then 6 else 0) 0 (BitVec.ofNat 8 l.length :: toBytes (l.flatMap s.blockOf).length 3 ++
    l.flatMap s.blockOf ++ Config.spdmNonce s.freeCtr ++ [0, 0])

theorem spdmGetMeasurements_answered {l : List Nat} (known : s.ctl.algorithms = true) (can : signed = true → s.ctl.canSign = true)
    (slot : signed = true → (req.getD 36 0).toNat % 16 = 0) (indices : spdmIndices index = some l) :
    exec (.spdmGetMeasurements req index signed) s = .next (
      if signed then State.spdmSigned { s with freeCtr := s.freeCtr + 1 } .meas measurementContext req (s.measurementsBody index l)
      else State.spdmAnswer { s with freeCtr := s.freeCtr + 1 } .meas req (s.measurementsBody index l)) := by
  have fits : (signed && (req.getD 36 0).toNat % 16 != 0) = false := by cases signed <;> simp_all
  change execSpdmGetMeasurements req index signed s = _
  refine (State.spdm_runs runs _).trans (congrArg _ ((if_neg ?_).trans ?_))
  · cases signed <;> simp_all
  · rw [fits, indices]
    rfl

end

/-- The summary hashes that a challenge may name. -/
theorem State.spdmSummary_some (s : State) {kind : BitVec 8} {summary : List Byte}
    (is : (kind = 0 ∧ summary = []) ∨ (kind = 1 ∧ summary = Shake.sha3_512 (([1, 2, 3, 4, 5, 0xF0].filter Config.spdmTcb).flatMap s.blockOf)) ∨
      (kind = 0xFF ∧ summary = Shake.sha3_512 ([1, 2, 3, 4, 5, 0xF0].flatMap s.blockOf))) : s.spdmSummary kind = some summary := by
  rcases is with ⟨rfl, rfl⟩ | ⟨rfl, rfl⟩ | ⟨rfl, rfl⟩
  · rw [State.spdmSummary, if_pos rfl]
  · rw [State.spdmSummary, if_neg (by decide), if_pos rfl]
  · rw [State.spdmSummary, if_neg (by decide), if_neg (by decide), if_pos rfl]

theorem State.spdmSummary_none (s : State) {kind : BitVec 8} (zero : kind ≠ 0) (one : kind ≠ 1) (all : kind ≠ 0xFF) : s.spdmSummary kind = none := by
  rw [State.spdmSummary, if_neg zero, if_neg one, if_neg all]

/-- Settles O48. -/
theorem bootAndAttestation : Obligations.BootAndAttestation := by
  intro inp req record src index signed s
  refine ⟨rfl, rfl, rfl, fun f field => s.hub_beforeStart field, fun step unit alt next => ⟨State.bootUnit_normal next, State.bootUnit_normal next⟩,
    fun step unit normal can next => ⟨State.bootUnit_alternate can next, State.bootUnit_alternate can next⟩,
    fun step unit normal alt can next => State.bootUnit_skipped can next, ?_, fun source third => ⟨securityAlarm_raises source third, s.getLsbD_alarm source req⟩,
    fun four few => securityAlarm_early four few, fun none_ => if_pos none_, fun pending => State.alarm_again pending _ _,
    ⟨rfl, rfl, s.eraseKeys_wipes⟩, spdm_halted, fun runs => ⟨_, spdmGetVersion_starts runs, rfl, rfl, rfl, rfl, rfl, rfl⟩,
    fun runs known => ⟨?_, ?_, ?_⟩, fun runs known => ⟨?_, ⟨fun slot => ?_, fun slot => ?_⟩, ?_⟩, fun runs new => ?_, fun runs new => ?_⟩
  · intro ok
    by_cases may : ok
    · obtain ⟨started, runs, image, empty⟩ := may
      exact ⟨_, svnminUpdate_raises started runs image empty, svnmin_le image, fun _ => rfl, fun no => absurd ⟨started, runs, image, empty⟩ no⟩
    · exact ⟨_, svnminUpdate_refused may, BitVec.le_refl _, fun yes => absurd yes may, fun _ => rfl⟩
  · rw [spdmGetCapabilities_eq runs, if_pos known]
  · rfl
  · exact ⟨_, (spdmNegotiateAlgorithms_eq runs).trans (congrArg _ (if_pos known)), rfl, rfl, rfl⟩
  · rw [spdmGetDigests_eq runs, if_pos known]
  · rw [spdmGetCertificate_eq runs, if_neg (by simp [known]), if_neg (not_not_intro slot)]
  · rw [spdmGetCertificate_eq runs, if_neg (by simp [known]), if_pos slot]
  · intro sign auth hash kind meas next
    refine ⟨fun keys idle => ?_, fun l indices unsigned => ?_, fun indices may => ?_, fun cannot => ?_⟩
    · have can : s.ctl.canSign = true := (Ctl.canSign_iff _).2 ⟨keys, idle⟩
      have signs (k : Script) (context body : List Byte) := State.spdmSigned_signs (req := req) (s := next) can k context body
      refine ⟨fun summary slot is => ⟨_, (spdmChallenge_answered runs known can slot (s.spdmSummary_some is)).trans (congrArg _ (signs ..)), rfl, rfl, rfl⟩,
        fun bad => spdmChallenge_refused runs known can (bad.imp id fun ⟨zero, one, all⟩ => s.spdmSummary_none zero one all),
        fun is slot => spdmGetMeasurements_refused runs known (fun _ => can) (.inl ⟨is, slot⟩),
        fun l indices is slot => ⟨_, (spdmGetMeasurements_answered runs known (fun _ => can) (fun _ => slot) indices).trans
          (congrArg _ ((if_pos is).trans (signs ..))), rfl, rfl⟩⟩
    · rw [spdmGetMeasurements_answered runs known (by simp [unsigned]) (by simp [unsigned]) indices, if_neg (by simp [unsigned])]
      rfl
    · exact spdmGetMeasurements_refused runs known (fun is => (Ctl.canSign_iff _).2 (may is)) (.inr indices)
    · have no : s.ctl.canSign = false := (Ctl.canSign_eq_false _).2 cannot
      exact ⟨spdmChallenge_unexpected runs (.inr no), fun is => spdmGetMeasurements_unexpected runs (.inr ⟨is, no⟩)⟩
  · intro i among
    simp only [List.mem_cons, List.not_mem_nil, or_false] at among
    rcases among with rfl | rfl
    · rw [spdmGetCapabilities_eq runs, if_neg (by simp [new])]
    · rw [spdmNegotiateAlgorithms_eq runs, if_neg (by simp [new])]
  · intro i among
    simp only [List.mem_cons, List.not_mem_nil, or_false] at among
    rcases among with rfl | rfl | rfl | rfl
    · rw [spdmGetDigests_eq runs, if_neg (by simp [new])]
    · rw [spdmGetCertificate_eq runs, if_pos (by simp [new])]
    · exact spdmChallenge_unexpected runs (.inl new)
    · exact spdmGetMeasurements_unexpected runs (.inl new)

end Sys2Proof.Machine

end

/-! PROOFS. The routers of the name plane (R79, R80, R88 to R91). -/

section

namespace Sys2Proof.Machine

/-! ### Messages at a router -/

theorem nameMsg_router {s : State} {m r b : Nat} {src : Agent} {cls : Cls} {op : NameOp} {x : NameMsg} {sm : Bool} {ok : NameOp → Bool}
    (here : Arrives s m ⟨src, .tile r, cls, .name op x, b, sm⟩) (is : ok op = true) (router : x.router ≠ atDirectory) :
    s.nameMsg m ok true = some (r, op, x) := by
  obtain ⟨found, may⟩ := here
  unfold State.nameMsg
  rw [found]
  exact if_pos (by simp [is, may, router])

theorem NDom.noteName_eq (n : NDom) (x : NameMsg) : n.noteName x = { n with applied := (n.noteName x).applied } := by
  have applied := n.noteApplied_eq x.who x.oseq true
  unfold NDom.noteName
  dsimp only
  rw [applied]
  split
  · split <;> rfl
  · rfl

/-- The name-match table stays as a message's numbers are noted. -/
theorem State.nmt_noted (s : State) (r : Nat) (x : NameMsg) : ((s.modN r fun n => n.noteName x).n r).nmt = (s.n r).nmt := by
  rw [State.n_modN_self, NDom.noteName_eq]

/-! ### Registrations and prunes (R79, R80, R399) -/

section

variable {s : State} {m r b : Nat} {src : Agent} {cls : Cls} {x : NameMsg} {sm : Bool} (router : x.router ≠ atDirectory)
include router

section

variable (here : Arrives s m ⟨src, .tile r, cls, .name .reg x, b, sm⟩)
include here

theorem registration_passes (passes : (s.dropMsg m).passes r x = true) : exec (.registrationAtRouter m) s = .next ((s.dropMsg m).passReg r x) := by
  change execRegistrationAtRouter m s = _
  unfold execRegistrationAtRouter
  rw [nameMsg_router here (by decide) router]
  exact if_pos passes

variable (new : (s.dropMsg m).passes r x = false)
include new

theorem registration_marked (marked : x.overflow = true) :
    exec (.registrationAtRouter m) s = .next (((s.dropMsg m).modN r fun n => n.noteName x).climbOn r .reg x) := by
  change execRegistrationAtRouter m s = _
  unfold execRegistrationAtRouter
  rw [nameMsg_router here (by decide) router]
  exact (if_neg (by simp [new])).trans (if_pos marked)

variable (unmarked : x.overflow = false)
include unmarked

theorem registration_first (none_ : (((s.dropMsg m).n r).nmt.find? fun e => e.is x) = none) (room : ((s.dropMsg m).n r).nmt.length < 2048) :
    exec (.registrationAtRouter m) s = .next ((((s.dropMsg m).modN r fun n => n.noteName x).modN r fun n => { n with
      nmt := n.nmt ++ [freshNmt x x.port] }).climbOn r .reg x) := by
  change execRegistrationAtRouter m s = _
  unfold execRegistrationAtRouter
  rw [nameMsg_router here (by decide) router]
  refine (if_neg (by simp [new])).trans ((if_neg (by simp [unmarked])).trans ?_)
  rw [State.nmt_noted, none_]
  exact if_pos room

theorem registration_more {e : Nmt} (found : (((s.dropMsg m).n r).nmt.find? fun e => e.is x) = some e) (room : e.cnt.getD x.port 0 < 255) :
    exec (.registrationAtRouter m) s = .next ((((s.dropMsg m).modN r fun n => n.noteName x).modN r fun n => n.modNmt x fun e =>
      e.more x.port x.credit).climbOn r .reg { x with late := x.late || (e.det.getD x.port false && e.cnt.getD x.port 0 != 0) }) := by
  change execRegistrationAtRouter m s = _
  unfold execRegistrationAtRouter
  rw [nameMsg_router here (by decide) router]
  refine (if_neg (by simp [new])).trans ((if_neg (by simp [unmarked])).trans ?_)
  rw [State.nmt_noted, found]
  exact if_pos room

theorem registration_full (full : ((((s.dropMsg m).n r).nmt.find? fun e => e.is x) = none ∧ 2048 ≤ ((s.dropMsg m).n r).nmt.length) ∨
      ∃ e, (((s.dropMsg m).n r).nmt.find? fun e => e.is x) = some e ∧ 255 ≤ e.cnt.getD x.port 0) :
    let noted : State := (s.dropMsg m).modN r fun n => n.noteName x
    exec (.registrationAtRouter m) s = .next (((noted.countT r 3 1).pruneBelow r x.anew (noted.below (noted.partOf r) r x)).climbOn r .reg
      { x with overflow := true }) := by
  change execRegistrationAtRouter m s = _
  unfold execRegistrationAtRouter
  rw [nameMsg_router here (by decide) router]
  refine (if_neg (by simp [new])).trans ((if_neg (by simp [unmarked])).trans ?_)
  rw [State.nmt_noted]
  rcases full with ⟨none_, long⟩ | ⟨e, found, many⟩
  · rw [none_]
    exact if_neg (Nat.not_lt.2 long)
  · rw [found]
    exact if_neg (Nat.not_lt.2 many)

end

variable (here : Arrives s m ⟨src, .tile r, cls, .name .prune x, b, sm⟩)
include here

theorem prune_passes (passes : (s.dropMsg m).passes r x = true) : exec (.pruneAtRouter m) s = .next ((s.dropMsg m).climbOn r .prune x) := by
  change execPruneAtRouter m s = _
  unfold execPruneAtRouter
  rw [nameMsg_router here (by decide) router]
  exact if_pos passes

theorem prune_counts (new : (s.dropMsg m).passes r x = false) :
    let noted : State := (s.dropMsg m).modN r fun n => n.noteName x
    let cut : State := if x.overflow then noted
      else (noted.modN r fun n => n.modNmt x fun e => if e.cnt.getD x.port 0 ≥ 1 then e.less x.port else e).sweepNmt r
    exec (.pruneAtRouter m) s = .next (if x.mode = 1 then cut.pruneBelow r x x.path else cut.climbOn r .prune x) := by
  change execPruneAtRouter m s = _
  unfold execPruneAtRouter
  rw [nameMsg_router here (by decide) router]
  exact if_neg (by simp [new])

end

/-! ### Flits and elements (R79, R88, R89) -/

section

variable {s : State} {m r b : Nat} {src : Agent} {cls : Cls} {x : NameMsg} {sm : Bool}

theorem flit_leaves (router : x.router ≠ atDirectory) (here : Arrives s m ⟨src, .tile r, cls, .name .flit x, b, sm⟩) :
    let gone : State := s.dropMsg m
    let ports := (gone.n r).portsOf ((gone.n r).nmt.filter fun e => e.hits x.name && !e.stream)
    let out : State := gone.modN r fun n => { n with nmt := n.nmt.map fun e => if e.hits x.name && !e.stream then e.carried gone.quartz else e }
    let elem : NameMsg := { x with stream := true, both := false }
    let leave (go : List Nat) (u : State) : State := (List.range numPorts).foldl (fun (s : State) k =>
      if ports.contains k || go.contains k then s.postCopy r k (ports.contains k) (go.contains k) x else s) u
    (x.both = false → exec (.publishFlitAtRouter m) s = .next (leave [] out)) ∧
    (∀ go u, x.both = true → out.elementAt r (upstream r src) elem = some (go, u) → exec (.publishFlitAtRouter m) s = .next (leave go u)) ∧
    (x.both = true → out.elementAt r (upstream r src) elem = none →
      let net := s.net.set m ⟨src, .tile r, cls, .name .element { elem with waits := true }, b, sm⟩
      exec (.publishFlitAtRouter m) s = .next { leave [] out with net := net ++ (leave [] out).net.drop (net.length - 1) }) := by
  obtain ⟨found, may⟩ := here
  intro gone ports out elem leave
  have runs : exec (.publishFlitAtRouter m) s =
      let net := s.net.set m ⟨src, .tile r, cls, .name .element { elem with waits := true }, b, sm⟩
      let q := if x.both then out.elementAt r (upstream r src) elem else some ([], out)
      let left := leave ((q.map (·.1)).getD []) ((q.map (·.2)).getD out)
      .next (if q.isNone then { left with net := net ++ left.net.drop (net.length - 1) } else left) := by
    change execPublishFlitAtRouter m s = _
    unfold execPublishFlitAtRouter
    rw [found]
    exact if_neg (by simp [may, router])
  refine ⟨fun tree => ?_, fun go u both takes => ?_, fun both waits => ?_⟩
  · rw [runs, tree]
    rfl
  · rw [runs, both]
    dsimp only
    rw [if_pos rfl, takes]
    rfl
  · rw [runs, both]
    dsimp only
    rw [if_pos rfl, waits]
    rfl

/-- An element at a router that has no entry of its stream is dropped and counted. -/
theorem State.elementAt_none (none_ : ((s.n r).nmt.find? fun e => e.stream && e.name == x.name) = none) (u : Nat) :
    s.elementAt r u x = some ([], s.countT r 8 1) := by
  unfold State.elementAt
  rw [none_]

/-- An element at a router that has the entry of its stream (R89). -/
theorem State.elementAt_entry {e : Nmt} (found : ((s.n r).nmt.find? fun e => e.stream && e.name == x.name) = some e) (u : Nat) :
    let free (q : Nat) : Bool := decide (e.cr.getD q 0 > 0) && (q != 4 || s.localRoom r x) &&
      !(s.n r).heldElems.any fun h => h.port == q && h.msg.name == x.name
    let go := e.ports.filter free
    let stay := e.ports.filter fun q => !free q
    let s1 : State := s.modN r fun n => n.modNmt { x with stream := true, mask := 0 } fun e => e.carried s.quartz
    let s2 := stay.foldl (fun (s : State) q => s.holdElem r q x 6) (go.foldl (fun (s : State) q => s.noteElem r q x) s1)
    let s3 := if stay.isEmpty && !go.isEmpty then
      s2.modN r fun n => n.modNmt { x with stream := true, mask := 0 } fun e => { e with due := e.due ++ [(x.ver, u)] }
      else s2.creditUp r u x x.ver
    s.elementAt r u x = if go.isEmpty && !stay.isEmpty then none else some (go, s3) := by
  unfold State.elementAt
  rw [found]
  rfl

section

variable (here : Arrives s m ⟨src, .tile r, cls, .name .element x, b, sm⟩)
include here

theorem element_waits (none_ : (s.dropMsg m).elementAt r (upstream r src) { x with waits := false } = none) :
    exec (.streamElementAtRouter m) s = .next { s with net := s.net.set m ⟨src, .tile r, cls, .name .element { x with waits := true }, b, sm⟩ } := by
  obtain ⟨found, may⟩ := here
  change execStreamElementAtRouter m s = _
  unfold execStreamElementAtRouter
  rw [found]
  refine (if_neg (by simp [may])).trans ?_
  rw [none_]

theorem element_leaves {go : List Nat} {u : State} (takes : (s.dropMsg m).elementAt r (upstream r src) { x with waits := false } = some (go, u)) :
    exec (.streamElementAtRouter m) s = .next (go.foldl (fun (s : State) q => s.postCopy r q false true { x with waits := false }) u) := by
  obtain ⟨found, may⟩ := here
  change execStreamElementAtRouter m s = _
  unfold execStreamElementAtRouter
  rw [found]
  refine (if_neg (by simp [may])).trans ?_
  rw [takes]

end

/-! ### Credits and detached branches (R88, R90) -/

/-- The state after a credit, where the element was the first that every branch took. -/
def State.creditOn (s : State) (r : Nat) (e : Nmt) (x : NameMsg) : State :=
  match e.due.find? fun d => d.1 == x.ver with
  | some d => s.creditUp r d.2 x x.ver
  | none => s

variable (router : x.router ≠ atDirectory)
include router

theorem credit_returns {e : Nmt} (here : Arrives s m ⟨src, .tile r, cls, .name .credit x, b, sm⟩)
    (found : (((s.dropMsg m).n r).nmt.find? fun e => e.stream && e.name == x.name) = some e) :
    exec (.creditReturn m) s = .next (State.kick (State.creditOn ((s.dropMsg m).modN r fun n => n.modNmt { x with stream := true, mask := 0 } fun e => { e with
      cr := e.cr.set x.port (min 64 (e.cr.getD x.port 0 + 1)), sent := e.sent.erase (x.port, x.ver), due := e.due.filter fun d => d.1 != x.ver }) r e x) r x.port x 65) := by
  change execCreditReturn m s = _
  unfold execCreditReturn
  rw [nameMsg_router here (by decide) router]
  dsimp only
  rw [found]
  rfl

variable (here : Arrives s m ⟨src, .tile r, cls, .name .detach x, b, sm⟩)
include here

theorem detach_atTile (ends : x.completion = true) (powered : (s.tile r).powered = true) :
    let cut (i : Image) : Image := { i with fr := { i.fr with streams := i.fr.streams.map fun y =>
      if y.name = x.name ∧ !y.detached then { y with cut := true } else y } }
    let parked : State := (s.dropMsg m).modSlate r fun l => { l with images := l.images.map cut }
    exec (.detachNotice m) s = .next (((parked.c r).frames.flatMap fun e =>
      (e.2.streams.filter fun y => y.name == x.name && !y.detached).map fun y => (e.1, y)).foldl (fun (s : State) e => s.detachStream r e.1 e.2) parked) := by
  change execDetachNotice m s = _
  unfold execDetachNotice
  rw [nameMsg_router here (by decide) router]
  exact (if_pos ends).trans (if_neg (by simp [powered]))

theorem detach_runsOn (goes : x.completion = false) :
    let gone : State := s.dropMsg m
    let ports := (gone.n r).portsOf ((gone.n r).nmt.filter fun e => e.stream && e.name == x.name)
    let out := (ports.filter (5 ≤ ·)).foldl (fun (s : State) q =>
      s.post (.tile r) (.span (q - 5) 0) .nameCtl (.name .detach { x with router := atDirectory })) (gone.spread r ports .nameCtl .detach x)
    exec (.detachNotice m) s = .next (if ports.contains 4 then
      out.post (.tile r) (.tile r) .nameCtl (.name .detach { x with router := r, completion := true }) else out) := by
  intro gone ports out
  have spans : (ports.filter (5 ≤ ·)).foldl (fun (s : State) q => s.post (.tile r) (branchEnd r q).1 .nameCtl (.name .detach { x with router := atDirectory }))
      (gone.spread r ports .nameCtl .detach x) = out := by
    refine List.foldl_ext _ _ _ fun u q among => ?_
    have far : ¬ q < 5 := by simpa using (List.mem_filter.1 among).2
    rw [branchEnd, if_neg far]
  change execDetachNotice m s = _
  unfold execDetachNotice
  rw [nameMsg_router here (by decide) router]
  refine (if_neg (by simp [goes])).trans ?_
  dsimp only
  rw [spans]

end

/-! ### Circuits and expiries (R90, R91) -/

section

variable {s : State} {m r b : Nat} {src : Agent} {cls : Cls} {x : NameMsg} {sm : Bool}

/-- The home acknowledges a CIRC or a CIRCREL and sends it down the tree. -/
def State.circDown (s : State) (r : Nat) (op : NameOp) (x : NameMsg) : State :=
  (s.post (.tile r) x.who .reply (.name .ack x)).post (.tile r) (.tile r) .nameCtl (.name op { x.anew with router := r })

theorem circ_atHome (here : Arrives s m ⟨src, .tile r, cls, .name .circ x, b, sm⟩) (home : x.router = atDirectory) :
    exec (.circAtRouter m) s = .next ((s.dropMsg m).circDown r .circ x) := by
  obtain ⟨found, may⟩ := here
  change execCircAtRouter m s = _
  unfold execCircAtRouter
  rw [found]
  exact (if_neg (by simp [may])).trans (if_pos home)

theorem circrel_atHome (here : Arrives s m ⟨src, .tile r, cls, .name .circrel x, b, sm⟩) (home : x.router = atDirectory) :
    exec (.circrelAtRouter m) s = .next ((s.dropMsg m).circDown r .circrel x) := by
  obtain ⟨found, may⟩ := here
  change execCircrelAtRouter m s = _
  unfold execCircrelAtRouter
  rw [found]
  exact (if_neg (by simp [may])).trans (if_pos home)

/-- A router takes the reservation of a circuit at entry k, where it is free. -/
def NDom.takeCirc (tick : Nat) (x : NameMsg) (n : NDom) (k : Nat) : NDom :=
  match n.nmt[k]? with
  | some e => if e.hits x.name && !e.circ && n.circuitFree e then
      { n with nmt := n.nmt.set k { e with circ := true, circLeft := (circWord x.word).1, circIdle := (circWord x.word).2, circTick := tick } } else n
  | none => n

theorem circ_atRouter (here : Arrives s m ⟨src, .tile r, cls, .name .circ x, b, sm⟩) (router : x.router ≠ atDirectory) :
    exec (.circAtRouter m) s = .next (((s.dropMsg m).modN r fun n => (List.range n.nmt.length).foldl (NDom.takeCirc (s.dropMsg m).quartz x) n).spread r
      (((s.dropMsg m).n r).treePorts x.name) .nameCtl .circ x) := by
  obtain ⟨found, may⟩ := here
  change execCircAtRouter m s = _
  unfold execCircAtRouter
  rw [found]
  exact (if_neg (by simp [may])).trans (if_neg router)

theorem circrel_atRouter (here : Arrives s m ⟨src, .tile r, cls, .name .circrel x, b, sm⟩) (router : x.router ≠ atDirectory) :
    exec (.circrelAtRouter m) s = .next (((s.dropMsg m).modN r fun n => { n with
      nmt := n.nmt.map fun e => if e.hits x.name then { e with circ := false, circLeft := 0 } else e }).spread r
        (((s.dropMsg m).n r).treePorts x.name) .nameCtl .circrel x) := by
  obtain ⟨found, may⟩ := here
  change execCircrelAtRouter m s = _
  unfold execCircrelAtRouter
  rw [found]
  exact (if_neg (by simp [may])).trans (if_neg router)

variable {i : Nat} (tile : r < Config.numTiles)
include tile

theorem circIdleExpiry_releases {e : Nmt} (found : (s.n r).nmt[i]? = some e) (circ : e.circ = true) (due : e.circTick + e.circIdle ≤ s.quartz) :
    exec (.circIdleExpiry r i) s = .next (s.modN r fun n => { n with nmt := n.nmt.set i { e with circ := false, circLeft := 0 } }) := by
  change execCircIdleExpiry r i s = _
  unfold execCircIdleExpiry
  rw [onTile_lt tile, found]
  exact congrArg _ (if_pos ⟨circ, due⟩)

theorem branchstallExpiry_detaches {h : HeldElem} (found : (s.n r).heldElems[i]? = some h) (due : h.since + (s.c r).branchstall ≤ s.quartz) :
    exec (.branchstallExpiry r i) s = .next (s.detach r h.port h.msg) := by
  change execBranchstallExpiry r i s = _
  unfold execBranchstallExpiry
  rw [onTile_lt tile, found]
  exact congrArg _ (if_pos due)

end

/-- Settles O40. -/
theorem routersForwardByTheirTables : Obligations.RoutersForwardByTheirTables := by
  intro m r i s tile gone n here isElem
  refine ⟨fun src cls x b sm router arrives new => ⟨registration_marked router arrives new, registration_first router arrives new,
      fun e unmarked found room => registration_more router arrives new unmarked found room, registration_full router arrives new⟩,
    fun src cls x b sm router arrives new => prune_counts router arrives new,
    fun src cls x b sm router passes => ⟨fun arrives => registration_passes router arrives passes, fun arrives => prune_passes router arrives passes⟩,
    fun src cls x b sm router arrives => flit_leaves router arrives, fun src cls y b sm arrives => ?_,
    fun src cls x b sm e router arrives found => credit_returns router arrives found,
    fun src cls x b sm router arrives ends powered => detach_atTile router arrives ends powered,
    fun src cls x b sm router arrives goes => detach_runsOn router arrives goes,
    fun src cls op x b sm arrives => ⟨fun home => ⟨fun is => ?_, fun is => ?_⟩, fun router => ⟨fun is => ?_, fun is => ?_⟩⟩,
    fun e found circ due => ⟨_, circIdleExpiry_releases tile found circ due, by rw [State.n_modN_self]⟩,
    fun h found due => branchstallExpiry_detaches tile found due⟩
  · refine ⟨fun none_ => ?_, fun e found => ⟨fun noGo some_ => ?_, fun goes => ?_⟩⟩
    · exact element_leaves arrives (State.elementAt_none none_ _)
    · refine element_waits arrives ((State.elementAt_entry found _).trans (if_pos ?_))
      exact Bool.and_eq_true_iff.2 ⟨List.isEmpty_iff.2 noGo, (Bool.not_eq_true' _).mpr (List.isEmpty_eq_false_iff.2 some_)⟩
    · refine element_leaves arrives ((State.elementAt_entry found _).trans (if_neg fun waits => ?_))
      obtain ⟨noGo, some_⟩ := Bool.and_eq_true_iff.1 waits
      rcases goes with some_' | none_
      · exact some_' (List.isEmpty_iff.1 noGo)
      · exact List.isEmpty_eq_false_iff.1 ((Bool.not_eq_true' _).mp some_) none_
  · subst is
    exact circ_atHome arrives home
  · subst is
    exact circrel_atHome arrives home
  · subst is
    exact circ_atRouter arrives router
  · subst is
    exact circrel_atRouter arrives router

end Sys2Proof.Machine

end

/-! PROOFS. The name directory at a tile (R81 to R87, R317, R318, R321, R399, R400). -/

section

namespace Sys2Proof.Machine

/-! ### Messages at a directory (R81, R82, R399) -/

/-- Message m is one for the directory of tile t, and its turn has come (R82). -/
def AtHome (s : State) (m t : Nat) (src : Agent) (cls : Cls) (op : NameOp) (x : NameMsg) (b : Nat) (sm : Bool) : Prop :=
  Arrives s m ⟨src, .tile t, cls, .name op x, b, sm⟩ ∧ s.inOrder t (op.rank (s.ingress t ⟨src, .tile t, cls, .name op x, b, sm⟩)) = true

section

variable {s : State} {m t b : Nat} {src : Agent} {cls : Cls} {op : NameOp} {x : NameMsg} {sm : Bool}

theorem nameMsg_home {ok : NameOp → Bool} (here : AtHome s m t src cls op x b sm) (home : x.router = atDirectory) (is : ok op = true) :
    s.nameMsg m ok false = some (t, op, x) := by
  obtain ⟨⟨found, may⟩, turn⟩ := here
  unfold State.nameMsg
  rw [found]
  exact if_pos (by simp [is, may, home, turn])

/-- A message whose entry or record finds room is taken. -/
theorem State.orWait_admits (here : AtHome s m t src cls op x b sm) {need : Nat × Nat} (room : (s.n t).admits need = true) (f : State → State) :
    s.orWait t m need f = f (s.takeMsg m) := by
  unfold State.orWait
  rw [here.1.1]
  exact if_pos room

theorem State.orWait_waits (here : AtHome s m t src cls op x b sm) {need : Nat × Nat} (full : (s.n t).admits need = false) (f : State → State) :
    s.orWait t m need f = (s.takeMsg m).modN t fun n => { n with ingress := n.ingress ++ [⟨src, .tile t, cls, .name op x, b, sm⟩] } := by
  unfold State.orWait
  rw [here.1.1]
  exact if_neg (by simp [full])

/-! ### Name control (R83 to R86, R317, R318, R321) -/

section

variable (home : x.router = atDirectory)
include home

section

variable (here : AtHome s m t src cls op x b sm) (reg : op = .reg ∨ op = .rearm)
include here reg

theorem registration_again (seen : (s.n t).seen x = true) : exec (.registrationAtHome m) s = .next ((s.takeMsg m).ackAgain t op x) := by
  change execRegistrationAtHome m s = _
  unfold execRegistrationAtHome
  rw [nameMsg_home here home (by rcases reg with rfl | rfl <;> rfl)]
  exact congrArg _ (if_pos seen)

theorem registration_taken (new : (s.n t).seen x = false) (room : (s.n t).admits ((s.n t).needs (s.covered? (s.partOf t) x) x) = true) :
    exec (.registrationAtHome m) s = .next ((s.takeMsg m).takeReg t x) := by
  change execRegistrationAtHome m s = _
  unfold execRegistrationAtHome
  rw [nameMsg_home here home (by rcases reg with rfl | rfl <;> rfl)]
  exact congrArg _ ((if_neg (by simp [new])).trans (State.orWait_admits here room _))

end

section

variable (here : AtHome s m t src cls .prune x b sm)
include here

theorem pruneAtHome_again (seen : (s.n t).seen x = true) : exec (.pruneAtHome m) s = .next ((s.takeMsg m).ackAgain t .prune x) := by
  change execPruneAtHome m s = _
  unfold execPruneAtHome
  rw [nameMsg_home here home rfl]
  exact if_pos seen

/-- An entry without the records of a subscriber. -/
def NameEntry.without (e : NameEntry) (x : NameMsg) (now : Nat) : NameEntry :=
  if e.subs.any fun r => sameSub r.reg x then { e with subs := e.subs.filter (fun r => !sameSub r.reg x), touched := now } else e

omit home here in
theorem NameEntry.subs_without (e : NameEntry) (x : NameMsg) (now : Nat) {q : SubRec} (among : q ∈ (e.without x now).subs) : sameSub q.reg x = false := by
  unfold NameEntry.without at among
  split at among
  · simpa using (List.mem_filter.1 among).2
  · next none_ =>
    by_contra some_
    exact none_ (List.any_eq_true.2 ⟨q, among, by simpa using some_⟩)

theorem pruneAtHome_cuts (new : (s.n t).seen x = false) : ∃ u, exec (.pruneAtHome m) s = .next u ∧
    (u.n t).names = ((s.takeMsg m).n t).names.map fun e => e.without x (s.takeMsg m).quartz := by
  have runs : exec (.pruneAtHome m) s =
      let cut := (s.takeMsg m).modN t fun n => { n with
        names := n.names.map (fun e => e.without x (s.takeMsg m).quartz), ingress := n.ingress.filter fun y => !y.regOf x }
      .next (if x.origin = 0 then cut else cut.post (.tile t) x.who .reply (.name .ack x)) := by
    change execPruneAtHome m s = _
    unfold execPruneAtHome
    rw [nameMsg_home here home rfl]
    exact if_neg (by simp [new])
  refine ⟨_, runs, ?_⟩
  split
  · rw [State.n_modN_self]
  · rw [(State.Sent.post ..).n, State.n_modN_self]

end

section

variable (here : AtHome s m t src cls .claim x b sm)
include here

/-- What a claim needs of the directory. -/
def NDom.needsOne (n : NDom) (x : TileName) : Nat × Nat := if (n.entry? x).isSome then (0, 0) else (1, 0)

theorem claimAtHome_again (seen : (s.n t).seen x = true) : exec (.claimAtHome m) s = .next ((s.takeMsg m).ackAgain t .claim x) := by
  change execClaimAtHome m s = _
  unfold execClaimAtHome
  rw [nameMsg_home here home rfl]
  exact congrArg _ (if_pos seen)

theorem claimAtHome_taken (new : (s.n t).seen x = false) (room : (s.n t).admits ((s.n t).needsOne x.name) = true) :
    exec (.claimAtHome m) s = .next ((s.takeMsg m).takeClaimAt t x) := by
  change execClaimAtHome m s = _
  unfold execClaimAtHome
  rw [nameMsg_home here home rfl]
  exact congrArg _ ((if_neg (by simp [new])).trans (State.orWait_admits here room _))

theorem claimAtHome_waits (new : (s.n t).seen x = false) (full : (s.n t).admits ((s.n t).needsOne x.name) = false) :
    exec (.claimAtHome m) s = .next ((s.takeMsg m).modN t fun n => { n with ingress := n.ingress ++ [⟨src, .tile t, cls, .name .claim x, b, sm⟩] }) := by
  change execClaimAtHome m s = _
  unfold execClaimAtHome
  rw [nameMsg_home here home rfl]
  exact congrArg _ ((if_neg (by simp [new])).trans (State.orWait_waits here full _))

end

section

variable (here : AtHome s m t src cls .claimRel x b sm)
include here

theorem claimRelease_again (seen : (s.n t).seen x = true) : exec (.claimReleaseAtHome m) s = .next ((s.takeMsg m).ackAgain t .claimRel x) := by
  change execClaimReleaseAtHome m s = _
  unfold execClaimReleaseAtHome
  rw [nameMsg_home here home rfl]
  exact if_pos seen

theorem claimRelease_releases (new : (s.n t).seen x = false) :
    exec (.claimReleaseAtHome m) s = .next ((s.takeMsg m).modN t fun n => n.modEntry x.name fun e =>
      if e.claim = some x.taskId ∧ e.claimFar = x.who.far then { e with claim := none, touched := s.quartz } else e) := by
  change execClaimReleaseAtHome m s = _
  unfold execClaimReleaseAtHome
  rw [nameMsg_home here home rfl]
  exact if_neg (by simp [new])

end

section

variable (here : AtHome s m t src cls .retain x b sm)
include here

theorem retainAtHome_again (seen : (s.n t).seen x = true) : exec (.retainAtHome m) s = .next ((s.takeMsg m).ackAgain t .retain x) := by
  change execRetainAtHome m s = _
  unfold execRetainAtHome
  rw [nameMsg_home here home rfl]
  exact if_pos seen

theorem retainAtHome_taken (new : (s.n t).seen x = false) (bound : ((s.part (s.partOf t)).binding x.name.ns x.name.tensor).isSome = true)
    (room : (s.n t).admits ((s.n t).needsOne x.name) = true) : exec (.retainAtHome m) s = .next ((s.takeMsg m).takeRetain t x) := by
  change execRetainAtHome m s = _
  unfold execRetainAtHome
  rw [nameMsg_home here home rfl]
  refine (if_neg (by simp [new])).trans ((if_neg ?_).trans (congrArg _ (State.orWait_admits here room _)))
  simp [Option.isSome_iff_ne_none.1 bound]

end

section

variable (here : AtHome s m t src cls .coll x b sm)
include here

theorem collAtHome_again (seen : (s.n t).seen x = true) : exec (.collAtHome m) s = .next ((s.takeMsg m).ackAgain t .coll x) := by
  change execCollAtHome m s = _
  unfold execCollAtHome
  rw [nameMsg_home here home rfl]
  exact if_pos seen

theorem collAtHome_taken (new : (s.n t).seen x = false) {u : State} (takes : (s.takeMsg m).takeColl t x = some u) : exec (.collAtHome m) s = .next u := by
  change execCollAtHome m s = _
  unfold execCollAtHome
  rw [nameMsg_home here home rfl]
  refine (if_neg (by simp [new])).trans ?_
  rw [takes]

theorem collAtHome_waits (new : (s.n t).seen x = false) (full : (s.takeMsg m).takeColl t x = none) :
    exec (.collAtHome m) s = .next ((s.takeMsg m).modN t fun n => { n with ingress := n.ingress ++ [⟨src, .tile t, cls, .name .coll x, b, sm⟩] }) := by
  change execCollAtHome m s = _
  unfold execCollAtHome
  rw [nameMsg_home here home rfl]
  refine (if_neg (by simp [new])).trans ?_
  rw [full, here.1.1]
  rfl

end

theorem unicastRerequest_serves (here : AtHome s m t src cls .rerequest x b sm) {e : NameEntry} {q : SubRec} (entry : (s.n t).entry? x.name = some e)
    (found : (e.subs.find? fun r => sameSub r.reg x) = some q) : exec (.unicastRerequest m) s =
      .next (((s.takeMsg m).modSub t x.name q fun q => { q with detached := true, wants := q.wants ++ [x.ver] }).serveSub t x.name q x.ver) := by
  change execUnicastRerequest m s = _
  unfold execUnicastRerequest
  rw [nameMsg_home here home rfl]
  dsimp only
  rw [entry, Option.bind_some, found]

end

/-! ### Publishes and partials (R83, R84, R86, R92) -/

section

variable (here : AtHome s m t src cls .publish x b sm)
include here

theorem publishAtHome_stalled (stalled : (s.n t).dataStalled = true) : exec (.publishAtHome m) s = .next s := by
  change execPublishAtHome m s = _
  unfold execPublishAtHome
  rw [here.1.1]
  exact if_pos (by simp [stalled])

variable (free : (s.n t).dataStalled = false)
include free

theorem publishAtHome_again (seen : (s.n t).seen x = true) : exec (.publishAtHome m) s = .next ((s.takeMsg m).ackAgain t .publish x) := by
  obtain ⟨⟨found, may⟩, turn⟩ := here
  change execPublishAtHome m s = _
  unfold execPublishAtHome
  rw [found]
  exact (if_neg (by simp [free, may, turn])).trans (if_pos seen)

variable (new : (s.n t).seen x = false) {q : Binding} (bound : (s.part (s.partOf t)).binding x.name.ns x.name.tensor = some q)
include new bound

theorem publishAtHome_taken {u : State} (claim : s.claimFree t x q = true) (takes : (s.takeMsg m).takePub t x q = some u) :
    exec (.publishAtHome m) s = .next u := by
  obtain ⟨⟨found, may⟩, turn⟩ := here
  change execPublishAtHome m s = _
  unfold execPublishAtHome
  rw [found]
  refine (if_neg (by simp [free, may, turn])).trans ((if_neg (by simp [new])).trans ?_)
  rw [bound]
  refine (if_neg (by simp [claim])).trans ?_
  rw [takes]

theorem publishAtHome_waits (claim : s.claimFree t x q = true) (full : (s.takeMsg m).takePub t x q = none) (plain : x.trace = false) :
    exec (.publishAtHome m) s = .next ((s.takeMsg m).modN t fun n => { n with ingress := n.ingress ++ [⟨src, .tile t, cls, .name .publish x, b, sm⟩] }) := by
  obtain ⟨⟨found, may⟩, turn⟩ := here
  change execPublishAtHome m s = _
  unfold execPublishAtHome
  rw [found]
  refine (if_neg (by simp [free, may, turn])).trans ((if_neg (by simp [new])).trans ?_)
  rw [bound]
  refine (if_neg (by simp [claim])).trans ?_
  rw [full]
  exact congrArg _ (if_neg (by simp [plain]))

theorem publishAtHome_unclaimed {v : Nat} (claim : s.claimFree t x q = false) (who : x.who = .tile v) :
    exec (.publishAtHome m) s = .next ((s.takeMsg m).remoteFault (.tile t) v (x.frame.getD 64) x.taskId
      { cause := .namecfg, cw1 := 7, cw2 := x.name.hi, cw3 := x.name.lo x.ver }) := by
  obtain ⟨⟨found, may⟩, turn⟩ := here
  change execPublishAtHome m s = _
  unfold execPublishAtHome
  rw [found]
  refine (if_neg (by simp [free, may, turn])).trans ((if_neg (by simp [new])).trans ?_)
  rw [bound]
  refine (if_pos (by simp [claim])).trans ?_
  rw [who]

end

section

variable (here : AtHome s m t src cls .piece x b sm)
include here

theorem partialAtHome_stalled (stalled : (s.n t).dataStalled = true) : exec (.partialAtHome m) s = .next s := by
  change execPartialAtHome m s = _
  unfold execPartialAtHome
  rw [here.1.1]
  exact if_pos (by simp [stalled])

variable (free : (s.n t).dataStalled = false)
include free

theorem partialAtHome_again (seen : (s.n t).seen x = true) : exec (.partialAtHome m) s = .next ((s.takeMsg m).ackAgain t .piece x) := by
  obtain ⟨⟨found, may⟩, turn⟩ := here
  change execPartialAtHome m s = _
  unfold execPartialAtHome
  rw [found]
  exact (if_neg (by simp [free, may, turn])).trans (if_pos seen)

variable (new : (s.n t).seen x = false)
include new

theorem partialAtHome_taken {q : Binding} (bound : (s.part (s.partOf t)).binding x.name.ns x.name.tensor = some q) :
    exec (.partialAtHome m) s = .next ((s.takeMsg m).takePart t ⟨src, .tile t, cls, .name .piece x, b, sm⟩ x q) := by
  obtain ⟨⟨found, may⟩, turn⟩ := here
  change execPartialAtHome m s = _
  unfold execPartialAtHome
  rw [found]
  refine (if_neg (by simp [free, may, turn])).trans ((if_neg (by simp [new])).trans ?_)
  rw [bound]

theorem partialAtHome_dropped (unbound : (s.part (s.partOf t)).binding x.name.ns x.name.tensor = none) :
    exec (.partialAtHome m) s = .next (((s.takeMsg m).countT t 2 1).dropPart t t x 0) := by
  obtain ⟨⟨found, may⟩, turn⟩ := here
  change execPartialAtHome m s = _
  unfold execPartialAtHome
  rw [found]
  refine (if_neg (by simp [free, may, turn])).trans ((if_neg (by simp [new])).trans ?_)
  rw [unbound]

end

end

/-! ### Retries, retention and released entries (R81, R86, R92) -/

section

variable {s : State} {t i : Nat} (tile : t < Config.numTiles)
include tile

theorem partialRetry_sends {r : Retry} {op : NameOp} {x : NameMsg} (found : (s.n t).retries[i]? = some r) (body : r.msg.body = .name op x)
    (due : r.last + 256 ≤ s.quartz) : exec (.partialRetry t i) s = .next ((s.modN t fun n => { n with retries := n.retries.eraseIdx i }).send
      { r.msg with body := .name op (x.again r.first) }) := by
  change execPartialRetry t i s = _
  unfold execPartialRetry
  rw [onTile_lt tile, found]
  refine congrArg _ ((if_neg (Nat.not_lt.2 due)).trans ?_)
  rw [body]

theorem partialUnregistered_drops {r : Retry} {h : Nat} {op : NameOp} {x : NameMsg} (found : (s.n t).retries[i]? = some r) (dst : r.msg.dst = .tile h)
    (body : r.msg.body = .name op x) (due : r.first + 65536 ≤ s.quartz) (none_ : (s.n h).red? x.name x.ver = none) :
    exec (.partialUnregisteredDrop t i) s = .next ((s.modN t fun n => { n with retries := n.retries.eraseIdx i }).dropPart t h x 6) := by
  change execPartialUnregisteredDrop t i s = _
  unfold execPartialUnregisteredDrop
  rw [onTile_lt tile, found]
  dsimp only
  rw [dst, body]
  exact congrArg _ (if_neg (by simp [due, none_]))

theorem directoryIngressRetry_takes {msg : Msg} {op : NameOp} {x : NameMsg} {u : State} (found : (s.n t).ingress[i]? = some msg) (body : msg.body = .name op x)
    (takes : (s.modN t fun n => { n with ingress := n.ingress.eraseIdx i }).takeIngress t op x = some u) : exec (.directoryIngressRetry t i) s = .next u := by
  change execDirectoryIngressRetry t i s = _
  unfold execDirectoryIngressRetry
  rw [onTile_lt tile, found]
  dsimp only
  rw [body]
  dsimp only
  rw [takes]
  rfl

theorem retentionExpiry_releases {name : TileName} {ver : BitVec 16} {e : NameEntry} {r : Retained} (entry : (s.n t).entry? name = some e)
    (retained : e.ret? ver = some r) (due : r.accepted + r.time ≤ s.quartz) (plain : isFaultName name = false) :
    exec (.retentionExpiry t name ver) s = .next ((s.releaseVer t name ver).noteOrder t 24) := by
  change execRetentionExpiry t name ver s = _
  unfold execRetentionExpiry
  rw [onTile_lt tile, entry, Option.bind_some, retained]
  exact congrArg _ (if_pos ⟨due, by simp [plain]⟩)

theorem nameEntryRelease_releases {name : TileName} {e : NameEntry} (entry : (s.n t).entry? name = some e) (own : name.ns ≠ 0) (claim : e.claim = none)
    (subs : e.subs = []) (retained : e.retained = []) (reds : e.reds = []) (fetching : e.fetching = []) (keptRetain : e.keptRetain = [])
    (due : e.touched + s.rett t name ≤ s.quartz) :
    exec (.nameEntryRelease t name) s = .next (s.modN t fun n => { n with names := n.names.filter fun x => x.name != name }) := by
  change execNameEntryRelease t name s = _
  unfold execNameEntryRelease
  rw [onTile_lt tile, entry]
  exact congrArg _ (if_pos (by simpa [claim, subs, retained, reds, fetching, keptRetain, due] using own))

end

/-! ### Fetches (R87, R400) -/

section

variable {s : State} {m t a b : Nat} {cls : Cls} {x : NameMsg} {sm : Bool} (here : Arrives s m ⟨.tile t, .rim a, cls, .name .fetch x, b, sm⟩)
include here

theorem fetchAtRim_elsewhere (excluded : (s.rim a).excluded = true) : exec (.fetchAtRim m) s = .next ((s.dropMsg m).fetchElsewhere t x) := by
  obtain ⟨found, may⟩ := here
  change execFetchAtRim m s = _
  unfold execFetchAtRim
  rw [found]
  exact (if_neg (by simp [may])).trans (if_pos (by rw [(State.Sent.dropMsg s m).rim, excluded]))

theorem fetchAtRim_asks (serves : (s.rim a).excluded = false) {q : Binding} (bound : (s.part (s.partOf t)).binding x.name.ns x.name.tensor = some q) :
    ∃ u, exec (.fetchAtRim m) s = .next u ∧ u.rim a = { s.rim a with
      nextFetch := (s.rim a).nextFetch + 1
      fetches := (s.rim a).fetches ++ [⟨(s.rim a).nextFetch, x, s.partOf t, t, [], (tilePieces q x.name).length, none⟩] } := by
  obtain ⟨found, may⟩ := here
  have sent := State.Sent.dropMsg s m
  change ∃ u, execFetchAtRim m s = .next u ∧ _
  unfold execFetchAtRim
  rw [found]
  refine ⟨_, (if_neg (by simp [may])).trans (if_neg (by rw [sent.rim, serves]; simp)), ?_⟩
  dsimp only
  rw [(State.Sent.foldl _ (fun u k => ?_) _).rim, State.rim_modRim_self, sent.rim, sent.partOf, sent.part, bound]
  split
  · exact State.Sent.post ..
  · exact State.Sent.refl _

end

section

variable {s : State} {a i : Nat} {f : Fetch} (rim : a < Config.numRims) (found : (s.rim a).fetches[i]? = some f)
include rim found

theorem fetchPublish_elsewhere (excluded : (s.rim a).excluded = true) : exec (.fetchPublish a i) s =
    .next ((s.modRim a fun r => { r with fetches := r.fetches.eraseIdx i }).fetchElsewhere f.home f.msg) := by
  change execFetchPublish a i s = _
  unfold execFetchPublish
  rw [if_neg (Nat.not_le.2 rim), found]
  refine (if_neg (by simp [excluded])).trans (if_pos ?_)
  rw [State.rim_modRim_self]
  exact excluded

theorem fetchPublish_publishes (serves : (s.rim a).excluded = false) (left : f.left = 0) (whole : f.failed = none) :
    exec (.fetchPublish a i) s = .next ((s.modRim a fun r => { r with fetches := r.fetches.eraseIdx i }).post (.rim a) (.tile f.home) .nameData
      (.name .publish { name := f.msg.name, ver := f.msg.ver, who := .rim a, taskId := f.msg.taskId, fallthrough := true,
                        bytes := f.data.flatMap (·.2), tick := s.tick })) := by
  change execFetchPublish a i s = _
  unfold execFetchPublish
  rw [if_neg (Nat.not_le.2 rim), found]
  refine (if_neg (by simp [left])).trans ((if_neg ?_).trans ?_)
  · rw [State.rim_modRim_self]
    simp [serves]
  · rw [whole]
    rfl

end

/-- Settles O41. -/
theorem directoriesKeepTheirNames : Obligations.DirectoriesKeepTheirNames := by
  intro m t i name ver s tile taken p here bound one
  refine ⟨fun src cls op x b sm home arrives seen => ⟨fun is => registration_again home arrives is seen, ?_, ?_, ?_, ?_, ?_⟩,
    fun src cls op x b sm arrives free seen => ⟨?_, ?_⟩,
    fun src cls op x b sm home arrives new => ⟨fun is room => registration_taken home arrives is new room, ?_, ?_, ?_, ?_, ?_, ?_, ?_, ?_⟩,
    fun src cls x b sm arrives free new => ⟨fun q u isBound claim takes => publishAtHome_taken arrives free new isBound claim takes,
      fun q isBound claim full plain => ⟨_, publishAtHome_waits arrives free new isBound claim full plain, ?_⟩,
      fun q v isBound claim who => publishAtHome_unclaimed arrives free new isBound claim who⟩,
    fun src cls x b sm arrives free new => ⟨fun q isBound => partialAtHome_taken arrives free new isBound, fun unbound => partialAtHome_dropped arrives free new unbound⟩,
    fun stalled src cls op x b sm arrives => ⟨?_, ?_⟩, fun r op x found body due => partialRetry_sends tile found body due,
    fun r h op x found dst body due none_ => partialUnregistered_drops tile found dst body due none_,
    fun msg op x u found body takes => directoryIngressRetry_takes tile found body takes,
    fun e r entry retained due plain => retentionExpiry_releases tile entry retained due plain,
    fun e entry own claim subs retained reds fetching keptRetain due =>
      ⟨_, nameEntryRelease_releases tile entry own claim subs retained reds fetching keptRetain due, by rw [State.n_modN_self]⟩,
    fun a cls x b sm arrives excluded => fetchAtRim_elsewhere arrives excluded, fun a cls x b sm arrives serves q isBound => ?_,
    fun a f rim found excluded => fetchPublish_elsewhere rim found excluded,
    fun a f rim found serves left whole => fetchPublish_publishes rim found serves left whole⟩
  · rintro rfl
    exact pruneAtHome_again home arrives seen
  · rintro rfl
    exact claimAtHome_again home arrives seen
  · rintro rfl
    exact claimRelease_again home arrives seen
  · rintro rfl
    exact retainAtHome_again home arrives seen
  · rintro rfl
    exact collAtHome_again home arrives seen
  · rintro rfl
    exact publishAtHome_again arrives free seen
  · rintro rfl
    exact partialAtHome_again arrives free seen
  · rintro rfl room
    exact claimAtHome_taken home arrives new room
  · rintro rfl full
    exact ⟨_, claimAtHome_waits home arrives new full, by rw [State.n_modN_self]⟩
  · rintro rfl isBound room
    exact retainAtHome_taken home arrives new isBound room
  · rintro rfl
    refine ⟨_, claimRelease_releases home arrives new, ?_⟩
    rw [State.n_modN_self]
    refine List.map_congr_left fun e _ => ?_
    by_cases is : e.name = x.name <;> simp [is]
  · rintro rfl
    obtain ⟨u, runs, names⟩ := pruneAtHome_cuts home arrives new
    refine ⟨u, runs, fun e among q sub => ?_⟩
    rw [names] at among
    obtain ⟨old, -, rfl⟩ := List.mem_map.1 among
    exact old.subs_without x _ sub
  · rintro u rfl takes
    exact collAtHome_taken home arrives new takes
  · rintro rfl full
    exact ⟨_, collAtHome_waits home arrives new full, by rw [State.n_modN_self]⟩
  · rintro e q rfl entry found
    exact unicastRerequest_serves home arrives entry found
  · rw [State.n_modN_self]
    refine ⟨rfl, ?_⟩
    simp [NDom.dataStalled]
  · rintro rfl
    exact publishAtHome_stalled arrives stalled
  · rintro rfl
    exact partialAtHome_stalled arrives stalled
  · obtain ⟨u, runs, at_⟩ := fetchAtRim_asks arrives serves isBound
    refine ⟨u, runs, ?_⟩
    rw [at_]
    exact ⟨rfl, rfl⟩

end Sys2Proof.Machine

end

/-! PROOFS. The firings and sorts of the matrix array, power grants and spines (R40 to R43, R278 to R286, R410 to R414). -/

section

namespace Sys2Proof.Machine

/-! ### What leaves the accumulators -/

theorem CDom.Matched.accs {c d : CDom} (h : c.Matched d) : d.accs = c.accs := Eq.trans (congrArg CDom.accs h) rfl

theorem CDom.accs_modSlot (c : CDom) (k : Nat) (g : Slot → Slot) : (c.modSlot k g).accs = c.accs := by
  unfold CDom.modSlot
  dsimp only
  split <;> rfl

theorem CDom.accs_settleLate (c : CDom) (l : Late) : (c.settleLate l).accs = c.accs := by
  unfold CDom.settleLate
  dsimp only
  split
  · rfl
  · split <;> rfl

theorem CDom.accs_nextTok {c d : CDom} {lp k src : Nat} {h : HeldTok} (goes : c.nextTok lp k h src = some d) : d.accs = c.accs := by
  unfold CDom.nextTok at goes
  split at goes
  · nomatch goes
  · extract_lets last l c' at goes
    clear_value l
    have same : c'.accs = c.accs := rfl
    clear_value c'
    split at goes
    · cases goes; exact same
    · split at goes
      · split at goes
        · cases goes; exact same
        · obtain ⟨e, -, rfl⟩ := Option.map_eq_some_iff.1 goes
          exact (CDom.Matched.giveTok _ _ _ _ _ _ _).accs.trans same
      · split at goes
        · nomatch goes
        · cases goes; exact same

theorem State.accs_fireLate (s : State) (t : Nat) (l : Late) (v : Val) (src : Nat) : ((s.fireLate t l v src).c t).accs = (s.c t).accs := by
  have settled := (s.c t).accs_settleLate l
  have at_ (d : CDom) : ((s.setC t d).countT t 0 1).c t = d := State.c_setC_self s t d
  unfold State.fireLate
  dsimp only
  split
  · rfl
  split
  · rewrite [at_]; rfl
  split
  · split
    next d goes => rw [State.c_setC_self, CDom.accs_nextTok goes, settled]
    next => rw [at_, settled]
  · split
    · rw [State.c_setC_self]; exact settled
    · rw [at_, settled]
  · split
    · split
      · split
        · rw [State.c_setC_self, (CDom.Matched.giveTok _ _ _ _ _ _ _).accs, settled]
        · rw [at_, settled]
      · split
        · rw [at_, settled]
        · rw [State.c_setC_self]; exact settled
    · rw [at_, settled]
  · rw [at_, settled]

theorem State.accs_fireDone (s : State) (t : Nat) (l : Option Late) (src : Nat) : ((s.fireDone t l src).c t).accs = (s.c t).accs := by
  cases l with
  | none => rfl
  | some l => exact s.accs_fireLate t l .order src

theorem State.accs_dropLate (s : State) (t : Nat) (l : Option Late) : ((s.dropLate t l).c t).accs = (s.c t).accs := by
  cases l with
  | none => rfl
  | some l => exact Eq.trans (congrArg CDom.accs (s.c_modC_self t _)) ((s.c t).accs_settleLate l)

theorem State.accs_modSlot (s : State) (t n : Nat) (g : Slot → Slot) : ((s.modC t fun c => c.modSlot n g).c t).accs = (s.c t).accs := by
  rw [State.c_modC_self, CDom.accs_modSlot]

theorem State.accs_modFrame (s : State) (t f : Nat) (g : Frame → Frame) : ((s.modFrame t f g).c t).accs = (s.c t).accs :=
  Eq.trans (congrArg CDom.accs (s.c_modC_self t fun c => c.modFrame f g)) rfl

/-! ### The firings of an accumulator -/

/-- The firings counted at physical accumulator k; none where it is not listed. -/
def CDom.firedAt (c : CDom) (k : Nat) : Option Nat := (c.accs.get? k).map (·.fired)

theorem CDom.firedAt_of_accs {c d : CDom} (h : d.accs = c.accs) (k : Nat) : d.firedAt k = c.firedAt k := by rw [firedAt, firedAt, h]

theorem CDom.accs_dropIssued (c : CDom) (gone : Issue → Bool) : (c.dropIssued gone).accs = c.accs := by
  have each (l : List Orphan) (c : CDom) : (l.foldl (fun c o => c.subDue o.inst 1) c).accs = c.accs := by
    induction l generalizing c with
    | nil => rfl
    | cons o l ih => exact ih _
  exact each _ c

/-- An abort drops jobs and budgets of its frame's accumulators, no firing counted there. -/
theorem CDom.firedAt_aborted (c : CDom) (f : Nat) (words : List W64) (k : Nat) : (c.aborted f words).firedAt k = c.firedAt k := by
  have accs : (c.discardFrame f).accs = c.accs := c.accs_dropIssued _
  unfold CDom.firedAt CDom.aborted CDom.dropJobs
  dsimp only [CDom.modFrame, CDom.setFrame]
  rw [AMap.get?_mapVal, accs, Option.map_map]
  refine congrArg (Option.map · _) (funext fun a => ?_)
  dsimp only [Function.comp]
  split <;> rfl

theorem State.firedAt_abortFrame (s : State) (t f : Nat) (site : Site) (i : FaultInfo) (k : Nat) :
    ((s.abortFrame t f site i).c t).firedAt k = (s.c t).firedAt k := by
  by_cases first : (s.frame t f).abortRec = none
  · rw [s.abortFrame_first t f site i first, State.c_modC_self, CDom.firedAt_aborted, State.c_withdrawAll]
  · rw [s.abortFrame_again t f site i first]

theorem State.firedAt_streamRequest (s : State) (t f base n k : Nat) : ((s.streamRequest t f base n).c t).firedAt k = (s.c t).firedAt k := by
  induction n generalizing s with
  | zero => rfl
  | succ n ih =>
    have moved (u : State) (g : Frame → Frame) : ((u.modFrame t f g).c t).firedAt k = (u.c t).firedAt k :=
      CDom.firedAt_of_accs (u.accs_modFrame t f g) k
    unfold State.streamRequest
    dsimp only
    split
    · rfl
    split
    · rw [ih, moved]
    split
    · rw [State.firedAt_abortFrame]; rfl
    split
    · rw [ih, moved, State.toHome, (State.Sent.post _ _ _ _ _).c]
    · rfl

theorem State.firedAt_streamCredit (s : State) (t f : Nat) (x : Stream) (ver : BitVec 16) (k : Nat) :
    ((s.streamCredit t f x ver).c t).firedAt k = (s.c t).firedAt k := by
  unfold State.streamCredit
  split
  · exact s.firedAt_streamRequest t f x.base x.depth k
  · rw [(State.Sent.post _ _ _ _ _).c]

/-- An emptying by a firing (R324) leaves the accumulators. -/
theorem State.accs_emptySlot (s : State) (t n : Nat) : ((s.emptySlot t n false).c t).accs = (s.c t).accs := by
  unfold State.emptySlot
  split
  · rfl
  dsimp only
  split
  · exact s.accs_modSlot t n _
  · split
    · exact (State.accs_modFrame _ _ _ _).trans (s.accs_modSlot t n _)
    · exact (State.accs_dropLate _ _ _).trans ((State.accs_modFrame _ _ _ _).trans (s.accs_modSlot t n _))

theorem State.firedAt_emptySlot (s : State) (t n : Nat) (byTset : Bool) (k : Nat) : ((s.emptySlot t n byTset).c t).firedAt k = (s.c t).firedAt k := by
  cases byTset with
  | false => exact CDom.firedAt_of_accs (s.accs_emptySlot t n) k
  | true =>
    unfold State.emptySlot
    split
    · rfl
    dsimp only
    split
    · exact CDom.firedAt_of_accs (s.accs_modSlot t n _) k
    · split
      · exact CDom.firedAt_of_accs (s.accs_modSlot t n _) k
      · refine (CDom.firedAt_of_accs (State.accs_fireDone _ _ _ _) k).trans ((State.firedAt_streamCredit _ _ _ _ _ _).trans ?_)
        exact CDom.firedAt_of_accs ((State.accs_modFrame _ _ _ _).trans (s.accs_modSlot t n _)) k

theorem State.firedAt_endUse (s : State) (t k : Nat) (m : Option MSrc) (j : Nat) : ((s.endUse t k m).c t).firedAt j = (s.c t).firedAt j := by
  unfold State.endUse
  split
  · rfl
  split
  · rfl
  extract_lets last used u
  have kept : (u.c t).firedAt j = (s.c t).firedAt j := CDom.firedAt_of_accs (s.accs_modSlot t _ _) j
  clear_value u used
  split
  · split
    · exact (u.firedAt_emptySlot t _ true j).trans kept
    · exact kept
  · split
    · exact (u.firedAt_emptySlot t _ false j).trans kept
    · exact kept

/-- The firing of accumulator k is over: it is counted, and its sources go on (R278, R279). -/
def CDom.endFiring (c : CDom) (k : Nat) : CDom :=
  let step (m : Option MSrc) : Option MSrc := m.map fun q => { q with count := q.count + 1 }
  { c with array := .idle, accs := c.accs.adjust k fun x => { x with st := .accum, fired := x.fired + 1, srcA := step x.srcA, srcB := step x.srcB } }

/-! ### Firings and K-steps (R42, R278 to R280) -/

section

variable {s : State} {t : Nat} (tile : t < Config.numTiles)
include tile

theorem matrixFiringStart_starts {k : Nat} {x : Acc} {w fsa fsb : W64} (idle : (s.c t).array = .idle) (noSort : (s.c t).oldestSort = none)
    (next : (s.c t).nextFiring = some k) (acc : x = (s.c t).accs.getD k {}) (conf : w = x.conf.getD 0)
    (slotA : fsa = ((s.c t).frame (x.frame.getD 0)).fsOf (MConf.fsa w)) (slotB : fsb = ((s.c t).frame (x.frame.getD 0)).fsOf (MConf.fsb w))
    (fits : slotsMode fsa fsb (MConf.k w) = some x.integer) : ∃ u, exec (.matrixFiringStart t) s = .next u ∧
      (u.c t).array = .firing k 0 ((MConf.k w + kdOf fsa fsb - 1) / kdOf fsa fsb) (x.st == .empty) (kUnits fsa fsb) fsa fsb ∧
      (u.c t).accs.getD k {} = { x with left := x.left - 1, st := .busy } := by
  subst acc conf slotA slotB
  change ∃ u, execMatrixFiringStart t s = .next u ∧ _
  unfold execMatrixFiringStart
  rw [onTile_lt tile]
  dsimp only
  rw [idle, noSort, next]
  refine ⟨_, congrArg _ (if_neg (not_not_intro fits)), ?_, ?_⟩ <;> rewrite [State.c_setC_self]
  · rfl
  · exact AMap.getD_set_self _ _ _ _

theorem matrixFiringStart_aborts {k : Nat} {x : Acc} {w : W64} (idle : (s.c t).array = .idle) (noSort : (s.c t).oldestSort = none)
    (next : (s.c t).nextFiring = some k) (acc : x = (s.c t).accs.getD k {}) (conf : w = x.conf.getD 0)
    (bad : slotsMode (((s.c t).frame (x.frame.getD 0)).fsOf (MConf.fsa w)) (((s.c t).frame (x.frame.getD 0)).fsOf (MConf.fsb w)) (MConf.k w) ≠
      some x.integer) : exec (.matrixFiringStart t) s = .next (s.abortFrame t (x.frame.getD 0) x.armed { matcfg 1 x.name with }) := by
  subst acc conf
  change execMatrixFiringStart t s = _
  unfold execMatrixFiringStart
  rw [onTile_lt tile]
  dsimp only
  rw [idle, noSort, next]
  exact congrArg _ (if_pos bad)

omit tile in
theorem State.c_payKStep (s : State) (t units : Nat) : (s.payKStep t units).c t =
    { s.c t with bucket := (s.c t).bucket - units, debits := (s.c t).debits + units, arrayDue := (s.c t).cycle + 32 } :=
  s.c_modC_self t fun c => { c with bucket := c.bucket - units, debits := c.debits + units, arrayDue := c.cycle + 32 }

omit tile in
theorem State.kStepPaid_eq {units : Nat} (covered : units ≤ (s.c t).bucket) (free : s.promotedWaits t = false) (fresh : (s.c t).cycleFresh = true)
    (due : (s.c t).arrayDue ≤ (s.c t).cycle) : s.kStepPaid t units = true := by
  simp [State.kStepPaid, covered, free, fresh, due]

theorem kStep_steps {k done left units : Nat} {first : Bool} {fsa fsb : W64} (firing : (s.c t).array = .firing k done (left + 1) first units fsa fsb)
    (paid : s.kStepPaid t units = true) : exec (.kStep t) s = .next ((s.payKStep t units).modC t fun c =>
      let r := c.kStep (c.accs.getD k {}) done first fsa fsb
      { c with accs := c.accs.set k { c.accs.getD k {} with elems := r.1, flags := (c.accs.getD k {}).flags ||| r.2 },
               array := .firing k (done + 1) left first units fsa fsb }) := by
  change execKStep t s = _
  unfold execKStep
  rw [onTile_lt tile, firing]
  exact congrArg _ (if_neg (by simp [paid]))

theorem matrixFiringEnd_counts {k done units : Nat} {first : Bool} {fsa fsb : W64} (firing : (s.c t).array = .firing k done 0 first units fsa fsb)
    (listed : (s.c t).accs.has k = true) (noJob : (List.range 8).any (s.c t).jobDue = false) : ∃ u, exec (.matrixFiringEnd t) s = .next u ∧
      (u.c t).array = .idle ∧ ((u.c t).accs.getD k {}).st = .accum ∧
      ((u.c t).accs.getD k {}).fired = ((s.c t).accs.getD k {}).fired + 1 := by
  obtain ⟨x, found⟩ := Option.isSome_iff_exists.1 listed
  let m := (s.c t).accs.getD k {}
  let v := (s.endUse t k m.srcA).endUse t k m.srcB
  have kept : (v.c t).firedAt k = some x.fired := by
    rw [State.firedAt_endUse, State.firedAt_endUse, CDom.firedAt, found]; rfl
  obtain ⟨y, there, fired⟩ := Option.map_eq_some_iff.1 kept
  have before : ((s.c t).accs.getD k {}).fired = x.fired := by rw [AMap.getD, found]; rfl
  change ∃ u, execMatrixFiringEnd t s = .next u ∧ _
  unfold execMatrixFiringEnd
  rw [onTile_lt tile]
  refine ⟨v.modC t fun c => c.endFiring k, congrArg _ ((if_neg (by simp [noJob])).trans (by rw [firing]; rfl)), ?_⟩
  rw [before, ← fired, State.c_modC_self, CDom.endFiring]
  simp [AMap.getD, AMap.get?_adjust, there]

theorem msortPass_pays {x : Issue} {q : PWait} {k : BitVec 2} {keys : List W32} {n : Nat} {t0 t1 : Option Target} (idle : (s.c t).array = .idle)
    (sort : (s.c t).oldestSort = some (x, q)) (paid : s.kStepPaid t 96 = true) (wait : q.wait = .msort k keys n t0 t1) :
    exec (.msortPass t) s = .next (if 1 < n then
      (s.payKStep t 96).modC t fun c => c.modIssue x.id fun y => { y with waits := y.waits.map fun p =>
        if p.id = q.id then { p with wait := .msort k keys (n - 1) t0 t1 } else p }
      else (s.payKStep t 96).endWaitToks t x.id q.id (sortTokens k keys q.slot t0 t1)) := by
  change execMsortPass t s = _
  unfold execMsortPass
  rw [onTile_lt tile, idle, sort]
  refine congrArg _ ((if_neg (by simp [paid])).trans ?_)
  dsimp only
  rw [wait]

end

/-! ### Power grants, rail samples and spines (R40, R410 to R414) -/

theorem State.c_modHub (s : State) (f t : Nat) (g : Hub → Hub) : (s.modHub f g).c t = s.c t := rfl

theorem State.c_shedTo (s : State) (f : Nat) (l : List Nat) (draw : Nat) (limit : Rat) (t : Nat) : (s.shedTo f l draw limit).c t = s.c t := by
  have each (l : List Nat) (r : State × Nat) : ((l.foldl (fun (r : State × Nat) k =>
      let cut := min r.2 (r.1.hub k).ballast
      (if cut = 0 then r.1 else r.1.modHub k fun h => { h with ballast := h.ballast - cut, load := h.load - cut }, r.2 - cut)) r).1).c t = r.1.c t := by
    induction l generalizing r with
    | nil => rfl
    | cons k l ih => exact (ih _).trans (by dsimp only; split <;> rfl)
  exact each _ (s, _)

theorem State.c_shedBallast (s : State) (f draw t : Nat) : (s.shedBallast f draw).c t = s.c t := by
  unfold State.shedBallast
  dsimp only
  rw [State.c_shedTo]
  split
  · rfl
  · exact s.c_shedTo _ _ _ _ _

/-- Each of the n tiles from b on is changed once. -/
theorem State.c_foldl_modC (s : State) (b n : Nat) (g : Nat → CDom → CDom) (j : Nat) :
    ((List.range n).foldl (fun s j => s.modC (b + j) (g j)) s).c (b + j) = if j < n then g j (s.c (b + j)) else s.c (b + j) := by
  induction n with
  | zero => rfl
  | succ n ih =>
    rw [List.range_succ, List.foldl_append]
    change (State.modC _ (b + n) (g n)).c (b + j) = _
    by_cases last : j = n
    · subst last
      rw [State.c_modC_self, ih, if_neg (Nat.lt_irrefl j), if_pos (Nat.lt_succ_self j)]
    · rw [State.c_modC_ne _ _ (by omega), ih]
      simp only [show j < n + 1 ↔ j < n by omega]

theorem State.quartz_foldl_modC (s : State) (b : Nat) (l : List Nat) (g : Nat → CDom → CDom) :
    (l.foldl (fun s j => s.modC (b + j) (g j)) s).quartz = s.quartz := by
  induction l generalizing s with
  | nil => rfl
  | cons j l ih => exact ih _

/-- The tiles of field f take 8 each and their shares. -/
def State.granted (s : State) (f : Nat) (share : List Nat) : State :=
  (List.range 160).foldl (fun s j => s.modC (160 * f + j) fun c => c.grant (8 + share.getD j 0)) s

theorem State.powerGrant_eq (s : State) (f : Nat) (inp : PowerInputs) : ∃ (share : List Nat) (draw carry ballast low : Nat),
    s.powerGrant f inp = ((s.granted f share).shedBallast f draw).modHub f fun h =>
      { h with carry := carry, ballast := ballast, slewLow := low, grantTick := (s.granted f share).quartz, load := draw } := by
  unfold State.powerGrant
  extract_lets h tiles debits total leak meas cap r0 r1 slew bal r share given u draw
  exact ⟨share, draw, r - given, bal.1, bal.2, rfl⟩

theorem State.quartz_granted (s : State) (f : Nat) (share : List Nat) : (s.granted f share).quartz = s.quartz := by
  unfold State.granted
  rw [State.quartz_foldl_modC (g := fun j c => c.grant (8 + share.getD j 0))]

theorem State.c_granted (s : State) (f : Nat) (share : List Nat) {j : Nat} (tile : j < 160) :
    (s.granted f share).c (160 * f + j) = (s.c (160 * f + j)).grant (8 + share.getD j 0) := by
  unfold State.granted
  rw [State.c_foldl_modC (g := fun j c => c.grant (8 + share.getD j 0)), if_pos tile]

theorem State.grantTick_powerGrant (s : State) (f : Nat) (inp : PowerInputs) : ((s.powerGrant f inp).hub f).grantTick = s.quartz := by
  obtain ⟨share, draw, carry, ballast, low, grant⟩ := s.powerGrant_eq f inp
  rw [grant, State.hub_modHub_self, ← s.quartz_granted f share]

/-- A tile of the field takes 8 and its share. -/
theorem State.c_powerGrant (s : State) (f : Nat) (inp : PowerInputs) {j : Nat} (tile : j < 160) :
    ∃ g, (s.powerGrant f inp).c (160 * f + j) = (s.c (160 * f + j)).grant (8 + g) := by
  obtain ⟨share, draw, carry, ballast, low, grant⟩ := s.powerGrant_eq f inp
  exact ⟨share.getD j 0, by rw [grant, State.c_modHub, State.c_shedBallast, s.c_granted f share tile]⟩

theorem CDom.grant_bounds (c : CDom) (g : Nat) : (c.grant (8 + g)).debits = 0 ∧ (c.bucket ≤ 65527 → c.bucket + 8 ≤ (c.grant (8 + g)).bucket) ∧
    (c.grant (8 + g)).bucket ≤ 65535 := by
  refine ⟨rfl, fun room => ?_, Nat.min_le_left _ _⟩
  change c.bucket + 8 ≤ min 65535 (c.bucket + (8 + g))
  omega

section

variable {s : State} {f : Nat} (field : f < Config.numFields)
include field

theorem powerGrant_grants (inp : PowerInputs) (due : (s.hub f).grantTick + 1100 ≤ s.quartz) (powered : (s.hub f).powered = true)
    (free : s.kStepWaits f = false) :
    exec (.powerGrant f inp) s = .next (((s.newThresholds f).sensed f ((s.newThresholds f).hub f).temp).powerGrant f inp) := by
  change execPowerGrant f inp s = _
  unfold execPowerGrant
  rw [onField_lt field]
  exact congrArg _ (if_neg (by simp [powered, free]; omega))

theorem railCurrentSample_reports (n : BitVec 10) (due : (s.hub f).railTick + 550 ≤ s.quartz) : exec (.railCurrentSample f n) s =
    .next (s.modHub f fun h => { h with samples := (h.samples ++ [s.railPower f n]).drop ((h.samples.length + 1) - 2), railTick := s.quartz }) := by
  change execRailCurrentSample f n s = _
  unfold execRailCurrentSample
  rw [onField_lt field]
  exact congrArg _ (if_neg (by omega))

theorem railCurrentSample_early (n : BitVec 10) (early : s.quartz < (s.hub f).railTick + 550) : exec (.railCurrentSample f n) s = .next s := by
  change execRailCurrentSample f n s = _
  unfold execRailCurrentSample
  rw [onField_lt field]
  exact congrArg _ (if_pos early)

end

theorem spineSwitch_follows {s : State} {t : Nat} (tile : t < Config.numTiles) : ∃ u, exec (.spineSwitch t) s = .next u ∧ (u.c t).spine = s.effSpine t := by
  change ∃ u, execSpineSwitch t s = .next u ∧ _
  refine ⟨_, onTile_lt tile _, ?_⟩
  dsimp only
  rw [State.c_modC_self]
  split
  next same => exact same.symm
  next => rfl

end Sys2Proof.Machine

end

/-! PROOFS. The jobs of an accumulator's queue (R274, R275, R277, R281 to R283), and what they leave in slots and the scratchpad. -/

section

namespace Sys2Proof.Machine

/-! ### Slots (R288) -/

theorem CDom.slotOf_congr {c d : CDom} {g : Nat} (frames : (d.frame g).slots = (c.frame g).slots) (slots : d.slots = c.slots) (i : Nat) :
    d.slotOf g i = c.slotOf g i := by rw [slotOf, slotOf, frames, slots]

theorem CDom.slots_get?_of_slotOf {c : CDom} {g i ix : Nat} {q : Slot} (h : c.slotOf g i = some (ix, q)) :
    (c.frame g).slots.get? i = some ix ∧ c.slots.get? ix = some q := by
  unfold CDom.slotOf at h
  split at h
  next k there =>
    obtain ⟨x, found, eq⟩ := Option.map_eq_some_iff.1 h
    cases eq
    exact ⟨there, found⟩
  next => nomatch h

theorem CDom.slotOf_of {c : CDom} {g i ix : Nat} {q : Slot} (there : (c.frame g).slots.get? i = some ix) (found : c.slots.get? ix = some q) :
    c.slotOf g i = some (ix, q) := by rw [slotOf, there]; simp [found]

theorem CDom.modSlot_eq (c : CDom) (k : Nat) (h : Slot → Slot) :
    ∃ issued, c.modSlot k h = { c with slots := c.slots.adjust k h, issued := issued } := by
  unfold CDom.modSlot
  dsimp only
  split
  · exact ⟨_, rfl⟩
  · exact ⟨_, rfl⟩

theorem CDom.slotOf_modSlot {c : CDom} {g i ix : Nat} {q : Slot} (h : c.slotOf g i = some (ix, q)) (f : Slot → Slot) :
    (c.modSlot ix f).slotOf g i = some (ix, f q) := by
  obtain ⟨there, found⟩ := CDom.slots_get?_of_slotOf h
  obtain ⟨issued, eq⟩ := c.modSlot_eq ix f
  rw [eq]
  exact CDom.slotOf_of there (by simp [AMap.get?_adjust, found])

theorem CDom.slotOf_modFrame (c : CDom) (f g i : Nat) {h : Frame → Frame} (same : ∀ x, (h x).slots = x.slots) :
    (c.modFrame f h).slotOf g i = c.slotOf g i := by
  refine CDom.slotOf_congr (c := c) (d := c.modFrame f h) ?_ rfl i
  rw [CDom.frame_modFrame]
  split
  · rw [same]; subst_vars; rfl
  · rfl

theorem CDom.slotOf_settleLate (c : CDom) (l : Late) (g i : Nat) : (c.settleLate l).slotOf g i = c.slotOf g i := by
  unfold CDom.settleLate
  dsimp only
  split
  · rfl
  · split <;> rfl

theorem State.slotOf_dropLate (s : State) (t : Nat) (l : Option Late) (g i : Nat) : ((s.dropLate t l).c t).slotOf g i = (s.c t).slotOf g i := by
  cases l with
  | none => rfl
  | some l => exact Eq.trans (congrArg (CDom.slotOf · g i) (s.c_modC_self t fun c => c.settleLate l)) ((s.c t).slotOf_settleLate l g i)

theorem State.slotOf_modFrame (s : State) (t f g i : Nat) {h : Frame → Frame} (same : ∀ x, (h x).slots = x.slots) :
    ((s.modFrame t f h).c t).slotOf g i = (s.c t).slotOf g i :=
  Eq.trans (congrArg (CDom.slotOf · g i) (s.c_modC_self t fun c => c.modFrame f h)) ((s.c t).slotOf_modFrame f g i same)

/-- A slot that is emptied without TSET is cleared (R288, R324). -/
theorem State.slotOf_emptySlot {s : State} {t g i ix : Nat} {q : Slot} (h : (s.c t).slotOf g i = some (ix, q)) :
    ((s.emptySlot t ix false).c t).slotOf g i = some (ix, q.cleared) := by
  have cleared : ((s.modC t fun c => c.modSlot ix Slot.cleared).c t).slotOf g i = some (ix, q.cleared) := by
    rw [State.c_modC_self]; exact CDom.slotOf_modSlot h _
  unfold State.emptySlot
  split
  next none_ => rw [(CDom.slots_get?_of_slotOf h).2] at none_; nomatch none_
  next q' found =>
  cases Option.some.inj (found.symm.trans (CDom.slots_get?_of_slotOf h).2)
  dsimp only
  split
  · exact cleared
  · split
    · exact Eq.trans (State.slotOf_modFrame _ t _ g i (by exact fun _ => rfl)) cleared
    · exact (State.slotOf_dropLate _ _ _ _ _).trans (Eq.trans (State.slotOf_modFrame _ t _ g i (by exact fun _ => rfl)) cleared)

theorem State.accs_emptyUsed (s : State) (t f : Nat) : ((s.emptyUsed t f).c t).accs = (s.c t).accs := by
  have each (l : List (Nat × Slot)) (u : State) : ((l.foldl (fun s e => s.emptySlot t e.1 false) u).c t).accs = (u.c t).accs := by
    induction l generalizing u with
    | nil => rfl
    | cons e l ih => exact (ih _).trans (u.accs_emptySlot t e.1)
  exact each _ s

/-! ### A job at the head of a queue (R274, R278) -/

/-- Accumulator k of tile t holds x. -/
def State.putAcc (s : State) (t k : Nat) (x : Acc) : State := s.setC t { s.c t with accs := (s.c t).accs.set k x }

theorem State.accs_putAcc (s : State) (t k : Nat) (x : Acc) : ((s.putAcc t k x).c t).accs.getD k {} = x := by
  unfold State.putAcc
  rw [State.c_setC_self]
  exact AMap.getD_set_self _ _ _ _

theorem State.slotOf_putAcc (s : State) (t k : Nat) (x : Acc) (g i : Nat) : ((s.putAcc t k x).c t).slotOf g i = (s.c t).slotOf g i := by
  unfold State.putAcc
  rw [State.c_setC_self]; rfl

section

variable {s : State} {t k g n : Nat} {x : Acc} {j : Job} {rest : List Job}

theorem matrixJobDone_runs (tile : t < Config.numTiles) (noFiring : (s.c t).firingDue = false)
    (goes : (s.c t).accParked k = false ∨ ((s.c t).accs.getD k {}).work.isSome = true) : exec (.matrixJobDone t k) s = .next (s.jobDone t k) := by
  change execMatrixJobDone t k s = _
  unfold execMatrixJobDone
  rw [onTile_lt tile]
  refine congrArg _ (if_neg ?_)
  rintro (due | ⟨parked, idle⟩)
  · rw [noFiring] at due; nomatch due
  · cases goes with
    | inl free => rw [free] at parked; nomatch parked
    | inr runs => rw [Option.isNone_eq_false_iff.2 runs] at idle; nomatch idle

variable (acc : (s.c t).accs.getD k {} = x) (jobs : x.jobs = j :: rest) (frame : x.frame = some g)
include acc jobs frame

theorem State.jobDone_marm (op : j.op = .marm n) : s.jobDone t k =
    s.putAcc t k { x with left := min (x.left + j.a.toNat) 65535, armed := j.site, jobs := rest } := by
  unfold State.jobDone
  dsimp only
  rw [acc, jobs, frame]
  dsimp only
  rw [op]; rfl

theorem State.jobDone_mzero (op : j.op = .mzero n) (quiet : x.quiet = true) : s.jobDone t k =
    s.putAcc t k { x with elems := [], st := .empty, flags := 0, jobs := rest } := by
  unfold State.jobDone
  dsimp only
  rw [acc, jobs, frame]
  dsimp only
  rw [op]
  exact if_pos quiet

theorem State.jobDone_mscale (op : j.op = .mscale n) (quiet : x.quiet = true) (idle : x.work = none) : s.jobDone t k =
    s.putAcc t k { x with work := some (x.st, 0), st := .busy } := by
  unfold State.jobDone
  dsimp only
  rw [acc, jobs, frame]
  dsimp only
  rw [op]
  dsimp only
  rw [idle]
  refine (if_pos quiet).trans ?_
  rw [← frame, ← jobs]; rfl

theorem State.jobDone_mscale_ends {st : AccSt} {fs : W64} (op : j.op = .mscale n) (work : x.work = some (st, fs)) : s.jobDone t k =
    (let w := x.conf.getD 0
     let l := (List.range (MConf.rows w * MConf.cols w)).map fun e => scaleElem j.a.toNat (x.elems.getD e 0)
     s.putAcc t k { x with elems := (List.range l.length).map fun e => (e, BitVec.ofNat 48 (l.getD e (0, 0)).1), st := st, work := none,
                           jobs := rest, flags := l.foldl (fun f r => f ||| r.2) x.flags }) := by
  unfold State.jobDone
  dsimp only
  rw [acc, jobs, frame]
  dsimp only
  rw [op]
  dsimp only
  rw [work]
  rfl

theorem State.jobDone_mcfg (op : j.op = .mcfg n) (quiet : x.quiet = true) : s.jobDone t k =
    (s.putAcc t k { x with conf := some j.a, integer := j.b == 1, elems := [], st := .empty, fired := 0, srcA := none, srcB := none, flags := 0,
                           jobs := rest }).emptyUsed t g := by
  unfold State.jobDone
  dsimp only
  rw [acc, jobs, frame]
  dsimp only
  rw [op]
  exact if_pos quiet

theorem State.jobDone_msrca (op : j.op = .msrca n) (quiet : x.quiet = true) : s.jobDone t k =
    (s.putAcc t k { x with srcA := some ⟨j.a, j.b, 0⟩, jobs := rest }).emptyUsed t g := by
  unfold State.jobDone
  dsimp only
  rw [acc, jobs, frame]
  dsimp only
  rw [op]
  exact if_pos quiet

theorem State.jobDone_msrcb (op : j.op = .msrcb n) (quiet : x.quiet = true) : s.jobDone t k =
    (s.putAcc t k { x with srcB := some ⟨j.a, j.b, 0⟩, jobs := rest }).emptyUsed t g := by
  unfold State.jobDone
  dsimp only
  rw [acc, jobs, frame]
  dsimp only
  rw [op]
  exact if_pos quiet

variable {ix : Nat} {q : Slot} (slot : (s.c t).slotOf g (MDesc.slot j.b) = some (ix, q))
include slot

theorem State.jobDone_mloadc (op : j.op = .mloadc n) (idle : x.work = none) (quiet : x.quiet = true) (full : q.full = true) : s.jobDone t k =
    (let fs := ((s.c t).frame g).fsOf (MDesc.fs j.a)
     if loadcOk fs x.integer then
       s.putAcc t k { x with elems := (s.c t).loadElems q.base (x.conf.getD 0) j.a fs x.integer, work := some (x.st, fs), st := .busy }
     else (s.putAcc t k { x with jobs := rest }).abortFrame t g j.site (matcfg 1 n)) := by
  unfold State.jobDone
  dsimp only
  rw [acc, jobs, frame]
  dsimp only
  rw [op]
  dsimp only
  rw [idle, slot]
  refine (if_neg (by simp [quiet, full])).trans ?_
  by_cases ok : loadcOk (((s.c t).frame g).fsOf (MDesc.fs j.a)) x.integer = true
  · exact (if_neg (by simp [ok])).trans (if_pos ok).symm
  · exact (if_pos (by simp [ok])).trans (if_neg ok).symm

theorem State.jobDone_mloadc_ends {fs : AccSt × W64} (op : j.op = .mloadc n) (work : x.work = some fs) : s.jobDone t k =
    (let u := s.putAcc t k { x with st := .accum, work := none, flags := 0, jobs := rest }
     if MDesc.keep j.b then u else u.emptySlot t ix false) := by
  unfold State.jobDone
  dsimp only
  rw [acc, jobs, frame]
  dsimp only
  rw [op]
  dsimp only
  rw [work, slot]
  rfl

theorem State.jobDone_mdrain (op : j.op = .mdrain n) (idle : x.work = none) (quiet : x.quiet = true) (empty : q.stateNum = 0) : s.jobDone t k =
    (let fs := ((s.c t).frame g).fsOf (MDesc.fs j.a)
     if drainOk fs then s.putAcc t k { x with work := some (x.st, fs), st := .busy }
     else (s.putAcc t k { x with jobs := rest }).abortFrame t g j.site (matcfg 1 n)) := by
  unfold State.jobDone
  dsimp only
  rw [acc, jobs, frame]
  dsimp only
  rw [op]
  dsimp only
  rw [idle, slot]
  refine (if_neg (by simp [quiet, empty])).trans ?_
  by_cases ok : drainOk (((s.c t).frame g).fsOf (MDesc.fs j.a)) = true
  · refine (if_neg (by simp [ok])).trans (Eq.trans ?_ (if_pos ok).symm)
    rw [← frame, ← jobs]; rfl
  · exact (if_pos (by simp [ok])).trans (if_neg ok).symm

theorem State.jobDone_mdrain_ends {st : AccSt} {fs : W64} (op : j.op = .mdrain n) (work : x.work = some (st, fs)) : s.jobDone t k =
    (let r := (s.c t).drainTo q.base x (x.conf.getD 0) j.a fs j.sr
     (s.putAcc t k { x with elems := [], st := .empty, work := none, jobs := rest, flags := x.flags ||| r.2 }).modC t fun c =>
       { c with scratch := r.1 }.modSlot ix fun q => { q with full := true }) := by
  unfold State.jobDone
  dsimp only
  rw [acc, jobs, frame]
  dsimp only
  rw [op]
  dsimp only
  rw [work, slot]
  rfl

end

end Sys2Proof.Machine

end

/-! PROOFS. The bytes that a drain writes (R154, R276, R283), and the matrix array, its jobs, power and spines altogether. -/

section

namespace Sys2Proof.Machine

/-! ### Memory after several writes -/

/-- Memory with byte v x at address a x for each x of a list. -/
def Memory.writeAll {α : Type} (m : Memory) (a : α → Nat) (v : α → Byte) (l : List α) : Memory := l.foldl (fun m x => m.write (a x) (v x)) m

theorem Memory.read_writeAll_outside {α : Type} (m : Memory) (a : α → Nat) (v : α → Byte) {l : List α} {b : Nat} (outside : ∀ x ∈ l, b ≠ a x) :
    (m.writeAll a v l).read b = m.read b := by
  induction l generalizing m with
  | nil => rfl
  | cons x l ih =>
    obtain ⟨here, later⟩ := List.forall_mem_cons.1 outside
    exact (ih _ later).trans ((m.read_write _ _ _).trans (if_neg here))

theorem Memory.read_writeAll {α : Type} (m : Memory) (a : α → Nat) (v : α → Byte) {l : List α} {x : α} (among : x ∈ l)
    (apart : ∀ y ∈ l, a y = a x → y = x) : (m.writeAll a v l).read (a x) = v x := by
  induction l generalizing m with
  | nil => nomatch among
  | cons y l ih =>
    obtain ⟨here, later⟩ := List.forall_mem_cons.1 apart
    by_cases again : x ∈ l
    · exact ih _ again later
    · cases (List.mem_cons.1 among).resolve_right again
      have outside : ∀ z ∈ l, a x ≠ a z := fun z mem same => again (later z mem same.symm ▸ mem)
      exact (Memory.read_writeAll_outside _ a v outside).trans ((m.read_write _ _ _).trans (if_pos rfl))

/-! ### Rows of codes (R154) -/

theorem FmtSlot.elemBits_cases (code : Nat) : FmtSlot.elemBits code = 4 ∨ 8 ∣ FmtSlot.elemBits code := by
  unfold FmtSlot.elemBits
  split <;> decide

theorem length_packRow (code : Nat) (l : List Nat) (even : 2 ∣ l.length) :
    (packRow (FmtSlot.elemBits code) l).length = l.length * FmtSlot.elemBits code / 8 := by
  unfold packRow
  by_cases four : FmtSlot.elemBits code = 4
  · rw [if_pos four, four, List.length_map, List.length_range]
    omega
  · obtain ⟨n, bytes⟩ := (FmtSlot.elemBits_cases code).resolve_left four
    rw [if_neg four, bytes, List.length_flatMap, Nat.mul_div_cancel_left n (by decide)]
    simp only [length_toBytes, List.map_const', List.sum_replicate, smul_eq_mul]
    rw [Nat.mul_left_comm, Nat.mul_div_cancel_left _ (by decide)]

theorem getD_packRow_four (l : List Nat) {b : Nat} (lt : b < l.length / 2) :
    (packRow 4 l).getD b 0 = BitVec.ofNat 8 (l.getD (2 * b) 0 + 16 * l.getD (2 * b + 1) 0) := by
  rw [packRow, if_pos rfl, List.getD_eq_getElem?_getD, List.getElem?_map, List.getElem?_range lt]
  rfl

theorem getD_flatMap_toBytes (l : List Nat) (n : Nat) {e z : Nat} (elem : e < l.length) (byte : z < n) :
    (l.flatMap fun v => toBytes v n).getD (e * n + z) 0 = (toBytes (l.getD e 0) n).getD z 0 := by
  induction l generalizing e with
  | nil => nomatch elem
  | cons v l ih =>
    rw [List.flatMap_cons]
    cases e with
    | zero => rw [Nat.zero_mul, Nat.zero_add, List.getD_append _ _ _ _ (by rw [length_toBytes]; exact byte), List.getD_cons_zero]
    | succ e =>
      rw [List.getD_append_right _ _ _ _ (by rw [length_toBytes, Nat.succ_mul]; omega), length_toBytes, List.getD_cons_succ,
        ← ih (Nat.lt_of_succ_lt_succ elem)]
      congr 1
      rw [Nat.succ_mul]; omega

theorem getD_packRow_bytes {bits : Nat} (l : List Nat) (other : bits ≠ 4) {e z : Nat} (elem : e < l.length) (byte : z < bits / 8) :
    (packRow bits l).getD (e * (bits / 8) + z) 0 = (toBytes (l.getD e 0) (bits / 8)).getD z 0 := by
  rw [packRow, if_neg other]
  exact getD_flatMap_toBytes l _ elem byte

/-! ### A drain (R276, R283) -/

/-- Where a descriptor is in order, the bytes of its rows are apart. -/
theorem MDesc.rowByte_inj {w0 w1 : W64} {n i i' b b' : Nat} (ok : MDesc.ok w0 w1 n = true) (lt : b < n) (lt' : b' < n)
    (same : MDesc.rowByte w0 0 i b = MDesc.rowByte w0 0 i' b') : i = i' ∧ b = b' := by
  have pitch : n ≤ MDesc.rpitch w0 := by simp [MDesc.ok] at ok; omega
  unfold MDesc.rowByte at same
  generalize MDesc.rpitch w0 = r at pitch same
  have low (c : Nat) : c % r < r := Nat.mod_lt _ (by omega)
  have row : i = i' := by
    have whole (i m : Nat) (lt : m < r) : (i * r + m) / r = i := by
      rw [Nat.mul_comm, Nat.mul_add_div (by omega), Nat.div_eq_of_lt lt, Nat.add_zero]
    rw [← whole i _ (low (b + 128 * MDesc.rot w0 * i)), ← whole i' _ (low (b' + 128 * MDesc.rot w0 * i'))]
    congr 1
    omega
  subst row
  have rot : b + 128 * MDesc.rot w0 * i ≡ b' + 128 * MDesc.rot w0 * i [MOD r] := by unfold Nat.ModEq; omega
  exact ⟨rfl, Nat.ModEq.eq_of_lt_of_lt (Nat.ModEq.add_right_cancel' _ rot) (by omega) (by omega)⟩

/-- The code of element e of row i, and its flags. -/
def CDom.drainCode (c : CDom) (x : Acc) (w fs : W64) (middle : List Byte) (i e : Nat) : Nat × FpFlags :=
  drainElem fs (c.drainRnd fs middle (i * 32 + e)) x.integer (x.elems.getD (i * MConf.cols w + e) 0)

/-- The bytes of row i. -/
def CDom.drainRow (c : CDom) (x : Acc) (w fs : W64) (middle : List Byte) (i : Nat) : List Byte :=
  packRow (FmtSlot.elemBits (FmtSlot.fmt fs)) ((List.range (MConf.cols w)).map fun e => (c.drainCode x w fs middle i e).1)

/-- The rows and bytes that a drain writes. -/
def drainPlaces (w fs : W64) : List (Nat × Nat) :=
  (List.range (MConf.rows w)).flatMap fun i => (List.range (MConf.cols w * FmtSlot.elemBits (FmtSlot.fmt fs) / 8)).map fun b => (i, b)

theorem mem_drainPlaces {w fs : W64} {i b : Nat} :
    (i, b) ∈ drainPlaces w fs ↔ i < MConf.rows w ∧ b < MConf.cols w * FmtSlot.elemBits (FmtSlot.fmt fs) / 8 := by
  simp [drainPlaces]

theorem MConf.two_dvd_cols (w : W64) : 2 ∣ MConf.cols w := ⟨4 * 2 ^ bits w 3 2, by unfold MConf.cols; omega⟩

theorem CDom.length_drainRow (c : CDom) (x : Acc) (w fs : W64) (middle : List Byte) (i : Nat) :
    (c.drainRow x w fs middle i).length = MConf.cols w * FmtSlot.elemBits (FmtSlot.fmt fs) / 8 := by
  unfold CDom.drainRow
  rw [length_packRow _ _ (by simpa using MConf.two_dvd_cols w), List.length_map, List.length_range]

theorem CDom.drainTo_flags (c : CDom) (area : Nat) (x : Acc) (w w0 fs : W64) (middle : List Byte) : (c.drainTo area x w w0 fs middle).2 =
    (List.range (MConf.rows w)).foldl (fun f i => (List.range (MConf.cols w)).foldl (fun f e => f ||| (c.drainCode x w fs middle i e).2) f) 0 := by
  unfold CDom.drainTo
  dsimp only
  refine (List.foldl_hom Prod.snd fun a i => ?_).symm
  dsimp only
  rw [List.foldl_map]
  rfl

theorem CDom.drainTo_memory (c : CDom) (area : Nat) (x : Acc) (w w0 fs : W64) (middle : List Byte) : (c.drainTo area x w w0 fs middle).1 =
    c.scratch.writeAll (fun p : Nat × Nat => area + MDesc.rowByte w0 0 p.1 p.2) (fun p => (c.drainRow x w fs middle p.1).getD p.2 0)
      (drainPlaces w fs) := by
  unfold CDom.drainTo Memory.writeAll drainPlaces
  dsimp only
  rw [List.foldl_flatMap]
  refine (List.foldl_hom Prod.fst fun a i => ?_).symm
  rw [List.foldl_map, ← c.length_drainRow x w fs middle i]
  unfold CDom.drainRow
  dsimp only
  rw [List.map_map]
  rfl

theorem CDom.read_drainTo (c : CDom) (area : Nat) (x : Acc) {w w0 w1 fs : W64} (middle : List Byte)
    (ok : MDesc.ok w0 w1 (MConf.cols w * FmtSlot.elemBits (FmtSlot.fmt fs) / 8) = true) {i b : Nat} (row : i < MConf.rows w)
    (lt : b < MConf.cols w * FmtSlot.elemBits (FmtSlot.fmt fs) / 8) :
    (c.drainTo area x w w0 fs middle).1.read (area + MDesc.rowByte w0 0 i b) = (c.drainRow x w fs middle i).getD b 0 := by
  rw [CDom.drainTo_memory]
  refine Memory.read_writeAll _ _ _ (x := (i, b)) (mem_drainPlaces.2 ⟨row, lt⟩) fun p among same => ?_
  obtain ⟨rows, bytes⟩ := MDesc.rowByte_inj ok (mem_drainPlaces.1 among).2 lt (Nat.add_left_cancel same)
  exact Prod.ext rows bytes

theorem CDom.read_drainTo_outside (c : CDom) (area : Nat) (x : Acc) {w w0 fs : W64} (middle : List Byte) {a : Nat}
    (outside : ∀ i < MConf.rows w, ∀ b < MConf.cols w * FmtSlot.elemBits (FmtSlot.fmt fs) / 8, a ≠ area + MDesc.rowByte w0 0 i b) :
    (c.drainTo area x w w0 fs middle).1.read a = c.scratch.read a := by
  rw [CDom.drainTo_memory]
  exact Memory.read_writeAll_outside _ _ _ fun p among => outside p.1 (mem_drainPlaces.1 among).1 p.2 (mem_drainPlaces.1 among).2

section

variable (c : CDom) (x : Acc) {w fs : W64} (middle : List Byte) (i : Nat)

theorem CDom.getD_drainCodes {e : Nat} (lt : e < MConf.cols w) :
    ((List.range (MConf.cols w)).map fun e => (c.drainCode x w fs middle i e).1).getD e 0 = (c.drainCode x w fs middle i e).1 := by
  rw [List.getD_eq_getElem?_getD, List.getElem?_map, List.getElem?_range lt]
  rfl

theorem CDom.getD_drainRow_bytes (other : FmtSlot.elemBits (FmtSlot.fmt fs) ≠ 4) {e z : Nat} (elem : e < MConf.cols w)
    (byte : z < FmtSlot.elemBits (FmtSlot.fmt fs) / 8) : (c.drainRow x w fs middle i).getD (e * (FmtSlot.elemBits (FmtSlot.fmt fs) / 8) + z) 0 =
      (toBytes (c.drainCode x w fs middle i e).1 (FmtSlot.elemBits (FmtSlot.fmt fs) / 8)).getD z 0 := by
  unfold CDom.drainRow
  rw [getD_packRow_bytes _ other (by simpa using elem) byte, c.getD_drainCodes x middle i elem]

theorem CDom.getD_drainRow_four (four : FmtSlot.elemBits (FmtSlot.fmt fs) = 4) {b : Nat} (lt : b < MConf.cols w / 2) :
    (c.drainRow x w fs middle i).getD b 0 =
      BitVec.ofNat 8 ((c.drainCode x w fs middle i (2 * b)).1 + 16 * (c.drainCode x w fs middle i (2 * b + 1)).1) := by
  unfold CDom.drainRow
  rw [four, getD_packRow_four _ (by simpa using lt), c.getD_drainCodes x middle i (by omega), c.getD_drainCodes x middle i (by omega)]

end

/-- The bytes of an element lie in its row. -/
theorem FmtSlot.byte_lt {code cols e z : Nat} (elem : e < cols) (other : FmtSlot.elemBits code ≠ 4) (byte : z < FmtSlot.elemBits code / 8) :
    e * (FmtSlot.elemBits code / 8) + z < cols * FmtSlot.elemBits code / 8 := by
  obtain ⟨n, bytes⟩ := (FmtSlot.elemBits_cases code).resolve_left other
  rw [bytes, Nat.mul_div_cancel_left n (by decide)] at byte ⊢
  rw [Nat.mul_left_comm, Nat.mul_div_cancel_left _ (by decide)]
  calc e * n + z < (e + 1) * n := by rw [Nat.succ_mul]; omega
    _ ≤ cols * n := Nat.mul_le_mul_right n elem

/-! ### What a job leaves -/

theorem CDom.slotOf_scratch (c : CDom) (m : Memory) (g i : Nat) : CDom.slotOf { c with scratch := m } g i = c.slotOf g i := rfl

section

variable {s : State} {t k g n : Nat} {x : Acc} {j : Job} {rest : List Job}

theorem State.acc_of_putAcc {u : State} {y : Acc} (h : u = s.putAcc t k y) : (u.c t).accs.getD k {} = y := by
  rw [h, State.accs_putAcc]

theorem State.acc_of_emptyUsed {u : State} {y : Acc} {f : Nat} (h : u = (s.putAcc t k y).emptyUsed t f) : (u.c t).accs.getD k {} = y := by
  rw [h, State.accs_emptyUsed, State.accs_putAcc]

variable (acc : (s.c t).accs.getD k {} = x) (jobs : x.jobs = j :: rest) (frame : x.frame = some g) {ix : Nat} {q : Slot}
  (slot : (s.c t).slotOf g (MDesc.slot j.b) = some (ix, q))
include acc jobs frame slot

theorem State.mloadc_ends {fs : AccSt × W64} (op : j.op = .mloadc n) (work : x.work = some fs) :
    ((s.jobDone t k).c t).accs.getD k {} = { x with st := .accum, work := none, flags := 0, jobs := rest } ∧
      ((s.jobDone t k).c t).slotOf g (MDesc.slot j.b) = some (ix, if MDesc.keep j.b then q else q.cleared) := by
  rw [State.jobDone_mloadc_ends acc jobs frame slot op work]
  have there (y : Acc) : ((s.putAcc t k y).c t).slotOf g (MDesc.slot j.b) = some (ix, q) := (s.slotOf_putAcc t k y g _).trans slot
  dsimp only
  split
  · exact ⟨s.accs_putAcc t k _, there _⟩
  · refine ⟨?_, State.slotOf_emptySlot (there _)⟩
    rw [State.accs_emptySlot]
    exact s.accs_putAcc t k _

theorem State.mdrain_ends {st : AccSt} {fs : W64} (op : j.op = .mdrain n) (work : x.work = some (st, fs)) :
    ((s.jobDone t k).c t).accs.getD k {} = { x with elems := [], st := .empty, work := none, jobs := rest, flags := x.flags |||
      ((s.c t).drainTo q.base x (x.conf.getD 0) j.a fs j.sr).2 } ∧
    ((s.jobDone t k).c t).slotOf g (MDesc.slot j.b) = some (ix, { q with full := true }) ∧
    ((s.jobDone t k).c t).scratch = ((s.c t).drainTo q.base x (x.conf.getD 0) j.a fs j.sr).1 := by
  rw [State.jobDone_mdrain_ends acc jobs frame slot op work]
  dsimp only
  rw [State.c_modC_self]
  refine ⟨?_, CDom.slotOf_modSlot ?_ _, ?_⟩
  · rw [CDom.accs_modSlot]
    exact s.accs_putAcc t k _
  · rw [CDom.slotOf_scratch, State.slotOf_putAcc]
    exact slot
  · rw [CDom.scratch_modSlot]

end

/-! ### The statement -/

/-- Settles O38. -/
theorem matrixArrayAndPower : Obligations.MatrixArrayAndPower := by
  unfold Obligations.MatrixArrayAndPower
  intro t f s tile field c
  refine ⟨?firingStart, ?kStep, ?firingEnd, ?jobs, ?sort, ?grant, ?sample, ?rail, ?early, spineSwitch_follows tile⟩
  case firingStart =>
    exact fun k x w idle noSort next acc conf => ⟨fun fits => matrixFiringStart_starts tile idle noSort next acc conf rfl rfl fits,
      fun bad => matrixFiringStart_aborts tile idle noSort next acc conf bad⟩
  case kStep =>
    intro k done left first units fsa fsb firing covered free fresh due
    refine ⟨_, kStep_steps tile firing (State.kStepPaid_eq covered free fresh due), ?_⟩
    rw [State.c_modC_self, State.c_payKStep]
    exact ⟨rfl, rfl, rfl, congrArg Acc.elems (AMap.getD_set_self _ _ _ _)⟩
  case firingEnd => exact fun k done first units fsa fsb firing listed noJob => matrixFiringEnd_counts tile firing listed noJob
  case sort =>
    exact fun x q idle sort covered free fresh due k keys n t0 t1 wait =>
      msortPass_pays tile idle sort (State.kStepPaid_eq covered free fresh due) wait
  case grant =>
    intro inp due powered free
    refine ⟨powerGrant_grants field inp due powered free, State.grantTick_powerGrant _ f inp, fun j lt => ?_⟩
    obtain ⟨g, got⟩ := State.c_powerGrant ((s.newThresholds f).sensed f ((s.newThresholds f).hub f).temp) f inp lt
    rw [got]
    exact CDom.grant_bounds _ g
  case sample =>
    intro n due
    refine ⟨_, railCurrentSample_reports field n due, ?_⟩
    rw [State.hub_modHub_self]
    exact ⟨rfl, rfl⟩
  case rail => exact fun n => rfl
  case early => exact fun n early => railCurrentSample_early field n early
  case jobs =>
    intro k noFiring goes
    refine ⟨matrixJobDone_runs tile noFiring goes, fun j rest g jobs frame => ⟨?marm, ?mzero, ?mscale, ?mscaleEnds, ?mcfg, ?msrca, ?msrcb, ?mloadc,
      ?mloadcEnds, ?mdrain, ?mdrainEnds⟩⟩
    case marm => exact fun n op => State.acc_of_putAcc (State.jobDone_marm rfl jobs frame op)
    case mzero => exact fun n op quiet => State.acc_of_putAcc (State.jobDone_mzero rfl jobs frame op quiet)
    case mscale => exact fun n op quiet idle => State.acc_of_putAcc (State.jobDone_mscale rfl jobs frame op quiet idle)
    case mscaleEnds => exact fun n st fs op work => State.acc_of_putAcc (State.jobDone_mscale_ends rfl jobs frame op work)
    case mcfg => exact fun n op quiet => State.acc_of_emptyUsed (State.jobDone_mcfg rfl jobs frame op quiet)
    case msrca => exact fun n op quiet => State.acc_of_emptyUsed (State.jobDone_msrca rfl jobs frame op quiet)
    case msrcb => exact fun n op quiet => State.acc_of_emptyUsed (State.jobDone_msrcb rfl jobs frame op quiet)
    case mloadc =>
      exact fun n ix q op idle quiet slot full =>
        ⟨fun bad => (State.jobDone_mloadc rfl jobs frame slot op idle quiet full).trans (if_neg (by rw [bad]; exact Bool.false_ne_true)),
         fun ok => State.acc_of_putAcc ((State.jobDone_mloadc rfl jobs frame slot op idle quiet full).trans (if_pos ok))⟩
    case mloadcEnds => exact fun n fs ix q op work slot => State.mloadc_ends rfl jobs frame slot op work
    case mdrain =>
      exact fun n ix q op idle quiet slot empty =>
        ⟨fun bad => (State.jobDone_mdrain rfl jobs frame slot op idle quiet empty).trans (if_neg (by rw [bad]; exact Bool.false_ne_true)),
         fun ok => State.acc_of_putAcc ((State.jobDone_mdrain rfl jobs frame slot op idle quiet empty).trans (if_pos ok))⟩
    case mdrainEnds =>
      intro n st fs ix q op work slot bs elem
      obtain ⟨left, full, bytes⟩ := State.mdrain_ends rfl jobs frame slot op work
      rw [CDom.drainTo_flags] at left
      refine ⟨left, full, fun ok => ⟨fun i row e col other z byte => ?_, fun four i row b lt => ?_, fun a outside => ?_⟩⟩
      · exact (congrArg (Memory.read · _) bytes).trans ((CDom.read_drainTo _ _ _ _ ok row (FmtSlot.byte_lt col other byte)).trans
          (CDom.getD_drainRow_bytes _ _ _ i other col byte))
      · exact (congrArg (Memory.read · _) bytes).trans ((CDom.read_drainTo _ _ _ _ ok row (by rw [show FmtSlot.elemBits _ = 4 from four]; omega)).trans
          (CDom.getD_drainRow_four _ _ _ i four lt))
      · exact (congrArg (Memory.read · _) bytes).trans (CDom.read_drainTo_outside _ _ _ _ outside)

end Sys2Proof.Machine

end
